-- ==== Sys2Proof/Word.lean ====
section
/-! DEFINITION. The word types of the Kamso N9600 and the shape of a sparse table.

`SMap α` is the plain data every indexed store of the model is held in: a list of key and value pairs, keys
strictly rising, no entry equal to the table's default (the operations and the canonical form are in Machine/Ops.lean). -/
namespace Sys2Proof

/-- A CSR register, a 32-bit word (spec 00 R7). -/
abbrev Word32 := BitVec 32
/-- A general register, a control register, a predicate (02 R29). -/
abbrev Word64 := BitVec 64
/-- A byte. -/
abbrev Byte := BitVec 8
/-- A vector register (02 R29). -/
abbrev VReg := BitVec 512

/-- A sparse table: pairs of key and value, keys strictly rising. -/
abbrev SMap (α : Type) := List (Nat × α)

end Sys2Proof
end

