-- ==== Sys2Proof/Syntax.lean ====
section
/-! DEFINITION. The commands of the Kamso N9600: one constructor of `Instr` per row of spec/opcode_table.json, and the
operand records they carry. An Islet operation carries its own slot's fields (02 R36, R39, R46, R48) and, as raw slot
words, the other four slots of the bundle it is issued in (R31). An event carries what the outside world brings: the
instant of TB3 at which it happens, the data, the measured value or the engine's result that the spec does not compute. -/
namespace Sys2Proof

/-- An Islet index, 0–3,071 (01 R15). -/
abbrev IsletId := Fin 3072

/-- Which scalar slot an operation stands in (02 R36). -/
inductive SlotSel
  | s0 | s1
  deriving DecidableEq, Repr

/-- The raw words of the five slots of a bundle (02 R31); the word of the command's own slot is not read. -/
structure Rest where
  s0 : BitVec 48
  s1 : BitVec 40
  m : BitVec 48
  v : BitVec 64
  t : BitVec 56
  deriving DecidableEq, Repr

/-- Fields of a scalar slot (R36); slot S1 holds the low 14 bits of the immediate. -/
structure SArgs where
  slot : SlotSel
  pred : BitVec 4
  rd : BitVec 5
  rs1 : BitVec 5
  rs2 : BitVec 5
  imm : BitVec 21
  deriving DecidableEq, Repr

/-- Fields of the M slot (R39). -/
structure MArgs where
  pred : BitVec 4
  rd : BitVec 5
  base : BitVec 5
  index : BitVec 5
  size : BitVec 3
  off : BitVec 20
  deriving DecidableEq, Repr

/-- Fields of the V slot (R46). -/
structure VArgs where
  pred : BitVec 4
  vd : BitVec 5
  va : BitVec 5
  vb : BitVec 5
  vc : BitVec 5
  etype : BitVec 4
  sat : Bool
  rsv : BitVec 3
  imm : BitVec 24
  deriving DecidableEq, Repr

/-- Fields of the tensor form of the T slot (R48). -/
structure TArgs where
  pred : BitVec 4
  td : BitVec 3
  va : BitVec 5
  vb : BitVec 5
  etype : BitVec 4
  sat : Bool
  acc : BitVec 2
  imm : BitVec 26
  deriving DecidableEq, Repr

/-- Fields of the buoy form of the T slot (R48). -/
structure BArgs where
  pred : BitVec 4
  rd : BitVec 5
  rb : BitVec 5
  rs : BitVec 5
  imm : BitVec 16
  rsv : BitVec 15
  deriving DecidableEq, Repr

/-- Who writes or reads a CSR register: the host through BAR0, or unit 0 over the Causeway UP port (12 R349). -/
inductive Master
  | chain | host
  deriving DecidableEq, Repr


/-- What the Pilot brings to the load of a unit (04 R116, R117, R149: its own choice): its estimate of the shortest period
in µs, the Isle of the unit's objects, the Islets of every layer in rank order, the planned tier of every weight object, and
the handler address that the unit's program header gives (02 R63; the header's layout is not in the spec, log entry 27). -/
structure UnitPlan where
  slot : Fin 32
  achievable : BitVec 32
  isle : Fin 2
  islets : List (List IsletId)
  tiers : List (Fin 4)
  evec : BitVec 48
  deriving DecidableEq, Repr

/-- What the board fits at a first power-on (12 R334, 14 R395, 10 R278): the NOR flash as stretches of bytes, the OTP's unique id and
vendor key hash, the NAND blocks with the factory mark, by PPA >> 40. -/
structure Fitted where
  nor : List (Nat × List Byte)
  uid : List Byte
  vendorHash : List Byte
  bad : List Nat
  deriving DecidableEq, Repr

/-- What a NAND target answers at training (10 R270–R272): whether it trains, its Read ID bytes, and what its parameter page says of the part: LUNs,
planes, pages of a block, bits of a cell, blocks of a LUN, data and spare bytes of a page, program, read and erase time at most, µs. -/
structure NandPart where
  trains : Bool
  readId : BitVec 64
  luns : Byte
  planes : Byte
  pagesPerBlock : BitVec 16
  bitsPerCell : Byte
  blocksPerLun : BitVec 32
  dataBytes : BitVec 16
  spareBytes : BitVec 16
  progUs : BitVec 16
  readUs : BitVec 16
  eraseUs : BitVec 32
  deriving DecidableEq, Repr

/-- What BOOT and TRAIN find (13 R365, R374, 10 R271, R272, 14 R402): the lanes that train on UP and DOWN, the targets of each ONFI channel,
whether a seed drawn now passes its tests and its read-back. -/
structure BootIn where
  lanesUp : BitVec 4
  lanesDown : BitVec 4
  parts : List (List NandPart)
  entropyOk : Bool
  deriving DecidableEq, Repr

/-- A new level of a wheel-tick input (07 R207): its direction, and for how many ns it has held. -/
structure WheelLevel where
  rising : Bool
  held : Nat
  deriving DecidableEq, Repr

/-- What a CAN frame brings (07 R208): whether it is received without an error, and its payload. -/
structure CanPayload where
  good : Bool
  data : List Byte
  deriving DecidableEq, Repr

/-- The read that a sweep waits for (11 R319): whether the page could be read, and the TB3 instant. -/
structure SweepRead where
  readable : Bool
  t : Nat
  deriving DecidableEq, Repr

/-- The identities in configuration space (13 R384). -/
inductive ConfigId
  | vendor | device | revision | classCode | subVendor | subsystem
  deriving DecidableEq, Repr

/-- What a configuration request does in the standard header (13 R384, 15 R417): Bus Master Enable as it writes it, the identity that it reads. -/
structure HeaderAccess where
  bme : Option Bool
  rd : Option ConfigId
  deriving DecidableEq, Repr

/-- What a wake from SLEEP finds (13 R371, R372): the resume_fail code of an image that cannot be used (0 for one that can: 1 NO_IMAGE,
2 MAC_FAIL, 3 TOO_LARGE, 4 PSRAM_ERROR), whether mac_rest verifies, what a cold start in its place finds, the Pilot's plans. -/
structure WakeIn where
  fail : Fin 5
  restOk : Bool
  boot : BootIn
  plans : List UnitPlan
  deriving DecidableEq, Repr

/-- What an Announce message tells (07 R198, R199): the fields of the best-master comparison in its order, the
grandmasterIdentity among them, the announced sync interval and the announce interval in ns. -/
structure Announce where
  priority1 : Byte
  clockClass : Byte
  clockAccuracy : Byte
  variance : BitVec 16
  priority2 : Byte
  gmId : Word64
  steps : BitVec 16
  srcPort : BitVec 80
  syncNs : Word64
  annNs : Word64
  deriving DecidableEq, Repr

/-- A position of a GGA sentence (08 R222): the second it belongs to, UTC in ns since 1970 without leap seconds, latitude,
longitude and height in 1e-9 degrees and mm. -/
structure GnssPos where
  second : Word64
  lat : Int
  lon : Int
  height : Int
  deriving DecidableEq, Repr

/-- The accuracy of a GST sentence (08 R222): its second, and three F32 standard deviations in m. -/
structure GnssAcc where
  second : Word64
  x : BitVec 32
  y : BitVec 32
  z : BitVec 32
  deriving DecidableEq, Repr

/-- A valid NMEA 0183 sentence on GNSS_RX (07 R202): the time that a ZDA or RMC sentence carries, UTC in ns since 1970
without leap seconds, and the position of a sentence that carries one. -/
structure Nmea where
  label : Option Word64
  pos : Option GnssPos
  acc : Option GnssAcc
  deriving DecidableEq, Repr

/-- A record of the map journal (10 R281): type, priority, tile indices, id, and the body after the 16-byte header. -/
structure MapRec where
  typ : Byte
  prio : BitVec 2
  tileX : BitVec 32
  tileY : BitVec 32
  id : BitVec 32
  body : List Byte
  deriving DecidableEq, Repr

/-- A request to a tier (05 R140): a queued load, a posted store or a tow of an Islet by its place in the queue, or the part in transfer of an
object's move: its write at the destination, else its read at the source. -/
inductive TierReq
  | load (i : IsletId) (k : Nat)
  | store (i : IsletId) (k : Nat)
  | tow (i : IsletId) (k : Fin 8)
  | move (id : BitVec 24) (atDest : Bool)
  deriving DecidableEq, Repr

/-- The step of 10 R302 at which a page read succeeds, if one does. -/
inductive ReadEnd
  | hard | retry | soft | parity | uncorrectable
  deriving DecidableEq, Repr

/-- A move with which the Pilot rebalances (05 R149, R150): the object, the tier and instance it goes to, the hit rate that drove it and
its previous value, per mille. -/
structure PilotMove where
  id : BitVec 24
  tier : Fin 4
  inst : Fin 6
  metric : Word32
  target : Word32
  deriving DecidableEq, Repr

/-- New steering shares of the Reef engines, the Pilot's own (11 R327): a share for each of the 16, the reason code (05 R155), metric and
target of its record. -/
structure ReefShares where
  shares : List Byte
  reason : Fin 11
  metric : Word32
  target : Word32
  deriving DecidableEq, Repr

/-- What an epoch boundary brings that the spec leaves to measurement or to the Pilot (01 R21, 05 R148, R149, 16 R430, R432, 14 R400): the
power of the last epoch in mW, the hottest junction in 0.1 degrees, the Pilot's new Islet assignments by slot, its moves, the steering of the Reef
engines, the time to the plan's publication in us, the errors corrected in sliver stores and instruction caches, the correctable errors that AER reports (13 R393), whether a rollback row programmed now
reads back. -/
structure EpochIn where
  power : Word32
  tj : BitVec 12
  plans : List (Fin 32 × List (List IsletId))
  moves : List PilotMove
  steer : Option ReefShares
  replanUs : Nat
  corrected : Nat
  aer : Nat
  otpOk : Bool
  deriving DecidableEq, Repr

/-- The commands: one constructor per row of spec/opcode_table.json, in the table's order. -/
inductive Instr
  /-- REGISTER_WRITE (R8): A single aligned 32-bit write to a CSR register that has no row of its own sets its RW fields under the access codes. -/
  | registerWrite (m : Master) (o : BitVec 28) (v : Word32) (t : Nat)
  /-- CSR_ODD_ACCESS (R7): A CSR access that is not one aligned 32-bit access completes without error, writes nothing and reads 0. -/
  | csrOddAccess (isRead : Bool)
  /-- EPOCH_BOUNDARY (R21): At each 250 us tide the device closes the command slot, swaps configuration, re-plans and marks output boundaries in order. -/
  | epochBoundary (x : EpochIn)
  /-- CMD_NOP (R351): NOP completes DONE at its slot. -/
  | cmdNop (m : Master) (token : Byte) (t : Nat)
  /-- WAKE (R354): WAKE leaves WATCH or SAFE for RUN and completes DONE on entry. -/
  | wake (m : Master) (token : Byte) (t : Nat)
  /-- PARK (R426): PARK seals the map, may commit calibration, frees high tiers and enters WATCH. -/
  | park (m : Master) (token : Byte) (t : Nat)
  /-- SLEEP (R370): SLEEP seals as PARK, writes the resume image and enters SLEEP. -/
  | sleep (m : Master) (token : Byte) (t : Nat)
  /-- STAGE_SHADOW (R341): STAGE_SHADOW fills and verifies the shadow set from NOR or host, writing payloads. -/
  | stageShadow (m : Master) (token : Byte) (t : Nat)
  /-- SHADOW_VERIFY_END (R342): Staging ends with the shadow VERIFIED or FAILED and the command completes by its reason. -/
  | shadowVerifyEnd (image : Option (List Byte)) (data : List (Option (List Byte))) (norOk : Bool) (plans : List UnitPlan) (t : Nat)
  /-- SWAP_CONFIG (R343): SWAP_CONFIG with a VERIFIED shadow set exchanges the sets at the boundary and completes DONE. -/
  | swapConfig (m : Master) (token : Byte) (t : Nat)
  /-- CAL_COMMIT (R347): CAL_COMMIT signs the live calibration or a supplied record and programs it into the other NOR sector. -/
  | calCommit (m : Master) (token : Byte) (t : Nat)
  /-- MAP_SEAL (R294): MAP_SEAL closes the open commit and writes a checkpoint covering every changed tile. -/
  | mapSeal (m : Master) (token : Byte) (t : Nat)
  /-- MAP_EXPORT (R294): MAP_EXPORT writes the superblock, the last durable commit page and the requested segments to host memory. -/
  | mapExport (m : Master) (token : Byte) (t : Nat)
  /-- PLACE_QUERY (R322): PLACE_QUERY admits host queries into Reef contexts at its slot. -/
  | placeQuery (m : Master) (token : Byte) (t : Nat)
  /-- ATTEST_REPORT (R405): ATTEST of kind REPORT captures measured values at the boundary and writes a signed report. -/
  | attestReport (m : Master) (token : Byte) (dest : Word64) (n : Word32) (nonce : List Byte) (t : Nat)
  /-- ATTEST_ENROL (R403): ATTEST of kind ENROL writes the self-signed enrolment record in TEST and programs enrol_done. -/
  | attestEnrol (m : Master) (token : Byte) (dest : Word64) (n : Word32) (nonce : List Byte) (t : Nat)
  /-- RECOVER (R373): RECOVER stops work, resets the estimator, optionally reloads and re-enumerates, then loads and mounts. -/
  | recover (m : Master) (token : Byte) (t : Nat)
  /-- TEST_ENTER (R354): TEST_ENTER enters TEST when the active image has test_allowed. -/
  | testEnter (m : Master) (token : Byte) (t : Nat)
  /-- TEST_EXIT (R351): TEST_EXIT leaves TEST by running RECOVER with argument 0. -/
  | testExit (m : Master) (token : Byte) (t : Nat)
  /-- HALT (R356): HALT ends invocations, stops Shore, estimator, solver and Reef, makes the commit durable and enters HALT. -/
  | halt (m : Master) (token : Byte) (t : Nat)
  /-- COND_SYNC (R214): COND_SYNC resets every conditioning decimator at the boundary where it is applied. -/
  | condSync (m : Master) (token : Byte) (t : Nat)
  /-- CMD_ARG_READ_DONE (R350): The read of a command's argument block completes and the command joins the next slot to close. -/
  | cmdArgReadDone (m : Master) (block : List Byte) (t : Nat)
  /-- CMD_ARG_READ_TIMEOUT (R350): An argument read that fails or takes over 2 ms makes the command complete BAD_ARG at the next slot. -/
  | cmdArgReadTimeout (m : Master) (t : Nat)
  /-- SAFE_STOP_ASSERT (R354): SAFE_STOP_N falls and the device issues SAFE_STOP orders from the next slot. -/
  | safeStopAssert
  /-- SAFE_STOP_RELEASE (R353): SAFE_STOP_N rises and the pin stops carrying orders. -/
  | safeStopRelease
  /-- NOP (R37): The scalar NOP does nothing. -/
  | nop (i : IsletId) (a : SArgs) (r : Rest)
  /-- ADD (R37): ADD writes rs1 + rs2 to rd. -/
  | add (i : IsletId) (a : SArgs) (r : Rest)
  /-- SUB (R37): SUB writes rs1 - rs2 to rd. -/
  | sub (i : IsletId) (a : SArgs) (r : Rest)
  /-- AND (R37): AND writes the bitwise AND of rs1 and rs2 to rd. -/
  | andG (i : IsletId) (a : SArgs) (r : Rest)
  /-- OR (R37): OR writes the bitwise OR of rs1 and rs2 to rd. -/
  | orG (i : IsletId) (a : SArgs) (r : Rest)
  /-- XOR (R37): XOR writes the bitwise XOR of rs1 and rs2 to rd. -/
  | xorG (i : IsletId) (a : SArgs) (r : Rest)
  /-- SHL (R37): SHL shifts rs1 left by rs2[5:0]. -/
  | shl (i : IsletId) (a : SArgs) (r : Rest)
  /-- SHR (R37): SHR shifts rs1 right logically by rs2[5:0]. -/
  | shr (i : IsletId) (a : SArgs) (r : Rest)
  /-- SRA (R37): SRA shifts rs1 right arithmetically by rs2[5:0]. -/
  | sra (i : IsletId) (a : SArgs) (r : Rest)
  /-- MUL (R37): MUL writes the low 64 bits of rs1 x rs2. -/
  | mul (i : IsletId) (a : SArgs) (r : Rest)
  /-- MULH (R37): MULH writes the high 64 bits of the signed product. -/
  | mulh (i : IsletId) (a : SArgs) (r : Rest)
  /-- SLT (R37): SLT writes 1 when rs1 < rs2 signed. -/
  | slt (i : IsletId) (a : SArgs) (r : Rest)
  /-- SLTU (R37): SLTU writes 1 when rs1 < rs2 unsigned. -/
  | sltu (i : IsletId) (a : SArgs) (r : Rest)
  /-- POPC (R37): POPC writes the count of ones in rs1. -/
  | popc (i : IsletId) (a : SArgs) (r : Rest)
  /-- MIN (R37): MIN writes the signed minimum of rs1 and rs2. -/
  | minG (i : IsletId) (a : SArgs) (r : Rest)
  /-- MAX (R37): MAX writes the signed maximum of rs1 and rs2. -/
  | maxG (i : IsletId) (a : SArgs) (r : Rest)
  /-- ADDI (R37): ADDI writes rs1 + imm. -/
  | addi (i : IsletId) (a : SArgs) (r : Rest)
  /-- ANDI (R37): ANDI writes rs1 AND imm. -/
  | andi (i : IsletId) (a : SArgs) (r : Rest)
  /-- ORI (R37): ORI writes rs1 OR imm. -/
  | ori (i : IsletId) (a : SArgs) (r : Rest)
  /-- XORI (R37): XORI writes rs1 XOR imm. -/
  | xori (i : IsletId) (a : SArgs) (r : Rest)
  /-- SHLI (R37): SHLI shifts rs1 left by imm[5:0]. -/
  | shli (i : IsletId) (a : SArgs) (r : Rest)
  /-- SHRI (R37): SHRI shifts rs1 right logically by imm[5:0]. -/
  | shri (i : IsletId) (a : SArgs) (r : Rest)
  /-- SRAI (R37): SRAI shifts rs1 right arithmetically by imm[5:0]. -/
  | srai (i : IsletId) (a : SArgs) (r : Rest)
  /-- LUI (R37): LUI writes imm21 << 21. -/
  | lui (i : IsletId) (a : SArgs) (r : Rest)
  /-- LIH (R37): LIH replaces bits [63:42] of rs1 with imm21. -/
  | lih (i : IsletId) (a : SArgs) (r : Rest)
  /-- PEQ (R37): PEQ sets a predicate to all ones when rs1 = rs2. -/
  | peq (i : IsletId) (a : SArgs) (r : Rest)
  /-- PLT (R37): PLT sets a predicate when rs1 < rs2 signed. -/
  | plt (i : IsletId) (a : SArgs) (r : Rest)
  /-- PLTU (R37): PLTU sets a predicate when rs1 < rs2 unsigned. -/
  | pltu (i : IsletId) (a : SArgs) (r : Rest)
  /-- PAND (R37): PAND ANDs two predicates. -/
  | pand (i : IsletId) (a : SArgs) (r : Rest)
  /-- POR (R37): POR ORs two predicates. -/
  | por (i : IsletId) (a : SArgs) (r : Rest)
  /-- PNOT (R37): PNOT inverts a predicate. -/
  | pnot (i : IsletId) (a : SArgs) (r : Rest)
  /-- BR (R37): BR branches relative by imm21 bundles. -/
  | br (i : IsletId) (a : SArgs) (r : Rest)
  /-- JR (R37): JR jumps to rs1. -/
  | jr (i : IsletId) (a : SArgs) (r : Rest)
  /-- CALL (R37): CALL saves the return address and branches relative. -/
  | call (i : IsletId) (a : SArgs) (r : Rest)
  /-- CALLR (R37): CALLR saves the return address and jumps to rs1. -/
  | callr (i : IsletId) (a : SArgs) (r : Rest)
  /-- LOOP (R38): LOOP sets the hardware-loop registers from a count and an end offset. -/
  | loop (i : IsletId) (a : SArgs) (r : Rest)
  /-- MFC (R37): MFC reads a control register into rd. -/
  | mfc (i : IsletId) (a : SArgs) (r : Rest)
  /-- MTC (R30): MTC writes rs1 to a control register. -/
  | mtc (i : IsletId) (a : SArgs) (r : Rest)
  /-- FENCE (R52): FENCE waits for earlier queued loads or posted stores to finish. -/
  | fence (i : IsletId) (a : SArgs) (r : Rest)
  /-- ERET (R37): ERET returns to EPC and clears in_handler. -/
  | eret (i : IsletId) (a : SArgs) (r : Rest)
  /-- TRAP (R61): TRAP raises the TRAP exception with ECODE2 = imm21. -/
  | trap (i : IsletId) (a : SArgs) (r : Rest)
  /-- END (R37): END ends the Islet's assignment after an implicit full fence. -/
  | endA (i : IsletId) (a : SArgs) (r : Rest)
  /-- LS_NOP (R40): The load/store NOP does nothing. -/
  | lsNop (i : IsletId) (a : MArgs) (r : Rest)
  /-- LD (R40): LD loads a sign-extended value into a g register. -/
  | ld (i : IsletId) (a : MArgs) (r : Rest)
  /-- LDU (R40): LDU loads a zero-extended value into a g register. -/
  | ldu (i : IsletId) (a : MArgs) (r : Rest)
  /-- ST (R40): ST stores the low bits of a g register. -/
  | st (i : IsletId) (a : MArgs) (r : Rest)
  /-- VLD (R40): VLD loads 64 bytes into a v register. -/
  | vld (i : IsletId) (a : MArgs) (r : Rest)
  /-- VST (R40): VST stores a v register as 64 bytes. -/
  | vst (i : IsletId) (a : MArgs) (r : Rest)
  /-- VLDS (R40): VLDS loads one value into every lane of a v register. -/
  | vlds (i : IsletId) (a : MArgs) (r : Rest)
  /-- TOWIN (R44): TOWIN starts a tow from a far address into the sliver store. -/
  | towin (i : IsletId) (a : MArgs) (r : Rest)
  /-- TOWOUT (R44): TOWOUT starts a tow from the sliver store to a far address. -/
  | towout (i : IsletId) (a : MArgs) (r : Rest)
  /-- TWAIT (R40): TWAIT waits for the named tow slots to be idle and returns their error state. -/
  | twait (i : IsletId) (a : MArgs) (r : Rest)
  /-- TSTAT (R40): TSTAT returns the tow busy and error masks without waiting. -/
  | tstat (i : IsletId) (a : MArgs) (r : Rest)
  /-- LOAD_RETURN (R43): A queued load's data returns and is written to its register, or poisons it on error. -/
  | loadReturn (i : IsletId) (k : Nat) (cyc : Nat) (err : Option Byte) (data : Option (List Byte))
  /-- STORE_PERFORMED (R43): A posted store is performed at its destination and leaves the store buffer. -/
  | storePerformed (i : IsletId) (k : Nat) (cyc : Nat) (err : Option Byte)
  /-- TOW_COMPLETE (R44): A tow finishes, freeing its slot and setting its error bit on error. -/
  | towComplete (i : IsletId) (k : Fin 8) (cyc : Nat) (err : Option Byte) (data : Option (List Byte))
  /-- VNOP (R47): VNOP does nothing. -/
  | vnop (i : IsletId) (a : VArgs) (r : Rest)
  /-- VADD (R47): VADD adds lanes of va and vb. -/
  | vadd (i : IsletId) (a : VArgs) (r : Rest)
  /-- VSUB (R47): VSUB subtracts lanes of vb from va. -/
  | vsub (i : IsletId) (a : VArgs) (r : Rest)
  /-- VMUL (R47): VMUL multiplies lanes. -/
  | vmul (i : IsletId) (a : VArgs) (r : Rest)
  /-- VMIN (R47): VMIN takes the per-lane minimum. -/
  | vmin (i : IsletId) (a : VArgs) (r : Rest)
  /-- VMAX (R47): VMAX takes the per-lane maximum. -/
  | vmax (i : IsletId) (a : VArgs) (r : Rest)
  /-- VAND (R47): VAND is a bitwise AND of registers. -/
  | vand (i : IsletId) (a : VArgs) (r : Rest)
  /-- VOR (R47): VOR is a bitwise OR of registers. -/
  | vor (i : IsletId) (a : VArgs) (r : Rest)
  /-- VXOR (R47): VXOR is a bitwise XOR of registers. -/
  | vxor (i : IsletId) (a : VArgs) (r : Rest)
  /-- VSHL (R47): VSHL shifts lanes left by lanes of vb. -/
  | vshl (i : IsletId) (a : VArgs) (r : Rest)
  /-- VSHR (R47): VSHR shifts lanes right logically. -/
  | vshr (i : IsletId) (a : VArgs) (r : Rest)
  /-- VSRA (R47): VSRA shifts lanes right arithmetically. -/
  | vsra (i : IsletId) (a : VArgs) (r : Rest)
  /-- VSHLA (R47): VSHLA shifts va left by an immediate and adds vb. -/
  | vshla (i : IsletId) (a : VArgs) (r : Rest)
  /-- VABS (R47): VABS takes the per-lane absolute value. -/
  | vabs (i : IsletId) (a : VArgs) (r : Rest)
  /-- VPOPC (R47): VPOPC counts ones per lane. -/
  | vpopc (i : IsletId) (a : VArgs) (r : Rest)
  /-- VFMA (R47): VFMA computes va x vb + vc with one rounding. -/
  | vfma (i : IsletId) (a : VArgs) (r : Rest)
  /-- VADDI (R47): VADDI adds a sign-extended immediate to each lane. -/
  | vaddi (i : IsletId) (a : VArgs) (r : Rest)
  /-- VANDI (R47): VANDI ANDs each lane with an immediate. -/
  | vandi (i : IsletId) (a : VArgs) (r : Rest)
  /-- VSHLI (R47): VSHLI shifts lanes left by an immediate. -/
  | vshli (i : IsletId) (a : VArgs) (r : Rest)
  /-- VSHRI (R47): VSHRI shifts lanes right by an immediate. -/
  | vshri (i : IsletId) (a : VArgs) (r : Rest)
  /-- VMOVI (R47): VMOVI sets every lane to an immediate. -/
  | vmovi (i : IsletId) (a : VArgs) (r : Rest)
  /-- VLANE (R47): VLANE sets each lane to its own index. -/
  | vlane (i : IsletId) (a : VArgs) (r : Rest)
  /-- VINS (R47): VINS inserts a g register into one lane. -/
  | vins (i : IsletId) (a : VArgs) (r : Rest)
  /-- VEXT (R47): VEXT extracts one lane into a g register. -/
  | vext (i : IsletId) (a : VArgs) (r : Rest)
  /-- VBCST (R47): VBCST broadcasts a g register to every lane. -/
  | vbcst (i : IsletId) (a : VArgs) (r : Rest)
  /-- VCMPEQ (R79): VCMPEQ writes a per-lane equality result into a predicate. -/
  | vcmpeq (i : IsletId) (a : VArgs) (r : Rest)
  /-- VCMPLT (R79): VCMPLT writes a per-lane less-than result into a predicate. -/
  | vcmplt (i : IsletId) (a : VArgs) (r : Rest)
  /-- VCMPLE (R79): VCMPLE writes a per-lane less-or-equal result into a predicate. -/
  | vcmple (i : IsletId) (a : VArgs) (r : Rest)
  /-- VSEL (R47): VSEL selects lanes from va or vb by a predicate. -/
  | vsel (i : IsletId) (a : VArgs) (r : Rest)
  /-- VCVT (R83): VCVT converts elements between formats by part number. -/
  | vcvt (i : IsletId) (a : VArgs) (r : Rest)
  /-- VTQREL (R85): VTQREL forms anchor-relative F32 differences of TQ64 lanes. -/
  | vtqrel (i : IsletId) (a : VArgs) (r : Rest)
  /-- VRMIN (R88): VRMIN reduces lane groups by minimum in pairwise order. -/
  | vrmin (i : IsletId) (a : VArgs) (r : Rest)
  /-- VRMAX (R88): VRMAX reduces lane groups by maximum in pairwise order. -/
  | vrmax (i : IsletId) (a : VArgs) (r : Rest)
  /-- VRADD (R88): VRADD reduces lane groups by sum in pairwise order. -/
  | vradd (i : IsletId) (a : VArgs) (r : Rest)
  /-- VPERM (R47): VPERM permutes lanes of va by indices in vb. -/
  | vperm (i : IsletId) (a : VArgs) (r : Rest)
  /-- VMFT (R47): VMFT moves a quarter of a tensor accumulator into a v register. -/
  | vmft (i : IsletId) (a : VArgs) (r : Rest)
  /-- VMTT (R47): VMTT moves a v register into a quarter of a tensor accumulator. -/
  | vmtt (i : IsletId) (a : VArgs) (r : Rest)
  /-- VRCP (R80): VRCP computes a reciprocal at up to 13 significant bits. -/
  | vrcp (i : IsletId) (a : VArgs) (r : Rest)
  /-- VRSQ (R80): VRSQ computes a reciprocal square root at up to 13 significant bits. -/
  | vrsq (i : IsletId) (a : VArgs) (r : Rest)
  /-- TNOP (R48): TNOP does nothing. -/
  | tnop (i : IsletId) (a : TArgs) (r : Rest)
  /-- TMMA (R49): TMMA accumulates an 8x8 matrix product into a tensor accumulator. -/
  | tmma (i : IsletId) (a : TArgs) (r : Rest)
  /-- TFILL (R48): TFILL sets every element of an accumulator to an immediate. -/
  | tfill (i : IsletId) (a : TArgs) (r : Rest)
  /-- BSIG (R56): BSIG adds to a COUNT buoy's value as a release. -/
  | bsig (i : IsletId) (a : BArgs) (r : Rest)
  /-- BSET (R56): BSET sets a COUNT buoy's value. -/
  | bset (i : IsletId) (a : BArgs) (r : Rest)
  /-- BWAIT (R56): BWAIT waits until a buoy's value reaches a target. -/
  | bwait (i : IsletId) (a : BArgs) (r : Rest)
  /-- BARR (R56): BARR arrives at a barrier buoy and waits for the phase to advance. -/
  | barr (i : IsletId) (a : BArgs) (r : Rest)
  /-- BARV (R56): BARV arrives at a barrier buoy without waiting. -/
  | barv (i : IsletId) (a : BArgs) (r : Rest)
  /-- BPOLL (R56): BPOLL reads a buoy's value without waiting. -/
  | bpoll (i : IsletId) (a : BArgs) (r : Rest)
  /-- BUOY_WAIT_TIMEOUT (R59): A BWAIT or BARR that has waited BTMO cycles ends with bit 63 set. -/
  | buoyWaitTimeout (i : IsletId)
  /-- BUOY_VALUE_WRITE (R57): A CSR write to BUOY_VALUE_n sets the value, combined with same-cycle BSIGs. -/
  | buoyValueWrite (m : Master) (n : Fin 65536) (v : Word32)
  /-- BUOY_PARTICIPANTS_WRITE (R58): A write to participants may complete the phase in progress or disable the barrier. -/
  | buoyParticipantsWrite (m : Master) (n : Fin 65536) (v : Word32)
  /-- BUOY_CTL_WRITE (R55): A write to BUOY_CTL_n sets owner and mode, leaving mode unchanged while waiters exist. -/
  | buoyCtlWrite (m : Master) (n : Fin 65536) (v : Word32)
  /-- DBG_HALT (R68): A write of 1 to DBG_CTL halt halts the Islet before its next bundle. -/
  | dbgHalt (i : IsletId)
  /-- DBG_RESUME (R67): A write of 1 to DBG_CTL resume leaves the halt. -/
  | dbgResume (i : IsletId)
  /-- DBG_STEP (R67): A write of 1 to DBG_CTL step issues one bundle and halts with cause STEP. -/
  | dbgStep (i : IsletId)
  /-- INVOCATION_RELEASE (R108): A trigger releases a unit, starting an invocation or making it pending. -/
  | invocationRelease (n : Fin 32) (t : Nat)
  /-- PARTIAL_INPUT_TIMEOUT (R107): 2 ms after the first camera of a mask delivers, the invocation is released without the missing cameras. -/
  | partialInputTimeout (n : Fin 32) (t : Nat)
  /-- WEIGHT_PREFETCH (R112): When layer k starts the Pilot requests layer k+2's weights. -/
  | weightPrefetch (n : Fin 32) (k : Fin 4096)
  /-- WEIGHT_RAISE (R113): Within 2 us of a wait on a weight buoy, the outstanding transfer is raised to class 0. -/
  | weightRaise (n : Fin 32) (t : Nat)
  /-- INVOCATION_DONE (R109): An invocation writes its last output, commits state, marks lateness and writes its record. -/
  | invocationDone (n : Fin 32) (t : Nat)
  /-- INVOCATION_FAIL (R122): A failed invocation ends its Islets, delivers no output and writes a FAILED record. -/
  | invocationFail (n : Fin 32) (t : Nat)
  /-- FERRY_MOVE_COMPLETE (R135): A Ferry migration finishes and the object becomes RESIDENT at its destination, signalling buoys. -/
  | ferryMoveComplete (id : BitVec 24) (t : Nat)
  /-- OBJECT_LOAD_COMPLETE (R135): An UNLOADED object finishes loading from the payload partition into T3. -/
  | objectLoadComplete (id : BitVec 24) (readable : Bool) (t : Nat)
  /-- TIER_REQUEST_TIMEOUT (R142): A tier request unanswered within PLACE_TMO_t ends with TIMEOUT. -/
  | tierRequestTimeout (r : TierReq) (t : Nat)
  /-- TIER_REQUEST_ERROR (R143): A tier request ends in error, aborting only that request or its move. -/
  | tierRequestError (r : TierReq) (code : Fin 3) (t : Nat)
  /-- PAGE_RETIRE (R145): A page with an uncorrectable error or too many corrected errors is relocated and retired. -/
  | pageRetire (tier : Fin 3) (i : Fin 6) (page : BitVec 24) (id : BitVec 24) (unit : Option (BitVec 48)) (t : Nat)
  /-- BAR2_READ (R385): A host read through BAR2 reaches the Placed Range, returning all ones on error. -/
  | bar2Read (o : BitVec 36) (n : Fin 4097) (bad : Bool) (t : Nat)
  /-- BAR2_WRITE (R385): A host write through BAR2 reaches the Placed Range, discarded on error. -/
  | bar2Write (o : BitVec 36) (data : List Byte) (bad : Bool) (t : Nat)
  /-- FRAME_START (R167): A CSI-2 Frame Start opens a frame and drives the shedding decision for its Isle. -/
  | frameStart (n : Fin 16) (vc : Fin 4) (fill : Fin 129) (t : Nat)
  /-- LONG_PACKET (R165): A row's long packet arrives and is stamped in TB3 into the row-stamp table. -/
  | longPacket (n : Fin 16) (vc : Fin 4) (dtype : Byte) (headerOk : Bool) (crcOk : Bool) (payload : List Byte) (t : Nat)
  /-- FRAME_END (R161): A Frame End closes a frame, which is delivered or dropped whole. -/
  | frameEnd (n : Fin 16) (vc : Fin 4) (t : Nat)
  /-- FRAME_RECORD_WRITE (R166): Once pyramid, features and tracks are done, Shore writes the frame record. -/
  | frameRecordWrite (n : Fin 16) (t : Nat)
  /-- WRITE_QUEUE_FULL (R168): A full write queue makes Shore abandon the lowest-priority frame in flight. -/
  | writeQueueFull (i : Fin 2) (fills : List (Fin 129)) (t : Nat)
  /-- PORT_LOST_TIMEOUT (R162): A streaming port with no Frame Start for two periods becomes LOST. -/
  | portLostTimeout (n : Fin 16) (t : Nat)
  /-- FSYNC_PULSE (R163): An FSYNC_OUT pin starts a pulse at each matching time-base instant. -/
  | fsyncPulse (k : Fin 8) (t : Nat)
  /-- STEREO_RECORD_WRITE (R179): Shore matches a reference frame with its partner and writes the stereo record. -/
  | stereoRecordWrite (p : Fin 8) (t : Nat)
  /-- STEREO_PARTNER_TIMEOUT (R467): 2 x period_us after the reference t_exp0 without a partner observation, the record is written with the latest offset. -/
  | stereoPartnerTimeout (p : Fin 8) (t : Nat)
  /-- LIDAR_DATAGRAM (R181): A UDP datagram on an Ethernet port is matched to a template and parsed into point records. -/
  | lidarDatagram (p : Fin 4) (src : Word32) (dport : BitVec 16) (fragmented : Bool) (payload : List Byte) (t : Nat)
  /-- PROJECTION_START (R184): The projection unit starts a frame once its record is written and TB3 passes the window end plus wait_us. -/
  | projectionStart (n : Fin 16) (t : Nat)
  /-- DEPTH_HEADER_WRITE (R185): The projection unit finishes a frame's depth records and writes its depth header. -/
  | depthHeaderWrite (n : Fin 16) (t : Nat)
  /-- GPTP_SYNC (R197): An accepted Sync forms an offset sample that the servo steps or slews on. -/
  | gptpSync (p : Fin 4) (d : Byte) (seqId : BitVec 16) (twoStep : Bool) (origin : Word64) (corr : Word64) (t : Nat)
  /-- GPTP_FOLLOW_UP (R199): A Follow_Up completes a two-step Sync sample. -/
  | gptpFollowUp (p : Fin 4) (d : Byte) (seqId : BitVec 16) (origin : Word64) (corr : Word64) (t : Nat)
  /-- GPTP_ANNOUNCE (R198): An Announce drives master selection and may place a base in HOLDOVER. -/
  | gptpAnnounce (p : Fin 4) (d : Byte) (a : Announce) (t : Nat)
  /-- PDELAY_REQ (R199): A received Pdelay_Req is answered with Pdelay_Resp and Follow_Up. -/
  | pdelayReq (p : Fin 4) (seqId : BitVec 16) (rx : Nat) (tx : Nat)
  /-- PDELAY_RESP (R199): A Pdelay_Resp and its Follow_Up complete a link delay measurement. -/
  | pdelayResp (p : Fin 4) (seqId : BitVec 16) (t2 : Word64) (t3 : Word64) (rx : Nat)
  /-- PDELAY_TIMER (R199): The port transmits a Pdelay_Req at its interval. -/
  | pdelayTimer (p : Fin 4) (t : Nat)
  /-- SYNC_TIMEOUT (R198): No Sync for TIME_GPTP_TMO intervals places a locked base in HOLDOVER. -/
  | syncTimeout (b : Fin 2) (t : Nat)
  /-- HOLDOVER_EXPIRED (R198): A holdover lasting TIME_SERVO_HOLDMAX_b sets hold_expired. -/
  | holdoverExpired (b : Fin 3) (t : Nat)
  /-- PPS_EDGE (R202): A PPS_IN edge is stamped in TB3 and awaits its label. -/
  | ppsEdge (falling : Bool) (t : Nat)
  /-- NMEA_SENTENCE (R202): A GNSS sentence on GNSS_RX labels a PPS edge or carries a position. -/
  | nmeaSentence (n : Nmea) (t : Nat)
  /-- PPS_LABEL_TIMEOUT (R202): A PPS edge without a label within 900 ms gives no sample. -/
  | ppsLabelTimeout (t : Nat)
  /-- PPS_TIMEOUT (R198): No labelled PPS edge for 1.5 s places TB2 in HOLDOVER. -/
  | ppsTimeout (t : Nat)
  /-- UART_RATE_TIMEOUT (R458): 5 s without a valid sentence makes GNSS_RX detect its baud rate again. -/
  | uartRateTimeout (t : Nat)
  /-- TIME_SNAP (R193): A write of 1 to TIME_SNAP latches all four bases at one tick. -/
  | timeSnap (v : Word32) (t : Nat)
  /-- TB_NS_LO_READ (R193): A read of TIME_TB_NS_LO_b latches the same base's HI and FRAC. -/
  | tbNsLoRead (b : Fin 4) (t : Nat)
  /-- GLB_EPOCH_LO_READ (R364): A read of GLB_EPOCH_LO latches GLB_EPOCH_HI. -/
  | glbEpochLoRead (m : Master)
  /-- TB_ADJ_WRITE (R194): A write to TIME_TB_ADJ_HI_b steps the base by the signed value while its source is NONE. -/
  | tbAdjWrite (b : Fin 4) (v : Word32) (t : Nat)
  /-- TB_RATE_LO_WRITE (R194): A write to TIME_TB_RATE_LO_b is held without effect. -/
  | tbRateLoWrite (b : Fin 4) (v : Word32) (t : Nat)
  /-- TB_RATE_HI_WRITE (R194): A write to TIME_TB_RATE_HI_b applies the held rate from the next tick. -/
  | tbRateHiWrite (b : Fin 4) (v : Word32) (t : Nat)
  /-- IMU_DRDY (R206): A rising IMU_DRDY edge is stamped and starts an SPI burst. -/
  | imuDrdy (i : Fin 2) (t : Nat)
  /-- IMU_BURST_DONE (R206): An SPI burst completes and six axis samples enter their channels. -/
  | imuBurstDone (i : Fin 2) (reply : List Byte) (t : Nat)
  /-- IMU_LOST_TIMEOUT (R206): Every two input periods without an edge increment COND_IMU_LOST_i. -/
  | imuLostTimeout (i : Fin 2) (t : Nat)
  /-- WHEEL_EDGE (R207): A glitch-filtered wheel-tick edge is accepted, counted and stamped. -/
  | wheelEdge (k : Fin 8) (level : WheelLevel) (t : Nat)
  /-- WHEEL_SAMPLE (R207): The wheel sampler produces each input's rate value at sample_rate. -/
  | wheelSample (t : Nat)
  /-- CAN_FRAME (R208): A received CAN FD frame is stamped and its signal entries extracted. -/
  | canFrame (j : Fin 4) (id : BitVec 29) (ext : Bool) (body : CanPayload) (t : Nat)
  /-- SYNC_IN_EDGE (R214): A SYNC_IN edge resets every conditioning decimator. -/
  | syncInEdge (rising : Bool) (t : Nat)
  /-- ASSOCIATION_WRITE (R225): The fusion unit writes a frame's association object once its record and depth are ready. -/
  | associationWrite (n : Fin 16) (t : Nat)
  /-- SMOOTHER_PASS_START (R231): A smoother pass starts at each multiple of period_ms, or after the previous pass ends. -/
  | smootherPassStart (t : Nat)
  /-- SMOOTHER_PASS_END (R231): A smoother pass completes and the filter re-propagates from its result. -/
  | smootherPassEnd (t : Nat)
  /-- SOURCE_DROPOUT (R240): A source that delivers nothing for dropout_ms loses its sensor_mask bit. -/
  | sourceDropout (b : Fin 28) (t : Nat)
  /-- POSE_SEAL (R234): When the seal wait after an output boundary ends, the estimator propagates to the boundary and seals a pose record. -/
  | poseSeal (t : Nat)
  /-- BUNDLE_ADJUST_END (R253): A bundle adjustment finishes and writes refined landmarks and poses, or is discarded. -/
  | bundleAdjustEnd (failed : Bool) (lost : List (BitVec 26)) (t : Nat)
  /-- OPTIMISATION_END (R263): A loop-closure optimisation ends and its constraint is accepted with a directory rewrite, or rejected. -/
  | optimisationEnd (failed : Bool) (t : Nat)
  /-- OPTIMISATION_START (R254): The solver takes the oldest queued verdict, sizes and places the workspace, or refuses TOO_LARGE. -/
  | optimisationStart (t : Nat)
  /-- RECORD_SUBMIT (R286): A record is accepted into the open commit's page buffers. -/
  | recordSubmit (r : MapRec) (t : Nat)
  /-- COMMIT_INTERVAL_EXPIRY (R290): commit_ms after its first record the open commit closes. -/
  | commitIntervalExpiry (t : Nat)
  /-- COMMIT_DURABLE (R291): All listed pages and both verified commit copies are programmed and the commit becomes durable. -/
  | commitDurable (t : Nat) (c0 : Option Nat) (c1 : Option Nat)
  /-- NAND_PROGRAM_DONE (R291): A word-line program finishes with pass or fail status. -/
  | nandProgramDone (p : Nat) (pass : Bool)
  /-- NAND_ERASE_DONE (R293): A block erase finishes and lowers the erase credit. -/
  | nandEraseDone (b : Nat) (pass : Bool)
  /-- NAND_READ_DONE (R302): A page read returns and is decoded through retry, soft decode and parity. -/
  | nandReadDone (p : Nat) (r : ReadEnd) (fixed : Nat) (worst : Nat)
  /-- NAND_READ_TIMEOUT (R302): A page read exceeding MAP_READ_TMO ends with TIMEOUT. -/
  | nandReadTimeout (p : Nat) (t : Nat)
  /-- RECLAIM_START (R293): Reclamation copies valid data of a block into the open commit and erases it. -/
  | reclaimStart (victim : Option Nat)
  /-- PATROL_READ (R305): Patrol reads pages and refreshes blocks that need it. -/
  | patrolRead (p : Nat) (t : Nat)
  /-- ERASE_CREDIT_ACCRUE (R304): The erase credit rises by E_day per day of TB3 and the budget state follows. -/
  | eraseCreditAccrue (t : Nat)
  /-- MOUNT (R298): MOUNT reads superblocks, finds the head, replays commits, fills the directory and writes a REMOUNT commit. -/
  | mount (plans : List UnitPlan) (bad : List Nat) (t : Nat)
  /-- PFAIL_ASSERT (R295): PFAIL_N falls: the map store closes and completes its commit and the device sheds to 20 W. -/
  | pfailAssert (us : Nat) (t : Nat)
  /-- PFAIL_HOLD_END (R434): PFAIL_N has been high for 10 ms and the device restores work and flash activity. -/
  | pfailHoldEnd (w : WakeIn) (t : Nat)
  /-- PFAIL_RELEASE (R424): PFAIL_N rises, starting the 10 ms hold and acting as a wake source when enabled. -/
  | pfailRelease (t : Nat)
  /-- REEF_INSERT (R317): The updater inserts a keyframe as a node with neighbours and reverse edges. -/
  | reefInsert
  /-- REEF_DELETE (R318): The updater tombstones a node and increments its generation. -/
  | reefDelete (n : BitVec 32)
  /-- COMPACT_PAGE (R319): Compaction sweeps one node page, removing stale edges and refilling from tombstones. -/
  | compactPage (read : SweepRead)
  /-- UPDATER_RESUME (R316): The paused updater resumes when rewrite-buffer slots free. -/
  | updaterResume
  /-- CODEWORD_READ_DONE (R328): A codeword read returns and the parked search context continues its expansion or re-rank. -/
  | codewordReadDone (e : Fin 16) (w : Nat) (v : Nat) (ok : Bool) (t : Nat)
  /-- REEF_QUERY_TIMEOUT (R329): A query still running REEF_QUERY_TMO after admission ends with TIMEOUT. -/
  | reefQueryTimeout (k : Nat) (t : Nat)
  /-- POR_ASSERT (R450): POR_N falls and every domain is held in reset. -/
  | porAssert
  /-- COLD_START (R365): POR_N or PWR_OK rises and the device runs BOOT, TRAIN, ENUM, LOAD and MOUNT. -/
  | coldStart (pwrOk : Bool) (head : Bool) (ext : Option Fitted) (b : BootIn) (t : Nat)
  /-- PWR_OK_LOSS (R450): PWR_OK low for 10 us outside SLEEP resets every domain except the Skerry. -/
  | pwrOkLoss (t : Nat)
  /-- PWR_OK_RISE (R449): PWR_OK rises and BOOT or the wake sequence proceeds. -/
  | pwrOkRise (w : WakeIn) (t : Nat)
  /-- WAKE_N_PIN (R424): A WAKE_N pin low for 4 crystal cycles wakes the device from SLEEP or WATCH. -/
  | wakeNPin (k : Fin 4) (w : WakeIn) (t : Nat)
  /-- CAN_WAKE (R424): A CAN receive pin dominant for can_wake_us wakes the device. -/
  | canWake (j : Fin 4) (w : WakeIn) (t : Nat)
  /-- TB3_ALARM (R424): TB3 reaching PWR_ALARM wakes the device. -/
  | tb3Alarm (w : WakeIn) (t : Nat)
  /-- THERMAL_TRIP (R432): A junction reaching trip_c makes the device act as HALT with no master. -/
  | thermalTrip (t : Nat)
  /-- ATOLL_RELOCK_DONE (R429): An Atoll's PLL relocks after a frequency change and its Islets issue again. -/
  | atollRelockDone (a : Fin 6) (t : Nat)
  /-- ENUM_READY (R378): A READY message on the DOWN port is recorded for enumeration. -/
  | enumReady (p : Fin 2) (t : Nat)
  /-- READY_REPEAT (R378): A non-head unit repeats READY once per millisecond until ENUM arrives. -/
  | readyRepeat (t : Nat)
  /-- ENUM (R378): An ENUM message gives the unit its address and is forwarded down or answered with ENUM_END. -/
  | enumMsg (p : Fin 2) (v : Byte) (t : Nat)
  /-- ENUM_END (R378): ENUM_END is forwarded upstream and gives the head the chain count. -/
  | enumEnd (p : Fin 2) (v : Byte) (t : Nat)
  /-- ENUM_COMMIT (R378): ENUM_COMMIT records the count, is forwarded and ends ENUM. -/
  | enumCommit (p : Fin 2) (v : Byte) (t : Nat)
  /-- ENUM_TIMEOUT (R379): No READY or ENUM within enum_tmo_ms closes the chain or leaves the unit UNCHAINED. -/
  | enumTimeout (t : Nat)
  /-- ENUM_END_TIMEOUT (R378): A unit that forwarded ENUM and hears no ENUM_END within 10 ms sends its own. -/
  | enumEndTimeout (t : Nat)
  /-- LINK_FRAME_RX (R375): A link frame is received, checked for CRC and order, and acknowledged or NAKed. -/
  | linkFrameRx (p : Fin 2) (b : List Byte) (t : Nat)
  /-- LINK_NAK (R375): A NAK makes the transmitter replay from the named frame. -/
  | linkNak (p : Fin 2) (ack : BitVec 12)
  /-- LINK_CREDIT (R376): A CREDIT frame returns receive credits to a virtual channel. -/
  | linkCredit (p : Fin 2) (c0 : BitVec 16) (c1 : BitVec 16) (c2 : BitVec 16)
  /-- LINK_RETRAIN (R375): Eight replays of one frame or loss of lock retrains the port. -/
  | linkRetrain (p : Fin 2) (t : Nat)
  /-- LINK_RETRAIN_DONE (R377): A retrain ends, resuming the port or counting toward FAILED. -/
  | linkRetrainDone (p : Fin 2) (lanes : BitVec 4) (t : Nat)
  /-- LINK_RETRY_TIMER (R377): A FAILED port retries training once per second. -/
  | linkRetryTimer (p : Fin 2) (t : Nat)
  /-- RD_REQ (R383): A peer read request is routed or served from the local address map. -/
  | rdReq (p : Fin 2) (dest : Byte) (src : Byte) (address : BitVec 48) (n : Word32) (seq : Word32) (epoch : Word64) (tag : Word64) (t : Nat)
  /-- WR_REQ (R383): A peer write request is routed or applied at the local address. -/
  | wrReq (p : Fin 2) (dest : Byte) (src : Byte) (address : BitVec 48) (seq : Word32) (epoch : Word64) (tag : Word64) (data : List Byte) (t : Nat)
  /-- RD_RESP (R383): A read response ends the requester's peer read with its status. -/
  | rdResp (p : Fin 2) (dest : Byte) (src : Byte) (status : BitVec 2) (seq : Word32) (epoch : Word64) (tag : Word64) (data : List Byte) (t : Nat)
  /-- WR_ACK (R383): A write acknowledgement ends the requester's peer write with its status. -/
  | wrAck (p : Fin 2) (dest : Byte) (src : Byte) (status : BitVec 2) (seq : Word32) (epoch : Word64) (tag : Word64) (t : Nat)
  /-- EVENT_MESSAGE (R418): An EVENT message from unit u raises CHAIN_PEER_u and records its source. -/
  | eventMessage (p : Fin 2) (dest : Byte) (src : Byte) (seq : Word32) (epoch : Word64) (tag : Word64) (source : BitVec 16) (count : Byte) (flags : Byte) (tb0 : Word64) (t : Nat)
  /-- PEER_REQUEST_TIMEOUT (R383): A peer request without response within req_tmo_us ends with TIMEOUT. -/
  | peerRequestTimeout (k : Nat) (t : Nat)
  /-- HOST_RELAY_READ (R393): HOST_RELAY_CTL op READ sends a peer read into HOST_RELAY_DATA. -/
  | hostRelayRead (t : Nat)
  /-- HOST_RELAY_WRITE (R393): HOST_RELAY_CTL op WRITE sends HOST_RELAY_DATA as a peer write. -/
  | hostRelayWrite (t : Nat)
  /-- NEAR_LOOPBACK (R388): CHAIN_TEST mode NEAR_LOOPBACK loops the port's transmitters to its receivers in TEST. -/
  | nearLoopback (p : Fin 2)
  /-- FAR_LOOPBACK (R388): CHAIN_TEST mode FAR_LOOPBACK retransmits received lane data in TEST. -/
  | farLoopback (p : Fin 2)
  /-- PRBS31 (R388): CHAIN_TEST mode PRBS31 sends and checks a PRBS31 pattern in TEST. -/
  | prbs31 (p : Fin 2) (e0 : Word32) (e1 : Word32) (e2 : Word32) (e3 : Word32)
  /-- CHAIN_TEST_OFF (R388): CHAIN_TEST mode OFF ends the test and retrains the port. -/
  | chainTestOff (p : Fin 2)
  /-- PERST (R368): PERST_N rising with a stable reference clock starts PCIe link training. -/
  | perst (high : Bool) (refclk : Bool)
  /-- PCIE_LINK_DOWN (R387): The PCIe link goes down and device-mastered requests stop. -/
  | pcieLinkDown
  /-- PCIE_LINK_UP (R387): The PCIe link comes up. -/
  | pcieLinkUp (speed : BitVec 4) (width : BitVec 4)
  /-- FUNCTION_LEVEL_RESET (R387): An FLR restores configuration space, BAR2 and relay settings and resets the host bank. -/
  | functionLevelReset
  /-- INTEGRATOR_KEY_HASH (R398): SEC_OTP_PROG target INTEGRATOR_KEY_HASH programs the integrator key hash in TEST. -/
  | integratorKeyHash (ok : Bool)
  /-- VENDOR_DISABLE (R398): SEC_OTP_PROG target VENDOR_DISABLE disables the vendor key in TEST. -/
  | vendorDisable
  /-- INTC_PEND_WRITE (R412): A write of 1 to a pending bit clears it unless an event meets it. -/
  | intcPendWrite (k : Fin 16) (v : Word32) (meets : List (Fin 32))
  /-- INTC_MASK_WRITE (R415): A mask write masks sources or, by unmasking a pending one, issues a delivery. -/
  | intcMaskWrite (k : Fin 16) (v : Word32) (meets : List (Fin 32))
  /-- INTC_COUNT_WRITE (R412): A write of 0 to INTC_COUNT_n clears the count. -/
  | intcCountWrite (n : Fin 512) (v : Word32) (meets : Bool)
  /-- INTC_SOFT (R410): A write of 1 to a bit of INTC_SOFT raises SOFT_s. -/
  | intcSoft (v : Word32)
  /-- LEVEL_DEASSERT (R413): A level source falls, changing only its level bit. -/
  | levelDeassert (n : Fin 512)
  /-- BYPASS (R447): The TAP BYPASS instruction passes TDI to TDO through one bit. -/
  | bypass (tdi : List Bool)
  /-- IDCODE (R446): The TAP IDCODE instruction shifts out 0xA960_0C2B. -/
  | idcode
  /-- SAMPLE_PRELOAD (R447): SAMPLE/PRELOAD captures the signal balls, only in TEST or after a failed BOOT. -/
  | samplePreload (pins : List Bool) (tdi : List Bool)
  /-- EXTEST (R447): EXTEST drives the signal balls, only in TEST or after a failed BOOT. -/
  | extest (pins : List Bool) (tdi : List Bool)
  /-- TRST (R447): TRST_N low holds the TAP in Test-Logic-Reset. -/
  | trst (low : Bool)
  /-- CONFIGURATION_REQUEST (R417): A PCIe configuration request from the host sets or clears MSI-X Enable, the function mask or Bus Master Enable, or is answered with Retry Status during BOOT. -/
  | configurationRequest (msix : Option Bool) (mask : Option Bool) (header : HeaderAccess)
  /-- NOR_PROGRAM_DONE (R347): A NOR erase, program or read-back of a CAL_COMMIT finishes, advancing the commit to its next step or to its DONE completion within 1 s. -/
  | norProgramDone (ok : Bool) (t : Nat)
  /-- DESKEW_SEQUENCE (R159): A D-PHY initial or periodic deskew sequence on a camera port's data lanes makes each lane pass or fail deskew, as SHORE_PORT_STATUS_n lanes_up shows. -/
  | deskewSequence (n : Fin 16) (passes : Fin 16) (t : Nat)
  /-- CREDIT_RETURN_TIMER (R376): A Causeway port sends a CREDIT frame returning receive credits once per microsecond, or after 64 frames have been freed. -/
  | creditReturnTimer (p : Fin 2) (t : Nat)
  deriving DecidableEq, Repr

end Sys2Proof
end

