-- ==== Sys2Proof/Config.lean ====
section
/-! DEFINITION. What the spec names and does not give: the free values and the functions it takes from elsewhere. Every
constant here is opaque: nothing can be proved of its value, so a statement that holds holds whatever it is. -/
namespace Sys2Proof.Config

/-- The free values: a 64-bit value for every index (log entry 1). -/
opaque freeWord : Nat → BitVec 64

/-- VEXT of a lane beyond those of its type (02 R47): etype, immediate, operand. A function of them (03 R90) (log entry 9). -/
opaque vextBeyond : Nat → Nat → BitVec 512 → BitVec 64

/-- SHAKE256 with 64 bytes of output (12 R337, 14 R394), FIPS 202's, not restated by the spec (log entry 20). -/
opaque shake256 : List Byte → BitVec 512

/-- The keyed MAC of the resume image (13 R370) (log entry 20). -/
opaque mac : BitVec 256 → List Byte → BitVec 512

/-- The 512 bytes of LDPC parity of a codeword, lowest first: the spec names no code (10 R274) (log entry 139). -/
opaque ldpcParity : List Byte → Nat

/-- ML-DSA-65 verification: public key, message digest, signature (14 R394, R396) (log entry 20). -/
opaque verify : List Byte → List Byte → List Byte → Bool

/-- ML-DSA-65 hedged signing: seed of the key pair, message digest, fresh randomness; the 3,309 bytes of the signature as
a number (14 R394) (log entry 20). -/
opaque sign : List Byte → List Byte → BitVec 64 → Nat

/-- ML-DSA-65 key generation: the 1,952 bytes of the public key as a number (14 R401) (log entry 20). -/
opaque publicKey : List Byte → Nat

/-- meanLinkDelay of IEEE 802.1AS from the four stamps of a Pdelay exchange, ns (07 R199) (log entry 21). -/
opaque meanLinkDelay : Int → Int → Int → Int → Nat

/-- A point of the unit-depth plane from its distorted place (06 R173): the model and distortion bytes of a camera of the calibration record, x
below y, F32. The spec gives no way to invert a distortion (log entry 32). -/
opaque undistort : List Byte → BitVec 64 → BitVec 64

/-- A point of the rectification mesh that the system controller builds from the live calibration (06 R176): calibration, camera port, pyramid
level, column and row of the mesh; where it lies on the image of that level, two signed 32-bit words in units of 2^−16 pixel, x lowest
(log entry 33). -/
opaque meshPoint : List Byte → Nat → Nat → Nat → Nat → BitVec 64

/-- The latency in ns of the synchroniser of the wheel-tick inputs (07 R207, 18 R457) (log entry 31). -/
opaque wheelSync : Nat

/-- c2 of 06 R178 for a pixel that has no disparity outside d − 1 to d + 1: S and d (log entry 34). -/
opaque stereoC2 : List Nat → Nat → Nat

/-- Elevation of a ring beyond the entries in use of a lidar template (06 R182) (log entry 41). -/
opaque ringElevation : Nat → BitVec 32

/-- A covariance element of a wheel channel that comes into use (08 R221), by its row and column (log entry 45). -/
opaque newCov : Nat → Nat → BitVec 32

/-- Propagation of the filter's state and covariance (08 R229): calibration, estimator data, what holds constant (1 and six axes, or 0, the
yaw rate and the wheel channels with their speeds), from, to; an error, the angular rate, the covariance (log entry 45). -/
opaque estPropagate : List Byte → List (BitVec 64) → List Nat → Int → Int → List (BitVec 64)

/-- The update of the filter with an item (08 R229, R230): calibration, estimator data, the item, in the form of `estPropagate`
(log entry 45). -/
opaque estApply : List Byte → List (BitVec 64) → List (BitVec 64) → List (BitVec 64)

/-- An item's normalised innovation squared, F32 (08 R241): calibration, estimator data, the item (log entry 45). -/
opaque innovation : List Byte → List (BitVec 64) → List (BitVec 64) → BitVec 32

/-- Does the estimator detect zero velocity (08 R239, R243) at a sample: estimator data, the sample, the ns since the latest edge of each
wheel-tick input that has had one (log entry 45). -/
opaque standstill : List (BitVec 64) → List Nat → List (Nat × Int) → BitVec 1

/-- How a pass moves the state at its newest node after three iterations (08 R231): calibration, that state and the nodes with their times,
items, in the form of `estPropagate` (log entry 45). -/
opaque smooth : List Byte → List (BitVec 64) → List (BitVec 64) → List (BitVec 64)

/-- What the RUNNING estimator starts with (08 R243): the aligning state, the samples of its standstill, two GNSS positions where they align it;
a rotation about z that two GNSS positions give (w first), the rotation that roll and pitch make, velocity, angular rate, biases, scale factors,
covariance (log entry 45). -/
opaque alignState : List (BitVec 64) → List Nat → List (BitVec 64) → List (BitVec 64)

/-- A covariance under a tile transform (08 R233) (log entry 45). -/
opaque moveCov : List (BitVec 32) → List Byte → List (BitVec 32)

/-- The calibration values that the estimator holds, over the live calibration (08 R221, 12 R346) (log entry 45). -/
opaque refineCal : List (BitVec 64) → List Byte → List Byte

/-- A GNSS position in the world frame: superblock with the georeference, latitude, longitude, height; x, y, z (08 R222)
(log entry 45). -/
opaque geoPos : List Byte → Int → Int → Int → List (BitVec 64)

/-- The size of a factor, MiB, by the rows of each column of blocks (09 R251, R254): the spec gives the size of no block (log entry 48). -/
opaque factorMiB : List (List Nat) → Nat

/-- The standard deviations of an odometry constraint, six F16 values, from the covariances of the two records: the spec does not say how the
estimator comes to the covariance of a relative pose (09 R260) (log entry 48). -/
opaque odometrySigma : List (BitVec 16) → List (BitVec 16) → Nat → BitVec 16

/-- A refined position variance of a landmark, F16, by axis, from the blocks of the normal equations of its adjustment (09 R253): the spec does
not say how it is found (log entry 48). -/
opaque landmarkVar : Nat → List Nat → Nat → BitVec 16

/-- The sensor_class of a node inserted again at the end of a mount, by the draw and the keyframe (11 R312, R316): no record of the map holds the
sensor_mask it comes from (log entry 140). -/
opaque sensorClass : Nat → Nat → BitVec 4

/-- A field of the resume header whose value the spec leaves to the device: the draw at SLEEP's entry, the field (13 R370) (log entry 141). -/
opaque resumeField : Nat → Nat → BitVec 64

/-- A keyed MAC of the resume image: the header bytes it covers, the draw of the key, which of the two (13 R370) (log entry 141). -/
opaque resumeMac : List Byte → Nat → Nat → Nat

end Sys2Proof.Config
end

