-- ==== Sys2Proof/Machine/Table.lean ====
section
/-! DEFINITION. Sparse tables: reading, writing and the canonical form of every indexed store, and the bit-field helpers
that the register operations use. A table reads as `d k` where it lists nothing for `k`. -/
namespace Sys2Proof.Machine

/-- The value under key `k`; `d k` where the table lists none. -/
def SMap.get {α : Type} (d : Nat → α) : SMap α → Nat → α
  | [], k => d k
  | (k', v) :: r, k => if k = k' then v else SMap.get d r k

/-- The table without any entry for `k`. -/
def SMap.del {α : Type} : SMap α → Nat → SMap α
  | [], _ => []
  | (k', v) :: r, k => if k = k' then SMap.del r k else (k', v) :: SMap.del r k

/-- The table with `v` listed under `k`, in key order. -/
def SMap.put {α : Type} : SMap α → Nat → α → SMap α
  | [], k, v => [(k, v)]
  | (k', v') :: r, k, v =>
    if k < k' then (k, v) :: (k', v') :: r
    else if k = k' then (k, v) :: r
    else (k', v') :: SMap.put r k v

/-- Writing keeps the canonical form: the value an unlisted key reads as removes the entry. -/
def SMap.set {α : Type} [DecidableEq α] (d : Nat → α) (m : SMap α) (k : Nat) (v : α) : SMap α :=
  if v = d k then SMap.del m k else SMap.put m k v

/-- `SMap.set` of what `f` makes of the value that stands there. -/
def SMap.update {α : Type} [DecidableEq α] (d : Nat → α) (m : SMap α) (k : Nat) (f : α → α) : SMap α :=
  SMap.set d m k (f (SMap.get d m k))

/-- Keys strictly rising. -/
def SMap.rising {α : Type} : SMap α → Bool
  | [] => true
  | [_] => true
  | (k, _) :: (k', v') :: r => decide (k < k') && SMap.rising ((k', v') :: r)

/-- No entry equal to what an unlisted key reads as. -/
def SMap.lean {α : Type} [DecidableEq α] (d : Nat → α) (m : SMap α) : Bool :=
  m.all fun p => decide (p.2 ≠ d p.1)

/-- The canonical form. -/
def SMap.wf {α : Type} [DecidableEq α] (d : Nat → α) (m : SMap α) : Bool :=
  SMap.rising m && SMap.lean d m

/-- Remove every entry whose key lies in `[lo, lo + n)`. -/
def SMap.clearRange {α : Type} (m : SMap α) (lo n : Nat) : SMap α :=
  m.filter fun p => !(decide (lo ≤ p.1) && decide (p.1 < lo + n))

/-- Bits `[hi:lo]` of a natural number. -/
def bitsOf (n hi lo : Nat) : Nat := (n >>> lo) % 2 ^ (hi + 1 - lo)

/-- `n` with bits `[hi:lo]` replaced by `v`. -/
def putBits (n hi lo v : Nat) : Nat :=
  n - (bitsOf n hi lo) * 2 ^ lo + (v % 2 ^ (hi + 1 - lo)) * 2 ^ lo

/-- Bit `i` of a natural number. -/
def bitOf (n i : Nat) : Bool := (n >>> i) % 2 == 1

/-- The two's complement value of the low `w` bits. -/
def sext (w n : Nat) : Int :=
  let m := n % 2 ^ w
  if m < 2 ^ (w - 1) then (m : Int) else (m : Int) - (2 ^ w : Nat)

/-- The low `w` bits of an integer in two's complement. -/
def wrapTo (w : Nat) (x : Int) : Nat := (x % ((2 ^ w : Nat) : Int)).toNat

/-- A bool as a number. -/
def b2n (b : Bool) : Nat := if b then 1 else 0

/-- `n` little-endian bytes of a number (spec 00 R6). -/
def leBytes : Nat → Nat → List Byte
  | 0, _ => []
  | n + 1, v => BitVec.ofNat 8 v :: leBytes n (v / 256)

/-- The number that little-endian bytes hold (spec 00 R6). -/
def ofLe : List Byte → Nat
  | [] => 0
  | b :: r => b.toNat + 256 * ofLe r

/-- A 32-bit counter that saturates. -/
def satInc (v : Word32) : Word32 := if v = 0xFFFFFFFF#32 then v else v + 1

/-- A 32-bit counter raised by `n`, saturating. -/
def satAdd (v : Word32) (n : Nat) : Word32 := BitVec.ofNat 32 (min (v.toNat + n) 0xFFFFFFFF)

/-- An integer held in a 32-bit signed register, saturating. -/
def satS32 (x : Int) : Word32 :=
  BitVec.ofInt 32 (max (-2147483648) (min x 2147483647))

/-- A natural number held in a `w`-bit field, saturating. -/
def satU (w n : Nat) : Nat := min n (2 ^ w - 1)

/-- Division rounded to nearest, ties to even, of an integer by a positive integer. -/
def divRne (a : Int) (b : Int) : Int :=
  let q := a / b
  let r := a % b
  if 2 * r < b then q else if 2 * r > b then q + 1 else if q % 2 = 0 then q else q + 1

/-- The integer square root, by bits from `2 ^ b` downwards. -/
def isqrtBits (n : Nat) : Nat → Nat → Nat
  | 0, r => if (r + 1) * (r + 1) ≤ n then r + 1 else r
  | b + 1, r =>
    isqrtBits n b (if (r + 2 ^ (b + 1)) * (r + 2 ^ (b + 1)) ≤ n then r + 2 ^ (b + 1) else r)

/-- The integer square root. -/
def isqrt (n : Nat) : Nat := isqrtBits n (Nat.log2 n / 2 + 1) 0

/-- Replace element `i` of a list. -/
def setAt {α : Type} : List α → Nat → α → List α
  | [], _, _ => []
  | _ :: r, 0, v => v :: r
  | x :: r, n + 1, v => x :: setAt r n v

/-- Element `i` of a list, or `d`. -/
def nthD {α : Type} (d : α) : List α → Nat → α
  | [], _ => d
  | x :: _, 0 => x
  | _ :: r, n + 1 => nthD d r n

/-- The list of the numbers below `n`. -/
def upTo (n : Nat) : List Nat := List.range n

end Sys2Proof.Machine
end

