-- ==== Sys2Proof/Machine/Regs.lean ====
section
/-! DEFINITION. The CSR registers (spec 19 R463, and each block's register tables: 02 R66, 04 R125, 05 R156, R157, 06 R188,
R189, 07 R216–R219, 08 R245, R246, 09 R268, R269, 10 R309, R310, 11 R332, R333, 12 R363, R364, 13 R391, R392, 14 R408, R409,
15 R420, R421, 16 R435, R436): offsets and fields by the names the spec gives them, and the rows of every register that has a
writable field or a reset value other than 0. Every other offset reads 0 at reset and ignores writes (19 R464). -/
namespace Sys2Proof.Machine

/-- The access codes of a field (00 R8). -/
inductive Acc1
  | ro | rw | wo | w1c | w1s
  deriving DecidableEq, Repr

/-- The values an RW field takes (00 R11): any, a range, a list, or those whose low `n` bits are 0. -/
inductive Legal
  | any
  | range (a b : Nat)
  | oneOf (l : List Nat)
  | low (n : Nat)
  deriving DecidableEq, Repr

/-- Does the field take `v` (00 R11). DESIGN CHOICE (log entry 142): a value whose low bits must be 0 and are not leaves the field as it was; the spec
states no effect of such a write. -/
def Legal.ok : Legal → Nat → Bool
  | .any, _ => true
  | .range a b, v => decide (a ≤ v) && decide (v ≤ b)
  | .oneOf l, v => l.contains v
  | .low n, v => decide (v % 2 ^ n = 0)

/-- A field: its bits, access code, reset value and legal values. -/
structure Fld where
  hi : Nat
  lo : Nat
  acc : Acc1
  reset : Nat
  legal : Legal := .any
  deriving DecidableEq, Repr

/-- A register or an indexed family of registers: offset of the first, stride, count, fields. -/
structure RegRow where
  base : Nat
  stride : Nat
  count : Nat
  flds : List Fld
  deriving DecidableEq, Repr

/-- Does the row hold the register at offset `o`. -/
def RegRow.holds (r : RegRow) (o : Nat) : Bool :=
  if r.stride = 0 then o == r.base
  else decide (r.base ≤ o) && (o - r.base) % r.stride == 0 && decide ((o - r.base) / r.stride < r.count)

/-- The reset value of a row's registers. -/
def RegRow.resetVal (r : RegRow) : Nat := r.flds.foldl (fun n f => n + f.reset * 2 ^ f.lo) 0

/-- A field reference: its bits. -/
abbrev Bits := Nat × Nat

namespace R

/-- GLB_ID. -/
def GLB_ID : Nat := 0
/-- NET_LOADED. -/
def NET_LOADED : Nat := 0xb0000
/-- NET_LOADED loaded. -/
def NET_LOADED_loaded : Bits := (31, 0)
/-- NET_DEGRADED. -/
def NET_DEGRADED : Nat := 0xb0004
/-- NET_DEGRADED degraded. -/
def NET_DEGRADED_degraded : Bits := (31, 0)
/-- NET_REFUSED. -/
def NET_REFUSED : Nat := 0xb0008
/-- NET_REFUSED refused. -/
def NET_REFUSED_refused : Bits := (31, 0)
/-- NET_ISLET_HALTS. -/
def NET_ISLET_HALTS : Nat := 0xb0010
/-- NET_ISLET_HALTS count. -/
def NET_ISLET_HALTS_count : Bits := (31, 0)
/-- NET_LAST_FAULT. -/
def NET_LAST_FAULT : Nat := 0xb0014
/-- NET_LAST_FAULT ecause. -/
def NET_LAST_FAULT_ecause : Bits := (31, 24)
/-- NET_LAST_FAULT slot. -/
def NET_LAST_FAULT_slot : Bits := (20, 16)
/-- NET_LAST_FAULT valid. -/
def NET_LAST_FAULT_valid : Bits := (15, 15)
/-- NET_LAST_FAULT islet. -/
def NET_LAST_FAULT_islet : Bits := (11, 0)
/-- NET_UNIT_STATE, first of 32, 0x40 apart. -/
def NET_UNIT_STATE : Nat := 0xb0100
/-- NET_UNIT_STATE load_result. -/
def NET_UNIT_STATE_load_result : Bits := (23, 16)
/-- NET_UNIT_STATE fit_policy. -/
def NET_UNIT_STATE_fit_policy : Bits := (15, 12)
/-- NET_UNIT_STATE stretch. -/
def NET_UNIT_STATE_stretch : Bits := (11, 8)
/-- NET_UNIT_STATE kind. -/
def NET_UNIT_STATE_kind : Bits := (7, 4)
/-- NET_UNIT_STATE state. -/
def NET_UNIT_STATE_state : Bits := (3, 0)
/-- NET_UNIT_ISLETS, first of 32, 0x40 apart. -/
def NET_UNIT_ISLETS : Nat := 0xb0128
/-- NET_UNIT_ISLETS islets. -/
def NET_UNIT_ISLETS_islets : Bits := (27, 16)
/-- NET_UNIT_ISLETS atolls. -/
def NET_UNIT_ISLETS_atolls : Bits := (5, 0)
/-- PLACE_MIG_BUDGET. -/
def PLACE_MIG_BUDGET : Nat := 0xa0000
/-- PLACE_MIG_BUDGET mib. -/
def PLACE_MIG_BUDGET_mib : Bits := (15, 0)
/-- PLACE_HOLD. -/
def PLACE_HOLD : Nat := 0xa0004
/-- PLACE_HOLD epochs. -/
def PLACE_HOLD_epochs : Bits := (15, 0)
/-- PLACE_T4_SIZE. -/
def PLACE_T4_SIZE : Nat := 0xa0008
/-- PLACE_T4_SIZE gib. -/
def PLACE_T4_SIZE_gib : Bits := (9, 0)
/-- PLACE_T4_BASE_LO. -/
def PLACE_T4_BASE_LO : Nat := 0xa000c
/-- PLACE_T4_BASE_LO addr. -/
def PLACE_T4_BASE_LO_addr : Bits := (31, 0)
/-- PLACE_T4_BASE_HI. -/
def PLACE_T4_BASE_HI : Nat := 0xa0010
/-- PLACE_RESERVE, first of 3, 4 apart. -/
def PLACE_RESERVE : Nat := 0xa0020
/-- PLACE_RESERVE mib. -/
def PLACE_RESERVE_mib : Bits := (11, 0)
/-- PLACE_TMO, first of 4, 4 apart. -/
def PLACE_TMO : Nat := 0xa0030
/-- PLACE_TMO us. -/
def PLACE_TMO_us : Bits := (15, 0)
/-- PLACE_RETIRE_CE. -/
def PLACE_RETIRE_CE : Nat := 0xa0040
/-- PLACE_RETIRE_CE count. -/
def PLACE_RETIRE_CE_count : Bits := (7, 0)
/-- PLACE_STATUS. -/
def PLACE_STATUS : Nat := 0xa0050
/-- PLACE_STATUS last_replan_us. -/
def PLACE_STATUS_last_replan_us : Bits := (31, 24)
/-- PLACE_STATUS objects. -/
def PLACE_STATUS_objects : Bits := (23, 0)
/-- SHORE_WR_CFG. -/
def SHORE_WR_CFG : Nat := 0x50000
/-- SHORE_WR_CFG hi. -/
def SHORE_WR_CFG_hi : Bits := (15, 8)
/-- SHORE_WR_CFG lo. -/
def SHORE_WR_CFG_lo : Bits := (7, 0)
/-- SHORE_PROJ_CFG. -/
def SHORE_PROJ_CFG : Nat := 0x50004
/-- SHORE_PROJ_CFG cam_mask. -/
def SHORE_PROJ_CFG_cam_mask : Bits := (31, 16)
/-- SHORE_PROJ_CFG wait_us. -/
def SHORE_PROJ_CFG_wait_us : Bits := (15, 0)
/-- SHORE_WR_STATUS, first of 2, 4 apart. -/
def SHORE_WR_STATUS : Nat := 0x50010
/-- SHORE_WR_STATUS shed. -/
def SHORE_WR_STATUS_shed : Bits := (23, 16)
/-- SHORE_WR_STATUS fill. -/
def SHORE_WR_STATUS_fill : Bits := (7, 0)
/-- SHORE_PORT_CFG, first of 16, 0x40 apart. -/
def SHORE_PORT_CFG : Nat := 0x50100
/-- SHORE_PORT_CFG enable. -/
def SHORE_PORT_CFG_enable : Bits := (31, 31)
/-- SHORE_PORT_CFG raw_write. -/
def SHORE_PORT_CFG_raw_write : Bits := (30, 30)
/-- SHORE_PORT_CFG priority. -/
def SHORE_PORT_CFG_priority : Bits := (27, 24)
/-- SHORE_PORT_CFG fsync. -/
def SHORE_PORT_CFG_fsync : Bits := (23, 20)
/-- SHORE_PORT_CFG slots. -/
def SHORE_PORT_CFG_slots : Bits := (19, 16)
/-- SHORE_PORT_CFG lanes. -/
def SHORE_PORT_CFG_lanes : Bits := (15, 14)
/-- SHORE_PORT_CFG vc. -/
def SHORE_PORT_CFG_vc : Bits := (13, 12)
/-- SHORE_PORT_CFG data_type. -/
def SHORE_PORT_CFG_data_type : Bits := (7, 0)
/-- SHORE_PORT_SIZE, first of 16, 0x40 apart. -/
def SHORE_PORT_SIZE : Nat := 0x50104
/-- SHORE_PORT_SIZE height. -/
def SHORE_PORT_SIZE_height : Bits := (31, 16)
/-- SHORE_PORT_SIZE width. -/
def SHORE_PORT_SIZE_width : Bits := (15, 0)
/-- SHORE_PORT_PERIOD, first of 16, 0x40 apart. -/
def SHORE_PORT_PERIOD : Nat := 0x50108
/-- SHORE_PORT_PERIOD period_us. -/
def SHORE_PORT_PERIOD_period_us : Bits := (19, 0)
/-- SHORE_FEAT_CFG, first of 16, 0x40 apart. -/
def SHORE_FEAT_CFG : Nat := 0x50110
/-- SHORE_FEAT_CFG detect_en. -/
def SHORE_FEAT_CFG_detect_en : Bits := (31, 31)
/-- SHORE_FEAT_CFG det_levels. -/
def SHORE_FEAT_CFG_det_levels : Bits := (30, 28)
/-- SHORE_FEAT_CFG nms_radius. -/
def SHORE_FEAT_CFG_nms_radius : Bits := (27, 25)
/-- SHORE_FEAT_CFG max_features. -/
def SHORE_FEAT_CFG_max_features : Bits := (24, 12)
/-- SHORE_FEAT_CFG threshold. -/
def SHORE_FEAT_CFG_threshold : Bits := (7, 0)
/-- SHORE_TRACK_CFG, first of 16, 0x40 apart. -/
def SHORE_TRACK_CFG : Nat := 0x50114
/-- SHORE_TRACK_CFG track_en. -/
def SHORE_TRACK_CFG_track_en : Bits := (31, 31)
/-- SHORE_TRACK_CFG prior_en. -/
def SHORE_TRACK_CFG_prior_en : Bits := (30, 30)
/-- SHORE_TRACK_CFG max_tracks. -/
def SHORE_TRACK_CFG_max_tracks : Bits := (27, 16)
/-- SHORE_TRACK_CFG max_residual. -/
def SHORE_TRACK_CFG_max_residual : Bits := (15, 8)
/-- SHORE_TRACK_CFG max_hamming. -/
def SHORE_TRACK_CFG_max_hamming : Bits := (7, 0)
/-- SHORE_PORT_STATUS, first of 16, 0x40 apart. -/
def SHORE_PORT_STATUS : Nat := 0x50118
/-- SHORE_PORT_STATUS lanes_up. -/
def SHORE_PORT_STATUS_lanes_up : Bits := (27, 24)
/-- SHORE_PORT_STATUS shed. -/
def SHORE_PORT_STATUS_shed : Bits := (16, 16)
/-- SHORE_PORT_STATUS state. -/
def SHORE_PORT_STATUS_state : Bits := (3, 0)
/-- SHORE_PAIR_CFG, first of 8, 0x20 apart. -/
def SHORE_PAIR_CFG : Nat := 0x50500
/-- SHORE_PAIR_CFG enable. -/
def SHORE_PAIR_CFG_enable : Bits := (31, 31)
/-- SHORE_PAIR_CFG ref. -/
def SHORE_PAIR_CFG_ref : Bits := (30, 30)
/-- SHORE_PAIR_CFG level. -/
def SHORE_PAIR_CFG_level : Bits := (29, 29)
/-- SHORE_PAIR_CFG lr_check. -/
def SHORE_PAIR_CFG_lr_check : Bits := (28, 28)
/-- SHORE_PAIR_CFG lr_tol. -/
def SHORE_PAIR_CFG_lr_tol : Bits := (27, 24)
/-- SHORE_PAIR_CFG texture_min. -/
def SHORE_PAIR_CFG_texture_min : Bits := (23, 16)
/-- SHORE_PAIR_SGM, first of 8, 0x20 apart. -/
def SHORE_PAIR_SGM : Nat := 0x50504
/-- SHORE_PAIR_SGM p2. -/
def SHORE_PAIR_SGM_p2 : Bits := (15, 8)
/-- SHORE_PAIR_SGM p1. -/
def SHORE_PAIR_SGM_p1 : Bits := (7, 0)
/-- SHORE_PAIR_STATUS, first of 8, 0x20 apart. -/
def SHORE_PAIR_STATUS : Nat := 0x50508
/-- SHORE_PAIR_STATUS trial. -/
def SHORE_PAIR_STATUS_trial : Bits := (23, 16)
/-- SHORE_PAIR_STATUS sensor_skew. -/
def SHORE_PAIR_STATUS_sensor_skew : Bits := (9, 9)
/-- SHORE_PAIR_STATUS pair_skew. -/
def SHORE_PAIR_STATUS_pair_skew : Bits := (8, 8)
/-- SHORE_PAIR_STATUS state. -/
def SHORE_PAIR_STATUS_state : Bits := (3, 0)
/-- SHORE_FSYNC_CFG, first of 8, 0x10 apart. -/
def SHORE_FSYNC_CFG : Nat := 0x50600
/-- SHORE_FSYNC_CFG enable. -/
def SHORE_FSYNC_CFG_enable : Bits := (31, 31)
/-- SHORE_FSYNC_CFG polarity. -/
def SHORE_FSYNC_CFG_polarity : Bits := (30, 30)
/-- SHORE_FSYNC_CFG base. -/
def SHORE_FSYNC_CFG_base : Bits := (29, 29)
/-- SHORE_FSYNC_CFG width_us. -/
def SHORE_FSYNC_CFG_width_us : Bits := (15, 0)
/-- TIME_TB_STATUS, first of 4, 0x40 apart. -/
def TIME_TB_STATUS : Nat := 0x30114
/-- TIME_TB_STATUS hold_expired. -/
def TIME_TB_STATUS_hold_expired : Bits := (8, 8)
/-- TIME_TB_STATUS good. -/
def TIME_TB_STATUS_good : Bits := (7, 4)
/-- TIME_TB_STATUS state. -/
def TIME_TB_STATUS_state : Bits := (3, 0)
/-- TIME_SERVO_CFG, first of 3, 0x20 apart. -/
def TIME_SERVO_CFG : Nat := 0x30300
/-- TIME_SERVO_CFG step_en. -/
def TIME_SERVO_CFG_step_en : Bits := (1, 1)
/-- TIME_SERVO_CFG source. -/
def TIME_SERVO_CFG_source : Bits := (0, 0)
/-- TIME_GPTP_CFG. -/
def TIME_GPTP_CFG : Nat := 0x30400
/-- TIME_GPTP_CFG domain1. -/
def TIME_GPTP_CFG_domain1 : Bits := (31, 24)
/-- TIME_GPTP_CFG domain0. -/
def TIME_GPTP_CFG_domain0 : Bits := (23, 16)
/-- TIME_GPTP_CFG slave1. -/
def TIME_GPTP_CFG_slave1 : Bits := (15, 12)
/-- TIME_GPTP_CFG slave0. -/
def TIME_GPTP_CFG_slave0 : Bits := (11, 8)
/-- TIME_GPTP_CFG port_en. -/
def TIME_GPTP_CFG_port_en : Bits := (3, 0)
/-- TIME_TRK_CFG, first of 24, 0x20 apart. -/
def TIME_TRK_CFG : Nat := 0x30600
/-- TIME_TRK_CFG mode. -/
def TIME_TRK_CFG_mode : Bits := (31, 30)
/-- TIME_TRK_CFG alpha. -/
def TIME_TRK_CFG_alpha : Bits := (27, 24)
/-- TIME_TRK_CFG beta. -/
def TIME_TRK_CFG_beta : Bits := (23, 20)
/-- TIME_TRK_CFG tol_us. -/
def TIME_TRK_CFG_tol_us : Bits := (15, 0)
/-- TIME_TRK_STATUS, first of 24, 0x20 apart. -/
def TIME_TRK_STATUS : Nat := 0x30610
/-- TIME_TRK_STATUS run. -/
def TIME_TRK_STATUS_run : Bits := (19, 16)
/-- TIME_TRK_STATUS state. -/
def TIME_TRK_STATUS_state : Bits := (1, 0)
/-- COND_IMU_CFG, first of 2, 0x20 apart. -/
def COND_IMU_CFG : Nat := 0x40040
/-- COND_IMU_CFG enable. -/
def COND_IMU_CFG_enable : Bits := (31, 31)
/-- COND_IMU_CFG spi_mode. -/
def COND_IMU_CFG_spi_mode : Bits := (30, 30)
/-- COND_IMU_CFG width. -/
def COND_IMU_CFG_width : Bits := (29, 28)
/-- COND_IMU_CFG first. -/
def COND_IMU_CFG_first : Bits := (27, 24)
/-- COND_IMU_CFG command. -/
def COND_IMU_CFG_command : Bits := (23, 16)
/-- COND_IMU_CFG sclk_div. -/
def COND_IMU_CFG_sclk_div : Bits := (15, 8)
/-- COND_IMU_CFG rate. -/
def COND_IMU_CFG_rate : Bits := (3, 0)
/-- COND_WHEEL_CFG. -/
def COND_WHEEL_CFG : Nat := 0x40010
/-- COND_WHEEL_CFG enable. -/
def COND_WHEEL_CFG_enable : Bits := (31, 24)
/-- COND_WHEEL_CFG edge. -/
def COND_WHEEL_CFG_edge : Bits := (23, 16)
/-- COND_WHEEL_CFG glitch. -/
def COND_WHEEL_CFG_glitch : Bits := (15, 8)
/-- COND_WHEEL_CFG sample_rate. -/
def COND_WHEEL_CFG_sample_rate : Bits := (7, 5)
/-- COND_WHEEL_CFG timeout_ms. -/
def COND_WHEEL_CFG_timeout_ms : Bits := (4, 0)
/-- COND_SYNC_CFG. -/
def COND_SYNC_CFG : Nat := 0x40000
/-- COND_SYNC_CFG edge. -/
def COND_SYNC_CFG_edge : Bits := (1, 1)
/-- COND_SYNC_CFG enable. -/
def COND_SYNC_CFG_enable : Bits := (0, 0)
/-- COND_CAN_CFG, first of 4, 0x10 apart. -/
def COND_CAN_CFG : Nat := 0x400c0
/-- COND_CAN_CFG enable. -/
def COND_CAN_CFG_enable : Bits := (31, 31)
/-- COND_CAN_CFG listen_only. -/
def COND_CAN_CFG_listen_only : Bits := (30, 30)
/-- COND_CAN_CFG data_rate. -/
def COND_CAN_CFG_data_rate : Bits := (15, 8)
/-- COND_CAN_CFG nominal_rate. -/
def COND_CAN_CFG_nominal_rate : Bits := (7, 0)
/-- COND_CH_CFG, first of 24, 0x40 apart. -/
def COND_CH_CFG : Nat := 0x40200
/-- COND_CH_CFG enable. -/
def COND_CH_CFG_enable : Bits := (31, 31)
/-- COND_CH_CFG rank_w. -/
def COND_CH_CFG_rank_w : Bits := (27, 24)
/-- COND_CH_CFG rank_r. -/
def COND_CH_CFG_rank_r : Bits := (23, 20)
/-- COND_CH_CFG q. -/
def COND_CH_CFG_q : Bits := (19, 15)
/-- COND_CH_CFG taps. -/
def COND_CH_CFG_taps : Bits := (14, 8)
/-- COND_CH_DET_CFG, first of 24, 0x40 apart. -/
def COND_CH_DET_CFG : Nat := 0x40208
/-- COND_CH_DET_CFG window. -/
def COND_CH_DET_CFG_window : Bits := (31, 16)
/-- COND_CH_DET_CFG env_shift. -/
def COND_CH_DET_CFG_env_shift : Bits := (15, 12)
/-- COND_CH_DET_CFG env_en. -/
def COND_CH_DET_CFG_env_en : Bits := (2, 2)
/-- COND_CH_DET_CFG rms_en. -/
def COND_CH_DET_CFG_rms_en : Bits := (1, 1)
/-- COND_CH_DET_CFG peak_en. -/
def COND_CH_DET_CFG_peak_en : Bits := (0, 0)
/-- COND_CH_STATUS, first of 24, 0x40 apart. -/
def COND_CH_STATUS : Nat := 0x40228
/-- COND_CH_STATUS settling. -/
def COND_CH_STATUS_settling : Bits := (1, 1)
/-- COND_CH_STATUS centroid_fallback. -/
def COND_CH_STATUS_centroid_fallback : Bits := (0, 0)
/-- FUSE_OUT_CFG. -/
def FUSE_OUT_CFG : Nat := 0x60000
/-- FUSE_OUT_CFG seal_wait_us. -/
def FUSE_OUT_CFG_seal_wait_us : Bits := (15, 8)
/-- FUSE_OUT_CFG div. -/
def FUSE_OUT_CFG_div : Bits := (5, 0)
/-- FUSE_SMOOTH_CFG. -/
def FUSE_SMOOTH_CFG : Nat := 0x60004
/-- FUSE_SMOOTH_CFG lag_ms. -/
def FUSE_SMOOTH_CFG_lag_ms : Bits := (25, 16)
/-- FUSE_SMOOTH_CFG period_ms. -/
def FUSE_SMOOTH_CFG_period_ms : Bits := (5, 0)
/-- FUSE_NET_CFG. -/
def FUSE_NET_CFG : Nat := 0x60008
/-- FUSE_NET_CFG enable. -/
def FUSE_NET_CFG_enable : Bits := (31, 31)
/-- FUSE_NET_CFG slot. -/
def FUSE_NET_CFG_slot : Bits := (20, 16)
/-- FUSE_NET_CFG assoc_px. -/
def FUSE_NET_CFG_assoc_px : Bits := (15, 8)
/-- FUSE_GATE_CFG. -/
def FUSE_GATE_CFG : Nat := 0x6000c
/-- FUSE_GATE_CFG gate_fails. -/
def FUSE_GATE_CFG_gate_fails : Bits := (31, 24)
/-- FUSE_GATE_CFG gate_passes. -/
def FUSE_GATE_CFG_gate_passes : Bits := (23, 16)
/-- FUSE_GATE_CFG dropout_ms. -/
def FUSE_GATE_CFG_dropout_ms : Bits := (15, 0)
/-- FUSE_CONF_SIGMA. -/
def FUSE_CONF_SIGMA : Nat := 0x60034
/-- FUSE_CONF_SIGMA sigma_hi. -/
def FUSE_CONF_SIGMA_sigma_hi : Bits := (31, 16)
/-- FUSE_CONF_SIGMA sigma_lo. -/
def FUSE_CONF_SIGMA_sigma_lo : Bits := (15, 0)
/-- FUSE_CONF_PEN, first of 8, 4 apart. -/
def FUSE_CONF_PEN : Nat := 0x60040
/-- FUSE_CONF_PEN pen_3. -/
def FUSE_CONF_PEN_pen_3 : Bits := (31, 24)
/-- FUSE_CONF_PEN pen_2. -/
def FUSE_CONF_PEN_pen_2 : Bits := (23, 16)
/-- FUSE_CONF_PEN pen_1. -/
def FUSE_CONF_PEN_pen_1 : Bits := (15, 8)
/-- FUSE_CONF_PEN pen_0. -/
def FUSE_CONF_PEN_pen_0 : Bits := (7, 0)
/-- FUSE_STATUS. -/
def FUSE_STATUS : Nat := 0x60060
/-- FUSE_STATUS net_bad. -/
def FUSE_STATUS_net_bad : Bits := (8, 8)
/-- FUSE_STATUS primary_imu. -/
def FUSE_STATUS_primary_imu : Bits := (7, 4)
/-- FUSE_STATUS state. -/
def FUSE_STATUS_state : Bits := (3, 0)
/-- FUSE_MASK_CAUSE, first of 4, 4 apart. -/
def FUSE_MASK_CAUSE : Nat := 0x600c0
/-- GSOL_CFG. -/
def GSOL_CFG : Nat := 0x70000
/-- GSOL_CFG enable. -/
def GSOL_CFG_enable : Bits := (31, 31)
/-- GSOL_CFG closure_en. -/
def GSOL_CFG_closure_en : Bits := (30, 30)
/-- GSOL_CFG subgraph_en. -/
def GSOL_CFG_subgraph_en : Bits := (29, 29)
/-- GSOL_CFG verify_slot. -/
def GSOL_CFG_verify_slot : Bits := (20, 16)
/-- GSOL_CFG encoder_slot. -/
def GSOL_CFG_encoder_slot : Bits := (12, 8)
/-- GSOL_CFG max_iter. -/
def GSOL_CFG_max_iter : Bits := (4, 0)
/-- GSOL_KF_CFG. -/
def GSOL_KF_CFG : Nat := 0x70004
/-- GSOL_KF_CFG kf_dist_cm. -/
def GSOL_KF_CFG_kf_dist_cm : Bits := (31, 16)
/-- GSOL_KF_CFG kf_angle. -/
def GSOL_KF_CFG_kf_angle : Bits := (15, 8)
/-- GSOL_QUERY_CFG. -/
def GSOL_QUERY_CFG : Nat := 0x70008
/-- GSOL_QUERY_CFG k. -/
def GSOL_QUERY_CFG_k : Bits := (31, 24)
/-- GSOL_QUERY_CFG beam_q4. -/
def GSOL_QUERY_CFG_beam_q4 : Bits := (23, 16)
/-- GSOL_QUERY_CFG min_age_s. -/
def GSOL_QUERY_CFG_min_age_s : Bits := (15, 0)
/-- GSOL_ACCEPT_CFG. -/
def GSOL_ACCEPT_CFG : Nat := 0x7000c
/-- GSOL_ACCEPT_CFG min_inliers. -/
def GSOL_ACCEPT_CFG_min_inliers : Bits := (31, 16)
/-- GSOL_SUBGRAPH_CFG. -/
def GSOL_SUBGRAPH_CFG : Nat := 0x7001c
/-- GSOL_SUBGRAPH_CFG radius_m. -/
def GSOL_SUBGRAPH_CFG_radius_m : Bits := (31, 20)
/-- GSOL_SUBGRAPH_CFG max_nodes. -/
def GSOL_SUBGRAPH_CFG_max_nodes : Bits := (16, 0)
/-- GSOL_STATUS. -/
def GSOL_STATUS : Nat := 0x70040
/-- GSOL_STATUS ld_ready. -/
def GSOL_STATUS_ld_ready : Bits := (10, 10)
/-- GSOL_STATUS spilled. -/
def GSOL_STATUS_spilled : Bits := (9, 9)
/-- GSOL_STATUS pending. -/
def GSOL_STATUS_pending : Bits := (8, 4)
/-- GSOL_STATUS state. -/
def GSOL_STATUS_state : Bits := (3, 0)
/-- MAP_CFG. -/
def MAP_CFG : Nat := 0x80000
/-- MAP_CFG format_blank. -/
def MAP_CFG_format_blank : Bits := (16, 16)
/-- MAP_CFG commit_ms. -/
def MAP_CFG_commit_ms : Bits := (15, 0)
/-- MAP_CKPT_CFG. -/
def MAP_CKPT_CFG : Nat := 0x80004
/-- MAP_CKPT_CFG ckpt_commits. -/
def MAP_CKPT_CFG_ckpt_commits : Bits := (31, 24)
/-- MAP_CKPT_CFG ckpt_mib. -/
def MAP_CKPT_CFG_ckpt_mib : Bits := (15, 0)
/-- MAP_ECC_CFG. -/
def MAP_ECC_CFG : Nat := 0x80008
/-- MAP_ECC_CFG refresh_bits. -/
def MAP_ECC_CFG_refresh_bits : Bits := (31, 24)
/-- MAP_ECC_CFG commit_margin. -/
def MAP_ECC_CFG_commit_margin : Bits := (23, 16)
/-- MAP_ECC_CFG retry_max. -/
def MAP_ECC_CFG_retry_max : Bits := (11, 8)
/-- MAP_WEAR_CFG. -/
def MAP_WEAR_CFG : Nat := 0x8000c
/-- MAP_WEAR_CFG static_delta. -/
def MAP_WEAR_CFG_static_delta : Bits := (31, 16)
/-- MAP_WEAR_CFG life_margin. -/
def MAP_WEAR_CFG_life_margin : Bits := (15, 8)
/-- MAP_PATROL_CFG. -/
def MAP_PATROL_CFG : Nat := 0x80010
/-- MAP_PATROL_CFG patrol_hours. -/
def MAP_PATROL_CFG_patrol_hours : Bits := (31, 16)
/-- MAP_PATROL_CFG disturb_k. -/
def MAP_PATROL_CFG_disturb_k : Bits := (15, 0)
/-- MAP_STATUS. -/
def MAP_STATUS : Nat := 0x80040
/-- MAP_STATUS geo_valid. -/
def MAP_STATUS_geo_valid : Bits := (11, 11)
/-- MAP_STATUS sealed. -/
def MAP_STATUS_sealed : Bits := (10, 10)
/-- MAP_STATUS chain_break. -/
def MAP_STATUS_chain_break : Bits := (9, 9)
/-- MAP_STATUS pfail_done. -/
def MAP_STATUS_pfail_done : Bits := (8, 8)
/-- MAP_STATUS budget. -/
def MAP_STATUS_budget : Bits := (5, 4)
/-- MAP_STATUS state. -/
def MAP_STATUS_state : Bits := (3, 0)
/-- MAP_CHANNELS. -/
def MAP_CHANNELS : Nat := 0x80044
/-- MAP_CHANNELS present. -/
def MAP_CHANNELS_present : Bits := (31, 16)
/-- MAP_CHANNELS up. -/
def MAP_CHANNELS_up : Bits := (15, 0)
/-- REEF_CFG. -/
def REEF_CFG : Nat := 0x90000
/-- REEF_CFG enable. -/
def REEF_CFG_enable : Bits := (31, 31)
/-- REEF_CFG compact_en. -/
def REEF_CFG_compact_en : Bits := (30, 30)
/-- REEF_CFG mirror. -/
def REEF_CFG_mirror : Bits := (29, 29)
/-- REEF_CFG ctx_reserve. -/
def REEF_CFG_ctx_reserve : Bits := (23, 16)
/-- REEF_CFG gsol_class. -/
def REEF_CFG_gsol_class : Bits := (15, 12)
/-- REEF_GSOL_CFG. -/
def REEF_GSOL_CFG : Nat := 0x90004
/-- REEF_GSOL_CFG gsol_hops. -/
def REEF_GSOL_CFG_gsol_hops : Bits := (31, 16)
/-- REEF_GSOL_CFG gsol_rerank. -/
def REEF_GSOL_CFG_gsol_rerank : Bits := (8, 0)
/-- REEF_INS_CFG. -/
def REEF_INS_CFG : Nat := 0x90008
/-- REEF_INS_CFG ins_beam_q4. -/
def REEF_INS_CFG_ins_beam_q4 : Bits := (23, 16)
/-- REEF_INS_CFG ins_hops. -/
def REEF_INS_CFG_ins_hops : Bits := (15, 0)
/-- REEF_COMPACT_CFG. -/
def REEF_COMPACT_CFG : Nat := 0x9000c
/-- REEF_COMPACT_CFG pages_per_s. -/
def REEF_COMPACT_CFG_pages_per_s : Bits := (15, 0)
/-- REEF_STATUS. -/
def REEF_STATUS : Nat := 0x90040
/-- REEF_STATUS paused. -/
def REEF_STATUS_paused : Bits := (8, 8)
/-- REEF_STATUS state. -/
def REEF_STATUS_state : Bits := (3, 0)
/-- REEF_ENG_CTX, first of 16, 0x10 apart. -/
def REEF_ENG_CTX : Nat := 0x90100
/-- REEF_ENG_CTX peak. -/
def REEF_ENG_CTX_peak : Bits := (24, 16)
/-- REEF_ENG_CTX busy. -/
def REEF_ENG_CTX_busy : Bits := (8, 0)
/-- GLB_STATE. -/
def GLB_STATE : Nat := 4
/-- GLB_STATE safe_stop. -/
def GLB_STATE_safe_stop : Bits := (8, 8)
/-- GLB_STATE state. -/
def GLB_STATE_state : Bits := (3, 0)
/-- GLB_DEGRADED. -/
def GLB_DEGRADED : Nat := 8
/-- GLB_DEGRADED cal_invalid. -/
def GLB_DEGRADED_cal_invalid : Bits := (9, 9)
/-- GLB_DEGRADED link_width. -/
def GLB_DEGRADED_link_width : Bits := (8, 8)
/-- GLB_DEGRADED map_read_only. -/
def GLB_DEGRADED_map_read_only : Bits := (7, 7)
/-- GLB_DEGRADED map_failed. -/
def GLB_DEGRADED_map_failed : Bits := (6, 6)
/-- GLB_DEGRADED map_blank. -/
def GLB_DEGRADED_map_blank : Bits := (5, 5)
/-- GLB_DEGRADED pair_refused. -/
def GLB_DEGRADED_pair_refused : Bits := (4, 4)
/-- GLB_DEGRADED port_refused. -/
def GLB_DEGRADED_port_refused : Bits := (3, 3)
/-- GLB_DEGRADED pin_drop. -/
def GLB_DEGRADED_pin_drop : Bits := (2, 2)
/-- GLB_DEGRADED net_refused. -/
def GLB_DEGRADED_net_refused : Bits := (1, 1)
/-- GLB_DEGRADED net. -/
def GLB_DEGRADED_net : Bits := (0, 0)
/-- GLB_CMD. -/
def GLB_CMD : Nat := 0x10
/-- GLB_CMD token. -/
def GLB_CMD_token : Bits := (31, 24)
/-- GLB_CMD opcode. -/
def GLB_CMD_opcode : Bits := (7, 0)
/-- GLB_CMD_STATUS. -/
def GLB_CMD_STATUS : Nat := 0x1c
/-- GLB_CMD_STATUS token. -/
def GLB_CMD_STATUS_token : Bits := (31, 24)
/-- GLB_CMD_STATUS opcode. -/
def GLB_CMD_STATUS_opcode : Bits := (23, 16)
/-- GLB_CMD_STATUS pending. -/
def GLB_CMD_STATUS_pending : Bits := (8, 8)
/-- GLB_CMD_STATUS code. -/
def GLB_CMD_STATUS_code : Bits := (3, 0)
/-- CFG_BOOT_STATUS. -/
def CFG_BOOT_STATUS : Nat := 0x10000
/-- CFG_BOOT_STATUS first_fail. -/
def CFG_BOOT_STATUS_first_fail : Bits := (23, 16)
/-- CFG_BOOT_STATUS active_slot. -/
def CFG_BOOT_STATUS_active_slot : Bits := (9, 8)
/-- CFG_BOOT_STATUS fallback. -/
def CFG_BOOT_STATUS_fallback : Bits := (0, 0)
/-- CFG_SHADOW_STATUS. -/
def CFG_SHADOW_STATUS : Nat := 0x10010
/-- CFG_SHADOW_STATUS reason. -/
def CFG_SHADOW_STATUS_reason : Bits := (23, 16)
/-- CFG_SHADOW_STATUS slot. -/
def CFG_SHADOW_STATUS_slot : Bits := (9, 8)
/-- CFG_SHADOW_STATUS state. -/
def CFG_SHADOW_STATUS_state : Bits := (2, 0)
/-- CFG_CAL_CFG. -/
def CFG_CAL_CFG : Nat := 0x10020
/-- CFG_CAL_CFG autocommit. -/
def CFG_CAL_CFG_autocommit : Bits := (0, 0)
/-- CFG_CAL_STATUS. -/
def CFG_CAL_STATUS : Nat := 0x10028
/-- CFG_CAL_STATUS committing. -/
def CFG_CAL_STATUS_committing : Bits := (8, 8)
/-- CFG_CAL_STATUS record. -/
def CFG_CAL_STATUS_record : Bits := (1, 0)
/-- CFG_RING_CFG, first of 6, 0x20 apart. -/
def CFG_RING_CFG : Nat := 0x10108
/-- CFG_RING_CFG enable. -/
def CFG_RING_CFG_enable : Bits := (31, 31)
/-- CFG_RING_CFG entries_log2. -/
def CFG_RING_CFG_entries_log2 : Bits := (4, 0)
/-- CHAIN_CFG. -/
def CHAIN_CFG : Nat := 0xe0000
/-- CHAIN_CFG enum_tmo_ms. -/
def CHAIN_CFG_enum_tmo_ms : Bits := (31, 16)
/-- CHAIN_CFG req_tmo_us. -/
def CHAIN_CFG_req_tmo_us : Bits := (15, 0)
/-- CHAIN_STATUS. -/
def CHAIN_STATUS : Nat := 0xe0004
/-- CHAIN_STATUS head. -/
def CHAIN_STATUS_head : Bits := (31, 31)
/-- CHAIN_STATUS state. -/
def CHAIN_STATUS_state : Bits := (25, 24)
/-- CHAIN_STATUS count. -/
def CHAIN_STATUS_count : Bits := (12, 8)
/-- CHAIN_STATUS address. -/
def CHAIN_STATUS_address : Bits := (3, 0)
/-- CHAIN_PORT_STATUS, first of 2, 4 apart. -/
def CHAIN_PORT_STATUS : Nat := 0xe0010
/-- CHAIN_PORT_STATUS lanes_good. -/
def CHAIN_PORT_STATUS_lanes_good : Bits := (15, 12)
/-- CHAIN_PORT_STATUS width. -/
def CHAIN_PORT_STATUS_width : Bits := (9, 8)
/-- CHAIN_PORT_STATUS state. -/
def CHAIN_PORT_STATUS_state : Bits := (2, 0)
/-- CHAIN_TEST. -/
def CHAIN_TEST : Nat := 0xe0020
/-- CHAIN_TEST port. -/
def CHAIN_TEST_port : Bits := (8, 8)
/-- CHAIN_TEST mode. -/
def CHAIN_TEST_mode : Bits := (1, 0)
/-- HOST_LINK_STATUS. -/
def HOST_LINK_STATUS : Nat := 0xf0000
/-- HOST_LINK_STATUS speed. -/
def HOST_LINK_STATUS_speed : Bits := (15, 12)
/-- HOST_LINK_STATUS width. -/
def HOST_LINK_STATUS_width : Bits := (7, 4)
/-- HOST_LINK_STATUS bme. -/
def HOST_LINK_STATUS_bme : Bits := (2, 2)
/-- HOST_LINK_STATUS link_up. -/
def HOST_LINK_STATUS_link_up : Bits := (0, 0)
/-- HOST_BAR2_CFG. -/
def HOST_BAR2_CFG : Nat := 0xf0004
/-- HOST_BAR2_CFG direct. -/
def HOST_BAR2_CFG_direct : Bits := (8, 8)
/-- HOST_BAR2_CFG deadline_class. -/
def HOST_BAR2_CFG_deadline_class : Bits := (3, 0)
/-- HOST_BAR2_BASE. -/
def HOST_BAR2_BASE : Nat := 0xf0008
/-- HOST_BAR2_BASE gib. -/
def HOST_BAR2_BASE_gib : Bits := (9, 0)
/-- HOST_RELAY_CTL. -/
def HOST_RELAY_CTL : Nat := 0xf0010
/-- HOST_RELAY_CTL busy. -/
def HOST_RELAY_CTL_busy : Bits := (31, 31)
/-- HOST_RELAY_CTL result. -/
def HOST_RELAY_CTL_result : Bits := (26, 24)
/-- HOST_RELAY_CTL op. -/
def HOST_RELAY_CTL_op : Bits := (1, 0)
/-- HOST_START_STATUS. -/
def HOST_START_STATUS : Nat := 0xf0020
/-- HOST_START_STATUS resume_fail. -/
def HOST_START_STATUS_resume_fail : Bits := (23, 16)
/-- HOST_START_STATUS resumed. -/
def HOST_START_STATUS_resumed : Bits := (0, 0)
/-- SEC_STATUS. -/
def SEC_STATUS : Nat := 0xc0000
/-- SEC_STATUS rollback_rows. -/
def SEC_STATUS_rollback_rows : Bits := (15, 8)
/-- SEC_STATUS entropy_fail. -/
def SEC_STATUS_entropy_fail : Bits := (7, 7)
/-- SEC_STATUS counter_full. -/
def SEC_STATUS_counter_full : Bits := (6, 6)
/-- SEC_STATUS enrol_done. -/
def SEC_STATUS_enrol_done : Bits := (5, 5)
/-- SEC_STATUS vendor_disable. -/
def SEC_STATUS_vendor_disable : Bits := (4, 4)
/-- SEC_STATUS integrator_key_set. -/
def SEC_STATUS_integrator_key_set : Bits := (3, 3)
/-- SEC_STATUS boot_key. -/
def SEC_STATUS_boot_key : Bits := (2, 2)
/-- SEC_STATUS identity. -/
def SEC_STATUS_identity : Bits := (1, 0)
/-- SEC_OTP_PROG. -/
def SEC_OTP_PROG : Nat := 0xc0004
/-- SEC_OTP_PROG busy. -/
def SEC_OTP_PROG_busy : Bits := (31, 31)
/-- SEC_OTP_PROG result. -/
def SEC_OTP_PROG_result : Bits := (27, 24)
/-- SEC_OTP_PROG target. -/
def SEC_OTP_PROG_target : Bits := (1, 0)
/-- INTC_PEND, first of 16, 4 apart. -/
def INTC_PEND : Nat := 0x20000
/-- INTC_PEND pend. -/
def INTC_PEND_pend : Bits := (31, 0)
/-- INTC_MASK, first of 16, 4 apart. -/
def INTC_MASK : Nat := 0x20040
/-- INTC_MASK mask. -/
def INTC_MASK_mask : Bits := (31, 0)
/-- INTC_LEVEL, first of 16, 4 apart. -/
def INTC_LEVEL : Nat := 0x20080
/-- INTC_LEVEL level. -/
def INTC_LEVEL_level : Bits := (31, 0)
/-- INTC_SOFT. -/
def INTC_SOFT : Nat := 0x200c0
/-- INTC_SOFT soft. -/
def INTC_SOFT_soft : Bits := (15, 0)
/-- INTC_MISSED. -/
def INTC_MISSED : Nat := 0x200c4
/-- INTC_MISSED count. -/
def INTC_MISSED_count : Bits := (31, 0)
/-- INTC_COUNT, first of 512, 4 apart. -/
def INTC_COUNT : Nat := 0x20400
/-- INTC_COUNT count. -/
def INTC_COUNT_count : Bits := (7, 0)
/-- INTC_ROUTE, first of 512, 4 apart. -/
def INTC_ROUTE : Nat := 0x21000
/-- INTC_ROUTE msix_en. -/
def INTC_ROUTE_msix_en : Bits := (31, 31)
/-- INTC_ROUTE pin1_en. -/
def INTC_ROUTE_pin1_en : Bits := (30, 30)
/-- INTC_ROUTE pin0_en. -/
def INTC_ROUTE_pin0_en : Bits := (29, 29)
/-- INTC_ROUTE chain_en. -/
def INTC_ROUTE_chain_en : Bits := (28, 28)
/-- INTC_ROUTE chain_dest. -/
def INTC_ROUTE_chain_dest : Bits := (27, 24)
/-- INTC_ROUTE vector. -/
def INTC_ROUTE_vector : Bits := (5, 0)
/-- INTC_PEER_SRC, first of 16, 4 apart. -/
def INTC_PEER_SRC : Nat := 0x21800
/-- INTC_PEER_SRC count. -/
def INTC_PEER_SRC_count : Bits := (31, 24)
/-- INTC_PEER_SRC level_high. -/
def INTC_PEER_SRC_level_high : Bits := (17, 17)
/-- INTC_PEER_SRC level. -/
def INTC_PEER_SRC_level : Bits := (16, 16)
/-- INTC_PEER_SRC source. -/
def INTC_PEER_SRC_source : Bits := (8, 0)
/-- PWR_CAP. -/
def PWR_CAP : Nat := 0xd0000
/-- PWR_CAP watts. -/
def PWR_CAP_watts : Bits := (7, 0)
/-- PWR_THERM_CFG. -/
def PWR_THERM_CFG : Nat := 0xd0004
/-- PWR_THERM_CFG trip_c. -/
def PWR_THERM_CFG_trip_c : Bits := (15, 8)
/-- PWR_THERM_CFG throttle_c. -/
def PWR_THERM_CFG_throttle_c : Bits := (7, 0)
/-- PWR_WAKE_CFG. -/
def PWR_WAKE_CFG : Nat := 0xd0008
/-- PWR_WAKE_CFG can_wake_us. -/
def PWR_WAKE_CFG_can_wake_us : Bits := (23, 16)
/-- PWR_WAKE_CFG pfail_en. -/
def PWR_WAKE_CFG_pfail_en : Bits := (9, 9)
/-- PWR_WAKE_CFG alarm_en. -/
def PWR_WAKE_CFG_alarm_en : Bits := (8, 8)
/-- PWR_WAKE_CFG can_en. -/
def PWR_WAKE_CFG_can_en : Bits := (7, 4)
/-- PWR_WAKE_CFG wake_n_en. -/
def PWR_WAKE_CFG_wake_n_en : Bits := (3, 0)
/-- PWR_WATCH_CFG. -/
def PWR_WATCH_CFG : Nat := 0xd000c
/-- PWR_WATCH_CFG port. -/
def PWR_WATCH_CFG_port : Bits := (2, 0)
/-- PWR_STATUS. -/
def PWR_STATUS : Nat := 0xd0040
/-- PWR_STATUS eff_cap. -/
def PWR_STATUS_eff_cap : Bits := (31, 24)
/-- PWR_STATUS tj_max. -/
def PWR_STATUS_tj_max : Bits := (15, 4)
/-- PWR_STATUS over. -/
def PWR_STATUS_over : Bits := (3, 3)
/-- PWR_STATUS thermal. -/
def PWR_STATUS_thermal : Bits := (2, 2)
/-- PWR_STATUS capped. -/
def PWR_STATUS_capped : Bits := (1, 1)
/-- PWR_STATUS pfail. -/
def PWR_STATUS_pfail : Bits := (0, 0)
/-- PWR_DOMAINS. -/
def PWR_DOMAINS : Nat := 0xd0044
/-- PWR_DOMAINS shore. -/
def PWR_DOMAINS_shore : Bits := (23, 8)
/-- PWR_DOMAINS reef_onfi. -/
def PWR_DOMAINS_reef_onfi : Bits := (7, 7)
/-- PWR_DOMAINS hbm. -/
def PWR_DOMAINS_hbm : Bits := (6, 6)
/-- PWR_DOMAINS shoal1. -/
def PWR_DOMAINS_shoal1 : Bits := (5, 5)
/-- PWR_DOMAINS shoal0. -/
def PWR_DOMAINS_shoal0 : Bits := (4, 4)
/-- PWR_DOMAINS isle1. -/
def PWR_DOMAINS_isle1 : Bits := (3, 3)
/-- PWR_DOMAINS isle0. -/
def PWR_DOMAINS_isle0 : Bits := (2, 2)
/-- PWR_DOMAINS harbour. -/
def PWR_DOMAINS_harbour : Bits := (1, 1)
/-- PWR_DOMAINS skerry. -/
def PWR_DOMAINS_skerry : Bits := (0, 0)
/-- PWR_WAKE_CAUSE. -/
def PWR_WAKE_CAUSE : Nat := 0xd0048
/-- PWR_WAKE_CAUSE pfail. -/
def PWR_WAKE_CAUSE_pfail : Bits := (9, 9)
/-- PWR_WAKE_CAUSE alarm. -/
def PWR_WAKE_CAUSE_alarm : Bits := (8, 8)
/-- PWR_WAKE_CAUSE can. -/
def PWR_WAKE_CAUSE_can : Bits := (7, 4)
/-- PWR_WAKE_CAUSE wake_n. -/
def PWR_WAKE_CAUSE_wake_n : Bits := (3, 0)
/-- NET_UNIT_CFG_PERIOD, first of 32, 0x40 apart. -/
def NET_UNIT_CFG_PERIOD : Nat := 0xb0104
/-- NET_UNIT_ACT_PERIOD, first of 32, 0x40 apart. -/
def NET_UNIT_ACT_PERIOD : Nat := 0xb0108
/-- NET_UNIT_ACHIEVABLE, first of 32, 0x40 apart. -/
def NET_UNIT_ACHIEVABLE : Nat := 0xb010c
/-- NET_UNIT_INVOKE, first of 32, 0x40 apart. -/
def NET_UNIT_INVOKE : Nat := 0xb0110
/-- NET_UNIT_LATE, first of 32, 0x40 apart. -/
def NET_UNIT_LATE : Nat := 0xb0114
/-- NET_WEIGHT_LATE, first of 32, 0x40 apart. -/
def NET_WEIGHT_LATE : Nat := 0xb0118
/-- NET_UNIT_SKIP, first of 32, 0x40 apart. -/
def NET_UNIT_SKIP : Nat := 0xb011c
/-- NET_UNIT_FAIL, first of 32, 0x40 apart. -/
def NET_UNIT_FAIL : Nat := 0xb0120
/-- NET_UNIT_RUNTIME, first of 32, 0x40 apart. -/
def NET_UNIT_RUNTIME : Nat := 0xb0124
/-- NET_UNIT_RING_LO, first of 32, 0x40 apart. -/
def NET_UNIT_RING_LO : Nat := 0xb012c
/-- NET_UNIT_RING_HI, first of 32, 0x40 apart. -/
def NET_UNIT_RING_HI : Nat := 0xb0130
/-- PLACE_EVICT_CANCEL. -/
def PLACE_EVICT_CANCEL : Nat := 0xa0200
/-- PLACE_PROMOTE_WAIT. -/
def PLACE_PROMOTE_WAIT : Nat := 0xa0204
/-- PLACE_TIMEOUT. -/
def PLACE_TIMEOUT : Nat := 0xa0208
/-- PLACE_STALE. -/
def PLACE_STALE : Nat := 0xa020c
/-- PLACE_NO_SPACE. -/
def PLACE_NO_SPACE : Nat := 0xa0210
/-- PLACE_CREDIT_WAIT. -/
def PLACE_CREDIT_WAIT : Nat := 0xa0214
/-- PLACE_REPLAN_LATE. -/
def PLACE_REPLAN_LATE : Nat := 0xa0218
/-- PLACE_CE. -/
def PLACE_CE : Nat := 0xa021c
/-- PLACE_UE. -/
def PLACE_UE : Nat := 0xa0220
/-- PLACE_DECISIONS. -/
def PLACE_DECISIONS : Nat := 0xa0224
/-- SHORE_DROP_OVF. -/
def SHORE_DROP_OVF : Nat := 0x50020
/-- SHORE_PROJ_LATE. -/
def SHORE_PROJ_LATE : Nat := 0x50024
/-- SHORE_PROJ_CAPPED. -/
def SHORE_PROJ_CAPPED : Nat := 0x50028
/-- SHORE_LIDAR_UNMATCHED. -/
def SHORE_LIDAR_UNMATCHED : Nat := 0x5002c
/-- SHORE_PORT_EXPOFF, first of 16, 0x40 apart. -/
def SHORE_PORT_EXPOFF : Nat := 0x5010c
/-- SHORE_FRAMES, first of 16, 0x40 apart. -/
def SHORE_FRAMES : Nat := 0x5011c
/-- SHORE_DROP_SHED, first of 16, 0x40 apart. -/
def SHORE_DROP_SHED : Nat := 0x50120
/-- SHORE_DROP_BAD, first of 16, 0x40 apart. -/
def SHORE_DROP_BAD : Nat := 0x50124
/-- SHORE_CSI_ERR, first of 16, 0x40 apart. -/
def SHORE_CSI_ERR : Nat := 0x50128
/-- SHORE_PORT_RING_LO, first of 16, 0x40 apart. -/
def SHORE_PORT_RING_LO : Nat := 0x5012c
/-- SHORE_PORT_RING_HI, first of 16, 0x40 apart. -/
def SHORE_PORT_RING_HI : Nat := 0x50130
/-- SHORE_DEPTH_RING_LO, first of 16, 0x40 apart. -/
def SHORE_DEPTH_RING_LO : Nat := 0x50134
/-- SHORE_DEPTH_RING_HI, first of 16, 0x40 apart. -/
def SHORE_DEPTH_RING_HI : Nat := 0x50138
/-- SHORE_PAIR_SKEW, first of 8, 0x20 apart. -/
def SHORE_PAIR_SKEW : Nat := 0x5050c
/-- SHORE_PAIR_SUSPEND, first of 8, 0x20 apart. -/
def SHORE_PAIR_SUSPEND : Nat := 0x50510
/-- SHORE_PAIR_NOPARTNER, first of 8, 0x20 apart. -/
def SHORE_PAIR_NOPARTNER : Nat := 0x50514
/-- SHORE_PAIR_RING_LO, first of 8, 0x20 apart. -/
def SHORE_PAIR_RING_LO : Nat := 0x50518
/-- SHORE_PAIR_RING_HI, first of 8, 0x20 apart. -/
def SHORE_PAIR_RING_HI : Nat := 0x5051c
/-- SHORE_FSYNC_PERIOD, first of 8, 0x10 apart. -/
def SHORE_FSYNC_PERIOD : Nat := 0x50604
/-- SHORE_FSYNC_PHASE, first of 8, 0x10 apart. -/
def SHORE_FSYNC_PHASE : Nat := 0x50608
/-- SHORE_FSYNC_COUNT, first of 8, 0x10 apart. -/
def SHORE_FSYNC_COUNT : Nat := 0x5060c
/-- SHORE_LIDAR_PKTS, first of 4, 0x20 apart. -/
def SHORE_LIDAR_PKTS : Nat := 0x50700
/-- SHORE_LIDAR_POINTS, first of 4, 0x20 apart. -/
def SHORE_LIDAR_POINTS : Nat := 0x50704
/-- SHORE_LIDAR_ERR, first of 4, 0x20 apart. -/
def SHORE_LIDAR_ERR : Nat := 0x50708
/-- SHORE_LIDAR_RING_LO, first of 4, 0x20 apart. -/
def SHORE_LIDAR_RING_LO : Nat := 0x5070c
/-- SHORE_LIDAR_RING_HI, first of 4, 0x20 apart. -/
def SHORE_LIDAR_RING_HI : Nat := 0x50710
/-- TIME_SNAP. -/
def TIME_SNAP : Nat := 0x30000
/-- TIME_CONV_STALE. -/
def TIME_CONV_STALE : Nat := 0x30004
/-- TIME_TB_NS_LO, first of 4, 0x40 apart. -/
def TIME_TB_NS_LO : Nat := 0x30100
/-- TIME_TB_NS_HI, first of 4, 0x40 apart. -/
def TIME_TB_NS_HI : Nat := 0x30104
/-- TIME_TB_FRAC, first of 4, 0x40 apart. -/
def TIME_TB_FRAC : Nat := 0x30108
/-- TIME_TB_RATE_LO, first of 4, 0x40 apart. -/
def TIME_TB_RATE_LO : Nat := 0x3010c
/-- TIME_TB_RATE_HI, first of 4, 0x40 apart. -/
def TIME_TB_RATE_HI : Nat := 0x30110
/-- TIME_TB_HOLD_LO, first of 4, 0x40 apart. -/
def TIME_TB_HOLD_LO : Nat := 0x30118
/-- TIME_TB_HOLD_HI, first of 4, 0x40 apart. -/
def TIME_TB_HOLD_HI : Nat := 0x3011c
/-- TIME_TB_STEP_LAST, first of 4, 0x40 apart. -/
def TIME_TB_STEP_LAST : Nat := 0x30120
/-- TIME_TB_STEPS, first of 4, 0x40 apart. -/
def TIME_TB_STEPS : Nat := 0x30124
/-- TIME_TB_ADJ_LO, first of 4, 0x40 apart. -/
def TIME_TB_ADJ_LO : Nat := 0x30128
/-- TIME_TB_ADJ_HI, first of 4, 0x40 apart. -/
def TIME_TB_ADJ_HI : Nat := 0x3012c
/-- TIME_TB_SNAP_LO, first of 4, 0x40 apart. -/
def TIME_TB_SNAP_LO : Nat := 0x30130
/-- TIME_TB_SNAP_HI, first of 4, 0x40 apart. -/
def TIME_TB_SNAP_HI : Nat := 0x30134
/-- TIME_SERVO_KP, first of 3, 0x20 apart. -/
def TIME_SERVO_KP : Nat := 0x30304
/-- TIME_SERVO_KI, first of 3, 0x20 apart. -/
def TIME_SERVO_KI : Nat := 0x30308
/-- TIME_SERVO_STEP, first of 3, 0x20 apart. -/
def TIME_SERVO_STEP : Nat := 0x3030c
/-- TIME_SERVO_LOCK, first of 3, 0x20 apart. -/
def TIME_SERVO_LOCK : Nat := 0x30310
/-- TIME_SERVO_HOLDMAX, first of 3, 0x20 apart. -/
def TIME_SERVO_HOLDMAX : Nat := 0x30314
/-- TIME_GPTP_TMO. -/
def TIME_GPTP_TMO : Nat := 0x30404
/-- TIME_PPS_CFG. -/
def TIME_PPS_CFG : Nat := 0x30500
/-- TIME_PPS_LEAP. -/
def TIME_PPS_LEAP : Nat := 0x30504
/-- TIME_PPS_UNLABELLED. -/
def TIME_PPS_UNLABELLED : Nat := 0x30508
/-- TIME_PORT_LAT, first of 4, 0x20 apart. -/
def TIME_PORT_LAT : Nat := 0x30440
/-- TIME_PORT_DELAY, first of 4, 0x20 apart. -/
def TIME_PORT_DELAY : Nat := 0x30444
/-- TIME_PORT_ASCAP, first of 4, 0x20 apart. -/
def TIME_PORT_ASCAP : Nat := 0x30448
/-- TIME_TXTS_OVF, first of 4, 0x20 apart. -/
def TIME_TXTS_OVF : Nat := 0x3044c
/-- TIME_TRK_PERIOD, first of 24, 0x20 apart. -/
def TIME_TRK_PERIOD : Nat := 0x30604
/-- TIME_TRK_EXPECT, first of 24, 0x20 apart. -/
def TIME_TRK_EXPECT : Nat := 0x30608
/-- TIME_TRK_SKEW, first of 24, 0x20 apart. -/
def TIME_TRK_SKEW : Nat := 0x3060c
/-- TIME_TRK_OFFSET, first of 24, 0x20 apart. -/
def TIME_TRK_OFFSET : Nat := 0x30614
/-- TIME_TRK_RATE, first of 24, 0x20 apart. -/
def TIME_TRK_RATE : Nat := 0x30618
/-- TIME_TRK_SKEWS, first of 24, 0x20 apart. -/
def TIME_TRK_SKEWS : Nat := 0x3061c
/-- COND_SYNC_COUNT. -/
def COND_SYNC_COUNT : Nat := 0x40004
/-- COND_SYNC_LAST_LO. -/
def COND_SYNC_LAST_LO : Nat := 0x40008
/-- COND_SYNC_LAST_HI. -/
def COND_SYNC_LAST_HI : Nat := 0x4000c
/-- COND_DET_PEAK. -/
def COND_DET_PEAK : Nat := 0x40014
/-- COND_DET_RMS. -/
def COND_DET_RMS : Nat := 0x40018
/-- COND_DET_ENV. -/
def COND_DET_ENV : Nat := 0x4001c
/-- COND_IMU_LAT, first of 2, 0x20 apart. -/
def COND_IMU_LAT : Nat := 0x40044
/-- COND_IMU_LOST, first of 2, 0x20 apart. -/
def COND_IMU_LOST : Nat := 0x40048
/-- COND_IMU_SAMPLES, first of 2, 0x20 apart. -/
def COND_IMU_SAMPLES : Nat := 0x4004c
/-- COND_WHEEL_EDGES, first of 8, 4 apart. -/
def COND_WHEEL_EDGES : Nat := 0x40080
/-- COND_CAN_RX, first of 4, 0x10 apart. -/
def COND_CAN_RX : Nat := 0x400c4
/-- COND_CAN_ERR, first of 4, 0x10 apart. -/
def COND_CAN_ERR : Nat := 0x400c8
/-- COND_CH_SCALE, first of 24, 0x40 apart. -/
def COND_CH_SCALE : Nat := 0x40204
/-- COND_CH_PEAK_TH, first of 24, 0x40 apart. -/
def COND_CH_PEAK_TH : Nat := 0x4020c
/-- COND_CH_RMS_TH, first of 24, 0x40 apart. -/
def COND_CH_RMS_TH : Nat := 0x40210
/-- COND_CH_ENV_TH, first of 24, 0x40 apart. -/
def COND_CH_ENV_TH : Nat := 0x40214
/-- COND_CH_DELAY, first of 24, 0x40 apart. -/
def COND_CH_DELAY : Nat := 0x40218
/-- COND_CH_PEAK, first of 24, 0x40 apart. -/
def COND_CH_PEAK : Nat := 0x4021c
/-- COND_CH_RMS, first of 24, 0x40 apart. -/
def COND_CH_RMS : Nat := 0x40220
/-- COND_CH_ENV, first of 24, 0x40 apart. -/
def COND_CH_ENV : Nat := 0x40224
/-- FUSE_GATE_TH, first of 6, 4 apart. -/
def FUSE_GATE_TH : Nat := 0x60010
/-- FUSE_EXPECT. -/
def FUSE_EXPECT : Nat := 0x60030
/-- FUSE_MASK. -/
def FUSE_MASK : Nat := 0x60064
/-- FUSE_SEAL_LAST. -/
def FUSE_SEAL_LAST : Nat := 0x60068
/-- FUSE_SEAL_MAX. -/
def FUSE_SEAL_MAX : Nat := 0x6006c
/-- FUSE_MAP_GEN. -/
def FUSE_MAP_GEN : Nat := 0x60070
/-- FUSE_CORR_LAST. -/
def FUSE_CORR_LAST : Nat := 0x60074
/-- FUSE_RECORDS. -/
def FUSE_RECORDS : Nat := 0x60080
/-- FUSE_LATE_APPLIED. -/
def FUSE_LATE_APPLIED : Nat := 0x60084
/-- FUSE_LATE_DROPPED. -/
def FUSE_LATE_DROPPED : Nat := 0x60088
/-- FUSE_NET_LATE_USED. -/
def FUSE_NET_LATE_USED : Nat := 0x6008c
/-- FUSE_NET_DISCARD. -/
def FUSE_NET_DISCARD : Nat := 0x60090
/-- FUSE_OBS_DISCARD. -/
def FUSE_OBS_DISCARD : Nat := 0x60094
/-- FUSE_GATE_FAIL. -/
def FUSE_GATE_FAIL : Nat := 0x60098
/-- FUSE_MASKS. -/
def FUSE_MASKS : Nat := 0x6009c
/-- FUSE_WINDOW_OVF. -/
def FUSE_WINDOW_OVF : Nat := 0x600a0
/-- FUSE_SEAL_OVERRUNS. -/
def FUSE_SEAL_OVERRUNS : Nat := 0x600a4
/-- GSOL_ACCEPT_TH. -/
def GSOL_ACCEPT_TH : Nat := 0x70010
/-- GSOL_WS_T2. -/
def GSOL_WS_T2 : Nat := 0x70014
/-- GSOL_WS_T3. -/
def GSOL_WS_T3 : Nat := 0x70018
/-- GSOL_LD_BASE_LO. -/
def GSOL_LD_BASE_LO : Nat := 0x70020
/-- GSOL_LD_BASE_HI. -/
def GSOL_LD_BASE_HI : Nat := 0x70024
/-- GSOL_MAP_GEN. -/
def GSOL_MAP_GEN : Nat := 0x70044
/-- GSOL_POSES. -/
def GSOL_POSES : Nat := 0x70048
/-- GSOL_CONSTRAINTS. -/
def GSOL_CONSTRAINTS : Nat := 0x7004c
/-- GSOL_LD_LIVE. -/
def GSOL_LD_LIVE : Nat := 0x70050
/-- GSOL_SOLVE_LAST_US. -/
def GSOL_SOLVE_LAST_US : Nat := 0x70054
/-- GSOL_SOLVE_MAX_US. -/
def GSOL_SOLVE_MAX_US : Nat := 0x70058
/-- GSOL_LAST_FACTOR_MIB. -/
def GSOL_LAST_FACTOR_MIB : Nat := 0x7005c
/-- GSOL_CLOSURES. -/
def GSOL_CLOSURES : Nat := 0x70080
/-- GSOL_CAND. -/
def GSOL_CAND : Nat := 0x70084
/-- GSOL_REJECT. -/
def GSOL_REJECT : Nat := 0x70088
/-- GSOL_TOO_LARGE. -/
def GSOL_TOO_LARGE : Nat := 0x7008c
/-- GSOL_SPILLS. -/
def GSOL_SPILLS : Nat := 0x70090
/-- GSOL_QUERY_BUSY. -/
def GSOL_QUERY_BUSY : Nat := 0x70094
/-- GSOL_VERDICT_DROP. -/
def GSOL_VERDICT_DROP : Nat := 0x70098
/-- GSOL_BA_RUNS. -/
def GSOL_BA_RUNS : Nat := 0x7009c
/-- GSOL_BA_DISCARD. -/
def GSOL_BA_DISCARD : Nat := 0x700a0
/-- GSOL_LD_FULL. -/
def GSOL_LD_FULL : Nat := 0x700a4
/-- GSOL_RETIRED. -/
def GSOL_RETIRED : Nat := 0x700a8
/-- GSOL_NOT_POSITIVE. -/
def GSOL_NOT_POSITIVE : Nat := 0x700ac
/-- MAP_READ_TMO. -/
def MAP_READ_TMO : Nat := 0x80014
/-- MAP_HEAD_COMMIT_LO. -/
def MAP_HEAD_COMMIT_LO : Nat := 0x80048
/-- MAP_HEAD_COMMIT_HI. -/
def MAP_HEAD_COMMIT_HI : Nat := 0x8004c
/-- MAP_CKPT_COMMIT_LO. -/
def MAP_CKPT_COMMIT_LO : Nat := 0x80050
/-- MAP_CKPT_COMMIT_HI. -/
def MAP_CKPT_COMMIT_HI : Nat := 0x80054
/-- MAP_ERASE_CREDIT. -/
def MAP_ERASE_CREDIT : Nat := 0x80058
/-- MAP_ERASE_DAY. -/
def MAP_ERASE_DAY : Nat := 0x8005c
/-- MAP_MOUNT_US. -/
def MAP_MOUNT_US : Nat := 0x80060
/-- MAP_REPLAY_COMMITS. -/
def MAP_REPLAY_COMMITS : Nat := 0x80064
/-- MAP_POOL_GOOD. -/
def MAP_POOL_GOOD : Nat := 0x80068
/-- MAP_POOL_FREE. -/
def MAP_POOL_FREE : Nat := 0x8006c
/-- MAP_EC_MAX. -/
def MAP_EC_MAX : Nat := 0x80070
/-- MAP_EC_MIN. -/
def MAP_EC_MIN : Nat := 0x80074
/-- MAP_HEAD, first of 16, 4 apart. -/
def MAP_HEAD : Nat := 0x80080
/-- MAP_COMMITS. -/
def MAP_COMMITS : Nat := 0x80100
/-- MAP_COMMIT_REWRITE. -/
def MAP_COMMIT_REWRITE : Nat := 0x80104
/-- MAP_CKPTS. -/
def MAP_CKPTS : Nat := 0x80108
/-- MAP_DEFERRED. -/
def MAP_DEFERRED : Nat := 0x8010c
/-- MAP_COALESCED. -/
def MAP_COALESCED : Nat := 0x80110
/-- MAP_ERASES. -/
def MAP_ERASES : Nat := 0x80114
/-- MAP_CE. -/
def MAP_CE : Nat := 0x80118
/-- MAP_RETRY. -/
def MAP_RETRY : Nat := 0x8011c
/-- MAP_SOFT. -/
def MAP_SOFT : Nat := 0x80120
/-- MAP_PARITY_FIX. -/
def MAP_PARITY_FIX : Nat := 0x80124
/-- MAP_UNCORRECTABLE. -/
def MAP_UNCORRECTABLE : Nat := 0x80128
/-- MAP_READ_TIMEOUT. -/
def MAP_READ_TIMEOUT : Nat := 0x8012c
/-- MAP_REFRESH. -/
def MAP_REFRESH : Nat := 0x80130
/-- MAP_RETIRED. -/
def MAP_RETIRED : Nat := 0x80134
/-- MAP_FACTORY_BAD. -/
def MAP_FACTORY_BAD : Nat := 0x80138
/-- MAP_MOUNT_DISCARD. -/
def MAP_MOUNT_DISCARD : Nat := 0x8013c
/-- MAP_PFAIL. -/
def MAP_PFAIL : Nat := 0x80140
/-- MAP_PFAIL_LOST. -/
def MAP_PFAIL_LOST : Nat := 0x80144
/-- MAP_TILE_FULL. -/
def MAP_TILE_FULL : Nat := 0x80148
/-- REEF_QUERY_TMO. -/
def REEF_QUERY_TMO : Nat := 0x90010
/-- REEF_NODES. -/
def REEF_NODES : Nat := 0x90044
/-- REEF_TOMBSTONES. -/
def REEF_TOMBSTONES : Nat := 0x90048
/-- REEF_FREE_IDS. -/
def REEF_FREE_IDS : Nat := 0x9004c
/-- REEF_VERSION_LO. -/
def REEF_VERSION_LO : Nat := 0x90050
/-- REEF_VERSION_HI. -/
def REEF_VERSION_HI : Nat := 0x90054
/-- REEF_SWEEPS. -/
def REEF_SWEEPS : Nat := 0x90058
/-- REEF_SWEEP_PAGE. -/
def REEF_SWEEP_PAGE : Nat := 0x9005c
/-- REEF_GSOL_RING_LO. -/
def REEF_GSOL_RING_LO : Nat := 0x90060
/-- REEF_GSOL_RING_HI. -/
def REEF_GSOL_RING_HI : Nat := 0x90064
/-- REEF_BUF_USED. -/
def REEF_BUF_USED : Nat := 0x90068
/-- REEF_ENG_QUERIES, first of 16, 0x10 apart. -/
def REEF_ENG_QUERIES : Nat := 0x90104
/-- REEF_ENG_READS, first of 16, 0x10 apart. -/
def REEF_ENG_READS : Nat := 0x90108
/-- REEF_QUERIES. -/
def REEF_QUERIES : Nat := 0x90200
/-- REEF_BUSY. -/
def REEF_BUSY : Nat := 0x90204
/-- REEF_BAD_QUERY. -/
def REEF_BAD_QUERY : Nat := 0x90208
/-- REEF_SHORT. -/
def REEF_SHORT : Nat := 0x9020c
/-- REEF_HOP_LIMIT. -/
def REEF_HOP_LIMIT : Nat := 0x90210
/-- REEF_TIMEOUT. -/
def REEF_TIMEOUT : Nat := 0x90214
/-- REEF_READ_ERR. -/
def REEF_READ_ERR : Nat := 0x90218
/-- REEF_STALE_EDGES. -/
def REEF_STALE_EDGES : Nat := 0x9021c
/-- REEF_INSERTS. -/
def REEF_INSERTS : Nat := 0x90220
/-- REEF_INS_FAIL. -/
def REEF_INS_FAIL : Nat := 0x90224
/-- REEF_DELETES. -/
def REEF_DELETES : Nat := 0x90228
/-- REEF_EDGES_REMOVED. -/
def REEF_EDGES_REMOVED : Nat := 0x9022c
/-- REEF_EDGES_ADDED. -/
def REEF_EDGES_ADDED : Nat := 0x90230
/-- REEF_FREED. -/
def REEF_FREED : Nat := 0x90234
/-- GLB_CMD_ARG_LO. -/
def GLB_CMD_ARG_LO : Nat := 0x14
/-- GLB_CMD_ARG_HI. -/
def GLB_CMD_ARG_HI : Nat := 0x18
/-- GLB_CMD_REJECTS. -/
def GLB_CMD_REJECTS : Nat := 0x20
/-- GLB_CMD_CONFLICTS. -/
def GLB_CMD_CONFLICTS : Nat := 0x24
/-- GLB_EPOCH_LO. -/
def GLB_EPOCH_LO : Nat := 0x28
/-- GLB_EPOCH_HI. -/
def GLB_EPOCH_HI : Nat := 0x2c
/-- CFG_ACTIVE_SEQ. -/
def CFG_ACTIVE_SEQ : Nat := 0x10004
/-- CFG_SHADOW_SEQ. -/
def CFG_SHADOW_SEQ : Nat := 0x10014
/-- CFG_SWAPS. -/
def CFG_SWAPS : Nat := 0x10018
/-- CFG_CAL_GEN. -/
def CFG_CAL_GEN : Nat := 0x10024
/-- CFG_CAL_UPDATES. -/
def CFG_CAL_UPDATES : Nat := 0x1002c
/-- CFG_CAL_LIVE_LO. -/
def CFG_CAL_LIVE_LO : Nat := 0x10030
/-- CFG_CAL_LIVE_HI. -/
def CFG_CAL_LIVE_HI : Nat := 0x10034
/-- CFG_TELE_CFG. -/
def CFG_TELE_CFG : Nat := 0x10040
/-- CFG_RING_BASE_LO, first of 6, 0x20 apart. -/
def CFG_RING_BASE_LO : Nat := 0x10100
/-- CFG_RING_BASE_HI, first of 6, 0x20 apart. -/
def CFG_RING_BASE_HI : Nat := 0x10104
/-- CFG_RING_SEQ_LO, first of 6, 0x20 apart. -/
def CFG_RING_SEQ_LO : Nat := 0x1010c
/-- CFG_RING_SEQ_HI, first of 6, 0x20 apart. -/
def CFG_RING_SEQ_HI : Nat := 0x10110
/-- CFG_RING_ERR, first of 6, 0x20 apart. -/
def CFG_RING_ERR : Nat := 0x10114
/-- CHAIN_ENUM_IGNORED. -/
def CHAIN_ENUM_IGNORED : Nat := 0xe0040
/-- CHAIN_UNROUTABLE. -/
def CHAIN_UNROUTABLE : Nat := 0xe0044
/-- CHAIN_REMOTE_ERR. -/
def CHAIN_REMOTE_ERR : Nat := 0xe0048
/-- CHAIN_TIMEOUT. -/
def CHAIN_TIMEOUT : Nat := 0xe004c
/-- CHAIN_CRC_ERR, first of 2, 0x20 apart. -/
def CHAIN_CRC_ERR : Nat := 0xe0100
/-- CHAIN_REPLAY, first of 2, 0x20 apart. -/
def CHAIN_REPLAY : Nat := 0xe0104
/-- CHAIN_RETRAIN, first of 2, 0x20 apart. -/
def CHAIN_RETRAIN : Nat := 0xe0108
/-- CHAIN_TX_MSG, first of 2, 0x20 apart. -/
def CHAIN_TX_MSG : Nat := 0xe010c
/-- CHAIN_RX_MSG, first of 2, 0x20 apart. -/
def CHAIN_RX_MSG : Nat := 0xe0110
/-- CHAIN_CREDIT_WAIT, first of 2, 0x20 apart. -/
def CHAIN_CREDIT_WAIT : Nat := 0xe0114
/-- CHAIN_PRBS_ERR, first of 8, 4 apart. -/
def CHAIN_PRBS_ERR : Nat := 0xe0180
/-- HOST_RELAY_ADDR_LO. -/
def HOST_RELAY_ADDR_LO : Nat := 0xf0014
/-- HOST_RELAY_ADDR_HI. -/
def HOST_RELAY_ADDR_HI : Nat := 0xf0018
/-- HOST_RELAY_DATA. -/
def HOST_RELAY_DATA : Nat := 0xf001c
/-- HOST_START_US. -/
def HOST_START_US : Nat := 0xf0024
/-- HOST_FIRST_POSE_US. -/
def HOST_FIRST_POSE_US : Nat := 0xf0028
/-- HOST_BAR2_ERR. -/
def HOST_BAR2_ERR : Nat := 0xf0040
/-- HOST_LINK_DOWN. -/
def HOST_LINK_DOWN : Nat := 0xf0044
/-- HOST_AER_CE. -/
def HOST_AER_CE : Nat := 0xf0048
/-- HOST_FLR. -/
def HOST_FLR : Nat := 0xf004c
/-- SEC_ROLLBACK_LO. -/
def SEC_ROLLBACK_LO : Nat := 0xc0008
/-- SEC_ROLLBACK_HI. -/
def SEC_ROLLBACK_HI : Nat := 0xc000c
/-- SEC_SECVER_LO. -/
def SEC_SECVER_LO : Nat := 0xc0010
/-- SEC_SECVER_HI. -/
def SEC_SECVER_HI : Nat := 0xc0014
/-- SEC_OTP_DATA, first of 16, 4 apart. -/
def SEC_OTP_DATA : Nat := 0xc0040
/-- SEC_IDPUB_HASH, first of 16, 4 apart. -/
def SEC_IDPUB_HASH : Nat := 0xc0080
/-- SEC_UID, first of 4, 4 apart. -/
def SEC_UID : Nat := 0xc00c0
/-- SEC_ATTESTS. -/
def SEC_ATTESTS : Nat := 0xc0100
/-- SEC_DENIED. -/
def SEC_DENIED : Nat := 0xc0104
/-- SEC_SIG_FAIL. -/
def SEC_SIG_FAIL : Nat := 0xc0108
/-- PWR_ALARM_LO. -/
def PWR_ALARM_LO : Nat := 0xd0010
/-- PWR_ALARM_HI. -/
def PWR_ALARM_HI : Nat := 0xd0014
/-- PWR_POWER_MW. -/
def PWR_POWER_MW : Nat := 0xd004c
/-- PWR_ATOLL_MHZ, first of 6, 4 apart. -/
def PWR_ATOLL_MHZ : Nat := 0xd0060
/-- PWR_CAP_EPOCHS. -/
def PWR_CAP_EPOCHS : Nat := 0xd0080
/-- PWR_THROTTLE_EPOCHS. -/
def PWR_THROTTLE_EPOCHS : Nat := 0xd0084
/-- PWR_PFAIL_SHEDS. -/
def PWR_PFAIL_SHEDS : Nat := 0xd0088
/-- PWR_SHED_US_MAX. -/
def PWR_SHED_US_MAX : Nat := 0xd008c
/-- PWR_WAKES. -/
def PWR_WAKES : Nat := 0xd0090
/-- PLACE_TIER_CAP, first of 4, 0x20 apart. -/
def PLACE_TIER_CAP : Nat := 0xa0120
/-- PLACE_TIER_OCC, first of 4, 0x20 apart. -/
def PLACE_TIER_OCC : Nat := 0xa0124
/-- PLACE_TIER_PIN, first of 4, 0x20 apart. -/
def PLACE_TIER_PIN : Nat := 0xa0128
/-- PLACE_TIER_RETIRED, first of 4, 0x20 apart. -/
def PLACE_TIER_RETIRED : Nat := 0xa012c
/-- PLACE_TIER_HIT, first of 4, 0x20 apart. -/
def PLACE_TIER_HIT : Nat := 0xa0130
/-- PLACE_TIER_BW, first of 4, 0x20 apart. -/
def PLACE_TIER_BW : Nat := 0xa0134
/-- PLACE_TIER_EVICT, first of 4, 0x20 apart. -/
def PLACE_TIER_EVICT : Nat := 0xa0138
/-- PLACE_TIER_ERR, first of 4, 0x20 apart. -/
def PLACE_TIER_ERR : Nat := 0xa013c
/-- COND_CH_FIR, coefficient k of channel c at 0x100 c + 4 k (07). -/
def COND_CH_FIR : Nat := 0x41000
/-- The buoy window (19 R465). -/
def BUOY : Nat := 0x100000
/-- The Islet debug windows (19 R465). -/
def ISLET : Nat := 0x1000000
/-- The MSI-X table (13 R386). -/
def MSIX : Nat := 0xF1000

end R

/-- Registers of the GLB block. -/
def rowsGLB : List RegRow :=
  [⟨R.GLB_ID, 0, 1, [⟨31, 0, .ro, 0x96000a20, .any⟩]⟩,
   ⟨R.GLB_STATE, 0, 1, [⟨8, 8, .ro, 0, .any⟩, ⟨3, 0, .ro, 3, .any⟩]⟩,
   ⟨R.GLB_CMD, 0, 1, [⟨31, 24, .wo, 0, .any⟩, ⟨7, 0, .wo, 0, .any⟩]⟩,
   ⟨R.GLB_CMD_ARG_LO, 0, 1, [⟨31, 0, .rw, 0, .any⟩]⟩,
   ⟨R.GLB_CMD_ARG_HI, 0, 1, [⟨31, 0, .rw, 0, .any⟩]⟩]

/-- Registers of the CFG block. -/
def rowsCFG : List RegRow :=
  [⟨R.CFG_CAL_CFG, 0, 1, [⟨0, 0, .rw, 0, .any⟩]⟩,
   ⟨R.CFG_RING_CFG, 0x20, 6, [⟨31, 31, .rw, 0, .any⟩, ⟨4, 0, .rw, 8, .range 4 16⟩]⟩,
   ⟨R.CFG_TELE_CFG, 0, 1, [⟨15, 0, .rw, 0xfa0, .any⟩]⟩,
   ⟨R.CFG_RING_BASE_LO, 0x20, 6, [⟨31, 0, .rw, 0, .low 12⟩]⟩,
   ⟨R.CFG_RING_BASE_HI, 0x20, 6, [⟨31, 0, .rw, 0, .any⟩]⟩,
   ⟨R.CFG_RING_SEQ_LO, 0x20, 6, [⟨31, 0, .ro, 1, .any⟩]⟩]

/-- Registers of the INTC block. -/
def rowsINTC : List RegRow :=
  [⟨R.INTC_PEND, 4, 16, [⟨31, 0, .w1c, 0, .any⟩]⟩,
   ⟨R.INTC_MASK, 4, 16, [⟨31, 0, .rw, 0xffffffff, .any⟩]⟩,
   ⟨R.INTC_SOFT, 0, 1, [⟨15, 0, .w1s, 0, .any⟩]⟩,
   ⟨R.INTC_COUNT, 4, 512, [⟨7, 0, .rw, 0, .any⟩]⟩,
   ⟨R.INTC_ROUTE, 4, 512, [⟨31, 31, .rw, 0, .any⟩, ⟨30, 30, .rw, 0, .any⟩, ⟨29, 29, .rw, 0, .any⟩, ⟨28, 28, .rw, 0, .any⟩, ⟨27, 24, .rw, 0, .any⟩, ⟨5, 0, .rw, 0, .any⟩]⟩]

/-- Registers of the TIME block. -/
def rowsTIME : List RegRow :=
  [⟨R.TIME_SERVO_CFG, 0x20, 3, [⟨1, 1, .rw, 1, .any⟩, ⟨0, 0, .rw, 0, .any⟩]⟩,
   ⟨R.TIME_GPTP_CFG, 0, 1, [⟨31, 24, .rw, 1, .any⟩, ⟨23, 16, .rw, 0, .any⟩, ⟨15, 12, .rw, 0xf, .oneOf [0, 1, 2, 3, 15]⟩, ⟨11, 8, .rw, 0xf, .oneOf [0, 1, 2, 3, 15]⟩, ⟨3, 0, .rw, 0, .any⟩]⟩,
   ⟨R.TIME_TRK_CFG, 0x20, 16, [⟨31, 30, .ro, 0, .any⟩, ⟨27, 24, .rw, 3, .range 1 15⟩, ⟨23, 20, .rw, 6, .range 1 15⟩, ⟨15, 0, .rw, 0xa, .any⟩]⟩,
   ⟨R.TIME_TRK_CFG + 0x200, 0x20, 4, [⟨31, 30, .rw, 0, .any⟩, ⟨27, 24, .rw, 3, .range 1 15⟩, ⟨23, 20, .rw, 6, .range 1 15⟩, ⟨15, 0, .rw, 0xa, .any⟩]⟩,
   ⟨R.TIME_TRK_CFG + 0x280, 0x20, 2, [⟨31, 30, .ro, 0, .any⟩, ⟨27, 24, .rw, 3, .range 1 15⟩, ⟨23, 20, .rw, 6, .range 1 15⟩, ⟨15, 0, .rw, 0xa, .any⟩]⟩,
   ⟨R.TIME_TRK_CFG + 0x2c0, 0x20, 2, [⟨31, 30, .rw, 0, .any⟩, ⟨27, 24, .rw, 3, .range 1 15⟩, ⟨23, 20, .rw, 6, .range 1 15⟩, ⟨15, 0, .rw, 0xa, .any⟩]⟩,
   ⟨R.TIME_SNAP, 0, 1, [⟨0, 0, .w1s, 0, .any⟩]⟩,
   ⟨R.TIME_TB_RATE_LO, 0x40, 4, [⟨31, 0, .rw, 0, .any⟩]⟩,
   ⟨R.TIME_TB_RATE_HI, 0x40, 4, [⟨15, 0, .rw, 0, .any⟩]⟩,
   ⟨R.TIME_TB_ADJ_LO, 0x40, 4, [⟨31, 0, .wo, 0, .any⟩]⟩,
   ⟨R.TIME_TB_ADJ_HI, 0x40, 4, [⟨31, 0, .wo, 0, .any⟩]⟩,
   ⟨R.TIME_SERVO_KP, 0x20, 3, [⟨31, 0, .rw, 0x40000, .any⟩]⟩,
   ⟨R.TIME_SERVO_KI, 0x20, 3, [⟨31, 0, .rw, 0x10000, .any⟩]⟩,
   ⟨R.TIME_SERVO_STEP, 0x20, 3, [⟨31, 0, .rw, 0x186a0, .any⟩]⟩,
   ⟨R.TIME_SERVO_LOCK, 0x20, 3, [⟨31, 0, .rw, 0xc8, .any⟩]⟩,
   ⟨R.TIME_SERVO_HOLDMAX, 0x20, 3, [⟨15, 0, .rw, 0x3c, .any⟩]⟩,
   ⟨R.TIME_GPTP_TMO, 0, 1, [⟨7, 0, .rw, 3, .range 2 255⟩]⟩,
   ⟨R.TIME_PPS_CFG, 0, 1, [⟨0, 0, .rw, 0, .any⟩]⟩,
   ⟨R.TIME_PPS_LEAP, 0, 1, [⟨7, 0, .rw, 0x25, .any⟩]⟩,
   ⟨R.TIME_PORT_LAT, 0x20, 4, [⟨31, 0, .rw, 0, .any⟩]⟩,
   ⟨R.TIME_TRK_PERIOD + 0x200, 0x20, 4, [⟨19, 0, .rw, 0, .any⟩]⟩,
   ⟨R.TIME_TRK_PERIOD + 0x2c0, 0x20, 2, [⟨19, 0, .rw, 0, .any⟩]⟩,
   ⟨R.TIME_TRK_EXPECT, 0x20, 24, [⟨31, 0, .rw, 0, .any⟩]⟩]

/-- Registers of the COND block. -/
def rowsCOND : List RegRow :=
  [⟨R.COND_IMU_CFG, 0x20, 2, [⟨31, 31, .rw, 0, .any⟩, ⟨30, 30, .rw, 0, .any⟩, ⟨29, 28, .rw, 0, .range 0 2⟩, ⟨27, 24, .rw, 1, .any⟩, ⟨23, 16, .rw, 0, .any⟩, ⟨15, 8, .rw, 8, .range 8 255⟩, ⟨3, 0, .rw, 3, .range 0 6⟩]⟩,
   ⟨R.COND_WHEEL_CFG, 0, 1, [⟨31, 24, .rw, 0, .any⟩, ⟨23, 16, .rw, 0, .any⟩, ⟨15, 8, .rw, 0xa, .any⟩, ⟨7, 5, .rw, 3, .range 0 6⟩, ⟨4, 0, .rw, 0x14, .any⟩]⟩,
   ⟨R.COND_SYNC_CFG, 0, 1, [⟨1, 1, .rw, 0, .any⟩, ⟨0, 0, .rw, 0, .any⟩]⟩,
   ⟨R.COND_CAN_CFG, 0x10, 4, [⟨31, 31, .rw, 0, .any⟩, ⟨30, 30, .rw, 0, .any⟩, ⟨15, 8, .rw, 4, .range 1 16⟩, ⟨7, 0, .rw, 4, .range 1 8⟩]⟩,
   ⟨R.COND_CH_CFG, 0x40, 24, [⟨31, 31, .rw, 0, .any⟩, ⟨27, 24, .rw, 5, .oneOf [3, 5, 7, 9]⟩, ⟨23, 20, .rw, 2, .any⟩, ⟨19, 15, .rw, 1, .range 1 16⟩, ⟨14, 8, .rw, 1, .range 1 64⟩]⟩,
   ⟨R.COND_CH_DET_CFG, 0x40, 24, [⟨31, 16, .rw, 0x400, .range 16 65535⟩, ⟨15, 12, .rw, 6, .range 1 15⟩, ⟨2, 2, .rw, 0, .any⟩, ⟨1, 1, .rw, 0, .any⟩, ⟨0, 0, .rw, 0, .any⟩]⟩,
   ⟨R.COND_DET_PEAK, 0, 1, [⟨23, 0, .w1c, 0, .any⟩]⟩,
   ⟨R.COND_DET_RMS, 0, 1, [⟨23, 0, .w1c, 0, .any⟩]⟩,
   ⟨R.COND_DET_ENV, 0, 1, [⟨23, 0, .w1c, 0, .any⟩]⟩,
   ⟨R.COND_IMU_LAT, 0x20, 2, [⟨15, 0, .rw, 0, .any⟩]⟩,
   ⟨R.COND_CH_SCALE, 0x40, 24, [⟨31, 0, .rw, 0x3f800000, .any⟩]⟩,
   ⟨R.COND_CH_PEAK_TH, 0x40, 24, [⟨31, 0, .rw, 0x7f800000, .any⟩]⟩,
   ⟨R.COND_CH_RMS_TH, 0x40, 24, [⟨31, 0, .rw, 0x7f800000, .any⟩]⟩,
   ⟨R.COND_CH_ENV_TH, 0x40, 24, [⟨31, 0, .rw, 0x7f800000, .any⟩]⟩]

/-- Registers of the SHORE block. -/
def rowsSHORE : List RegRow :=
  [⟨R.SHORE_WR_CFG, 0, 1, [⟨15, 8, .rw, 0x40, .range 1 128⟩, ⟨7, 0, .rw, 0x20, .any⟩]⟩,
   ⟨R.SHORE_PROJ_CFG, 0, 1, [⟨31, 16, .rw, 0, .any⟩, ⟨15, 0, .rw, 0x7d0, .any⟩]⟩,
   ⟨R.SHORE_PORT_CFG, 0x40, 16, [⟨31, 31, .rw, 0, .any⟩, ⟨30, 30, .rw, 0, .any⟩, ⟨27, 24, .rw, 0, .any⟩, ⟨23, 20, .rw, 8, .range 0 8⟩, ⟨19, 16, .rw, 4, .range 3 8⟩, ⟨15, 14, .rw, 2, .range 0 2⟩, ⟨13, 12, .rw, 0, .any⟩, ⟨7, 0, .rw, 0x2c, .oneOf [0x2B, 0x2C, 0x2D, 0x2E, 0x1E]⟩]⟩,
   ⟨R.SHORE_PORT_SIZE, 0x40, 16, [⟨31, 16, .rw, 0, .any⟩, ⟨15, 0, .rw, 0, .any⟩]⟩,
   ⟨R.SHORE_PORT_PERIOD, 0x40, 16, [⟨19, 0, .rw, 0x8235, .any⟩]⟩,
   ⟨R.SHORE_FEAT_CFG, 0x40, 16, [⟨31, 31, .rw, 1, .any⟩, ⟨30, 28, .rw, 4, .range 1 4⟩, ⟨27, 25, .rw, 1, .range 1 4⟩, ⟨24, 12, .rw, 0x1000, .range 128 4096⟩, ⟨7, 0, .rw, 0x14, .any⟩]⟩,
   ⟨R.SHORE_TRACK_CFG, 0x40, 16, [⟨31, 31, .rw, 1, .any⟩, ⟨30, 30, .rw, 1, .any⟩, ⟨27, 16, .rw, 0x800, .range 0 2048⟩, ⟨15, 8, .rw, 0x18, .any⟩, ⟨7, 0, .rw, 0x50, .any⟩]⟩,
   ⟨R.SHORE_PAIR_CFG, 0x20, 8, [⟨31, 31, .rw, 0, .any⟩, ⟨30, 30, .rw, 0, .any⟩, ⟨29, 29, .rw, 0, .any⟩, ⟨28, 28, .rw, 1, .any⟩, ⟨27, 24, .rw, 1, .any⟩, ⟨23, 16, .rw, 4, .any⟩]⟩,
   ⟨R.SHORE_PAIR_SGM, 0x20, 8, [⟨15, 8, .rw, 0x60, .any⟩, ⟨7, 0, .rw, 0xa, .any⟩]⟩,
   ⟨R.SHORE_FSYNC_CFG, 0x10, 8, [⟨31, 31, .rw, 0, .any⟩, ⟨30, 30, .rw, 0, .any⟩, ⟨29, 29, .rw, 0, .any⟩, ⟨15, 0, .rw, 0x64, .any⟩]⟩,
   ⟨R.SHORE_PORT_EXPOFF, 0x40, 16, [⟨31, 0, .rw, 0, .any⟩]⟩,
   ⟨R.SHORE_FSYNC_PERIOD, 0x10, 8, [⟨19, 0, .rw, 0x8235, .any⟩]⟩,
   ⟨R.SHORE_FSYNC_PHASE, 0x10, 8, [⟨19, 0, .rw, 0, .any⟩]⟩]

/-- Registers of the FUSE block. -/
def rowsFUSE : List RegRow :=
  [⟨R.FUSE_OUT_CFG, 0, 1, [⟨15, 8, .rw, 0x64, .range 0 120⟩, ⟨5, 0, .rw, 2, .range 1 40⟩]⟩,
   ⟨R.FUSE_SMOOTH_CFG, 0, 1, [⟨25, 16, .rw, 0xc8, .range 10 1000⟩, ⟨5, 0, .rw, 5, .range 1 50⟩]⟩,
   ⟨R.FUSE_NET_CFG, 0, 1, [⟨31, 31, .rw, 0, .any⟩, ⟨20, 16, .rw, 0, .any⟩, ⟨15, 8, .rw, 4, .range 1 32⟩]⟩,
   ⟨R.FUSE_GATE_CFG, 0, 1, [⟨31, 24, .rw, 5, .range 1 255⟩, ⟨23, 16, .rw, 0x10, .range 1 255⟩, ⟨15, 0, .rw, 0x1f4, .range 1 65535⟩]⟩,
   ⟨R.FUSE_CONF_SIGMA, 0, 1, [⟨31, 16, .rw, 0x3e8, .any⟩, ⟨15, 0, .rw, 0x64, .any⟩]⟩,
   ⟨R.FUSE_CONF_PEN, 4, 8, [⟨31, 24, .rw, 0x10, .any⟩, ⟨23, 16, .rw, 0x10, .any⟩, ⟨15, 8, .rw, 0x10, .any⟩, ⟨7, 0, .rw, 0x10, .any⟩]⟩,
   ⟨R.FUSE_STATUS, 0, 1, [⟨8, 8, .ro, 0, .any⟩, ⟨7, 4, .ro, 0xf, .any⟩, ⟨3, 0, .ro, 0, .any⟩]⟩,
   ⟨R.FUSE_GATE_TH, 4, 6, [⟨31, 0, .rw, 0x41700000, .any⟩]⟩,
   ⟨R.FUSE_EXPECT, 0, 1, [⟨27, 0, .rw, 0, .any⟩]⟩]

/-- Registers of the GSOL block. -/
def rowsGSOL : List RegRow :=
  [⟨R.GSOL_CFG, 0, 1, [⟨31, 31, .rw, 0, .any⟩, ⟨30, 30, .rw, 1, .any⟩, ⟨29, 29, .rw, 0, .any⟩, ⟨20, 16, .rw, 0, .any⟩, ⟨12, 8, .rw, 0, .any⟩, ⟨4, 0, .rw, 8, .range 1 31⟩]⟩,
   ⟨R.GSOL_KF_CFG, 0, 1, [⟨31, 16, .rw, 0xc8, .range 10 65535⟩, ⟨15, 8, .rw, 0x64, .range 1 255⟩]⟩,
   ⟨R.GSOL_QUERY_CFG, 0, 1, [⟨31, 24, .rw, 8, .range 1 64⟩, ⟨23, 16, .rw, 0x10, .range 4 64⟩, ⟨15, 0, .rw, 0x3c, .any⟩]⟩,
   ⟨R.GSOL_ACCEPT_CFG, 0, 1, [⟨31, 16, .rw, 0x1e, .any⟩]⟩,
   ⟨R.GSOL_SUBGRAPH_CFG, 0, 1, [⟨31, 20, .rw, 0x64, .range 1 4095⟩, ⟨16, 0, .rw, 0x10000, .range 1 65536⟩]⟩,
   ⟨R.GSOL_ACCEPT_TH, 0, 1, [⟨31, 0, .rw, 0x41800000, .any⟩]⟩,
   ⟨R.GSOL_WS_T2, 0, 1, [⟨15, 0, .rw, 0x80, .range 16 192⟩]⟩,
   ⟨R.GSOL_WS_T3, 0, 1, [⟨15, 0, .rw, 0x1000, .range 0 16384⟩]⟩]

/-- Registers of the MAP block. -/
def rowsMAP : List RegRow :=
  [⟨R.MAP_CFG, 0, 1, [⟨16, 16, .rw, 0, .any⟩, ⟨15, 0, .rw, 0x3e8, .range 10 10000⟩]⟩,
   ⟨R.MAP_CKPT_CFG, 0, 1, [⟨31, 24, .rw, 0x3c, .range 1 255⟩, ⟨15, 0, .rw, 0x100, .range 64 1024⟩]⟩,
   ⟨R.MAP_ECC_CFG, 0, 1, [⟨31, 24, .rw, 0x50, .any⟩, ⟨23, 16, .rw, 0x28, .any⟩, ⟨11, 8, .rw, 0xf, .any⟩]⟩,
   ⟨R.MAP_WEAR_CFG, 0, 1, [⟨31, 16, .rw, 0xc8, .any⟩, ⟨15, 8, .rw, 0xa, .range 0 50⟩]⟩,
   ⟨R.MAP_PATROL_CFG, 0, 1, [⟨31, 16, .rw, 0x64, .range 1 65535⟩, ⟨15, 0, .rw, 0x64, .any⟩]⟩,
   ⟨R.MAP_READ_TMO, 0, 1, [⟨15, 0, .rw, 0x1388, .range 100 65535⟩]⟩]

/-- Registers of the REEF block. -/
def rowsREEF : List RegRow :=
  [⟨R.REEF_CFG, 0, 1, [⟨31, 31, .rw, 0, .any⟩, ⟨30, 30, .rw, 1, .any⟩, ⟨29, 29, .rw, 0, .any⟩, ⟨23, 16, .rw, 0x20, .range 0 128⟩, ⟨15, 12, .rw, 6, .range 1 15⟩]⟩,
   ⟨R.REEF_GSOL_CFG, 0, 1, [⟨31, 16, .rw, 0x100, .range 1 65535⟩, ⟨8, 0, .rw, 0x20, .any⟩]⟩,
   ⟨R.REEF_INS_CFG, 0, 1, [⟨23, 16, .rw, 0x10, .range 4 64⟩, ⟨15, 0, .rw, 0x80, .range 1 65535⟩]⟩,
   ⟨R.REEF_COMPACT_CFG, 0, 1, [⟨15, 0, .rw, 0x100, .range 1 65535⟩]⟩,
   ⟨R.REEF_QUERY_TMO, 0, 1, [⟨15, 0, .rw, 0xc8, .range 1 65535⟩]⟩]

/-- Registers of the PLACE block. -/
def rowsPLACE : List RegRow :=
  [⟨R.PLACE_MIG_BUDGET, 0, 1, [⟨15, 0, .rw, 0x40, .any⟩]⟩,
   ⟨R.PLACE_HOLD, 0, 1, [⟨15, 0, .rw, 0x28, .any⟩]⟩,
   ⟨R.PLACE_T4_SIZE, 0, 1, [⟨9, 0, .rw, 0, .range 0 512⟩]⟩,
   ⟨R.PLACE_T4_BASE_LO, 0, 1, [⟨31, 0, .rw, 0, .low 16⟩]⟩,
   ⟨R.PLACE_T4_BASE_HI, 0, 1, [⟨31, 0, .rw, 0, .any⟩]⟩,
   ⟨R.PLACE_RESERVE, 4, 3, [⟨11, 0, .rw, 0, .any⟩]⟩,
   ⟨R.PLACE_TMO, 0, 1, [⟨15, 0, .rw, 0x14, .range 1 65535⟩]⟩,
   ⟨R.PLACE_TMO + 4, 0, 1, [⟨15, 0, .rw, 0x14, .range 1 65535⟩]⟩,
   ⟨R.PLACE_TMO + 8, 0, 1, [⟨15, 0, .rw, 0x64, .range 1 65535⟩]⟩,
   ⟨R.PLACE_TMO + 0xc, 0, 1, [⟨15, 0, .rw, 0x7d0, .range 1 65535⟩]⟩,
   ⟨R.PLACE_RETIRE_CE, 0, 1, [⟨7, 0, .rw, 8, .range 1 255⟩]⟩,
   ⟨R.PLACE_TIER_CAP, 0, 1, [⟨31, 0, .ro, 0x60, .any⟩]⟩,
   ⟨R.PLACE_TIER_CAP + 0x20, 0, 1, [⟨31, 0, .ro, 0x200, .any⟩]⟩,
   ⟨R.PLACE_TIER_CAP + 0x40, 0, 1, [⟨31, 0, .ro, 0xc000, .any⟩]⟩,
   ⟨R.PLACE_TIER_CAP + 0x60, 0, 1, [⟨31, 0, .ro, 0, .any⟩]⟩]

/-- Registers of the SEC block. -/
def rowsSEC : List RegRow :=
  [⟨R.SEC_OTP_PROG, 0, 1, [⟨31, 31, .ro, 0, .any⟩, ⟨27, 24, .ro, 0, .any⟩, ⟨1, 0, .wo, 0, .any⟩]⟩,
   ⟨R.SEC_OTP_DATA, 4, 16, [⟨31, 0, .rw, 0, .any⟩]⟩]

/-- Registers of the PWR block. -/
def rowsPWR : List RegRow :=
  [⟨R.PWR_CAP, 0, 1, [⟨7, 0, .rw, 0x78, .range 20 165⟩]⟩,
   ⟨R.PWR_THERM_CFG, 0, 1, [⟨15, 8, .rw, 0x82, .range 100 140⟩, ⟨7, 0, .rw, 0x73, .range 80 125⟩]⟩,
   ⟨R.PWR_WAKE_CFG, 0, 1, [⟨23, 16, .rw, 5, .range 1 255⟩, ⟨9, 9, .rw, 0, .any⟩, ⟨8, 8, .rw, 0, .any⟩, ⟨7, 4, .rw, 0, .any⟩, ⟨3, 0, .rw, 0, .any⟩]⟩,
   ⟨R.PWR_WATCH_CFG, 0, 1, [⟨2, 0, .rw, 0, .any⟩]⟩,
   ⟨R.PWR_STATUS, 0, 1, [⟨31, 24, .ro, 0x78, .any⟩, ⟨15, 4, .ro, 0, .any⟩, ⟨3, 3, .ro, 0, .any⟩, ⟨2, 2, .ro, 0, .any⟩, ⟨1, 1, .ro, 0, .any⟩, ⟨0, 0, .ro, 0, .any⟩]⟩,
   ⟨R.PWR_DOMAINS, 0, 1, [⟨23, 8, .ro, 0, .any⟩, ⟨7, 7, .ro, 0, .any⟩, ⟨6, 6, .ro, 0, .any⟩, ⟨5, 5, .ro, 0, .any⟩, ⟨4, 4, .ro, 0, .any⟩, ⟨3, 3, .ro, 0, .any⟩, ⟨2, 2, .ro, 0, .any⟩, ⟨1, 1, .ro, 1, .any⟩, ⟨0, 0, .ro, 1, .any⟩]⟩,
   ⟨R.PWR_WAKE_CAUSE, 0, 1, [⟨9, 9, .w1c, 0, .any⟩, ⟨8, 8, .w1c, 0, .any⟩, ⟨7, 4, .w1c, 0, .any⟩, ⟨3, 0, .w1c, 0, .any⟩]⟩,
   ⟨R.PWR_ALARM_LO, 0, 1, [⟨31, 0, .rw, 0, .any⟩]⟩,
   ⟨R.PWR_ALARM_HI, 0, 1, [⟨31, 0, .rw, 0, .any⟩]⟩]

/-- Registers of the CHAIN block. -/
def rowsCHAIN : List RegRow :=
  [⟨R.CHAIN_CFG, 0, 1, [⟨31, 16, .rw, 0x3e8, .range 1 65535⟩, ⟨15, 0, .rw, 0x64, .range 1 65535⟩]⟩,
   ⟨R.CHAIN_TEST, 0, 1, [⟨8, 8, .rw, 0, .any⟩, ⟨1, 0, .rw, 0, .any⟩]⟩]

/-- Registers of the HOST block. -/
def rowsHOST : List RegRow :=
  [⟨R.HOST_BAR2_CFG, 0, 1, [⟨8, 8, .rw, 0, .any⟩, ⟨3, 0, .rw, 0xc, .any⟩]⟩,
   ⟨R.HOST_BAR2_BASE, 0, 1, [⟨9, 0, .rw, 0, .range 0 960⟩]⟩,
   ⟨R.HOST_RELAY_CTL, 0, 1, [⟨31, 31, .ro, 0, .any⟩, ⟨26, 24, .ro, 0, .any⟩, ⟨1, 0, .wo, 0, .any⟩]⟩,
   ⟨R.HOST_RELAY_ADDR_LO, 0, 1, [⟨31, 0, .rw, 0, .low 2⟩]⟩,
   ⟨R.HOST_RELAY_ADDR_HI, 0, 1, [⟨15, 0, .rw, 0, .any⟩]⟩,
   ⟨R.HOST_RELAY_DATA, 0, 1, [⟨31, 0, .rw, 0, .any⟩]⟩]

/-- The rows of a 64 KiB block. -/
def blockRows : Nat → List RegRow
  | 0 => rowsGLB
  | 1 => rowsCFG
  | 2 => rowsINTC
  | 3 => rowsTIME
  | 4 => rowsCOND
  | 5 => rowsSHORE
  | 6 => rowsFUSE
  | 7 => rowsGSOL
  | 8 => rowsMAP
  | 9 => rowsREEF
  | 0xa => rowsPLACE
  | 0xc => rowsSEC
  | 0xd => rowsPWR
  | 0xe => rowsCHAIN
  | 0xf => rowsHOST
  | _ => []

/-- The fields of the register at an offset; none for one that ignores writes and resets to 0. An entry of the MSI-X table has the PCIe
layout: address, data, and its mask, which resets to 1 (13 R386; log entry 78). -/
def csrFields (o : Nat) : List Fld :=
  match (blockRows (o / 0x10000)).find? (fun r => r.holds o) with
  | some r => r.flds
  | none =>
    if R.COND_CH_FIR ≤ o ∧ o < R.COND_CH_FIR + 0x1800 then
      [⟨31, 0, .rw, if (o - R.COND_CH_FIR) % 0x100 = 0 then 0x3F800000 else 0, .any⟩]
    else if R.MSIX ≤ o ∧ o < R.MSIX + 0x400 then
      (if o % 16 = 0 then [⟨31, 2, .rw, 0, .any⟩] else if o % 16 = 12 then [⟨0, 0, .rw, 1, .any⟩] else [⟨31, 0, .rw, 0, .any⟩])
    else []

/-- The reset value of the register at an offset (00: reset values apply after cold start). -/
def csrReset (o : Nat) : Word32 :=
  BitVec.ofNat 32 ((csrFields o).foldl (fun n f => n + f.reset * 2 ^ f.lo) 0)

/-- The relations between fields of one register (00 R466): the register's rows, the field that stays lower, the field
that stays higher. -/
def relations : List (RegRow × Bits × Bits) :=
  [(⟨R.SHORE_WR_CFG, 0, 1, []⟩, R.SHORE_WR_CFG_lo, R.SHORE_WR_CFG_hi),
   (⟨R.COND_CH_CFG, 0x40, 24, []⟩, R.COND_CH_CFG_rank_r, R.COND_CH_CFG_rank_w),
   (⟨R.FUSE_CONF_SIGMA, 0, 1, []⟩, R.FUSE_CONF_SIGMA_sigma_lo, R.FUSE_CONF_SIGMA_sigma_hi),
   (⟨R.PWR_THERM_CFG, 0, 1, []⟩, R.PWR_THERM_CFG_throttle_c, R.PWR_THERM_CFG_trip_c)]

/-- What a write of `v` leaves in one field of a register that held `old` (00 R8, R10, R11). -/
def Fld.write (f : Fld) (old v : Nat) : Nat :=
  let x := bitsOf v f.hi f.lo
  match f.acc with
  | .rw => if f.legal.ok x then putBits old f.hi f.lo x else old
  | .w1c => old &&& ((2 ^ 32 - 1) ^^^ (x <<< f.lo))
  | .w1s => old
  | .ro => old
  | .wo => old

/-- Does the register at `o`, holding `n`, keep its relation (00 R466). -/
def keepsRelation (o n : Nat) : Bool :=
  relations.all fun (r, lo, hi) => !r.holds o || decide (bitsOf n lo.1 lo.2 < bitsOf n hi.1 hi.2)

/-- `n` with both fields of the relation of the register at `o` taken from `old` (00 R466). -/
def undoRelation (o old n : Nat) : Nat :=
  relations.foldl (fun n (r, lo, hi) =>
    if r.holds o then putBits (putBits n lo.1 lo.2 (bitsOf old lo.1 lo.2)) hi.1 hi.2 (bitsOf old hi.1 hi.2) else n) n

/-- The register at `o` after a write of `v` (00 R8–R11, R466). -/
def csrAfterWrite (o : Nat) (old v : Word32) : Word32 :=
  let n := (csrFields o).foldl (fun a f => f.write a v.toNat) old.toNat
  BitVec.ofNat 32 (if keepsRelation o n then n else undoRelation o old.toNat n)

end Sys2Proof.Machine
end

