-- ==== Sys2Proof/Machine/StateChain.lean ====
section
/-! DEFINITION. What the device sends out, and the state of the Causeway ports, the peer requests and the PCIe endpoint
(spec 13). -/
namespace Sys2Proof.Machine

/-- A Causeway message (13 R381): its header fields and its payload. -/
structure Msg where
  dest : Nat
  src : Nat
  cls : Nat
  flags : Nat := 0
  address : Nat := 0
  seq : Nat := 0
  epoch : Nat := 0
  tag : Nat := 0
  payload : List Byte := []
  deriving DecidableEq, Repr

/-- A link frame (13 R375) without its CRC. -/
structure LFrame where
  fseq : Nat
  typ : Nat
  ack : Nat
  vc : Nat
  last : Bool
  data : List Byte
  deriving DecidableEq, Repr

/-- What leaves the device, in order. -/
inductive Out
  /-- A posted write to host memory (12 R359, 13 R387). -/
  | hostWrite (addr : Nat) (bytes : List Byte)
  /-- A read of host memory issued (12 R350, R341). -/
  | hostRead (addr len : Nat)
  /-- An MSI-X write of a vector to the address of its table entry with its data (15 R414, 13 R386). -/
  | msix (vector addr data : Nat)
  /-- A message handed whole to the transmitter of a port (13 R382). -/
  | msg (port : Nat) (m : Msg)
  /-- A link frame sent on a port (13 R375). -/
  | frame (port : Nat) (f : LFrame)
  /-- The value a read command returns. -/
  | value (v : Nat)
  /-- The bytes a read through BAR2 returns (13 R385). -/
  | bytes (b : List Byte)
  /-- A pulse or a level on a pin: pin, level, from, width in ns. -/
  | pulse (pin : Nat) (level : Bool) (start width : Nat)
  /-- A gPTP message on an Ethernet port (07 R199): port, message type, domain, sequenceId, its time field. -/
  | gptp (port kind domain seqId t : Nat)
  /-- A read burst of an IMU port (07 R206): port, SPI mode, SCLK divider, command byte. -/
  | spi (port mode div cmd : Nat)
  /-- An acknowledgement of a frame on a CAN bus (07 R208). -/
  | canAck (bus : Nat)
  /-- An error frame on a CAN bus (07 R208). -/
  | canError (bus : Nat)
  /-- Configuration Request Retry Status (13 R368). -/
  | configRetry
  /-- A bit string shifted out of TDO (18 R446, R447). -/
  | tdo (width v : Nat)
  deriving DecidableEq, Repr

/-- Who waits for the end of a peer request (13 R383). -/
inductive PeerWho
  | relay
  | load (i seq : Nat)
  | store (i seq : Nat)
  | tow (i slot off : Nat)
  | enumHead (unit : Nat)
  | cmdWrite
  | cmdArg
  | stage
  /-- A relay request that a Function Level Reset has cut off (R387). -/
  | forgotten
  deriving DecidableEq, Repr

/-- A peer request in flight (13 R383). -/
structure PeerReq where
  seq : Nat
  dest : Nat
  isWrite : Bool
  len : Nat
  since : Nat
  who : PeerWho
  deriving DecidableEq, Repr

/-- The link layer of a Causeway port (13 R375, R376). State, width and lanes are in CHAIN_PORT_STATUS_p. -/
structure CPort where
  txSeq : Nat := 0                       -- fseq of the next frame sent
  rxSeq : Nat := 0                       -- fseq expected next
  replay : List (LFrame × Nat) := []     -- frames kept for replay, oldest first, with their replays
  credits : List Nat := [32, 256, 256]   -- credits held per virtual channel
  freed : List Nat := [0, 0, 0]          -- frames freed and not yet returned, per virtual channel
  part : List (List Byte) := [[], [], []]  -- data of a message not yet whole, per virtual channel
  wait : List Msg := []                  -- messages waiting for credits
  fails : Nat := 0                       -- retrains failed in a row
  deriving DecidableEq, Repr

/-- Where a unit stands in R378. -/
inductive EnumStage
  | idle
  | headWait       -- head: waits for READY on DOWN
  | waitEnum       -- not head: waits for ENUM on UP
  | waitReady      -- has its address, waits for READY on DOWN
  | waitEnd        -- forwarded ENUM, waits for ENUM_END
  | waitCommit     -- sent or forwarded ENUM_END, waits for ENUM_COMMIT
  deriving DecidableEq, Repr

/-- The chain state (13). Head, state, count and address are in CHAIN_STATUS. -/
structure Chain where
  ports : SMap CPort := []
  stage : EnumStage := .idle
  stageSince : Nat := 0              -- TB3 ns at which the stage began
  readySent : Option Nat := none     -- TB3 ns of the first READY sent
  readyDown : Bool := false          -- READY recorded on DOWN
  seqs : SMap Nat := []              -- next seq per destination
  reqs : List PeerReq := []          -- peer requests in flight, oldest first
  rxq : List (Nat × Msg) := []       -- whole messages received, oldest first; port 2: messages that could not leave
  stalled : List (Nat × Nat × Msg) := []   -- requests that wait for a load, a page in transfer or a credit (05 R135, R140): number, port
  remote : List Nat := []            -- units a re-enumeration still waits for (R380)
  deriving DecidableEq, Repr

/-- The PCIe endpoint (13 R368, R384–R387). Link state is in HOST_LINK_STATUS, the MSI-X table in the CSR map. -/
structure Endpoint where
  perst : Bool := false              -- PERST_N high
  refclk : Bool := false             -- reference clock stable
  configOpen : Bool := false         -- configuration requests are answered (BOOT verification has ended)
  msixEnable : Bool := false
  funcMask : Bool := false
  bar2 : List (Nat × Nat × Nat × Option (List Byte)) := []  -- BAR2 accesses that wait likewise: number, offset, bytes, data of a write
  deriving DecidableEq, Repr

end Sys2Proof.Machine
end

