-- ==== Sys2Proof/Machine/StateDev.lean ====
section
/-! DEFINITION. The state of the system controller: device state, command banks, configuration sets, rings, security, power
and the test port (spec 12, 13 start-up, 14, 16, 18). -/
namespace Sys2Proof.Machine

/-- GLB_STATE (12 R362). -/
inductive DState
  | off | sleep | watch | boot | train | enum | load | mount | run | degraded | safe | recover | test | halt
  deriving DecidableEq, Repr

/-- Its code. -/
def DState.code : DState → Nat
  | .off => 0x0 | .sleep => 0x1 | .watch => 0x2 | .boot => 0x3 | .train => 0x4 | .enum => 0x5 | .load => 0x6
  | .mount => 0x7 | .run => 0x8 | .degraded => 0x9 | .safe => 0xA | .recover => 0xB | .test => 0xC | .halt => 0xD

/-- Status codes (12 R352). -/
inductive CStatus
  | none | accepted | done | wrongState | badArg | conflictLost | busy | denied
  deriving DecidableEq, Repr

/-- Their codes. -/
def CStatus.code : CStatus → Nat
  | .none => 0 | .accepted => 1 | .done => 2 | .wrongState => 3 | .badArg => 4 | .conflictLost => 5 | .busy => 6
  | .denied => 7

/-- The read of an argument block (12 R350). -/
inductive ArgRead
  | notNeeded
  | reading
  | done (block : List Byte)
  | failed
  deriving DecidableEq, Repr

/-- A command of a bank: opcode, token, argument address, TB3 of the write, its argument read, whether it has won its
slot, whether it reports with the chain bank's identical command (12 R353), whether a Function Level Reset has hidden it
from GLB_CMD_STATUS (13 R387). -/
structure Cmd where
  op : Nat
  token : Nat
  argAddr : Nat
  since : Nat
  arg : ArgRead
  got : List Byte := []       -- of a block that is being read from the chain head: what has come
  accepted : Bool := false
  merged : Bool := false
  hidden : Bool := false
  deriving DecidableEq, Repr

/-- A command bank (12 R349). -/
structure Bank where
  argLo : Word32 := 0
  argHi : Word32 := 0
  status : Word32 := 0
  cmd : Option Cmd := none
  deriving DecidableEq, Repr

/-- What a running command still has to do. -/
inductive Job
  /-- PARK (false) or SLEEP (true): waits for the map to be sealed, then for the calibration commit once that has begun. -/
  | park (sleep : Bool) (calBegun : Bool)
  | halt
  | stage
  | cal
  | seal
  | exportMap (block : List Byte)
  | query (left : Nat)
  | attest (record : List Byte) (dest : Nat) (isReport : Bool)
  | recover (flags : Nat) (test : Bool)
  /-- What a command leaves in the chain head's memory is being written: 0 export, 1 report, 2 enrolment; whether all went well. -/
  | writing (kind : Nat) (ok : Bool)
  deriving DecidableEq, Repr

/-- The device state, the tide and the banks. -/
structure Dev where
  state : DState := .boot
  poweredOff : Bool := false       -- POR_N is low (18 R450)
  pwrOk : Bool := true             -- PWR_OK is high (18 R449)
  bootFailed : Bool := false       -- no slot passed (12 R340)
  safeStopLow : Bool := false      -- SAFE_STOP_N
  epoch : Nat := 0                 -- epoch count (01 R19)
  chain : Bank := {}
  host : Bank := {}
  jobs : List (Master × Job) := [] -- running commands, by the master that executes them
  recoverStep : Nat := 0           -- where RECOVER stands (13 R373)
  tStart : Option Nat := none      -- TB3 of the Skerry's wake until RUN, DEGRADED or SAFE (HOST_START_US)
  tWake : Option Nat := none       -- TB3 of the wake event until the first seal (HOST_FIRST_POSE_US)
  estStopped : Bool := false       -- HALT's step 2 has stopped the estimator (12 R356)
  halting : Bool := false          -- HALT or a trip waits for its commit (step 3)
  pfailHeld : Bool := false        -- a cold start waits for PFAIL_N (13 R369)
  teleEpochs : Nat := 0            -- epochs since the last telemetry entry
  tele : SMap Nat := []            -- running totals of the telemetry interval (12 R361)
  posted : Nat := 0                -- GLB_DEGRADED of the last DEGRADED_CAUSE entry (log entry 25)
  deriving DecidableEq, Repr

/-- A configuration image (12 R336–R339) as parsed. -/
structure Image where
  keyIndex : Nat
  bytes : Nat
  testAllowed : Bool
  secver : Nat
  seq : Nat
  digest : List Byte          -- the digest of R337
  fwDigest : List Byte        -- SHAKE256 of the FIRMWARE section (14 R405)
  regs : List (Nat × Nat)
  nettab : List (List Byte)
  pintab : List (List Byte)
  lidar : List (List Byte)
  cansig : List (List Byte)
  nand : List Byte
  deriving DecidableEq, Repr

/-- Staging in progress (12 R341). -/
structure Staging where
  source : Nat                -- 0 NOR_OTHER, 1 HOST
  persist : Bool
  slot : Nat                  -- where the image is or goes
  block : List Byte
  master : Master
  image : Option (List Byte) := none   -- read and past steps 1 to 3, with its payloads written
  plans : List UnitPlan := []
  commit : Nat := 0           -- the commit of the last payload's record
  norOk : Bool := true
  todo : List (Nat × Nat) := []         -- chain bank: addresses and sizes of the reads from the head to come, the one in progress first
  got : List Byte := []                 -- what has come of that one
  read : List (Option (List Byte)) := []  -- those that have ended
  deriving DecidableEq, Repr

/-- A calibration commit in progress (12 R347): its step, the record, the sector it goes to. -/
structure CalJob where
  step : Nat
  record : List Byte
  sector : Nat
  deriving DecidableEq, Repr

/-- Configuration (12). -/
structure Cfg where
  nor : SMap Byte := []                -- the NOR flash by address; an unlisted byte is erased, 0xFF
  active : Option Image := none
  shadow : Option Image := none
  shadowPlans : List UnitPlan := []    -- the Pilot's plans for its units
  shadowSlot : Nat := 0                -- where its image is held, as active_slot
  staging : Option Staging := none
  calSector : Option Nat := none       -- sector that holds the current record
  calPending : Option (List Byte) := none   -- live values written, in effect from the next boundary (R346)
  calJob : Option CalJob := none
  swapped : Bool := false              -- CONFIG_SWAPPED is due in the next pose record
  deriving DecidableEq, Repr

/-- A rollback row (14 R395): a value, or a row whose ECC fails; blank rows are not listed. -/
inductive OtpRow
  | blank
  | value (v : Nat)
  | bad
  deriving DecidableEq, Repr

/-- OTP and the security block (14). -/
structure Sec where
  uid : List Byte := []
  vendorHash : List Byte := []
  integratorHash : Option (List Byte) := none
  vendorDisable : Bool := false
  seed : Option (List Byte) := none
  enrolDone : Bool := false
  rows : SMap OtpRow := []
  nextRow : Nat := 0
  armed : Bool := false                -- an occasion of R400 is due
  idPub : List Byte := []
  deriving DecidableEq, Repr

/-- Power (16) beyond its registers. -/
structure Pwr where
  pfailLow : Bool := false
  pfailSince : Nat := 0                -- TB3 of the latest edge of PFAIL_N
  shed : Bool := false                 -- R433 in force
  selfRefresh : Bool := false
  relock : SMap Nat := []              -- Atolls whose PLL relocks
  steps : List Nat := []               -- Atolls lowered, latest first
  low95 : Nat := 0                     -- consecutive epochs at or below 95 % of the cap
  cut : Nat := 0                       -- W by which the effective cap lies below PWR_CAP (R432)
  engineHold : Bool := false           -- solver and Reef start no new work
  latched : Nat := 0                   -- wake sources latched, as PWR_WAKE_CAUSE bits (R425)
  psram : List Byte := []              -- header of the resume image in the external PSRAM (13 R370)
  wakePending : Bool := false          -- WATCH leaves at the next boundary
  deriving DecidableEq, Repr

/-- The boundary-scan port (18 R446, R447). -/
structure Tap where
  inReset : Bool := true
  ir : Nat := 0                        -- 0 IDCODE, 1 BYPASS, 2 SAMPLE/PRELOAD, 3 EXTEST
  bypassBit : Bool := false
  scan : List Bool := []               -- boundary register as captured or preloaded
  drive : Option (List Bool) := none   -- levels EXTEST drives
  deriving DecidableEq, Repr

end Sys2Proof.Machine
end

