-- ==== Sys2Proof/Machine/StateFuse.lean ====
section
/-! DEFINITION. The state of the estimator and the fusion unit (spec 08). -/
namespace Sys2Proof.Machine

/-- The filter's nominal state and covariance (R221): position in TQ64, velocity, attitude quaternion, angular rate with its
bias removed, the biases of both IMUs (gyroscope and accelerometer of IMU 0, then of IMU 1), a scale factor for each wheel channel in use,
and how many of those there are; the covariance of the 21 + w elements of the error state (position, attitude, velocity, biases, scale
factors), F32: their variances, then the elements above the diagonal row by row. -/
structure Est where
  pos : List Word64 := [0, 0, 0]
  vel : List Word32 := [0, 0, 0]
  quat : List Word32 := [0x3F800000, 0, 0, 0]
  rate : List Word32 := [0, 0, 0]
  bias : List Word32 := [0, 0, 0, 0, 0, 0, 0, 0, 0, 0, 0, 0]
  scale : List Word32 := [0, 0, 0, 0, 0, 0, 0, 0, 0, 0, 0, 0]
  wheels : Nat := 0
  cov : List Word32 := List.replicate 231 0
  deriving DecidableEq, Repr

/-- An item for the filter and the smoother (R230): source bit, time, arrival number, kind (an observation kind of R227, or
5 GNSS position, 6 sample of the second IMU, 7 wheel speed, 8 vehicle signal), mapped flag, elements in use, contents,
whether it has passed the gate of the filter or of a pass, whether it has failed it. -/
structure Item where
  src : Nat
  t : Int
  arrived : Nat
  kind : Nat
  mapped : Bool := false
  elems : Nat := 1
  words : List Word64
  late : Bool := false
  gated : Bool := false
  failed : Bool := false
  deriving DecidableEq, Repr

/-- An IMU sample (R229): time, six axes in F32. -/
structure ImuSample where
  t : Int
  axes : List Nat
  deriving DecidableEq, Repr

/-- A source of R222 (R240, R241): TB3 of the latest delivery, the gate's consecutive failures and passes. -/
structure Source where
  last : Option Nat := none
  fails : Nat := 0
  passes : Nat := 0
  masked : Bool := false
  deriving DecidableEq, Repr

/-- A published map correction that waits for its boundary (R233, 09 R264): map generation, TB3 of the publication, the tile
transforms of R265. -/
structure Correction where
  gen : Nat
  at_ : Nat
  tiles : List (List Byte)
  deriving DecidableEq, Repr

/-- An output of a conditioning channel (R212, R229): time, F32 value, whether it is flagged SETTLING. -/
structure AxisOut where
  t : Int
  y : Nat
  settling : Bool
  deriving DecidableEq, Repr

/-- A smoother pass (R231): TB3 of its start, the filter's instant and state then, the nodes and the items it takes. -/
structure Pass where
  start : Nat
  now : Int
  est : Est := {}
  nodes : List (Int × Est) := []
  items : List Item := []
  deriving DecidableEq, Repr

/-- What the end of a seal wait finds (R234): sensor_mask, the filter's instant and state, its past states, the items that it holds. -/
structure Frozen where
  mask : Nat
  now : Int
  est : Est
  past : List (Int × Est)
  held : List Item
  deriving DecidableEq, Repr

/-- The estimator and the fusion unit. -/
structure FuseSt where
  est : Est := {}
  now : Int := 0                      -- the filter's current instant
  past : List (Int × Est) := []       -- its states at the samples and items within the lag, newest first
  items : Nat := 0                    -- items arrived
  held : List Item := []              -- in-order items not yet applied
  window : List Item := []            -- the smoother's items, oldest arrival first
  nodes : List (Int × Est) := []      -- the smoother's nodes, newest first
  imuBuf : List ImuSample := []       -- primary samples within the lag, newest first
  pass : Option Pass := none
  result : Option (Int × Est) := none -- the newest node of the last completed pass
  lateWait : Bool := false            -- late samples wait for a pass to take them
  latePass : Bool := false            -- the pass in progress has taken late samples
  srcs : SMap Source := []            -- by source bit
  edges : SMap Nat := []              -- stamp of the latest accepted edge of each wheel-tick input (07 R207)
  reverse : Bool := false             -- the REVERSE signal marks reverse gear (07 R209)
  outs : SMap (List AxisOut) := []    -- latest outputs of channels 0–11, newest first
  mask : Nat := 0                     -- sensor_mask at present
  boundary : Option (Nat × Nat) := none -- output boundary that waits for its seal: epoch, TB3
  lastOut : Option Nat := none        -- TB3 of the boundary of the latest sealed record
  frozen : Option Frozen := none      -- what the end of the boundary's seal wait found, when the estimator has gone on since
  corrs : List Correction := []
  lastExt : Option Int := none        -- time of the latest exteroceptive item applied
  lastAbs : Option Int := none        -- time of the latest absolute item applied
  still : Bool := false               -- STANDSTILL
  stillSince : Option Int := none     -- start of the present standstill
  alignAt : Option Nat := none        -- TB3 at which ALIGNING was entered
  absPose : Option Item := none       -- the latest ABSOLUTE_POSE taken while ALIGNING
  gnssFixes : List (List Word64) := []  -- the GNSS positions taken while ALIGNING, newest first
  gnssPair : Option (List Word64 × List Word64) := none  -- two of them at least 5 m apart, the later one first
  gnssEarly : Bool := false           -- a GNSS position has been admitted within 2 s of ALIGNING (R243)
  gnssWait : List (Nat × Option (List Word64) × Option (List Word32)) := []  -- second, position and accuracy not yet joined
  levelled : Bool := false            -- roll and pitch have been resolved from 1 s of STANDSTILL (R243)
  fLateApplied : Bool := false        -- flags due in the next record
  fLateNext : Bool := false           -- LATE_APPLIED is due in the record after the one whose wait has ended (R232)
  fLateDropped : Bool := false
  fNetLate : Bool := false
  fWindowOvf : Bool := false
  fResumed : Bool := false
  fStale : Bool := false
  snapObj : Nat := 0                  -- the snapshot object of R226
  deriving DecidableEq, Repr

end Sys2Proof.Machine
end

