-- ==== Sys2Proof/Machine/StateMap.lean ====
section
/-! DEFINITION. The state of the map store (spec 10): the NAND flash, the journal, the content of the Yelluori map. -/
namespace Sys2Proof.Machine

/-- A programmed page: the fields of its metadata (R276), its data area, zeros after the end of the list, and its spare area as it was programmed
(R274). -/
structure NPage where
  magic : Nat := 0x594C4D31
  typ : Nat
  group : Nat := 0
  pool : Nat := 0
  seq : Nat := 0
  commit : Nat := 0
  aux : Nat := 0
  mapId : Nat := 0
  blockSeq : Nat := 0
  erases : Nat := 0
  data : List Byte
  spare : List Byte := []
  deriving DecidableEq, Repr

/-- What a page read is for (R273, R305): patrol, moving the page's valid data at a priority, an object's load, an engine's codeword at a version
of the index, compaction of a node page (11 R319). -/
inductive ReadFor
  | patrol
  | move (prio : BitVec 2)
  | payload (id : Nat)
  | codeword (engine w version : Nat)
  | sweep (page : Nat)
  deriving DecidableEq, Repr

/-- A page read (R273): its page, its deadline class, what it is for, TB3 of its issue; none while it waits. -/
structure NRead where
  page : Nat
  cls : Nat
  who : ReadFor
  issued : Option Nat := none
  deriving DecidableEq, Repr

/-- A program or an erase in progress (R273): the first page of a word line, or a block. -/
structure NOp where
  erase : Bool
  key : Nat
  deriving DecidableEq, Repr

/-- What a block is in use for. -/
inductive BState
  | free | opened | full | retired | factoryBad | super
  deriving DecidableEq, Repr

/-- A block of the flash. An unlisted block within the geometry is a free block of the map pool that was never erased. -/
structure NBlock where
  state : BState := .free
  payload : Bool := false
  erases : Nat := 0
  bseq : Nat := 0
  next : Nat := 0                -- next page to program
  reads : Nat := 0               -- since the last erase
  deriving DecidableEq, Repr

/-- Geometry and wear rating (R271, R277; 12's NAND descriptor). -/
structure Geo where
  channels : Nat
  targets : Nat
  luns : Nat
  planes : Nat
  ppb : Nat
  ppw : Nat
  bits : Nat
  bpl : Nat
  peRated : Nat
  payBlocks : Nat
  deriving DecidableEq, Repr

/-- A page of a commit: where it is programmed, what it holds, whether its program has passed. -/
structure CPage where
  ppa : Nat
  page : NPage
  done : Bool := false
  deriving DecidableEq, Repr

/-- A correction on its way to publication (09 R264): the fields of its entry, its tile transforms, the commit that holds
its last record. -/
structure Corr where
  gen : Nat
  prev : Nat
  spilled : Bool
  maxShift : Nat
  solveUs : Nat
  kfQuery : Nat
  kfMatch : Nat
  tiles : List (List Byte)
  commit : Nat := 0
  deriving DecidableEq, Repr

/-- A payload of the payload partition (R281, R285): digest, size, extents as first PPA and pages, the commit of its last
record. -/
structure Payload where
  digest : List Byte
  size : Nat
  extents : List (Nat × Nat)
  commit : Nat := 0
  deriving DecidableEq, Repr

/-- What the journal says (R280, R283, R289): the records of the segments, the index table, the payloads, map_gen, and the
correction or payload whose records have not all come (R282). -/
structure Content where
  recs : List MapRec := []
  index : SMap Nat := []
  payloads : List Payload := []
  gen : Nat := 0
  corr : Option (Nat × Nat × List (List Byte)) := none       -- its map_gen, transforms in all, those that have come
  pay : Option (List Byte × Nat × Nat × List (Nat × Nat)) := none  -- digest, size, extents in all, those that have come
  deriving DecidableEq, Repr

/-- A commit, open or closed (R286–R291). -/
structure Commit where
  id : Nat
  flags : Nat := 0
  records : Nat := 0
  since : Nat := 0               -- TB3 of the first record accepted
  ms : Nat := 0                  -- the commit_ms in force then
  first : Nat := 0               -- page_seq of its first page
  pages : List CPage := []       -- content and parity pages, in page_seq order
  copies : List CPage := []      -- the two copies of the commit page once issued
  mapGen : Nat := 0
  epoch : Nat := 0
  tClose : Nat := 0
  root : List Byte := []         -- CHECKPOINT: the root list
  tiles : List Nat := []         -- CHECKPOINT: the tiles whose segments it wrote
  tileTab : List (List Byte) := []  -- CHECKPOINT: the tile table after it
  content : Content := {}        -- CHECKPOINT: the content it covers
  dropped : Bool := false        -- a checkpoint that PFAIL_N has turned into an ordinary commit
  deriving DecidableEq, Repr

/-- The map store. -/
structure MapSt where
  nand : SMap (Option NPage) := []   -- by physical page address without its byte offset (PPA >> 28)
  blocks : SMap NBlock := []         -- by PPA >> 40
  bad : List Nat := []               -- blocks with the factory mark
  superBlock : List Byte := []       -- the valid superblock, as mounted
  geo : Option Geo := none
  pageSeq : Nat := 1                 -- next page_seq
  blockSeq : Nat := 1                -- next block_seq
  rot : Nat := 0                     -- channel of the next page
  opens : SMap Nat := []             -- open block of each channel, by channel; 16 + channel for the payload pool
  cur : Option Commit := none        -- the open commit
  buf : List Byte := []              -- page buffer
  group : List (List Byte) := []     -- data areas of the parity group in the making
  wait : List Commit := []           -- closed commits that wait for the one in flight
  flight : Option Commit := none
  head : Nat := 0                    -- commit_id of the last durable commit
  headPage : List Byte := []         -- its commit page
  nextId : Nat := 1
  prevHead : List Byte := []         -- head of the latest closed commit
  ckpt : Nat := 0
  ckptPpa : Nat := 0
  sinceCkpt : Nat := 0               -- commits closed since the last checkpoint
  sincePages : Nat := 0              -- pages written since
  lastSince : Nat := 0               -- pages written between the last two checkpoints closed
  content : Content := {}
  before : Content := {}             -- content when the open commit was opened
  root : List Byte := []             -- root list of the last checkpoint closed
  tileTab : List (List Byte) := []   -- its tile table entries
  durRoot : List Byte := []          -- both as of the last durable checkpoint
  durTiles : List (List Byte) := []
  durContent : Content := {}
  dirty : List Nat := []             -- tile keys changed since the last checkpoint
  deferred : List MapRec := []       -- objects marked dirty, with their latest value (R304)
  corrs : List Corr := []            -- corrections journalled and not published
  sealWait : Bool := false           -- a sealing waits for its checkpoint
  resealWait : Bool := false         -- that checkpoint is written again after the hold (R292)
  reclaim : List Nat := []           -- blocks to be erased when nothing refers to them
  reads : List NRead := []           -- page reads that wait or are in flight, the oldest first
  busy : List NOp := []              -- programs and erases in progress
  parts : List (List NandPart) := []   -- what the targets of each channel answered at the last training
  eraseTotal : Nat := 0
  credit : Int := 0
  creditAt : Nat := 0                -- TB3 up to which the credit has accrued
  creditFrac : Nat := 0              -- fraction accrued, in E_day × ns
  mountAt : Option Nat := none       -- TB3 of the start of a mount that has not ended
  mountTo : Nat := 2                 -- the state that mount ends in
  pfailWait : Bool := false          -- R295 waits for the commit in flight
  refuse : Bool := false             -- PFAIL_N is low: records are refused
  holdTo : Option Nat := none        -- TB3 at which the hold of R295 ends
  deriving DecidableEq, Repr

end Sys2Proof.Machine
end

