-- ==== Sys2Proof/Machine/StateGsol.lean ====
section
/-! DEFINITION. The state of the graph solver (spec 09). The Landmark Directory lies in device memory. -/
namespace Sys2Proof.Machine

/-- A node of the pose graph (R248, R249). -/
structure PNode where
  kf : Nat
  pos : List Word64
  quat : List Word32
  tileX : BitVec 32               -- its anchor's tile
  tileY : BitVec 32
  t : Nat                         -- t_out, TB0
  gen : Nat                       -- map_gen of its pose
  cov : List (BitVec 16)
  mask : Nat := 0                 -- sensor_mask of the record
  fixed : Bool := false
  rpos : List Word64 := []        -- the estimator's position and attitude at it, under the corrections published since (R260)
  rquat : List Word32 := []
  tb : Option Nat := none         -- TB3 of its record's boundary; none for one from the map
  deriving DecidableEq, Repr

/-- A constraint (10 R281): id, keyframes, kind (0 odometry, 1 loop), z and sigma. -/
structure PEdge where
  id : Nat
  a : Nat
  b : Nat
  kind : Nat
  z : List Word32
  sigma : List (BitVec 16)
  deriving DecidableEq, Repr

/-- A queued verdict (R261, R262). -/
structure Verdict where
  kfQuery : Nat
  kfMatch : Nat
  z : List Word32
  sigma : List (BitVec 16)
  deriving DecidableEq, Repr

/-- A POINT or BEARING observation of the fusion network at a keyframe (R253, 08 R227): the landmark it names or has been found to show, its
source and track, its sensor's place and attitude in the keyframe's frame (F32), z, sigma (F16), whether obs_count has yet to count it. -/
structure Sight where
  kf : Nat
  entry : Option Nat
  src : Nat
  track : Option Nat              -- none for a mapped observation
  bearing : Bool
  place : List Nat
  turn : List Nat
  z : List Nat
  sigma : List (BitVec 16)
  fresh : Bool := true
  deriving DecidableEq, Repr

/-- A landmark of a bundle adjustment (R253): its number (its entry, or 2^26 and more for one that is new), its position, the keyframe that first
observed it, its observation count, the keyframes of the window that observe it, the source and track of one that is new. -/
structure BaPoint where
  num : Nat
  pos : List Word64
  first : Nat
  count : Nat
  kfs : List Nat
  track : Option (Nat × Nat) := none
  deriving DecidableEq, Repr

/-- The bundle adjustment in progress (R253, R266): the map_gen it started under, its keyframes with those held fixed, constraints, landmarks and
observations. -/
structure Ba where
  gen : Nat
  nodes : List PNode
  cons : List PEdge
  points : List BaPoint
  sights : List Sight
  deriving DecidableEq, Repr

/-- A place query of the solver that is to be sent (R261): its keyframe and the encoder's output. -/
structure PQuery where
  kf : Nat
  sketch : Nat
  desc : List Byte
  deriving DecidableEq, Repr

/-- The optimisation in progress (R263). -/
structure Optim where
  verdict : Verdict
  start : Nat                     -- TB3 of the start of symbolic analysis
  spilled : Bool := false
  ws : List Nat := []             -- the workspace objects
  work : List PNode               -- the nodes it takes, with the retired ones that priors name
  cons : List PEdge               -- their constraints and priors, ascending index
  loop : PEdge                    -- the loop constraint
  nodes : List PNode              -- the graph before it
  edges : List PEdge
  priors : List PEdge
  retired : List PNode
  deriving DecidableEq, Repr

/-- The graph solver. -/
structure GsolSt where
  nodes : List PNode := []        -- active, ascending keyframe id
  edges : List PEdge := []        -- ascending index
  priors : List PEdge := []       -- unary priors (R248): constraints whose other node is retired, held at its last pose
  retired : List PNode := []      -- retired nodes with their last poses; they stay in the map
  nextKf : Nat := 1
  nextEdge : Nat := 1
  lastKf : Option PNode := none   -- as created
  waitKf : List PNode := []       -- keyframes created while an optimisation runs (R260)
  live : List Nat := []           -- LIVE directory entries, ascending
  ldBase : Nat := 0               -- object id of the directory's first object
  seen : SMap (List Nat) := []    -- keyframes that observe an entry (R253, R259)
  window : List Nat := []         -- entries with in_window set
  sights : List Sight := []       -- observations at the window's keyframes, in order of arrival
  query : List PQuery := []       -- queries to be sent again after BUSY
  verdicts : List Verdict := []
  opt : Option Optim := none
  rewrite : Option (Corr × PEdge) := none  -- an accepted correction whose directory entries are being rewritten, its loop constraint
  ba : Option Ba := none          -- bundle adjustment in progress
  baWait : Nat := 0               -- bundle adjustments that have still to run, one for each new keyframe
  subObj : Nat := 0               -- ring of subgraph objects
  subNext : Nat := 0
  subStep : Nat := 0              -- object ids from one to the next
  published : List (Nat × List (List Byte)) := []  -- published corrections: map_gen, tile transforms
  tableObj : Nat := 0             -- object of the latest transform table
  off : Bool := false             -- stopped by HALT
  deriving DecidableEq, Repr

/-- The solver with nothing in progress. -/
def GsolSt.stopped (g : GsolSt) : GsolSt := { g with opt := none, rewrite := none, ba := none, baWait := 0 }

/-- The solver without a directory. -/
def GsolSt.emptied (g : GsolSt) : GsolSt := { g.stopped with live := [], seen := [], window := [], sights := [] }

end Sys2Proof.Machine
end

