-- ==== Sys2Proof/Machine/Number.lean ====
section
/-! DEFINITION. Number formats and arithmetic (spec 03): the eleven formats, exact values of floats as
`± m · 2^e`, the one rounding to nearest even, conversions, comparisons, reciprocals. Every function works on
element codes (naturals below `2 ^ width`) and answers the result code with the FPFLAGS bits it sets. -/
namespace Sys2Proof.Machine

/-- Element types (02 R46, 03 R69). -/
inductive EType
  | b1 | i4 | i8 | i16 | i32 | e4m3 | e5m2 | f16 | bf16 | f32 | tq64
  deriving DecidableEq, Repr

/-- The etype codes of R46; 0xB–0xF are reserved. -/
def EType.ofCode : Nat → Option EType
  | 0 => some .b1 | 1 => some .i4 | 2 => some .i8 | 3 => some .i16 | 4 => some .i32
  | 5 => some .e4m3 | 6 => some .e5m2 | 7 => some .f16 | 8 => some .bf16 | 9 => some .f32
  | 10 => some .tq64 | _ => none

/-- Width of one element (R69); a B1 element is one bit. -/
def EType.width : EType → Nat
  | .b1 => 1 | .i4 => 4 | .i8 => 8 | .i16 => 16 | .i32 => 32
  | .e4m3 => 8 | .e5m2 => 8 | .f16 => 16 | .bf16 => 16 | .f32 => 32 | .tq64 => 64

/-- Lane width of a vector operation (R46, R47): B1 works on 64-bit lanes, I4 on 8-bit lanes. -/
def EType.laneWidth : EType → Nat
  | .b1 => 64 | .i4 => 8 | t => t.width

/-- The class "int" of R47. -/
def EType.isInt : EType → Bool
  | .i8 | .i16 | .i32 | .tq64 => true
  | _ => false

/-- The class "float" of R47. -/
def EType.isFloat : EType → Bool
  | .f16 | .bf16 | .f32 => true
  | _ => false

/-- A float format of any width (R70). -/
def EType.isAnyFloat : EType → Bool
  | .e4m3 | .e5m2 | .f16 | .bf16 | .f32 => true
  | _ => false

/-- Number of fraction bits (R69). -/
def EType.mbits : EType → Nat
  | .e4m3 => 3 | .e5m2 => 2 | .f16 => 10 | .bf16 => 7 | .f32 => 23 | _ => 0

/-- Exponent bias (R70). -/
def EType.bias : EType → Nat
  | .e4m3 => 7 | .e5m2 => 15 | .f16 => 15 | .bf16 => 127 | .f32 => 127 | _ => 0

/-- Code of the largest finite value (R70). -/
def EType.maxFinite : EType → Nat
  | .e4m3 => 0x7E | .e5m2 => 0x7B | .f16 => 0x7BFF | .bf16 => 0x7F7F | .f32 => 0x7F7FFFFF | _ => 0

/-- What an overflow delivers (R76): E4M3 has no infinity and gives 448. -/
def EType.overflowCode : EType → Nat
  | .e4m3 => 0x7E | .e5m2 => 0x7C | .f16 => 0x7C00 | .bf16 => 0x7F80 | .f32 => 0x7F800000 | _ => 0

/-- The canonical NaN (R70, R75). -/
def EType.canonNaN : EType → Nat
  | .e4m3 => 0x7F | .e5m2 => 0x7E | .f16 => 0x7E00 | .bf16 => 0x7FC0 | .f32 => 0x7FC00000 | _ => 0

/-- FPFLAGS bits (R30, R77). -/
abbrev FpFlags := BitVec 5
/-- No flag. -/
def fpNone : FpFlags := 0
/-- invalid [4]. -/
def fpInvalid : FpFlags := 0x10
/-- overflow [3]. -/
def fpOverflow : FpFlags := 0x08
/-- underflow [2]. -/
def fpUnderflow : FpFlags := 0x04
/-- inexact [1]. -/
def fpInexact : FpFlags := 0x02
/-- saturated [0]. -/
def fpSaturated : FpFlags := 0x01

/-- The exact value of a float code: a NaN, an infinity, or `± m · 2^e`. -/
inductive FVal
  | nan
  | inf (neg : Bool)
  | fin (neg : Bool) (m : Nat) (e : Int)
  deriving DecidableEq, Repr

/-- The value of a code (R69, R70). Subnormals keep their exact value (R74). -/
def fdecode (t : EType) (c : Nat) : FVal :=
  let mb := t.mbits
  let w := t.width
  let neg := bitOf c (w - 1)
  let e := bitsOf c (w - 2) mb
  let f := c % 2 ^ mb
  let eMax := 2 ^ (w - 1 - mb) - 1
  let normal := FVal.fin neg (2 ^ mb + f) ((e : Int) - t.bias - mb)
  if e = 0 then .fin neg f (1 - (t.bias : Int) - mb)
  else if e = eMax then
    if t = .e4m3 then (if f = 7 then .nan else normal)
    else if f = 0 then .inf neg else .nan
  else normal

/-- `m · 2^e` rounded to nearest even to `p` significant bits, but to no finer than `2^qmin`: the rounded
significand, its exponent, and whether anything was lost. -/
def roundSig (p : Nat) (qmin : Int) (m : Nat) (e : Int) : Nat × Int × Bool :=
  let len : Int := (Nat.log2 m : Nat) + 1
  let q := max (e + len - p) qmin
  if q ≤ e then (m * 2 ^ (e - q).toNat, q, false)
  else
    let sh := (q - e).toNat
    let lo := m % 2 ^ sh
    let hi := m / 2 ^ sh
    let up := decide (2 * lo > 2 ^ sh) || (decide (2 * lo = 2 ^ sh) && decide (hi % 2 = 1))
    (if up then hi + 1 else hi, q, decide (lo ≠ 0))

/-- The code of a rounded significand `m · 2^q` that the format can hold. -/
def packMag (t : EType) (m : Nat) (q : Int) : Nat :=
  if m < 2 ^ t.mbits then m
  else
    let l := Nat.log2 m
    let biased := (q + l + t.bias).toNat
    biased * 2 ^ t.mbits + (m * 2 ^ t.mbits / 2 ^ l - 2 ^ t.mbits)

/-- The sign bit of a format. -/
def signBit (t : EType) (neg : Bool) : Nat := if neg then 2 ^ (t.width - 1) else 0

/-- A value delivered in a format: rounded to nearest even, with the flags of R76 and R77. `lost` says that the
value handed in was already inexact. -/
def fencode (t : EType) (lost : Bool) : FVal → Nat × FpFlags
  | .nan => (t.canonNaN, fpNone)
  | .inf neg =>
    if t = .e4m3 then (signBit t neg + t.overflowCode, fpOverflow ||| fpInexact)
    else (signBit t neg + t.overflowCode, fpNone)
  | .fin neg m e =>
    if m = 0 then (signBit t neg, if lost then fpInexact else fpNone)
    else
      let qmin : Int := 1 - (t.bias : Int) - t.mbits
      let r := roundSig (t.mbits + 1) qmin m e
      let mag := packMag t r.1 r.2.1
      let inx := r.2.2 || lost
      if mag > t.maxFinite then (signBit t neg + t.overflowCode, fpOverflow ||| fpInexact)
      else
        let tiny := decide (e + (Nat.log2 m : Nat) < 1 - (t.bias : Int))
        (signBit t neg + mag,
          (if inx then fpInexact else fpNone) ||| (if tiny && inx then fpUnderflow else fpNone))

/-- Exact sum; a zero sum of unlike signs is +0. -/
def fAddV : FVal → FVal → FVal
  | .nan, _ => .nan
  | _, .nan => .nan
  | .inf a, .inf b => if a = b then .inf a else .nan
  | .inf a, _ => .inf a
  | _, .inf b => .inf b
  | .fin a ma ea, .fin b mb eb =>
    let e := min ea eb
    let x : Int := (if a then -1 else 1) * (ma * 2 ^ (ea - e).toNat : Nat)
    let y : Int := (if b then -1 else 1) * (mb * 2 ^ (eb - e).toNat : Nat)
    let z := x + y
    if z = 0 then .fin (a && b) 0 e else .fin (decide (z < 0)) z.natAbs e

/-- Exact product. -/
def fMulV : FVal → FVal → FVal
  | .nan, _ => .nan
  | _, .nan => .nan
  | .inf a, .inf b => .inf (a != b)
  | .inf a, .fin b m _ => if m = 0 then .nan else .inf (a != b)
  | .fin a m _, .inf b => if m = 0 then .nan else .inf (a != b)
  | .fin a ma ea, .fin b mb eb => .fin (a != b) (ma * mb) (ea + eb)

/-- The negated value. -/
def fNegV : FVal → FVal
  | .nan => .nan
  | .inf a => .inf (!a)
  | .fin a m e => .fin (!a) m e

/-- Is the value a NaN. -/
def FVal.isNaN : FVal → Bool
  | .nan => true
  | _ => false

/-- Deliver an exact result; invalid when a NaN came of inputs that hold none (R77). -/
def fdeliver (t : EType) (anyNaN : Bool) (v : FVal) : Nat × FpFlags :=
  match v with
  | .nan => (t.canonNaN, if anyNaN then fpNone else fpInvalid)
  | v => fencode t false v

/-- Sum of two codes, rounded once. -/
def fadd (t : EType) (a b : Nat) : Nat × FpFlags :=
  let x := fdecode t a
  let y := fdecode t b
  fdeliver t (x.isNaN || y.isNaN) (fAddV x y)

/-- Difference of two codes, rounded once. -/
def fsub (t : EType) (a b : Nat) : Nat × FpFlags :=
  let x := fdecode t a
  let y := fdecode t b
  fdeliver t (x.isNaN || y.isNaN) (fAddV x (fNegV y))

/-- Product of two codes of format `t` delivered in format `u`, rounded once. -/
def fmulTo (t u : EType) (a b : Nat) : Nat × FpFlags :=
  let x := fdecode t a
  let y := fdecode t b
  fdeliver u (x.isNaN || y.isNaN) (fMulV x y)

/-- `a × b + c` with one rounding. -/
def ffma (t : EType) (a b c : Nat) : Nat × FpFlags :=
  let x := fdecode t a
  let y := fdecode t b
  let z := fdecode t c
  fdeliver t (x.isNaN || y.isNaN || z.isNaN) (fAddV (fMulV x y) z)

/-- `x < y` on the extended reals; false with a NaN (R79). -/
def fltV : FVal → FVal → Bool
  | .nan, _ => false
  | _, .nan => false
  | .inf a, .inf b => a && !b
  | .inf a, _ => a
  | _, .inf b => !b
  | .fin a ma ea, .fin b mb eb =>
    let e := min ea eb
    let x : Int := (if a then -1 else 1) * (ma * 2 ^ (ea - e).toNat : Nat)
    let y : Int := (if b then -1 else 1) * (mb * 2 ^ (eb - e).toNat : Nat)
    decide (x < y)

/-- `x = y`; false with a NaN, −0 equals +0 (R79). -/
def feqV (x y : FVal) : Bool := !x.isNaN && !y.isNaN && !fltV x y && !fltV y x

/-- The sign of a value. -/
def FVal.neg : FVal → Bool
  | .nan => false
  | .inf a => a
  | .fin a _ _ => a

/-- VMIN and VMAX on float codes (R79): one NaN gives the other operand, two give the canonical NaN, and −0 lies
below +0. -/
def fminmax (t : EType) (isMax : Bool) (a b : Nat) : Nat :=
  let x := fdecode t a
  let y := fdecode t b
  if x.isNaN && y.isNaN then t.canonNaN
  else if x.isNaN then b
  else if y.isNaN then a
  else
    let aLess := fltV x y || (feqV x y && x.neg && !y.neg)
    if aLess != isMax then a else b

/-- VABS of a float code (R75, R79). -/
def fabs (t : EType) (a : Nat) : Nat :=
  if (fdecode t a).isNaN then t.canonNaN else a % 2 ^ (t.width - 1)

/-- `m · 2^e` with a sticky bit where a remainder was lost. -/
def withSticky (m : Nat) (e : Int) (lost : Bool) : Nat × Int := (2 * m + b2n lost, e - 1)

/-- Round an exact (or sticky) magnitude to `k` significant bits and encode it (R80). -/
def fencodeAt (t : EType) (k : Nat) (neg : Bool) (m : Nat) (e : Int) (lost : Bool) : Nat × FpFlags :=
  let s := withSticky m e lost
  let len : Int := (Nat.log2 s.1 : Nat) + 1
  let r := roundSig k (s.2 + len - k) s.1 s.2
  let out := fencode t r.2.2 (.fin neg r.1 r.2.1)
  let tiny := decide (s.2 + len - 1 < 1 - (t.bias : Int))
  let inx := decide (out.2 &&& fpInexact ≠ 0)
  (out.1, out.2 ||| (if tiny && inx then fpUnderflow else fpNone))

/-- VRCP (R80). -/
def frcp (t : EType) (a : Nat) : Nat × FpFlags :=
  match fdecode t a with
  | .nan => (t.canonNaN, fpNone)
  | .inf neg => (signBit t neg, fpNone)
  | .fin neg m e =>
    if m = 0 then (signBit t neg + t.overflowCode, fpOverflow)
    else
      let k := min 13 (t.mbits + 1)
      let n := Nat.log2 m + k + 4
      fencodeAt t k neg (2 ^ n / m) (-e - n) (decide (2 ^ n % m ≠ 0))

/-- VRSQ (R80). -/
def frsq (t : EType) (a : Nat) : Nat × FpFlags :=
  match fdecode t a with
  | .nan => (t.canonNaN, fpNone)
  | .inf neg => if neg then (t.canonNaN, fpInvalid) else (0, fpNone)
  | .fin neg m e =>
    if m = 0 then (signBit t neg + t.overflowCode, fpOverflow)
    else if neg then (t.canonNaN, fpInvalid)
    else
      let k := min 13 (t.mbits + 1)
      let m' := if e % 2 = 0 then m else 2 * m
      let e' := if e % 2 = 0 then e else e - 1
      let n := Nat.log2 m' + k + 4
      let r := isqrt (2 ^ (2 * n) / m')
      fencodeAt t k false r (-(e' / 2) - n) (decide (r * r * m' ≠ 2 ^ (2 * n)))

/-- An exact integer narrowed to `w` bits: it wraps, or saturates with `sat` and sets the flag (R78). -/
def narrow (w : Nat) (sat : Bool) (x : Int) : Nat × FpFlags :=
  let hi : Int := (2 ^ (w - 1) : Nat) - 1
  let lo : Int := -((2 ^ (w - 1) : Nat) : Int)
  if sat && decide (x > hi) then (wrapTo w hi, fpSaturated)
  else if sat && decide (x < lo) then (wrapTo w lo, fpSaturated)
  else (wrapTo w x, fpNone)

/-- A float value converted to a `w`-bit integer after scaling by `2^s` (R73, R78, R82 letters Q and T). -/
def fToInt (w : Nat) (sat : Bool) (s : Int) : FVal → Nat × FpFlags
  | .nan => (0, fpInvalid)
  | .inf neg =>
    (if neg then 2 ^ (w - 1) else 2 ^ (w - 1) - 1, fpInvalid)
  | .fin neg m e =>
    let e' := e + s
    let r : Int × Bool :=
      if e' ≥ 0 then ((m * 2 ^ e'.toNat : Nat), false)
      else (divRne m (2 ^ (-e').toNat : Nat), decide (m % 2 ^ (-e').toNat ≠ 0))
    let n := narrow w sat (if neg then -r.1 else r.1)
    (n.1, n.2 ||| (if r.2 then fpInexact else fpNone))

/-- An integer as a float value scaled by `2^s`. -/
def intV (x : Int) (s : Int) : FVal := .fin (decide (x < 0)) x.natAbs s

/-- The letters of R82; `none` marks a pair VCVT refuses (R81). -/
inductive CvtRule
  | exact | round | narrowing | toInt | toTq | pack | unpack
  deriving DecidableEq, Repr

/-- The table of R81. -/
def cvtRule : EType → EType → Option CvtRule
  | .b1, .b1 => none
  | .b1, .tq64 => none
  | .b1, _ => some .unpack
  | .tq64, .f32 => some .round
  | .tq64, _ => none
  | .f32, .tq64 => some .toTq
  | _, .tq64 => none
  | _, .b1 => some .pack
  | .i4, .i4 => none
  | .i4, _ => some .exact
  | .i8, .i4 => some .narrowing
  | .i8, .i8 => none
  | .i8, .e4m3 => some .round
  | .i8, .e5m2 => some .round
  | .i8, _ => some .exact
  | .i16, .i4 => some .narrowing
  | .i16, .i8 => some .narrowing
  | .i16, .i16 => none
  | .i16, .i32 => some .exact
  | .i16, .f32 => some .exact
  | .i16, _ => some .round
  | .i32, .i32 => none
  | .i32, .i4 => some .narrowing
  | .i32, .i8 => some .narrowing
  | .i32, .i16 => some .narrowing
  | .i32, _ => some .round
  | .e4m3, .e4m3 => none
  | .e4m3, .e5m2 => some .round
  | .e5m2, .e5m2 => none
  | .e5m2, .e4m3 => some .round
  | .f16, .f16 => none
  | .f16, .e4m3 => some .round
  | .f16, .e5m2 => some .round
  | .f16, .bf16 => some .round
  | .bf16, .bf16 => none
  | .bf16, .e4m3 => some .round
  | .bf16, .e5m2 => some .round
  | .bf16, .f16 => some .round
  | .f32, .f32 => none
  | .f32, .i4 => some .toInt
  | .f32, .i8 => some .toInt
  | .f32, .i16 => some .toInt
  | .f32, .i32 => some .toInt
  | .f32, _ => some .round
  | _, .i4 => some .toInt
  | _, .i8 => some .toInt
  | _, .i16 => some .toInt
  | _, .i32 => some .toInt
  | _, _ => some .exact

/-- The value of any element as a float value; TQ64 counts 2^−28 m (R72). -/
def elemV (t : EType) (c : Nat) : FVal :=
  if t.isAnyFloat then fdecode t c
  else if t = .tq64 then intV (sext 64 c) (-28)
  else intV (sext t.width c) 0

/-- Is an element greater than zero (letter P). -/
def elemPos (t : EType) (c : Nat) : Bool := fltV (.fin false 0 0) (elemV t c)

/-- One VCVT element conversion under its letter (R82). -/
def cvtElem (r : CvtRule) (src dst : EType) (sat : Bool) (c : Nat) : Nat × FpFlags :=
  match r with
  | .pack => (b2n (elemPos src c), fpNone)
  | .unpack =>
    if dst.isAnyFloat then ((fencode dst false (intV (if c = 1 then 1 else -1) 0)).1, fpNone)
    else (wrapTo dst.width (if c = 1 then 1 else -1), fpNone)
  | .narrowing => narrow dst.width sat (sext src.width c)
  | .toInt => fToInt dst.width sat 0 (elemV src c)
  | .toTq => fToInt 64 sat 28 (elemV src c)
  | .exact =>
    if dst.isAnyFloat then fencode dst false (elemV src c)
    else (wrapTo dst.width (sext src.width c), fpNone)
  | .round => fencode dst false (elemV src c)

/-- F32 arithmetic under short names, for the fixed-function blocks. -/
def f32Add (a b : Nat) : Nat := (fadd .f32 a b).1
/-- F32 product. -/
def f32Mul (a b : Nat) : Nat := (fmulTo .f32 .f32 a b).1
/-- F32 difference. -/
def f32Sub (a b : Nat) : Nat := (fsub .f32 a b).1
/-- F32 less-than. -/
def f32Lt (a b : Nat) : Bool := fltV (fdecode .f32 a) (fdecode .f32 b)
/-- F32 equality of values. -/
def f32Eq (a b : Nat) : Bool := feqV (fdecode .f32 a) (fdecode .f32 b)
/-- An exact value `x · 2^s` rounded to F32. -/
def f32OfScaled (x : Int) (s : Int) : Nat := (fencode .f32 false (intV x s)).1
/-- An integer rounded to F32. -/
def f32OfInt (x : Int) : Nat := f32OfScaled x 0
/-- The rational `a / b` rounded to F32 (`b` positive). -/
def f32OfRat (a : Int) (b : Nat) : Nat :=
  if a = 0 ∨ b = 0 then 0
  else
    let n := a.natAbs
    let sh := Nat.log2 b + 30
    let q := n * 2 ^ sh / b
    let s := withSticky q (-(sh : Int)) (decide (n * 2 ^ sh % b ≠ 0))
    (fencode .f32 false (.fin (decide (a < 0)) s.1 s.2)).1
/-- The square root of a non-negative integer scaled by `2^s` with `s` even, rounded to F32. -/
def f32SqrtOf (n : Nat) : Nat :=
  if n = 0 then 0
  else
    let r := isqrt (n * 2 ^ 60)
    let s := withSticky r (-30) (decide (r * r ≠ n * 2 ^ 60))
    (fencode .f32 false (.fin false s.1 s.2)).1
/-- F32 square root of a code (correctly rounded); of a negative value the canonical NaN. -/
def f32Sqrt (a : Nat) : Nat :=
  match fdecode .f32 a with
  | .nan => EType.canonNaN .f32
  | .inf neg => if neg then EType.canonNaN .f32 else a
  | .fin neg m e =>
    if m = 0 then a
    else if neg then EType.canonNaN .f32
    else
      let m' := if e % 2 = 0 then m else 2 * m
      let e' := if e % 2 = 0 then e else e - 1
      let r := isqrt (m' * 2 ^ 60)
      let s := withSticky r (e' / 2 - 30) (decide (r * r ≠ m' * 2 ^ 60))
      (fencode .f32 false (.fin false s.1 s.2)).1
/-- F32 quotient, correctly rounded; division by zero gives an infinity or the canonical NaN as IEEE 754 does. -/
def f32Div (a b : Nat) : Nat :=
  match fdecode .f32 a, fdecode .f32 b with
  | .nan, _ => EType.canonNaN .f32
  | _, .nan => EType.canonNaN .f32
  | .inf _, .inf _ => EType.canonNaN .f32
  | .inf x, .fin y _ _ => signBit .f32 (x != y) + EType.overflowCode .f32
  | .fin x _ _, .inf y => signBit .f32 (x != y)
  | .fin x m e, .fin y n f =>
    if n = 0 then (if m = 0 then EType.canonNaN .f32 else signBit .f32 (x != y) + EType.overflowCode .f32)
    else if m = 0 then signBit .f32 (x != y)
    else
      let sh := Nat.log2 n + 30
      let q := m * 2 ^ sh / n
      let s := withSticky q (e - f - sh) (decide (m * 2 ^ sh % n ≠ 0))
      (fencode .f32 false (.fin (x != y) s.1 s.2)).1

end Sys2Proof.Machine
end

