-- ==== Sys2Proof/Machine/Vector.lean ====
section
/-! DEFINITION. The vector and tensor engines as functions of their operands (spec 02 R46–R50, 03 R71–R89): lanes,
predicates, the V-slot operations, TMMA, TFILL. No state is touched here (R90). -/
namespace Sys2Proof.Machine

/-- V-slot operations, R47. -/
inductive VOp
  | vnop | vadd | vsub | vmul | vmin | vmax | vand | vor | vxor | vshl | vshr | vsra | vshla | vabs | vpopc | vfma
  | vaddi | vandi | vshli | vshri | vmovi | vlane | vins | vext | vbcst | vcmpeq | vcmplt | vcmple | vsel | vcvt
  | vtqrel | vrmin | vrmax | vradd | vperm | vmft | vmtt | vrcp | vrsq
  deriving DecidableEq, Repr

/-- Element `n` of width `w` of a vector register (R71). -/
def elem (w n : Nat) (v : VReg) : Nat := (v.toNat / 2 ^ (w * n)) % 2 ^ w

/-- A register built of `cnt` elements of width `w`, element `n` being `f n`. -/
def packElems (w : Nat) (f : Nat → Nat) : Nat → Nat
  | 0 => 0
  | n + 1 => packElems w f n + (f n % 2 ^ w) * 2 ^ (w * n)

/-- A vector register from its elements of width `w`. -/
def vecOf (w : Nat) (f : Nat → Nat) : VReg := BitVec.ofNat 512 (packElems w f (512 / w))

/-- Results with flags, element by element; disabled elements keep `old` and raise no flag (R35). -/
def vecMap (w : Nat) (en : Nat → Bool) (old : VReg) (f : Nat → Nat × FpFlags) : VReg × FpFlags :=
  (vecOf w (fun n => if en n then (f n).1 else elem w n old),
    (upTo (512 / w)).foldl (fun acc n => if en n then acc ||| (f n).2 else acc) fpNone)

/-- Lane `l` of an element `w` bits wide is enabled by predicate bit `l × w / 8` (R35). -/
def laneOn (pred : Word64) (w l : Nat) : Bool := bitOf pred.toNat (l * w / 8)

/-- A two-operand lane operation with no flags. -/
def pureLane (x : Nat) : Nat × FpFlags := (x, fpNone)

/-- Combine two lanes by sum, minimum or maximum, as VADD, VMIN and VMAX do (R47, R78, R79). -/
inductive Comb
  | sum | minimum | maximum
  deriving DecidableEq, Repr

/-- One pairwise combination. -/
def combine (k : Comb) (t : EType) (sat : Bool) (a b : Nat) : Nat × FpFlags :=
  if t.isFloat then
    match k with
    | .sum => fadd t a b
    | .minimum => pureLane (fminmax t false a b)
    | .maximum => pureLane (fminmax t true a b)
  else
    match k with
    | .sum => narrow t.width sat (sext t.width a + sext t.width b)
    | .minimum => pureLane (if sext t.width a < sext t.width b then a else b)
    | .maximum => pureLane (if sext t.width a < sext t.width b then b else a)

/-- One level of the pairwise tree over a list (R50, R88). -/
def pairUp (f : Nat → Nat → Nat × FpFlags) : List Nat → List Nat × FpFlags
  | a :: b :: r =>
    let x := f a b
    let y := pairUp f r
    (x.1 :: y.1, x.2 ||| y.2)
  | l => (l, fpNone)

/-- The pairwise tree of `k` levels over a list. -/
def treeReduce (f : Nat → Nat → Nat × FpFlags) : Nat → List Nat → List Nat × FpFlags
  | 0, l => (l, fpNone)
  | k + 1, l =>
    let x := pairUp f l
    let y := treeReduce f k x.1
    (y.1, x.2 ||| y.2)

/-- The reductions of R88: each group of `2^k` lanes into its lowest lane, other lanes 0; only enabled lanes are written, and the flags
are those of every step of a group whose lowest lane is enabled (R35; log entry 86). -/
def vreduce (c : Comb) (t : EType) (sat : Bool) (k : Nat) (en : Nat → Bool) (old va : VReg) : VReg × FpFlags :=
  let w := t.laneWidth
  let group := fun (n : Nat) => treeReduce (combine c t sat) k ((upTo (min (2 ^ k) (512 / w))).map fun j => elem w (n + j) va)
  let lane := fun (n : Nat) => if n % 2 ^ k = 0 then (nthD 0 (group n).1 0, (group n).2) else pureLane 0
  vecMap w en old lane

/-- Number of ones among the low `n` bits. -/
def popcount : Nat → Nat → Nat
  | 0, _ => 0
  | n + 1, x => x % 2 + popcount n (x / 2)

/-- Operands of a vector operation as read at issue. -/
structure VSrc where
  old : VReg      -- vd before
  a : VReg
  b : VReg
  c : VReg        -- v[vc]
  g : Word64      -- g[vc]
  sel : Word64    -- p[vc[2:0]]
  pold : Word64   -- p[vd[2:0]] before
  pred : Word64   -- the slot's predicate with the invert bit applied
  deriving DecidableEq, Repr

/-- The etype classes of R47: is `op` defined for the type. -/
def vtypeOk (op : VOp) (t : EType) : Bool :=
  match op with
  | .vnop | .vand | .vor | .vxor | .vsel | .vperm | .vcvt => true
  | .vadd | .vsub | .vmin | .vmax | .vabs | .vcmpeq | .vcmplt | .vcmple | .vrmin | .vrmax | .vradd =>
    t.isInt || t.isFloat
  | .vmul => t == .i8 || t == .i16 || t == .i32 || t.isFloat
  | .vfma | .vrcp | .vrsq => t.isFloat
  | .vpopc => t == .b1 || t == .i8 || t == .i16 || t == .i32
  | .vtqrel => t == .tq64
  | .vmft | .vmtt => t == .i32 || t == .f32
  | _ => t.isInt

/-- Part-number and field rules of VCVT (R81, R83). -/
def cvtOk (src : EType) (imm : Nat) : Bool :=
  match EType.ofCode (imm % 16) with
  | none => false
  | some dst =>
    let p := bitsOf imm 8 4
    let ws := src.width
    let wd := dst.width
    (cvtRule src dst).isSome && decide (imm / 512 % 2 ^ 15 = 0) &&
      decide (p < max ws wd / min ws wd)

/-- VCVT (R81–R84). -/
def vcvt (src dst : EType) (r : CvtRule) (p : Nat) (sat : Bool) (s : VSrc) : VReg × FpFlags :=
  let ws := src.width
  let wd := dst.width
  let ns := 512 / ws
  let nd := 512 / wd
  let conv := fun (i : Nat) => cvtElem r src dst sat (elem ws i s.a)
  let on := fun (i : Nat) => bitOf s.pred.toNat (i * ws / 8)
  if ws ≤ wd then
    vecMap wd (fun n => on (p * nd + n)) s.old (fun n => conv (p * nd + n))
  else
    vecMap wd (fun n => decide (p * ns ≤ n) && decide (n < p * ns + ns) && on (n - p * ns)) s.old
      (fun n => conv (n - p * ns))

/-- Lane shift amounts of VSHL, VSHR, VSRA: the lane of vb modulo the lane width (R78). -/
def shiftAmt (w x : Nat) : Nat := x % w

/-- VSHL under R78: exact left shift, then wrapped or saturated. -/
def shlLane (w : Nat) (sat : Bool) (a n : Nat) : Nat × FpFlags := narrow w sat (sext w a * (2 ^ n : Nat))

/-- The vector result of an operation that writes v[vd] (R47, R78–R85, R88). -/
def vexec (op : VOp) (t : EType) (sat : Bool) (imm : Nat) (s : VSrc) : VReg × FpFlags :=
  let w := t.laneWidth
  let en := laneOn s.pred w
  let A := fun n => elem w n s.a
  let B := fun n => elem w n s.b
  let C := fun n => elem w n s.c
  let i24 := sext 24 imm
  let i6 := imm % 64
  let run := vecMap w en s.old
  match op with
  | .vadd => run fun n => if t.isFloat then fadd t (A n) (B n) else narrow w sat (sext w (A n) + sext w (B n))
  | .vsub => run fun n => if t.isFloat then fsub t (A n) (B n) else narrow w sat (sext w (A n) - sext w (B n))
  | .vmul => run fun n => if t.isFloat then fmulTo t t (A n) (B n) else narrow w sat (sext w (A n) * sext w (B n))
  | .vmin => run fun n => combine .minimum t sat (A n) (B n)
  | .vmax => run fun n => combine .maximum t sat (A n) (B n)
  | .vand => run fun n => pureLane (A n &&& B n)
  | .vor => run fun n => pureLane (A n ||| B n)
  | .vxor => run fun n => pureLane (A n ^^^ B n)
  | .vshl => run fun n => shlLane w sat (A n) (shiftAmt w (B n))
  | .vshr => run fun n => pureLane (A n >>> shiftAmt w (B n))
  | .vsra => run fun n => pureLane (wrapTo w (sext w (A n) / (2 ^ shiftAmt w (B n) : Nat)))
  | .vshla => run fun n => narrow w sat (sext w (A n) * (2 ^ i6 : Nat) + sext w (B n))
  | .vabs => run fun n => if t.isFloat then pureLane (fabs t (A n)) else narrow w sat (sext w (A n)).natAbs
  | .vpopc => run fun n => pureLane (popcount w (A n))
  | .vfma => run fun n => ffma t (A n) (B n) (C n)
  | .vaddi => run fun n => narrow w sat (sext w (A n) + i24)
  | .vandi => run fun n => pureLane (A n &&& wrapTo w i24)
  | .vshli => run fun n => shlLane w sat (A n) i6
  | .vshri => run fun n => pureLane (A n >>> i6)
  | .vmovi => run fun _ => narrow w sat i24
  | .vlane => run fun n => pureLane n
  | .vins => run fun n => pureLane (if n = i6 then s.g.toNat % 2 ^ w else elem w n s.old)
  | .vbcst => run fun _ => pureLane (s.g.toNat % 2 ^ w)
  | .vsel => run fun n => pureLane (if laneOn s.sel w n then A n else B n)
  | .vperm => run fun n => pureLane (A (B n % (512 / w)))
  | .vrmin => vreduce .minimum t sat (imm % 8) en s.old s.a
  | .vrmax => vreduce .maximum t sat (imm % 8) en s.old s.a
  | .vradd => vreduce .sum t sat (imm % 8) en s.old s.a
  | .vrcp => run fun n => frcp t (A n)
  | .vrsq => run fun n => frsq t (A n)
  | .vtqrel =>
    vecMap 32 (fun n => decide (8 ≤ n) || bitOf s.pred.toNat (8 * n)) s.old fun n =>
      if 8 ≤ n then pureLane 0
      else fencode .f32 false (intV (sext 64 (elem 64 n s.a) - sext 64 s.g.toNat) (-28))
  | .vcvt =>
    match EType.ofCode (imm % 16) with
    | none => (s.old, fpNone)
    | some d =>
      match cvtRule t d with
      | none => (s.old, fpNone)
      | some r => vcvt t d r (bitsOf imm 8 4) sat s
  | _ => (s.old, fpNone)

/-- The lane comparison of VCMPEQ, VCMPLT, VCMPLE (R47, R79). -/
def vcmpLane (op : VOp) (t : EType) (a b : Nat) : Bool :=
  if t.isFloat then
    let x := fdecode t a
    let y := fdecode t b
    match op with
    | .vcmpeq => feqV x y
    | .vcmplt => fltV x y
    | _ => fltV x y || feqV x y
  else
    let x := sext t.width a
    let y := sext t.width b
    match op with
    | .vcmpeq => decide (x = y)
    | .vcmplt => decide (x < y)
    | _ => decide (x ≤ y)

/-- Is any element of a V-slot operation enabled (R35, R84): without one the slot has no effect. VINS and VEXT name one lane. -/
def vEnabled (op : VOp) (t : EType) (imm : Nat) (pred : Word64) : Bool :=
  let w := t.laneWidth
  let any := (upTo (512 / w)).any (laneOn pred w)
  match op with
  | .vnop => false
  | .vins | .vext => if imm % 64 < 512 / w then laneOn pred w (imm % 64) else any
  | .vcvt =>
    match EType.ofCode (imm % 16) with
    | none => false
    | some d =>
      let ns := 512 / t.width
      let nd := 512 / d.width
      let p := bitsOf imm 8 4
      if t.width ≤ d.width then (upTo nd).any fun n => bitOf pred.toNat ((p * nd + n) * t.width / 8)
      else (upTo ns).any fun n => bitOf pred.toNat (n * t.width / 8)
  | _ => any

/-- The predicate a comparison writes: the bits of lane `l` take the result, those of disabled lanes stay. -/
def vcmp (op : VOp) (t : EType) (s : VSrc) : Word64 :=
  let w := t.laneWidth
  BitVec.ofNat 64 (packElems 1 (fun bit =>
    let l := bit * 8 / w
    if laneOn s.pred w l then b2n (vcmpLane op t (elem w l s.a) (elem w l s.b)) else b2n (bitOf s.pold.toNat bit)) 64)

/-- Number of lanes of a type. -/
def laneCount (t : EType) : Nat := 512 / t.laneWidth

/-- VEXT: a lane sign-extended to 64 bits. -/
def vext (t : EType) (imm : Nat) (s : VSrc) : Word64 :=
  BitVec.ofInt 64 (sext t.laneWidth (elem t.laneWidth (imm % 64) s.a))

/-- Is an operation done by the float datapath or by VCVT with a float or TQ64 side: the latency and interval
classes of R51 and R89. -/
def vlatency (op : VOp) (t : EType) : Nat :=
  match op with
  | .vrcp | .vrsq => 6
  | .vfma | .vcvt | .vtqrel | .vrmin | .vrmax | .vradd | .vperm => 4
  | .vadd | .vsub | .vmul | .vmin | .vmax | .vabs => if t.isFloat then 4 else 2
  | _ => 2

/-- Issue interval of the V slot (R89). -/
def vinterval (op : VOp) (t : EType) (imm : Nat) : Nat :=
  match op with
  | .vtqrel => 2
  | .vcvt =>
    match EType.ofCode (imm % 16) with
    | some d => if t.isAnyFloat || d.isAnyFloat || t == .tq64 || d == .tq64 then 2 else 1
    | none => 1
  | .vrcp | .vrsq | .vfma => 4
  | .vadd | .vsub | .vmul | .vmin | .vmax | .vcmpeq | .vcmplt | .vcmple | .vrmin | .vrmax | .vradd =>
    if t.isFloat then 4 else 1
  | _ => 1

/-- A tensor accumulator: 64 elements of 32 bits, row by row (R29). -/
abbrev Acc := List Nat

/-- Number of products summed per element, `K` of R49; 0 for a type TMMA refuses. -/
def tmmaK : EType → Nat
  | .i8 | .e4m3 | .e5m2 => 8
  | .i4 => 16
  | .f16 | .bf16 => 4
  | .f32 => 2
  | .b1 => 1
  | _ => 0

/-- Issue interval of TMMA (R49). -/
def tmmaInterval : EType → Nat
  | .f16 | .bf16 => 16
  | .f32 => 32
  | _ => 8

/-- Levels of the pairwise tree over `K` products. -/
def log2K (t : EType) : Nat := Nat.log2 (tmmaK t)

/-- One element of TMMA (R49, R50, R86, R87). -/
def tmmaElem (t : EType) (sat : Bool) (acc : Nat) (va vb : VReg) (i j : Nat) : Nat × FpFlags :=
  if t = .b1 then
    narrow 32 sat (sext 32 acc + popcount 64 (elem 64 i va ^^^ elem 64 j vb))
  else
    let k := tmmaK t
    let w := 64 / k
    let aE := fun x => elem w (i * k + x) va
    let bE := fun x => elem w (x * 8 + j) vb
    if t.isAnyFloat then
      let prods := (upTo k).map fun x => fmulTo t .f32 (aE x) (bE x)
      let pf := prods.foldl (fun f p => f ||| p.2) fpNone
      let tree := treeReduce (fadd .f32) (log2K t) (prods.map (fun p => p.1))
      let r := fadd .f32 acc (nthD 0 tree.1 0)
      (r.1, pf ||| tree.2 ||| r.2)
    else
      let sum := ((upTo k).map fun x => sext w (aE x) * sext w (bE x)).foldl (· + ·) 0
      narrow 32 sat (sext 32 acc + sum)

/-- TMMA over the 64 elements of the accumulator; `clear` starts from zero (acc 0b01 of R48). -/
def tmma (t : EType) (sat clear : Bool) (old : Acc) (va vb : VReg) : Acc × FpFlags :=
  let r := (upTo 64).map fun e => tmmaElem t sat (if clear then 0 else nthD 0 old e) va vb (e / 8) (e % 8)
  (r.map (fun x => x.1), r.foldl (fun f x => f ||| x.2) fpNone)

end Sys2Proof.Machine
end

