-- ==== Sys2Proof/Machine/Bundle.lean ====
section
/-! DEFINITION. Bundles (spec 02 R31–R40, R46–R48): the operations of each slot, decoding of the raw slot words, the
decode-level checks that raise ILLEGAL_OPCODE and ILLEGAL_BUNDLE, sources and destinations. -/
namespace Sys2Proof.Machine

/-- Scalar operations (R37). -/
inductive SOp
  | nop | add | sub | and | or | xor | shl | shr | sra | mul | mulh | slt | sltu | popc | min | max
  | addi | andi | ori | xori | shli | shri | srai | lui | lih | peq | plt | pltu | pand | por | pnot
  | br | jr | call | callr | loop | mfc | mtc | fence | eret | trap | endA
  | undef
  deriving DecidableEq, Repr

/-- Load/store operations (R40). -/
inductive MOp
  | nop | ld | ldu | st | vld | vst | vlds | towin | towout | twait | tstat
  | undef
  deriving DecidableEq, Repr

/-- T-slot operations (R48, R56). -/
inductive TOp
  | nop | tmma | tfill | bsig | bset | bwait | barr | barv | bpoll
  | undef
  deriving DecidableEq, Repr

/-- A decoded scalar slot. -/
structure SIns where
  op : SOp
  a : SArgs
  deriving DecidableEq, Repr
/-- A decoded load/store slot. -/
structure MIns where
  op : MOp
  a : MArgs
  deriving DecidableEq, Repr
/-- A decoded vector slot; `none` is an opcode R47 does not list. -/
structure VIns where
  op : Option VOp
  a : VArgs
  deriving DecidableEq, Repr
/-- A decoded tensor or buoy slot: both field layouts, of which the operation reads one. -/
structure TIns where
  op : TOp
  t : TArgs
  b : BArgs
  deriving DecidableEq, Repr
/-- A decoded bundle. -/
structure Bundle where
  s0 : SIns
  s1 : SIns
  m : MIns
  v : VIns
  t : TIns
  deriving DecidableEq, Repr

/-- The scalar opcode table (R37). -/
def sopOf : Nat → SOp
  | 0x00 => .nop | 0x01 => .add | 0x02 => .sub | 0x03 => .and | 0x04 => .or | 0x05 => .xor
  | 0x06 => .shl | 0x07 => .shr | 0x08 => .sra | 0x09 => .mul | 0x0A => .mulh
  | 0x0B => .slt | 0x0C => .sltu | 0x0D => .popc | 0x0E => .min | 0x0F => .max
  | 0x10 => .addi | 0x11 => .andi | 0x12 => .ori | 0x13 => .xori
  | 0x14 => .shli | 0x15 => .shri | 0x16 => .srai | 0x17 => .lui | 0x18 => .lih
  | 0x19 => .peq | 0x1A => .plt | 0x1B => .pltu | 0x1C => .pand | 0x1D => .por | 0x1E => .pnot
  | 0x20 => .br | 0x21 => .jr | 0x22 => .call | 0x23 => .callr | 0x24 => .loop
  | 0x28 => .mfc | 0x29 => .mtc | 0x2A => .fence | 0x2B => .eret | 0x2C => .trap | 0x2D => .endA
  | _ => .undef

/-- The load/store opcode table (R40). -/
def mopOf : Nat → MOp
  | 0x00 => .nop | 0x01 => .ld | 0x02 => .ldu | 0x03 => .st | 0x04 => .vld | 0x05 => .vst | 0x06 => .vlds
  | 0x08 => .towin | 0x09 => .towout | 0x0A => .twait | 0x0B => .tstat
  | _ => .undef

/-- The vector opcode table (R47). -/
def vopOf : Nat → Option VOp
  | 0x00 => some .vnop | 0x01 => some .vadd | 0x02 => some .vsub | 0x03 => some .vmul | 0x04 => some .vmin
  | 0x05 => some .vmax | 0x06 => some .vand | 0x07 => some .vor | 0x08 => some .vxor | 0x09 => some .vshl
  | 0x0A => some .vshr | 0x0B => some .vsra | 0x0C => some .vshla | 0x0D => some .vabs | 0x0E => some .vpopc
  | 0x0F => some .vfma | 0x10 => some .vaddi | 0x11 => some .vandi | 0x12 => some .vshli | 0x13 => some .vshri
  | 0x14 => some .vmovi | 0x15 => some .vlane | 0x16 => some .vins | 0x17 => some .vext | 0x18 => some .vbcst
  | 0x20 => some .vcmpeq | 0x21 => some .vcmplt | 0x22 => some .vcmple | 0x24 => some .vsel
  | 0x28 => some .vcvt | 0x29 => some .vtqrel | 0x30 => some .vrmin | 0x31 => some .vrmax | 0x32 => some .vradd
  | 0x38 => some .vperm | 0x3C => some .vmft | 0x3D => some .vmtt | 0x3E => some .vrcp | 0x3F => some .vrsq
  | _ => none

/-- The T-slot opcode tables (R48, R56). -/
def topOf : Nat → TOp
  | 0x00 => .nop | 0x01 => .tmma | 0x02 => .tfill
  | 0x10 => .bsig | 0x11 => .bset | 0x12 => .bwait | 0x13 => .barr | 0x14 => .barv | 0x15 => .bpoll
  | _ => .undef

/-- Slot S0 from its word (R36). -/
def decodeS0 (w : BitVec 48) : SIns :=
  ⟨sopOf (w.extractLsb' 40 8).toNat,
   ⟨.s0, w.extractLsb' 36 4, w.extractLsb' 31 5, w.extractLsb' 26 5, w.extractLsb' 21 5, w.extractLsb' 0 21⟩⟩

/-- Slot S1 from its word (R36). -/
def decodeS1 (w : BitVec 40) : SIns :=
  ⟨sopOf (w.extractLsb' 33 7).toNat,
   ⟨.s1, w.extractLsb' 29 4, w.extractLsb' 24 5, w.extractLsb' 19 5, w.extractLsb' 14 5,
    (w.extractLsb' 0 14).setWidth 21⟩⟩

/-- Slot M from its word (R39). -/
def decodeM (w : BitVec 48) : MIns :=
  ⟨mopOf (w.extractLsb' 42 6).toNat,
   ⟨w.extractLsb' 38 4, w.extractLsb' 33 5, w.extractLsb' 28 5, w.extractLsb' 23 5, w.extractLsb' 20 3,
    w.extractLsb' 0 20⟩⟩

/-- Slot V from its word (R46). -/
def decodeV (w : BitVec 64) : VIns :=
  ⟨vopOf (w.extractLsb' 56 8).toNat,
   ⟨w.extractLsb' 52 4, w.extractLsb' 47 5, w.extractLsb' 42 5, w.extractLsb' 37 5, w.extractLsb' 32 5,
    w.extractLsb' 28 4, w.getLsbD 27, w.extractLsb' 24 3, w.extractLsb' 0 24⟩⟩

/-- Slot T from its word, in both field layouts (R48). -/
def decodeT (w : BitVec 56) : TIns :=
  ⟨topOf (w.extractLsb' 50 6).toNat,
   ⟨w.extractLsb' 46 4, w.extractLsb' 43 3, w.extractLsb' 38 5, w.extractLsb' 33 5, w.extractLsb' 29 4,
    w.getLsbD 28, w.extractLsb' 26 2, w.extractLsb' 0 26⟩,
   ⟨w.extractLsb' 46 4, w.extractLsb' 41 5, w.extractLsb' 36 5, w.extractLsb' 31 5, w.extractLsb' 15 16,
    w.extractLsb' 0 15⟩⟩

/-- The five slots of a bundle. -/
def decodeRest (r : Rest) : Bundle :=
  ⟨decodeS0 r.s0, decodeS1 r.s1, decodeM r.m, decodeV r.v, decodeT r.t⟩

/-- The five slot words of a 256-bit bundle (R31). -/
def splitBundle (w : BitVec 256) : Rest :=
  ⟨w.extractLsb' 208 48, w.extractLsb' 168 40, w.extractLsb' 120 48, w.extractLsb' 56 64, w.extractLsb' 0 56⟩

/-- Operations that stand in slot S0 only (R37). -/
def SOp.s0Only : SOp → Bool
  | .mul | .mulh | .lui | .lih | .peq | .plt | .pltu | .pand | .por | .pnot | .br | .jr | .call | .callr | .loop
  | .mfc | .mtc | .fence | .eret | .trap | .endA => true
  | _ => false

/-- Operations that write a predicate (R37). -/
def SOp.writesPred : SOp → Bool
  | .peq | .plt | .pltu | .pand | .por | .pnot => true
  | _ => false

/-- Operations that write g[rd]. -/
def SOp.writesG : SOp → Bool
  | .add | .sub | .and | .or | .xor | .shl | .shr | .sra | .mul | .mulh | .slt | .sltu | .popc | .min | .max
  | .addi | .andi | .ori | .xori | .shli | .shri | .srai | .lui | .lih | .call | .callr | .mfc => true
  | _ => false

/-- Operations that read g[rs1]. -/
def SOp.readsG1 : SOp → Bool
  | .add | .sub | .and | .or | .xor | .shl | .shr | .sra | .mul | .mulh | .slt | .sltu | .popc | .min | .max
  | .addi | .andi | .ori | .xori | .shli | .shri | .srai | .lih | .peq | .plt | .pltu | .jr | .callr | .loop
  | .mtc => true
  | _ => false

/-- Operations that read g[rs2]. -/
def SOp.readsG2 : SOp → Bool
  | .add | .sub | .and | .or | .xor | .shl | .shr | .sra | .mul | .mulh | .slt | .sltu | .min | .max
  | .peq | .plt | .pltu => true
  | _ => false

/-- The top two bits of a 5-bit field that names one of eight registers are 0. -/
def lowReg (r : BitVec 5) : Bool := decide (r.toNat < 8)

/-- Is a scalar slot legal: listed for its slot, reserved fields zero (R37). -/
def SIns.legal (i : SIns) : Bool :=
  decide (i.op ≠ .undef) && (i.a.slot == .s0 || !i.op.s0Only) &&
  (!i.op.writesPred || lowReg i.a.rd) &&
  (match i.op with
    | .pand | .por => lowReg i.a.rs1 && lowReg i.a.rs2
    | .pnot => lowReg i.a.rs1
    | .fence => decide (i.a.imm.toNat % 4 ≠ 0)
    | _ => true)

/-- Is a load/store slot legal: listed, size 0–3 for the sized accesses (R39), rd 0 for a tow (R44). -/
def MIns.legal (i : MIns) : Bool :=
  match i.op with
  | .undef => false
  | .ld | .ldu | .st | .vlds => decide (i.a.size.toNat < 4)
  | .towin | .towout => decide (i.a.rd = 0)
  | _ => true

/-- Is a vector slot legal: listed, reserved field zero, etype in the operation's class (R46, R47, R81, R83, R88). -/
def VIns.legal (i : VIns) : Bool :=
  match i.op with
  | none => false
  | some op =>
    decide (i.a.rsv = 0) &&
    (match EType.ofCode i.a.etype.toNat with
      | none => false
      | some t =>
        vtypeOk op t &&
        (match op with
          | .vcvt => cvtOk t i.a.imm.toNat
          | .vrmin | .vrmax | .vradd => decide (2 ^ (i.a.imm.toNat % 8) ≤ laneCount t)
          | .vmft => lowReg i.a.va
          | .vmtt => lowReg i.a.vd
          | _ => true))

/-- Is a T slot legal (R48, R49). -/
def TIns.legal (i : TIns) : Bool :=
  match i.op with
  | .undef => false
  | .nop | .tfill => true
  | .tmma =>
    decide (i.t.acc.toNat < 2) &&
    (match EType.ofCode i.t.etype.toNat with
      | none => false
      | some t => decide (tmmaK t ≠ 0))
  | _ => decide (i.b.rsv = 0)

/-- The first slot of a bundle that raises ILLEGAL_OPCODE: 0 S0, 1 S1, 2 M, 3 V, 4 T (R60). -/
def Bundle.illegal (b : Bundle) : Option Nat :=
  if !b.s0.legal then some 0
  else if !b.s1.legal then some 1
  else if !b.m.legal then some 2
  else if !b.v.legal then some 3
  else if !b.t.legal then some 4
  else none

/-- Register keys: g 0–31, v 32–63, t 64–71, p 72–79, c 80–95, loop state 96. -/
def keyG (n : Nat) : Nat := n
/-- Key of v[n]. -/
def keyV (n : Nat) : Nat := 32 + n
/-- Key of t[n]. -/
def keyT (n : Nat) : Nat := 64 + n
/-- Key of p[n]. -/
def keyP (n : Nat) : Nat := 72 + n
/-- Key of c[n]. -/
def keyC (n : Nat) : Nat := 80 + n
/-- Key of the loop state written by LOOP. -/
def keyLoop : Nat := 96

/-- Destinations of a scalar slot (R33). -/
def SIns.dests (i : SIns) : List Nat :=
  if i.op.writesG then [keyG i.a.rd.toNat]
  else if i.op.writesPred then [keyP i.a.rd.toNat]
  else match i.op with
    | .mtc => [keyC (i.a.imm.toNat % 16)]
    | .loop => [keyLoop]
    | _ => []

/-- Destinations of the M slot (R33). -/
def MIns.dests (i : MIns) : List Nat :=
  match i.op with
  | .ld | .ldu | .twait | .tstat => [keyG i.a.rd.toNat]
  | .vld | .vlds => [keyV i.a.rd.toNat]
  | _ => []

/-- Destinations of the V slot (R33); VEXT names a g register. -/
def VIns.dests (i : VIns) : List Nat :=
  match i.op with
  | none => []
  | some .vnop => []
  | some .vext => [keyG i.a.vd.toNat]
  | some .vcmpeq | some .vcmplt | some .vcmple => [keyP (i.a.vd.toNat % 8)]
  | some .vmtt => [keyT (i.a.vd.toNat % 8)]
  | some _ => [keyV i.a.vd.toNat]

/-- Destinations of the T slot (R33). -/
def TIns.dests (i : TIns) : List Nat :=
  match i.op with
  | .tmma | .tfill => [keyT i.t.td.toNat]
  | .bwait | .barr | .barv | .bpoll => [keyG i.b.rd.toNat]
  | _ => []

/-- The register of a predicate field. -/
def predKey (p : BitVec 4) : Nat := keyP (p.toNat % 8)

/-- Sources of a scalar slot. -/
def SIns.srcs (i : SIns) : List Nat :=
  (if i.op.readsG1 then [keyG i.a.rs1.toNat] else []) ++ (if i.op.readsG2 then [keyG i.a.rs2.toNat] else []) ++
  (match i.op with
    | .pand | .por => [keyP i.a.rs1.toNat, keyP i.a.rs2.toNat]
    | .pnot => [keyP i.a.rs1.toNat]
    | _ => [])

/-- Sources of the M slot. -/
def MIns.srcs (i : MIns) : List Nat :=
  match i.op with
  | .nop | .undef | .twait | .tstat => []
  | .st => [keyG i.a.base.toNat, keyG i.a.index.toNat, keyG i.a.rd.toNat]
  | .vst => [keyG i.a.base.toNat, keyG i.a.index.toNat, keyV i.a.rd.toNat]
  | _ => [keyG i.a.base.toNat, keyG i.a.index.toNat]

/-- Sources of the V slot. -/
def VIns.srcs (i : VIns) : List Nat :=
  let a := keyV i.a.va.toNat
  let b := keyV i.a.vb.toNat
  match i.op with
  | none | some .vnop | some .vmovi | some .vlane => []
  | some .vfma => [a, b, keyV i.a.vc.toNat]
  | some .vabs | some .vpopc | some .vaddi | some .vandi | some .vshli | some .vshri | some .vext | some .vcvt
  | some .vrmin | some .vrmax | some .vradd | some .vrcp | some .vrsq | some .vmtt => [a]
  | some .vins | some .vbcst => [keyG i.a.vc.toNat]
  | some .vtqrel => [a, keyG i.a.vc.toNat]
  | some .vsel => [a, b, keyP (i.a.vc.toNat % 8)]
  | some .vmft => [keyT (i.a.va.toNat % 8)]
  | some _ => [a, b]

/-- Sources of the T slot. -/
def TIns.srcs (i : TIns) : List Nat :=
  match i.op with
  | .tmma => [keyV i.t.va.toNat, keyV i.t.vb.toNat]
  | .bsig | .bset | .bwait => [keyG i.b.rb.toNat, keyG i.b.rs.toNat]
  | .barr | .barv | .bpoll => [keyG i.b.rb.toNat]
  | _ => []

/-- Destinations that count for R33: g0 and p0 do not. -/
def counted (l : List Nat) : List Nat := l.filter fun k => decide (k ≠ keyG 0) && decide (k ≠ keyP 0)

/-- The destinations slot by slot. -/
def Bundle.destLists (b : Bundle) : List (List Nat) :=
  [counted b.s0.dests, counted b.s1.dests, counted b.m.dests, counted b.v.dests, counted b.t.dests]

/-- Do two lists share a register. -/
def meets (a b : List Nat) : Bool := a.any fun k => b.contains k

/-- The first slot whose destination another slot names too (R33, R60). -/
def firstConflict : Nat → List Nat → List (List Nat) → Option Nat
  | _, _, [] => none
  | n, seen, d :: r =>
    if meets d seen || r.any (meets d) then some n else firstConflict (n + 1) (d ++ seen) r

/-- The ILLEGAL_BUNDLE check of R33. -/
def Bundle.conflict (b : Bundle) : Option Nat := firstConflict 0 [] b.destLists

/-- Does the slot do anything: its opcode is not the NOP. -/
def SIns.active (i : SIns) : Bool := decide (i.op ≠ .nop)

end Sys2Proof.Machine
end

