-- ==== Sys2Proof/Machine/StateIslet.lean ====
section
/-! DEFINITION. The state of one Islet and of one buoy (spec 02). Plain data. -/
namespace Sys2Proof.Machine

/-- A load in the decoupled load queue (R43): its place in program order, the operation and size that give the value,
the register it writes, its address. -/
structure QLoad where
  seq : Nat
  op : MOp
  size : Nat
  reg : Nat
  addr : Nat
  loc : Nat := addr           -- where the access goes (04 R103)
  since : Nat := 0           -- TB3 of its issue (05 R142)
  err : Nat := 0             -- how the load of its UNLOADED object failed (05 R135)
  paths : List Nat := []     -- credits held (05 R140)
  deriving DecidableEq, Repr

/-- A posted store in the store buffer (R43). -/
structure QStore where
  seq : Nat
  addr : Nat
  loc : Nat := addr
  since : Nat := 0
  err : Nat := 0
  bytes : List Byte
  paths : List Nat := []
  sent : Bool := false       -- handed to the Causeway as a WR_REQ
  deriving DecidableEq, Repr

/-- A tow slot (R44): what is in flight, and the error a finished tow left. -/
structure Tow where
  busy : Bool := false
  isIn : Bool := false
  far : Nat := 0
  off : Nat := 0
  len : Nat := 0
  loc : Nat := 0
  since : Nat := 0
  lost : Nat := 0            -- how the load of its UNLOADED object failed
  err : Bool := false
  code : Nat := 0
  paths : List Nat := []
  deriving DecidableEq, Repr

/-- A deferred error (R62): the access's place in program order, its address, its completion code. -/
structure DErr where
  seq : Nat
  addr : Nat
  code : Nat
  deriving DecidableEq, Repr

/-- A bundle that could not end (R32): what it is, the cycle its wait began, the buoy it waits on, a BARR whose
arrival is counted with the phase it waits out (R56), and the value a finished buoy wait returned. -/
structure Held where
  bundle : Bundle
  since : Nat
  buoy : Option Nat := none
  barrPhase : Option Nat := none
  done : Option Word64 := none
  credWait : Bool := false   -- its wait for a credit is counted (05 R140)
  deriving DecidableEq, Repr

/-- What the Pilot has an Islet run (R63): unit slot, layer, rank. -/
structure Assign where
  slot : Nat
  layer : Nat
  rank : Nat
  deriving DecidableEq, Repr

/-- One Islet (R29, R30, R43, R44, R61–R68). The sliver store lies in the device memory at the Islet's window. -/
structure Islet where
  g : SMap Word64 := []          -- g1–g31
  v : SMap VReg := []            -- v0–v31
  t : SMap Acc := []             -- t0–t7, 64 elements each
  p : SMap Word64 := []          -- p1–p7
  c : SMap Word64 := []          -- c2–c11 and c15 as written
  inHandler : Bool := false      -- c1 [0]
  loopActive : Bool := false     -- c1 [1]
  pc : Nat := 0
  cycle : Nat := 0               -- c12 and the next cycle in which a bundle may issue
  retired : Nat := 0             -- c13
  ready : SMap Nat := []         -- cycle from which a register's last write is readable (R51)
  vNext : Nat := 0               -- next cycle the V slot accepts an operation (R89)
  tNext : Nat := 0               -- next cycle the T slot accepts a TMMA (R49)
  idle : Bool := true            -- no assignment
  halted : Bool := false
  haltCause : Nat := 0
  haltReq : Bool := false        -- a halt request waiting for a counted BARR (R68)
  stepping : Bool := false       -- DBG_STEP in progress
  passBp : Bool := false         -- the next bundle does not halt again at its breakpoint
  dbg : SMap Word32 := []        -- DBG_BP, DBG_WP, DBG_WP_CTL, DBG_VSEL by window offset
  loads : List QLoad := []
  stores : List QStore := []
  tows : SMap Tow := []
  poison : SMap DErr := []       -- poisoned registers (R62)
  storeErrs : List DErr := []    -- errors of posted stores not yet raised (R62)
  seq : Nat := 0                 -- accesses issued
  held : Option Held := none
  icache : List (Nat × BitVec 256) := []   -- bundles fetched since the last invalidation (R64)
  fetching : Option Nat := none  -- a fetch waits for an UNLOADED object, or how its load failed (05 R135)
  icacheBad : List Nat := []     -- lines of the cache that are uncorrectable (R60)
  lastOwner : Option Nat := none -- owner of the last assignment (R63)
  gated : Bool := true           -- its clock-gating group is gated (16 R429)
  assign : Option Assign := none
  began : Nat := 0               -- stamp of the start of its assignment (05 R132)
  deriving DecidableEq, Repr

/-- An Islet that nothing has touched. -/
def Islet.init : Islet := {}

/-- One buoy (R55): its register fields and the Islets that wait on it. -/
structure Buoy where
  value : Nat := 0
  arrivals : Nat := 0
  participants : Nat := 0
  owner : Nat := 0xFF
  barrier : Bool := false
  lastSignaller : Nat := 0xFFF
  waiting : List Nat := []
  deriving DecidableEq, Repr

/-- A buoy at reset. -/
def Buoy.init : Buoy := {}

end Sys2Proof.Machine
end

