-- ==== Sys2Proof/Machine/StateNet.lean ====
section
/-! DEFINITION. The state of placement (spec 05: objects, moves, pools, credits) and of the network units (spec 04). -/
namespace Sys2Proof.Machine

/-- Residency of an allocated object (05 R133); FREE is the absence of a record. -/
inductive Residency
  | unloaded | resident | movingUp | movingDown
  deriving DecidableEq, Repr

/-- The page that a relocation empties (05 R145): tier, instance, page; the 64-byte unit of an uncorrectable error; the
corrected errors counted. -/
structure Reloc where
  tier : Nat
  inst : Nat
  page : Nat
  unit : Option Nat
  errors : Nat
  deriving DecidableEq, Repr

/-- A Ferry move in flight, or a promotion that waits (05 R135, R136, R143): where it goes, the pages moved so far, stores
applied at the destination already, the class it runs at, the requester's owner code, whether it waited for a write-back or
goes to a lower tier than was asked for, the decision it belongs to, the credits its part in transfer holds and since when
(05 R140, R142), the page that a relocation empties. -/
structure Move where
  toTier : Nat
  toInst : Nat
  moved : Nat := 0               -- pages marked as moved
  stores : Nat := 0
  cls : Nat
  requester : Nat
  afterWb : Bool := false
  lower : Bool := false
  dec : Option Nat := none
  paths : List Nat := []         -- credits held; empty while it waits for them
  since : Nat := 0
  rebal : Bool := false          -- a rebalancing move, which the budget of R150 bounds
  reloc : Option Reloc := none
  deriving DecidableEq, Repr

/-- A requester that waits for a credit (05 R140, R141): an Islet's bundle, the move of an object, an access from outside by its
number. -/
inductive Waiter
  | islet (i : Nat)
  | move (id : Nat)
  | outside (k : Nat)
  deriving DecidableEq, Repr

/-- A decision of the Pilot (05 R154) whose record is written when its last transfer ends. -/
structure Decision where
  epoch : Nat
  kind : Nat
  reason : Nat
  cls : Nat
  owner : Nat
  src : Nat := 0                 -- the from byte
  dst : Nat := 0                 -- the to byte
  objects : Nat := 0
  bytes : Nat := 0
  tag : Nat := 0
  isletsBefore : Nat := 0
  isletsAfter : Nat := 0
  atollsBefore : Nat := 0
  atollsAfter : Nat := 0
  redirected : Nat := 0
  metric : Nat := 0
  target : Nat := 0
  reassigned : Nat := 0          -- Islets whose layers change
  since : Nat := 0               -- TB3 ns of the decision
  left : Nat := 0                -- transfers still in flight
  result : Nat := 0
  always : Bool := false         -- its record is written whatever it moved
  deriving DecidableEq, Repr

/-- The residency record and the tag fields of an allocated object (01 R24, 05 R133). The generation stands in
`Place.gens`. -/
structure Obj where
  size : Nat
  cls : Nat
  confCls : Nat          -- the class the configuration gave; R113 may raise `cls` to 0 for a transfer
  hint : Nat
  owner : Nat
  late : Bool := false
  pinned : Bool := false
  immutable : Bool := false
  recurrent : Bool := false
  err : Bool := false
  system : Bool := false
  res : Residency
  tier : Nat
  inst : Nat
  home : Nat := 0               -- stack of the home copy of an immutable object (R134)
  touch : Nat := 0              -- last-touch epoch
  moved : Option Nat := none    -- epoch of the last move
  freePending : Bool := false
  promo : Option Move := none   -- a promotion requested and not yet started
  move : Option Move := none
  retire : List Reloc := []     -- pages of it that are to retire once its move has ended
  retried : Bool := false       -- a transfer failed and is retried from the payload partition (04 R122)
  want : Option (Nat × Nat) := none  -- tier and slot of a request made while it was UNLOADED (04 R112)
  digest : List Byte := []      -- of a weight or unit payload
  deriving DecidableEq, Repr

/-- Placement state (05). -/
structure Place where
  objs : SMap (Option Obj) := []
  gens : SMap Nat := []          -- generation of every object id (01 R24)
  used : SMap Bool := []         -- ids that have been allocated
  freed : List (Nat × Nat × Nat) := []   -- first page, pages and stamp of every freeing (R132)
  stamp : Nat := 1
  poison : SMap Bool := []       -- poisoned 64-byte units by address / 64 (R146)
  retired : List (Nat × Nat × Nat) := []   -- tier, instance, page (R145, R147)
  ce : SMap Nat := []            -- corrected errors per page (R145)
  t4Failing : Bool := false      -- R143
  credits : SMap Nat := []       -- credits in use per path (R140)
  waiters : List Waiter := []    -- requesters that wait for a credit, oldest first (R141)
  granted : List (Nat × List Nat) := []  -- accesses from outside whose wait has ended, with the credits they hold
  outside : SMap (Nat × List Nat) := []  -- class and paths of the accesses from outside that wait
  nextOut : Nat := 0
  hold : SMap (Nat × Nat × Nat) := []    -- tier, instance and pages kept for a pin whose object is to come (R137, R152)
  resting : List Nat := []       -- halted Islets that may be assigned again from the next re-plan (04 R122)
  decs : SMap (Option Decision) := []
  nextDec : Nat := 0
  migBytes : SMap Nat := []      -- bytes of rebalancing moves started this epoch, per Isle (R150)
  touches : SMap Nat := []       -- accesses this epoch, per tier hint (R148)
  hits : SMap Nat := []          -- of those, served at or above the hint
  bytes : SMap Nat := []         -- bytes moved, read and written this epoch, per path
  waits : SMap Nat := []         -- credit waits this epoch, per path
  seen : SMap (Nat × Nat) := []  -- cycles and bundles of every Islet at the last boundary
  busy : SMap (Nat × Nat) := []  -- busy and stall cycles of the last epoch, per Atoll and, from 64, per unit
  deriving DecidableEq, Repr

/-- A layer record (04 R95). -/
structure Layer where
  entry : Nat
  weightFirst : Nat
  weightN : Nat
  isletsMin : Nat
  isletsMax : Nat
  work : Nat
  argOff : Nat
  groupAtolls : Nat
  flags : Nat
  deriving DecidableEq, Repr

/-- A weight-table entry (04 R96). -/
structure Weight where
  digest : List Byte
  size : Nat
  etype : Nat
  hint : Nat
  obj : Nat := 0          -- the object that holds it once loaded
  deriving DecidableEq, Repr

/-- An input or output entry (04 R98). -/
structure IoEnt where
  isOut : Bool
  source : Nat
  copies : Nat
  param : Nat
  bytes : Nat
  desc : Nat
  hint : Nat
  obj : Nat := 0          -- first of an output's objects
  deriving DecidableEq, Repr

/-- A network unit as loaded (04 R94–R98) with the hints of its network-table entry (R97) and what the load
allocated for it. -/
structure NUnit where
  digest : List Byte
  kind : Nat
  trigKind : Nat
  trigArg : Nat
  deadlineUs : Nat
  layers : List Layer
  weights : List Weight
  ios : List IoEnt
  buoyTab : List (Bool × Nat)    -- barrier mode, participants
  stateCount : Nat
  arenaBytes : Nat
  stateBytes : Nat
  progOff : Nat
  progBytes : Nat
  evec : Nat                     -- handler address of the program header (02 R63)
  cls : Nat
  affinity : Nat
  elastic : Bool
  deadlineHdr : Nat := 0         -- the header's deadline_us (R94)
  maxStretch : Nat
  progObj : Nat := 0
  arenaObj : Nat := 0
  stateObj : Nat := 0            -- copy 0 of the state tensors; copy 1 follows
  buoyBase : Nat := 0
  ringObj : Nat := 0
  isle : Nat := 0                -- the Pilot's choice: Isle of the unit's objects,
  tiers : List Nat := []         -- planned tier of every weight
  deriving DecidableEq, Repr

/-- An invocation in flight (04 R108–R114). -/
structure Invocation where
  seq : Nat
  tRel : Nat                     -- release, TB0 ns
  tRel3 : Nat                    -- release, TB3 ns
  epoch : Nat
  layer : Nat
  running : List Nat             -- Islets of the layer that have not ended
  widest : Nat
  waitSince : Option Nat         -- first Islet's wait on the layer's weight buoy, TB3 ns
  waitUs : Nat
  weightWait : Bool
  partialIn : Bool
  stateReset : Bool
  skipped : Bool
  mask : Nat
  inputs : List (List Word64)    -- tags bound to each input entry, in order (R98, R99)
  aux : List Nat
  fault : Option (Nat × Nat)     -- ECAUSE and Islet of a halt
  nextPlan : List (List Nat)     -- Islets of the layers to come, as the Pilot's plan assigned them
  retried : List Nat := []       -- weight objects whose transfer was retried once (R122)
  ev : Nat := 0                  -- the keyframe id or result index of an EVENT release
  signalled : List Nat := []     -- weight-table indices of the layer that the weight buoy counts (R111)
  weightFail : Bool := false     -- a weight transfer and its retry ended in error (R122)
  starts : Option Nat := none    -- a layer that waits for its Islets
  deriving DecidableEq, Repr

/-- A release that waits (R108): its instants, its camera mask, its inputs. -/
structure Release where
  tRel : Nat
  tRel3 : Nat
  epoch : Nat
  mask : Nat
  partialIn : Bool
  inputs : List (List Word64)
  aux : List Nat
  ev : Nat := 0
  deriving DecidableEq, Repr

/-- A camera frame as a release binds it (R98): port, frame_seq, t_exp0 in TB3 ns, the tags of its pyramid, features, tracks,
depth records and association object. -/
structure CamFrame where
  port : Nat
  seq : Nat
  t : Int
  tags : List Nat
  deriving DecidableEq, Repr

/-- Frames of one FSYNC_OUT pulse that a release of a CAMERA_FRAME unit gathers (R106, R107): pin and start of the pulse, TB3
of the first delivery. -/
structure CamSet where
  pulse : Option (Nat × Nat)
  since : Nat
  frames : List CamFrame
  deriving DecidableEq, Repr

/-- A unit slot (04). -/
structure NSlot where
  unit : Option NUnit := none
  next : Option (Option (List Byte × UnitPlan)) := none   -- network-table entry of what replaces a RETIRING unit (R123)
  count : Nat := 0
  stretch : Nat := 1
  inv : Option Invocation := none
  pend : Option Release := none
  skipped : Bool := false
  stateReset : Bool := false
  stateGen : Nat := 0
  committed : Nat := 0             -- which copy of the state tensors is committed (R103)
  fails : Nat := 0
  seq : Nat := 0
  times : List Nat := []           -- last 16 run times, µs (R120)
  camSets : List CamSet := []      -- frames delivered for releases that are not complete (R106, R107), oldest first
  camDone : Option (Nat × Nat) := none  -- pin and pulse of the latest release
  due : List Release := []         -- releases of triggers that have occurred, oldest first
  plan : List (List Nat) := []     -- Islets of each layer in the Pilot's latest plan
  deriving DecidableEq, Repr

end Sys2Proof.Machine
end

