-- ==== Sys2Proof/Machine/StateReef.lean ====
section
/-! DEFINITION. The state of the Reef engines (spec 11): the place index, its updates, the queries in flight. -/
namespace Sys2Proof.Machine

/-- A node record with its descriptor (R311, R312). An unlisted node is FREE. -/
structure Node where
  sketch : Nat := 0
  nbr : List (Nat × Nat) := []     -- neighbour id and edge generation, slots 0 to degree − 1
  gen : Nat := 0
  state : Nat := 0                 -- 0 FREE, 1 LIVE, 2 TOMBSTONE
  entry : Bool := false
  tileX : BitVec 32 := 0
  tileY : BitVec 32 := 0
  keyframe : Nat := 0
  sensor : Nat := 0
  tKf : Nat := 0
  desc : List Byte := []
  deriving DecidableEq, Repr

/-- The index at a version (R311–R315). -/
structure Index where
  nodes : SMap Node := []          -- by node id
  deriving DecidableEq, Repr

/-- An update whose INDEX_MAP records are not all accepted (R315): the index after it, the logical pages whose records the
map store has still to accept. -/
structure Update where
  after : Index
  pages : List Nat
  deriving DecidableEq, Repr

/-- A request to the updater (R317, R318). -/
inductive UpReq
  | insert (keyframe : Nat) (sketch : Nat) (desc : List Byte) (tileX tileY : BitVec 32) (sensor tKf : Nat)
  | delete (node : Nat)
  deriving DecidableEq, Repr

/-- A query record (R320). -/
structure Query where
  cookie : Nat
  beam : Nat
  hopLimit : Nat
  rerank : Nat
  k : Nat
  cls : Nat
  filterEn : Nat
  sensorMask : Nat
  region : List Int
  tMin : Nat
  tMax : Nat
  ageMin : Nat
  ageMax : Nat
  sketch : Nat
  desc : List Byte
  deriving DecidableEq, Repr

/-- Where a context stands. -/
inductive QPhase
  | walk
  | rerank
  deriving DecidableEq, Repr

/-- A search in progress (R323–R329): its queue holds distance, node, whether expanded. -/
structure Ctx where
  engine : Nat
  host : Option Nat := none        -- the bank of the PLACE_QUERY that sent it: 0 chain, 1 host; none for the solver
  q : Query
  index : Index                    -- the index at the version bound
  version : Nat
  tSubmit : Nat                    -- TB0
  since : Nat                      -- TB3
  phase : QPhase := .walk
  queue : List (Nat × Nat × Bool) := []
  visited : List (Nat × Bool) := []  -- with whether its record could be read
  hops : Nat := 0
  stale : Nat := 0
  reads : Nat := 0
  hopFlag : Bool := false
  readErr : Bool := false
  cur : Option Nat := none         -- the node being expanded
  cws : List Nat := []             -- codewords the context waits for: logical page × 4 + codeword
  badCws : List Nat := []          -- of those read, the unreadable ones
  list : List (Nat × Nat) := []    -- distance and node of the list to re-rank
  filtered : Nat := 0
  deriving DecidableEq, Repr

/-- The Reef engines and the updater. -/
structure ReefSt where
  newest : Index := {}             -- the updater's newest state
  visible : Index := {}            -- at the current version
  high : Nat := 0                  -- ids ever allocated lie below
  freeIds : List Nat := []         -- ascending
  updates : List Update := []      -- not yet visible, oldest first
  reqs : List UpReq := []
  slots : List (Nat × Nat) := []   -- rewritten pages in the rewrite buffer: logical page, PPA of the flash copy (0 before it has one)
  olds : List (Nat × List Nat) := []  -- replaced copies: the version that replaced them, their logical pages
  caches : SMap (List (Nat × Nat)) := []  -- codeword cache of each engine, newest first: codeword, version (log entry 60)
  fresh : List Nat := []           -- slots of solver results whose PLACE_RESULT event is due
  ctxs : List Ctx := []
  sweepBegan : List Nat := []      -- tombstones that stood when the present sweep began
  sweepBad : List Nat := []        -- node pages of the sweep that could not be read
  swept : List Nat := []           -- TB3 of the pages swept within the last second (R319)
  entryObj : Nat := 0
  bufferObj : Nat := 0
  ringObj : Nat := 0
  ringSeq : Nat := 0               -- results written to the solver result ring
  off : Bool := true               -- stopped by HALT
  shares : List Nat := []          -- the Pilot's steering shares; an engine not listed has share 1 (R327)
  deriving DecidableEq, Repr

end Sys2Proof.Machine
end

