-- ==== Sys2Proof/Machine/StateShore.lean ====
section
/-! DEFINITION. The state of Shore (spec 06): ports, frames, slots, tracks, pins, pairs, lidar streams, projections. -/
namespace Sys2Proof.Machine

/-- The product objects of a frame slot (R164, R166, R185, 08 R225), and whether a frame has used it. -/
structure SlotObjs where
  raw : Nat := 0
  pyr : Nat
  rows : Nat
  feats : Nat
  tracks : Nat
  depth : Nat
  assoc : Nat
  used : Bool := false
  deriving DecidableEq, Repr

/-- What a frame keeps of its port's configuration from its Frame Start on (R160, R164): the registers' fields. -/
structure FrameCfg where
  width : Nat
  height : Nat
  dtype : Nat
  vc : Nat
  raw : Bool
  slots : Nat
  period : Nat
  expoff : Int
  fsync : Nat
  feat : Nat
  trk : Nat
  deriving DecidableEq, Repr

/-- A frame in flight, or one that is delivered and waits for its record (R161, R165, R166). -/
structure Frame where
  seq : Nat
  start : Nat                    -- TB3 ns of its Frame Start
  cfg : FrameCfg
  slot : SlotObjs
  stamps : List Int := []        -- row times, TB3 ns
  rows : List (List Byte) := []  -- payloads of its rows
  crc : Bool := false
  bad : Bool := false
  shed : Bool := false           -- dropped whole by shedding or PFAIL
  gone : Bool := false           -- abandoned under R168
  pulse : Option Nat := none     -- start of the pulse it is attributed to
  deriving DecidableEq, Repr

/-- A frame as its tracker observed it (R179, R467, 07 R203): frame_seq, t_exp0, the pulse and the offset of the observation,
whether it was delivered (none while in flight). -/
structure FrameObs where
  seq : Nat
  start : Nat
  t : Int
  pulse : Option Nat
  o : Int
  fate : Option Bool := none
  slot : SlotObjs
  cfg : FrameCfg
  deriving DecidableEq, Repr

/-- A live track (R173): F32 position, frames tracked, the descriptor at its start, the pyramid level it started on. -/
structure Track where
  id : Nat
  x : Nat
  y : Nat
  age : Nat
  desc : Nat
  level : Nat := 0
  deriving DecidableEq, Repr

/-- A frame whose record is written (R166) and which later steps read. -/
structure DoneFrame where
  seq : Nat
  cfg : FrameCfg
  slot : SlotObjs
  stamps : List Int
  t : Int
  pulse : Option Nat
  crc : Bool := false
  recAt : Nat := 0               -- TB3 ns of the frame record
  rows : Nat := 0                -- records in its track list
  deriving DecidableEq, Repr

/-- A projection in progress (R184): the frame and the point records it gathered. -/
structure Proj where
  frame : DoneFrame
  points : List (List Byte)
  deriving DecidableEq, Repr

/-- A camera port beyond its registers. -/
structure SPort where
  en : Bool := false                  -- enabled at the last check
  sig : List Nat := []                -- the sizes that its slots are allocated for
  slots : List SlotObjs := []
  oldSlots : List SlotObjs := []      -- slots of an earlier configuration that frames may still fill
  nextSlot : Nat := 0
  ringObj : Nat := 0
  depthRing : Nat := 0
  frameSeq : Nat := 0
  recSeq : Nat := 0
  depthSeq : Nat := 0
  cur : Option Frame := none
  ended : List Frame := []            -- delivered, waiting for their records
  obs : List FrameObs := []           -- newest first
  tracks : List Track := []
  nextTrack : Nat := 1
  prev : Option DoneFrame := none     -- the latest frame tracked into
  shedStarts : Nat := 0               -- own Frame Starts since it began to shed
  lastStart : Option Nat := none
  toProject : List DoneFrame := []    -- recorded frames of a port in cam_mask
  proj : Option Proj := none
  windows : List (Int × Int) := []    -- windows of the frames whose projection has started
  toAssoc : List (DoneFrame × Nat × Nat × Nat) := []  -- frames whose association object is due: depth object, its tag, its records
  deriving DecidableEq, Repr

/-- A stereo pair beyond its registers. -/
structure SPair where
  maps : List Nat := []               -- map objects
  nextMap : Nat := 0
  mapBytes : Nat := 0
  buffer : Nat := 0
  ringObj : Nat := 0
  recSeq : Nat := 0
  waiting : List FrameObs := []       -- delivered reference frames without a stereo record, oldest first
  resume : Bool := false              -- matching resumes with the next reference frame
  mesh : List Byte := []              -- the calibration that the mesh is built from (R176)
  nextMesh : List (Nat × List Byte) := []  -- changed calibrations with the boundaries from which they apply, oldest first
  matched : List (Nat × Nat × Nat) := []  -- frame_seq of matched reference frames: map object, its level
  deriving DecidableEq, Repr

/-- An FSYNC_OUT pin (R163): pulse starts with the count at each, newest first. -/
structure SPin where
  on : Bool := false
  pulses : List (Nat × Nat) := []
  deriving DecidableEq, Repr

/-- A lidar stream (R183): its point ring, the next point number, the records in the ring. -/
structure SStream where
  ringObj : Nat := 0
  next : Nat := 0
  count : Nat := 0
  deriving DecidableEq, Repr

/-- Shore. -/
structure ShoreSt where
  ports : SMap SPort := []
  pairs : SMap SPair := []
  pins : SMap SPin := []
  streams : SMap SStream := []
  off : Bool := true                  -- Shore is off (16 R469)
  deriving DecidableEq, Repr

end Sys2Proof.Machine
end

