-- ==== Sys2Proof/Machine/StateTime.lean ====
section
/-! DEFINITION. The state of the time unit and of the conditioning chain (spec 07). -/
namespace Sys2Proof.Machine

/-- A segment of the conversion history (R195): its TB3 start, the values of TB0–TB2 there in units of 2^−48 ns (R190)
and their rates in units of 2^−16 ppb (R191). -/
structure Seg where
  start : Nat := 0
  v0 : Int := 0
  v1 : Int := 0
  v2 : Int := 0
  r0 : Int := 0
  r1 : Int := 0
  r2 : Int := 0
  deriving DecidableEq, Repr

/-- What a received Announce tells of a master (R198, R199): its priority vector in the order of the best-master
comparison, its grandmasterIdentity, the port it is heard on, its announced sync interval and its announce interval in ns, TB3 of the Announce. -/
structure GMaster where
  vector : List Nat
  gmId : Nat
  port : Nat
  syncNs : Nat
  annNs : Nat
  heardAt : Nat
  deriving DecidableEq, Repr

/-- A two-step Sync whose Follow_Up has not come (R199): port, sequenceId, source, ingress stamp and correction. -/
structure PendSync where
  port : Nat
  seqId : Nat
  src : Nat
  ingress : Int
  correction : Int
  deriving DecidableEq, Repr

/-- One of TB0–TB2 beyond what the segments and the TIME_TB registers hold. -/
structure Base where
  integral : Int := 0              -- the servo's integral, 2^−16 ppb (R197)
  srcOn : Bool := false            -- the servo source in force is not NONE
  heldLo : Option Word32 := none   -- the held RATE_LO word (R194)
  adjLo : Word32 := 0              -- the ADJ_LO word (R194)
  master : Option GMaster := none  -- the latest selected master
  lost : Bool := false             -- no master is selected now (R199)
  heard : List GMaster := []       -- best Announce of each port
  pendSync : Option PendSync := none
  lastSample : Nat := 0            -- TB3 of the last accepted sample
  deriving DecidableEq, Repr

/-- An entry of a transmit timestamp queue (R201). -/
structure TxStamp where
  seqId : Nat
  typ : Nat
  domain : Nat
  stamp : Int
  deriving DecidableEq, Repr

/-- A gPTP port (R199, R201): its transmit stamps, the sequenceId of its next Pdelay_Req, its Pdelay_Reqs since the latest answer. -/
structure GPort where
  txq : List TxStamp := []
  nextSeq : Nat := 0
  unanswered : Nat := 0
  deriving DecidableEq, Repr

/-- A sensor-domain tracker (R203–R205) beyond its TIME_TRK registers. -/
structure Tracker where
  state : Nat := 0                 -- 0 OFF, 1 ACQUIRING, 2 ALIGNED, 3 SKEWED
  run : Nat := 0
  o : Int := 0
  rate : Int := 0                  -- 2^−16 ppb
  sPrev : Option Int := none
  k : Nat := 0                     -- count of Frame Starts, edges or messages
  reanchor : Bool := false         -- the next observation re-anchors
  lastPulse : Option Nat := none   -- start of the pulse the previous frame was attributed to
  deriving DecidableEq, Repr

/-- The time unit. -/
structure TimeSt where
  seg : Seg := {}
  hist : List Seg := []            -- older segments, newest first
  bases : SMap Base := []          -- 0–2
  ports : SMap GPort := []         -- 0–3
  ppsLast : Option Nat := none     -- TB3 of the latest PPS edge
  ppsOpen : List Nat := []         -- stamps of the edges that wait for their label, oldest first
  labelled : List (Nat × Nat) := []  -- labelled PPS edges, newest first: label, stamp of the edge
  gnssDetect : Bool := true        -- GNSS_RX is detecting its baud rate (18 R458)
  gnssLast : Nat := 0              -- TB3 of the last valid sentence
  trackers : SMap Tracker := []    -- 0–23
  tb0Stepped : Bool := false       -- TB0 has stepped since the last pose record (R194)
  tb0StepAt : Option Nat := none   -- TB3 of the latest step of TB0 (06 R163)
  tb3Frac : Nat := 0               -- TB3's part of a ns, 2^−16 ns (R190, R192)
  sleepAt : Option (Nat × Int × Int × Int) := none  -- SLEEP entry: TB3 and the offsets of TB0–TB2, 2^−48 ns (R192)
  deriving DecidableEq, Repr

/-- One conditioning channel (R211–R214). -/
structure Chan where
  ranks : List Int := []           -- latest inputs, newest first, at most rank_w
  i1 : BitVec 64 := 0              -- CIC integrators
  i2 : BitVec 64 := 0
  i3 : BitVec 64 := 0
  c1 : BitVec 64 := 0              -- CIC comb delays
  c2 : BitVec 64 := 0
  c3 : BitVec 64 := 0
  phase : Nat := 0                 -- inputs since the last CIC output
  fir : List Nat := []             -- CIC outputs as F32, newest first
  blockN : Nat := 0                -- outputs in the current detector block
  blockMax : Nat := 0              -- F32
  blockSum : Nat := 0              -- F32
  env : Nat := 0                   -- F32
  peakArmed : Bool := true
  rmsArmed : Bool := true
  envArmed : Bool := true
  settling : Nat := 0              -- outputs still to be flagged SETTLING
  outs : Nat := 0                  -- outputs formed
  deriving DecidableEq, Repr

/-- A conditioned output handed to the estimator (R211, R212). -/
structure CondOut where
  chan : Nat
  t : Int
  y : Nat
  settling : Bool
  deriving DecidableEq, Repr

/-- An IMU port (R206). -/
structure Imu where
  lastEdge : Option Nat := none
  lostSince : Nat := 0             -- increments of COND_IMU_LOST since the last edge
  burst : Option Nat := none       -- stamp of the burst in progress
  deriving DecidableEq, Repr

/-- A wheel-tick input (R207): the two latest accepted edges' stamps, newest first. -/
structure Wheel where
  edges : List Nat := []
  deriving DecidableEq, Repr

/-- The conditioning chain. -/
structure CondSt where
  chans : SMap Chan := []          -- 0–23
  imus : SMap Imu := []            -- 0–1
  wheels : SMap Wheel := []        -- 0–7
  canWheel : SMap Int := []        -- last CAN value of channels 20–23 (log entry 30)
  canScale : SMap Nat := []        -- scale of the entry that gave it, F32 (log entry 30)
  vehicle : SMap (Nat × Nat) := [] -- vehicle signals 0–15: F32 value, stamp
  cansig : List (List Byte) := []  -- the signal entries in force
  syncAt : Option Nat := none      -- the latest reset instant
  deriving DecidableEq, Repr

end Sys2Proof.Machine
end

