-- ==== Sys2Proof/Machine/State.lean ====
section
/-! DEFINITION. The state of the device: the queue of waiting commands, the registers, the memories and the blocks. -/
namespace Sys2Proof.Machine

/-- Faults. The spec names no event that stops the machine: an access to an address that does not exist ends with a
completion code (05 R144, 19 R462, R464), an Islet's exception enters its handler or halts that Islet (02 R61). -/
inductive Fault
  deriving DecidableEq, Repr

/-- Refusals. `notModelled`: an arm of `exec` whose command has no meaning yet; raised by the dispatch only; safe. -/
inductive Refusal
  | notModelled (mnemonic : String)
  deriving DecidableEq, Repr

/-- The state of the device. -/
structure State where
  /-- Commands waiting, first in, first out (the block form of the model). -/
  pending : List Instr := []
  /-- Index of the next free value (log entry 1). -/
  freeCount : Nat := 0
  /-- TB3 in ns (07 R190). -/
  tb3 : Nat := 0
  /-- The CSR registers by offset; an unlisted one holds its reset value (00 R7–R12, 19 R463). -/
  csr : SMap Word32 := []
  /-- The values in force of registers that take effect at epoch boundaries (00 R12). -/
  act : SMap Word32 := []
  /-- Device memory by device address: sliver stores, direct windows, the Placed Range (19 R460). -/
  mem : List Host.Cell := []
  /-- What the device has sent out, in order. -/
  out : List Out := []
  islets : SMap Islet := []
  buoys : SMap Buoy := []
  place : Place := {}
  units : SMap NSlot := []
  chain : Chain := {}
  ep : Endpoint := {}
  time : TimeSt := {}
  cond : CondSt := {}
  shore : ShoreSt := {}
  fuse : FuseSt := {}
  gsol : GsolSt := {}
  map : MapSt := {}
  reef : ReefSt := {}
  dev : Dev := {}
  cfg : Cfg := {}
  sec : Sec := {}
  pwr : Pwr := {}
  tap : Tap := {}
  deriving DecidableEq, Repr

/-- The machine right after reset: every field at its reset value. -/
def State.reset : State := {}

end Sys2Proof.Machine
end

