-- ==== Sys2Proof/Machine/Ops.lean ====
section
/-! DEFINITION. The named operations over the state that every family uses: registers, memory, time, free values, the
log of what leaves the device. -/
namespace Sys2Proof.Machine

/-- The register at offset `o`, as a number. -/
def State.reg (s : State) (o : Nat) : Nat := (SMap.get csrReset s.csr o).toNat

/-- The state with `v` in the register at offset `o`; the table stays canonical. -/
def State.setReg (s : State) (o v : Nat) : State :=
  { s with csr := SMap.set csrReset s.csr o (BitVec.ofNat 32 v) }

/-- Field `b` of the register at `o`. -/
def State.fld (s : State) (o : Nat) (b : Bits) : Nat := bitsOf (s.reg o) b.1 b.2

/-- The state with `v` in field `b` of the register at `o`. -/
def State.setFld (s : State) (o : Nat) (b : Bits) (v : Nat) : State :=
  s.setReg o (putBits (s.reg o) b.1 b.2 v)

/-- A counter raised by one, saturating at 0xFFFF_FFFF. -/
def State.inc (s : State) (o : Nat) : State := s.setReg o (satInc (BitVec.ofNat 32 (s.reg o))).toNat

/-- A counter raised by `n`, saturating. -/
def State.addTo (s : State) (o n : Nat) : State := s.setReg o (satAdd (BitVec.ofNat 32 (s.reg o)) n).toNat

/-- A counter raised by one, wrapping. -/
def State.incWrap (s : State) (o : Nat) : State := s.setReg o ((s.reg o + 1) % 2 ^ 32)

/-- A 64-bit value held in a register and the next. -/
def State.reg64 (s : State) (o : Nat) : Nat := s.reg o + 2 ^ 32 * s.reg (o + 4)

/-- The state with a 64-bit value in a register and the next. -/
def State.setReg64 (s : State) (o v : Nat) : State :=
  (s.setReg o (v % 2 ^ 32)).setReg (o + 4) (v / 2 ^ 32 % 2 ^ 32)

/-- The value in force of a register that takes effect at epoch boundaries (00 R12). -/
def State.cfgReg (s : State) (o : Nat) : Nat := (SMap.get csrReset s.act o).toNat

/-- Field `b` of the value in force. -/
def State.cfgFld (s : State) (o : Nat) (b : Bits) : Nat := bitsOf (s.cfgReg o) b.1 b.2

/-- A one-bit field of the value in force. -/
def State.cfgBit (s : State) (o : Nat) (b : Bits) : Bool := s.cfgFld o b == 1

/-- The signed 32-bit value in force. -/
def State.cfgInt (s : State) (o : Nat) : Int := sext 32 (s.cfgReg o)

/-- What a byte of device memory reads as while nothing has written it (log entry 3). -/
def memDefault : Nat → Byte := fun _ => 0

/-- The byte at device address `a`. -/
def State.byte (s : State) (a : Nat) : Byte := SMap.get memDefault s.mem a

/-- The state with `v` at device address `a`; the memory stays canonical. -/
def State.setByte (s : State) (a : Nat) (v : Byte) : State :=
  { s with mem := SMap.set memDefault s.mem a v }

/-- `n` bytes from `a`, little-endian, as a number (00 R6). -/
def State.load (s : State) (a : Nat) : Nat → Nat
  | 0 => 0
  | n + 1 => (s.byte a).toNat + 256 * s.load (a + 1) n

/-- `n` bytes from `a`. -/
def State.bytes (s : State) (a : Nat) : Nat → List Byte
  | 0 => []
  | n + 1 => s.byte a :: s.bytes (a + 1) n

/-- The state with the bytes stored from `a` upwards. -/
def State.store (s : State) (a : Nat) : List Byte → State
  | [] => s
  | b :: r => (s.setByte a b).store (a + 1) r

/-- The state with `n` bytes of zeros from `a` upwards. -/
def State.zero (s : State) (a n : Nat) : State := { s with mem := SMap.clearRange s.mem a n }

/-- The canonical form of the memory. -/
def memWf (m : List Host.Cell) : Bool := SMap.wf memDefault m

/-- The next free value (log entry 1). -/
def State.free (s : State) : BitVec 64 := Config.freeWord s.freeCount

/-- The state after a free value is taken. -/
def State.tick (s : State) : State := { s with freeCount := s.freeCount + 1 }

/-- Something leaves the device. -/
def State.emit (s : State) (o : Out) : State := { s with out := s.out ++ [o] }

/-- TB3 stands at `t` at the least. -/
def State.at (s : State) (t : Nat) : State := { s with tb3 := max s.tb3 t }

/-- An epoch in ns (01 R19). -/
def epochNs : Nat := 250000

/-- Does SLEEP, a power-down or a reset stand: nothing beyond the Skerry runs (13 R370, 16 R422, 18 R450). -/
def State.asleep (s : State) : Bool :=
  s.dev.poweredOff || !s.dev.pwrOk || decide (s.dev.state = .sleep) || decide (s.dev.state = .off)

/-- A command that only the powered device meets: while it is asleep it has no effect (log entry 84). -/
def State.whenAwake (s : State) (f : State → State) : State := if s.asleep then s else f s

/-- Value of base `b` at the start of a segment, 2^−48 ns. -/
def Seg.v (g : Seg) (b : Nat) : Int := if b = 0 then g.v0 else if b = 1 then g.v1 else g.v2
/-- Rate of base `b` in a segment. -/
def Seg.r (g : Seg) (b : Nat) : Int := if b = 0 then g.r0 else if b = 1 then g.r1 else g.r2
/-- The segment with base `b` at value `v`. -/
def Seg.setV (g : Seg) (b : Nat) (v : Int) : Seg :=
  if b = 0 then { g with v0 := v } else if b = 1 then { g with v1 := v } else { g with v2 := v }
/-- The segment with base `b` at rate `r`. -/
def Seg.setR (g : Seg) (b : Nat) (r : Int) : Seg :=
  if b = 0 then { g with r0 := r } else if b = 1 then { g with r1 := r } else { g with r2 := r }

/-- Base `b` at TB3 instant `t` by a segment, in 2^−48 ns: Δ ns × (1 + rate × 2^−16 × 10^−9), its part below 2^−48 ns
dropped (07 R191, R195; log entry 22). -/
def Seg.value (g : Seg) (b : Nat) (t : Int) : Int :=
  let d := t - g.start
  g.v b + d * (2 ^ 48 : Nat) + d * g.r b * (2 ^ 32 : Nat) / 1000000000

/-- The conversion of R195 within a segment: whole ns, ties to even. -/
def Seg.convert (g : Seg) (b : Nat) (t : Int) : Int :=
  let d := t - g.start
  divRne (g.v b * 1000000000 + d * (2 ^ 48 : Nat) * 1000000000 + d * g.r b * (2 ^ 32 : Nat))
    ((2 ^ 48 : Nat) * 1000000000)

/-- The segment that contains `t`, the oldest one for an older instant; and whether `t` is older than the history. -/
def segAt (cur : Seg) : List Seg → Int → Seg × Bool
  | [], t => (cur, decide (t < cur.start))
  | g :: r, t => if (cur.start : Int) ≤ t then (cur, false) else segAt g r t

/-- TB3 instant `t` in base `b` (0–2), or TB3 itself (R195). -/
def State.toBase (s : State) (b : Nat) (t : Int) : Int :=
  if b = 3 then t else (segAt s.time.seg s.time.hist t).1.convert b t

/-- The count that a conversion of `t` leaves (R195). -/
def State.convStale (s : State) (t : Int) : State :=
  if (segAt s.time.seg s.time.hist t).2 then s.inc R.TIME_CONV_STALE else s

/-- TB0 in ns at the present instant. -/
def State.tb0 (s : State) : Nat := (s.toBase 0 s.tb3).toNat

/-- Smallest TB3 instant of a segment that reaches base value `x` or a later one, for a segment of positive speed. -/
def Seg.inverse (g : Seg) (b : Nat) (x : Int) : Int :=
  let num := (x * (2 ^ 48 : Nat) - g.v b) * 1000000000
  let den := (2 ^ 48 : Nat) * 1000000000 + g.r b * (2 ^ 32 : Nat)
  g.start + divRne num den

/-- The inverse of R196 over the segments from the newest to the oldest: the later of two occurrences, the step instant
for a value that a step skipped; and whether the value is older than the history. -/
def inverseIn (b : Nat) (x : Int) (cur : Seg) : List Seg → Int × Bool
  | [] => (cur.inverse b x, decide (x * (2 ^ 48 : Nat) < cur.v b))
  | g :: r => if cur.v b ≤ x * (2 ^ 48 : Nat) then (cur.inverse b x, false)
    else if g.value b cur.start ≤ x * (2 ^ 48 : Nat) then (cur.start, false)
    else inverseIn b x g r

/-- The TB3 instant at which base `b` reads `x` (R196). -/
def State.fromBase (s : State) (b : Nat) (x : Int) : Int :=
  if b = 3 then x else (inverseIn b x s.time.seg s.time.hist).1

/-- The count that a conversion of value `x` of base `b` into TB3 leaves (R195, R196, R217). -/
def State.invStale (s : State) (b : Nat) (x : Int) : State :=
  if b ≠ 3 ∧ (inverseIn b x s.time.seg s.time.hist).2 then s.inc R.TIME_CONV_STALE else s

/-- A tag word (01 R24) without flags: object, generation, deadline class, tier hint, owner. -/
def tagOf (obj gen cls hint owner : Nat) : Nat :=
  obj * 2 ^ 40 + gen * 2 ^ 32 + cls * 2 ^ 28 + hint * 2 ^ 24 + owner * 2 ^ 16

/-- A record built from fields given as offset, size and value; bytes not given are 0. -/
def record (n : Nat) (fs : List (Nat × Nat × Nat)) : List Byte :=
  leBytes n (fs.foldl (fun a f => a + (f.2.2 % 2 ^ (8 * f.2.1)) * 2 ^ (8 * f.1)) 0)

/-- The live calibration (12 R344, R345): bytes 0x000–0xBFF of the record. -/
def State.cal (s : State) : List Byte := s.bytes (s.reg64 R.CFG_CAL_LIVE_LO) 0xC00

/-- `n` bytes of a list from offset `o`, as a number. -/
def leAt (b : List Byte) (o n : Nat) : Nat := ofLe ((b.drop o).take n)

/-- Number the bytes of a two's complement integer hold in `w` bits. -/
def twos (w : Nat) (x : Int) : Nat := wrapTo w x

end Sys2Proof.Machine
end

