-- ==== Sys2Proof/Machine/Link.lean ====
section
/-! DEFINITION. The transmitting side of a Causeway port (spec 13 R374–R382): messages into frames, credits, replay,
routing. Port 0 is UP, port 1 is DOWN. -/
namespace Sys2Proof.Machine

/-- The link layer of port `p`. -/
def State.cport (s : State) (p : Nat) : CPort := SMap.get (fun _ => ({} : CPort)) s.chain.ports p

/-- The state with the link layer of port `p` replaced. -/
def State.setCport (s : State) (p : Nat) (c : CPort) : State :=
  { s with chain := { s.chain with ports := SMap.set (fun _ => ({} : CPort)) s.chain.ports p c } }

/-- State of port `p` in CHAIN_PORT_STATUS_p (R390): 0 DOWN, 1 TRAINING, 2 UP, 3 RETRAINING, 4 FAILED. -/
def State.portState (s : State) (p : Nat) : Nat := s.fld (R.CHAIN_PORT_STATUS + 4 * p) R.CHAIN_PORT_STATUS_state

/-- The unit's own address. -/
def State.ownAddr (s : State) : Nat := s.fld R.CHAIN_STATUS R.CHAIN_STATUS_address

/-- The count of units in the chain. -/
def State.unitCount (s : State) : Nat := s.fld R.CHAIN_STATUS R.CHAIN_STATUS_count

/-- Is a test mode of R388 in force on port `p`: mode other than OFF, in TEST. -/
def State.portTest (s : State) (p : Nat) : Bool :=
  decide (s.dev.state = .test) && decide (s.fld R.CHAIN_TEST R.CHAIN_TEST_mode ≠ 0) &&
  decide (s.fld R.CHAIN_TEST R.CHAIN_TEST_port = p)

/-- Does port `p` carry messages (R382, R388). -/
def State.portUp (s : State) (p : Nat) : Bool := decide (s.portState p = 2) && !s.portTest p

/-- Virtual channel of a message class (R376). -/
def vcOf (cls : Nat) : Nat := if cls ≤ 1 then 0 else if cls ≤ 3 then 1 else 2

/-- The 32-byte header of a message (R381). -/
def Msg.header (m : Msg) : List Byte :=
  record 32 [(0, 1, m.dest), (1, 1, m.src), (2, 1, m.cls), (3, 1, m.flags), (4, 2, m.payload.length),
    (6, 6, m.address), (0xC, 4, m.seq), (0x10, 8, m.epoch), (0x18, 8, m.tag)]

/-- The message a byte string holds (R381). -/
def Msg.ofBytes (b : List Byte) : Msg :=
  { dest := leAt b 0 1, src := leAt b 1 1, cls := leAt b 2 1, flags := leAt b 3 1, address := leAt b 6 6,
    seq := leAt b 0xC 4, epoch := leAt b 0x10 8, tag := leAt b 0x18 8, payload := (b.drop 32).take (leAt b 4 2) }

/-- The deadline class in a message's tag (01 R24). -/
def Msg.dclass (m : Msg) : Nat := bitsOf m.tag 31 28

/-- Frames a message takes (R375): 256 bytes of header and payload each, the last padded. -/
def Msg.frames (m : Msg) : Nat := (32 + m.payload.length + 255) / 256

/-- The data fields of a message's frames (R375). -/
def chunks : Nat → List Byte → List (List Byte)
  | 0, _ => []
  | n + 1, b => ((b ++ List.replicate 256 0).take 256) :: chunks n (b.drop 256)

/-- CRC-32C over bytes, reflected, as a byte-wise bit loop (R375; log entry 23). -/
def crcBits : Nat → Nat → Nat
  | 0, c => c
  | n + 1, c => crcBits n (if c % 2 = 1 then (c / 2) ^^^ 0x82F63B78 else c / 2)

/-- CRC-32C of a byte string. -/
def crc32c (b : List Byte) : Nat := (b.foldl (fun c x => crcBits 8 (c ^^^ x.toNat)) 0xFFFFFFFF) ^^^ 0xFFFFFFFF

/-- A frame's 264 bytes (R375). -/
def LFrame.bytes (f : LFrame) : List Byte :=
  let h := leBytes 2 (f.fseq % 4096 + f.typ * 4096) ++ leBytes 2 (f.ack % 4096 + (f.vc % 4) * 4096 + b2n f.last * 2 ^ 14)
    ++ (f.data ++ List.replicate 256 0).take 256
  h ++ leBytes 4 (crc32c h)

/-- Send one frame: it takes the next fseq, carries the latest acknowledgement and is kept for replay, at most 512
(R375). -/
def State.sendFrame (s : State) (p typ vc : Nat) (last : Bool) (data : List Byte) : State :=
  let c := s.cport p
  let f : LFrame := ⟨c.txSeq, typ, (c.rxSeq + 4095) % 4096, vc, last, data⟩
  let keep := c.replay ++ [(f, 0)]
  (s.setCport p { c with txSeq := (c.txSeq + 1) % 4096, replay := keep.drop (keep.length - 512) }).emit (.frame p f)

/-- Send a frame of the link layer that is not kept for replay: ACK, NAK, CREDIT, IDLE (R375; log entry 24). -/
def State.sendCtl (s : State) (p typ ack vc : Nat) (data : List Byte) : State :=
  s.emit (.frame p ⟨(s.cport p).txSeq, typ, ack, vc, false, data⟩)

/-- Send the frames of a message. -/
def State.sendChunks (s : State) (p vc : Nat) : List (List Byte) → State
  | [] => s
  | [d] => s.sendFrame p 1 vc true d
  | d :: r => (s.sendFrame p 1 vc false d).sendChunks p vc r

/-- Send a message whose channel has credits for all its frames (R376). -/
def State.transmit (s : State) (p : Nat) (m : Msg) : State :=
  let vc := vcOf m.cls
  let c := s.cport p
  let s := s.setCport p { c with credits := setAt c.credits vc (nthD 0 c.credits vc - m.frames) }
  ((s.sendChunks p vc (chunks m.frames (m.header ++ m.payload))).incWrap (R.CHAIN_TX_MSG + 0x20 * p)).emit (.msg p m)

/-- Insert a waiting message in the order of 01 R27: lower deadline class first, then older. -/
def insertMsg (m : Msg) : List Msg → List Msg
  | [] => [m]
  | x :: r => if m.dclass < x.dclass then m :: x :: r else x :: insertMsg m r

/-- Hand a message to the transmitter of port `p` (R376): it goes when its channel has credits for all its frames and no
message of the channel waits, else it waits and is counted. -/
def State.sendOn (s : State) (p : Nat) (m : Msg) : State :=
  let c := s.cport p
  let vc := vcOf m.cls
  if m.frames ≤ nthD 0 c.credits vc ∧ !(c.wait.any fun x => vcOf x.cls == vc) then s.transmit p m
  else (s.setCport p { c with wait := insertMsg m c.wait }).inc (R.CHAIN_CREDIT_WAIT + 0x20 * p)

/-- The first waiting message of channel `vc`, and the others. -/
def takeWaiting (vc : Nat) : List Msg → Option (Msg × List Msg)
  | [] => none
  | m :: r =>
    if vcOf m.cls = vc then some (m, r)
    else match takeWaiting vc r with
      | some (x, r') => some (x, m :: r')
      | none => none

/-- Send the waiting messages of channel `vc` that its credits now allow, in order; at most `n`. -/
def State.drainVc (s : State) (p vc : Nat) : Nat → State
  | 0 => s
  | n + 1 =>
    let c := s.cport p
    match takeWaiting vc c.wait with
    | some (m, r) =>
      if m.frames ≤ nthD 0 c.credits vc then ((s.setCport p { c with wait := r }).transmit p m).drainVc p vc n else s
    | none => s

/-- Send what waits on port `p`. -/
def State.drain (s : State) (p : Nat) : State :=
  let n := (s.cport p).wait.length
  ((s.drainVc p 0 n).drainVc p 1 n).drainVc p 2 n

/-- Port a message for address `d` leaves on (R382): DOWN for a higher address, UP for a lower one. -/
def State.portTo (s : State) (d : Nat) : Nat := if s.ownAddr < d then 1 else 0

/-- Can a message for another unit `d` leave (R382): the unit exists and the port is UP. -/
def State.reachable (s : State) (d : Nat) : Bool := decide (d < s.unitCount) && s.portUp (s.portTo d)

/-- Next sequence number towards `d` (R381). -/
def State.nextSeq (s : State) (d : Nat) : Nat := SMap.get (fun _ => 0) s.chain.seqs d

/-- The state after that number is used. -/
def State.useSeq (s : State) (d : Nat) : State :=
  { s with chain := { s.chain with seqs := SMap.set (fun _ => 0) s.chain.seqs d ((s.nextSeq d + 1) % 2 ^ 32) } }

/-- Send a message that is not a request to unit `d` (R377, R381, R382). -/
def State.sendMsg (s : State) (d cls tag : Nat) (payload : List Byte) : State :=
  if s.reachable d then
    let m : Msg := { dest := d, src := s.ownAddr, cls := cls, seq := s.nextSeq d, epoch := s.dev.epoch, tag := tag,
                     payload := payload }
    (s.useSeq d).sendOn (s.portTo d) m
  else s.inc R.CHAIN_UNROUTABLE

/-- Send a CTRL message of R378 to the neighbour on port `p`; one that cannot cross it is discarded and counted (R377). -/
def State.sendCtrl (s : State) (p subtype value : Nat) : State :=
  let m : Msg := { dest := 0xFE, src := s.ownAddr, cls := 0, seq := s.nextSeq 0xFE, epoch := s.dev.epoch,
                   tag := tagOf 0 0 0 0 0x86, payload := record 16 [(0, 1, subtype), (1, 1, value)] }
  if s.portUp p then (s.useSeq 0xFE).sendOn p m else s.inc R.CHAIN_UNROUTABLE

end Sys2Proof.Machine
end

