-- ==== Sys2Proof/Machine/Intc.lean ====
section
/-! DEFINITION. The interrupt controller (spec 15): events, levels, delivery, the pins, and the meanings of its own
commands. -/
namespace Sys2Proof.Machine

/-- The level sources (R410). -/
def levelSource (n : Nat) : Bool := [3, 4, 165, 195, 288, 289, 290, 384].contains n

/-- The sources that exist (R410). -/
def sourceExists (n : Nat) : Bool :=
  decide (n ≤ 8) || (decide (32 ≤ n) && decide (n ≤ 37)) || (decide (64 ≤ n) && decide (n ≤ 68)) ||
  (decide (72 ≤ n) && decide (n ≤ 75)) || (decide (96 ≤ n) && decide (n ≤ 100)) ||
  (decide (128 ≤ n) && decide (n ≤ 130)) || (decide (160 ≤ n) && decide (n ≤ 166)) ||
  (decide (192 ≤ n) && decide (n ≤ 196)) || (decide (224 ≤ n) && decide (n ≤ 226)) || n == 232 || n == 233 ||
  n == 256 || n == 257 || (decide (288 ≤ n) && decide (n ≤ 291)) || (decide (320 ≤ n) && decide (n ≤ 385)) ||
  (decide (448 ≤ n) && decide (n ≤ 463)) || (decide (496 ≤ n) && decide (n < 512))

/-- Bit of source `n` in a family of sixteen registers (R410). -/
def State.srcBit (s : State) (base n : Nat) : Bool := bitOf (s.reg (base + 4 * (n / 32))) (n % 32)

/-- The state with source `n`'s bit in a family of sixteen registers set to `v`. -/
def State.setSrcBit (s : State) (base n : Nat) (v : Bool) : State :=
  let o := base + 4 * (n / 32)
  s.setReg o (putBits (s.reg o) (n % 32) (n % 32) (b2n v))

/-- Can the endpoint issue MSI-X writes and requests: link up, Bus Master Enable (13 R387). -/
def State.canMaster (s : State) : Bool :=
  s.fld R.HOST_LINK_STATUS R.HOST_LINK_STATUS_link_up == 1 && s.fld R.HOST_LINK_STATUS R.HOST_LINK_STATUS_bme == 1

/-- Offset of the Pending Bit Array (13 R386). -/
def pbaOff : Nat := 0xF1800

/-- An MSI-X write of vector `v` (R417): dropped and counted when it cannot be issued, left pending in the array when it is
masked. -/
def State.msixWrite (s : State) (v : Nat) : State :=
  if s.ep.msixEnable && s.canMaster then
    if s.ep.funcMask || bitOf (s.reg (R.MSIX + 16 * v + 12)) 0 then
      let o := pbaOff + 4 * (v / 32)
      s.setReg o (putBits (s.reg o) (v % 32) (v % 32) 1)
    else s.emit (.msix v (s.reg64 (R.MSIX + 16 * v)) (s.reg (R.MSIX + 16 * v + 8)))
  else s.inc R.INTC_MISSED

/-- The payload of the EVENT message of source `n` at the issue point (R418). -/
def State.eventPayload (s : State) (n : Nat) : List Byte :=
  record 16 [(0, 2, n), (2, 1, s.reg (R.INTC_COUNT + 4 * n)),
    (3, 1, b2n (levelSource n) + 2 * b2n (s.srcBit R.INTC_LEVEL n)), (8, 8, s.tb0)]

/-- The EVENT message of source `n` to unit `d` (R418). -/
def State.eventMsg (s : State) (n d : Nat) : State :=
  if d = s.ownAddr ∨ s.unitCount ≤ d then s.inc R.INTC_MISSED
  else s.sendMsg d 1 (tagOf 0 0 2 0 0x86) (s.eventPayload n)

/-- The issue point of source `n` (R414, R415): one delivery to each output its route enables, none while it is masked. -/
def State.deliver (s : State) (n : Nat) : State :=
  if s.srcBit R.INTC_MASK n then s
  else
    let o := R.INTC_ROUTE + 4 * n
    let s1 := if s.fld o R.INTC_ROUTE_msix_en = 1 then s.msixWrite (s.fld o R.INTC_ROUTE_vector) else s
    if s.fld o R.INTC_ROUTE_chain_en = 1 then s1.eventMsg n (s.fld o R.INTC_ROUTE_chain_dest) else s1

/-- Does the interrupt controller run: its domain is on (15 R419, 16 R422). -/
def State.intcRuns (s : State) : Bool := !s.dev.poweredOff && decide (s.dev.state ≠ .sleep) && decide (s.dev.state ≠ .off)

/-- An event of source `n` (R411, R414). -/
def State.raise (s : State) (n : Nat) : State :=
  if s.intcRuns && sourceExists n then
    let o := R.INTC_COUNT + 4 * n
    let s1 := s.setReg o (min (s.reg o + 1) 255)
    if s.srcBit R.INTC_PEND n then s1 else (s1.setSrcBit R.INTC_PEND n true).deliver n
  else s

/-- A level source takes a level: an event at its assertion only (R411, R413). -/
def State.setLevel (s : State) (n : Nat) (high : Bool) : State :=
  if s.srcBit R.INTC_LEVEL n = high then s
  else if high then (s.setSrcBit R.INTC_LEVEL n true).raise n
  else s.setSrcBit R.INTC_LEVEL n false

/-- Is INT_N[j] driven low (R416). -/
def State.intPinLow (s : State) (j : Nat) : Bool :=
  s.intcRuns && decide (s.dev.state ≠ .boot) &&
  (upTo 512).any fun n => s.srcBit R.INTC_PEND n && !s.srcBit R.INTC_MASK n &&
    s.fld (R.INTC_ROUTE + 4 * n) (if j = 0 then R.INTC_ROUTE_pin0_en else R.INTC_ROUTE_pin1_en) == 1

/-- Raise every source of a list. -/
def State.raiseAll (s : State) (l : List Nat) : State := l.foldl State.raise s

/-- A write of `v` to INTC_PEND_k, with the events that meet it in the same cycle (R412, 00 R9). -/
def State.pendWrite (s : State) (k : Nat) (v : Word32) (meets : List Nat) : State :=
  let o := R.INTC_PEND + 4 * k
  (s.setReg o (s.reg o &&& ((2 ^ 32 - 1) ^^^ v.toNat))).raiseAll meets

/-- A write of `v` to INTC_MASK_k, with the events that meet it in the same cycle: their issue point finds the new mask
(R415); a source it unmasks while pending is delivered (R414). -/
def State.maskWrite (s : State) (k : Nat) (v : Word32) (meets : List Nat) : State :=
  let o := R.INTC_MASK + 4 * k
  let old := s.reg o
  let s1 := s.setReg o v.toNat
  let again := (upTo 32).filter fun b => bitOf old b && !bitOf v.toNat b && bitOf (s.reg (R.INTC_PEND + 4 * k)) b
  (again.foldl (fun s b => s.deliver (32 * k + b)) s1).raiseAll meets

/-- A write of `v` to INTC_COUNT_n, with the events that meet it (R412). -/
def State.countWrite (s : State) (n : Nat) (v : Word32) (meets : Bool) : State :=
  let s1 := if v = 0 then s.setReg (R.INTC_COUNT + 4 * n) 0 else s
  if meets then s1.raise n else s1

/-- A write of `v` to INTC_SOFT (R410): SOFT_s for each 1 in bits 15–0. -/
def State.softWrite (s : State) (v : Word32) : State :=
  ((upTo 16).filter fun b => bitOf v.toNat b).foldl (fun s b => s.raise (496 + b)) s

/-- INTC_PEND_WRITE (R412). -/
def execIntcPendWrite (k : Fin 16) (v : Word32) (meets : List (Fin 32)) (s : State) : Host.Outcome State Fault Refusal :=
  .next (s.whenAwake fun s => s.pendWrite k.val v (meets.map fun b => 32 * k.val + b.val))

/-- INTC_MASK_WRITE (R414, R415). -/
def execIntcMaskWrite (k : Fin 16) (v : Word32) (meets : List (Fin 32)) (s : State) : Host.Outcome State Fault Refusal :=
  .next (s.whenAwake fun s => s.maskWrite k.val v (meets.map fun b => 32 * k.val + b.val))

/-- INTC_COUNT_WRITE (R412). -/
def execIntcCountWrite (n : Fin 512) (v : Word32) (meets : Bool) (s : State) : Host.Outcome State Fault Refusal :=
  .next (s.whenAwake fun s => s.countWrite n.val v meets)

/-- INTC_SOFT (R410). -/
def execIntcSoft (v : Word32) (s : State) : Host.Outcome State Fault Refusal := .next (s.whenAwake fun s => s.softWrite v)

/-- LEVEL_DEASSERT (R411, R413): only the source's level bit changes. -/
def execLevelDeassert (n : Fin 512) (s : State) : Host.Outcome State Fault Refusal :=
  .next (s.whenAwake fun s => if levelSource n.val then s.setLevel n.val false else s)

end Sys2Proof.Machine
end

