-- ==== Sys2Proof/Machine/Rings.lean ====
section
/-! DEFINITION. The publication rings and the device state (spec 12 R354, R357–R360). -/
namespace Sys2Proof.Machine

/-- Next seq of ring `r`. -/
def State.ringSeq (s : State) (r : Nat) : Nat := s.reg64 (R.CFG_RING_SEQ_LO + 0x20 * r)

/-- Base of ring `r` in force. -/
def State.ringBase (s : State) (r : Nat) : Nat :=
  s.cfgReg (R.CFG_RING_BASE_LO + 0x20 * r) + 2 ^ 32 * s.cfgReg (R.CFG_RING_BASE_HI + 0x20 * r)

/-- log2 of the entries of ring `r` in force. -/
def State.ringLog (s : State) (r : Nat) : Nat := s.cfgFld (R.CFG_RING_CFG + 0x20 * r) R.CFG_RING_CFG_entries_log2

/-- Is ring `r` enabled. -/
def State.ringOn (s : State) (r : Nat) : Bool := s.cfgBit (R.CFG_RING_CFG + 0x20 * r) R.CFG_RING_CFG_enable

/-- Host address of the slot of sequence number `q` in ring `r` with entries of `n` bytes (R359). -/
def State.ringSlot (s : State) (r n q : Nat) : Nat := s.ringBase r + ((q - 1) % 2 ^ s.ringLog r) * n

/-- Write an entry of `n` bytes to ring `r` (R359): its seq rises by one whether or not the ring is enabled; an enabled ring
gets three posted writes in order, seq 0, the body after the seq, the seq, and then its source, if it has one; an entry
that cannot be written is lost and counted (13 R387). -/
def State.ringWrite (s : State) (r n : Nat) (fields : List (Nat × Nat × Nat)) (src : Option Nat) : State :=
  let q := s.ringSeq r
  let a := s.ringSlot r n q
  let s1 := s.setReg64 (R.CFG_RING_SEQ_LO + 0x20 * r) (q + 1)
  if s.ringOn r then
    if s.canMaster then
      let s2 := ((s1.emit (.hostWrite a (leBytes 8 0))).emit (.hostWrite (a + 8) ((record n fields).drop 8))).emit
        (.hostWrite a (leBytes 8 q))
      match src with
      | some k => s2.raise k
      | none => s2
    else (s1.inc (R.CFG_RING_ERR + 0x20 * r)).raise 8
  else s1

/-- An EVENT entry (R360). -/
def State.eventEntry (s : State) (kind a b c d : Nat) : State :=
  s.ringWrite 1 32 [(8, 8, s.tb0), (0x10, 8, s.dev.epoch), (0x18, 1, kind), (0x19, 1, a), (0x1A, 1, b), (0x1B, 1, c),
    (0x1C, 4, d)] (some 5)

/-- The state with GLB_STATE's state set and nothing reported. -/
def State.setState (s : State) (x : DState) : State := { s with dev := { s.dev with state := x } }

/-- Enter a device state: GLB_STATE changes, a STATE entry is written, GLB_STATE_CHANGE is raised (R360, 15 R410). -/
def State.enter (s : State) (x : DState) : State :=
  if s.dev.state = x then s
  else
    let old := s.dev.state
    ((s.setState x).eventEntry 2 old.code x.code 0 0).raise 2

/-- A cause of GLB_DEGRADED comes or goes; the level source follows the register, and RUN becomes DEGRADED (R357, 15 R410). -/
def State.setCause (s : State) (b : Bits) (v : Bool) : State :=
  let s1 := s.setFld R.GLB_DEGRADED b (b2n v)
  let s2 := s1.setLevel 3 (decide (s1.reg R.GLB_DEGRADED ≠ 0))
  if s2.dev.state = .run ∧ s2.reg R.GLB_DEGRADED ≠ 0 then s2.enter .degraded else s2

/-- The value GLB_STATE reads (R362). -/
def State.glbState (s : State) : Nat := s.dev.state.code + 256 * b2n s.dev.safeStopLow

/-- Is the device in RUN or DEGRADED. -/
def State.running (s : State) : Bool := decide (s.dev.state = .run) || decide (s.dev.state = .degraded)

/-- NET_DEGRADED takes a value; its level source and the GLB_DEGRADED cause follow (04 R121, 15 R410). -/
def State.setNetDegraded (s : State) (v : Nat) : State :=
  let s1 := (s.setReg R.NET_DEGRADED v).setLevel 384 (decide (v ≠ 0))
  s1.setCause R.GLB_DEGRADED_net (decide (v ≠ 0))

/-- Bit `n` of NET_DEGRADED. -/
def State.setNetDegradedBit (s : State) (n : Nat) (v : Bool) : State :=
  s.setNetDegraded (putBits (s.reg R.NET_DEGRADED) n n (b2n v))

end Sys2Proof.Machine
end

