-- ==== Sys2Proof/Machine/Reads.lean ====
section
/-! DEFINITION. The reads of the flash (spec 10 R273): the queue of each channel. -/
namespace Sys2Proof.Machine

/-- The LUN of a page, with its channel and target: bits [63:56] of its PPA (R275). -/
def lunOf (page : Nat) : Nat := page / 2 ^ 28

/-- The LUN of a program or an erase. -/
def NOp.lun (o : NOp) : Nat := if o.erase then o.key / 2 ^ 16 else lunOf o.key

/-- The channel of a LUN. -/
def chanOf (lun : Nat) : Nat := lun / 16

/-- Is a LUN busy with a program or an erase (R270: neither is ever suspended). -/
def State.lunBusy (s : State) (l : Nat) : Bool := s.map.busy.any fun o => o.lun == l

/-- The reads of channel `c` in flight. -/
def State.readsIn (s : State) (c : Nat) : Nat := (s.map.reads.filter fun r => r.issued.isSome && chanOf (lunOf r.page) == c).length

/-- Can a waiting read be issued (R273): its channel has fewer than 16 in flight, its LUN is not busy. -/
def State.canRead (s : State) (r : NRead) : Bool :=
  r.issued.isNone && !s.lunBusy (lunOf r.page) && decide (s.readsIn (chanOf (lunOf r.page)) < 16)

/-- The place in the queue of the read that is issued next (R27, R273): of the lowest class, the oldest of those. -/
def State.nextRead (s : State) : Option Nat :=
  (s.map.reads.zipIdx.foldl (fun (b : Option (Nat × Nat)) e =>
    if s.canRead e.1 then
      match b with
      | some (c, _) => if e.1.cls < c then some (e.1.cls, e.2) else b
      | none => some (e.1.cls, e.2)
    else b) none).map fun b => b.2

/-- Issue the waiting reads that can be, in the order of R27, with fuel (R273). -/
def State.issueReads (s : State) : Nat → State
  | 0 => s
  | k + 1 =>
    match s.nextRead with
    | none => s
    | some i =>
      let go := fun (e : NRead × Nat) => if e.2 = i then { e.1 with issued := some s.tb3 } else e.1
      ({ s with map := { s.map with reads := s.map.reads.zipIdx.map go } }).issueReads k

/-- Issue what can be issued. -/
def State.runReads (s : State) : State := s.issueReads s.map.reads.length

/-- A read is asked for: it waits at its channel (R273). -/
def State.askRead (s : State) (page cls : Nat) (who : ReadFor) : State :=
  let r : NRead := { page := page, cls := cls, who := who }
  ({ s with map := { s.map with reads := s.map.reads ++ [r] } }).runReads

/-- Has a read that someone asked for still to be issued. -/
def State.readWaits (s : State) (who : ReadFor) : Bool := s.map.reads.any fun r => r.who == who && r.issued.isNone

/-- The reads that someone asked for are over; others take their places. -/
def State.endReads (s : State) (who : ReadFor) : State :=
  ({ s with map := { s.map with reads := s.map.reads.filter fun r => r.who != who } }).runReads

/-- A load reads the pages of its payload at its class (R273, R285). -/
def State.readPayload (s : State) (id cls : Nat) (digest : List Byte) : State :=
  match s.map.content.payloads.find? fun p => p.digest == digest with
  | none => s
  | some p => (p.extents.flatMap fun x => (upTo x.2).map fun i => x.1 / 2 ^ 28 + i).foldl (fun (s : State) k => s.askRead k cls (.payload id)) s

end Sys2Proof.Machine
end

