-- ==== Sys2Proof/Machine/Place.lean ====
section
/-! DEFINITION. Placement (spec 05): objects and their residency, pools and eviction, credits, moves, the decision log,
errors and page retirement, and the meanings of the tier rows. -/
namespace Sys2Proof.Machine

/-- First address of the Placed Range (R130). -/
def placedBase : Nat := 0x10000000000
/-- Is an address in the Placed Range. -/
def inPlaced (a : Nat) : Bool := decide (placedBase ≤ a) && decide (a < 0x20000000000)
/-- Address of an object (R130). -/
def placedAddr (id : Nat) : Nat := placedBase + id * 0x10000
/-- Placed page of an address. -/
def placedPage (a : Nat) : Nat := (a - placedBase) / 0x10000
/-- Pages of 64 KiB that `n` bytes take (R130). -/
def pagesOf (n : Nat) : Nat := (n + 0xFFFF) / 0x10000

/-- Completion codes (R144). -/
def ccOk : Nat := 0x00
/-- Served from a lower tier. -/
def ccLower : Nat := 0x01
/-- Waited for a write-back. -/
def ccAfterWb : Nat := 0x02
/-- Another victim was taken. -/
def ccRedirected : Nat := 0x03
/-- Abandoned. -/
def ccCancelled : Nat := 0x04
/-- No response in time. -/
def ccTimeout : Nat := 0x10
/-- Uncorrectable error. -/
def ccEcc : Nat := 0x11
/-- Link failure. -/
def ccLink : Nat := 0x12
/-- Host abort. -/
def ccHostAbort : Nat := 0x13
/-- Stale generation. -/
def ccStale : Nat := 0x14
/-- No allocated object. -/
def ccUnallocated : Nat := 0x15
/-- Digest of a payload failed. -/
def ccPayloadHash : Nat := 0x16
/-- The payload could not be read. -/
def ccNandRead : Nat := 0x17
/-- No space. -/
def ccNoSpace : Nat := 0x18

/-- The object under an id. -/
def State.obj (s : State) (id : Nat) : Option Obj := SMap.get (fun _ => none) s.place.objs id

/-- The state with an object record replaced. -/
def State.setObj (s : State) (id : Nat) (o : Option Obj) : State :=
  { s with place := { s.place with objs := SMap.set (fun _ => none) s.place.objs id o } }

/-- Generation of an object id. -/
def State.gen (s : State) (id : Nat) : Nat := SMap.get (fun _ => 0) s.place.gens id

/-- The tag word of an object (01 R24). -/
def State.objTag (s : State) (id : Nat) : Nat :=
  match s.obj id with
  | some o => tagOf id (s.gen id) o.cls o.hint o.owner + b2n o.late * 2 ^ 15 + b2n o.pinned * 2 ^ 14 +
      b2n o.immutable * 2 ^ 13 + b2n o.recurrent * 2 ^ 12 + b2n o.err * 2 ^ 11
  | none => 0

/-- The allocated objects with their ids. -/
def Place.list (p : Place) : List (Nat × Obj) :=
  p.objs.filterMap fun e => match e.2 with | some o => some (e.1, o) | none => none

/-- The object that holds a placed page. -/
def State.objAtPage (s : State) (p : Nat) : Option (Nat × Obj) :=
  s.place.list.find? fun e => decide (e.1 ≤ p) && decide (p < e.1 + pagesOf e.2.size)

/-- Instances of a tier: Lagoons, Shoals, stacks, the host region (R137). -/
def tierInsts (t : Nat) : Nat := if t = 1 then 6 else if t = 4 then 1 else 2

/-- Isle of a tier instance. -/
def instIsle (t i : Nat) : Nat := if t = 1 then i / 3 else if t = 4 then 0 else i

/-- Pages of a tier instance before retirement (R128). -/
def State.instPages (s : State) (t : Nat) : Nat :=
  if t = 1 then 256 else if t = 2 then 4096 else if t = 3 then 393216
  else s.cfgFld R.PLACE_T4_SIZE R.PLACE_T4_SIZE_gib * 16384

/-- Retired pages of a tier instance. -/
def State.retiredIn (s : State) (t i : Nat) : Nat := (s.place.retired.filter fun r => r.1 == t && r.2.1 == i).length

/-- Pages of a tier instance that an object occupies: its copy, the home copy of an immutable object, and the destination
of a move (R133, R134). -/
def Obj.occupies (o : Obj) (t i : Nat) : Nat :=
  let n := pagesOf o.size
  let here := if o.res ≠ .unloaded ∧ o.tier = t ∧ o.inst = i then n else 0
  let home := if o.res ≠ .unloaded ∧ o.immutable ∧ o.tier < 3 ∧ t = 3 ∧ o.home = i then n else 0
  let dest := match o.move with
    | some m => if m.toTier = t ∧ m.toInst = i then n else 0
    | none => 0
  here + home + dest

/-- Occupied pages of a tier instance. -/
def State.occIn (s : State) (t i : Nat) : Nat := s.place.list.foldl (fun n e => n + e.2.occupies t i) 0

/-- Free pages of a tier instance. -/
def State.freeIn (s : State) (t i : Nat) : Nat := s.instPages t - s.retiredIn t i - s.occIn t i

/-- The part of the class-0 reserve of a tier instance that class-0 objects do not hold (R137). -/
def State.reserveIn (s : State) (t i : Nat) : Nat :=
  let r := if t < 4 then s.cfgFld (R.PLACE_RESERVE + 4 * (t - 1)) R.PLACE_RESERVE_mib * 16 / tierInsts t else 0
  let held := s.place.list.foldl (fun n e => if e.2.cls = 0 ∧ !e.2.system ∧ !e.2.pinned then n + e.2.occupies t i else n) 0
  r - held

/-- Pages of a tier instance kept for pins whose objects are still to be allocated (R137, R152). -/
def State.heldIn (s : State) (t i : Nat) : Nat :=
  s.place.hold.foldl (fun n e => if e.2.1 = t ∧ e.2.2.1 = i then n + e.2.2.2 else n) 0

/-- Pages of a tier instance that a request of class `c` may use. -/
def State.availIn (s : State) (t i c : Nat) : Nat :=
  (if c = 0 then s.freeIn t i else s.freeIn t i - s.reserveIn t i) - s.heldIn t i

/-- MiB of a number of pages, rounded up. -/
def mibOf (pages : Nat) : Nat := (pages + 15) / 16

/-- Sum over the instances of a tier. -/
def sumInst (t : Nat) (f : Nat → Nat) : Nat := (upTo (tierInsts t)).foldl (fun n i => n + f i) 0

/-- The registers of one tier that follow from the objects (R157). -/
def State.tierRegs (s : State) (t : Nat) : State :=
  let o := R.PLACE_TIER_CAP + 0x20 * (t - 1)
  let cap := sumInst t (fun i => s.instPages t - s.retiredIn t i)
  let pin := s.place.list.foldl (fun n e => if e.2.system ∨ e.2.pinned then n + sumInst t (e.2.occupies t) else n) 0
  ((s.setReg o (cap / 16)).setReg (o + 4) (mibOf (sumInst t (s.occIn t)))).setReg (o + 8) (mibOf pin)

/-- The PLACE registers that follow from the objects (R156, R157). -/
def State.placeRegs (s : State) : State :=
  let s1 := (((s.tierRegs 1).tierRegs 2).tierRegs 3).tierRegs 4
  s1.setFld R.PLACE_STATUS R.PLACE_STATUS_objects (s.place.list.length % 2 ^ 24)

/-- An error code of a request to a tier, counted (R142, R144, R157, R158). -/
def State.countCode (s : State) (t code : Nat) : State :=
  let s1 := if code ≥ 0x10 ∧ 1 ≤ t ∧ t ≤ 4 then s.inc (R.PLACE_TIER_ERR + 0x20 * (t - 1)) else s
  if code = ccTimeout then s1.inc R.PLACE_TIMEOUT
  else if code = ccStale then s1.inc R.PLACE_STALE
  else if code = ccNoSpace then s1.inc R.PLACE_NO_SPACE
  else s1

/-- The from and to byte of a tier instance in a decision record (R154). -/
def placeByte (t i : Nat) : Nat := instIsle t i * 128 + t

/-- Write a decision record (R154); the tag of a transfer that ended in error carries err (01 R24). -/
def State.writeDecision (s : State) (d : Decision) : State :=
  (s.inc R.PLACE_DECISIONS).ringWrite 5 64
    [(8, 8, d.epoch), (0x10, 1, d.kind), (0x11, 1, d.reason), (0x12, 1, d.result), (0x13, 1, d.cls), (0x14, 1, d.owner),
     (0x15, 1, d.src), (0x16, 1, d.dst), (0x17, 1, min d.objects 255), (0x18, 8, d.bytes), (0x20, 8, if 0x10 ≤ d.result ∧ d.tag ≠ 0 then d.tag ||| 2 ^ 11 else d.tag),
     (0x28, 2, d.isletsBefore), (0x2A, 2, d.isletsAfter), (0x2C, 1, d.atollsBefore), (0x2D, 1, d.atollsAfter),
     (0x2E, 2, d.redirected), (0x30, 4, d.metric), (0x34, 4, d.target),
     (0x38, 4, satU 32 ((s.tb3 - d.since) / 1000))] (some 7)

/-- Does a decision produce a record (R153): more than 1 MiB moved, more than 16 Islets reassigned, or always. -/
def Decision.recorded (d : Decision) : Bool :=
  d.always || decide (0x100000 < d.bytes) ||
  decide (16 < d.reassigned)

/-- A decision that is not a transfer, or whose transfers have ended: its record, if it produces one. -/
def State.noteDecision (s : State) (d : Decision) : State := if d.recorded then s.writeDecision d else s

/-- Register a decision with transfers in flight; its number. -/
def State.openDec (s : State) (d : Decision) : Nat × State :=
  (s.place.nextDec, { s with place := { s.place with
    decs := SMap.set (fun _ => none) s.place.decs s.place.nextDec (some d), nextDec := s.place.nextDec + 1 } })

/-- The result of a decision one of whose transfers ends with `code`: the first error, else the first code that is not OK (R144). -/
def Decision.withCode (d : Decision) (code : Nat) : Nat :=
  if d.result ≥ 0x10 then d.result else if code ≥ 0x10 then code else if d.result = 0 then code else d.result

/-- One transfer of a decision ends with `code` at the place `dst`, with tag word `tag`, or without one (`began` false: nothing moved); the record
is written at the last one (R154). -/
def State.closeDec (s : State) (n code dst tag : Nat) (began : Bool) : State :=
  match SMap.get (fun _ => none) s.place.decs n with
  | none => s
  | some d =>
    let d1 := { d with left := d.left - 1, result := d.withCode code, dst := if d.kind = 1 then dst else d.dst
                       tag := if d.kind = 1 then tag else d.tag, bytes := if began ∨ d.kind ≠ 1 then d.bytes else 0 }
    if d1.left = 0 then
      ({ s with place := { s.place with decs := SMap.set (fun _ => none) s.place.decs n none } }).noteDecision d1
    else { s with place := { s.place with decs := SMap.set (fun _ => none) s.place.decs n (some d1) } }

/-- Lowest id from `p` at which `n` pages are free, looking at most `k` objects on (R130; log entry 26). -/
def findRun (l : List (Nat × Obj)) (n p : Nat) : Nat → Nat
  | 0 => p
  | k + 1 =>
    match l.find? (fun e => decide (e.1 < p + n) && decide (p < e.1 + pagesOf e.2.size)) with
    | some e => findRun l n (e.1 + pagesOf e.2.size) k
    | none => p

/-- The id a new object of `size` bytes gets. -/
def State.newId (s : State) (size : Nat) : Nat :=
  findRun s.place.list (pagesOf size) 1 (s.place.list.length + 1)

/-- Allocate an object under a free id (01 R24, R133): its generation rises if the id was used before. -/
def State.allocId (s : State) (id : Nat) (o : Obj) : State :=
  let s0 : State := { s with place := { s.place with used := SMap.set (fun _ => false) s.place.used id true } }
  let s1 : State := if SMap.get (fun _ => false) s.place.used id then
      { s0 with place := { s0.place with gens := SMap.set (fun _ => 0) s.place.gens id ((s.gen id + 1) % 256) } }
    else s0
  (s1.setObj id (some { o with touch := s.dev.epoch })).placeRegs

/-- What the pages from `id` held is gone from now on (R132): an access by an Islet assigned before is stale. Earlier notes about the same
pages are superseded. -/
def Place.noteFreed (p : Place) (id n : Nat) : Place :=
  { p with freed := (p.freed.filter fun e => !(decide (id ≤ e.1) && decide (e.1 + e.2.1 ≤ id + n))) ++ [(id, n, p.stamp)], stamp := p.stamp + 1 }

/-- A new generation of an object for its next contents (04 R99, 06 R164): what refers to the former contents is stale. -/
def State.newGen (s : State) (id : Nat) : State :=
  match s.obj id with
  | none => s
  | some o =>
    let p := s.place.noteFreed id (pagesOf o.size)
    { s with place := { p with
        objs := SMap.set (fun _ => none) p.objs id (some { o with late := false, err := false })
        gens := SMap.set (fun _ => 0) p.gens id ((s.gen id + 1) % 256) } }

/-- Allocate an object (R130). -/
def State.alloc (s : State) (o : Obj) : Nat × State :=
  let id := s.newId o.size
  (id, s.allocId id o)

/-- Allocate objects at consecutive ids, each spanning its size rounded up to 64 KiB (04 R99); the first id is answered. -/
def State.allocIds (s : State) (id : Nat) : List Obj → State
  | [] => s
  | o :: r => (s.allocId id o).allocIds (id + pagesOf o.size) r

/-- Allocate a run of objects at consecutive ids. -/
def State.allocRun (s : State) (os : List Obj) : Nat × State :=
  let id := findRun s.place.list (os.foldl (fun n o => n + pagesOf o.size) 0) 1 (s.place.list.length + 1)
  (id, s.allocIds id os)

/-- Take the poison marks of an object away (R146). -/
def State.clearMarks (s : State) (id size : Nat) : State :=
  { s with place := { s.place with poison := SMap.clearRange s.place.poison (placedAddr id / 64) (pagesOf size * 1024) } }

/-- Close the decision a move belongs to. -/
def State.closeMove (s : State) (id : Nat) (m : Move) (code : Nat) (began : Bool) : State :=
  match m.dec with
  | some n => s.closeDec n code (placeByte m.toTier m.toInst) (s.objTag id) began
  | none => s

/-- An open decision changes. -/
def State.mapDec (s : State) (m : Move) (f : Decision → Decision) : State :=
  match m.dec with
  | some n => { s with place := { s.place with decs := SMap.update (fun _ => none) s.place.decs n fun d => d.map f } }
  | none => s

/-- Free an object; deferred while a move is in flight (R132, R133, R146), a promotion still pending is abandoned (R144). Its pages read as
unwritten afterwards. -/
def State.freeObj (s : State) (id : Nat) : State :=
  match s.obj id with
  | none => s
  | some o =>
    if o.move.isSome then s.setObj id (some { o with freePending := true })
    else
      let s0 := match o.promo with
        | some m => s.closeMove id m ccCancelled false
        | none => s
      let s1 := (s0.clearMarks id o.size).setObj id none
      ({ s1 with
          mem := SMap.clearRange s1.mem (placedAddr id) (pagesOf o.size * 0x10000)
          place := s1.place.noteFreed id (pagesOf o.size) }).placeRegs

/-- Effective age of a victim (R138). -/
def Obj.age (o : Obj) (epoch : Nat) : Nat := (epoch - o.touch) * 2 ^ (o.cls / 4)

/-- May an object be evicted by a request of class `c` from its instance (R138, R139, R136). -/
def State.victimOk (s : State) (t i c : Nat) (o : Obj) : Bool :=
  decide (o.res = .resident) && decide (o.tier = t) && decide (o.inst = i) && decide (c ≤ o.cls) && !o.pinned &&
  !o.system &&
  (decide (c = 0) || (match o.moved with
    | some e => decide (e + s.cfgFld R.PLACE_HOLD R.PLACE_HOLD_epochs ≤ s.dev.epoch)
    | none => true)) &&
  (o.immutable || decide (t < 3) || (decide (0 < s.freeIn 4 0) && !s.place.t4Failing))

/-- Does victim `a` go before victim `b` (R138). -/
def victimLt (epoch : Nat) (a b : Nat × Obj) : Bool :=
  let x := a.2.age epoch
  let y := b.2.age epoch
  decide (y < x) || (decide (x = y) && (decide (b.2.cls < a.2.cls) || (decide (a.2.cls = b.2.cls) && decide (a.1 < b.1))))

/-- Insert into a list sorted by `lt`. -/
def insertBy {α : Type} (lt : α → α → Bool) (x : α) : List α → List α
  | [] => [x]
  | y :: r => if lt y x then y :: insertBy lt x r else x :: y :: r

/-- Sort by `lt`; equal elements keep their order. -/
def sortBy {α : Type} (lt : α → α → Bool) (l : List α) : List α := l.foldr (insertBy lt) []

/-- The victims of a tier instance in eviction order (R138). -/
def State.victims (s : State) (t i c : Nat) : List (Nat × Obj) :=
  sortBy (victimLt s.dev.epoch) (s.place.list.filter fun e => s.victimOk t i c e.2)

/-- The instance of tier `t` on an Isle that has most free pages. -/
def State.bestInst (s : State) (t isle c : Nat) : Nat :=
  ((upTo (tierInsts t)).filter fun i => t == 4 || instIsle t i == isle).foldl
    (fun b i => if s.availIn t b c < s.availIn t i c then i else b) (if t = 4 then 0 else if t = 1 then 3 * isle else isle)

/-- The next lower tier with room for `n` pages, on the same Isle where there is a choice (R139): tier and instance. -/
def State.lowerPlace (s : State) (t isle n c : Nat) : Option (Nat × Nat) :=
  let try1 := fun t' => (
    let own := s.bestInst t' isle c
    let far := s.bestInst t' (1 - isle) c
    if n ≤ s.availIn t' own c then some (t', own) else if n ≤ s.availIn t' far c then some (t', far) else none)
  ([2, 3, 4].filter fun t' => decide (t < t') && !(t' == 4 && s.place.t4Failing)).findSome? try1

/-- The paths of R140: Lagoons 0–5, Shoals 6–7, stacks 8–9, Strait 10–11 by the Isle of the requester, T4 12, payload loads 13. -/
def pathOf (t i : Nat) : Nat := if t = 1 then i else if t = 2 then 6 + i else if t = 3 then 8 + i else 12

/-- Credits of a path (R140). -/
def pathCredits (p : Nat) : Nat :=
  if p < 6 then 256 else if p < 8 then 512 else if p < 10 then 384 else if p < 12 then 256 else if p = 12 then 128 else 64

/-- Credits of a path reserved for class 0 (R140). -/
def pathReserved (p : Nat) : Nat := pathCredits p / 8

/-- Credits of a path in use. -/
def State.credUsed (s : State) (p : Nat) : Nat := SMap.get (fun _ => 0) s.place.credits p

/-- Are the credits there that a request of class `c` takes, one for each entry of `ps` (R140). -/
def State.credFree (s : State) (ps : List Nat) (c : Nat) : Bool :=
  ps.all fun p => decide (s.credUsed p + ps.count p ≤ pathCredits p - (if c = 0 then 0 else pathReserved p))

/-- Credits in use after one is taken or returned on each path. -/
def creditsAdd (ps : List Nat) (give : Bool) (m : SMap Nat) : SMap Nat :=
  ps.foldl (fun m p => SMap.update (fun _ => 0) m p (fun n => if give then n - 1 else n + 1)) m

/-- Take or return a credit on each path. -/
def State.credAdd (s : State) (ps : List Nat) (give : Bool) : State :=
  { s with place := { s.place with credits := creditsAdd ps give s.place.credits } }

/-- One on each of some paths, added to a measure of the epoch (R148). -/
def addPaths (m : SMap Nat) (ps : List Nat) (n : Nat) : SMap Nat := ps.foldl (fun m p => SMap.update (fun _ => 0) m p (· + n)) m

/-- A requester begins to wait for credits of some paths (R140, R141): the wait is counted, in PLACE_CREDIT_WAIT and in the measures. -/
def State.waitCredit (s : State) (w : Waiter) (ps : List Nat) : State :=
  let s1 := s.inc R.PLACE_CREDIT_WAIT
  { s1 with place := { s1.place with
      waiters := if s1.place.waiters.contains w then s1.place.waiters else s1.place.waiters ++ [w]
      waits := addPaths s1.place.waits ps.eraseDups 1 } }

/-- Where the bytes of page `k` of an object are now (R133, R135): tier and instance; during a move, of a page already moved the
destination; of an UNLOADED object the stack it will be in. -/
def Obj.placeAt (o : Obj) (k : Nat) : Nat × Nat :=
  if o.res = .unloaded then (3, o.home)
  else match o.move with
    | some m => if k < m.moved then (m.toTier, m.toInst) else (o.tier, o.inst)
    | none => (o.tier, o.inst)

/-- The paths of a request from an Isle to a page of an object: its memory, and the Strait when the Isles differ (R140). -/
def State.objPaths (isle : Nat) (o : Obj) (k : Nat) : List Nat :=
  let (t, i) := o.placeAt k
  if t = 4 then [12] else if instIsle t i = isle then [pathOf t i] else [pathOf t i, 10 + isle]

/-- The paths of one part of a move (R140): its read at the source, its write at the destination, and the Strait between Isles; a load reads
the payload partition. The Ferry has one part of a move in transfer at a time (log entry 128). -/
def Obj.movePaths (o : Obj) (m : Move) : List Nat :=
  if o.res = .unloaded then [13, pathOf 3 m.toInst]
  else
    let strait : Bool := decide (o.tier ≠ 4) && decide (m.toTier ≠ 4) && decide (instIsle o.tier o.inst ≠ instIsle m.toTier m.toInst)
    [pathOf o.tier o.inst, pathOf m.toTier m.toInst] ++ (if strait then [10 + instIsle m.toTier m.toInst] else [])

/-- The move of an object takes its credits, or waits for them (R140, R141). -/
def State.creditMove (s : State) (id : Nat) : State :=
  match s.obj id with
  | none => s
  | some o =>
    match o.move with
    | none => s
    | some m =>
      let ps := o.movePaths m
      if !m.paths.isEmpty then s
      else if s.credFree ps m.cls then
        (s.credAdd ps false).setObj id (some { o with move := some { m with paths := ps, since := s.tb3 } })
      else s.waitCredit (.move id) ps

/-- What an eviction pass leaves: the state, pages freed at once or on write-back, objects, bytes written back, victims
skipped, first object's tag, transfers started, where the write-back goes. -/
structure Evicted where
  st : State
  pages : Nat := 0
  objects : Nat := 0
  bytes : Nat := 0
  redirected : Nat := 0
  tag : Nat := 0
  left : Nat := 0
  dst : Nat := 0

/-- Evict one victim (R134, R136, R138, R139): one with a pending promotion is skipped and counted; an immutable object is
discarded, from T3 it becomes UNLOADED; a mutable one starts its write-back under decision `dec`. -/
def evictOne (dec c owner : Nat) (e : Evicted) (v : Nat × Obj) : Evicted :=
  let s := e.st
  let o := v.2
  let n := pagesOf o.size
  if o.promo.isSome then { e with st := s.inc R.PLACE_EVICT_CANCEL, redirected := e.redirected + 1 }
  else if o.immutable then
    let o1 : Obj := if o.tier < 3 then { o with tier := 3, inst := o.home, moved := some s.dev.epoch }
      else { o with res := .unloaded, moved := some s.dev.epoch }
    { e with
      st := (s.setObj v.1 (some o1)).inc (R.PLACE_TIER_EVICT + 0x20 * (o.tier - 1))
      pages := e.pages + n, objects := e.objects + 1, tag := if e.tag = 0 then s.objTag v.1 else e.tag }
  else
    match s.lowerPlace o.tier (instIsle o.tier o.inst) n c with
    | none => e
    | some (t', i') =>
      let mv : Move := { toTier := t', toInst := i', cls := c, requester := owner, dec := some dec }
      { e with
        st := ((s.setObj v.1 (some { o with res := .movingDown, move := some mv })).inc (R.PLACE_TIER_EVICT + 0x20 * (o.tier - 1))).creditMove v.1
        pages := e.pages + n, objects := e.objects + 1, bytes := e.bytes + o.size
        tag := if e.bytes = 0 then s.objTag v.1 else e.tag, left := e.left + 1, dst := placeByte t' i' }

/-- Evict victims in order until `need` pages are won or none is left (R138). -/
def evictList (dec c owner need : Nat) (e : Evicted) : List (Nat × Obj) → Evicted
  | [] => e
  | v :: r => if need ≤ e.pages then e else evictList dec c owner need (evictOne dec c owner e v) r

/-- Make room for `n` pages in a tier instance for a request of class `c` (R138): whether it suffices, and the state with
the evictions started, their decision registered or its record written (R154). -/
def State.makeRoom (s : State) (t i c owner n : Nat) : Bool × State :=
  let have0 := s.availIn t i c
  if n ≤ have0 then (true, s)
  else
    let e := evictList s.place.nextDec c owner (n - have0) { st := s } (s.victims t i c)
    let d : Decision := { epoch := s.dev.epoch, kind := 2, reason := 2, cls := c, owner := owner, src := placeByte t i,
                          dst := e.dst, objects := e.objects, bytes := e.bytes, tag := e.tag, redirected := e.redirected,
                          metric := mibOf n, target := mibOf have0, since := s.tb3, left := e.left,
                          result := if e.redirected = 0 then ccOk else ccRedirected }
    let s1 := if e.left = 0 then e.st.noteDecision d else (e.st.openDec d).2
    (decide (n - have0 ≤ e.pages), s1.placeRegs)

/-- Find room for `n` pages of class `c` in the tiers given, in their order, on an Isle by preference (R138, R139): the tier and the instance
if there is one, and the state with the evictions started. -/
def State.findRoomFrom (s : State) (isle c owner n : Nat) : List Nat → Option (Nat × Nat) × State
  | [] => (none, s)
  | t :: r =>
    let i := s.bestInst t isle c
    let m := s.makeRoom t i c owner n
    if m.1 then (some (t, i), m.2) else m.2.findRoomFrom isle c owner n r

/-- The tiers from `t` downwards that a request may be placed in (R118, R139, R143): T4 only for a mutable object, not for class 0, not while
it fails. -/
def State.tiersFrom (s : State) (t c : Nat) (immutable : Bool) : List Nat :=
  [1, 2, 3, 4].filter fun x => decide (t ≤ x) && !(x == 4 && (immutable || c == 0 || s.place.t4Failing))

/-- Room from tier `t` downwards; a request that finds none ends with NO_SPACE, which is counted at tier `t` (R139, R144). -/
def State.findRoom (s : State) (t isle c owner n : Nat) (immutable : Bool) : Option (Nat × Nat) × State :=
  let r := s.findRoomFrom isle c owner n (s.tiersFrom t c immutable)
  match r.1 with
  | some p => (some p, r.2)
  | none => (none, r.2.countCode t ccNoSpace)

/-- Allocate a system object at its tier and Isle, or below (R137, R139); it is never moved. Where there is no room nothing is allocated, and
the id is 0. -/
def State.allocSystem (s : State) (size owner tier isle : Nat) : Nat × State :=
  match s.findRoom tier isle 0 owner (pagesOf size) false with
  | (none, s1) => (0, s1)
  | (some (t, i), s1) =>
    s1.alloc { size := size, cls := 0, confCls := 0, hint := tier, owner := owner, system := true, res := .resident, tier := t, inst := i }

/-- An access of `n` bytes over some paths touches its object and is counted (R138, R148). -/
def State.touch (s : State) (id n : Nat) (paths : List Nat) : State :=
  match s.obj id with
  | none => s
  | some o =>
    let s1 := s.setObj id (some { o with touch := s.dev.epoch })
    let z : Nat → Nat := fun _ => 0
    let h := if o.hint = 0 then o.tier else o.hint
    { s1 with place := { s1.place with
        touches := SMap.update z s1.place.touches h (· + 1)
        hits := if o.tier ≤ h ∧ o.res ≠ .unloaded then SMap.update z s1.place.hits h (· + 1) else s1.place.hits
        bytes := addPaths s1.place.bytes paths n } }

/-- Is the object of a placed page one that was freed after stamp `began` (R132). -/
def State.staleSince (s : State) (page began : Nat) : Bool :=
  s.place.freed.any fun e => decide (e.1 ≤ page) && decide (page < e.1 + e.2.1) && decide (began ≤ e.2.2)

/-- Does any of the 64-byte units of an access carry a poison mark (R146). -/
def State.poisoned (s : State) (a n : Nat) : Bool :=
  (upTo ((a % 64 + n + 63) / 64)).any fun k => SMap.get (fun _ => false) s.place.poison (a / 64 + k)

/-- A store clears the marks of the units it writes whole (R146). -/
def State.unpoison (s : State) (a n : Nat) : State :=
  { s with place := { s.place with poison := SMap.clearRange s.place.poison ((a + 63) / 64) ((a + n) / 64 - (a + 63) / 64) } }

/-- What an access to the Placed Range meets before the memory answers (R132): its object, or a completion code.
`began`: stamp of the Islet's assignment for an Islet's access; `tag`: the tag a transfer carries, if it names an object. -/
def State.checkPlaced (s : State) (a : Nat) (began : Option Nat) (tag : Option Nat) : Nat × Option (Nat × Obj) :=
  let p := placedPage a
  let stale := match began with
    | some b => s.staleSince p b
    | none => false
  let staleTag := match tag with
    | some t => decide (t / 2 ^ 40 ≠ 0) && decide (s.gen (t / 2 ^ 40) ≠ bitsOf t 39 32)
    | none => false
  if stale || staleTag then (ccStale, none)
  else match s.objAtPage p with
    | none => (ccUnallocated, none)
    | some e => (ccOk, some e)

/-- A move that is under way has come further (R135): by how many pages is a free value. -/
def State.progress (s : State) (id : Nat) : State :=
  match s.obj id with
  | none => s
  | some o =>
    match o.move with
    | none => s
    | some m =>
      if m.paths.isEmpty ∨ o.res = .unloaded then s
      else (s.tick).setObj id (some { o with move := some { m with moved := max m.moved (min (pagesOf o.size) (m.moved + s.free.toNat % (pagesOf o.size + 1))) } })

/-- Is any of the bytes from `a` on a page that is in transfer now (R135). -/
def State.inTransfer (s : State) (a n : Nat) : Bool :=
  match s.objAtPage (placedPage a) with
  | none => false
  | some (id, o) =>
    match o.move with
    | none => false
    | some m => inPlaced a && !m.paths.isEmpty && decide (o.res ≠ .unloaded) && decide (placedPage a ≤ id + m.moved) && decide (id + m.moved ≤ placedPage (a + n - 1)) &&
        decide (m.moved < pagesOf o.size)

/-- A store to a page already moved is applied at the destination (R135). -/
def State.noteMovedStore (s : State) (a : Nat) : State :=
  match s.objAtPage (placedPage a) with
  | some (id, o) =>
    match o.move with
    | some m => if inPlaced a ∧ placedPage a < id + m.moved then s.setObj id (some { o with move := some { m with stores := m.stores + 1 } }) else s
    | none => s
  | none => s

/-- A request to T4 has succeeded or failed (R143): while the latest one failed the Pilot evicts nothing into T4. -/
def State.noteT4 (s : State) (t : Nat) (ok : Bool) : State :=
  if t = 4 then { s with place := { s.place with t4Failing := !ok } } else s

/-- An access to an UNLOADED object starts its load into T3 (R135, R136); where there is no room the load cannot start. -/
def State.startLoad (s : State) (id cls owner reason metric : Nat) : State :=
  match s.obj id with
  | none => s
  | some o =>
    if o.res = .unloaded ∧ o.move.isNone then
      match s.findRoom 3 o.home cls owner (pagesOf o.size) true with
      | (some (_, i), s1) =>
        let d : Decision := { epoch := s.dev.epoch, kind := 1, reason := reason, cls := cls, owner := owner, src := 128 * o.home + 5,
                              dst := placeByte 3 i, objects := 1, bytes := o.size, tag := s.objTag id, metric := metric, since := s.tb3,
                              left := 1 }
        let r := s1.openDec d
        ((r.2.setObj id (some { o with move := some { toTier := 3, toInst := i, cls := cls, requester := owner, dec := some r.1 } })).creditMove id).placeRegs.readPayload id cls o.digest
      | (none, s1) => s1
    else s

/-- The bytes at their source of the transfers that an object list has in flight and another had not, on an Isle (R150); a transfer from T4
belongs to the Isle of its destination. -/
def startedOn (before after : List (Nat × Obj)) (isle : Nat) : Nat :=
  after.foldl (fun n e =>
    let was : Bool := before.any fun b => b.1 == e.1 && b.2.move.isSome
    match e.2.move with
    | some m =>
      let k := if e.2.tier = 4 then instIsle m.toTier m.toInst else instIsle e.2.tier e.2.inst
      if !was ∧ k = isle ∧ e.2.res ≠ .unloaded then n + e.2.size else n
    | none => n) 0

/-- The room that a pending request takes (R138, R139): at the tier asked for, else at the highest lower one with room that is no lower than the
object's own, where it asks for a move up. -/
def State.launchRoom (s : State) (o : Obj) (m : Move) : Option (Nat × Nat) × State :=
  let n := pagesOf o.size
  let below := (s.tiersFrom m.toTier m.cls o.immutable).filter fun x =>
    decide (m.toTier < x) && (decide (o.tier < m.toTier) || decide (x < o.tier))
  match s.makeRoom m.toTier m.toInst m.cls m.requester n with
  | (true, s1) => (some (m.toTier, m.toInst), s1)
  | (false, s1) => s1.findRoomFrom (instIsle m.toTier m.toInst) m.cls m.requester n below

/-- The transfer that an object's pending request asks for starts (R136, R138, R139): at the tier asked for, else at the highest lower one
with room. One for which only the object's own tier or a lower one has room, or none, ends without a move. -/
def State.launch (s : State) (id : Nat) : State :=
  match s.obj id with
  | none => s
  | some o =>
    match o.promo with
    | none => s
    | some m =>
      if o.res ≠ .resident ∨ o.move.isSome then s
      else
        match (s.setObj id (some { o with promo := none })).launchRoom o m with
        | (some (t, i), s1) =>
          let mv := { m with toTier := t, toInst := i, lower := decide (t ≠ m.toTier) }
          match s1.obj id with
          | some o1 => ((s1.setObj id (some { o1 with res := if t < o.tier then .movingUp else .movingDown, move := some mv })).creditMove id).placeRegs
          | none => s1
        | (none, s1) =>
          if m.toTier ≤ o.tier then s1.closeMove id { m with toTier := o.tier, toInst := o.inst } ccLower false
          else (s1.countCode m.toTier ccNoSpace).closeMove id m ccNoSpace false

/-- A pending request starts unless it is a rebalancing move that does not fit the budget of an Isle (R150): that one is left to a later
epoch. -/
def State.tryLaunch (s : State) (id : Nat) : State :=
  match (s.obj id).bind fun o => o.promo with
  | none => s
  | some m =>
    let s1 := s.launch id
    if !m.rebal then s1
    else
      let budget := s.cfgFld R.PLACE_MIG_BUDGET R.PLACE_MIG_BUDGET_mib * 0x100000
      let use := fun (k : Nat) => SMap.get (fun _ => 0) s.place.migBytes k + startedOn s.place.list s1.place.list k
      if use 0 ≤ budget ∧ use 1 ≤ budget then
        { s1 with place := { s1.place with migBytes := SMap.set (fun _ => 0) (SMap.set (fun _ => 0) s1.place.migBytes 0 (use 0)) 1 (use 1) } }
      else s

/-- The credits that a pending request's first part will take (R140). -/
def Obj.promoPaths (o : Obj) : List Nat :=
  match o.promo with
  | some m => o.movePaths m
  | none => []

/-- Request a move of an object (R133, R136, R138): during an eviction it waits for the write-back; where no credit is free it waits
pending; an object that is where it is asked for does not move, nor does a pinned or a system one (R137, R152). -/
def State.requestMove (s : State) (id t i cls owner reason metric target : Nat) (rebal : Bool) : State :=
  match s.obj id with
  | none => s
  | some o =>
    let d : Decision := { epoch := s.dev.epoch, kind := 1, reason := reason, cls := cls, owner := owner,
                          src := placeByte o.tier o.inst, dst := placeByte t i, objects := 1, bytes := o.size,
                          tag := s.objTag id, metric := metric, target := target, since := s.tb3, left := 1 }
    let mv : Move := { toTier := t, toInst := i, cls := cls, requester := owner, rebal := rebal }
    if o.pinned ∨ o.system ∨ o.promo.isSome then s
    else if o.res = .movingDown then
      let r := s.openDec d
      (r.2.inc R.PLACE_PROMOTE_WAIT).setObj id (some { o with promo := some { mv with afterWb := true, dec := some r.1 } })
    else if o.res = .resident ∧ o.move.isNone ∧ (o.tier ≠ t ∨ o.inst ≠ i) then
      let r := s.openDec d
      let o1 := { o with promo := some { mv with dec := some r.1 } }
      let s1 := r.2.setObj id (some o1)
      if s1.credFree o1.promoPaths cls then s1.tryLaunch id else s1.waitCredit (.move id) o1.promoPaths
    else s

/-- A move that waits for credits tries again (R141): its credits are taken where they are free now. -/
def State.grantMove (s : State) (id : Nat) : State :=
  let drop : State := { s with place := { s.place with waiters := s.place.waiters.filter fun w => w ≠ .move id } }
  match s.obj id with
  | none => drop
  | some o =>
    match o.move with
    | some m => if !m.paths.isEmpty then drop else if s.credFree (o.movePaths m) m.cls then drop.creditMove id else s
    | none =>
      match o.promo with
      | some m => if s.credFree o.promoPaths m.cls then drop.tryLaunch id else s
      | none => drop

/-- The code a move that ends well completes with (R136, R139, R144). -/
def Move.okCode (m : Move) : Nat := if m.lower then ccLower else if m.afterWb then ccAfterWb else ccOk

/-- The bytes of a move, counted for every path it took (R148). -/
def State.countMoved (s : State) (paths : List Nat) (n : Nat) : State :=
  { s with place := { s.place with bytes := addPaths s.place.bytes paths n } }

/-- The end of a move's residency change (R133, R134): at the destination on success, at the source on an error; a relocation leaves
the object where it is, and so does one of its home copy. -/
def Obj.ended (o : Obj) (m : Move) (ok : Bool) (epoch : Nat) : Obj :=
  if !ok then { o with res := if o.res = .unloaded then .unloaded else .resident, move := none, cls := o.confCls }
  else if m.reloc.isSome then { o with res := .resident, move := none, moved := some epoch, cls := o.confCls }
  else { o with res := .resident, tier := m.toTier, inst := m.toInst, move := none, moved := some epoch,
                home := if m.toTier = 3 then m.toInst else o.home, cls := o.confCls, retried := false }

/-- A page that no object occupies any more retires (R145): it leaves the pool, it is counted, its record is written. -/
def State.retirePage (s : State) (r : Reloc) (id bytes : Nat) : State :=
  let key := (r.tier * 8 + r.inst) * 2 ^ 24 + r.page
  let s1 : State := { s with place := { s.place with retired := s.place.retired ++ [(r.tier, r.inst, r.page)], ce := SMap.del s.place.ce key } }
  ((s1.inc (R.PLACE_TIER_RETIRED + 0x20 * (r.tier - 1))).placeRegs).noteDecision
    { epoch := s.dev.epoch, kind := 6, reason := 6, cls := 0, owner := 0x85, src := placeByte r.tier r.inst, dst := placeByte r.tier r.inst
      objects := b2n (decide (bytes ≠ 0)), bytes := bytes, tag := if bytes = 0 then 0 else s.objTag id, metric := r.errors
      target := s.cfgFld R.PLACE_RETIRE_CE R.PLACE_RETIRE_CE_count, since := s.tb3, always := true }

/-- The relocation of an object from a page that retires (R133, R145, R146): MOVING_DOWN within its tier instance; an immutable object whose
only copy failed is reloaded from NAND instead. A page that no object occupies retires at once; a relocation that finds no room ends with
NO_SPACE, and the page stays (log entry 63). -/
def State.relocate (s : State) (r : Reloc) (id : Nat) : State :=
  match s.obj id with
  | none => s.retirePage r id 0
  | some o =>
    let there : Bool := decide (o.occupies r.tier r.inst ≠ 0)
    if o.move.isSome then s.setObj id (some { o with retire := o.retire ++ [r] })
    else if !there then s.retirePage r id 0
    else if o.immutable && r.unit.isSome && decide (o.tier = 3) then
      ((s.setObj id (some { o with res := .unloaded, moved := some s.dev.epoch })).startLoad id 0 o.owner 6 r.errors).retirePage r id o.size
    else
      let mv : Move := { toTier := r.tier, toInst := r.inst, cls := 0, requester := o.owner, reloc := some r }
      match s.makeRoom r.tier r.inst 0 o.owner (pagesOf o.size) with
      | (true, s1) =>
        match s1.obj id with
        | some o1 => ((s1.setObj id (some { o1 with res := .movingDown, move := some mv })).creditMove id).placeRegs
        | none => s1.countCode r.tier ccNoSpace
      | (false, s1) => s1.countCode r.tier ccNoSpace

/-- The relocations that waited for the end of an object's move. -/
def State.nextRetire (s : State) (id : Nat) : State :=
  match s.obj id with
  | none => s
  | some o => o.retire.foldl (fun (s : State) r => s.relocate r id) (s.setObj id (some { o with retire := [] }))

/-- A transfer of an object ends with a code (R133–R136, R143, R145): credits, the object's record, the counts, the decision; `atDest`: the request
that failed was one to the destination. A move that has not got its credits has not started. -/
def State.endMove (s : State) (id : Nat) (code : Nat) (atDest : Bool) : State :=
  match s.obj id with
  | none => s
  | some o =>
    match o.move with
    | none => s
    | some m =>
      if m.paths.isEmpty then s
      else
        let ok := decide (code < 0x10)
        let c := if code = ccOk then m.okCode else code
        let src := if o.res = .unloaded then 5 else o.tier
        let s0 := s.credAdd m.paths true
        let s1 := if ok then s0.countMoved m.paths o.size else s0.countCode (if atDest then m.toTier else src) code
        let s2 := if ok then (s1.noteT4 src true).noteT4 m.toTier true else s1.noteT4 (if atDest then m.toTier else src) false
        let s3 := (s2.setObj id (some (o.ended m ok s.dev.epoch))).closeMove id m (if o.freePending then ccCancelled else c) true
        if o.freePending then (o.retire ++ m.reloc.toList).foldl (fun (s : State) r => s.relocate r id) (s3.freeObj id)
        else
          let s4 := match m.reloc with
            | some r =>
              if ok then (if o.immutable ∧ r.unit.isSome then s3.clearMarks id o.size else s3).retirePage r id o.size else s3
            | none => s3.placeRegs
          let s5 := s4.nextRetire id
          match s5.obj id with
          | some q => match q.promo with
            | some p => if q.move.isSome then s5 else if s5.credFree q.promoPaths p.cls then s5.tryLaunch id else s5.waitCredit (.move id) q.promoPaths
            | none => s5
          | none => s5

/-- Unit slot `n`. -/
def State.nslot (s : State) (n : Nat) : NSlot := SMap.get (fun _ => ({} : NSlot)) s.units n

/-- Where an Islet's access to a recurrent state tensor of its unit goes (04 R103): a read to the committed copy, a write to the other one, at
whichever of the two it names (log entry 129). Any other address stands for itself. -/
def State.stateAddr (s : State) (slot : Option Nat) (a : Nat) (isWrite : Bool) : Nat :=
  match slot with
  | none => a
  | some n =>
    let u := s.nslot n
    match u.unit with
    | none => a
    | some x =>
      let span := pagesOf x.stateBytes * 0x10000
      let base := placedAddr x.stateObj
      if x.stateCount = 0 ∨ a < base ∨ base + 2 * span ≤ a then a
      else base + (if isWrite then 1 - u.committed else u.committed) * span + (a - base) % span

end Sys2Proof.Machine
end

