-- ==== Sys2Proof/Machine/IsletRegs.lean ====
section
/-! DEFINITION. An Islet's registers, its scalar operations and its addresses (spec 02 R29, R30, R35, R37–R42). -/
namespace Sys2Proof.Machine

/-- Islet `i`. -/
def State.islet (s : State) (i : Nat) : Islet := SMap.get (fun _ => Islet.init) s.islets i

/-- The state with Islet `i` replaced. -/
def State.setIslet (s : State) (i : Nat) (x : Islet) : State :=
  { s with islets := SMap.set (fun _ => Islet.init) s.islets i x }

/-- g[n]: g0 reads as zero (R29). -/
def Islet.gr (x : Islet) (n : Nat) : Word64 := if n = 0 then 0 else SMap.get (fun _ => 0) x.g n
/-- v[n]. -/
def Islet.vr (x : Islet) (n : Nat) : VReg := SMap.get (fun _ => 0) x.v n
/-- An accumulator of zeros. -/
def accZero : Acc := List.replicate 64 0
/-- t[n]. -/
def Islet.tr (x : Islet) (n : Nat) : Acc := SMap.get (fun _ => accZero) x.t n
/-- p[n]: p0 reads as all ones (R29). -/
def Islet.pr (x : Islet) (n : Nat) : Word64 := if n = 0 then BitVec.allOnes 64 else SMap.get (fun _ => 0) x.p n

/-- Write g[n]; writes to g0 are discarded (R29). -/
def Islet.setG (x : Islet) (n : Nat) (v : Word64) : Islet :=
  if n = 0 then x else { x with g := SMap.set (fun _ => 0) x.g n v }
/-- Write v[n]. -/
def Islet.setV (x : Islet) (n : Nat) (v : VReg) : Islet := { x with v := SMap.set (fun _ => 0) x.v n v }
/-- Write t[n]. -/
def Islet.setT (x : Islet) (n : Nat) (v : Acc) : Islet := { x with t := SMap.set (fun _ => accZero) x.t n v }
/-- Write p[n]; writes to p0 are discarded (R29). -/
def Islet.setP (x : Islet) (n : Nat) (v : Word64) : Islet :=
  if n = 0 then x else { x with p := SMap.set (fun _ => 0) x.p n v }

/-- A control register as stored. -/
def Islet.craw (x : Islet) (n : Nat) : Word64 := SMap.get (fun _ => 0) x.c n
/-- The state with a control register stored. -/
def Islet.setCraw (x : Islet) (n : Nat) (v : Word64) : Islet := { x with c := SMap.set (fun _ => 0) x.c n v }

/-- The value c0 of Islet `i` reads (R30, 19 R465). -/
def isletId (i : Nat) : Nat := i / 1536 * 2 ^ 15 + i / 512 * 2 ^ 12 + i

/-- c[n] as MFC reads it (R30). -/
def Islet.cr (x : Islet) (i epoch n : Nat) : Word64 :=
  if n = 0 then BitVec.ofNat 64 (isletId i)
  else if n = 1 then BitVec.ofNat 64 (b2n x.inHandler + 2 * b2n x.loopActive)
  else if n = 12 then BitVec.ofNat 64 x.cycle
  else if n = 13 then BitVec.ofNat 64 x.retired
  else if n = 14 then BitVec.ofNat 64 epoch
  else x.craw n

/-- c[n] written by MTC: a write to an RO register has no effect (R30). DESIGN CHOICE (log entry 144): c3, c10 and c11 keep all 64 bits written, those
outside their named fields too. -/
def Islet.setC (x : Islet) (n : Nat) (v : Word64) : Islet :=
  if n = 0 ∨ 12 ≤ n then x
  else if n = 1 then { x with inHandler := v.getLsbD 0 }
  else x.setCraw n v

/-- The predicate register a field selects, inverted if bit 3 is set (R35). -/
def Islet.predReg (x : Islet) (f : BitVec 4) : Word64 :=
  let v := x.pr (f.toNat % 8)
  if f.getLsbD 3 then ~~~v else v

/-- Does a slot run under its predicate (R35). -/
def Islet.predOn (x : Islet) (f : BitVec 4) : Bool := (x.predReg f).getLsbD 0

/-- The immediate of a scalar slot, sign-extended: imm21 in S0, imm14 in S1 (R36, R37). -/
def sImm (a : SArgs) : Int :=
  match a.slot with
  | .s0 => sext 21 a.imm.toNat
  | .s1 => sext 14 a.imm.toNat

/-- The immediate as a 64-bit value. -/
def sImm64 (a : SArgs) : Word64 := BitVec.ofInt 64 (sImm a)

/-- Ones in a 64-bit value. -/
def ones64 (v : Word64) : Nat := popcount 64 v.toNat

/-- The value a scalar operation writes to g[rd]: `a`, `b` the sources, `im` the immediate (R37). -/
def aluResult (op : SOp) (a b im : Word64) : Word64 :=
  let sh := b.toNat % 64
  let shi := im.toNat % 64
  match op with
  | .add => a + b
  | .sub => a - b
  | .and => a &&& b
  | .or => a ||| b
  | .xor => a ^^^ b
  | .shl => a <<< sh
  | .shr => a >>> sh
  | .sra => a.sshiftRight sh
  | .mul => a * b
  | .mulh => BitVec.ofInt 64 (a.toInt * b.toInt / (2 ^ 64 : Nat))
  | .slt => if a.slt b then 1 else 0
  | .sltu => if a.ult b then 1 else 0
  | .popc => BitVec.ofNat 64 (ones64 a)
  | .min => if a.slt b then a else b
  | .max => if a.slt b then b else a
  | .addi => a + im
  | .andi => a &&& im
  | .ori => a ||| im
  | .xori => a ^^^ im
  | .shli => a <<< shi
  | .shri => a >>> shi
  | .srai => a.sshiftRight shi
  | .lui => im <<< 21
  | .lih => (a &&& 0x000003FFFFFFFFFF) ||| (im <<< 42)
  | _ => 0

/-- The value a predicate-writing operation writes (R37). -/
def predResult (op : SOp) (a b p q : Word64) : Word64 :=
  let all := fun (c : Bool) => if c then BitVec.allOnes 64 else 0
  match op with
  | .peq => all (a == b)
  | .plt => all (a.slt b)
  | .pltu => all (a.ult b)
  | .pand => p &&& q
  | .por => p ||| q
  | .pnot => ~~~p
  | _ => 0

/-- Latency of a scalar result (R51). -/
def SOp.latency : SOp → Nat
  | .mul | .mulh => 3
  | _ => 1

/-- Where an Islet's address leads (R42, 19 R460–R462). -/
inductive Target
  | own (off : Nat)
  | sliver (j : Nat)
  | direct
  | placed
  | hostWin
  | peer (u x : Nat)
  | denied
  | unmapped
  deriving DecidableEq, Repr

/-- Device address of an Islet's sliver store (19 R460). -/
def sliverBase (i : Nat) : Nat := 0x10000000 + i * 0x10000

/-- Is an address in a direct window (19 R460). -/
def inDirect (a : Nat) : Bool :=
  (decide (0x20000000 ≤ a) && decide (a < 0x26000000)) || (decide (0x40000000 ≤ a) && decide (a < 0x60000000)) ||
  (decide (0x1000000000 ≤ a) && decide (a < 0x10C0000000))

/-- Where address `a` leads for Islet `i`; `test`: the device is in TEST; `own`, `count`: the unit's address and the
chain's count. -/
def targetOf (i a : Nat) (test : Bool) (own count : Nat) : Target :=
  if a < 0x10000 then .own a
  else if a < 0x10000000 then .denied
  else if a < 0x1C000000 then
    let j := (a - 0x10000000) / 0x10000
    if j = i then .own (a % 0x10000) else .sliver j
  else if inDirect a then (if test then .direct else .denied)
  else if inPlaced a then .placed
  else if 0x80000000000 ≤ a ∧ a < 0x100000000000 then (if test then .hostWin else .denied)
  else if 0x100000000000 ≤ a ∧ a < 0x500000000000 then
    let u := (a - 0x100000000000) / 0x40000000000
    if u = own ∨ count ≤ u then .unmapped else .peer u ((a - 0x100000000000) % 0x40000000000)
  else .unmapped

/-- Where an address leads for Islet `i` in a state. -/
def State.target (s : State) (i a : Nat) : Target :=
  targetOf i a (decide (s.dev.state = .test)) s.ownAddr s.unitCount

/-- log2 of the access width in bytes (R39). -/
def MIns.log2w (m : MIns) : Nat :=
  match m.op with
  | .vld | .vst => 6
  | _ => m.a.size.toNat

/-- The effective address (R39). -/
def Islet.ea (x : Islet) (m : MIns) : Nat :=
  (x.gr m.a.base.toNat + (x.gr m.a.index.toNat <<< m.log2w) + BitVec.ofInt 64 (sext 20 m.a.off.toNat)).toNat

/-- Is the operation a load, a store, a tow. -/
def MOp.isLoad : MOp → Bool
  | .ld | .ldu | .vld | .vlds => true
  | _ => false
/-- Is it a store. -/
def MOp.isStore : MOp → Bool
  | .st | .vst => true
  | _ => false
/-- Is it a tow. -/
def MOp.isTow : MOp → Bool
  | .towin | .towout => true
  | _ => false

/-- Far address, sliver offset, length and slot of a tow (R44). -/
def Islet.towArgs (x : Islet) (m : MIns) : Nat × Nat × Nat × Nat :=
  ((x.gr m.a.base.toNat).toNat, (x.gr m.a.index.toNat).toNat % 0x10000, m.a.off.toNat, m.a.size.toNat)

/-- The register value a load gives from the bytes read (R40). -/
def loadG (op : MOp) (size raw : Nat) : Word64 :=
  if op = .ld then BitVec.ofInt 64 (sext (8 * 2 ^ size) raw) else BitVec.ofNat 64 (raw % 2 ^ (8 * 2 ^ size))

/-- The vector value a VLD or VLDS gives (R40). -/
def loadV (op : MOp) (size raw : Nat) : VReg :=
  if op = .vld then BitVec.ofNat 512 raw else vecOf (8 * 2 ^ size) (fun _ => raw % 2 ^ (8 * 2 ^ size))

/-- Write a load's value to its register. -/
def Islet.writeLoad (x : Islet) (op : MOp) (size reg raw : Nat) : Islet :=
  match op with
  | .ld | .ldu => x.setG reg (loadG op size raw)
  | _ => x.setV reg (loadV op size raw)

/-- Key of a load's register. -/
def MOp.destKey (op : MOp) (reg : Nat) : Nat :=
  match op with
  | .ld | .ldu => keyG reg
  | _ => keyV reg

end Sys2Proof.Machine
end

