-- ==== Sys2Proof/Machine/Buoy.lean ====
section
/-! DEFINITION. The buoys as data (spec 02 R55–R58): values, arrivals, register views. Releasing the Islets that wait is in
Machine/Issue.lean. -/
namespace Sys2Proof.Machine

/-- Buoy `n`. -/
def State.buoy (s : State) (n : Nat) : Buoy := SMap.get (fun _ => Buoy.init) s.buoys n

/-- The state with buoy `n` replaced. -/
def State.setBuoy (s : State) (n : Nat) (b : Buoy) : State :=
  { s with buoys := SMap.set (fun _ => Buoy.init) s.buoys n b }

/-- An arrival by `who` (R56): it completes the phase when it makes arrivals reach participants. -/
def Buoy.arrive (b : Buoy) (who : Nat) : Buoy :=
  if b.participants ≤ b.arrivals + 1 then
    { b with arrivals := 0, value := (b.value + 1) % 2 ^ 32, lastSignaller := who }
  else { b with arrivals := b.arrivals + 1, lastSignaller := who }

/-- A signal of `v` by `who` to a COUNT buoy (R56). -/
def Buoy.signal (b : Buoy) (v who : Nat) : Buoy := { b with value := (b.value + v) % 2 ^ 32, lastSignaller := who }

/-- Has a BWAIT for target `g` been met (R56). -/
def Buoy.reached (b : Buoy) (g : Nat) : Bool := decide ((b.value + 2 ^ 32 - g % 2 ^ 32) % 2 ^ 32 < 2 ^ 31)

/-- A write of participants (R58). DESIGN CHOICE (log entry 149): a write that completes a phase leaves last_signaller as it was. -/
def Buoy.setParticipants (b : Buoy) (n : Nat) : Buoy :=
  if n ≠ 0 ∧ b.barrier ∧ n ≤ b.arrivals then
    { b with participants := n, arrivals := 0, value := (b.value + 1) % 2 ^ 32 }
  else { b with participants := n }

/-- What the four registers of a buoy read (R55). -/
def Buoy.read (b : Buoy) (k : Nat) : Nat :=
  if k = 0 then b.value
  else if k = 1 then b.arrivals * 2 ^ 16 + b.participants
  else if k = 2 then b.owner * 2 ^ 24 + b2n b.barrier * 2 ^ 16
  else b.waiting.length % 2 ^ 16 * 2 ^ 16 + b.lastSignaller

/-- A write of BUOY_CTL (R55): the mode stays while Islets wait. -/
def Buoy.setCtl (b : Buoy) (v : Nat) : Buoy :=
  { b with owner := bitsOf v 31 24, barrier := if b.waiting.isEmpty then bitOf v 16 else b.barrier }

/-- A buoy without an Islet among its waiters. -/
def Buoy.unwait (b : Buoy) (i : Nat) : Buoy := { b with waiting := b.waiting.filter (· ≠ i) }

end Sys2Proof.Machine
end

