-- ==== Sys2Proof/Machine/Issue.lean ====
section
/-! DEFINITION. Issuing a bundle (spec 02 R31–R62): stalls, exceptions, effects, the end of queued accesses and tows, and
the Islets that a buoy releases. -/
namespace Sys2Proof.Machine

/-- An exception (R60): ECAUSE, EADDR, ECODE2. `addr` is none where the spec names no address that it concerns: EADDR is then a free value
(log entry 85). -/
structure Exn where
  cause : Nat
  addr : Option Nat
  code2 : Nat := 0
  deriving DecidableEq, Repr

/-- An Islet that halts on an exception reports to the Pilot (R61): the invocation it runs for has a fault, the first one of
several, and the halt is counted (04 R122, R125). -/
def State.reportHalt (s : State) (i cause : Nat) : State :=
  match (s.islet i).assign with
  | none => s
  | some a =>
    let u := SMap.get (fun _ => ({} : NSlot)) s.units a.slot
    match u.inv with
    | none => s
    | some v =>
      let s1 := (s.inc R.NET_ISLET_HALTS).setReg R.NET_LAST_FAULT (cause * 2 ^ 24 + a.slot * 2 ^ 16 + 2 ^ 15 + i)
      let f := match v.fault with
        | some e => some e
        | none => some (cause, i)
      { s1 with units := SMap.set (fun _ => ({} : NSlot)) s1.units a.slot { u with inv := some { v with fault := f } } }

/-- Take an exception (R61): EPC, ECAUSE, EADDR and ECODE2 are set; the Islet continues at EVEC, or halts on DOUBLE_FAULT
or without a handler. Nothing else of the bundle remains (R34). A bundle issued by DBG_STEP leaves the Islet halted (R67). DESIGN
CHOICE (log entry 150): the entry costs one cycle, and EVEC is taken as the pc as it stands, bits [4:0] included. -/
def State.takeExn (s0 : State) (i epc : Nat) (e : Exn) : State :=
  let x := s0.islet i
  let w := fun (n : Nat) => BitVec.ofNat 64 n
  let ea := match e.addr with
    | some a => w a
    | none => s0.free
  let s := match e.addr with
    | some _ => s0
    | none => s0.tick
  let x0 := { x with held := none, passBp := false }
  if x.inHandler then
    let x1 := (((x0.setCraw 2 (w epc)).setCraw 3 (w 0xB)).setCraw 4 ea).setCraw 5 (w e.cause)
    (s.setIslet i { x1 with halted := true, haltCause := 6, stepping := false }).reportHalt i 0xB
  else
    let x1 := (((x0.setCraw 2 (w epc)).setCraw 3 (w e.cause)).setCraw 4 ea).setCraw 5 (w e.code2)
    if x.craw 6 = 0 then
      (s.setIslet i { x1 with halted := true, haltCause := 5, stepping := false }).reportHalt i e.cause
    else
      let x2 := { x1 with inHandler := true, pc := (x.craw 6).toNat % 2 ^ 48, cycle := x.cycle + 1 }
      s.setIslet i (if x.stepping then { x2 with halted := true, haltCause := 4, stepping := false } else x2)

/-- Is any 64-byte unit of the Islet's own sliver store in `[off, off + n)` uncorrectable. -/
def State.sliverBad (s : State) (i off n : Nat) : Bool := s.poisoned (sliverBase i + off) n

/-- Is the object at a placed address immutable. -/
def State.immutableAt (s : State) (a : Nat) : Bool :=
  match s.objAtPage (placedPage a) with
  | some e => e.2.immutable
  | none => false

/-- What an address raises by itself (R42). -/
def Target.exn (t : Target) (a : Nat) : Option Exn :=
  match t with
  | .denied => some ⟨5, some a, 0⟩
  | .unmapped => some ⟨4, some a, 0⟩
  | _ => none

/-- The exception the M slot raises (R41, R42, R44), if any; alignment is tested first (log entry 6). -/
def State.mExn (s : State) (i : Nat) (m : MIns) : Option Exn :=
  let x := s.islet i
  if m.op.isTow then
    let (far, off, len, _) := x.towArgs m
    let t := s.target i far
    if far % 64 ≠ 0 ∨ off % 64 ≠ 0 ∨ len % 64 ≠ 0 ∨ len < 64 ∨ 65536 < len then some ⟨3, some far, 0⟩
    else if 65536 < off + len then some ⟨4, some far, 0⟩
    else match t with
      | .own _ => some ⟨4, some far, 0⟩
      | .placed => if m.op = .towout ∧ s.immutableAt far then some ⟨5, some far, 0⟩ else none
      | t => t.exn far
  else if m.op.isLoad ∨ m.op.isStore then
    let a := x.ea m
    let n := 2 ^ m.log2w
    if a % n ≠ 0 then some ⟨3, some a, 0⟩
    else match s.target i a with
      | .own off => if m.op.isLoad ∧ s.sliverBad i off n then some ⟨8, some a, 0⟩ else none
      | .placed => if m.op.isStore ∧ s.immutableAt a then some ⟨5, some a, 0⟩ else none
      | t => t.exn a
  else none

/-- The exception of a scalar slot (R37). -/
def sExn (x : Islet) (sl : SIns) : Option Exn :=
  match sl.op with
  | .jr | .callr =>
    let a := (x.gr sl.a.rs1.toNat).toNat
    if a % 32 ≠ 0 then some ⟨3, some a, 0⟩ else none
  | _ => none

/-- Buoy a T slot names (R56). -/
def Islet.buoyOf (x : Islet) (t : TIns) : Nat :=
  ((x.gr t.b.rb.toNat).toNat + t.b.imm.toNat) % 65536

/-- The exception of a buoy operation (R56). -/
def State.tExn (s : State) (x : Islet) (t : TIns) : Option Exn :=
  let n := x.buoyOf t
  let b := s.buoy n
  let bad := some (Exn.mk 5 none n)
  let foreign := decide (b.owner ≠ bitsOf (x.craw 15).toNat 23 16)
  match t.op with
  | .bsig | .bset => if foreign || b.barrier then bad else none
  | .barr | .barv => if foreign || !b.barrier || decide (b.participants = 0) then bad else none
  | .bwait | .bpoll => if foreign then bad else none
  | _ => none

/-- Is a slot active: not its NOP, and its predicate true; of the V slot, an element enabled (R35). -/
structure Active where
  s0 : Bool
  s1 : Bool
  m : Bool
  v : Bool
  t : Bool

/-- The active slots of a bundle. -/
def Islet.active (x : Islet) (b : Bundle) : Active :=
  { s0 := decide (b.s0.op ≠ .nop) && x.predOn b.s0.a.pred
    s1 := decide (b.s1.op ≠ .nop) && x.predOn b.s1.a.pred
    m := decide (b.m.op ≠ .nop) && x.predOn b.m.a.pred
    v := match b.v.op, EType.ofCode b.v.a.etype.toNat with
      | some op, some t => vEnabled op t b.v.a.imm.toNat (x.predReg b.v.a.pred)
      | _, _ => false
    t := decide (b.t.op ≠ .nop) && x.predOn b.t.t.pred }

/-- The first exception of the active slots in slot order (log entry 12). -/
def State.slotExn (s : State) (i : Nat) (b : Bundle) (a : Active) : Option Exn :=
  let x := s.islet i
  match (if a.s0 then sExn x b.s0 else none) with
  | some e => some e
  | none =>
    match (if a.m then s.mExn i b.m else none) with
    | some e => some e
    | none => if a.t then s.tExn x b.t else none

/-- Sources of the active slots and of the predicates. -/
def Bundle.srcs (b : Bundle) (a : Active) : List Nat :=
  (if a.s0 then b.s0.srcs else []) ++ (if a.s1 then b.s1.srcs else []) ++ (if a.m then b.m.srcs else []) ++
  (if a.v then b.v.srcs else []) ++ (if a.t then b.t.srcs else [])

/-- The predicate registers a bundle reads. -/
def Bundle.predKeys (b : Bundle) : List Nat :=
  [predKey b.s0.a.pred, predKey b.s1.a.pred, predKey b.m.a.pred, predKey b.v.a.pred, predKey b.t.t.pred]

/-- Destinations of the active slots. -/
def Bundle.dests (b : Bundle) (a : Active) : List Nat :=
  (if a.s0 then b.s0.dests else []) ++ (if a.s1 then b.s1.dests else []) ++ (if a.m then b.m.dests else []) ++
  (if a.v then b.v.dests else []) ++ (if a.t then b.t.dests else [])

/-- Is a queued load still to write one of the registers (R32, R43). -/
def Islet.loadPending (x : Islet) (ks : List Nat) : Bool :=
  x.loads.any fun l => ks.contains (l.op.destKey l.reg) && decide (l.op.destKey l.reg ≠ 0)

/-- Key under which the readiness of an accumulator for a further TMMA stands: TMMAs into one accumulator follow each other
at the issue interval (R49). -/
def keyAcc (n : Nat) : Nat := 200 + n

/-- Cycle from which register `k` is ready. -/
def Islet.readyAt (x : Islet) (k : Nat) : Nat := SMap.get (fun _ => 0) x.ready k

/-- The cycle in which a bundle issues (R32, R49, R51, R89): registers ready, engines free. DESIGN CHOICE (log entry 145): a result that g0 or p0
discards makes it not ready like any other, a queued load to g0 does not. -/
def Islet.issueCycle (x : Islet) (b : Bundle) (a : Active) : Nat :=
  let ks := b.srcs a ++ b.predKeys ++
    (if a.t ∧ b.t.op = .tmma then (b.dests { a with t := false }) ++ [keyAcc b.t.t.td.toNat] else b.dests a)
  let c := ks.foldl (fun c k => max c (x.readyAt k)) x.cycle
  let c := if a.v then max c x.vNext else c
  if a.t ∧ b.t.op = .tmma then max c x.tNext else c

/-- Deadline class of an Islet's requests: that of its assignment's tag (R30). -/
def Islet.dclass (x : Islet) : Nat := bitsOf (x.craw 15).toNat 31 28

/-- The credit paths of an access (05 R140). -/
def State.accessPaths (s : State) (i a : Nat) : List Nat :=
  match s.target i a with
  | .placed =>
    match s.objAtPage (placedPage a) with
    | some e => State.objPaths (i / 1536) e.2 (placedPage a - e.1)
    | none => []
  | .hostWin => [12]
  | _ => []

/-- The parts of at most 4,096 bytes of a transfer (05 R140, 13 R381): offsets and lengths. -/
def parts (len : Nat) : List (Nat × Nat) :=
  (upTo ((len + 4095) / 4096)).map fun k => (4096 * k, min 4096 (len - 4096 * k))

/-- The credits of a tow, those of each of its parts (05 R140). -/
def State.towPaths (s : State) (i far len : Nat) : List Nat := (parts len).flatMap fun p => s.accessPaths i (far + p.1)

/-- Where an access of Islet `i` at `a` goes (04 R103). -/
def State.goesTo (s : State) (i a : Nat) (isWrite : Bool) : Nat :=
  s.stateAddr ((s.islet i).assign.map fun e => e.slot) a isWrite

/-- Does an address reach the Islet's own sliver store. -/
def Target.isOwn : Target → Bool
  | .own _ => true
  | _ => false

/-- Does the M slot stall its bundle: load queue or store buffer full, tow slot busy (R43, R44). -/
def State.mFull (s : State) (i : Nat) (m : MIns) : Bool :=
  let x := s.islet i
  if m.op.isTow then
    let (_, _, _, k) := x.towArgs m
    (SMap.get (fun _ => ({} : Tow)) x.tows k).busy
  else if m.op.isLoad ∨ m.op.isStore then
    if (s.target i (x.ea m)).isOwn then false
    else if m.op.isLoad then decide (16 ≤ x.loads.length) else decide (8 ≤ x.stores.length)
  else false

/-- Does the M slot's request find no credit that it may use (05 R140). -/
def State.mNoCredit (s : State) (i : Nat) (m : MIns) : Bool :=
  let x := s.islet i
  if m.op.isTow then
    let (far, _, len, _) := x.towArgs m
    !s.credFree (s.towPaths i (s.goesTo i far (decide (m.op = .towout))) len) x.dclass
  else if m.op.isLoad ∨ m.op.isStore then
    let a := x.ea m
    if (s.target i a).isOwn then false else !s.credFree (s.accessPaths i (s.goesTo i a m.op.isStore)) x.dclass
  else false

/-- A tow slot. -/
def Islet.tow (x : Islet) (k : Nat) : Tow := SMap.get (fun _ => ({} : Tow)) x.tows k

/-- The tow slots a TWAIT names (R40). -/
def twaitSlots (m : MIns) : List Nat := (upTo 8).filter fun k => bitOf m.a.off.toNat k

/-- The value TWAIT returns (R40). -/
def Islet.twaitValue (x : Islet) (m : MIns) : Word64 :=
  let bad := (twaitSlots m).filter fun k => (x.tow k).err
  let code := match bad with
    | k :: _ => (x.tow k).code
    | [] => 0
  BitVec.ofNat 64 (bad.foldl (fun n k => n + 2 ^ k) 0 + code * 256)

/-- The value TSTAT returns (R40). -/
def Islet.tstatValue (x : Islet) : Word64 :=
  BitVec.ofNat 64 ((upTo 8).foldl (fun n k => n + b2n (x.tow k).busy * 2 ^ k + b2n (x.tow k).err * 2 ^ (k + 8)) 0)

/-- Does the bundle order the Islet's posted stores: FENCE with the stores bit, END, a release (R52, R54, R37). -/
def Bundle.needsStores (b : Bundle) (a : Active) : Bool :=
  (a.s0 && (decide (b.s0.op = .endA) || (decide (b.s0.op = .fence) && bitOf b.s0.a.imm.toNat 1))) ||
  (a.t && (decide (b.t.op = .bsig) || decide (b.t.op = .bset) || decide (b.t.op = .barr) || decide (b.t.op = .barv)))

/-- Does the bundle order the Islet's queued loads: FENCE with the loads bit, END. -/
def Bundle.needsLoads (b : Bundle) (a : Active) : Bool :=
  a.s0 && (decide (b.s0.op = .endA) || (decide (b.s0.op = .fence) && bitOf b.s0.a.imm.toNat 0))

/-- Must the bundle wait for queued loads, posted stores or tows (R40, R52). -/
def Islet.mustDrain (x : Islet) (b : Bundle) (a : Active) : Bool :=
  (b.needsStores a && !x.stores.isEmpty) || (b.needsLoads a && !x.loads.isEmpty) ||
  (a.m && decide (b.m.op = .twait) && (twaitSlots b.m).any fun k => (x.tow k).busy)

/-- The older of two deferred errors. -/
def olderErr (a : Option DErr) (b : DErr) : Option DErr :=
  match a with
  | none => some b
  | some e => if b.seq < e.seq then some b else some e

/-- Exception of a deferred error (R60, R62). -/
def DErr.exn (e : DErr) : Exn :=
  if e.code = ccStale then ⟨7, some e.addr, e.code⟩ else ⟨6, some e.addr, e.code⟩

/-- The deferred errors a bundle raises (R62): of poisoned registers it reads; at FENCE with loads and END of every poisoned
register; of stores at FENCE with stores, at a release and END. -/
def Islet.dueErrs (x : Islet) (b : Bundle) (a : Active) : List DErr :=
  let ks := b.srcs a ++ b.predKeys
  ((x.poison.filter fun e => b.needsLoads a || (ks.contains e.1 && decide (e.1 ≠ 0))).map fun e => e.2) ++
  (if b.needsStores a then x.storeErrs else [])

/-- The Islet after its due errors are raised and discarded (R62). -/
def Islet.clearErrs (x : Islet) (b : Bundle) (a : Active) : Islet :=
  let ks := b.srcs a ++ b.predKeys
  { x with poison := x.poison.filter fun e => !(b.needsLoads a || (ks.contains e.1 && decide (e.1 ≠ 0)))
           storeErrs := if b.needsStores a then [] else x.storeErrs }

/-- Does a range of a watchpoint contain an access (R67). -/
def Islet.watchHit (x : Islet) (a n : Nat) (isStore : Bool) (k : Nat) : Bool :=
  let d := fun (o : Nat) => (SMap.get (fun _ => (0 : Word32)) x.dbg o).toNat
  let ctl := d (0x38 + 0x10 * k)
  let addr := d (0x30 + 0x10 * k) + (d (0x34 + 0x10 * k) % 0x10000) * 2 ^ 32
  let size := 2 ^ min (bitsOf ctl 7 2) 16
  let lo := addr / size * size
  bitOf ctl (if isStore then 1 else 0) && decide (a < lo + size) && decide (lo < a + n)

/-- Does a watchpoint halt before the bundle (R67). -/
def State.watched (s : State) (i : Nat) (b : Bundle) (a : Active) : Bool :=
  let x := s.islet i
  a.m && (b.m.op.isLoad || b.m.op.isStore) &&
    (let addr := x.ea b.m
     let n := 2 ^ b.m.log2w
     x.watchHit addr n b.m.op.isStore 0 || x.watchHit addr n b.m.op.isStore 1)

/-- Does an enabled breakpoint name the pc (R67). -/
def Islet.atBreak (x : Islet) : Bool :=
  (upTo 4).any fun n =>
    let lo := (SMap.get (fun _ => (0 : Word32)) x.dbg (0x10 + 8 * n)).toNat
    let hi := (SMap.get (fun _ => (0 : Word32)) x.dbg (0x14 + 8 * n)).toNat % 0x10000
    bitOf lo 0 && decide (lo / 32 * 32 + hi * 2 ^ 32 = x.pc)

/-- Operands of the V slot (R47). -/
def Islet.vsrc (x : Islet) (v : VIns) : VSrc :=
  { old := x.vr v.a.vd.toNat, a := x.vr v.a.va.toNat, b := x.vr v.a.vb.toNat, c := x.vr v.a.vc.toNat
    g := x.gr v.a.vc.toNat, sel := x.pr (v.a.vc.toNat % 8), pold := x.pr (v.a.vd.toNat % 8)
    pred := x.predReg v.a.pred }

/-- A quarter of an accumulator as a vector (VMFT, R47). -/
def accQuarter (acc : Acc) (q : Nat) : VReg := vecOf 32 fun l => nthD 0 acc (16 * q + l)

/-- The lanes of v[vd] that a quarter of an accumulator replaces under the predicate (VMFT, R35, R47). -/
def vmftResult (src : VSrc) (q : VReg) : VReg := (vecMap 32 (laneOn src.pred 32) src.old fun l => pureLane (elem 32 l q)).1

/-- An accumulator with a quarter taken from a vector, lane by lane under a predicate (VMTT, R35, R47). -/
def accSetQuarter (acc : Acc) (q : Nat) (v : VReg) (pred : Word64) : Acc :=
  (upTo 64).map fun e =>
    if e / 16 = q ∧ laneOn pred 32 (e % 16) then elem 32 (e % 16) v else nthD 0 acc e

/-- The V slot's effect on an Islet: results, flags, readiness from cycle `c` (R47, R51, R89, R90). -/
def doV (x0 x : Islet) (v : VIns) (c : Nat) : Islet × FpFlags :=
  match v.op, EType.ofCode v.a.etype.toNat with
  | some op, some t =>
    let src := x0.vsrc v
    let imm := v.a.imm.toNat
    let lat := c + vlatency op t
    let done := fun (y : Islet) (k : Nat) (f : FpFlags) =>
      ({ y with ready := SMap.put y.ready k lat, vNext := c + vinterval op t imm, poison := SMap.del y.poison k }, f)
    match op with
    | .vnop => (x, fpNone)
    | .vext =>
      let r := if imm % 64 < laneCount t then vext t imm src else Config.vextBeyond v.a.etype.toNat imm src.a
      done (x.setG v.a.vd.toNat r) (keyG v.a.vd.toNat) fpNone
    | .vcmpeq | .vcmplt | .vcmple =>
      let n := v.a.vd.toNat % 8
      done (x.setP n (vcmp op t src)) (keyP n) fpNone
    | .vmft =>
      let n := v.a.vd.toNat
      let q := accQuarter (x0.tr (v.a.va.toNat % 8)) (imm % 4)
      done (x.setV n (vmftResult src q)) (keyV n) fpNone
    | .vmtt =>
      let n := v.a.vd.toNat % 8
      let r := done (x.setT n (accSetQuarter (x0.tr n) (imm % 4) src.a src.pred)) (keyT n) fpNone
      ({ r.1 with ready := SMap.put r.1.ready (keyAcc n) lat }, r.2)
    | _ =>
      let n := v.a.vd.toNat
      let r := vexec op t v.a.sat imm src
      done (x.setV n r.1) (keyV n) r.2
  | _, _ => (x, fpNone)

/-- A scalar slot's effect on registers: sources from `x0`, results into `x` (R37). -/
def doS (x0 x : Islet) (i epoch c : Nat) (sl : SIns) : Islet :=
  let a := x0.gr sl.a.rs1.toNat
  let b := x0.gr sl.a.rs2.toNat
  let rd := sl.a.rd.toNat
  let lat := c + sl.op.latency
  let put := fun (y : Islet) (k : Nat) => { y with ready := SMap.put y.ready k lat, poison := SMap.del y.poison k }
  match sl.op with
  | .call | .callr => put (x.setG rd (BitVec.ofNat 64 (x0.pc + 32))) (keyG rd)
  | .mfc => put (x.setG rd ({ x0 with cycle := c }.cr i epoch (sl.a.imm.toNat % 16))) (keyG rd)
  | .mtc => x.setC (sl.a.imm.toNat % 16) a
  | .loop =>
    let lend := wrapTo 48 (x0.pc + sImm sl.a * 32)
    { ((x.setCraw 7 a).setCraw 8 (BitVec.ofNat 64 ((x0.pc + 32) % 2 ^ 48))).setCraw 9 (BitVec.ofNat 64 lend) with
      loopActive := true }
  | .eret => { x with inHandler := false }
  | op =>
    if op.writesPred then
      put (x.setP (rd % 8) (predResult op a b (x0.pr (sl.a.rs1.toNat % 8)) (x0.pr (sl.a.rs2.toNat % 8)))) (keyP (rd % 8))
    else if op.writesG then put (x.setG rd (aluResult op a b (sImm64 sl.a))) (keyG rd)
    else x

/-- Where a scalar slot sends the pc, if it does (R37, R38). DESIGN CHOICE (log entry 146): bits [63:48] of a JR or CALLR target are dropped. -/
def branchTo (x0 : Islet) (sl : SIns) : Option Nat :=
  let a := (x0.gr sl.a.rs1.toNat).toNat % 2 ^ 48
  match sl.op with
  | .br | .call => some (wrapTo 48 (x0.pc + sImm sl.a * 32))
  | .jr | .callr => some a
  | .eret => some ((x0.craw 2).toNat % 2 ^ 48)
  | .loop => if x0.gr sl.a.rs1.toNat = 0 then some (wrapTo 48 (x0.pc + sImm sl.a * 32 + 32)) else none
  | _ => none

/-- The pc and the loop state after a bundle that completes (R37, R38). -/
def advance (x0 x : Islet) (taken : Option Nat) : Islet :=
  match taken with
  | some p => { x with pc := p }
  | none =>
    if x0.loopActive ∧ (x0.craw 9).toNat % 2 ^ 48 = x0.pc then
      if 1 < (x0.craw 7).toNat then
        { x.setCraw 7 (x0.craw 7 - 1) with pc := (x0.craw 8).toNat % 2 ^ 48 }
      else { x.setCraw 7 0 with pc := (x0.pc + 32) % 2 ^ 48, loopActive := false }
    else { x with pc := (x0.pc + 32) % 2 ^ 48 }

/-- Send a peer request (13 R381–R383): it is in flight from now; a message that
cannot leave is queued to be answered with status ERROR (R377). -/
def State.sendRequest (s : State) (dest address : Nat) (isWrite : Bool) (data : List Byte) (len tag : Nat) (who : PeerWho) :
    State :=
  let seq := s.nextSeq dest
  let m : Msg := { dest := dest, src := s.ownAddr, cls := if isWrite then 3 else 2, address := address, seq := seq,
                   epoch := s.dev.epoch, tag := tag,
                   payload := if isWrite then data else record 8 [(0, 4, len)] }
  let r : PeerReq := { seq := seq, dest := dest, isWrite := isWrite, len := len, since := s.tb3, who := who }
  let s1 := s.useSeq dest
  let s2 := { s1 with chain := { s1.chain with reqs := s1.chain.reqs ++ [r] } }
  if s2.reachable dest then s2.sendOn (s2.portTo dest) m
  else { s2 with chain := { s2.chain with rxq := s2.chain.rxq ++ [(2, m)] } }

/-- Nothing waits for the answers of requests in flight any more. -/
def State.forget (s : State) (who : PeerWho) : State :=
  { s with chain := { s.chain with reqs := s.chain.reqs.map fun r => if r.who = who then { r with who := .forgotten } else r } }

/-- Read the next bytes, at most 4,096 of `n`, of a range in the chain head's Placed Range through its peer window, with a tag of object_id 0 (12
R349, 13 R381, R383). -/
def State.askHead (s : State) (a n : Nat) (who : PeerWho) : State :=
  s.sendRequest 0 a false [] (max 4 ((min 4096 n + 3) / 4 * 4)) (tagOf 0 0 0 0 0x86) who

/-- The tag of an Islet's peer request: its c15, which names no object (R30, 13 R383). -/
def Islet.tag (x : Islet) : Nat := (x.craw 15).toNat

/-- The requests of a tow to or from a peer. -/
def State.sendTow (s : State) (i slot : Nat) (t : Tow) (u x tag : Nat) : State :=
  (parts t.len).foldl (fun s p =>
    s.sendRequest u (x + p.1) (!t.isIn) (if t.isIn then [] else s.bytes (sliverBase i + t.off + p.1) p.2) p.2 tag
      (.tow i slot p.1)) s

/-- An access of `n` bytes at `a` by Islet `i` is issued: credits, the touch of its object, the load of an UNLOADED one, the progress of a
move (05 R135, R138, R140). -/
def State.noteAccess (s : State) (i a n : Nat) (paths : List Nat) : State :=
  let s1 := s.credAdd paths false
  match s1.target i a with
  | .placed =>
    match s1.objAtPage (placedPage a) with
    | some e => ((s1.touch e.1 n paths).startLoad e.1 (s.islet i).dclass (bitsOf (s.islet i).tag 23 16) 0xA 0).progress e.1
    | none => s1
  | _ => s1

/-- Is the object of a placed address UNLOADED, and can its load not start: the access ends with NO_SPACE (05 R135, R144). -/
def State.cannotLoad (s : State) (i a : Nat) : Nat :=
  match s.target i a with
  | .placed =>
    match s.objAtPage (placedPage a) with
    | some e => if e.2.res = .unloaded ∧ e.2.move.isNone then ccNoSpace else 0
    | none => 0
  | _ => 0

/-- The M slot's effect (R40, R43, R44): `x` is the Islet so far; the Islet is stored back by the caller. -/
def State.doM (s : State) (i : Nat) (x0 x : Islet) (m : MIns) (c : Nat) : State × Islet :=
  let rd := m.a.rd.toNat
  let put := fun (y : Islet) (k l : Nat) => { y with ready := SMap.put y.ready k (c + l), poison := SMap.del y.poison k }
  if m.op.isTow then
    let (far, off, len, k) := x0.towArgs m
    let loc := s.goesTo i far (decide (m.op = .towout))
    let paths := s.towPaths i loc len
    let s1 := s.noteAccess i loc len paths
    let t : Tow := { busy := true, isIn := decide (m.op = .towin), far := far, loc := loc, since := s.tb3, lost := s1.cannotLoad i loc, off := off,
                     len := len, paths := paths }
    let s2 := match s.target i far with
      | .peer u a => s1.sendTow i k t u a x0.tag
      | _ => s1
    (s2, { x with tows := SMap.put x.tows k t })
  else if m.op.isLoad then
    let a := x0.ea m
    let n := 2 ^ m.log2w
    match s.target i a with
    | .own off =>
      (s, put (x.writeLoad m.op m.a.size.toNat rd (s.load (sliverBase i + off) n)) (m.op.destKey rd) 2)
    | tg =>
      let loc := s.goesTo i a false
      let paths := s.accessPaths i loc
      let s1 := s.noteAccess i loc n paths
      let q : QLoad := { seq := x.seq, op := m.op, size := m.a.size.toNat, reg := rd, addr := a, loc := loc, since := s.tb3, err := s1.cannotLoad i loc,
                         paths := paths }
      let s2 := match tg with
        | .peer u y => s1.sendRequest u (y / 4 * 4) false [] (max 4 n) x0.tag (.load i x.seq)
        | _ => s1
      (s2, { x with loads := x.loads ++ [q], seq := x.seq + 1, poison := SMap.del x.poison (m.op.destKey rd) })
  else if m.op.isStore then
    let a := x0.ea m
    let n := 2 ^ m.log2w
    let bs := if m.op = .st then leBytes n (x0.gr rd).toNat else leBytes 64 (x0.vr rd).toNat
    match s.target i a with
    | .own off => (((s.store (sliverBase i + off) bs).unpoison (sliverBase i + off) n), x)
    | tg =>
      let loc := s.goesTo i a true
      let paths := s.accessPaths i loc
      let s1 := s.noteAccess i loc n paths
      let sent := match tg with
        | .peer _ _ => true
        | _ => false
      let s2 := match tg with
        | .peer u y => s1.sendRequest u y true bs n x0.tag (.store i x.seq)
        | _ => s1
      let q : QStore := { seq := x.seq, addr := a, loc := loc, since := s.tb3, err := s1.cannotLoad i loc, bytes := bs, paths := paths, sent := sent }
      (s2, { x with stores := x.stores ++ [q], seq := x.seq + 1 })
  else match m.op with
    | .twait => (s, put (x.setG rd (x0.twaitValue m)) (keyG rd) 1)
    | .tstat => (s, put (x.setG rd x0.tstatValue) (keyG rd) 1)
    | _ => (s, x)

/-- The T slot's effect at the bundle's end (R48, R49, R56); `got` is the value a finished wait observed. The buoy it
changed is answered. DESIGN CHOICE (log entry 148): the g results of BWAIT, BARR, BARV and BPOLL, like those of TWAIT and TSTAT, are ready one
cycle later; the table of R51 does not list them. -/
def State.doT (s : State) (i : Nat) (x0 x : Islet) (t : TIns) (c : Nat) (got : Word64) :
    State × Islet × FpFlags × Option Nat :=
  let put := fun (y : Islet) (k l : Nat) => { y with ready := SMap.put y.ready k (c + l), poison := SMap.del y.poison k }
  let n := x0.buoyOf t
  let b := s.buoy n
  let rs := (x0.gr t.b.rs.toNat).toNat % 2 ^ 32
  let rd := t.b.rd.toNat
  let td := t.t.td.toNat
  match t.op with
  | .tfill =>
    let y := put (x.setT td (List.replicate 64 (wrapTo 32 (sext 26 t.t.imm.toNat)))) (keyT td) 2
    (s, { y with ready := SMap.put y.ready (keyAcc td) (c + 2) }, fpNone, none)
  | .tmma =>
    match EType.ofCode t.t.etype.toNat with
    | none => (s, x, fpNone, none)
    | some ty =>
      let r := tmma ty t.t.sat (t.t.acc == 1) (x0.tr td) (x0.vr t.t.va.toNat) (x0.vr t.t.vb.toNat)
      (s, { put (x.setT td r.1) (keyT td) 10 with tNext := c + tmmaInterval ty }, r.2, none)
  | .bsig => (s.setBuoy n (b.signal rs i), x, fpNone, some n)
  | .bset => (s.setBuoy n { b with value := rs, lastSignaller := i }, x, fpNone, some n)
  | .barv => (s.setBuoy n (b.arrive i), put (x.setG rd (BitVec.ofNat 64 b.value)) (keyG rd) 1, fpNone, some n)
  | .bpoll => (s, put (x.setG rd (BitVec.ofNat 64 b.value)) (keyG rd) 1, fpNone, none)
  | .bwait | .barr => (s.setBuoy n (b.unwait i), put (x.setG rd got) (keyG rd) 1, fpNone, none)
  | _ => (s, x, fpNone, none)

/-- The end of an assignment (R37): the Islet is idle. -/
def Islet.ended (x : Islet) : Islet := { x with idle := true }

/-- Where the bundle's S0 slot sends the pc, if it runs and does (R37). -/
def takenBy (x0 : Islet) (b : Bundle) (a : Active) : Option Nat := if a.s0 then branchTo x0 b.s0 else none

/-- The Islet `x0` after the pc has moved and slot S0 has run, at epoch `e` (R32, R37, R38). -/
def afterS0 (x0 : Islet) (i e : Nat) (b : Bundle) (a : Active) (c : Nat) : Islet :=
  let xa := advance x0 x0 (takenBy x0 b a)
  if a.s0 then doS x0 xa i e c b.s0 else xa

/-- The same after slot S1. -/
def afterS1 (x0 : Islet) (i e : Nat) (b : Bundle) (a : Active) (c : Nat) : Islet :=
  let x := afterS0 x0 i e b a c
  if a.s1 then doS x0 x i e c b.s1 else x

/-- The state and the Islet after slot M too. -/
def State.afterM (s : State) (i : Nat) (b : Bundle) (a : Active) (c : Nat) : State × Islet :=
  let x := afterS1 (s.islet i) i s.dev.epoch b a c
  if a.m then s.doM i (s.islet i) x b.m c else (s, x)

/-- The state, the Islet and the flags after slot V too. -/
def State.afterV (s : State) (i : Nat) (b : Bundle) (a : Active) (c : Nat) : State × Islet × FpFlags :=
  let m := s.afterM i b a c
  if a.v then (m.1, doV (s.islet i) m.2 b.v c) else (m.1, m.2, fpNone)

/-- The state, the Islet, the flags and the buoy changed after slot T too; `got` is the value a finished buoy wait observed. -/
def State.afterT (s : State) (i : Nat) (b : Bundle) (a : Active) (c : Nat) (got : Word64) : State × Islet × FpFlags × Option Nat :=
  let v := s.afterV i b a c
  if a.t then v.1.doT i (s.islet i) v.2.1 b.t c got else (v.1, v.2.1, fpNone, none)

/-- The Islet of a completed bundle whose slots left `x`: flags, cycles, halts, the end of the assignment (R32, R37, R67, R68). -/
def Islet.finish (x : Islet) (b : Bundle) (a : Active) (c : Nat) (flags : FpFlags) (taken : Bool) : Islet :=
  let x2 := x.setCraw 10 (x.craw 10 ||| flags.setWidth 64)
  let x3 := { x2 with cycle := c + 1 + b2n taken, retired := x2.retired + 1, held := none, passBp := false }
  let x4 := if x3.stepping then { x3 with halted := true, haltCause := 4, stepping := false } else x3
  let x5 := if x4.haltReq then { x4 with halted := true, haltCause := 1, haltReq := false } else x4
  if a.s0 ∧ b.s0.op = .endA then x5.ended else x5

/-- Complete a bundle that issues in cycle `c` (R32, R34, R37, R38, R61): every slot reads the registers as they were, every
result is written, the pc moves; TRAP raises its exception after the other slots, END ends the assignment. The buoy the
bundle changed is answered. -/
def State.complete (s : State) (i : Nat) (b : Bundle) (a : Active) (c : Nat) (got : Word64) : State × Option Nat :=
  let x0 := s.islet i
  let t := s.afterT i b a c got
  let taken := takenBy x0 b a
  let s1 := t.1.setIslet i (t.2.1.finish b a c ((s.afterV i b a c).2.2 ||| t.2.2.1) taken.isSome)
  if a.s0 ∧ b.s0.op = .trap then
    (s1.takeExn i (advance x0 x0 taken).pc ⟨0xA, some x0.pc, (sImm64 b.s0.a).toNat⟩, t.2.2.2)
  else (s1, t.2.2.2)

/-- Hold a bundle that cannot end yet (R32). -/
def State.hold (s : State) (i : Nat) (h : Held) : State := s.setIslet i { s.islet i with held := some h }

/-- The credits that a bundle's request asks for. -/
def State.mPaths (s : State) (i : Nat) (m : MIns) : List Nat :=
  let x := s.islet i
  if m.op.isTow then
    let (far, _, len, _) := x.towArgs m
    s.towPaths i (s.goesTo i far (decide (m.op = .towout))) len
  else s.accessPaths i (s.goesTo i (x.ea m) m.op.isStore)

/-- Hold a bundle whose request finds no credit (05 R140, R141): the wait is counted once. -/
def State.awaitCredit (s : State) (i : Nat) (h : Held) : State :=
  let s1 := if h.credWait then s else s.waitCredit (.islet i) (s.mPaths i h.bundle.m)
  let s2 : State := if s1.place.waiters.contains (.islet i) then s1 else { s1 with place := { s1.place with waiters := s1.place.waiters ++ [.islet i] } }
  s2.hold i { h with credWait := true }

/-- Add an Islet to a buoy's waiters. -/
def State.addWaiter (s : State) (n i : Nat) : State :=
  let b := s.buoy n
  if b.waiting.contains i then s else s.setBuoy n { b with waiting := b.waiting ++ [i] }

/-- A held bundle that waits on buoy `n`: its wait begins in the cycle in which nothing else keeps it (R59). -/
def Held.waitOn (h : Held) (n c : Nat) : Held :=
  if h.buoy = some n then h else { h with buoy := some n, since := max h.since c }

/-- The buoy part of a bundle that is otherwise ready (R54, R56): a BWAIT not met waits; a BARR arrives once and waits for
the phase it arrived in. Answers `none` with the value observed when nothing is left to wait for. -/
def State.buoyWait (s : State) (i : Nat) (b : Bundle) (a : Active) (h : Held) : Option Held × Word64 × State × Option Nat :=
  let x := s.islet i
  let n := x.buoyOf b.t
  let y := s.buoy n
  match h.done with
  | some v => (none, v, s, none)
  | none =>
    if a.t ∧ b.t.op = .bwait then
      if y.reached (x.gr b.t.b.rs.toNat).toNat then (none, BitVec.ofNat 64 y.value, s, none)
      else (some (h.waitOn n (x.issueCycle b a)), 0, s.addWaiter n i, none)
    else if a.t ∧ b.t.op = .barr then
      match h.barrPhase with
      | some ph => if y.value ≠ ph then (none, BitVec.ofNat 64 y.value, s, none) else (some h, 0, s, none)
      | none =>
        let y1 := y.arrive i
        let s1 := s.setBuoy n y1
        if y1.value ≠ y.value then (none, BitVec.ofNat 64 y1.value, s1, some n)
        else (some { h.waitOn n (x.issueCycle b a) with barrPhase := some y.value }, 0, s1.addWaiter n i, none)
    else (none, 0, s, none)

/-- Issue a bundle, or try again one that was held (R32): it is held, or raises, or completes. The buoy it changed is
answered. -/
def State.tryBundle (s : State) (i : Nat) (h : Held) : State × Option Nat :=
  let b := h.bundle
  let x := s.islet i
  match b.illegal with
  | some k => (s.takeExn i x.pc ⟨1, some x.pc, k⟩, none)
  | none =>
  match b.conflict with
  | some k => (s.takeExn i x.pc ⟨2, some x.pc, k⟩, none)
  | none =>
  if x.loadPending b.predKeys then (s.hold i h, none)
  else
  let a := x.active b
  if x.loadPending (b.srcs a ++ b.dests a) then (s.hold i h, none)
  else
  let arrived := h.barrPhase.isSome
  match (if arrived then none else s.slotExn i b a) with
  | some e => (s.takeExn i x.pc e, none)
  | none =>
  if !arrived && ((a.m && s.mFull i b.m) || x.mustDrain b a) then (s.hold i h, none)
  else if !arrived && a.m && s.mNoCredit i b.m then (s.awaitCredit i h, none)
  else
  match (if arrived then none else (x.dueErrs b a).foldl olderErr none) with
  | some e => ((s.setIslet i (x.clearErrs b a)).takeExn i x.pc e.exn, none)
  | none =>
  if !arrived && !x.passBp && s.watched i b a then
    (s.setIslet i { x with halted := true, haltCause := 3, passBp := true, held := none, stepping := false }, none)
  else
  let w := s.buoyWait i b a h
  match w.1 with
  | some h1 => (w.2.2.1.hold i h1, w.2.2.2)
  | none =>
    let r := w.2.2.1.complete i b a (x.issueCycle b a) w.2.1
    (r.1, match w.2.2.2 with | some n => some n | none => r.2)

/-- Is a held bundle waiting for its buoy now released (R56). -/
def State.released (s : State) (i : Nat) : Bool :=
  let x := s.islet i
  match x.held with
  | none => false
  | some h =>
    match h.buoy with
    | none => false
    | some n =>
      match h.barrPhase with
      | some ph => decide ((s.buoy n).value ≠ ph)
      | none => (s.buoy n).reached (x.gr h.bundle.t.b.rs.toNat).toNat

/-- Does WATCH keep Islet `i`'s clock: the two clock-gating groups of Islets 0 to 31 (16 R422; log entry 80). -/
def watchIslet (i : Nat) : Bool := decide (i < 32)

/-- May Islet `i` issue: assigned, not halted, its clocks running (R67, 16 R422, R429, R433). -/
def State.canIssue (s : State) (i : Nat) : Bool :=
  let x := s.islet i
  !s.asleep && !x.idle && !x.halted && !x.gated && !s.pwr.shed && (decide (s.dev.state ≠ .watch) || watchIslet i) &&
  decide (SMap.get (fun _ => 0) s.pwr.relock (i / 512) = 0)

/-- Try again the held bundle of Islet `i`, `late` cycles on (log entry 14). A BARR that has arrived completes also in an
Islet asked to halt (R68). -/
def State.retry (s : State) (i late : Nat) : State × Option Nat :=
  let x := s.islet i
  match x.held with
  | none => (s, none)
  | some h =>
    if s.canIssue i then (s.setIslet i { x with cycle := x.cycle + late }).tryBundle i h else (s, none)

/-- Wake the Islets that wait on buoy `n` and are released, in the order they began to wait; the cycles they waited are a
free value (log entry 14). -/
def State.wakeBuoy (s : State) (n : Nat) : State :=
  (s.buoy n).waiting.foldl (fun s i => if s.released i then (s.tick.retry i (1 + s.free.toNat)).1 else s) s

/-- Wake the waiters of the buoy a bundle changed. -/
def wakeOf (r : State × Option Nat) : State :=
  match r.2 with
  | some n => r.1.wakeBuoy n
  | none => r.1

/-- The held bundles of the Islets that `may` names are tried again: their clocks run (16 R427, R429, R434). -/
def State.retryAll (s : State) (may : Nat → Bool) : State :=
  ((s.islets.map fun e => e.1).filter may).foldl (fun s i => wakeOf (s.tick.retry i s.free.toNat)) s

/-- Does the bundle that Islet `i` holds still find no credit (05 R140). -/
def State.creditless (s : State) (i : Nat) : Bool :=
  match (s.islet i).held with
  | none => false
  | some h => s.mNoCredit i h.bundle.m

/-- Islet `i` no longer waits for a credit. -/
def State.dropWaiter (s : State) (i : Nat) : State :=
  { s with place := { s.place with waiters := s.place.waiters.filter fun w => w ≠ .islet i } }

/-- Deadline class of a requester that waits for a credit (05 R141). -/
def State.waiterClass (s : State) (w : Waiter) : Nat :=
  match w with
  | .islet i => (s.islet i).dclass
  | .move id =>
    match s.obj id with
    | some o => match o.move, o.promo with
      | some m, _ => m.cls
      | none, some m => m.cls
      | none, none => 16
    | none => 16
  | .outside k => (SMap.get (fun _ => ((16, []) : Nat × List Nat)) s.place.outside k).1

/-- An access from outside that waits gets its credits where they are free: it goes on when its request is served. -/
def State.grantOutside (s : State) (k : Nat) : State :=
  let e := SMap.get (fun _ => ((16, []) : Nat × List Nat)) s.place.outside k
  if s.credFree e.2 e.1 then
    let s1 := s.credAdd e.2 false
    { s1 with place := { s1.place with granted := s1.place.granted ++ [(k, e.2)], outside := SMap.del s1.place.outside k
                                       waiters := s1.place.waiters.filter fun w => w ≠ .outside k } }
  else s

/-- A requester that waits for credits tries again. -/
def State.serveWaiter (s : State) (w : Waiter) : State :=
  match w with
  | .islet i =>
    if s.creditless i then s
    else if (s.islet i).held.isSome then wakeOf ((s.dropWaiter i).tick.retry i s.free.toNat)
    else s.dropWaiter i
  | .move id => s.grantMove id
  | .outside k => s.grantOutside k

/-- The requesters that wait for credits try again where a credit is free, the lower deadline_class first, the older wait within a class
(05 R141); the cycles an Islet waited are a free value (log entry 14). -/
def State.serveWaiters (s : State) : State :=
  (sortBy (fun a b => decide (s.waiterClass a < s.waiterClass b)) s.place.waiters).foldl State.serveWaiter s

/-- Credits and places of Islet `i` are free again: those who wait for credits are served in their order (05 R141), then its bundle, which
may have waited for the place, is tried again. -/
def State.freed (s : State) (i : Nat) : State := wakeOf ((s.serveWaiters).retry i 0)

/-- A signal by a fixed-function block to buoy `n` (R55, 04 R112). -/
def State.signalBuoy (s : State) (n v : Nat) : State :=
  (s.setBuoy n ((s.buoy n).signal v 0xFFF)).wakeBuoy n

/-- An Islet's clock stands at `cyc` at the least. -/
def State.isletAt (s : State) (i cyc : Nat) : State :=
  let x := s.islet i
  s.setIslet i { x with cycle := max x.cycle cyc }

/-- Do two byte ranges meet. -/
def overlap (a n b m : Nat) : Bool := decide (a < b + m) && decide (b < a + n)

/-- Bytes of a load. -/
def QLoad.bytes (l : QLoad) : Nat := if l.op = .vld then 64 else 2 ^ l.size

/-- The bytes at `a` as the Islet's earlier posted stores leave them (R52). -/
def overlay (stores : List QStore) (seq a : Nat) (b : List Byte) : List Byte :=
  stores.foldl (fun b q =>
    if q.seq < seq ∧ overlap a b.length q.loc q.bytes.length then
      (upTo b.length).map fun k =>
        if q.loc ≤ a + k ∧ a + k < q.loc + q.bytes.length then nthD 0 q.bytes (a + k - q.loc) else nthD 0 b k
    else b) b

/-- Code a placed access of an Islet meets (05 R132, R146). -/
def State.isletCode (s : State) (i a n : Nat) (isLoad : Bool) : Nat :=
  match s.target i a with
  | .placed =>
    let r := s.checkPlaced a (some (s.islet i).began) none
    if r.1 ≠ ccOk then r.1 else if isLoad && s.poisoned a n then ccEcc else ccOk
  | .own _ => ccOk
  | _ => if isLoad && s.poisoned a n then ccEcc else ccOk

/-- Device address of the memory behind an Islet's address. -/
def devAddr (i a : Nat) : Nat := if a < 0x10000 then sliverBase i + a else a

/-- The bytes a queued load reads: its data from outside where the memory is not the device's, else the memory. -/
def State.loadBytes (s : State) (i : Nat) (l : QLoad) (data : Option (List Byte)) : List Byte :=
  match data with
  | some d => d
  | none => s.bytes (devAddr i l.loc) l.bytes

/-- The tier that holds a placed address now, 4 for the host window, 0 for any other. -/
def State.tierAt (s : State) (a : Nat) : Nat :=
  match s.objAtPage (placedPage a) with
  | some e => if inPlaced a then (e.2.placeAt (placedPage a - e.1)).1 else if 0x80000000000 ≤ a ∧ a < 0x90000000000 then 4 else 0
  | none => if 0x80000000000 ≤ a ∧ a < 0x90000000000 then 4 else 0

/-- A request at an address has ended with a code (05 R142, R143, R157): it is counted at its tier, and T4 is noted as failing or not. -/
def State.requestDone (s : State) (a code : Nat) : State :=
  let t := s.tierAt a
  if code < 0x10 then s.noteT4 t true else (s.noteT4 t (decide (code = ccStale ∨ code = ccUnallocated))).countCode t code

/-- A queued load ends with code `code` (R43, R62): it leaves the queue and its credits return; its value is written, or its
register is poisoned; the error is counted at its tier. -/
def State.endLoad (s : State) (i : Nat) (l : QLoad) (code : Nat) (data : Option (List Byte)) : State :=
  let x := s.islet i
  let s1 := s.credAdd l.paths true
  let x1 := { x with loads := x.loads.filter fun q => q.seq ≠ l.seq }
  let key := l.op.destKey l.reg
  let s2 := if code < 0x10 then
      let raw := ofLe (overlay x.stores l.seq l.loc (s.loadBytes i l data))
      s1.setIslet i { x1.writeLoad l.op l.size l.reg raw with poison := SMap.del x1.poison key }
    else s1.setIslet i { x1 with poison := SMap.put x1.poison key ⟨l.seq, l.addr, code⟩ }
  (s2.requestDone l.loc code).freed i

/-- Is the object of a placed address still UNLOADED (05 R135). -/
def State.notLoaded (s : State) (i a : Nat) : Bool :=
  match s.target i a with
  | .placed =>
    match s.objAtPage (placedPage a) with
    | some e => decide (e.2.res = .unloaded)
    | none => false
  | _ => false

/-- Bundles that the instruction cache holds (R64). -/
def icacheBundles : Nat := 512

/-- Is the bundle at the pc in the instruction cache (R64). -/
def Islet.cached (x : Islet) : Bool := x.icache.any fun e => e.1 == x.pc

/-- The exception of the fetch at the pc (R60, R64): of an uncorrectable line of the cache; outside the cache, of a line that ends in error;
an address outside the Placed Range belongs to no object (log entry 126). -/
def State.fetchExn (s : State) (i : Nat) : Option Exn :=
  let x := s.islet i
  let line := x.pc / 128 * 128
  if x.cached then (if x.icacheBad.contains line then some ⟨8, some x.pc, 0⟩ else none)
  else
    let c := match x.fetching with
      | some (n + 1) => n + 1
      | _ => match s.target i line with
        | .placed => s.isletCode i line 128 true
        | _ => ccUnallocated
    if c = ccOk then none else some ⟨9, some x.pc, c⟩

/-- Fetch the bundle at the pc (R64): from the cache, else its 128-byte line from memory, which touches its object (log entry 17). -/
def State.fetch (s : State) (i : Nat) : BitVec 256 × State :=
  let x := s.islet i
  match x.icache.find? fun e => e.1 == x.pc with
  | some e => (e.2, s)
  | none =>
    let line := x.pc / 128 * 128
    let read := fun (a : Nat) => (a, BitVec.ofNat 256 (s.load a 32))
    let c := (x.icache.filter fun e => e.1 / 128 != line / 128) ++ [read line, read (line + 32), read (line + 64), read (line + 96)]
    let s1 := s.setIslet i { x with fetching := none, icache := c.drop (c.length - icacheBundles), icacheBad := x.icacheBad.filter fun l => l ≠ line }
    ((read x.pc).2, match s.objAtPage (placedPage line) with
      | some e => s1.touch e.1 128 (s.accessPaths i line)
      | none => s1)

/-- Does the fetch at the pc wait for an UNLOADED object, whose load it starts (05 R135). -/
def State.fetchWaits (s : State) (i : Nat) : Bool :=
  let x := s.islet i
  !x.cached && s.notLoaded i (x.pc / 128 * 128) && (match x.fetching with | some c => c == 0 | none => true)

/-- The load of the UNLOADED object that a fetch meets starts; where it cannot, the fetch is to end with NO_SPACE. -/
def State.fetchLoad (s : State) (i : Nat) : State :=
  let x := s.islet i
  let line := x.pc / 128 * 128
  match s.objAtPage (placedPage line) with
  | some e =>
    let s1 := s.startLoad e.1 x.dclass (bitsOf x.tag 23 16) 0xA 0
    s1.setIslet i { s1.islet i with fetching := some (s1.cannotLoad i line) }
  | none => s

/-- The fetch at the pc ends in error (R60): counted at its tier (05 R157), and the exception is taken. -/
def State.fetchFails (s : State) (i : Nat) (e : Exn) : State :=
  let x := s.islet i
  let s1 := if e.cause = 9 then s.requestDone (x.pc / 128 * 128) e.code2 else s
  (s1.setIslet i { x with fetching := none }).takeExn i x.pc e

/-- A bundle is fetched and issues (R64, R67): a breakpoint halts before it, once per arrival (log entry 15); a fetch that ends in error
raises its exception. A row that issues a bundle holds the one that the fetch delivers; with `none` it is decoded from the bytes (R31). -/
def State.issue (s : State) (i : Nat) (b : Option Bundle) : State :=
  let x := s.islet i
  if s.canIssue i ∧ x.held.isNone then
    if x.atBreak ∧ !x.passBp then
      s.setIslet i { x with halted := true, haltCause := 2, passBp := true, stepping := false }
    else if s.fetchWaits i then s.fetchLoad i
    else match s.fetchExn i with
      | some e => s.fetchFails i e
      | none => wakeOf ((s.fetch i).2.tryBundle i { bundle := b.getD (decodeRest (splitBundle (s.fetch i).1)), since := x.cycle })
  else s

/-- Is an address answered by another unit, whose messages end the access (13 R383). -/
def State.isPeer (s : State) (i a : Nat) : Bool :=
  match s.target i a with
  | .peer _ _ => true
  | _ => false

/-- Does an older queued load of the Islet reach the same bytes as load `l`, which then waits for it (R52). -/
def Islet.olderLoad (x : Islet) (l : QLoad) : Bool :=
  x.loads.any fun q => decide (q.seq < l.seq) && overlap q.loc q.bytes l.loc l.bytes

/-- The data of queued load `k` returns at cycle `cyc` (R43): `err` is the completion code the memory system reports, `data`
what host memory or another unit's window holds. A load of an UNLOADED object waits for it (05 R135). -/
def State.loadReturn (s : State) (i k cyc : Nat) (err : Option Nat) (data : Option (List Byte)) : State :=
  let s0 := s.isletAt i cyc
  match (s0.islet i).loads[k]? with
  | none => s
  | some l =>
    if s0.isPeer i l.addr ∨ (s0.islet i).olderLoad l then s
    else if l.err ≠ 0 then s0.endLoad i l l.err none
    else match err with
    | some c => if 0x10 ≤ c then s0.endLoad i l c none else s0.endLoad i l (s0.isletCode i l.loc l.bytes true) data
    | none =>
      if s0.notLoaded i l.loc then s
      else s0.endLoad i l (s0.isletCode i l.loc l.bytes true) data

/-- A posted store is performed or ends in error (R43, R62): it leaves the buffer, its credits return. -/
def State.endStore (s : State) (i : Nat) (q : QStore) (code : Nat) : State :=
  let x := s.islet i
  let s1 := s.credAdd q.paths true
  let x1 := { x with stores := x.stores.filter fun r => r.seq ≠ q.seq }
  let s2 := if code < 0x10 then
      let s3 := s1.setIslet i x1
      if q.sent then s3
      else match s.target i q.addr with
        | .hostWin => s3.emit (.hostWrite (q.addr - 0x80000000000) q.bytes)
        | _ => (s3.store (devAddr i q.loc) q.bytes).unpoison (devAddr i q.loc) q.bytes.length
    else s1.setIslet i { x1 with storeErrs := x1.storeErrs ++ [⟨q.seq, q.addr, code⟩] }
  (s2.requestDone q.loc code).freed i

/-- A store that meets the page in transfer waits while the move goes on (05 R135). -/
def State.moveOn (s : State) (a : Nat) : State :=
  match s.objAtPage (placedPage a) with
  | some (id, _) => s.progress id
  | none => s

/-- Posted store `k` is performed at its destination (R43): an older access of the Islet to the same bytes goes first
(R52), and it waits for a page in transfer (05 R135). One to another unit's window is answered by that unit (13 R383). -/
def State.storePerformed (s : State) (i k cyc : Nat) (err : Option Nat) : State :=
  let s0 := s.isletAt i cyc
  let x := s0.islet i
  match x.stores[k]? with
  | none => s
  | some q =>
    if q.sent ∨ (x.loads.any fun l => decide (l.seq < q.seq) && overlap l.loc l.bytes q.loc q.bytes.length) ∨
       (x.stores.any fun r => decide (r.seq < q.seq) && overlap r.loc r.bytes.length q.loc q.bytes.length) ∨
       s0.isPeer i q.addr then s
    else if q.err ≠ 0 then s0.endStore i q q.err
    else if s0.notLoaded i q.loc then s
    else if s0.inTransfer q.loc q.bytes.length then s0.moveOn q.loc
    else
      let code := match err with
        | some c => if 0x10 ≤ c then c else ccOk
        | none => s0.isletCode i q.loc q.bytes.length false
      (s0.noteMovedStore q.loc).endStore i q code

/-- A tow ends with a code (R44): its slot is idle, its data lie at the destination, or its error bit is set. DESIGN CHOICE (log entry 147): all data
move here, so that a load during a TOWIN sees the old value of the two that R45 allows. -/
def State.endTow (s : State) (i k code : Nat) (data : Option (List Byte)) : State :=
  let x := s.islet i
  let t := x.tow k
  let s1 := s.credAdd t.paths true
  let near := sliverBase i + t.off
  let s2 := if 0x10 ≤ code then s1
    else if t.isIn then
      let d := match data with
        | some d => d.take t.len
        | none => s.bytes (devAddr i t.loc) t.len
      (s1.store near d).unpoison near t.len
    else match s.target i t.far with
      | .hostWin => s1.emit (.hostWrite (t.far - 0x80000000000) (s.bytes near t.len))
      | .peer _ _ => s1
      | _ => (s1.store (devAddr i t.loc) (s.bytes near t.len)).unpoison (devAddr i t.loc) t.len
  let y := s2.islet i
  let s3 := s2.setIslet i { y with tows := SMap.put y.tows k { t with busy := false, err := decide (0x10 ≤ code), code := if 0x10 ≤ code then code else 0, paths := [] } }
  (s3.requestDone t.loc code).freed i

/-- A tow completes at cycle `cyc` (R44), with the code the memory system reports and, for host memory, its data. -/
def State.towComplete (s : State) (i k cyc : Nat) (err : Option Nat) (data : Option (List Byte)) : State :=
  let s0 := s.isletAt i cyc
  let t := (s0.islet i).tow k
  if !t.busy ∨ s0.isPeer i t.far then s
  else if t.lost ≠ 0 then s0.endTow i k t.lost none
  else if s0.notLoaded i t.loc then s
  else if !t.isIn && s0.inTransfer t.loc t.len then s0.moveOn t.loc
  else
    let code := match err with
      | some c => if 0x10 ≤ c then c else ccOk
      | none =>
        let c1 := s0.isletCode i t.loc t.len t.isIn
        if c1 = ccOk then s0.isletCode i (t.loc + t.len - 64) 64 t.isIn else c1
    (if t.isIn then s0 else s0.noteMovedStore t.loc).endTow i k code data

/-- A BWAIT or BARR that has waited BTMO cycles ends (R59): bit 63 set, the value at that moment below. -/
def State.buoyTimeout (s : State) (i : Nat) : State :=
  let x := s.islet i
  match x.held with
  | none => s
  | some h =>
    match h.buoy with
    | none => s
    | some n =>
      let tmo := (x.craw 11).toNat % 2 ^ 32
      if tmo = 0 then s
      else
        let h1 := { h with done := some (BitVec.ofNat 64 (2 ^ 63 + (s.buoy n).value)) }
        wakeOf ((s.setIslet i { x with cycle := max x.cycle (h.since + tmo), held := some h1 }).tryBundle i h1)

end Sys2Proof.Machine
end

