-- ==== Sys2Proof/Machine/Time.lean ====
section
/-! DEFINITION. The time unit (spec 07 R190–R205): bases, segments, servos, gPTP, PPS and the sensor-domain trackers. -/
namespace Sys2Proof.Machine

/-- Base state beyond the registers. -/
def State.base (s : State) (b : Nat) : Base := SMap.get (fun _ => ({} : Base)) s.time.bases b
/-- The state with that replaced. -/
def State.setBase (s : State) (b : Nat) (x : Base) : State :=
  { s with time := { s.time with bases := SMap.set (fun _ => ({} : Base)) s.time.bases b x } }

/-- TB3 of the history that R195 keeps, in ns: 8,192 epochs. -/
def histNs : Nat := 8192 * 250000

/-- Segments that the history still needs at `now`: one is dropped once the next newer one starts before the history. -/
def trimHist (now : Nat) : Nat → List Seg → List Seg
  | _, [] => []
  | newer, g :: r => if newer + histNs ≤ now then [] else g :: trimHist now g.start r

/-- Start a conversion segment at `t` (R195); one that starts where the current one does replaces it. -/
def State.newSeg (s : State) (t : Nat) : State :=
  let g := s.time.seg
  if t ≤ g.start then s
  else
    let g1 : Seg := { g with start := t, v0 := g.value 0 t, v1 := g.value 1 t, v2 := g.value 2 t }
    { s with time := { s.time with seg := g1, hist := trimHist t t (g :: s.time.hist) } }

/-- The limit of a rate (R191). -/
def rateMax : Int := 500000 * 65536

/-- A rate clamped (R191). -/
def clampRate (r : Int) : Int := max (-rateMax) (min r rateMax)

/-- Base `b` runs at rate `r` from `t` on (R191, R195); its RATE registers show it. -/
def State.setRate (s : State) (b t : Nat) (r : Int) : State :=
  let s1 := s.newSeg t
  let c := clampRate r
  let n := twos 48 c
  (({ s1 with time := { s1.time with seg := s1.time.seg.setR b c } }).setReg (R.TIME_TB_RATE_LO + 0x40 * b) (n % 2 ^ 32)).setReg
    (R.TIME_TB_RATE_HI + 0x40 * b) (n / 2 ^ 32)

/-- Base `b` steps by `d` ns at `t` (R194, R197): a segment, the step counts, TIME_STEP; a step of TB0 is reported in the next
pose record. -/
def State.stepBase (s : State) (b t : Nat) (d : Int) : State :=
  let s1 := s.newSeg t
  let g := s1.time.seg
  let s2 : State := { s1 with time := { s1.time with
    seg := g.setV b (g.v b + d * (2 ^ 48 : Nat)), tb0Stepped := s1.time.tb0Stepped || decide (b = 0)
    tb0StepAt := if b = 0 then some t else s1.time.tb0StepAt } }
  ((s2.inc (R.TIME_TB_STEPS + 0x40 * b)).setReg (R.TIME_TB_STEP_LAST + 0x40 * b) (satS32 d).toNat).raise 65

/-- State of base `b` in TIME_TB_STATUS_b: 0 FREE, 1 LOCKING, 2 LOCKED, 3 HOLDOVER. -/
def State.tbState (s : State) (b : Nat) : Nat := s.fld (R.TIME_TB_STATUS + 0x40 * b) R.TIME_TB_STATUS_state

/-- The state with TIME_TB_STATUS_b written. -/
def State.setTb (s : State) (b st good : Nat) (expired : Bool) : State :=
  s.setReg (R.TIME_TB_STATUS + 0x40 * b) (b2n expired * 2 ^ 8 + satU 4 good * 16 + st)

/-- Is base `b` locking or locked. -/
def State.tbLocked (s : State) (b : Nat) : Bool := s.tbState b == 1 || s.tbState b == 2

/-- The servo source of base `b` in force (R197, R216). -/
def State.srcOn (s : State) (b : Nat) : Bool := s.cfgBit (R.TIME_SERVO_CFG + 0x20 * b) R.TIME_SERVO_CFG_source

/-- The servo takes an accepted sample `o` of base `b` at `t` (R197). -/
def State.servo (s : State) (b t : Nat) (o : Int) : State :=
  let q := 0x20 * b
  let x := s.base b
  let good := s.fld (R.TIME_TB_STATUS + 0x40 * b) R.TIME_TB_STATUS_good
  let st := s.tbState b
  let s0 := s.setBase b { x with lastSample := t }
  if s.cfgBit (R.TIME_SERVO_CFG + q) R.TIME_SERVO_CFG_step_en ∧ s.cfgReg (R.TIME_SERVO_STEP + q) < o.natAbs then
    ((s0.stepBase b t o).setRate b (t + 1) x.integral).setTb b 1 0 false
  else
    let i := clampRate (x.integral + s.cfgReg (R.TIME_SERVO_KI + q) * o)
    let s1 := (s0.setBase b { x with lastSample := t, integral := i }).setRate b (t + 1) (i + s.cfgReg (R.TIME_SERVO_KP + q) * o)
    let g := if o.natAbs < s.cfgReg (R.TIME_SERVO_LOCK + q) then satU 4 (good + 1) else 0
    let st1 := if st = 0 ∨ st = 3 then 1 else st
    if st1 = 1 ∧ 8 ≤ g then (s1.setTb b 2 g false).raise 66
    else s1.setTb b (if st1 = 2 ∧ g = 0 then 1 else st1) g false

/-- Enter HOLDOVER from `start` (R198). -/
def State.holdover (s : State) (b start : Nat) : State :=
  ((s.setTb b 3 (s.fld (R.TIME_TB_STATUS + 0x40 * b) R.TIME_TB_STATUS_good) false).setReg64 (R.TIME_TB_HOLD_LO + 0x40 * b) start).raise 64

/-- One of the first four events of R198 for base `b` at `t`: it acts on a base that is locking or locked. -/
def State.loseSource (s : State) (b t : Nat) : State := if s.tbLocked b then s.holdover b t else s

/-- The holdover of base `b` has lasted its limit at `t` (R198). -/
def State.holdExpired (s : State) (b t : Nat) : State :=
  let o := R.TIME_TB_STATUS + 0x40 * b
  if s.tbState b = 3 ∧ s.fld o R.TIME_TB_STATUS_hold_expired = 0 ∧
     s.reg64 (R.TIME_TB_HOLD_LO + 0x40 * b) + s.cfgReg (R.TIME_SERVO_HOLDMAX + 0x20 * b) * 1000000000 ≤ t then
    (s.setFld o R.TIME_TB_STATUS_hold_expired 1).raise 64
  else s

/-- A change of servo source takes effect at an epoch boundary (R197): the integral starts from the rate, or the base
becomes FREE. -/
def State.servoSource (s : State) (b : Nat) : State :=
  let x := s.base b
  if s.srcOn b ∧ !x.srcOn then s.setBase b { x with srcOn := true, integral := s.time.seg.r b }
  else if !s.srcOn b ∧ x.srcOn then (s.setBase b { x with srcOn := false }).setTb b 0 0 false
  else s

/-- ns of base `b` at TB3 instant `t`, and its visible fraction (R190). -/
def State.tbCount (s : State) (b t : Nat) : Nat × Nat :=
  if b = 3 then (t, s.time.tb3Frac)
  else
    let v := ((segAt s.time.seg s.time.hist t).1.value b t)
    (wrapTo 64 (v / (2 ^ 48 : Nat)), wrapTo 16 (v / (2 ^ 32 : Nat)))

/-- Latch the base's HI and FRAC with a read of its LO (R193). -/
def State.latchTb (s : State) (b : Nat) : Nat × State :=
  let c := s.tbCount b s.tb3
  let o := 0x40 * b
  (c.1 % 2 ^ 32, (s.setReg (R.TIME_TB_NS_HI + o) (c.1 / 2 ^ 32)).setReg (R.TIME_TB_FRAC + o) c.2)

/-- Latch all four bases at one tick (R193). -/
def State.snap (s : State) : State :=
  [0, 1, 2, 3].foldl (fun s b => s.setReg64 (R.TIME_TB_SNAP_LO + 0x40 * b) (s.tbCount b s.tb3).1) s

/-- A write of TIME_TB_ADJ_HI_b (R194). -/
def State.writeAdj (s : State) (b v : Nat) : State :=
  let d := sext 64 (v * 2 ^ 32 + (s.base b).adjLo.toNat)
  if b < 3 ∧ !s.srcOn b ∧ d ≠ 0 then s.stepBase b (s.tb3 + 1) d else s

/-- A write of TIME_TB_ADJ_LO_b (R194): it acts only while the servo source is NONE. -/
def State.writeAdjLo (s : State) (b v : Nat) : State :=
  if b < 3 ∧ !s.srcOn b then s.setBase b { s.base b with adjLo := BitVec.ofNat 32 v } else s

/-- A write of TIME_TB_RATE_LO_b is held (R194). -/
def State.writeRateLo (s : State) (b v : Nat) : State :=
  if b < 3 ∧ !s.srcOn b then s.setBase b { s.base b with heldLo := some (BitVec.ofNat 32 v) } else s

/-- A write of TIME_TB_RATE_HI_b applies the held rate (R194). -/
def State.writeRateHi (s : State) (b v : Nat) : State :=
  if b < 3 ∧ !s.srcOn b then
    let lo := match (s.base b).heldLo with
      | some w => w.toNat
      | none => s.reg (R.TIME_TB_RATE_LO + 0x40 * b)
    (s.setBase b { s.base b with heldLo := none }).setRate b (s.tb3 + 1) (sext 48 (v % 2 ^ 16 * 2 ^ 32 + lo))
  else s

/-- The base that follows gPTP domain `d` (R190, R216). -/
def State.domainBase (s : State) (d : Nat) : Option Nat :=
  if d = s.cfgFld R.TIME_GPTP_CFG R.TIME_GPTP_CFG_domain0 then some 0
  else if d = s.cfgFld R.TIME_GPTP_CFG R.TIME_GPTP_CFG_domain1 then some 1
  else none

/-- Does port `p` run gPTP (R216). -/
def State.portRuns (s : State) (p : Nat) : Bool := bitOf (s.cfgFld R.TIME_GPTP_CFG R.TIME_GPTP_CFG_port_en) p

/-- May port `p` be the slave port of base `b` (R199, R216). -/
def State.mayLead (s : State) (b p : Nat) : Bool :=
  let f := s.cfgFld R.TIME_GPTP_CFG (if b = 0 then R.TIME_GPTP_CFG_slave0 else R.TIME_GPTP_CFG_slave1)
  s.portRuns p && (f == 0xF || f == p)

/-- Lexicographic order of priority vectors (log entry 29). -/
def vecLt : List Nat → List Nat → Bool
  | [], [] => false
  | [], _ => true
  | _, [] => false
  | x :: a, y :: b => if x < y then true else if x = y then vecLt a b else false

/-- The best master of those heard, by the comparison of R199; the lower port of two equal ones. -/
def bestMaster : List GMaster → Option GMaster
  | [] => none
  | m :: r => match bestMaster r with
    | none => some m
    | some x => if vecLt (m.vector ++ [m.port]) (x.vector ++ [x.port]) then some m else some x

/-- Is port `p` asCapable (R199). -/
def State.asCapable (s : State) (p : Nat) : Bool := s.reg (R.TIME_PORT_ASCAP + 0x20 * p) == 1

/-- Is a master still heard at `t`: three announce intervals have not passed since its Announce (log entry 59). -/
def GMaster.fresh (m : GMaster) (t : Nat) : Bool := decide (t ≤ m.heardAt + 3 * m.annNs)

/-- Select the master of base `b` anew at `t` from those still heard (R198, R199): another grandmaster or slave port is an event of R198; with
none to select, the latest one stays known and its Syncs are not accepted (log entry 59). -/
def State.selectMaster (s : State) (b t : Nat) : State :=
  let x := s.base b
  let heard := x.heard.filter fun m => m.fresh t
  match bestMaster (heard.filter fun m => s.mayLead b m.port && s.asCapable m.port) with
  | none => s.setBase b { x with heard := heard, lost := true, pendSync := none }
  | some c =>
    let same := match x.master with
      | some a => decide (a.gmId = c.gmId) && decide (a.port = c.port)
      | none => false
    let s1 := s.setBase b { x with heard := heard, master := some c, lost := false, pendSync := if same then x.pendSync else none }
    if !same && x.master.isSome then s1.loseSource b t else s1

/-- What an Announce heard on a port leaves (R198, R199): an asCapable port that runs gPTP takes it. -/
def State.hearAnnounce (s : State) (p d : Nat) (a : Announce) (t : Nat) : State :=
  match s.domainBase d with
  | none => s
  | some b =>
    if s.portRuns p && s.asCapable p then
      let m : GMaster := { vector := [a.priority1.toNat, a.clockClass.toNat, a.clockAccuracy.toNat, a.variance.toNat,
                                      a.priority2.toNat, a.gmId.toNat, a.steps.toNat, a.srcPort.toNat],
                           gmId := a.gmId.toNat, port := p, syncNs := a.syncNs.toNat, annNs := a.annNs.toNat, heardAt := t }
      let x := s.base b
      (s.setBase b { x with heard := (x.heard.filter fun h => h.port ≠ p) ++ [m] }).selectMaster b t
    else s

/-- The receive stamp of port `p` referred to the medium (R200). -/
def State.rxStamp (s : State) (p t : Nat) : Int := (t : Int) - (s.cfgReg (R.TIME_PORT_LAT + 0x20 * p) / 2 ^ 16 : Nat)

/-- The transmit stamp of port `p` referred to the medium (R200). -/
def State.txStamp (s : State) (p t : Nat) : Int := (t : Int) + (s.cfgReg (R.TIME_PORT_LAT + 0x20 * p) % 2 ^ 16 : Nat)

/-- Is a Sync of port `p` and domain `d` accepted, and for which base: from the selected master on an asCapable port, by a servo that is on
(R197–R199). -/
def State.syncBase (s : State) (p d : Nat) : Option Nat :=
  match s.domainBase d with
  | none => none
  | some b =>
    match (s.base b).master with
    | some m => if m.port = p ∧ !(s.base b).lost ∧ s.mayLead b p ∧ s.asCapable p ∧ s.srcOn b then some b else none
    | none => none

/-- The sample of a Sync (R197): `corr` is the sum of the correction fields, in 2^−16 ns; `ingress` the corrected stamp. -/
def State.syncSample (s : State) (b p t : Nat) (origin : Nat) (corr ingress : Int) : State :=
  let o := (origin : Int) + divRne corr 65536 + s.reg (R.TIME_PORT_DELAY + 0x20 * p) - s.toBase b ingress
  (s.convStale ingress).servo b t o

/-- A Sync is received (R197, R199). -/
def State.gptpSync (s : State) (p d seqId : Nat) (twoStep : Bool) (origin : Nat) (corr : Int) (t : Nat) : State :=
  match s.syncBase p d with
  | none => s
  | some b =>
    let ing := s.rxStamp p t
    if twoStep then s.setBase b { s.base b with pendSync := some ⟨p, seqId, d, ing, corr⟩ }
    else s.syncSample b p t origin corr ing

/-- A Follow_Up is received (R199). -/
def State.gptpFollowUp (s : State) (p d seqId : Nat) (origin : Nat) (corr : Int) (t : Nat) : State :=
  match s.syncBase p d with
  | none => s
  | some b =>
    let x := s.base b
    match x.pendSync with
    | none => s
    | some q =>
      if q.port = p ∧ q.seqId = seqId then
        (s.setBase b { x with pendSync := none }).syncSample b p t origin (corr + q.correction) q.ingress
      else s

/-- No Sync accepted for TIME_GPTP_TMO intervals (R198). -/
def State.syncTimeout (s : State) (b t : Nat) : State :=
  match (s.base b).master with
  | some m =>
    if (s.base b).lastSample + s.cfgReg R.TIME_GPTP_TMO * m.syncNs ≤ t then s.loseSource b t else s
  | none => s

/-- A gPTP port. -/
def State.gport (s : State) (p : Nat) : GPort := SMap.get (fun _ => ({} : GPort)) s.time.ports p
/-- The state with it replaced. -/
def State.setGport (s : State) (p : Nat) (x : GPort) : State :=
  { s with time := { s.time with ports := SMap.set (fun _ => ({} : GPort)) s.time.ports p x } }

/-- A transmit stamp finds the queue full (R201). -/
def State.txOverflow (s : State) (p : Nat) : State := (s.inc (R.TIME_TXTS_OVF + 0x20 * p)).raise 68

/-- Default allowedLostResponses of IEEE 802.1AS-2020 (R199; log entry 59). -/
def allowedLost : Nat := 9

/-- Transmit a Pdelay_Req (R199, R201): its stamp is queued, or discarded and the exchange abandoned; a port whose neighbour has left more than
allowedLostResponses of them without an answer is not asCapable. -/
def State.pdelayTimer (s : State) (p t : Nat) : State :=
  if s.portRuns p then
    let x := s.gport p
    let s0 := s.emit (.gptp p 2 0 x.nextSeq t)
    let s1 := if allowedLost < x.unanswered then s0.setReg (R.TIME_PORT_ASCAP + 0x20 * p) 0 else s0
    let y := { x with nextSeq := (x.nextSeq + 1) % 65536, unanswered := x.unanswered + 1 }
    if x.txq.length < 16 then s1.setGport p { y with txq := x.txq ++ [⟨x.nextSeq, 2, 0, s.txStamp p t⟩] }
    else (s1.setGport p y).txOverflow p
  else s

/-- Answer a Pdelay_Req (R199, R201): Pdelay_Resp with the receipt stamp leaves at `tx`, its Follow_Up with the transmit stamp
unless the queue is full. -/
def State.pdelayReq (s : State) (p seqId rx tx : Nat) : State :=
  if s.portRuns p then
    let s1 := s.emit (.gptp p 3 0 seqId (s.rxStamp p rx).toNat)
    if (s.gport p).txq.length < 16 then s1.emit (.gptp p 0xA 0 seqId (s.txStamp p tx).toNat)
    else s1.txOverflow p
  else s

/-- Default neighborPropDelayThresh (R199). -/
def propDelayThresh : Nat := 800

/-- A Pdelay_Resp and its Follow_Up complete an exchange (R199, R201): `t2` is the receipt at the neighbour, `t3` its transmit
stamp. -/
def State.pdelayResp (s : State) (p seqId : Nat) (t2 t3 : Int) (rx : Nat) : State :=
  let x := s.gport p
  match x.txq.find? fun e => e.seqId == seqId && e.typ == 2 with
  | none => s
  | some e =>
    let d := satU 32 (Config.meanLinkDelay e.stamp t2 t3 (s.rxStamp p rx))
    ((s.setGport p { x with txq := x.txq.filter fun y => !(y.seqId == seqId && y.typ == 2), unanswered := 0 }).setReg
      (R.TIME_PORT_DELAY + 0x20 * p) d).setReg (R.TIME_PORT_ASCAP + 0x20 * p) (b2n (decide (d ≤ propDelayThresh)))

/-- A sensor-domain tracker. -/
def State.tracker (s : State) (i : Nat) : Tracker := SMap.get (fun _ => ({} : Tracker)) s.time.trackers i

/-- Does tracker `i` hold SENSOR_SKEW (R205). -/
def State.sensorSkew (s : State) (i : Nat) : Bool := decide ((s.tracker i).state = 3)

/-- SHORE_PAIR_STATUS_p shows whether a camera of the pair is in SENSOR_SKEW (06 R188). -/
def State.pairSensorSkew (s : State) (p : Nat) : State :=
  s.setFld (R.SHORE_PAIR_STATUS + 0x20 * p) R.SHORE_PAIR_STATUS_sensor_skew (b2n (s.sensorSkew (2 * p) || s.sensorSkew (2 * p + 1)))

/-- The state with tracker `i` replaced; its registers follow (R216, R217), and so does the status of a camera's pair (06 R188). -/
def State.setTracker (s : State) (i : Nat) (x : Tracker) : State :=
  let q := 0x20 * i
  let s1 : State := { s with time := { s.time with trackers := SMap.set (fun _ => ({} : Tracker)) s.time.trackers i x } }
  let s2 := ((s1.setReg (R.TIME_TRK_STATUS + q) (x.run * 2 ^ 16 + x.state)).setReg (R.TIME_TRK_OFFSET + q) (satS32 x.o).toNat).setReg
    (R.TIME_TRK_RATE + q) (satS32 x.rate).toNat
  if i < 16 then s2.pairSensorSkew (i / 2) else s2

/-- Mode of tracker `i` (R203, R216): 0 OFF, 1 TRIGGERED, 2 SELF, 3 NOMINAL. -/
def State.trkMode (s : State) (i : Nat) : Nat :=
  if i < 16 then
    let o := R.SHORE_PORT_CFG + 0x40 * i
    if !s.cfgBit o R.SHORE_PORT_CFG_enable ∨ (s.dev.state = .watch ∧ i ≠ s.cfgFld R.PWR_WATCH_CFG R.PWR_WATCH_CFG_port) then 0
    else if s.cfgFld o R.SHORE_PORT_CFG_fsync < 8 then 1 else 3
  else if i = 20 ∨ i = 21 then (if s.cfgBit (R.COND_IMU_CFG + 0x20 * (i - 20)) R.COND_IMU_CFG_enable then 3 else 0)
  else s.cfgFld (R.TIME_TRK_CFG + 0x20 * i) R.TIME_TRK_CFG_mode

/-- IMU input period of port `i` in ns (R206, R218). -/
def State.imuPeriod (s : State) (i : Nat) : Nat :=
  8000000 / 2 ^ s.cfgFld (R.COND_IMU_CFG + 0x20 * i) R.COND_IMU_CFG_rate

/-- Period of tracker `i` in ns (R203). -/
def State.trkPeriod (s : State) (i : Nat) : Nat :=
  if i < 16 then s.cfgReg (R.SHORE_PORT_PERIOD + 0x40 * i) * 1000
  else if i = 20 ∨ i = 21 then s.imuPeriod (i - 20)
  else if i = 23 then 1000000000
  else s.cfgReg (R.TIME_TRK_PERIOD + 0x20 * i) * 1000

/-- The mode and the period that the registers of a camera's or an IMU's tracker show (R216, R217). -/
def State.trkShow (s : State) (i : Nat) : State :=
  if i < 16 ∨ i = 20 ∨ i = 21 then
    (s.setFld (R.TIME_TRK_CFG + 0x20 * i) R.TIME_TRK_CFG_mode (s.trkMode i)).setReg (R.TIME_TRK_PERIOD + 0x20 * i) (s.trkPeriod i / 1000)
  else s

/-- A tracker meets a change of its mode at an epoch boundary (R205): OFF clears it, leaving OFF acquires. -/
def State.trkConfig (s : State) (i : Nat) : State :=
  let x := s.tracker i
  let s1 := s.trkShow i
  if s.trkMode i = 0 then (if x.state = 0 then s1 else s1.setTracker i {})
  else if x.state = 0 then s1.setTracker i { state := 1 } else s1

/-- The state of a tracker after an observation of offset `o` and skew `skew` (R205). -/
def Tracker.judge (x : Tracker) (skew : Int) (period : Nat) (selfAnchored : Bool) : Tracker × Bool :=
  let run := if 2 * skew.natAbs < period then min (x.run + 1) 8 else 0
  if (x.state = 1 ∨ x.state = 2) ∧ period < skew.natAbs then ({ x with run := run, state := 3, reanchor := selfAnchored }, true)
  else if (x.state = 1 ∨ x.state = 3) ∧ run = 8 then ({ x with run := run, state := 2 }, false)
  else ({ x with run := run }, false)

/-- An observation leaves its skew and, when the sensor becomes SKEWED, its event (R205, R215). -/
def State.noteSkew (s : State) (i : Nat) (x : Tracker) (skew : Int) (selfAnchored : Bool) : State :=
  let r := x.judge skew (s.trkPeriod i) selfAnchored
  let s1 := (s.setTracker i r.1).setReg (R.TIME_TRK_SKEW + 0x20 * i) (satS32 skew).toNat
  if r.2 then (s1.inc (R.TIME_TRK_SKEWS + 0x20 * i)).raise 67 else s1

/-- An observation of a SELF or NOMINAL tracker (R204, R205). -/
def State.observe (s : State) (i : Nat) (a t : Int) : State :=
  let x := s.tracker i
  if x.state = 0 then s
  else if x.sPrev.isNone ∨ x.reanchor then
    s.noteSkew i { x with o := a - t, reanchor := false, sPrev := some t } 0 true
  else
    let ds := t - x.sPrev.getD t
    let p := t + x.o + divRne (x.rate * ds) (65536 * 1000000000)
    let e := a - p
    let q := R.TIME_TRK_CFG + 0x20 * i
    let o1 := x.o + divRne e ((2 : Int) ^ s.cfgFld q R.TIME_TRK_CFG_alpha)
    if ds = 0 then
      s.tick.noteSkew i { x with o := o1, rate := sext 48 s.free.toNat, sPrev := some t } e true
    else
      let den := (2 : Int) ^ s.cfgFld q R.TIME_TRK_CFG_beta * ds
      let num := e * (65536 * 1000000000)
      let dr := if 0 < den then divRne num den else divRne (-num) (-den)
      s.noteSkew i { x with o := o1, rate := x.rate + dr, sPrev := some t } e true

/-- An observation of a NOMINAL tracker: its count rises by one (R203). -/
def State.observeNominal (s : State) (i : Nat) (a : Int) : State :=
  let x := s.tracker i
  if x.state = 0 then s
  else (s.setTracker i { x with k := x.k + 1 }).observe i a ((x.k + 1) * s.trkPeriod i : Nat)

/-- The pulse that a frame observed at `a` is attributed to (R204): `starts` are the pin's pulse starts, newest first. -/
def attributeTo (starts : List Nat) (last : Option Nat) (expect : Int) (tolNs period : Nat) (a : Int) : Int :=
  match starts.find? fun (p : Nat) => decide (((p : Int) + expect - a).natAbs ≤ tolNs) with
  | some p => p
  | none =>
    match last with
    | some l =>
      match (starts.filter fun p => decide (l < p)).getLast? with
      | some p => p
      | none => l + period
    | none =>
      match starts.find? fun (p : Nat) => decide ((p : Int) ≤ a) with
      | some p => p
      | none => a - expect

/-- An observation of a TRIGGERED camera (R204, R205); the attributed pulse is kept. -/
def State.observeTriggered (s : State) (i : Nat) (starts : List Nat) (a : Int) : State :=
  let x := s.tracker i
  if x.state = 0 then s
  else
    let expect := s.cfgInt (R.TIME_TRK_EXPECT + 0x20 * i)
    let tol := s.cfgFld (R.TIME_TRK_CFG + 0x20 * i) R.TIME_TRK_CFG_tol_us * 1000
    let p := attributeTo starts x.lastPulse expect tol (s.trkPeriod i) a
    let o := a - p
    s.noteSkew i { x with o := o, lastPulse := some p.toNat } (o - expect) false

/-- A PPS_IN edge at `t` (R202): it waits for its label, or comes too early after the previous edge. -/
def State.ppsEdge (s : State) (falling : Bool) (t : Nat) : State :=
  if falling ≠ (s.cfgReg R.TIME_PPS_CFG % 2 == 1) then s
  else
    let early := match s.time.ppsLast with
      | some p => decide (t < p + 500000000)
      | none => false
    let s1 : State := { s with time := { s.time with ppsLast := some t } }
    if early then s1.inc R.TIME_PPS_UNLABELLED
    else { s1 with time := { s1.time with ppsOpen := s1.time.ppsOpen ++ [t] } }

/-- The 900 ms within which an edge's label comes (R202). -/
def labelNs : Nat := 900000000

/-- An edge stamped `e` takes its label at `t` (R202, R203): its sample goes to TB2 and to tracker 23. -/
def State.labelEdge (s : State) (label t e : Nat) : State :=
  let ptp := label + s.cfgReg R.TIME_PPS_LEAP * 1000000000
  let s1 : State := { s with time := { s.time with labelled := ((label, e) :: s.time.labelled).take 16 } }
  let s2 := if s1.trkMode 23 = 0 then s1 else (s1.invStale 2 ptp).observe 23 e (s1.fromBase 2 ptp)
  if s2.srcOn 2 then (s2.convStale e).servo 2 t ((ptp : Int) - s2.toBase 2 e) else s2

/-- A time label arrives at `t` (R202): it labels every edge that waits and whose 900 ms have not passed. -/
def State.ppsLabel (s : State) (label t : Nat) : State :=
  let hit := s.time.ppsOpen.filter fun e => decide (t ≤ e + labelNs)
  hit.foldl (fun s e => s.labelEdge label t e)
    { s with time := { s.time with ppsOpen := s.time.ppsOpen.filter fun e => decide (e + labelNs < t) } }

/-- A valid sentence on GNSS_RX (R202, 18 R458). -/
def State.gnssSentence (s : State) (n : Nmea) (t : Nat) : State :=
  let s1 : State := { s with time := { s.time with gnssDetect := false, gnssLast := t } }
  match n.label with
  | some l => s1.ppsLabel l.toNat t
  | none => s1

/-- Edges have waited 900 ms for their label (R202). -/
def State.labelTimeout (s : State) (t : Nat) : State :=
  let due := s.time.ppsOpen.filter fun e => decide (e + labelNs ≤ t)
  ({ s with time := { s.time with ppsOpen := s.time.ppsOpen.filter fun e => decide (t < e + labelNs) } }).addTo R.TIME_PPS_UNLABELLED due.length

/-- No labelled edge for 1.5 s (R198). -/
def State.ppsTimeout (s : State) (t : Nat) : State :=
  if (s.base 2).lastSample + 1500000000 ≤ t then s.loseSource 2 t else s

/-- Five seconds without a valid sentence (18 R458). -/
def State.uartTimeout (s : State) (t : Nat) : State :=
  if s.time.gnssLast + 5000000000 ≤ t then { s with time := { s.time with gnssDetect := true } } else s

/-- SLEEP entry: the offsets of TB0–TB2 from TB3 are recorded (R192). -/
def State.timeSleep (s : State) : State :=
  let g := s.time.seg
  let off := fun (b : Nat) => g.value b s.tb3 - (s.tb3 : Int) * (2 ^ 48 : Nat)
  { s with time := { s.time with sleepAt := some (s.tb3, off 0, off 1, off 2) } }

/-- The period of the Skerry's crystal in 2^−16 ns (R192). -/
def crystalPeriod : Nat := 30517 * 65536 + 37888

/-- TB3 on a wake that begins at the present instant (R192): the count of the crystal's cycles since SLEEP's entry, at the first edge from then
on. -/
def State.crystalWake (s : State) : State :=
  match s.time.sleepAt with
  | none => s
  | some (t0, _) =>
    let from0 := t0 * 65536 + s.time.tb3Frac
    let n := (s.tb3 * 65536 - from0 + (crystalPeriod - 1)) / crystalPeriod
    let v := from0 + n * crystalPeriod
    { s with tb3 := v / 65536, time := { s.time with tb3Frac := v % 65536 } }

/-- One base on wake from SLEEP (R192, R198). -/
def State.wakeBase (s : State) (b start : Nat) (off : Int) : State :=
  let g := s.time.seg
  let s1 : State := { s with time := { s.time with seg := g.setV b ((s.tb3 : Int) * (2 ^ 48 : Nat) + off) } }
  s1.loseSource b start

/-- Wake from SLEEP (R192): TB0–TB2 stand at TB3 plus their offsets at entry. -/
def State.timeWake (s : State) : State :=
  match s.time.sleepAt with
  | none => s
  | some (t, o0, o1, o2) =>
    let s1 := s.newSeg s.tb3
    let s2 := ((s1.wakeBase 0 t o0).wakeBase 1 t o1).wakeBase 2 t o2
    { s2 with time := { s2.time with sleepAt := none } }

/-- What an epoch boundary does to the time unit (R195, R197, R198, R205): a segment, servo sources, the slave ports, the
trackers' modes. -/
def State.timeBoundary (s : State) (t : Nat) : State :=
  let s1 := s.newSeg t
  let s2 := [0, 1, 2].foldl State.servoSource s1
  let s3 := [0, 1].foldl (fun s b => s.selectMaster b t) s2
  (upTo 24).foldl State.trkConfig s3

/-- GPTP_SYNC (R197, R199). -/
def execGptpSync (p : Fin 4) (d : Byte) (seqId : BitVec 16) (twoStep : Bool) (origin : Word64) (corr : Word64) (t : Nat)
    (s : State) : Host.Outcome State Fault Refusal :=
  .next (s.whenAwake fun s => (s.at t).gptpSync p.val d.toNat seqId.toNat twoStep origin.toNat corr.toInt t)

/-- GPTP_FOLLOW_UP (R199). -/
def execGptpFollowUp (p : Fin 4) (d : Byte) (seqId : BitVec 16) (origin : Word64) (corr : Word64) (t : Nat) (s : State) :
    Host.Outcome State Fault Refusal :=
  .next (s.whenAwake fun s => (s.at t).gptpFollowUp p.val d.toNat seqId.toNat origin.toNat corr.toInt t)

/-- GPTP_ANNOUNCE (R198, R199). -/
def execGptpAnnounce (p : Fin 4) (d : Byte) (a : Announce) (t : Nat) (s : State) : Host.Outcome State Fault Refusal :=
  .next (s.whenAwake fun s => (s.at t).hearAnnounce p.val d.toNat a t)

/-- PDELAY_REQ (R199, R201). -/
def execPdelayReq (p : Fin 4) (seqId : BitVec 16) (rx tx : Nat) (s : State) : Host.Outcome State Fault Refusal :=
  .next (s.whenAwake fun s => (s.at tx).pdelayReq p.val seqId.toNat rx tx)

/-- PDELAY_RESP (R199, R201). -/
def execPdelayResp (p : Fin 4) (seqId : BitVec 16) (t2 t3 : Word64) (rx : Nat) (s : State) : Host.Outcome State Fault Refusal :=
  .next (s.whenAwake fun s => (s.at rx).pdelayResp p.val seqId.toNat t2.toNat t3.toNat rx)

/-- PDELAY_TIMER (R199, R201). -/
def execPdelayTimer (p : Fin 4) (t : Nat) (s : State) : Host.Outcome State Fault Refusal :=
  .next (s.whenAwake fun s => (s.at t).pdelayTimer p.val t)

/-- SYNC_TIMEOUT (R198). -/
def execSyncTimeout (b : Fin 2) (t : Nat) (s : State) : Host.Outcome State Fault Refusal :=
  .next (s.whenAwake fun s => (s.at t).syncTimeout b.val t)

/-- HOLDOVER_EXPIRED (R198). -/
def execHoldoverExpired (b : Fin 3) (t : Nat) (s : State) : Host.Outcome State Fault Refusal :=
  .next (s.whenAwake fun s => (s.at t).holdExpired b.val t)

/-- PPS_LABEL_TIMEOUT (R202). -/
def execPpsLabelTimeout (t : Nat) (s : State) : Host.Outcome State Fault Refusal := .next (s.whenAwake fun s => (s.at t).labelTimeout t)

/-- PPS_TIMEOUT (R198). -/
def execPpsTimeout (t : Nat) (s : State) : Host.Outcome State Fault Refusal := .next (s.whenAwake fun s => (s.at t).ppsTimeout t)

/-- UART_RATE_TIMEOUT (18 R458). -/
def execUartRateTimeout (t : Nat) (s : State) : Host.Outcome State Fault Refusal := .next (s.whenAwake fun s => (s.at t).uartTimeout t)

/-- TIME_SNAP (R193). -/
def execTimeSnap (v : Word32) (t : Nat) (s : State) : Host.Outcome State Fault Refusal :=
  .next (s.whenAwake fun s => if bitOf v.toNat 0 then (s.at t).snap else s.at t)

/-- A read of TIME_TB_NS_LO_b answers and latches (R193). -/
def State.readTb (s : State) (b : Nat) : State := (s.latchTb b).2.emit (.value (s.latchTb b).1)

/-- TB_NS_LO_READ (R193). -/
def execTbNsLoRead (b : Fin 4) (t : Nat) (s : State) : Host.Outcome State Fault Refusal :=
  .next (s.whenAwake fun s => (s.at t).readTb b.val)

/-- TB_ADJ_WRITE (R194). -/
def execTbAdjWrite (b : Fin 4) (v : Word32) (t : Nat) (s : State) : Host.Outcome State Fault Refusal :=
  .next (s.whenAwake fun s => (s.at t).writeAdj b.val v.toNat)

/-- TB_RATE_LO_WRITE (R194). -/
def execTbRateLoWrite (b : Fin 4) (v : Word32) (t : Nat) (s : State) : Host.Outcome State Fault Refusal :=
  .next (s.whenAwake fun s => (s.at t).writeRateLo b.val v.toNat)

/-- TB_RATE_HI_WRITE (R194). -/
def execTbRateHiWrite (b : Fin 4) (v : Word32) (t : Nat) (s : State) : Host.Outcome State Fault Refusal :=
  .next (s.whenAwake fun s => (s.at t).writeRateHi b.val v.toNat)

end Sys2Proof.Machine
end

