-- ==== Sys2Proof/Machine/Cond.lean ====
section
/-! DEFINITION. The conditioning chain (spec 07 R206–R214): inputs, filters, group delay, detectors, resets. -/
namespace Sys2Proof.Machine

/-- Channel `c`. -/
def State.chan (s : State) (c : Nat) : Chan := SMap.get (fun _ => ({} : Chan)) s.cond.chans c
/-- The state with channel `c` replaced. -/
def State.setChan (s : State) (c : Nat) (x : Chan) : State :=
  { s with cond := { s.cond with chans := SMap.set (fun _ => ({} : Chan)) s.cond.chans c x } }

/-- A filter field of channel `c` in force. -/
def State.chCfg (s : State) (c : Nat) (b : Bits) : Nat := s.cfgFld (R.COND_CH_CFG + 0x40 * c) b

/-- Coefficient `k` of channel `c` in force. -/
def State.firCoef (s : State) (c k : Nat) : Nat := s.cfgReg (R.COND_CH_FIR + 0x100 * c + 4 * k)

/-- Is channel `c` enabled. -/
def State.chOn (s : State) (c : Nat) : Bool := s.chCfg c R.COND_CH_CFG_enable == 1

/-- Σ h_k and Σ k × h_k in F32, in ascending k (R212). -/
def State.firSums (s : State) (c taps : Nat) : Nat × Nat :=
  (upTo taps).foldl (fun (a : Nat × Nat) k =>
    let h := s.firCoef c k
    let p := f32Mul (f32OfInt k) h
    if k = 0 then (h, p) else (f32Add a.1 h, f32Add a.2 p)) (0, 0)

/-- The FIR centroid in use and whether it is the fallback (R212). -/
def State.centroid (s : State) (c : Nat) : Nat × Bool :=
  let taps := s.chCfg c R.COND_CH_CFG_taps
  let r := s.firSums c taps
  let x := f32Div r.2 r.1
  let top := f32OfInt ((taps : Int) - 1)
  let bad := f32Eq r.1 0 || (fdecode .f32 x).isNaN || f32Lt x 0 || f32Lt top x
  if bad then (f32OfRat ((taps : Int) - 1) 2, true) else (x, false)

/-- Sampler period in ns (R207). -/
def State.samplerPeriod (s : State) : Nat := 8000000 / 2 ^ s.cfgFld R.COND_WHEEL_CFG R.COND_WHEEL_CFG_sample_rate

/-- T of R212 for channel `c`, in units of 1/(65536 × 10^9) ns: the tracker's current period estimate, or the sampler
period. -/
def State.chPeriod (s : State) (c : Nat) : Int :=
  let u : Int := 65536 * 1000000000
  if c < 12 then
    let p := s.imuPeriod (c / 6)
    p * u + p * (s.tracker (20 + c / 6)).rate
  else s.samplerPeriod * u

/-- round(d × T) of R212 in ns, and whether the centroid is the fallback. -/
def State.chDelay (s : State) (c : Nat) : Int × Bool :=
  let w := s.chCfg c R.COND_CH_CFG_rank_w
  let q := s.chCfg c R.COND_CH_CFG_q
  let x := s.centroid c
  let me : Nat × Int := match fdecode .f32 x.1 with
    | .fin _ m e => (m, e)
    | _ => (0, 0)
  -- 2 d · 2^k with k = max 0 (-e)
  let k := (-me.2).toNat
  let num : Int := (((w : Int) - 1) + 3 * ((q : Int) - 1)) * (2 ^ k : Nat) + 2 * q * (me.1 * 2 ^ (me.2 + k).toNat : Nat)
  (divRne (num * s.chPeriod c) (2 * (2 ^ k : Nat) * (65536 * 1000000000)), x.2)

/-- COND_CH_DELAY_c and centroid_fallback follow the filter's configuration (R212). -/
def State.chConfig (s : State) (c : Nat) : State :=
  let d := s.chDelay c
  (s.setReg (R.COND_CH_DELAY + 0x40 * c) (satS32 d.1).toNat).setFld (R.COND_CH_STATUS + 0x40 * c) R.COND_CH_STATUS_centroid_fallback (b2n d.2)

/-- Insert into an ascending list of integers. -/
def insertInt (x : Int) : List Int → List Int
  | [] => [x]
  | y :: r => if x ≤ y then x :: y :: r else y :: insertInt x r

/-- The rank filter's output (R211): missing history reads as 0 (log entry 2). -/
def rankOut (w r : Nat) (hist : List Int) : Int :=
  let l := (hist ++ List.replicate w 0).take w
  nthD 0 (l.foldr insertInt []) r

/-- One input of the CIC stage (R211): the channel, and an output when one is due; with q = 1 it is the input. -/
def Chan.cic (x : Chan) (q : Nat) (v : Int) : Chan × Option (BitVec 64) :=
  let i1 := x.i1 + BitVec.ofInt 64 v
  let i2 := x.i2 + i1
  let i3 := x.i3 + i2
  if q ≤ x.phase + 1 then
    let a := i3 - x.c1
    let b := a - x.c2
    let c := b - x.c3
    ({ x with i1 := i1, i2 := i2, i3 := i3, c1 := i3, c2 := a, c3 := b, phase := 0 }, some (if q = 1 then BitVec.ofInt 64 v else c))
  else ({ x with i1 := i1, i2 := i2, i3 := i3, phase := x.phase + 1 }, none)

/-- y of R211: coefficients in ascending k against the history, newest first. -/
def firOut (coef : Nat → Nat) (taps : Nat) (hist : List Nat) : Nat :=
  (upTo taps).foldl (fun a k =>
    let p := f32Mul (coef k) (nthD 0 hist k)
    if k = 0 then p else f32Add a p) 0

/-- One detector (R213): fires when its value exceeds the threshold while armed, re-arms below 3/4 of it. -/
def detector (armed : Bool) (v th : Nat) : Bool × Bool :=
  if armed then (if f32Lt th v then (false, true) else (true, false))
  else (f32Lt v (f32Mul 0x3F400000 th), false)

/-- A detector of channel `c` has fired: its bit and its source (R213, R215). -/
def State.fireDet (s : State) (reg src c : Nat) (fired : Bool) : State :=
  if fired then (s.setReg reg (putBits (s.reg reg) c c 1)).raise src else s

/-- The detectors of channel `c` take output `y` (R213). -/
def State.detect (s : State) (c y : Nat) : State :=
  let q := 0x40 * c
  let x := s.chan c
  let o := R.COND_CH_DET_CFG + q
  let on := fun (b : Bits) => s.cfgFld o b == 1
  let win := s.cfgFld o R.COND_CH_DET_CFG_window
  let mag := fabs .f32 y
  let n := x.blockN + 1
  let mx := if x.blockN = 0 ∨ f32Lt x.blockMax mag then mag else x.blockMax
  let sm := if x.blockN = 0 then f32Mul y y else f32Add x.blockSum (f32Mul y y)
  let s1 :=
    if n < win then s.setChan c { x with blockN := n, blockMax := mx, blockSum := sm }
    else
      let rms := f32Sqrt (f32Div sm (f32OfInt win))
      let dp := if on R.COND_CH_DET_CFG_peak_en then detector x.peakArmed mx (s.cfgReg (R.COND_CH_PEAK_TH + q)) else (x.peakArmed, false)
      let dr := if on R.COND_CH_DET_CFG_rms_en then detector x.rmsArmed rms (s.cfgReg (R.COND_CH_RMS_TH + q)) else (x.rmsArmed, false)
      let s2 := s.setChan c { x with blockN := 0, blockMax := 0, blockSum := 0, peakArmed := dp.1, rmsArmed := dr.1 }
      let s3 := (s2.setReg (R.COND_CH_PEAK + q) mx).setReg (R.COND_CH_RMS + q) rms
      (s3.fireDet R.COND_DET_PEAK 72 c dp.2).fireDet R.COND_DET_RMS 73 c dr.2
  let shift := s.cfgFld o R.COND_CH_DET_CFG_env_shift
  let env := f32Add x.env (f32Mul (f32Sub mag x.env) (f32OfScaled 1 (-(shift : Int))))
  let de := if on R.COND_CH_DET_CFG_env_en then detector x.envArmed env (s.cfgReg (R.COND_CH_ENV_TH + q)) else (x.envArmed, false)
  ((s1.setChan c { s1.chan c with env := env, envArmed := de.1 }).setReg (R.COND_CH_ENV + q) env).fireDet R.COND_DET_ENV 74 c de.2

/-- Channel `c` takes input `v` of TB3 time `t` (R211–R214): an output when the decimator gives one. An input older than the
latest reset instant passes the rank filter only. The output of a CAN wheel channel takes its entry's scale too (R208; log entry 30). -/
def State.feed (s : State) (c : Nat) (v t : Int) : Option CondOut × State :=
  if s.chOn c then
    let x := s.chan c
    let w := s.chCfg c R.COND_CH_CFG_rank_w
    let ranks := (v :: x.ranks).take w
    let x1 := { x with ranks := ranks }
    let old := match s.cond.syncAt with
      | some ts => decide (t < ts)
      | none => false
    if old then (none, s.setChan c x1)
    else
      let q := max 1 (s.chCfg c R.COND_CH_CFG_q)
      let taps := s.chCfg c R.COND_CH_CFG_taps
      let r := x1.cic q (rankOut w (s.chCfg c R.COND_CH_CFG_rank_r) ranks)
      match r.2 with
      | none => (none, s.setChan c r.1)
      | some z =>
        let f := f32Mul (f32OfInt z.toInt) (f32OfRat 1 (q * q * q))
        let hist := (f :: r.1.fir).take 64
        let y0 := f32Mul (firOut (s.firCoef c) taps hist) (s.cfgReg (R.COND_CH_SCALE + 0x40 * c))
        let y := if 20 ≤ c then f32Mul y0 (SMap.get (fun _ => 0x3F800000) s.cond.canScale (c - 20)) else y0
        let st := decide (0 < r.1.settling)
        let left := r.1.settling - 1
        let s1 := (s.setChan c { r.1 with fir := hist, settling := left, outs := r.1.outs + 1 }).setFld
          (R.COND_CH_STATUS + 0x40 * c) R.COND_CH_STATUS_settling (b2n (decide (0 < left)))
        (some { chan := c, t := t - (s.chDelay c).1, y := y, settling := st }, s1.detect c y)
  else (none, s)

/-- Feed several channels in order. -/
def State.feedAll (s : State) : List (Nat × Int) → Int → List CondOut × State
  | [], _ => ([], s)
  | (c, v) :: r, t =>
    let a := s.feed c v t
    let b := a.2.feedAll r t
    ((match a.1 with | some o => [o] | none => []) ++ b.1, b.2)

/-- IMU port `i`. -/
def State.imu (s : State) (i : Nat) : Imu := SMap.get (fun _ => ({} : Imu)) s.cond.imus i
/-- The state with it replaced. -/
def State.setImu (s : State) (i : Nat) (x : Imu) : State :=
  { s with cond := { s.cond with imus := SMap.set (fun _ => ({} : Imu)) s.cond.imus i x } }

/-- Is IMU port `i` enabled. -/
def State.imuOn (s : State) (i : Nat) : Bool := s.cfgBit (R.COND_IMU_CFG + 0x20 * i) R.COND_IMU_CFG_enable

/-- A rising IMU_DRDY edge at `t` (R203, R206): the port sends the read command and begins its burst. -/
def State.imuDrdy (s : State) (i t : Nat) : State :=
  if s.imuOn i then
    let f := fun (b : Bits) => s.cfgFld (R.COND_IMU_CFG + 0x20 * i) b
    let s1 := s.emit (.spi i (if f R.COND_IMU_CFG_spi_mode = 1 then 3 else 0) (f R.COND_IMU_CFG_sclk_div) (f R.COND_IMU_CFG_command))
    (s1.setImu i { lastEdge := some t, lostSince := 0, burst := some t }).observeNominal (20 + i)
      ((t : Int) - s.cfgReg (R.COND_IMU_LAT + 0x20 * i))
  else s

/-- Axis `k` of a burst (R206): big-endian from byte `first` of the reply, sign-extended. -/
def imuAxis (width first k : Nat) (reply : List Byte) : Int :=
  let n := if width = 0 then 2 else 3
  let raw := ((reply.drop (first + k * n)).take n).foldl (fun a b => a * 256 + b.toNat) 0
  if width = 0 then sext 16 raw else if width = 1 then sext 20 (raw / 16) else sext 24 raw

/-- A burst of IMU port `i` has been read (R206): its six axes enter their channels with the stamp of the sample; the
outputs are answered. -/
def State.imuBurst (s : State) (i : Nat) (reply : List Byte) : List CondOut × State :=
  match (s.imu i).burst with
  | none => ([], s)
  | some t =>
    let o := R.COND_IMU_CFG + 0x20 * i
    let w := s.cfgFld o R.COND_IMU_CFG_width
    let f := s.cfgFld o R.COND_IMU_CFG_first
    let a : Int := (t : Int) - s.cfgReg (R.COND_IMU_LAT + 0x20 * i)
    let s1 := (s.setImu i { s.imu i with burst := none }).incWrap (R.COND_IMU_SAMPLES + 0x20 * i)
    s1.feedAll ((upTo 6).map fun k => (6 * i + k, imuAxis w f k reply)) a

/-- Two more input periods without an edge by `t` (R206). -/
def State.imuLost (s : State) (i t : Nat) : State :=
  let x := s.imu i
  match x.lastEdge with
  | none => s
  | some e =>
    if s.imuOn i ∧ e + 2 * s.imuPeriod i * (x.lostSince + 1) ≤ t then
      ((s.setImu i { x with lostSince := x.lostSince + 1 }).inc (R.COND_IMU_LOST + 0x20 * i)).raise 75
    else s

/-- Wheel input `k`. -/
def State.wheel (s : State) (k : Nat) : Wheel := SMap.get (fun _ => ({} : Wheel)) s.cond.wheels k

/-- The glitch interval in ns (R207). -/
def State.glitchNs (s : State) : Nat := s.cfgFld R.COND_WHEEL_CFG R.COND_WHEEL_CFG_glitch * 10

/-- A wheel edge whose new level has held for `held` ns at `t` (R207): accepted, when the level has held for the glitch interval, it is counted
and handed to the estimator, stamped at the instant it crossed the threshold at the ball (18 R457). -/
def State.wheelEdge (s : State) (k : Nat) (rising : Bool) (held t : Nat) : State :=
  let falling := bitOf (s.cfgFld R.COND_WHEEL_CFG R.COND_WHEEL_CFG_edge) k
  if bitOf (s.cfgFld R.COND_WHEEL_CFG R.COND_WHEEL_CFG_enable) k ∧ rising ≠ falling ∧ s.glitchNs ≤ held then
    let x := s.wheel k
    let stamp := t - s.glitchNs - Config.wheelSync
    ({ s with cond := { s.cond with wheels := SMap.set (fun _ => ({} : Wheel)) s.cond.wheels k { edges := stamp :: x.edges.take 1 } }
              fuse := { s.fuse with edges := SMap.set (fun _ => 0) s.fuse.edges k stamp } }).incWrap
      (R.COND_WHEEL_EDGES + 4 * k)
  else s

/-- The rate value of wheel input `k` sampled at `t` (R207): one that I32 does not hold is a free value (log entry 31). -/
def State.wheelValue (s : State) (k t : Nat) : Int × State :=
  match (s.wheel k).edges with
  | [a, b] =>
    let tmo := s.cfgFld R.COND_WHEEL_CFG R.COND_WHEEL_CFG_timeout_ms * 10000000
    if a + tmo < t ∨ a ≤ b then (0, s)
    else
      let v := divRne (2 ^ 16 * 1000000000) ((a : Int) - b)
      if v < 2 ^ 31 then (v, s) else (sext 32 s.free.toNat, s.tick)
  | _ => (0, s)

/-- The sampler, aligned to TB3, at `t` (R207, R208): wheel inputs 0–7 and the CAN wheel values enter channels 12–23. -/
def State.wheelSample (s : State) (t : Nat) : List CondOut × State :=
  if t % s.samplerPeriod ≠ 0 then ([], s)
  else
  let en := s.cfgFld R.COND_WHEEL_CFG R.COND_WHEEL_CFG_enable
  let a := ((upTo 8).filter fun k => bitOf en k).foldl (fun (r : List CondOut × State) k =>
    let v := r.2.wheelValue k t
    let f := v.2.feedAll [(12 + k, v.1)] t
    (r.1 ++ f.1, f.2)) ([], s)
  let b := a.2.feedAll ((upTo 4).map fun k => (20 + k, SMap.get (fun _ => 0) s.cond.canWheel k)) t
  (a.1 ++ b.1, b.2)

/-- The bits of a CAN payload that a signal entry takes (R208). -/
def canBits (e data : List Byte) : Int :=
  let len := leAt e 8 1
  let raw := ofLe data / 2 ^ leAt e 6 2 % 2 ^ len
  if leAt e 9 1 = 1 ∧ 0 < len then sext len raw else raw

/-- Does a signal entry take a frame (R208). -/
def canTakes (e : List Byte) (j id : Nat) (ext : Bool) : Bool :=
  let w := leAt e 0 4
  bitOf w 31 && (bitOf w 30 == ext) && (w % 2 ^ 29 == id) && leAt e 4 1 == j

/-- What one signal entry does with a frame stamped `t` (R208, R209). -/
def State.canSignal (s : State) (e data : List Byte) (t : Nat) : State :=
  let v := canBits e data
  let tg := leAt e 5 1
  if tg < 4 then
    { s with cond := { s.cond with canWheel := SMap.set (fun _ => 0) s.cond.canWheel tg v
                                   canScale := SMap.set (fun _ => 0x3F800000) s.cond.canScale tg (leAt e 0xC 4) } }
  else if 0x10 ≤ tg ∧ tg < 0x20 then
    { s with cond := { s.cond with vehicle := SMap.put s.cond.vehicle (tg - 0x10) (f32Mul (f32OfInt v) (leAt e 0xC 4), t) } }
  else s

/-- What a controller sends, in other than listen-only mode (R208). -/
def State.canSend (s : State) (j : Nat) (o : Out) : State :=
  if s.cfgBit (R.COND_CAN_CFG + 0x10 * j) R.COND_CAN_CFG_listen_only then s else s.emit o

/-- A CAN FD frame received and stamped at its end (R203, R208); the entries that take it are answered. One that is not `good` meets an error
frame, which is counted. -/
def State.canFrame (s : State) (j id : Nat) (ext good : Bool) (data : List Byte) (t : Nat) : List (List Byte) × State :=
  if !s.cfgBit (R.COND_CAN_CFG + 0x10 * j) R.COND_CAN_CFG_enable then ([], s)
  else if !good then ([], (s.canSend j (.canError j)).inc (R.COND_CAN_ERR + 0x10 * j))
  else
    let hit := s.cond.cansig.filter fun e => canTakes e j id ext
    let s1 := hit.foldl (fun s e => s.canSignal e data t) ((s.canSend j (.canAck j)).incWrap (R.COND_CAN_RX + 0x10 * j))
    let s2 := if (hit.any fun e => leAt e 5 1 < 4) ∧ s1.trkMode 22 ≠ 0 then s1.observeNominal 22 t else s1
    (hit, s2)

/-- Clear a channel's decimator (R214). -/
def State.syncChan (s : State) (c : Nat) : State :=
  let x := s.chan c
  let n := 3 + s.chCfg c R.COND_CH_CFG_taps
  (s.setChan c { x with i1 := 0, i2 := 0, i3 := 0, c1 := 0, c2 := 0, c3 := 0, phase := 0, settling := n }).setFld
    (R.COND_CH_STATUS + 0x40 * c) R.COND_CH_STATUS_settling 1

/-- A reset instant (R214): two requests of one instant reset once. -/
def State.condSync (s : State) (ts : Nat) : State :=
  if s.cond.syncAt = some ts then s
  else
    let s1 := (upTo 24).foldl State.syncChan s
    (({ s1 with cond := { s1.cond with syncAt := some ts } }).inc R.COND_SYNC_COUNT).setReg64 R.COND_SYNC_LAST_LO ts

/-- A SYNC_IN edge (R214). -/
def State.syncIn (s : State) (rising : Bool) (t : Nat) : State :=
  if s.cfgBit R.COND_SYNC_CFG R.COND_SYNC_CFG_enable ∧ rising ≠ s.cfgBit R.COND_SYNC_CFG R.COND_SYNC_CFG_edge then s.condSync t
  else s

/-- What an epoch boundary does to the conditioning chain: the delays of all channels follow the configuration (R212). -/
def State.condBoundary (s : State) : State := (upTo 24).foldl State.chConfig s

/-- IMU_LOST_TIMEOUT (R206). -/
def execImuLostTimeout (i : Fin 2) (t : Nat) (s : State) : Host.Outcome State Fault Refusal :=
  .next (s.whenAwake fun s => (s.at t).imuLost i.val t)

/-- SYNC_IN_EDGE (R214). -/
def execSyncInEdge (rising : Bool) (t : Nat) (s : State) : Host.Outcome State Fault Refusal := .next (s.whenAwake fun s => (s.at t).syncIn rising t)

end Sys2Proof.Machine
end

