-- ==== Sys2Proof/Machine/Geometry.lean ====
section
/-! DEFINITION. F32 geometry of the fixed-function blocks: sine, cosine and arc tangent, vectors, quaternions, poses in TQ64 (03 R72, R85),
the camera model of the calibration record (12 R344). The spec fixes that these computations run in F32 in a fixed order (06 R173, R183, 08
R221, 09 R250); the order taken, one rounding for each operation of each formula as it is written here, from the left, is the model's
(log entry 132). -/
namespace Sys2Proof.Machine

/-- 2π · 2^192. -/
def twoPi192 : Int := 0x6487ed5110b4611a62633145c06e0e68948127044533e63a0

/-- The sum of a series whose next term is the last one times −x²/((2n + a)(2n + a + 1)), in units of 2^−192. -/
def trigSeries (x : Int) (a : Nat) : Nat → Nat → Int → Int
  | 0, _, _ => 0
  | k + 1, n, term =>
    term + trigSeries x a k (n + 1) (-(term * x / 2 ^ 192 * x / 2 ^ 192) / ((2 * n + a) * (2 * n + a + 1) : Nat))

/-- The cosine of num/den of a turn, in units of 2^−192. -/
def cosFix (num den : Nat) : Int :=
  let x := twoPi192 * num / den
  trigSeries x 1 64 0 (2 ^ 192)
/-- The sine of num/den of a turn, in units of 2^−192. -/
def sinFix (num den : Nat) : Int :=
  let x := twoPi192 * num / den
  trigSeries x 2 64 0 x

/-- An F32 angle in units of 2^−192 within one turn; none for an infinity or a NaN. -/
def angleFix (a : Nat) : Option Int :=
  match fdecode .f32 a with
  | .fin neg m e =>
    let x : Int := (m * 2 ^ (192 + e).toNat : Nat)
    some ((if neg then -x else x) % twoPi192)
  | _ => none

/-- Cosine and sine of an F32 angle, each rounded to F32. -/
def cosSin32 (a : Nat) : Nat × Nat :=
  match angleFix a with
  | none => (EType.canonNaN .f32, EType.canonNaN .f32)
  | some x =>
    let h := twoPi192 / 2
    let y := if x ≤ h then x else x - twoPi192
    (f32OfScaled (trigSeries y 1 64 0 (2 ^ 192)) (-192), f32OfScaled (trigSeries y 2 64 0 y) (-192))

/-- The arc tangent series of `t` in units of 2^−192: `p` is the power t^(2n+1). -/
def atanSeries (t : Int) : Nat → Nat → Int → Int
  | 0, _, _ => 0
  | k + 1, n, p => p / (2 * n + 1 : Nat) + atanSeries t k (n + 1) (-(p * t / 2 ^ 192 * t / 2 ^ 192))

/-- Half the angle: t / (1 + √(1 + t²)), in units of 2^−192. -/
def halfTan (t : Nat) : Nat := t * 2 ^ 192 / (2 ^ 192 + isqrt (2 ^ 384 + t * t))

/-- The arc tangent of a / b for naturals with b ≠ 0, in units of 2^−192. -/
def atanFix (a b : Nat) : Int :=
  let low := fun (p q : Nat) =>
    let t := halfTan (halfTan (halfTan (p * 2 ^ 192 / q)))
    8 * atanSeries t 48 0 (t : Int)
  if a ≤ b then low a b else twoPi192 / 4 - low b a

/-- The angle of the vector (x, y), F32: the arc tangent of y / x in its quadrant, rounded once; 0 for the zero vector. -/
def f32Atan2 (y x : Nat) : Nat :=
  match fdecode .f32 y, fdecode .f32 x with
  | .fin ny my ey, .fin nx mx ex =>
    if my = 0 ∧ (mx = 0 ∨ !nx) then 0
    else
      let lo := min ey ex
      let p := my * 2 ^ (ey - lo).toNat
      let q := mx * 2 ^ (ex - lo).toNat
      let a := if q = 0 then twoPi192 / 4 else atanFix p q
      let b := if nx then twoPi192 / 2 - a else a
      f32OfScaled (if ny then -b else b) (-192)
  | _, _ => EType.canonNaN .f32

/-- An F32 value with its sign changed. -/
def f32Neg (a : Nat) : Nat := (a + 2 ^ 31) % 2 ^ 32
/-- F32 one. -/
def f32One : Nat := 0x3F800000
/-- Twice an F32 value. -/
def f32Dbl (a : Nat) : Nat := f32Add a a
/-- The sum of F32 values from the left, from +0. -/
def f32Sum (l : List Nat) : Nat := l.foldl f32Add 0
/-- The dot product of two F32 lists: products, then their sum from the left. -/
def f32Dot (a b : List Nat) : Nat := f32Sum ((a.zip b).map fun e => f32Mul e.1 e.2)
/-- A TQ64 difference scaled to F32 (03 R85). -/
def tqDiff (a b : Int) : Nat := f32OfScaled (a - b) (-28)
/-- An F32 length in TQ64 (03 R72, R82). -/
def tqOf (v : Nat) : Int := sext 64 (fToInt 64 true 28 (fdecode .f32 v)).1
/-- A TQ64 coordinate moved by an F32 length (03 R85): TQ64 addition. -/
def tqAdd (p : BitVec 64) (v : Nat) : BitVec 64 := p + BitVec.ofInt 64 (tqOf v)

/-- A vector of three F32 elements. -/
structure V3 where
  x : Nat := 0
  y : Nat := 0
  z : Nat := 0
  deriving DecidableEq, Repr

/-- The vector of three F32 codes of a list. -/
def V3.of (l : List Nat) : V3 := ⟨nthD 0 l 0, nthD 0 l 1, nthD 0 l 2⟩
/-- Its elements. -/
def V3.list (a : V3) : List Nat := [a.x, a.y, a.z]
/-- Sum. -/
def V3.add (a b : V3) : V3 := ⟨f32Add a.x b.x, f32Add a.y b.y, f32Add a.z b.z⟩
/-- Difference. -/
def V3.sub (a b : V3) : V3 := ⟨f32Sub a.x b.x, f32Sub a.y b.y, f32Sub a.z b.z⟩
/-- A vector times a number. -/
def V3.scale (k : Nat) (a : V3) : V3 := ⟨f32Mul k a.x, f32Mul k a.y, f32Mul k a.z⟩
/-- The opposite vector. -/
def V3.neg (a : V3) : V3 := ⟨f32Neg a.x, f32Neg a.y, f32Neg a.z⟩
/-- Dot product. -/
def V3.dot (a b : V3) : Nat := f32Dot a.list b.list
/-- Cross product. -/
def V3.cross (a b : V3) : V3 :=
  ⟨f32Sub (f32Mul a.y b.z) (f32Mul a.z b.y), f32Sub (f32Mul a.z b.x) (f32Mul a.x b.z), f32Sub (f32Mul a.x b.y) (f32Mul a.y b.x)⟩
/-- Length. -/
def V3.norm (a : V3) : Nat := f32Sqrt (a.dot a)
/-- The vector of the differences of two TQ64 positions, F32 (03 R85). -/
def V3.between (a b : List Int) : V3 := ⟨tqDiff (nthD 0 a 0) (nthD 0 b 0), tqDiff (nthD 0 a 1) (nthD 0 b 1), tqDiff (nthD 0 a 2) (nthD 0 b 2)⟩

/-- A quaternion of four F32 elements. -/
structure Quat where
  w : Nat := f32One
  x : Nat := 0
  y : Nat := 0
  z : Nat := 0
  deriving DecidableEq, Repr

/-- The quaternion of four F32 codes of a list, w first. -/
def Quat.of (l : List Nat) : Quat := ⟨nthD 0 l 0, nthD 0 l 1, nthD 0 l 2, nthD 0 l 3⟩
/-- Its elements, w first. -/
def Quat.list (q : Quat) : List Nat := [q.w, q.x, q.y, q.z]
/-- The vector part. -/
def Quat.vec (q : Quat) : V3 := ⟨q.x, q.y, q.z⟩
/-- The inverse of a unit quaternion. -/
def Quat.conj (q : Quat) : Quat := ⟨q.w, f32Neg q.x, f32Neg q.y, f32Neg q.z⟩
/-- Product. -/
def Quat.mul (a b : Quat) : Quat :=
  ⟨f32Sub (f32Mul a.w b.w) (a.vec.dot b.vec),
   f32Sum [f32Mul a.w b.x, f32Mul a.x b.w, f32Mul a.y b.z, f32Neg (f32Mul a.z b.y)],
   f32Sum [f32Mul a.w b.y, f32Neg (f32Mul a.x b.z), f32Mul a.y b.w, f32Mul a.z b.x],
   f32Sum [f32Mul a.w b.z, f32Mul a.x b.y, f32Neg (f32Mul a.y b.x), f32Mul a.z b.w]⟩
/-- A quaternion scaled to length 1. -/
def Quat.unit (q : Quat) : Quat :=
  let n := f32Sqrt (f32Dot q.list q.list)
  ⟨f32Div q.w n, f32Div q.x n, f32Div q.y n, f32Div q.z n⟩
/-- A quaternion with w ≥ 0 for the same rotation. -/
def Quat.upper (q : Quat) : Quat := if f32Lt q.w 0 then ⟨f32Neg q.w, f32Neg q.x, f32Neg q.y, f32Neg q.z⟩ else q
/-- A vector rotated: v + 2w(u × v) + 2u × (u × v). -/
def Quat.rot (q : Quat) (v : V3) : V3 :=
  let t := (q.vec.cross v).scale (f32Dbl f32One)
  (v.add (t.scale q.w)).add (q.vec.cross t)
/-- The quaternion of a rotation vector. -/
def Quat.ofVec (r : V3) : Quat :=
  let n := r.norm
  if f32Eq n 0 then {}
  else
    let cs := cosSin32 (f32Mul 0x3F000000 n)
    let k := f32Div cs.2 n
    ⟨cs.1, f32Mul k r.x, f32Mul k r.y, f32Mul k r.z⟩
/-- The rotation vector of a unit quaternion, of an angle of at most half a turn. -/
def Quat.toVec (q : Quat) : V3 :=
  let u := q.upper
  let n := u.vec.norm
  if f32Eq n 0 then {} else u.vec.scale (f32Div (f32Dbl (f32Atan2 n u.w)) n)

/-- A pose: position in TQ64 counts, attitude from body to world (08 R220, R221). -/
structure Pose where
  pos : List Int := [0, 0, 0]
  q : Quat := {}
  deriving DecidableEq, Repr

/-- A point fixed in the world, from the body frame of pose `a` into that of pose `b`. -/
def Pose.carry (a b : Pose) (p : V3) : V3 := b.q.conj.rot ((a.q.rot p).add (V3.between a.pos b.pos))

/-- The rotation of a tile transform (09 R265). -/
def txQuat (tr : List Byte) : Quat := Quat.of ((upTo 4).map fun k => leAt tr (0x14 + 4 * k) 4)

/-- The translation of a tile transform (09 R265). -/
def txShift (tr : List Byte) : V3 := V3.of ((upTo 3).map fun k => leAt tr (8 + 4 * k) 4)

/-- The anchor of tile (x, y) (03 R72, 10 R277); of z it is 0 (log entry 45). -/
def tileAnchor (x y : BitVec 32) : List Int := [x.toInt * 2 ^ 36, y.toInt * 2 ^ 36, 0]

/-- A point under a tile transform (09 R265): a + R(p − a) + t, the difference in F32, the result added in TQ64. -/
def txMove (tr : List Byte) (p : List Int) : List (BitVec 64) :=
  let a := tileAnchor (BitVec.ofNat 32 (leAt tr 0 4)) (BitVec.ofNat 32 (leAt tr 4 4))
  let d := (((txQuat tr).rot (V3.between p a)).add (txShift tr)).list
  (upTo 3).map fun k => tqAdd (BitVec.ofInt 64 (nthD 0 a k)) (nthD 0 d k)

/-- An attitude under a tile transform (09 R265). -/
def txTurn (tr : List Byte) (q : Quat) : Quat := (txQuat tr).mul q

/-- The part of a rotation about z (08 R243). -/
def Quat.yaw (q : Quat) : Quat := if f32Eq q.w 0 && f32Eq q.z 0 then {} else (Quat.mk q.w 0 0 q.z).unit

/-- A camera of the calibration record (12 R344): focal lengths and principal point, model, distortion, extrinsics relative to the body. -/
structure Camera where
  fx : Nat
  fy : Nat
  cx : Nat
  cy : Nat
  equi : Bool
  dist : List Nat
  t : V3
  q : Quat

/-- F32 element `k` of a part of the calibration at `o`. -/
def calF32 (cal : List Byte) (o k : Nat) : Nat := leAt cal (o + 4 * k) 4

/-- Camera `n` of a calibration. -/
def cameraOf (cal : List Byte) (n : Nat) : Camera :=
  let o := 0x80 + 128 * n
  { fx := calF32 cal o 0, fy := calF32 cal o 1, cx := calF32 cal o 2, cy := calF32 cal o 3, equi := leAt cal (o + 0x10) 1 == 1
    dist := (upTo 8).map fun k => calF32 cal (o + 0x14) k
    t := V3.of ((upTo 3).map fun k => calF32 cal (o + 0x34) k), q := Quat.of ((upTo 4).map fun k => calF32 cal (o + 0x40) k) }

/-- Extrinsics of lidar `k` of a calibration. -/
def lidarOf (cal : List Byte) (k : Nat) : V3 × Quat :=
  let o := 0x980 + 64 * k
  (V3.of ((upTo 3).map fun j => calF32 cal o j), Quat.of ((upTo 4).map fun j => calF32 cal (o + 12) j))

/-- The distortion of a point of the unit-depth plane (log entry 133): radial-tangential with the eight coefficients k1, k2, p1, p2, k3,
k4, k5, k6; equidistant with k1 to k4. -/
def Camera.distort (c : Camera) (x y : Nat) : Nat × Nat :=
  let k := fun (i : Nat) => nthD 0 c.dist i
  let r2 := f32Add (f32Mul x x) (f32Mul y y)
  if c.equi then
    let r := f32Sqrt r2
    if f32Eq r 0 then (x, y)
    else
      let th := f32Atan2 r f32One
      let t2 := f32Mul th th
      let poly := f32Add f32One (f32Mul t2 (f32Add (k 0) (f32Mul t2 (f32Add (k 1) (f32Mul t2 (f32Add (k 2) (f32Mul t2 (k 3))))))))
      let g := f32Div (f32Mul th poly) r
      (f32Mul g x, f32Mul g y)
  else
    let up := f32Add f32One (f32Mul r2 (f32Add (k 0) (f32Mul r2 (f32Add (k 1) (f32Mul r2 (k 4))))))
    let dn := f32Add f32One (f32Mul r2 (f32Add (k 5) (f32Mul r2 (f32Add (k 6) (f32Mul r2 (k 7))))))
    let g := f32Div up dn
    let xy := f32Dbl (f32Mul x y)
    (f32Sum [f32Mul g x, f32Mul (k 2) xy, f32Mul (k 3) (f32Add r2 (f32Dbl (f32Mul x x)))],
     f32Sum [f32Mul g y, f32Mul (k 2) (f32Add r2 (f32Dbl (f32Mul y y))), f32Mul (k 3) xy])

/-- A point of the camera frame, z along the camera axis, projected to level-0 pixels; none for one that is not before the camera. -/
def Camera.project (c : Camera) (p : V3) : Option (Nat × Nat) :=
  if f32Lt 0 p.z then
    let d := c.distort (f32Div p.x p.z) (f32Div p.y p.z)
    some (f32Add (f32Mul c.fx d.1) c.cx, f32Add (f32Mul c.fy d.2) c.cy)
  else none

/-- A point of the body frame in the camera frame. -/
def Camera.view (c : Camera) (p : V3) : V3 := c.q.conj.rot (p.sub c.t)

/-- An F32 value rounded to the nearest integer, ties to even, saturating at 32 bits. -/
def f32Round (v : Nat) : Int := sext 32 (fToInt 32 true 0 (fdecode .f32 v)).1

end Sys2Proof.Machine
end

