-- ==== Sys2Proof/Machine/Motion.lean ====
section
/-! DEFINITION. The estimator's state as its users see it (spec 08 R220, R221, R229): its error state and how an update moves it, its
propagation, its pose at an instant. What the spec does not give step by step is in `Config` (log entry 45). -/
namespace Sys2Proof.Machine

/-- An F32 element of estimator data. -/
def word32 (l : List (BitVec 64)) (i : Nat) : Word32 := (nthD 0 l i).setWidth 32

/-- F32 codes as estimator data. -/
def codes (l : List Word32) : List (BitVec 64) := l.map fun w => w.setWidth 64

/-- Elements of the error state (R221): position, attitude, velocity, the biases of the gyroscope and of the accelerometer of both IMUs, a
scale factor for each wheel channel in use. -/
def Est.errLen (e : Est) : Nat := 21 + e.wheels

/-- Covariance elements of an error state of `n` elements: the variances, then the rest row by row. -/
def covLen (n : Nat) : Nat := n * (n + 1) / 2

/-- Place of covariance element (i, j), i ≤ j. -/
def covAt (n i j : Nat) : Nat := if i = j then i else n + i * n - i * (i + 1) / 2 + (j - i - 1)

/-- The tile of a position (03 R72). -/
def tileOf (pos : List Word64) : BitVec 32 × BitVec 32 :=
  let t := fun (i : Nat) => BitVec.ofInt 32 ((nthD 0 pos i).toInt / 2 ^ 36)
  (t 0, t 1)

/-- The anchor of the tile that holds a position (03 R72, 10 R277). -/
def anchorOf (pos : List Word64) : List Int := tileAnchor (tileOf pos).1 (tileOf pos).2

/-- A position as the estimator's arithmetic sees it: F32 relative to an anchor (R221, 03 R85). -/
def relPos (anchor : List Int) (pos : List Word64) : List (BitVec 64) :=
  ((V3.between (pos.map fun p => p.toInt) anchor).list).map (BitVec.ofNat 64)

/-- The data that the estimator's computations take (R221): the position relative to an anchor, the rest as it stands. -/
def Est.dataAt (e : Est) (a : List Int) : List (BitVec 64) :=
  relPos a e.pos ++ codes (e.vel ++ e.quat ++ e.rate ++ e.bias ++ e.scale ++ e.cov)

/-- The data relative to the anchor of the tile that holds the position (R221). -/
def Est.data (e : Est) : List (BitVec 64) := e.dataAt (anchorOf e.pos)

/-- The nominal state moved by an error (R221): the position by TQ64 addition, the attitude by the rotation vector in the body frame, the rest by
F32 addition. -/
def Est.plus (e : Est) (d : List Nat) : Est :=
  let q := ((Quat.of (e.quat.map fun w => w.toNat)).mul (Quat.ofVec (V3.of (d.drop 3)))).unit
  let sum := fun (l : List Word32) (o : Nat) => l.zipIdx.map fun w => BitVec.ofNat 32 (f32Add w.1.toNat (nthD 0 d (o + w.2)))
  { e with
    pos := e.pos.zipIdx.map fun p => tqAdd p.1 (nthD 0 d p.2)
    quat := q.list.map (BitVec.ofNat 32)
    vel := sum e.vel 6, bias := sum e.bias 9, scale := sum (e.scale.take e.wheels) 21 ++ e.scale.drop e.wheels }

/-- What a computation of the estimator gives: an error that moves the nominal state, the angular rate, the covariance. -/
def Est.took (e : Est) (l : List (BitVec 64)) : Est :=
  let n := e.errLen
  let f := fun (o k : Nat) => (upTo k).map fun i => word32 l (o + i)
  { e.plus ((f 0 n).map fun w => w.toNat) with rate := f n 3, cov := f (n + 3) (covLen n) }

/-- The error state follows the wheel channels in use (R221): a channel that comes into use brings elements of its own (log entry 45). -/
def Est.setWheels (e : Est) (w : Nat) : Est :=
  if w = e.wheels then e
  else
    let old := 21 + e.wheels
    let n := 21 + w
    let el := fun (i j : Nat) => if i < old ∧ j < old then nthD (0 : Word32) e.cov (covAt old i j) else Config.newCov i j
    { e with wheels := w, cov := ((upTo n).map fun i => el i i) ++ (upTo n).flatMap fun i => (upTo (n - i - 1)).map fun k => el i (i + k + 1) }

/-- Is bit `b` set in sensor_mask at present. -/
def State.admitted (s : State) (b : Nat) : Bool := bitOf s.fuse.mask b

/-- The lowest admitted IMU, or none. -/
def State.primaryImu (s : State) : Option Nat := if s.admitted 20 then some 0 else if s.admitted 21 then some 1 else none

/-- The estimator's state in FUSE_STATUS (R243): 0 UNINIT, 1 ALIGNING, 2 RUNNING. -/
def State.estState (s : State) : Nat := s.fld R.FUSE_STATUS R.FUSE_STATUS_state

/-- Does the estimator have a state: it is RUNNING (R243). -/
def State.estRunning (s : State) : Bool := s.estState == 2

/-- The wheel channels in use (R221): those of the tick inputs and of CAN that are enabled. -/
def State.wheelsOn (s : State) : List Nat := ((upTo 12).map fun k => 12 + k).filter s.chOn

/-- The source bit of a channel, or of the vehicle signal YAW_RATE as channel 32 (R222). -/
def sourceOf (c : Nat) : Nat := if c < 12 then 20 + c / 6 else if c < 20 then 24 else if c < 24 then 22 else 25

/-- The latest output of a channel at or before `t` (R229); 32 stands for the vehicle signal with the role YAW_RATE. -/
def State.outAt (s : State) (c : Nat) (t : Int) : Option AxisOut :=
  (SMap.get (fun _ => ([] : List AxisOut)) s.fuse.outs c).find? fun o => decide (o.t ≤ t)

/-- An output of a channel joins the latest ones. -/
def State.noteOut (s : State) (c : Nat) (o : AxisOut) : State :=
  let old := SMap.get (fun _ => ([] : List AxisOut)) s.fuse.outs c
  { s with fuse := { s.fuse with outs := SMap.set (fun _ => []) s.fuse.outs c (o :: old.take 63) } }

/-- What propagation from `t` uses (R229): 1 and the six axes of the latest primary sample at or before `t`; without an admitted IMU 0, the
yaw rate, and each wheel channel in use with its speed; what is not admitted (R240) or has no value yet is 0. -/
def State.motionAt (s : State) (t : Int) : List Nat :=
  let y := fun (c : Nat) => match s.admitted (sourceOf c), s.outAt c t with
    | true, some o => o.y
    | _, _ => 0
  if s.primaryImu.isSome then
    1 :: (match s.fuse.imuBuf.find? fun x => decide (x.t ≤ t) with
      | some x => x.axes
      | none => [])
  else 0 :: y 32 :: s.wheelsOn.flatMap fun c => [c, y c]

/-- A state propagated from `t0` to `t1` with what `motion` holds constant (R229): without an IMU the vertical velocity is held at zero. -/
def propagated (cal : List Byte) (e : Est) (motion : List Nat) (t0 t1 : Int) : Est :=
  if t0 = t1 then e
  else
    let e1 := e.took (Config.estPropagate cal e.data motion t0 t1)
    if motion.head? = some 0 then { e1 with vel := e1.vel.take 2 ++ [0] } else e1

/-- A state propagated through samples, oldest first, from `at_` to `now` (R229, R231): the states at the samples, newest first, are added to a
list. -/
def repropagate (cal : List Byte) (e : Est) (at_ : Int) (axes : List Nat) (now : Int) : List ImuSample → List (Int × Est) → Est × List (Int × Est)
  | [], l => (propagated cal e axes at_ now, l)
  | x :: r, l =>
    if x.t ≤ at_ then repropagate cal e at_ (1 :: x.axes) now r l
    else if x.t ≤ now then
      let e1 := propagated cal e axes at_ x.t
      repropagate cal e1 x.t (1 :: x.axes) now r ((x.t, e1) :: l)
    else (propagated cal e axes at_ now, l)

/-- A state propagated through the buffered samples of the primary IMU between two instants (R229). -/
def State.through (s : State) (e : Est) (t0 t1 : Int) : Est × List (Int × Est) :=
  if s.primaryImu.isSome then repropagate s.cal e t0 (s.motionAt t0) t1 s.fuse.imuBuf.reverse [] else (propagated s.cal e (s.motionAt t0) t0 t1, [])

/-- The pose of an estimator state. -/
def Est.pose (e : Est) : Pose := { pos := e.pos.map fun p => p.toInt, q := Quat.of (e.quat.map fun w => w.toNat) }

/-- The estimator's states, the latest first: the filter's now and at its latest samples, the nodes. -/
def State.estStates (s : State) : List (Int × Est) := (s.fuse.now, s.fuse.est) :: s.fuse.past ++ s.fuse.nodes

/-- The estimator's state at an instant: from its latest state at or before it, else from its earliest. -/
def State.estAt (s : State) (t : Int) : Est :=
  let l := s.estStates
  let le := l.filter fun x => decide (x.1 ≤ t)
  let b := le.foldl (fun (b : Int × Est) x => if b.1 < x.1 then x else b)
    (match le with
     | x :: _ => x
     | [] => l.foldl (fun (b : Int × Est) x => if x.1 < b.1 then x else b) (s.fuse.now, s.fuse.est))
  (s.through b.2 b.1 t).1

/-- The estimator's pose at an instant (06 R173, R185); none while it has no state. -/
def State.poseAt (s : State) (t : Int) : Option Pose := if s.estRunning then some (s.estAt t).pose else none

end Sys2Proof.Machine
end

