-- ==== Sys2Proof/Machine/Pixels.lean ====
section
/-! DEFINITION. What Shore computes from pixels (spec 06): unpacking, luma and pyramid (R169), corners and descriptors
(R170–R172), semi-global matching (R176–R178). Pure functions of the received bytes. -/
namespace Sys2Proof.Machine

/-- Bits per pixel of a data type (R159); 16 for YUV422 8-bit. -/
def dtBits (dt : Nat) : Nat := if dt = 0x2B then 10 else if dt = 0x2C then 12 else if dt = 0x2D then 14 else 16

/-- Is a data type YUV422 8-bit. -/
def dtYuv (dt : Nat) : Bool := dt == 0x1E

/-- Bytes of a long packet of `w` pixels. -/
def rowBytes (dt w : Nat) : Nat := w * dtBits dt / 8

/-- Split a list into groups of `k`, at most `n` groups. -/
def groupsOf {α : Type} (k : Nat) : Nat → List α → List (List α)
  | 0, _ => []
  | n + 1, l => l.take k :: groupsOf k n (l.drop k)

/-- The samples of one group of a packed row (CSI-2's packing, log entry 37). -/
def unpackGroup (dt : Nat) (g : List Byte) : List Nat :=
  let b := fun k => (nthD 0 g k).toNat
  if dt = 0x2B then (upTo 4).map fun k => b k * 4 + b 4 / 4 ^ k % 4
  else if dt = 0x2C then [b 0 * 16 + b 2 % 16, b 1 * 16 + b 2 / 16]
  else if dt = 0x2D then
    let low := b 4 + 256 * b 5 + 65536 * b 6
    (upTo 4).map fun k => b k * 64 + low / 64 ^ k % 64
  else [b 0 * 256 + b 1]

/-- Bytes of a group and samples of a group. -/
def groupSize (dt : Nat) : Nat × Nat :=
  if dt = 0x2B then (5, 4) else if dt = 0x2C then (3, 2) else if dt = 0x2D then (7, 4) else (2, 1)

/-- The samples of a row; of YUV422 its Y samples. -/
def unpackRow (dt w : Nat) (b : List Byte) : List Nat :=
  if dtYuv dt then (upTo w).map fun k => (nthD 0 b (2 * k + 1)).toNat
  else
    let g := groupSize dt
    (groupsOf g.1 (w / g.2) b).flatMap (unpackGroup dt)

/-- The bytes of a row in the raw object (R166). -/
def rawRow (dt w : Nat) (b : List Byte) : List Byte :=
  if dtYuv dt then b else (unpackRow dt w b).flatMap (leBytes 2)

/-- A row-major image held flat. -/
abbrev Img := Array Nat

/-- The image of rows. -/
def imgOf (rows : List (List Nat)) : Img := (rows.flatMap id).toArray

/-- The pixel at a column and a row. -/
def Img.at (a : Img) (w x y : Nat) : Nat := a.getD (y * w + x) 0

/-- A coordinate held within 0 to n − 1. -/
def clampTo (n : Nat) (x : Int) : Nat := min x.toNat (n - 1)

/-- The pixel at integer coordinates, edge pixels replicated. -/
def Img.rep (a : Img) (w h : Nat) (x y : Int) : Nat := a.at w (clampTo w x) (clampTo h y)

/-- An image from a function of column and row. -/
def imgMake (w h : Nat) (f : Nat → Nat → Nat) : Img :=
  ((upTo h).flatMap fun y => (upTo w).map fun x => f x y).toArray

/-- Level 0 of RAW samples of `b` bits (R169). -/
def lumaRaw (b w h : Nat) (a : Img) : Img :=
  imgMake w h fun x y =>
    let s := ([(-1, 1), (0, 2), (1, 1)] : List (Int × Nat)).foldl (fun n dy =>
      ([(-1, 1), (0, 2), (1, 1)] : List (Int × Nat)).foldl (fun n dx =>
        n + dx.2 * dy.2 * a.rep w h (x + dx.1) (y + dy.1)) n) 0
    min 255 (((s + 8) / 16 + 2 ^ (b - 9)) / 2 ^ (b - 8))

/-- The next pyramid level (R169). -/
def halve (w h : Nat) (a : Img) : Img :=
  imgMake (w / 2) (h / 2) fun x y =>
    (a.at w (2 * x) (2 * y) + a.at w (2 * x + 1) (2 * y) + a.at w (2 * x) (2 * y + 1) + a.at w (2 * x + 1) (2 * y + 1) + 2) / 4

/-- `n` levels from `a` on. -/
def levelsFrom : Nat → Nat → Nat → Img → List Img
  | 0, _, _, _ => []
  | n + 1, w, h, a => a :: levelsFrom n (w / 2) (h / 2) (halve w h a)

/-- The pyramid of a frame (R169): levels 0 to 5. -/
def pyramid (dt w h : Nat) (rows : List (List Byte)) : List Img :=
  let a := imgOf (rows.map (unpackRow dt w))
  levelsFrom 6 w h (if dtYuv dt then a else lumaRaw (dtBits dt) w h a)

/-- The bytes of a pyramid (R166). -/
def pyramidBytes (p : List Img) : List Byte := p.flatMap fun a => a.toList.map (BitVec.ofNat 8)

/-- Offset of level `l` in a pyramid object. -/
def levelOff (w h l : Nat) : Nat := (upTo l).foldl (fun n k => n + (w / 2 ^ k) * (h / 2 ^ k)) 0

/-- The 16-pixel circle of radius 3 in order (log entry 38). -/
def circle16 : List (Int × Int) :=
  [(0, -3), (1, -3), (2, -2), (3, -1), (3, 0), (3, 1), (2, 2), (1, 3), (0, 3), (-1, 3), (-2, 2), (-3, 1), (-3, 0), (-3, -1),
   (-2, -2), (-1, -3)]

/-- Do at least 9 contiguous of 16 hold. -/
def nineOf (l : List Bool) : Bool := (upTo 16).any fun k => (upTo 9).all fun j => nthD false l ((k + j) % 16)

/-- The score of a candidate (R170), or none. -/
def cornerAt (a : Img) (w h th x y : Nat) : Option Nat :=
  let p := a.at w x y
  let c := circle16.map fun d => a.rep w h (x + d.1) (y + d.2)
  if nineOf (c.map fun v => decide (p + th < v)) || nineOf (c.map fun v => decide (v + th < p)) then
    some (min 65535 (c.foldl (fun n v => n + ((max v p - min v p) - th)) 0))
  else none

/-- A corner: level, column and row on it, score. -/
structure Corner where
  level : Nat
  x : Nat
  y : Nat
  score : Nat
  deriving DecidableEq, Repr

/-- Level-0 position in sixteenths (R170). -/
def Corner.x4 (c : Corner) : Nat := c.x * 2 ^ c.level * 16 + (2 ^ c.level - 1) * 8
/-- Level-0 row in sixteenths. -/
def Corner.y4 (c : Corner) : Nat := c.y * 2 ^ c.level * 16 + (2 ^ c.level - 1) * 8

/-- The candidates of a level in raster order (R170). -/
def candidates (a : Img) (w h th level : Nat) : List Corner :=
  (upTo h).flatMap fun y =>
    if 24 ≤ y ∧ y + 24 < h then
      (upTo w).filterMap fun x =>
        if 24 ≤ x ∧ x + 24 < w then (cornerAt a w h th x y).map fun s => ⟨level, x, y, s⟩ else none
    else []

/-- Non-maximum suppression (R170). -/
def suppress (r : Nat) (l : List Corner) : List Corner :=
  l.filter fun c => !(l.any fun o =>
    decide ((max o.x c.x - min o.x c.x) ≤ r) && decide ((max o.y c.y - min o.y c.y) ≤ r) &&
    (decide (c.score < o.score) ||
      (decide (o.score = c.score) && (decide (o.y < c.y) || (decide (o.y = c.y) && decide (o.x < c.x))))))

/-- The order within a cell (R170). -/
def cornerLt (a b : Corner) : Bool :=
  decide (b.score < a.score) || (decide (a.score = b.score) && (decide (a.level < b.level) ||
    (decide (a.level = b.level) && (decide (a.y4 < b.y4) || (decide (a.y4 = b.y4) && decide (a.x4 < b.x4))))))

/-- The corners of a frame in record order, and whether any cell discarded one (R170): `feat` is SHORE_FEAT_CFG. -/
def corners (p : List Img) (w h feat : Nat) : List Corner × Bool :=
  if bitOf feat 31 then
    let all := (upTo (bitsOf feat 30 28)).flatMap fun l =>
      suppress (bitsOf feat 27 25) (candidates (p.getD l #[]) (w / 2 ^ l) (h / 2 ^ l) (bitsOf feat 7 0) l)
    let per := bitsOf feat 24 12 / 128
    let cells := (upTo 128).map fun k => sortBy cornerLt (all.filter fun c => c.x4 / w + 16 * (c.y4 / (2 * h)) == k)
    (cells.flatMap fun l => l.take per, cells.any fun l => decide (per < l.length))
  else ([], false)

/-- The orientation of a feature (R171): the sixteenth-of-a-turn sectors are 1/256 wide and centred. -/
def orientation (m10 m01 : Int) : Nat :=
  if m10 = 0 ∧ m01 = 0 then 0
  else
    let cross := fun (k : Nat) => cosFix ((2 * k + 511) % 512) 512 * m01 - sinFix ((2 * k + 511) % 512) 512 * m10
    ((upTo 256).find? fun k => decide (0 ≤ cross k) && decide (cross (k + 1) < 0)).getD 0

/-- The luma moments over the disc (R171). -/
def moments (a : Img) (w h x y : Nat) : Int × Int :=
  (upTo 31).foldl (fun m (j : Nat) => (upTo 31).foldl (fun m (i : Nat) =>
    let dx : Int := (i : Int) - 15
    let dy : Int := (j : Int) - 15
    if dx * dx + dy * dy ≤ 225 then
      let v : Int := a.rep w h (x + dx) (y + dy)
      (m.1 + dx * v, m.2 + dy * v)
    else m) m) (0, 0)

/-- One step of the pattern generator (R171). -/
def lfsrStep (s : Nat) : Nat := if s % 2 = 1 then s / 2 ^^^ 0x80200003 else s / 2

/-- draw() of R171. -/
def drawPat : Nat → Nat → Nat × Int
  | 0, s => (s, 0)
  | n + 1, s =>
    let s1 := lfsrStep s
    let c : Nat := s1 / 2 ^ 26 % 32
    if c = 31 then drawPat n s1 else (s1, (c : Int) - 15)

/-- The tests drawn from a generator state (R171). -/
def drawTests : Nat → Nat → Nat → List (Int × Int × Int × Int)
  | 0, _, _ => []
  | _, 0, _ => []
  | fuel + 1, k + 1, s =>
    let a := drawPat 256 s
    let b := drawPat 256 a.1
    let c := drawPat 256 b.1
    let d := drawPat 256 c.1
    if a.2 = c.2 ∧ b.2 = d.2 then drawTests fuel (k + 1) d.1 else (a.2, b.2, c.2, d.2) :: drawTests fuel k d.1

/-- The test pattern (R171). -/
def testPattern : List (Int × Int × Int × Int) := drawTests 4096 256 0x2545F491

/-- A pattern point rotated by `q` of 32 steps (R171). -/
def rotatePoint (q : Nat) (p : Int × Int) : Int × Int :=
  let c := f32OfScaled (cosFix q 32) (-192)
  let s := f32OfScaled (sinFix q 32) (-192)
  let r := fun (v : Nat) => sext 32 (fToInt 32 false 0 (fdecode .f32 v)).1
  (r (f32Sub (f32Mul c (f32OfInt p.1)) (f32Mul s (f32OfInt p.2))), r (f32Add (f32Mul s (f32OfInt p.1)) (f32Mul c (f32OfInt p.2))))

/-- The sum of the 5 × 5 block centred at a point (R171). -/
def blockSum (a : Img) (w h : Nat) (x y : Int) : Nat :=
  (upTo 5).foldl (fun n (j : Nat) => (upTo 5).foldl (fun n (i : Nat) => n + a.rep w h (x + i - 2) (y + j - 2)) n) 0

/-- Orientation and descriptor of a corner on its level's image (R171). -/
def describe (a : Img) (w h : Nat) (c : Corner) : Nat × Nat :=
  let m := moments a w h c.x c.y
  let o := orientation m.1 m.2
  let q := (divRne o 8).toNat % 32
  let t := testPattern.zipIdx
  (o, t.foldl (fun d e =>
    let pa := rotatePoint q (e.1.1, e.1.2.1)
    let pb := rotatePoint q (e.1.2.2.1, e.1.2.2.2)
    if blockSum a w h (c.x + pa.1) (c.y + pa.2) < blockSum a w h (c.x + pb.1) (c.y + pb.2) then d + 2 ^ e.2 else d) 0)

/-- A feature record (R172). -/
def featureRecord (c : Corner) (od : Nat × Nat) (track : Nat) : List Byte :=
  record 48 [(0, 2, c.x4), (2, 2, c.y4), (4, 2, c.score), (6, 1, c.level), (7, 1, od.1), (8, 4, track), (0x10, 32, od.2)]

/-- The census signature of a 9 × 7 window (R176; log entry 39). -/
def census (a : Img) (w h x y : Nat) : Nat :=
  let c := a.at w x y
  (upTo 63).foldl (fun n k =>
    if k = 31 then n
    else 2 * n + b2n (decide (a.rep w h ((x : Int) + (k % 9 : Nat) - 4) ((y : Int) + (k / 9 : Nat) - 3) < c))) 0

/-- Count of ones of a number below 2^n. -/
def onesIn (n v : Nat) : Nat := (upTo n).foldl (fun k b => if bitOf v b then k + 1 else k) 0

/-- The least element of a list. -/
def leastOf : List Nat → Nat
  | [] => 0
  | x :: r => r.foldl min x

/-- Index of the least element, the lower one on a tie. -/
def argLeast (l : List Nat) : Nat :=
  (l.zipIdx.foldl (fun (b : Nat × Nat) e => if e.1 < b.1 then e else b) (l.headD 0, 0)).2

/-- One step of a path (R176): costs at the pixel, L at the previous pixel (none at the path's start). -/
def pathStep (p1 p2 : Nat) (c : List Nat) (prev : Option (List Nat)) : List Nat :=
  match prev with
  | none => c.map (min 4095)
  | some l =>
    let m := leastOf l
    (c.zipIdx).map fun e =>
      let d := e.2
      let a := nthD 0 l d
      let b := if d = 0 then a else min a (nthD 0 l (d - 1) + p1)
      let b := if d + 1 < l.length then min b (nthD 0 l (d + 1) + p1) else b
      min 4095 (e.1 + min b (m + p2) - m)

/-- A path along a row: L at each of its pixels, the first without a predecessor. -/
def pathRow (p1 p2 : Nat) : Option (List Nat) → List (List Nat) → List (List Nat)
  | _, [] => []
  | prev, c :: r =>
    let l := pathStep p1 p2 c prev
    l :: pathRow p1 p2 (some l) r

/-- A path from the row above: column x takes its predecessor from column x + dx. -/
def pathDown (p1 p2 : Nat) (dx : Int) (w : Nat) (prev : Option (List (List Nat))) (cs : List (List Nat)) : List (List Nat) :=
  (cs.zipIdx).map fun e =>
    let x : Int := (e.2 : Int) + dx
    let q := match prev with
      | none => none
      | some l => if 0 ≤ x ∧ x < w then l[x.toNat]? else none
    pathStep p1 p2 e.1 q

/-- Elementwise sum. -/
def addLists (a b : List Nat) : List Nat := (a.zip b).map fun e => e.1 + e.2

/-- Elementwise sum of rows. -/
def addRows (a b : List (List Nat)) : List (List Nat) := (a.zip b).map fun e => addLists e.1 e.2

/-- S of every row from the cost rows (R176): the five paths summed. -/
def sgmRows (p1 p2 w : Nat) : Option (List (List Nat)) → Option (List (List Nat)) → Option (List (List Nat)) →
    List (List (List Nat)) → List (List (List Nat))
  | _, _, _, [] => []
  | t, tl, tr, cs :: r =>
    let a := pathRow p1 p2 none cs
    let b := (pathRow p1 p2 none cs.reverse).reverse
    let t1 := pathDown p1 p2 0 w t cs
    let tl1 := pathDown p1 p2 (-1) w tl cs
    let tr1 := pathDown p1 p2 1 w tr cs
    addRows (addRows (addRows a b) (addRows t1 tl1)) tr1 :: sgmRows p1 p2 w (some t1) (some tl1) (some tr1) r

/-- The engine's settings for a frame pair (R175–R178). -/
structure Sgm where
  w : Nat
  h : Nat
  refRight : Bool
  p1 : Nat
  p2 : Nat
  lr : Bool
  tol : Nat
  texture : Nat

/-- The largest disparity at column `x` (R176). -/
def Sgm.dMax (g : Sgm) (x : Nat) : Nat := min 255 (if g.refRight then g.w - 1 - x else x)

/-- Column of the other view that a reference column matches at disparity `d`. -/
def Sgm.other (g : Sgm) (x d : Nat) : Int := if g.refRight then (x : Int) + d else (x : Int) - d

/-- The matching costs (R176): outside the other view the edge column stands in (log entry 39). -/
def Sgm.costs (g : Sgm) (r o : Img) : List (List (List Nat)) :=
  let cr := imgMake g.w g.h fun x y => census r g.w g.h x y
  let co := imgMake g.w g.h fun x y => census o g.w g.h x y
  (upTo g.h).map fun y => (upTo g.w).map fun x => (upTo 256).map fun d =>
    onesIn 62 (cr.at g.w x y ^^^ co.at g.w (clampTo g.w (g.other x d)) y)

/-- The disparity of a winner in sixteenths (R176). -/
def subpixel (s : List Nat) (d : Nat) : Nat :=
  let a : Int := ((nthD 0 s (d - 1) : Nat) : Int)
  let b : Int := ((nthD 0 s d : Nat) : Int)
  let c : Int := ((nthD 0 s (d + 1) : Nat) : Int)
  let den := 2 * (a - 2 * b + c)
  let frac : Int := if den ≤ 0 then 0 else max (-8) (min 8 (divRne (16 * (a - c)) den))
  (16 * (d : Int) + frac).toNat

/-- Luma range of the 9 × 7 window (R177). -/
def windowRange (a : Img) (w h x y : Nat) : Nat :=
  let v := (upTo 63).map fun k => a.rep w h ((x : Int) + (k % 9 : Nat) - 4) ((y : Int) + (k / 9 : Nat) - 3)
  v.foldl max 0 - leastOf v

/-- The winner at a pixel (R176). -/
def Sgm.winner (g : Sgm) (row : List (List Nat)) (x : Nat) : Nat := argLeast ((nthD [] row x).take (g.dMax x + 1))

/-- The winner seen from column `x` of the other view, out of the same S (R176). -/
def Sgm.winnerOther (g : Sgm) (row : List (List Nat)) (x : Nat) : Nat :=
  let n := min 255 (if g.refRight then x else g.w - 1 - x)
  argLeast ((upTo (n + 1)).map fun d => nthD 0 (nthD [] row (if g.refRight then x - d else x + d)) d)

/-- The confidence of a valid pixel (R178). -/
def confidence (s : List Nat) (d : Nat) : Nat :=
  let c1 := nthD 0 s d
  let far := (s.zipIdx.filter fun e => decide (e.2 + 1 < d) || decide (d + 1 < e.2)).map fun e => e.1
  let c2 := if far.isEmpty then Config.stereoC2 s d else leastOf far
  if c2 = 0 then 1 else max 1 (255 * (c2 - c1) / c2)

/-- The disparity word and the confidence of a pixel (R177, R178). -/
def Sgm.pixel (g : Sgm) (r : Img) (row : List (List Nat)) (x y : Nat) : Nat × Nat :=
  let s := (nthD [] row x).take (g.dMax x + 1)
  let d := g.winner row x
  if windowRange r g.w g.h x y < g.texture then (0xF001, 0)
  else if d = g.dMax x then (0xF004, 0)
  else
    let d' := g.winnerOther row (clampTo g.w (g.other x d))
    if g.lr ∧ g.tol < max d d' - min d d' then (if g.refRight then 0xF002 else 0xF003, 0)
    else (if d = 0 then 0 else subpixel s d, confidence s d)

/-- The disparity map of a frame pair: words and confidences in raster order (R176–R178). -/
def Sgm.map (g : Sgm) (r o : Img) : List (Nat × Nat) :=
  ((sgmRows g.p1 g.p2 g.w none none none (g.costs r o)).zipIdx).flatMap fun e =>
    (upTo g.w).map fun x => g.pixel r e.1 x e.2

end Sys2Proof.Machine
end

