-- ==== Sys2Proof/Machine/Vision.lean ====
section
/-! DEFINITION. What Shore computes in F32 (spec 06): the fit of a track (R173), rectification (R176), the projection of a lidar point into a
camera (R185). -/
namespace Sys2Proof.Machine

/-- The image of level `l` in the bytes of a pyramid (R166). -/
def levelImg (bytes : List Byte) (w h l : Nat) : Img :=
  (((bytes.drop (levelOff w h l)).take ((w / 2 ^ l) * (h / 2 ^ l))).map fun b => b.toNat).toArray

/-- The largest integer not above an F32 value; 0 for an infinity or a NaN. -/
def f32Floor (v : Nat) : Int :=
  match fdecode .f32 v with
  | .fin neg m e =>
    let d := 2 ^ (-e).toNat
    let x : Int := (m * 2 ^ e.toNat : Nat)
    (if neg then -x else x) / (d : Nat)
  | _ => 0

/-- A pixel by bilinear sampling at an F32 position, edge pixels replicated. -/
def Img.sample (a : Img) (w h x y : Nat) : Nat :=
  let i := f32Floor x
  let j := f32Floor y
  let fx := f32Sub x (f32OfInt i)
  let fy := f32Sub y (f32OfInt j)
  let p := fun (u v : Int) => f32OfInt (a.rep w h (i + u) (j + v) : Nat)
  let mix := fun (f u v : Nat) => f32Add u (f32Mul f (f32Sub v u))
  mix fy (mix fx (p 0 0) (p 1 0)) (mix fx (p 0 1) (p 1 1))

/-- The positions of an 8 × 8 patch about a point, row by row (log entry 134). -/
def patchPoints (x y : Nat) : List (Nat × Nat) :=
  (upTo 64).map fun k => (f32Add x (f32OfScaled (2 * (k % 8 : Nat) - 7) (-1)), f32Add y (f32OfScaled (2 * (k / 8 : Nat) - 7) (-1)))

/-- The 8 × 8 patch about a point. -/
def Img.patch (a : Img) (w h x y : Nat) : List Nat := (patchPoints x y).map fun p => a.sample w h p.1 p.2

/-- One Gauss–Newton step of the fit of a patch (R173): the update, none where the normal equations have no solution. -/
def fitStep (q : Img) (w h : Nat) (tmpl : List Nat) (x y : Nat) : Option (Nat × Nat) :=
  let pts := patchPoints x y
  let half := fun (u v : Nat) => f32Mul 0x3F000000 (f32Sub u v)
  let gx := pts.map fun p => half (q.sample w h (f32Add p.1 f32One) p.2) (q.sample w h (f32Sub p.1 f32One) p.2)
  let gy := pts.map fun p => half (q.sample w h p.1 (f32Add p.2 f32One)) (q.sample w h p.1 (f32Sub p.2 f32One))
  let e := (tmpl.zip (q.patch w h x y)).map fun t => f32Sub t.1 t.2
  let a := f32Dot gx gx
  let b := f32Dot gx gy
  let c := f32Dot gy gy
  let u := f32Dot gx e
  let v := f32Dot gy e
  let det := f32Sub (f32Mul a c) (f32Mul b b)
  if f32Lt 0 det then
    some (f32Div (f32Sub (f32Mul c u) (f32Mul b v)) det, f32Div (f32Sub (f32Mul a v) (f32Mul b u)) det)
  else none

/-- The iterations of one level (R173): at most so many, until the update is below 1/32 pixel along both axes. -/
def fitLevel (q : Img) (w h : Nat) (tmpl : List Nat) : Nat → Nat → Nat → Nat × Nat
  | 0, x, y => (x, y)
  | k + 1, x, y =>
    match fitStep q w h tmpl x y with
    | none => (x, y)
    | some (dx, dy) =>
      let x1 := f32Add x dx
      let y1 := f32Add y dy
      if f32Lt (fabs .f32 dx) 0x3D000000 && f32Lt (fabs .f32 dy) 0x3D000000 then (x1, y1) else fitLevel q w h tmpl k x1 y1

/-- A position on pyramid level `l` from one on level 0 (R173: positions double between levels). -/
def toLevel (l v : Nat) : Nat := f32Mul v (f32OfScaled 1 (-(l : Int)))

/-- The levels of the fit, the coarsest first (R173): `p` the previous pyramid with its size, `q` the current one; `pos` the previous
position, (x, y) the guess on the level above. -/
def fitLevels (p : Nat → Img) (pw ph : Nat) (q : Nat → Img) (w h : Nat) (pos : Nat × Nat) : List Nat → Nat × Nat → Nat × Nat
  | [], g => g
  | l :: r, g =>
    let tmpl := (p l).patch (pw / 2 ^ l) (ph / 2 ^ l) (toLevel l pos.1) (toLevel l pos.2)
    let f := fitLevel (q l) (w / 2 ^ l) (h / 2 ^ l) tmpl 8 g.1 g.2
    fitLevels p pw ph q w h pos r (if l = 0 then f else (f32Dbl f.1, f32Dbl f.2))

/-- The fit of R173 from level 5 down to level 0. -/
def trackFit (p : Nat → Img) (pw ph : Nat) (q : Nat → Img) (w h : Nat) (pos guess : Nat × Nat) : Nat × Nat :=
  fitLevels p pw ph q w h pos [5, 4, 3, 2, 1, 0] (toLevel 5 guess.1, toLevel 5 guess.2)

/-- The mean absolute luma difference over the level-0 patches (R173). -/
def patchResidual (p : Img) (pw ph : Nat) (q : Img) (w h : Nat) (pos new : Nat × Nat) : Nat :=
  let d := ((p.patch pw ph pos.1 pos.2).zip (q.patch w h new.1 new.2)).map fun e => fabs .f32 (f32Sub e.1 e.2)
  f32Mul 0x3C800000 (f32Sum d)

/-- The descriptor at a level-0 position on the level that the track started on (R171, R173; log entry 134). -/
def descriptorAt (q : Nat → Img) (w h l : Nat) (pos : Nat × Nat) : Nat :=
  let back := fun (v : Nat) => (f32Round (toLevel l (f32Sub v (f32OfScaled (2 ^ l - 1 : Int) (-1))))).toNat
  (describe (q l) (w / 2 ^ l) (h / 2 ^ l) { level := l, x := back pos.1, y := back pos.2, score := 0 }).2

/-- The initial guess of R173: the previous position warped by the rotation between two poses. -/
def priorWarp (cal : List Byte) (n : Nat) (a b : Pose) (pos : Nat × Nat) : Nat × Nat :=
  let c := cameraOf cal n
  let d := (f32Div (f32Sub pos.1 c.cx) c.fx, f32Div (f32Sub pos.2 c.cy) c.fy)
  let u := (Config.undistort ((cal.drop (0x80 + 128 * n + 0x10)).take 36) (BitVec.ofNat 64 (d.1 + 2 ^ 32 * d.2))).toNat
  let ray : V3 := ⟨u % 2 ^ 32, u / 2 ^ 32, f32One⟩
  let r := c.q.conj.rot (b.q.conj.rot (a.q.rot (c.q.rot ray)))
  (c.project r).getD pos

/-- Where a rectified pixel comes from (R176): bilinear between the four mesh points of its cell of 64 × 64 pixels, in units of 2^−28 pixel;
the points are in units of 2^−16. -/
def meshAt (cal : List Byte) (n l x y : Nat) : Int × Int :=
  let pt := fun (i j : Nat) =>
    let v := (Config.meshPoint cal n l (x / 64 + i) (y / 64 + j)).toNat
    (sext 32 v, sext 32 (v / 2 ^ 32))
  let u : Int := (x % 64 : Nat)
  let v : Int := (y % 64 : Nat)
  let mix := fun (f : Int × Int → Int) =>
    (64 - v) * ((64 - u) * f (pt 0 0) + u * f (pt 1 0)) + v * ((64 - u) * f (pt 0 1) + u * f (pt 1 1))
  (mix fun p => p.1, mix fun p => p.2)

/-- The rectified image of a camera at a pyramid level (R176): bilinear resampling through the mesh, rounded to the nearest, ties to even. -/
def rectify (cal : List Byte) (n l w h : Nat) (a : Img) : Img :=
  imgMake w h fun x y =>
    let m := meshAt cal n l x y
    let one : Int := 2 ^ 28
    let i := m.1 / one
    let j := m.2 / one
    let u := m.1 % one
    let v := m.2 % one
    let p := fun (du dv : Int) => (a.rep w h (i + du) (j + dv) : Int)
    (divRne ((one - v) * ((one - u) * p 0 0 + u * p 1 0) + v * ((one - u) * p 0 1 + u * p 1 1)) (one * one)).toNat

/-- A point of the lidar frame in the body frame of a stream's lidar (12 R344). -/
def lidarBody (cal : List Byte) (stream : Nat) (p : V3) : V3 :=
  let x := lidarOf cal stream
  (x.2.rot p).add x.1

/-- The projection of a body point into camera `n` at a row (R185 step 1): moved by the poses at the point's instant and at the row's, or
uncompensated without them; the position and the depth. -/
def projectAt (cal : List Byte) (n : Nat) (from_ dest : Option Pose) (p : V3) : Option (Nat × Nat) × Nat :=
  let b := match from_, dest with
    | some x, some y => x.carry y p
    | _, _ => p
  let c := cameraOf cal n
  let v := c.view b
  (c.project v, v.z)

/-- The row of the table that a projection lands on; one outside the image stands for the nearest (log entry 134). -/
def landedRow (h : Nat) (p : Option (Nat × Nat)) (row : Nat) : Nat :=
  match p with
  | some (_, v) => min (f32Round v).toNat (h - 1)
  | none => row

end Sys2Proof.Machine
end

