-- ==== Sys2Proof/Machine/Shore.lean ====
section
/-! DEFINITION. Shore (spec 06): ports, frames, shedding, pins, pairs, lidar, projection; the meanings of its rows that
release no unit. -/
namespace Sys2Proof.Machine

/-- Camera port `n`. -/
def State.sport (s : State) (n : Nat) : SPort := SMap.get (fun _ => ({} : SPort)) s.shore.ports n
/-- The state with it replaced. -/
def State.setSport (s : State) (n : Nat) (x : SPort) : State :=
  { s with shore := { s.shore with ports := SMap.set (fun _ => ({} : SPort)) s.shore.ports n x } }
/-- Stereo pair `p`. -/
def State.spair (s : State) (p : Nat) : SPair := SMap.get (fun _ => ({} : SPair)) s.shore.pairs p
/-- The state with it replaced. -/
def State.setSpair (s : State) (p : Nat) (x : SPair) : State :=
  { s with shore := { s.shore with pairs := SMap.set (fun _ => ({} : SPair)) s.shore.pairs p x } }
/-- FSYNC_OUT pin `k`. -/
def State.spin (s : State) (k : Nat) : SPin := SMap.get (fun _ => ({} : SPin)) s.shore.pins k
/-- The state with it replaced. -/
def State.setSpin (s : State) (k : Nat) (x : SPin) : State :=
  { s with shore := { s.shore with pins := SMap.set (fun _ => ({} : SPin)) s.shore.pins k x } }
/-- Lidar stream `k`. -/
def State.stream (s : State) (k : Nat) : SStream := SMap.get (fun _ => ({} : SStream)) s.shore.streams k
/-- The state with it replaced. -/
def State.setStream (s : State) (k : Nat) (x : SStream) : State :=
  { s with shore := { s.shore with streams := SMap.set (fun _ => ({} : SStream)) s.shore.streams k x } }

/-- Field of SHORE_PORT_CFG_n in force. -/
def State.pcfg (s : State) (n : Nat) (b : Bits) : Nat := s.cfgFld (R.SHORE_PORT_CFG + 0x40 * n) b
/-- Field of SHORE_PAIR_CFG_p in force. -/
def State.pairCfg (s : State) (p : Nat) (b : Bits) : Nat := s.cfgFld (R.SHORE_PAIR_CFG + 0x20 * p) b

/-- State in SHORE_PORT_STATUS_n: 0 OFF, 1 WAITING, 2 STREAMING, 3 LOST, 4 REFUSED. -/
def State.portSt (s : State) (n : Nat) : Nat := s.fld (R.SHORE_PORT_STATUS + 0x40 * n) R.SHORE_PORT_STATUS_state
/-- The state with it written. -/
def State.setPortSt (s : State) (n v : Nat) : State := s.setFld (R.SHORE_PORT_STATUS + 0x40 * n) R.SHORE_PORT_STATUS_state v
/-- Is port `n` shedding. -/
def State.shedding (s : State) (n : Nat) : Bool := s.fld (R.SHORE_PORT_STATUS + 0x40 * n) R.SHORE_PORT_STATUS_shed == 1
/-- State in SHORE_PAIR_STATUS_p: 0 OFF, 1 RUNNING, 2 SUSPENDED, 3 REFUSED. -/
def State.pairSt (s : State) (p : Nat) : Nat := s.fld (R.SHORE_PAIR_STATUS + 0x20 * p) R.SHORE_PAIR_STATUS_state

/-- Is port `n` powered (16 R422, R469). -/
def State.portPowered (s : State) (n : Nat) : Bool :=
  !s.shore.off && (decide (s.dev.state ≠ .watch) || decide (n = s.cfgFld R.PWR_WATCH_CFG R.PWR_WATCH_CFG_port))

/-- Do stereo, lidar and projection run: Shore is on and the device is not in WATCH (16 R422, R426). -/
def State.shoreFull (s : State) : Bool := !s.shore.off && decide (s.dev.state ≠ .watch)

/-- A port starts or stops shedding; its own and the Isle's status follow (R167). -/
def State.setShed (s : State) (n : Nat) (on : Bool) : State :=
  let o := R.SHORE_WR_STATUS + 4 * (n / 8)
  let m := s.fld o R.SHORE_WR_STATUS_shed
  ((s.setFld (R.SHORE_PORT_STATUS + 0x40 * n) R.SHORE_PORT_STATUS_shed (b2n on)).setFld o R.SHORE_WR_STATUS_shed
    (putBits m (n % 8) (n % 8) (b2n on))).setSport n { s.sport n with shedStarts := 0 }

/-- The configuration of port `n` that a frame keeps. -/
def State.frameCfg (s : State) (n : Nat) : FrameCfg :=
  let q := 0x40 * n
  { width := s.cfgFld (R.SHORE_PORT_SIZE + q) R.SHORE_PORT_SIZE_width
    height := s.cfgFld (R.SHORE_PORT_SIZE + q) R.SHORE_PORT_SIZE_height
    dtype := s.pcfg n R.SHORE_PORT_CFG_data_type
    vc := s.pcfg n R.SHORE_PORT_CFG_vc
    raw := s.pcfg n R.SHORE_PORT_CFG_raw_write == 1
    slots := s.pcfg n R.SHORE_PORT_CFG_slots
    period := s.cfgFld (R.SHORE_PORT_PERIOD + q) R.SHORE_PORT_PERIOD_period_us
    expoff := (s.cfgReg (R.SHORE_PORT_EXPOFF + q) : Nat)
    fsync := s.pcfg n R.SHORE_PORT_CFG_fsync
    feat := s.cfgReg (R.SHORE_FEAT_CFG + q)
    trk := s.cfgReg (R.SHORE_TRACK_CFG + q) }

/-- The conditions of R160. -/
def FrameCfg.ok (c : FrameCfg) : Bool :=
  c.width % 32 == 0 && c.height % 32 == 0 && decide (64 ≤ c.width) && decide (c.width ≤ 4096) && decide (64 ≤ c.height) &&
  decide (c.height ≤ 4096) && decide (c.width * c.height ≤ 8388608) && decide (1000 ≤ c.period) &&
  decide (c.period ≤ 1000000) && decide (c.width * c.height ≤ 480 * c.period)

/-- Is port `n` in cam_mask. -/
def State.inCamMask (s : State) (n : Nat) : Bool := bitOf (s.cfgFld R.SHORE_PROJ_CFG R.SHORE_PROJ_CFG_cam_mask) n

/-- Free the objects of a slot. -/
def State.freeSlot (s : State) (x : SlotObjs) : State :=
  ([x.raw, x.pyr, x.rows, x.feats, x.tracks, x.depth, x.assoc].filter fun k => decide (k ≠ 0)).foldl State.freeObj s

/-- Allocate system objects of T2 in order, each given as size, owner and Isle; one of size 0 is none and its id 0. -/
def State.allocSystems (s : State) : List (Nat × Nat × Nat) → List Nat × State
  | [] => ([], s)
  | (0, _, _) :: l =>
    let r := s.allocSystems l
    (0 :: r.1, r.2)
  | (size, owner, isle) :: l =>
    let a := s.allocSystem size owner 2 isle
    let r := a.2.allocSystems l
    (a.1 :: r.1, r.2)

/-- Allocate the objects of one slot of port `n` (R137, R164, R166, R185, 08 R225). -/
def State.allocSlot (s : State) (n : Nat) (c : FrameCfg) : SlotObjs × State :=
  let isle := n / 8
  let raw := if c.raw then (if dtYuv c.dtype then rowBytes c.dtype c.width * c.height else 2 * c.width * c.height) else 0
  let r := s.allocSystems [(raw, 0x80, isle), (levelOff c.width c.height 6, 0x80, isle), (8 * c.height, 0x80, isle),
    (48 * bitsOf c.feat 24 12, 0x80, isle), (0x20000, 0x80, isle), (if s.inCamMask n then 0x400000 else 0, 0x80, 0), (64 + 32 * 2048, 0x81, 0)]
  let id := nthD 0 r.1
  ({ raw := id 0, pyr := id 1, rows := id 2, feats := id 3, tracks := id 4, depth := id 5, assoc := id 6 }, r.2)

/-- Allocate `k` slots. -/
def State.allocSlots (s : State) (n : Nat) (c : FrameCfg) : Nat → List SlotObjs × State
  | 0 => ([], s)
  | k + 1 =>
    let a := s.allocSlot n c
    let r := a.2.allocSlots n c k
    (a.1 :: r.1, r.2)

/-- The sizes that a port's slots follow. -/
def State.slotSig (s : State) (n : Nat) (c : FrameCfg) : List Nat :=
  [c.width, c.height, b2n c.raw + 2 * b2n (dtYuv c.dtype), c.slots, bitsOf c.feat 24 12, b2n (s.inCamMask n)]

/-- The frame ring and the depth ring of a port (R166, R185). -/
def State.portRings (s : State) (n : Nat) : State :=
  if (s.sport n).ringObj ≠ 0 then s
  else
    let a := s.allocSystem 2048 0x80 2 (n / 8)
    let b := a.2.allocSystem 512 0x80 2 0
    let q := 0x40 * n
    ((b.2.setSport n { b.2.sport n with ringObj := a.1, depthRing := b.1 }).setReg64 (R.SHORE_PORT_RING_LO + q)
      (placedAddr a.1)).setReg64 (R.SHORE_DEPTH_RING_LO + q) (placedAddr b.1)

/-- The objects of a port follow its configuration (R164); live tracks go on, from the frame they were last tracked into (R173). -/
def State.ensureSlots (s : State) (n : Nat) : State :=
  let c := s.frameCfg n
  let x := s.sport n
  if x.sig = s.slotSig n c then s
  else
    let s1 := s.portRings n
    let a := s1.allocSlots n c c.slots
    let x1 := a.2.sport n
    let keep := decide (x1.cur.isSome) || !x1.ended.isEmpty || decide (x1.prev.isSome)
    let s2 := a.2.setSport n { x1 with sig := s.slotSig n c, slots := a.1, nextSlot := 0, oldSlots := if keep then x1.oldSlots ++ x1.slots else [] }
    if keep then s2 else (x1.oldSlots ++ x1.slots).foldl State.freeSlot s2

/-- Free the slots of an earlier configuration once no frame fills them. -/
def State.dropOldSlots (s : State) (n : Nat) : State :=
  let x := s.sport n
  if x.oldSlots.isEmpty ∨ x.cur.isSome ∨ !x.ended.isEmpty ∨ x.proj.isSome ∨ !x.toProject.isEmpty ∨ !x.toAssoc.isEmpty ∨
      x.prev.any (fun d => x.oldSlots.any fun o => o.pyr == d.slot.pyr) then s
  else x.oldSlots.foldl State.freeSlot (s.setSport n { x with oldSlots := [] })

/-- The check of a port at a point where its configuration takes effect (R160, R162, 16 R426). -/
def State.checkPort (s : State) (n : Nat) : State :=
  let x := s.sport n
  let en := s.pcfg n R.SHORE_PORT_CFG_enable == 1
  let c := s.frameCfg n
  let st := if !en || !s.portPowered n then 0 else if !c.ok then 4 else if s.portSt n = 0 ∨ s.portSt n = 4 then 1 else s.portSt n
  let x1 := { x with en := en, frameSeq := if en && !x.en then 0 else x.frameSeq
                     cur := if s.portPowered n then x.cur else none
                     ended := if s.portPowered n then x.ended else [] }
  let s1 := (s.setSport n x1).setPortSt n st
  let s2 := if (st = 0 ∨ st = 4) ∧ s1.shedding n then s1.setShed n false else s1
  let s3 := if st = 0 then s2.setFld (R.SHORE_PORT_STATUS + 0x40 * n) R.SHORE_PORT_STATUS_lanes_up 0 else s2
  if st = 1 ∨ st = 2 ∨ st = 3 then s3.ensureSlots n else s3

/-- Does pair `p` meet R175. -/
def State.pairOk (s : State) (p : Nat) : Bool :=
  let a := s.frameCfg (2 * p)
  let b := s.frameCfg (2 * p + 1)
  let l := s.pairCfg p R.SHORE_PAIR_CFG_level
  let px := (a.width / 2 ^ l) * (a.height / 2 ^ l)
  s.pcfg (2 * p) R.SHORE_PORT_CFG_enable == 1 && s.pcfg (2 * p + 1) R.SHORE_PORT_CFG_enable == 1 &&
  decide (s.portSt (2 * p) ≠ 4) && decide (s.portSt (2 * p + 1) ≠ 4) && a.width == b.width && a.height == b.height &&
  a.period == b.period && a.fsync == b.fsync && decide (px ≤ 4194304) && decide (px ≤ 240 * a.period)

/-- The reference port of pair `p` and the other one. -/
def State.pairRef (s : State) (p : Nat) : Nat := 2 * p + s.pairCfg p R.SHORE_PAIR_CFG_ref
/-- The other port of pair `p`. -/
def State.pairOther (s : State) (p : Nat) : Nat := 2 * p + 1 - s.pairCfg p R.SHORE_PAIR_CFG_ref

/-- The record ring of pair `p` (R179). -/
def State.pairRing (s : State) (p : Nat) : State :=
  let x := s.spair p
  if x.ringObj ≠ 0 then s
  else
    match s.allocSystem 1024 0x80 2 (p / 4) with
    | (id, s1) => (s1.setSpair p { x with ringObj := id }).setReg64 (R.SHORE_PAIR_RING_LO + 0x20 * p) (placedAddr id)

/-- The cost buffer of pair `p`, `3 * w * 512` bytes in whole pages, logged as STEREO_ASSIGN (R175, 05 R155). -/
def State.pairBuffer (s : State) (p w : Nat) : State :=
  let x := s.spair p
  let size := pagesOf (3 * w * 512) * 0x10000
  let fits : Bool := match s.obj x.buffer with
    | some o => o.size == size
    | none => false
  if fits then s
  else
    match (if x.buffer = 0 then s else s.freeObj x.buffer).allocSystem size 0x80 2 (p / 4) with
    | (id, s1) =>
      let d : Decision := { epoch := s.dev.epoch, kind := 0xA, reason := 8, cls := 0, owner := 0x80, dst := placeByte 2 (p / 4),
                            objects := 1, bytes := size, tag := s1.objTag id, since := s.tb3, always := true }
      (s1.noteDecision d).setSpair p { x with buffer := id }

/-- The disparity maps of pair `p`, `n` of them (R179). -/
def State.pairMaps (s : State) (p bytes n : Nat) : State :=
  let x := s.spair p
  if x.mapBytes = bytes ∧ x.maps.length = n then s
  else
    match (x.maps.foldl State.freeObj s).allocSystems (List.replicate n (bytes, 0x80, p / 4)) with
    | (ids, s1) => s1.setSpair p { x with maps := ids, nextMap := 0, mapBytes := bytes, matched := [] }

/-- The objects of a running pair (R175, R179): ring, cost buffer and maps. -/
def State.ensurePair (s : State) (p : Nat) : State :=
  let c := s.frameCfg (s.pairRef p)
  let l := s.pairCfg p R.SHORE_PAIR_CFG_level
  let w := c.width / 2 ^ l
  ((s.pairRing p).pairBuffer p w).pairMaps p (3 * w * (c.height / 2 ^ l)) c.slots

/-- SHORE_PAIR_STATUS_p takes its fields (R188). -/
def State.setPairStatus (s : State) (p st trial : Nat) (pairSkew : Bool) : State :=
  (s.setReg (R.SHORE_PAIR_STATUS + 0x20 * p) (trial * 2 ^ 16 + b2n pairSkew * 2 ^ 8 + st)).pairSensorSkew p

/-- The check of a pair (R175, 16 R426). -/
def State.checkPair (s : State) (p : Nat) : State :=
  let en := s.pairCfg p R.SHORE_PAIR_CFG_enable == 1 && s.shoreFull
  let st := if !en then 0 else if !s.pairOk p then 3 else if s.pairSt p = 1 ∨ s.pairSt p = 2 then s.pairSt p else 1
  let s1 := if st = s.pairSt p then s
    else (s.setPairStatus p st 0 false).setSpair p { s.spair p with waiting := [], resume := false }
  if st = 1 ∨ st = 2 then s1.ensurePair p else s1

/-- A pin meets its configuration at an epoch boundary (R163): its count starts when it is enabled. -/
def State.checkPin (s : State) (k : Nat) : State :=
  let o := R.SHORE_FSYNC_CFG + 0x10 * k
  let on := s.cfgBit o R.SHORE_FSYNC_CFG_enable && !s.shore.off
  let x := s.spin k
  if on = x.on then s
  else if on then (s.setSpin k { on := true }).setReg (R.SHORE_FSYNC_COUNT + 0x10 * k) 0
  else s.setSpin k { x with on := false }

/-- The lidar templates of the active set. -/
def State.lidarTemplates (s : State) : List (List Byte) :=
  match s.cfg.active with
  | some i => i.lidar
  | none => []

/-- The point rings of the streams that templates name (R183). -/
def State.ensureStream (s : State) (k : Nat) : State :=
  if (s.stream k).ringObj ≠ 0 ∨ !(s.lidarTemplates.any fun t => leAt t 0 1 == 1 && leAt t 1 1 == k) then s
  else
    let a := s.allocSystem 0x800000 0x80 2 0
    (a.2.setStream k { a.2.stream k with ringObj := a.1 }).setReg64 (R.SHORE_LIDAR_RING_LO + 0x20 * k) (placedAddr a.1)

/-- A changed live calibration reaches the meshes with the frames that start after this boundary (R176). -/
def State.meshBoundary (s : State) (p t : Nat) : State :=
  let x := s.spair p
  let c := s.cal
  let newest := match x.nextMesh.getLast? with
    | some m => m.2
    | none => x.mesh
  if s.pairSt p = 0 ∨ c = newest then s
  else if x.mesh.isEmpty then s.setSpair p { x with mesh := c }
  else s.setSpair p { x with nextMesh := x.nextMesh ++ [(t, c)] }

/-- What an epoch boundary, LOAD and SWAP_CONFIG do to Shore (R160, R163, R175, R183): the causes of GLB_DEGRADED follow. -/
def State.shoreCheck (s : State) (t : Nat) : State :=
  let s1 := (upTo 16).foldl State.checkPort s
  let s2 := (upTo 8).foldl State.checkPair s1
  let s3 := (upTo 8).foldl State.checkPin s2
  let s4 := (upTo 4).foldl State.ensureStream s3
  let s5 := (upTo 8).foldl (fun s p => s.meshBoundary p t) s4
  let s6 := if s5.shoreFull then s5.setCause R.GLB_DEGRADED_port_refused ((upTo 16).any fun n => s5.portSt n == 4) else s5
  if s6.shoreFull then s6.setCause R.GLB_DEGRADED_pair_refused ((upTo 8).any fun p => s6.pairSt p == 3) else s6

/-- Shore stops (12 R356, 16 R422): frames in flight and waiting work are gone, ports, pairs and pins read OFF. -/
def State.shoreStop (s : State) : State :=
  let s1 := { s with shore := { s.shore with off := true } }
  let s2 := (upTo 16).foldl (fun s n =>
    let x := s.sport n
    (s.setSport n { x with cur := none, ended := [], toProject := [], proj := none, toAssoc := [], windows := [] }).checkPort n) s1
  (upTo 8).foldl State.checkPin ((upTo 8).foldl State.checkPair s2)

/-- Priority key: a larger one is of lower priority (R167). -/
def State.prioKey (s : State) (n : Nat) : Nat := s.pcfg n R.SHORE_PORT_CFG_priority * 16 + n

/-- The port of a list with the largest key, or the smallest. -/
def State.pickPort (s : State) (low : Bool) : List Nat → Option Nat
  | [] => none
  | n :: r =>
    match s.pickPort low r with
    | none => some n
    | some m => if (s.prioKey n < s.prioKey m) = low then some m else some n

/-- The shedding decision of Isle `i` (R167). -/
def State.shedDecision (s : State) (i fill : Nat) : State :=
  let ports := (upTo 8).map fun j => 8 * i + j
  let s1 := s.setFld (R.SHORE_WR_STATUS + 4 * i) R.SHORE_WR_STATUS_fill fill
  if s.cfgFld R.SHORE_WR_CFG R.SHORE_WR_CFG_hi ≤ fill then
    match s1.pickPort true (ports.filter fun n => s1.portSt n == 2 && !s1.shedding n) with
    | some n => s1.setShed n true
    | none => s1
  else if fill < s.cfgFld R.SHORE_WR_CFG R.SHORE_WR_CFG_lo then
    match s1.pickPort false (ports.filter fun n => s1.shedding n && decide (8 ≤ (s1.sport n).shedStarts)) with
    | some n => s1.setShed n false
    | none => s1
  else s1

/-- A frame that Shore's observation of its row 0 knows of has been delivered or dropped (R179). -/
def State.setFate (s : State) (n seq : Nat) (ok : Bool) : State :=
  let x := s.sport n
  s.setSport n { x with obs := x.obs.map fun o => if o.seq = seq ∧ o.fate = none then { o with fate := some ok } else o }

/-- Delivered reference frames wait for their stereo record (R179). -/
def State.queueStereo (s : State) (n seq : Nat) : State :=
  let p := n / 2
  if (s.pairSt p = 1 ∨ s.pairSt p = 2) ∧ n = s.pairRef p then
    match (s.sport n).obs.find? fun o => o.seq == seq with
    | some o => s.setSpair p { s.spair p with waiting := (s.spair p).waiting ++ [o] }
    | none => s
  else s

/-- The open frame of port `n` ends (R161): delivered when it is whole, else dropped whole. -/
def State.closeFrame (s : State) (n : Nat) (atEnd : Bool) : State :=
  let x := s.sport n
  match x.cur with
  | none => s
  | some f =>
    let s1 := s.setSport n { x with cur := none }
    if f.shed || f.gone then s1.setFate n f.seq false
    else if atEnd && !f.bad && decide (f.rows.length = f.cfg.height) then
      let b := f.slot
      let s2 := (s1.store (placedAddr b.rows) (f.stamps.flatMap fun t => leBytes 8 (twos 64 t))).store (placedAddr b.pyr)
        (pyramidBytes (pyramid f.cfg.dtype f.cfg.width f.cfg.height f.rows))
      let s3 := if f.cfg.raw then s2.store (placedAddr b.raw) (f.rows.flatMap (rawRow f.cfg.dtype f.cfg.width)) else s2
      let x1 := s3.sport n
      (((s3.setSport n { x1 with ended := x1.ended ++ [f], nextSlot := x1.nextSlot + 1 }).inc (R.SHORE_FRAMES + 0x40 * n)).setFate n
        f.seq true).queueStereo n f.seq
    else ((s1.inc (R.SHORE_DROP_BAD + 0x40 * n)).raise 36).setFate n f.seq false

/-- Take the next slot of port `n` (R164): a used one gets new generations. -/
def State.takeSlot (s : State) (n : Nat) : SlotObjs × State :=
  let x := s.sport n
  let k := if x.slots.isEmpty then 0 else x.nextSlot % x.slots.length
  let b := nthD { pyr := 0, rows := 0, feats := 0, tracks := 0, depth := 0, assoc := 0 } x.slots k
  let ids := [b.raw, b.pyr, b.rows, b.feats, b.tracks, b.depth, b.assoc].filter fun i => decide (i ≠ 0)
  let s1 := if b.used then ids.foldl State.newGen s else s
  (b, s1.setSport n { x with slots := setAt x.slots k { b with used := true } })

/-- A Frame Start on virtual channel `vc` of port `n` at `t`, with the Isle's write-queue fill (R161, R162, R164, R167, 16
R433). -/
def State.frameStart (s : State) (n vc fill t : Nat) : State :=
  let st := s.portSt n
  let open_ : Bool := match (s.sport n).cur with
    | some f => f.cfg.vc == vc
    | none => false
  if !s.portPowered n then s
  else if st = 0 ∨ st = 4 ∨ s.pcfg n R.SHORE_PORT_CFG_vc ≠ vc then (if open_ then s.closeFrame n false else s)
  else
    let s1 := (s.closeFrame n false).setPortSt n 2
    let s2 := s1.shedDecision (n / 8) fill
    let tr := s2.tracker n
    let s3 := if tr.state = 0 then s2 else s2.setTracker n { tr with k := tr.k + 1 }
    let s4 := s3.ensureSlots n
    let x := s4.sport n
    let seq := (x.frameSeq + 1) % 2 ^ 32
    let c := s4.frameCfg n
    let s5 := s4.setSport n { x with frameSeq := seq, lastStart := some t }
    let none1 : SlotObjs := { pyr := 0, rows := 0, feats := 0, tracks := 0, depth := 0, assoc := 0 }
    if s5.shedding n then
      let y := s5.sport n
      ((s5.setSport n { y with shedStarts := y.shedStarts + 1, cur := some { seq := seq, start := t, cfg := c, slot := none1, shed := true } }).inc
        (R.SHORE_DROP_SHED + 0x40 * n)).raise 32
    else if s5.pwr.shed then
      s5.setSport n { s5.sport n with cur := some { seq := seq, start := t, cfg := c, slot := none1, shed := true } }
    else
      let b := s5.takeSlot n
      b.2.setSport n { b.2.sport n with cur := some { seq := seq, start := t, cfg := c, slot := b.1 } }

/-- Row 0 of the open frame has arrived: the tracker observes it and the frame becomes a candidate of its pair (R179, R467, 07
R203). -/
def State.observeFrame (s : State) (n : Nat) (f : Frame) (a : Int) : State :=
  let s1 := if f.cfg.fsync < 8 then s.observeTriggered n ((s.spin f.cfg.fsync).pulses.map fun e => e.1) a
    else s.observe n a (((s.tracker n).k * s.trkPeriod n : Nat) : Int)
  let tr := s1.tracker n
  let pulse := if f.cfg.fsync < 8 then tr.lastPulse else none
  let x := s1.sport n
  s1.setSport n { x with
    obs := ({ seq := f.seq, start := f.start, t := a, pulse := pulse, o := tr.o, slot := f.slot, cfg := f.cfg } :: x.obs).take 64
    cur := x.cur.map fun f => { f with pulse := pulse } }

/-- A long packet of port `n` (R159, R161, R165). -/
def State.longPacket (s : State) (n vc dtype : Nat) (headerOk crcOk : Bool) (payload : List Byte) (t : Nat) : State :=
  let st := s.portSt n
  if !s.portPowered n ∨ (s.portSt n = 0 ∧ (s.sport n).cur.isNone) ∨ (st = 4 ∧ (s.sport n).cur.isNone) then s
  else if !headerOk then (s.inc (R.SHORE_CSI_ERR + 0x40 * n)).raise 36
  else
    match (s.sport n).cur with
    | none => s
    | some f =>
      if f.cfg.vc ≠ vc ∨ f.cfg.dtype ≠ dtype then s
      else
        let a : Int := (t : Int) - f.cfg.expoff
        let s1 := if crcOk then s else (s.inc (R.SHORE_CSI_ERR + 0x40 * n)).raise 36
        let f1 : Frame := { f with
          stamps := f.stamps ++ [a]
          rows := if f.shed || f.gone || decide (f.cfg.height ≤ f.rows.length) then f.rows else f.rows ++ [payload]
          crc := f.crc || !crcOk
          bad := f.bad || decide (payload.length ≠ rowBytes dtype f.cfg.width) || decide (f.cfg.height ≤ f.stamps.length) }
        let s2 := s1.setSport n { s1.sport n with cur := some f1 }
        if f.stamps.isEmpty then s2.observeFrame n f1 a else s2

/-- A Frame End on virtual channel `vc` of port `n` (R161). -/
def State.frameEnd (s : State) (n vc : Nat) : State :=
  match (s.sport n).cur with
  | none => s
  | some f => if f.cfg.vc = vc ∧ s.portPowered n then s.closeFrame n true else s

/-- Abandon the frame in flight of port `n` (R168). -/
def State.abandonFrame (s : State) (n : Nat) : State :=
  let x := s.sport n
  match x.cur with
  | none => s
  | some f =>
    let s1 := s.setSport n { x with cur := some { f with gone := true, rows := [] } }
    let s2 := ((s1.inc (R.SHORE_DROP_SHED + 0x40 * n)).inc R.SHORE_DROP_OVF).raise 32
    if s2.shedding n then s2 else s2.setShed n true

/-- The ports of Isle `i` with a frame in flight. -/
def State.inFlight (s : State) (i : Nat) : List Nat :=
  ((upTo 8).map fun j => 8 * i + j).filter fun n => match (s.sport n).cur with
    | some f => !f.shed && !f.gone
    | none => false

/-- The write queue of Isle `i` is full (R168): frames are abandoned until it is no longer full. `fills`: its fill after each
abandonment; one not told is no longer full. -/
def State.queueFull (s : State) (i : Nat) (fills : List Nat) : Nat → State
  | 0 => s
  | k + 1 =>
    match s.pickPort true (s.inFlight i) with
    | none => s
    | some n =>
      let f := fills.headD 0
      let s1 := (s.abandonFrame n).setFld (R.SHORE_WR_STATUS + 4 * i) R.SHORE_WR_STATUS_fill f
      if f < 128 then s1 else s1.queueFull i (fills.drop 1) k

/-- No Frame Start for 2 × period_us by `t` (R162). -/
def State.portLost (s : State) (n t : Nat) : State :=
  match (s.sport n).lastStart with
  | some e =>
    if s.portSt n = 2 ∧ e + 2000 * s.cfgFld (R.SHORE_PORT_PERIOD + 0x40 * n) R.SHORE_PORT_PERIOD_period_us ≤ t then
      (s.setPortSt n 3).raise 33
    else s
  | none => s

/-- A deskew sequence on port `n` (R159, R188): bit i of `passes` for data lane i, over the lanes in use. -/
def State.deskew (s : State) (n passes : Nat) : State :=
  if s.portSt n = 0 then s
  else s.setFld (R.SHORE_PORT_STATUS + 0x40 * n) R.SHORE_PORT_STATUS_lanes_up
    (passes % 2 ^ 2 ^ s.pcfg n R.SHORE_PORT_CFG_lanes)

/-- Does pin `k` match at `t` (R163). -/
def State.pinMatches (s : State) (k t : Nat) : Bool :=
  let o := R.SHORE_FSYNC_CFG + 0x10 * k
  let b := if s.cfgBit o R.SHORE_FSYNC_CFG_base then 3 else 0
  let p : Int := s.cfgReg (R.SHORE_FSYNC_PERIOD + 0x10 * k) * 1000
  let ph : Int := s.cfgReg (R.SHORE_FSYNC_PHASE + 0x10 * k) * 1000
  let v := s.toBase b t
  [v - 1, v, v + 1].any fun x => x % p == ph && (s.fromBase b x == t)

/-- Pin `k` starts a pulse at `t` (R163); when its time base has stepped since the previous start, one less than half a period after that start is
suppressed. -/
def State.fsyncPulse (s : State) (k t : Nat) : State :=
  let o := R.SHORE_FSYNC_CFG + 0x10 * k
  let x := s.spin k
  let p := s.cfgReg (R.SHORE_FSYNC_PERIOD + 0x10 * k) * 1000
  let early : Bool := match x.pulses with
    | e :: _ => decide (2 * t < 2 * e.1 + p) && !s.cfgBit o R.SHORE_FSYNC_CFG_base && s.time.tb0StepAt.any fun u => decide (e.1 < u) && decide (u ≤ t)
    | [] => false
  if !x.on ∨ !s.pinMatches k t ∨ early then s
  else
    let s1 := s.incWrap (R.SHORE_FSYNC_COUNT + 0x10 * k)
    (s1.setSpin k { x with pulses := ((t, s1.reg (R.SHORE_FSYNC_COUNT + 0x10 * k)) :: x.pulses).take 64 }).emit
      (.pulse k (!s.cfgBit o R.SHORE_FSYNC_CFG_polarity) t (s.cfgFld o R.SHORE_FSYNC_CFG_width_us * 1000))

/-- Row time at a position in sixteenths of a row (R174): linearly interpolated, ties to even. -/
def rowTime (stamps : List Int) (y4 : Nat) : Int :=
  let j := y4 / 16
  let a := nthD 0 stamps j
  let b := nthD a stamps (j + 1)
  a + divRne ((b - a) * (y4 % 16 : Nat)) 16

/-- An F32 position in sixteenths, ties to even. -/
def to4 (v : Nat) : Nat := (sext 32 (fToInt 32 true 4 (fdecode .f32 v)).1).toNat % 65536

/-- A tracked, new or lost track as its record shows it (R174). -/
structure TrackRow where
  track : Track
  px : Nat
  py : Nat
  status : Nat
  residual : Nat
  hamming : Nat
  feature : Nat := 0xFFFF

/-- Is an F32 value at most another. -/
def f32Le (a b : Nat) : Bool := f32Lt a b || f32Eq a b

/-- One live track tracked into a frame (R173): `p` is the previous pyramid, of frame `a`, `q` the current one. -/
def State.trackOne (s : State) (n : Nat) (p q : Nat → Img) (a : DoneFrame) (f : Frame) (x : Track) : TrackRow :=
  let w := f.cfg.width
  let h := f.cfg.height
  let pos := (x.x, x.y)
  let guess := match bitOf f.cfg.trk 30, s.poseAt a.t, s.poseAt (f.stamps.headD 0) with
    | true, some u, some v => priorWarp s.cal n u v pos
    | _, _, _ => pos
  let new := trackFit p a.cfg.width a.cfg.height q w h pos guess
  let near := fun (u v : Nat) => f32Le (fabs .f32 (f32Sub u v)) 0x43800000
  let res := patchResidual (p 0) a.cfg.width a.cfg.height (q 0) w h pos new
  let ham := onesIn 256 (descriptorAt q w h x.level new ^^^ x.desc)
  let st := if !near new.1 x.x || !near new.2 x.y then 4
    else if f32Lt new.1 0x41000000 || f32Lt (f32OfInt ((w : Int) - 9)) new.1 || f32Lt new.2 0x41000000 || f32Lt (f32OfInt ((h : Int) - 9)) new.2 then 3
    else if f32Lt (f32OfInt (bitsOf f.cfg.trk 15 8 : Nat)) res then 2
    else if bitsOf f.cfg.trk 7 0 < ham then 5 else 0
  { track := if st = 0 then { x with x := new.1, y := new.2, age := satU 16 (x.age + 1) } else x
    px := to4 x.x, py := to4 x.y, status := st, residual := min 255 (f32Round res).toNat, hamming := ham }

/-- The track that follows id `k` (R173): 0xFFFF_FFFF is skipped. -/
def nextTrackId (k : Nat) : Nat := if k + 1 = 2 ^ 32 - 1 then 0 else k + 1

/-- New tracks from the features, in record order (R173): the rows, the next id, whether any was stopped. -/
def newTracks (taken : List (Nat × Nat)) (maxT : Nat) : Nat → Nat → List ((Corner × (Nat × Nat)) × Nat) → List TrackRow × Nat × Bool
  | _, id, [] => ([], id, false)
  | live, id, ((c, od), j) :: r =>
    let free := taken.all fun p =>
      let dx := max p.1 c.x4 - min p.1 c.x4
      let dy := max p.2 c.y4 - min p.2 c.y4
      decide (16384 < dx * dx + dy * dy)
    if !free then newTracks taken maxT live id r
    else if maxT ≤ live then ([], id, true)
    else
      let t : Track := { id := id, x := f32OfScaled c.x4 (-4), y := f32OfScaled c.y4 (-4), age := 0, desc := od.2, level := c.level }
      let rest := newTracks taken maxT (live + 1) (nextTrackId id) r
      ({ track := t, px := c.x4, py := c.y4, status := 1, residual := 0, hamming := 0, feature := j } :: rest.1, rest.2)

/-- The bytes of a track record (R174). -/
def TrackRow.bytes (r : TrackRow) (stamps : List Int) : List Byte :=
  let y := to4 r.track.y
  record 32 [(0, 4, r.track.id), (4, 2, to4 r.track.x), (6, 2, y), (8, 2, r.px), (0xA, 2, r.py), (0xC, 2, r.track.age),
    (0xE, 1, r.status), (0xF, 1, r.residual), (0x10, 2, r.hamming), (0x12, 2, r.feature), (0x14, 8, twos 64 (rowTime stamps y))]

/-- SHORE_FSYNC_COUNT_k at the last pulse before `t` (R166). -/
def State.pulseCount (s : State) (k : Nat) (t : Int) : Nat :=
  match (s.spin k).pulses.find? fun e => decide ((e.1 : Int) < t) with
  | some e => e.2
  | none => 0

/-- Write the frame record of the oldest delivered frame of port `n` (R166–R174); the frame is answered. -/
def State.frameRecord (s : State) (n t : Nat) : Option DoneFrame × State :=
  let x := s.sport n
  match x.ended with
  | [] => (none, s)
  | f :: rest =>
    let c := f.cfg
    let b := f.slot
    let pyr := pyramid c.dtype c.width c.height f.rows
    let cs := corners pyr c.width c.height c.feat
    let ds := cs.1.map fun k => (k, describe (pyr.getD k.level #[]) (c.width / 2 ^ k.level) (c.height / 2 ^ k.level) k)
    let on := bitOf c.trk 31
    let tracked := match x.prev, on with
      | some a, true =>
        let old := s.bytes (placedAddr a.slot.pyr) (levelOff a.cfg.width a.cfg.height 6)
        x.tracks.map (s.trackOne n (levelImg old a.cfg.width a.cfg.height) (fun l => pyr.getD l #[]) a f)
      | _, _ => []
    let kept := tracked.filter fun r => r.status == 0
    let fresh := if on then newTracks (kept.map fun r => (to4 r.track.x, to4 r.track.y)) (bitsOf c.trk 27 16) kept.length x.nextTrack ds.zipIdx
      else ([], x.nextTrack, false)
    let rows := sortBy (fun (a b : TrackRow) => decide (a.track.id < b.track.id)) (tracked ++ fresh.1)
    let feats := ds.zipIdx.flatMap fun e =>
      featureRecord e.1.1 e.1.2 (match fresh.1.find? fun r => r.feature == e.2 with | some r => r.track.id | none => 0xFFFFFFFF)
    let s1 := (s.store (placedAddr b.feats) feats).store (placedAddr b.tracks) (rows.flatMap fun r => r.bytes f.stamps)
    let t0 := f.stamps.headD 0
    let live := kept.length + fresh.1.length
    let flags := b2n c.raw + 2 * b2n f.crc + 4 * b2n cs.2 + 8 * b2n fresh.2.2 + 16 * b2n (on && bitOf c.trk 30 && !s.estRunning)
    let tg := fun (k : Nat) => if k = 0 then 0 else s1.objTag k
    let q := x.recSeq + 1
    let d : DoneFrame := { seq := f.seq, cfg := c, slot := b, stamps := f.stamps, t := t0, pulse := f.pulse, crc := f.crc, recAt := t, rows := rows.length }
    let s2 := (s1.convStale t0).store (placedAddr x.ringObj + (q - 1) % 16 * 128) (record 128
      [(0, 8, q), (8, 4, f.seq), (0xC, 1, n), (0xD, 1, c.dtype), (0xE, 2, flags), (0x10, 8, twos 64 t0),
       (0x18, 8, twos 64 (s1.toBase 0 t0)), (0x20, 8, twos 64 (nthD t0 f.stamps (c.height - 1))), (0x28, 2, c.width),
       (0x2A, 2, c.height), (0x2C, 4, if c.fsync < 8 then s1.pulseCount c.fsync t0 else 0), (0x30, 2, cs.1.length),
       (0x32, 2, live), (0x34, 2, tracked.length - kept.length), (0x38, 8, tg b.raw), (0x40, 8, tg b.pyr), (0x48, 8, tg b.rows),
       (0x50, 8, tg b.feats), (0x58, 8, tg b.tracks), (0x60, 8, s1.dev.epoch), (0x68, 8, t)])
    let x1 := s2.sport n
    (some d, s2.setSport n { x1 with
      ended := rest, recSeq := q, tracks := (kept ++ fresh.1).map fun r => r.track, nextTrack := fresh.2.1, prev := some d
      toProject := if s.inCamMask n then x1.toProject ++ [d] else x1.toProject
      toAssoc := if s.inCamMask n then x1.toAssoc else x1.toAssoc ++ [(d, 0, 0, 0)] })

/-- The nearest frame of a list to instant `t`, the earlier one on a tie (R179). -/
def nearestObs (t : Int) : List FrameObs → Option FrameObs
  | [] => none
  | o :: r =>
    match nearestObs t r with
    | none => some o
    | some b =>
      let d := (o.t - t).natAbs
      let e := (b.t - t).natAbs
      if d < e ∨ (d = e ∧ o.t < b.t) then some o else some b

/-- The other port's offset for a reference frame (R467), or none while the record has to wait. `due`: 2 × period_us have
passed. -/
def State.otherOffset (s : State) (p : Nat) (f : FrameObs) (due : Bool) : Option Int :=
  let q := s.pairOther p
  let l := (s.sport q).obs
  match f.pulse with
  | some k =>
    match l.find? fun o => decide (o.pulse = some k) with
    | some o => some o.o
    | none =>
      if due || l.any (fun o => match o.pulse with | some j => decide (k < j) | none => false) then some (s.tracker q).o else none
  | none => some (s.tracker q).o

/-- Rectified luma of an observed frame at pyramid level `l` (R176). -/
def State.rectified (s : State) (mesh : List Byte) (n l : Nat) (o : FrameObs) : Img :=
  let w := o.cfg.width / 2 ^ l
  let h := o.cfg.height / 2 ^ l
  rectify mesh n l w h (levelImg (s.bytes (placedAddr o.slot.pyr) (levelOff o.cfg.width o.cfg.height (l + 1))) o.cfg.width o.cfg.height l)

/-- The disparity map of a matched frame pair (R176–R178). -/
def State.matchPair (s : State) (p : Nat) (mesh : List Byte) (f o : FrameObs) : List (Nat × Nat) :=
  let l := s.pairCfg p R.SHORE_PAIR_CFG_level
  let g : Sgm := { w := f.cfg.width / 2 ^ l, h := f.cfg.height / 2 ^ l, refRight := s.pairCfg p R.SHORE_PAIR_CFG_ref == 1
                   p1 := s.cfgFld (R.SHORE_PAIR_SGM + 0x20 * p) R.SHORE_PAIR_SGM_p1
                   p2 := s.cfgFld (R.SHORE_PAIR_SGM + 0x20 * p) R.SHORE_PAIR_SGM_p2
                   lr := s.pairCfg p R.SHORE_PAIR_CFG_lr_check == 1, tol := s.pairCfg p R.SHORE_PAIR_CFG_lr_tol
                   texture := s.pairCfg p R.SHORE_PAIR_CFG_texture_min }
  g.map (s.rectified mesh (s.pairRef p) l f) (s.rectified mesh (s.pairOther p) l o)

/-- The next map object of pair `p` (R164, R179). -/
def State.takeMap (s : State) (p : Nat) : Nat × State :=
  let x := s.spair p
  let k := if x.maps.isEmpty then 0 else x.nextMap % x.maps.length
  let id := nthD 0 x.maps k
  let s1 := s.setSpair p { x with nextMap := x.nextMap + 1 }
  if x.maps.length ≤ x.nextMap then
    (id, s1.newGen id)
  else (id, s1)

/-- Words of a map that equal one of a list of codes. -/
def countCodes (m : List (Nat × Nat)) (codes : List Nat) : Nat := (m.filter fun e => codes.contains e.1).length

/-- Write the stereo record of reference frame `f` with the other port's offset `oo` (R179, R180, R467). -/
def State.stereoRecord (s : State) (p : Nat) (f : FrameObs) (oo : Int) : State :=
  let ref := s.pairRef p
  let per : Int := f.cfg.period * 1000
  let ro := if f.pulse.isSome then f.o else (s.tracker ref).o
  let sk := if ref % 2 = 0 then oo - ro else ro - oo
  let sensor := s.sensorSkew (2 * p) || s.sensorSkew (2 * p + 1)
  let x := s.spair p
  let near := match nearestObs f.t (s.sport (s.pairOther p)).obs with
    | some o => if 2 * (o.t - f.t).natAbs ≤ per.natAbs then some o else none
    | none => none
  -- R180
  let trial0 := s.fld (R.SHORE_PAIR_STATUS + 0x20 * p) R.SHORE_PAIR_STATUS_trial
  let resumed := decide (s.pairSt p = 2) && x.resume
  let st := if resumed then 1 else s.pairSt p
  let s1 := if resumed then s.raise 35 else s
  let suspend := decide (st = 1) && (decide (per < sk.natAbs) || sensor)
  let s2 := if suspend then (s1.inc (R.SHORE_PAIR_SUSPEND + 0x20 * p)).raise 34 else s1
  let st1 := if suspend then 2 else st
  let half := decide (2 * (sk.natAbs : Int) < per)
  let trial := if st1 = 1 ∨ suspend then 0 else if half then min 8 (trial0 + 1) else 0
  let resume := decide (st1 = 2) && decide (trial = 8) && !sensor
  let pairSkew := if st1 = 2 then !half else decide (per < sk.natAbs)
  let s3 := ((s2.setPairStatus p st1 trial pairSkew).setReg (R.SHORE_PAIR_SKEW + 0x20 * p) (satS32 sk).toNat).setSpair p
    { s2.spair p with waiting := x.waiting.drop 1, resume := resume }
  let good := match near with
    | some o => decide (o.fate = some true)
    | none => false
  let status := if st1 = 2 then 1 else if good then 0 else 2
  let l := s.pairCfg p R.SHORE_PAIR_CFG_level
  let wh := (f.cfg.width / 2 ^ l) * (f.cfg.height / 2 ^ l)
  -- the calibration of R176
  let ready := match near with
    | some o => x.nextMesh.filter fun (m : Nat × List Byte) => decide (m.1 ≤ f.start) && decide (m.1 ≤ o.start)
    | none => []
  let mesh := match ready.getLast? with
    | some m => m.2
    | none => x.mesh
  let s4 := s3.setSpair p { s3.spair p with mesh := mesh, nextMesh := x.nextMesh.drop ready.length }
  let m := if status = 1 then List.replicate wh (0xF005, 0)
    else match status, near with
      | 0, some o => s4.matchPair p mesh f o
      | _, _ => []
  let a := if status = 2 then (0, s4.inc (R.SHORE_PAIR_NOPARTNER + 0x20 * p)) else s4.takeMap p
  let s5 := if status = 2 then a.2
    else (a.2.store (placedAddr a.1) (m.flatMap fun e => leBytes 2 e.1)).store (placedAddr a.1 + 2 * wh)
      (m.map fun e => BitVec.ofNat 8 e.2)
  let y := s5.spair p
  let q := y.recSeq + 1
  let s6 := s5.setSpair p { y with recSeq := q, matched := if status = 0 then ((f.seq, a.1, l) :: y.matched).take 16 else y.matched }
  let dt := match near with
    | some o => twos 32 (o.t - f.t)
    | none => 0x80000000
  let other := match near with
    | some o => if o.fate = some true then o.seq else 0xFFFFFFFF
    | none => 0xFFFFFFFF
  s6.store (placedAddr y.ringObj + (q - 1) % 16 * 64) (record 64
    [(0, 8, q), (8, 4, f.seq), (0xC, 4, other), (0x10, 8, twos 64 f.t), (0x18, 4, dt), (0x1C, 4, (satS32 sk).toNat),
     (0x20, 8, if status = 2 then 0 else s6.objTag a.1), (0x28, 1, p), (0x29, 1, status), (0x2A, 1, trial),
     (0x2B, 1, l + 2 * (ref % 2)), (0x2C, 4, if status = 0 then (m.filter fun e => decide (e.1 < 0x1000)).length else 0),
     (0x30, 4, countCodes m [0xF001]), (0x34, 4, countCodes m [0xF002, 0xF003]), (0x38, 4, countCodes m [0xF004])])

/-- May the stereo record of the oldest waiting reference frame be written: its pair runs, and the nearest candidate within half
a period is no longer in flight (R179, R467). -/
def State.stereoReady (s : State) (p : Nat) : Option FrameObs :=
  if s.pairSt p = 1 ∨ s.pairSt p = 2 then
    match (s.spair p).waiting with
    | [] => none
    | f :: _ =>
      match nearestObs f.t (s.sport (s.pairOther p)).obs with
      | some o => if o.fate = none ∧ 2 * (o.t - f.t).natAbs ≤ f.cfg.period * 1000 then none else some f
      | none => some f
  else none

/-- The stereo record of pair `p` at `t` (R179, R467). -/
def State.stereoWrite (s : State) (p t : Nat) : State :=
  match s.stereoReady p with
  | none => s
  | some f =>
    match s.otherOffset p f (decide (f.t + 2 * (f.cfg.period * 1000 : Nat) ≤ t)) with
    | some oo => s.stereoRecord p f oo
    | none => s

/-- 2 × period_us have passed since the reference t_exp0 (R467): the record is written at this moment. -/
def State.stereoTimeout (s : State) (p t : Nat) : State :=
  if s.pairSt p = 1 ∨ s.pairSt p = 2 then
    match (s.spair p).waiting with
    | [] => s
    | f :: _ =>
      if f.t + 2 * (f.cfg.period * 1000 : Nat) ≤ t then
        match s.otherOffset p f true with
        | some oo => s.stereoRecord p f oo
        | none => s
      else s
  else s

/-- An F32 coordinate of a lidar point (R182, R183). -/
def lidarCoord (geom scale : Nat) (b : List Byte) : Nat :=
  if geom = 0 then f32Mul (f32OfInt (sext 16 (leAt b 0 2))) scale
  else if geom = 1 then f32Mul (f32OfInt (sext 32 (leAt b 0 4))) scale
  else leAt b 0 4

/-- Point `b` of a packet: coordinates and ring; none for a point that is not written (R183). -/
def lidarPoint (tm b : List Byte) : Option (List Nat × Nat) :=
  let geom := leAt tm 3 1
  let scale := leAt tm 0x18 4
  let part := fun (o : Nat) => b.drop (leAt tm o 1)
  if geom = 3 then
    let ring := leAt (part 0x14) 0 (leAt tm 0x17 1)
    let r := f32Mul (f32OfInt (leAt (part 0x12) 0 2 : Nat)) scale
    if f32Eq r 0 then none
    else
      let az := f32Mul (f32OfInt (leAt (part 0x13) 0 2)) (leAt tm 0x28 4)
      let el := if ring < leAt tm 0x2C 2 then leAt tm (0x40 + 4 * ring) 4 else (Config.ringElevation ring).toNat
      let a := cosSin32 az
      let e := cosSin32 el
      let rc := f32Mul r e.1
      let c := [f32Mul rc a.1, f32Mul rc a.2, f32Mul r e.2]
      if c.all fun v => f32Eq v 0 then none else some (c, ring)
  else
    let c := [0x12, 0x13, 0x14].map fun o => lidarCoord geom scale (part o)
    if c.all fun v => f32Eq v 0 then none else some (c, 0)

/-- Count a point of time `t` that reaches a frame whose projection has started (R184). -/
def State.lateForProj (s : State) (t : Int) : State :=
  let n := (upTo 16).foldl (fun k p => k + ((s.sport p).windows.filter fun w => decide (w.1 ≤ t) && decide (t < w.2)).length) 0
  if n = 0 then s else (s.addTo R.SHORE_PROJ_LATE n).raise 37

/-- Write the points of a datagram (R183). -/
def State.lidarPoints (s : State) (k tmpl : Nat) (tm payload : List Byte) (t : Int) : State :=
  let pts := leAt tm 0xE 2
  (upTo pts).foldl (fun s i =>
    let b := payload.drop (leAt tm 0xA 2 + i * leAt tm 0x10 2)
    match lidarPoint tm b with
    | none => s
    | some (c, ring) =>
      let x := s.stream k
      let ti := t + (i * leAt tm 0x20 4 : Nat)
      let inten := if leAt tm 0x15 1 = 0xFF then 0 else leAt (b.drop (leAt tm 0x15 1)) 0 (leAt tm 0x16 1)
      let s1 := s.store (placedAddr x.ringObj + x.next % 2 ^ 18 * 32) (record 32
        [(0, 8, twos 64 ti), (8, 4, nthD 0 c 0), (0xC, 4, nthD 0 c 1), (0x10, 4, nthD 0 c 2), (0x14, 2, inten), (0x16, 2, ring),
         (0x18, 1, k), (0x19, 1, tmpl), (0x1A, 2, i), (0x1C, 4, x.next)])
      ((s1.setStream k { x with next := (x.next + 1) % 2 ^ 32, count := min (x.count + 1) (2 ^ 18) }).inc (R.SHORE_LIDAR_POINTS + 0x20 * k)).lateForProj ti) s

/-- A UDP datagram on Ethernet port `p` (R181–R183, 07 R203). -/
def State.lidarDatagram (s : State) (p src dport : Nat) (fragmented : Bool) (payload : List Byte) (t : Nat) : State :=
  if !s.shoreFull then s
  else
    match (s.lidarTemplates.zipIdx).find? fun e =>
      leAt e.1 0 1 == 1 && bitOf (leAt e.1 2 1) p && leAt e.1 8 2 == dport && (leAt e.1 4 4 == 0 || leAt e.1 4 4 == src) with
    | none => s.inc R.SHORE_LIDAR_UNMATCHED
    | some (tm, j) =>
      let k := leAt tm 1 1 % 4
      if fragmented ∨ payload.length ≠ leAt tm 0xC 2 then (s.inc (R.SHORE_LIDAR_ERR + 0x20 * k)).raise 37
      else
        let s1 := s.inc (R.SHORE_LIDAR_PKTS + 0x20 * k)
        let src := leAt tm 0x1C 1
        let o := leAt tm 0x1E 2
        let lat := leAt tm 0x24 4
        let a : Int := (t : Int) - lat
        if src = 0 then
          s1.lidarPoints k j tm payload (a - ((leAt tm 0xE 2 - 1) * leAt tm 0x20 4 : Nat))
        else if src = 3 then
          let st : Int := leAt payload o 4 * 1000
          let s2 := s1.observe (16 + k) a st
          s2.lidarPoints k j tm payload (st + (s2.tracker (16 + k)).o)
        else
          let v : Int := if src = 1 then leAt payload o 8 else leAt payload o 4 * 1000000000 + leAt payload (o + 4) 4
          let t3 := s1.fromBase 0 v
          ((s1.invStale 0 v).observe (16 + k) a t3).lidarPoints k j tm payload t3

/-- The point records of a stream's ring, oldest first. -/
def State.ringPoints (s : State) (k : Nat) : List (List Byte) :=
  let x := s.stream k
  if x.ringObj = 0 then []
  else (upTo x.count).map fun i => s.bytes (placedAddr x.ringObj + (x.next + 2 ^ 18 - x.count + i) % 2 ^ 18 * 32) 32

/-- The window of a frame's projection (R184). -/
def DoneFrame.window (d : DoneFrame) : Int × Int :=
  let mid := nthD 0 d.stamps (d.cfg.height / 2)
  (mid - (d.cfg.period * 500 : Nat), mid + (d.cfg.period * 500 : Nat))

/-- The projection of the next frame of port `n` starts at `t` (R184). -/
def State.projStart (s : State) (n t : Nat) : State :=
  let x := s.sport n
  match x.toProject, x.proj with
  | d :: rest, none =>
    let w := d.window
    if s.shoreFull ∧ w.2 + (s.cfgFld R.SHORE_PROJ_CFG R.SHORE_PROJ_CFG_wait_us * 1000 : Nat) < t then
      let pts := ((upTo 4).flatMap s.ringPoints).filter fun b =>
        let ti := sext 64 (leAt b 0 8)
        decide (w.1 ≤ ti) && decide (ti < w.2)
      s.setSport n { x with toProject := rest, proj := some { frame := d, points := pts }, windows := (w :: x.windows).take 64 }
    else s
  | _, _ => s

/-- A projected point (R185): cell in raster order, depth, the point, its depth record. -/
structure Projected where
  cell : Nat
  depth : Nat
  stream : Nat
  seq : Nat
  bytes : List Byte

/-- Project one point record; none for a point that is discarded (R185): first at the row of the image centre, then twice at the row that the
previous projection landed on. -/
def State.projectPoint (s : State) (n : Nat) (d : DoneFrame) (b : List Byte) : Option Projected :=
  let h := d.cfg.height
  let t := sext 64 (leAt b 0 8)
  let body := lidarBody s.cal (leAt b 0x18 1) ⟨leAt b 8 4, leAt b 0xC 4, leAt b 0x10 4⟩
  let at_ := fun (row : Nat) => projectAt s.cal n (s.poseAt t) (s.poseAt (nthD 0 d.stamps row)) body
  let next := fun (row : Nat) => landedRow h (at_ row).1 row
  let row := next (next (h / 2))
  match at_ row with
  | (some (x, y), z) =>
    let u := sext 32 (fToInt 32 true 4 (fdecode .f32 x)).1
    let v := sext 32 (fToInt 32 true 4 (fdecode .f32 y)).1
    if 0 ≤ u ∧ u < 16 * d.cfg.width ∧ 0 ≤ v ∧ v < 16 * h then
      some { cell := v.toNat / 32 * (d.cfg.width / 2) + u.toNat / 32, depth := z, stream := leAt b 0x18 1, seq := leAt b 0x1C 4
             bytes := record 16 [(0, 2, u.toNat), (2, 2, v.toNat), (4, 4, z), (8, 4, (satS32 (t - nthD 0 d.stamps row)).toNat),
               (0xC, 2, leAt b 0x14 2), (0xE, 1, leAt b 0x18 1)] }
    else none
  | (none, _) => none

/-- Is `a` the point that a cell keeps rather than `b` (R185). -/
def Projected.beats (a b : Projected) : Bool :=
  f32Lt a.depth b.depth || (f32Eq a.depth b.depth && (decide (a.stream < b.stream) ||
    (decide (a.stream = b.stream) && decide (a.seq < b.seq))))

/-- Keep one point per cell, in cell order. -/
def keepNearest (l : List Projected) : List Projected :=
  let m : SMap Projected := l.foldl (fun m p =>
    match SMap.get (fun _ => none) (m.map fun e => (e.1, some e.2)) p.cell with
    | some (q : Projected) => if p.beats q then SMap.put m p.cell p else m
    | none => SMap.put m p.cell p) []
  m.map fun e => e.2

/-- The depth records and the depth header of the frame in projection (R185). -/
def State.depthHeader (s : State) (n : Nat) : State :=
  let x := s.sport n
  match x.proj with
  | none => s
  | some j =>
    let d := j.frame
    let all := keepNearest (j.points.filterMap (s.projectPoint n d))
    let kept := all.take 262144
    let excess := all.length - kept.length
    let ego := !s.estRunning
    let q := x.depthSeq + 1
    let s1 := s.store (placedAddr d.slot.depth) (kept.flatMap fun p => p.bytes)
    let s2 := if excess = 0 then s1 else (s1.addTo R.SHORE_PROJ_CAPPED excess).raise 37
    let tag := s2.objTag d.slot.depth
    (s2.store (placedAddr x.depthRing + (q - 1) % 16 * 32) (record 32
      [(0, 8, q), (8, 4, d.seq), (0xC, 4, kept.length), (0x10, 8, tag), (0x18, 2, b2n ego + 2 * b2n (decide (excess ≠ 0))),
       (0x1A, 1, n)])).setSport n { x with proj := none, depthSeq := q, toAssoc := x.toAssoc ++ [(d, d.slot.depth, tag, kept.length)] }

/-- FRAME_START (R161, R162, R164, R167). -/
def execFrameStart (n : Fin 16) (vc : Fin 4) (fill : Fin 129) (t : Nat) (s : State) : Host.Outcome State Fault Refusal :=
  .next (s.whenAwake fun s => (s.at t).frameStart n.val vc.val fill.val t)

/-- FRAME_END (R161). -/
def execFrameEnd (n : Fin 16) (vc : Fin 4) (t : Nat) (s : State) : Host.Outcome State Fault Refusal :=
  .next (s.whenAwake fun s => (s.at t).frameEnd n.val vc.val)

/-- WRITE_QUEUE_FULL (R168). -/
def execWriteQueueFull (i : Fin 2) (fills : List (Fin 129)) (t : Nat) (s : State) : Host.Outcome State Fault Refusal :=
  .next (s.whenAwake fun s => ((s.at t).setFld (R.SHORE_WR_STATUS + 4 * i.val) R.SHORE_WR_STATUS_fill 128).queueFull i.val (fills.map fun f => f.val) 8)

/-- PORT_LOST_TIMEOUT (R162). -/
def execPortLostTimeout (n : Fin 16) (t : Nat) (s : State) : Host.Outcome State Fault Refusal :=
  .next (s.whenAwake fun s => (s.at t).portLost n.val t)

/-- FSYNC_PULSE (R163). -/
def execFsyncPulse (k : Fin 8) (t : Nat) (s : State) : Host.Outcome State Fault Refusal := .next (s.whenAwake fun s => (s.at t).fsyncPulse k.val t)

/-- DESKEW_SEQUENCE (R159). -/
def execDeskewSequence (n : Fin 16) (passes : Fin 16) (t : Nat) (s : State) : Host.Outcome State Fault Refusal :=
  .next (s.whenAwake fun s => (s.at t).deskew n.val passes.val)

/-- STEREO_RECORD_WRITE (R176–R180, R467). -/
def execStereoRecordWrite (p : Fin 8) (t : Nat) (s : State) : Host.Outcome State Fault Refusal :=
  .next (s.whenAwake fun s => (s.at t).stereoWrite p.val t)

/-- STEREO_PARTNER_TIMEOUT (R467). -/
def execStereoPartnerTimeout (p : Fin 8) (t : Nat) (s : State) : Host.Outcome State Fault Refusal :=
  .next (s.whenAwake fun s => (s.at t).stereoTimeout p.val t)

/-- PROJECTION_START (R184). -/
def execProjectionStart (n : Fin 16) (t : Nat) (s : State) : Host.Outcome State Fault Refusal :=
  .next (s.whenAwake fun s => (s.at t).projStart n.val t)


end Sys2Proof.Machine
end

