-- ==== Sys2Proof/Machine/Mask.lean ====
section
/-! DEFINITION. The sources of the estimator and sensor_mask (spec 08 R222, R226, R240, R241). -/
namespace Sys2Proof.Machine

/-- NET_UNIT_STATE_n's state (04 R127). -/
def State.unitState (s : State) (n : Nat) : Nat := s.fld (R.NET_UNIT_STATE + 0x40 * n) R.NET_UNIT_STATE_state

/-- Is the map mounted for reading (10 R309). -/
def State.mapUp (s : State) : Bool :=
  s.fld R.MAP_STATUS R.MAP_STATUS_state == 2 || s.fld R.MAP_STATUS R.MAP_STATUS_state == 3

/-- The mounted map holds a georeference (R222, 10 R277). -/
def State.mapGeo (s : State) : Bool := s.mapUp && s.fld R.MAP_STATUS R.MAP_STATUS_geo_valid == 1

/-- The mounted map is empty: it holds no landmark and no keyframe (R243). -/
def State.mapEmpty (s : State) : Bool := s.map.content.recs.all fun r => !(r.typ == 1 || r.typ == 3)

/-- Source `b`. -/
def State.source (s : State) (b : Nat) : Source := SMap.get (fun _ => ({} : Source)) s.fuse.srcs b

/-- The state with it replaced. -/
def State.setSource (s : State) (b : Nat) (x : Source) : State :=
  { s with fuse := { s.fuse with srcs := SMap.set (fun _ => ({} : Source)) s.fuse.srcs b x } }

/-- The fusion network's slot. -/
def State.fuseSlot (s : State) : Nat := s.cfgFld R.FUSE_NET_CFG R.FUSE_NET_CFG_slot

/-- Is a fusion network named. -/
def State.fuseNamed (s : State) : Bool := s.cfgBit R.FUSE_NET_CFG R.FUSE_NET_CFG_enable

/-- net_bad of FUSE_STATUS (R226). -/
def State.netBad (s : State) : Bool :=
  s.fuseNamed &&
  (!(s.unitState s.fuseSlot == 2 || s.unitState s.fuseSlot == 3) ||
   match (s.nslot s.fuseSlot).unit with
   | some x => !(x.trigKind == 0 && decide (2 ≤ (x.ios.filter fun e => !e.isOut).length) && x.ios.any fun e => e.isOut)
   | none => true)

/-- Is source `b` enabled in its own block (R240 condition 1). A GNSS receiver has no enable of its own: bit 23 needs the
georeference (R222). -/
def State.sourceOn (s : State) (b : Nat) : Bool :=
  let anyCh := fun (lo n : Nat) => (upTo n).any fun k => s.chOn (lo + k)
  if b < 16 then s.cfgBit (R.SHORE_PORT_CFG + 0x40 * b) R.SHORE_PORT_CFG_enable
  else if b < 20 then s.lidarTemplates.any fun tm => leAt tm 0 1 == 1 && leAt tm 1 1 % 4 == b - 16
  else if b < 22 then s.imuOn (b - 20)
  else if b = 22 then anyCh 20 4
  else if b = 23 then s.mapGeo
  else if b = 24 then anyCh 12 8
  else if b = 25 then s.cond.cansig.any fun e => bitOf (leAt e 0 4) 31 && decide (0x10 ≤ leAt e 5 1) && decide (leAt e 5 1 < 0x20)
  else if b = 26 then s.fuseNamed && !s.netBad && s.mapUp && s.fld R.GSOL_STATUS R.GSOL_STATUS_ld_ready == 1
  else if b = 27 then s.fuseNamed && !s.netBad
  else false

/-- The cause that source `b` is reported with (R241, R245): the lowest that holds, 0 when it is admitted. -/
def State.maskCause (s : State) (b : Nat) : Nat :=
  let x := s.source b
  let silent := match x.last with
    | some t => decide (t + s.cfgFld R.FUSE_GATE_CFG R.FUSE_GATE_CFG_dropout_ms * 1000000 < s.tb3)
    | none => true
  if !s.sourceOn b then 1
  else if silent then 2
  else if x.masked then 3
  else if decide (b < 24) && s.sensorSkew b then 4
  else 0

/-- The end of the seal wait of a boundary at TB3 instant `tb` (R234). -/
def State.waitEnd (s : State) (tb : Nat) : Nat := tb + s.cfgFld R.FUSE_OUT_CFG R.FUSE_OUT_CFG_seal_wait_us * 1000

/-- What the estimator is at a boundary's seal (R234). -/
def State.frozenNow (s : State) : Frozen :=
  { mask := s.fuse.mask, now := s.fuse.now, est := s.fuse.est, past := s.fuse.past, held := s.fuse.held }

/-- Before the estimator changes: once the seal wait of a boundary has ended, its record keeps what the estimator was at the wait's end (R234). -/
def State.freeze (s : State) : State :=
  match s.fuse.boundary, s.fuse.frozen with
  | some (_, tb), none => if s.waitEnd tb < s.tb3 then { s with fuse := { s.fuse with frozen := some s.frozenNow } } else s
  | _, _ => s

/-- The estimator enters a state (R243, R244). -/
def State.setEstState (s : State) (v : Nat) : State :=
  if s.estState = v then s else (s.setFld R.FUSE_STATUS R.FUSE_STATUS_state v).raise 99

/-- sensor_mask follows its conditions (R240); every bit that changes raises FUSE_MASK_CHANGE (R241, R244); an UNINIT
estimator that admits an IMU is ALIGNING (R243). -/
def State.refreshMask (s00 : State) : State :=
  let s := s00.freeze
  let causes := (upTo 28).map s.maskCause
  let m := (causes.zipIdx).foldl (fun a e => if e.1 = 0 then a + 2 ^ e.2 else a) 0
  let changed := (upTo 28).filter fun b => bitOf m b != bitOf s.fuse.mask b
  let s1 := (upTo 4).foldl (fun s j =>
    s.setReg (R.FUSE_MASK_CAUSE + 4 * j) ((upTo 8).foldl (fun a k => a + nthD 0 causes (8 * j + k) * 16 ^ k) 0)) s
  let s2 : State := { s1 with fuse := { s1.fuse with mask := m } }
  let s3 := (s2.setFld R.FUSE_STATUS R.FUSE_STATUS_net_bad (b2n s.netBad)).setFld R.FUSE_STATUS R.FUSE_STATUS_primary_imu
    (match s2.primaryImu with | some i => i | none => 15)
  let s4 := changed.foldl (fun s _ => s.raise 97) s3
  if s4.estState = 0 ∧ s4.primaryImu.isSome ∧ !s4.dev.estStopped then
    ({ s4 with fuse := { s4.fuse with alignAt := some s4.tb3 } }).setEstState 1
  else s4

end Sys2Proof.Machine
end

