-- ==== Sys2Proof/Machine/Net.lean ====
section
/-! DEFINITION. Network units (spec 04): loading and refusing them, invocations from release to record, weights and their
buoys, and the start of Islet assignments (02 R63). -/
namespace Sys2Proof.Machine

/-- The state with unit slot `n` replaced. -/
def State.setNslot (s : State) (n : Nat) (x : NSlot) : State :=
  { s with units := SMap.set (fun _ => ({} : NSlot)) s.units n x }

/-- The state with the invocation of slot `n` changed. -/
def State.mapInv (s : State) (n : Nat) (f : Invocation → Invocation) : State :=
  let u := s.nslot n
  match u.inv with
  | none => s
  | some v => s.setNslot n { u with inv := some (f v) }

/-- NET_UNIT_STATE_n's state takes a value; NET_LOADED and NET_DEGRADED follow (R125, R127), and net_bad and sensor_mask where the slot is the
fusion network's (08 R226, R240). -/
def State.setUnitState (s : State) (n v : Nat) : State :=
  let s1 := s.setFld (R.NET_UNIT_STATE + 0x40 * n) R.NET_UNIT_STATE_state v
  let s2 := (s1.setReg R.NET_LOADED (putBits (s1.reg R.NET_LOADED) n n (if v = 2 ∨ v = 3 ∨ v = 5 then 1 else 0))).setNetDegradedBit n (decide (v = 3 ∨ v = 5))
  if s2.fuseNamed ∧ s2.fuseSlot = n then s2.refreshMask else s2

/-- The layer record at `b` (R95). -/
def parseLayer (b : List Byte) : Layer :=
  { entry := leAt b 0 4, weightFirst := leAt b 4 2, weightN := leAt b 6 2, isletsMin := leAt b 8 2,
    isletsMax := leAt b 10 2, work := leAt b 12 4, argOff := leAt b 0x10 4, groupAtolls := leAt b 0x14 1,
    flags := leAt b 0x15 1 }

/-- The weight-table entry at `b` (R96). -/
def parseWeight (b : List Byte) : Weight :=
  { digest := b.take 64, size := leAt b 0x40 8, etype := leAt b 0x48 1, hint := leAt b 0x49 1 }

/-- The input or output entry at `b` (R98). -/
def parseIo (b : List Byte) : IoEnt :=
  { isOut := leAt b 0 1 == 1, source := leAt b 1 1, copies := leAt b 3 1, param := leAt b 4 4, bytes := leAt b 8 8,
    desc := leAt b 0x10 8, hint := leAt b 0x18 1 }

/-- `n` records of `size` bytes from offset `o`. -/
def recordsAt (b : List Byte) (o size n : Nat) : List (List Byte) :=
  (upTo n).map fun k => (b.drop (o + size * k)).take size

/-- Are `n` reserved bytes at offset `o` zero (R101). -/
def zeroAt (b : List Byte) (o n : Nat) : Bool := leAt b o n == 0

/-- Are a layer record's fields in their ranges (R95, R101). -/
def Layer.ok (l : Layer) (programBytes weightCount : Nat) : Bool :=
  l.entry % 32 == 0 && decide (l.entry < programBytes) && decide (l.weightN ≤ 1024) &&
  decide (l.weightFirst + l.weightN ≤ weightCount) && decide (1 ≤ l.isletsMin) && decide (l.isletsMin ≤ 1536) &&
  decide (l.isletsMin ≤ l.isletsMax) && decide (l.isletsMax ≤ 1536) && decide (l.groupAtolls ≤ 3) && decide (l.flags < 8)

/-- Are a weight entry's fields in their ranges (R96). -/
def Weight.ok (w : Weight) : Bool :=
  decide (64 ≤ w.size) && decide (w.size ≤ 2 ^ 30) && (EType.ofCode w.etype).isSome && decide (w.hint ≤ 4)

/-- Is an input's source listed and valid with the unit's trigger (R98). -/
def sourceOk (source trigKind trigArg : Nat) : Bool :=
  let ev := trigArg % 256
  if source = 0 then false
  else if source ≤ 7 then trigKind == 0
  else if source = 8 then trigKind == 2 && ev == 1
  else if source = 9 ∨ source = 0xB then trigKind == 2 && ev == 3
  else if source = 0xA then trigKind == 2 && ev == 2
  else source == 0xC

/-- Are an entry's fields in their ranges (R98): `b` is the entry's 32 bytes. -/
def IoEnt.ok (e : IoEnt) (b : List Byte) (trigKind trigArg : Nat) : Bool :=
  e.desc % 64 == 0 && (EType.ofCode (leAt b 2 1)).isSome && zeroAt b 0x19 7 &&
  (if e.isOut then decide (2 ≤ e.copies) && decide (e.copies ≤ 8) && decide (64 ≤ e.bytes) && decide (e.bytes ≤ 2 ^ 30) &&
      decide (e.hint ≤ 4) && e.source == 0 && e.param == 0
   else sourceOk e.source trigKind trigArg && e.copies == 0 && e.bytes == 0 && e.hint == 0 &&
      (if e.source = 8 then decide (e.param < 2 ^ 13) && decide (bitsOf e.param 7 4 = 0) else e.param == 0))

/-- Is the trigger in its range (R94, R106). -/
def triggerOk (kind arg : Nat) : Bool :=
  if kind = 0 then decide (arg % 2 ^ 16 ≠ 0) && decide (arg < 2 ^ 16)
  else if kind = 1 then decide (arg % 2 ^ 16 ≠ 0) && decide (arg / 2 ^ 16 < arg % 2 ^ 16)
  else if kind = 2 then decide (1 ≤ arg % 256) && decide (arg % 256 ≤ 3) && decide (arg < 2 ^ 16) && (arg % 256 != 1 || decide (arg / 256 < 32))
  else false

/-- Are the fields of a network-table entry in their ranges (R97). -/
def entryOk (ent : List Byte) : Bool :=
  decide (leAt ent 0x40 1 < 32) && decide (leAt ent 0x41 1 < 16) && decide (leAt ent 0x42 1 < 64) && decide (leAt ent 0x43 1 ≤ 1) &&
  decide (leAt ent 0x44 4 ≤ 1000000) && decide (1 ≤ leAt ent 0x48 1) && decide (leAt ent 0x48 1 ≤ 16) && zeroAt ent 0x49 23

/-- The fields of a unit that its network-table entry gives (R97). -/
def NUnit.withEntry (x : NUnit) (ent : List Byte) : NUnit :=
  { x with deadlineUs := if leAt ent 0x44 4 = 0 then x.deadlineHdr else leAt ent 0x44 4, cls := leAt ent 0x41 1 % 16, affinity := leAt ent 0x42 1 % 64
           elastic := leAt ent 0x43 1 == 1, maxStretch := leAt ent 0x48 1 }

/-- Bytes of an entry's descriptor, at most (R98, R99). -/
def IoEnt.descBytes (e : IoEnt) : Nat :=
  8 + 8 * (if e.isOut then 1 else match e.source with
    | 0x05 => 8
    | 0x07 | 0x08 | 0x09 | 0x0A => 1
    | 0x0C => 256
    | _ => 16)

/-- The unit that a byte string holds under a network-table entry (R94–R98), if it passes the checks of R101. -/
def parseUnit (b ent : List Byte) : Option NUnit :=
  let f := fun (o n : Nat) => leAt b o n
  let nl := f 0x10 2
  let nw := f 0x12 2
  let nio := f 0x15 1 + f 0x16 1
  let lt := f 0x28 4
  let layers := (recordsAt b lt 32 nl).map parseLayer
  let weights := (recordsAt b (f 0x2C 4) 80 nw).map parseWeight
  let ioRecs := recordsAt b (f 0x30 4) 32 nio
  let ios := ioRecs.map parseIo
  let buoyRecs := (recordsAt b (lt + 32 * nl) 4 (f 0x17 1)).map fun r => leAt r 0 4
  let dirs := (recordsAt b (f 0x30 4) 32 nio).map fun r => leAt r 0 1
  let nb := f 0x17 1
  let ok := entryOk ent && decide (64 ≤ b.length) && f 0 4 == 0x54554E4B && f 4 2 == 1 && decide (f 6 1 ≤ 4) && triggerOk (f 7 1) (f 8 4) &&
    decide (1 ≤ f 0xC 4) && decide (f 0xC 4 ≤ 1000000) && decide (1 ≤ nl) && decide (nl ≤ 4096) && decide (f 0x14 1 ≤ 16) &&
    decide (1 ≤ f 0x15 1) && decide (f 0x15 1 ≤ 16) && decide (1 ≤ f 0x16 1) && decide (f 0x16 1 ≤ 16) &&
    f 0x18 8 % 65536 == 0 && decide (f 0x18 8 ≤ 2 ^ 32) && f 0x20 8 % 64 == 0 && decide (f 0x20 8 ≤ 2 ^ 28) &&
    decide (lt + 32 * nl + 4 * nb ≤ b.length) && decide (f 0x2C 4 + 80 * nw ≤ b.length) &&
    decide (f 0x30 4 + 32 * nio ≤ b.length) && f 0x34 4 % 32 == 0 && decide (f 0x34 4 + f 0x38 8 ≤ b.length) &&
    layers.all (fun l => l.ok (f 0x38 8) nw && decide (l.argOff + 8 ≤ f 0x18 8)) && weights.all Weight.ok &&
    (ios.zip ioRecs).all (fun e => e.1.ok e.2 (f 7 1) (f 8 4) && decide (e.1.desc + e.1.descBytes ≤ f 0x18 8)) &&
    (recordsAt b lt 32 nl).all (fun r => zeroAt r 0x16 10) && (recordsAt b (f 0x2C 4) 80 nw).all (fun r => zeroAt r 0x4A 6) &&
    buoyRecs.all (fun w => decide (w < 2 ^ 17)) && dirs == List.replicate (f 0x15 1) 0 ++ List.replicate (f 0x16 1) 1
  if ok then
    let x : NUnit :=
         { digest := ent.take 64, kind := f 6 1, trigKind := f 7 1, trigArg := f 8 4, deadlineUs := f 0xC 4, deadlineHdr := f 0xC 4,
           layers := layers, weights := weights, ios := ios,
           buoyTab := buoyRecs.map fun w => (bitOf w 16, w % 2 ^ 16),
           stateCount := f 0x14 1, arenaBytes := f 0x18 8, stateBytes := f 0x20 8, progOff := f 0x34 4,
           progBytes := f 0x38 8, evec := 0, cls := 0, affinity := 0, elastic := false, maxStretch := 1 }
    some (x.withEntry ent)
  else none

/-- The Atolls a unit may use (R97). -/
def NUnit.atolls (u : NUnit) : Nat := if u.affinity = 0 then 0x3F else u.affinity

/-- Is a layer an attention layer (R95, R102). -/
def Layer.attention (l : Layer) : Bool := bitOf l.flags 2

/-- Atolls of one Isle that a layer's Islets may lie in, at most (R95, R102); none where they may lie in any. -/
def Layer.group (l : Layer) : Option Nat := if l.groupAtolls ≠ 0 then some l.groupAtolls else if l.attention then some 3 else none

/-- Does a unit have an attention layer: its arena, with the keys and values, is then held in the Shoal of the unit's Isle (R102). -/
def NUnit.attention (u : NUnit) : Bool := u.layers.any Layer.attention

/-- Does a plan keep R153 and the layer records: every layer's Islets distinct, in number within islets_min to islets_max,
within the affinity, in clock-gating groups of 16 of which at most one is taken in part (05 R149), and within one Atoll group where the layer
asks for it, that of an attention layer in the unit's Isle (R95, R102). -/
def NUnit.planOk (u : NUnit) (p : List (List Nat)) : Bool :=
  p.length == u.layers.length &&
  (p.zip u.layers).all fun (is, l) =>
    decide (l.isletsMin ≤ is.length) && decide (is.length ≤ l.isletsMax) && decide is.Nodup &&
    (is.all fun i => bitOf u.atolls (i / 512)) && decide ((is.map (· / 16)).eraseDups.length = (is.length + 15) / 16) &&
    (match l.group with
     | none => true
     | some g => decide ((is.map (· / 512)).eraseDups.length ≤ g) && decide ((is.map (· / 1536)).eraseDups.length ≤ 1) &&
         (!l.attention || is.all fun i => i / 1536 == u.isle))

/-- The first Islets that a layer may use, `n` of them at most. -/
def NUnit.firstIslets (u : NUnit) (l : Layer) (n : Nat) : List Nat :=
  let own := (upTo 6).filter fun a => bitOf u.atolls a
  let atolls := match l.group with
    | none => own
    | some g =>
      let here := own.filter fun a => a / 3 == u.isle
      (if here.isEmpty ∧ !l.attention then own.filter fun a => a / 3 == 1 - u.isle else here).take g
  (atolls.flatMap fun a => (upTo 512).map fun k => 512 * a + k).take n

/-- A plan that the Pilot could always take: the first Islets that the layers may use, as few as each accepts. -/
def NUnit.leastPlan (u : NUnit) : List (List Nat) := u.layers.map fun l => u.firstIslets l l.isletsMin

/-- The widest plan of that kind. -/
def NUnit.mostPlan (u : NUnit) : List (List Nat) := u.layers.map fun l => u.firstIslets l l.isletsMax

/-- Islets of the widest layer of a plan. -/
def widestOf (p : List (List Nat)) : Nat := p.foldl (fun m l => max m l.length) 0

/-- Atolls a plan uses, as a mask. -/
def atollsOf (p : List (List Nat)) : Nat :=
  (upTo 6).foldl (fun m a => if p.any (fun l => l.any fun i => i / 512 == a) then m + 2 ^ a else m) 0

/-- Islets whose layers differ between two plans (05 R153). -/
def reassignedBy (p q : List (List Nat)) : Nat :=
  let at_ := fun (r : List (List Nat)) (i : Nat) => r.map fun l => l.contains i
  ((p.flatten ++ q.flatten).eraseDups.filter fun i => at_ p i != at_ q i).length

/-- A plan is decided (05 R149): a change that reassigns more than 16 Islets, or a decision `d` that moves more than 1 MiB with it, is recorded
(05 R153). -/
def State.setPlan (s : State) (n : Nat) (p : List (List Nat)) (d : Decision) : State :=
  let u := s.nslot n
  (s.setNslot n { u with plan := p }).noteDecision
    { d with epoch := s.dev.epoch, owner := n, since := s.tb3, isletsBefore := widestOf u.plan, isletsAfter := widestOf p
             atollsBefore := atollsOf u.plan, atollsAfter := atollsOf p, reassigned := reassignedBy u.plan p }

/-- NET_UNIT_ISLETS_n shows the placement as of a re-plan (R127). -/
def State.showPlan (s : State) (n : Nat) : State :=
  let u := s.nslot n
  s.setReg (R.NET_UNIT_ISLETS + 0x40 * n) (if u.unit.isSome then widestOf u.plan * 2 ^ 16 + atollsOf u.plan else 0)

/-- Configured period of a unit in µs (R106). -/
def State.cfgPeriod (s : State) (u : NUnit) : Nat :=
  if u.trigKind = 0 then
    let port := ((upTo 16).filter fun k => bitOf u.trigArg k).headD 0
    s.cfgReg (R.SHORE_PORT_PERIOD + 0x40 * port)
  else if u.trigKind = 1 then u.trigArg % 2 ^ 16 * 250
  else u.deadlineUs

/-- The bytes of the three largest consecutive layers' weights (R117). -/
def NUnit.weightWindow (u : NUnit) : Nat :=
  let sizes := u.layers.map fun l => ((u.weights.drop l.weightFirst).take l.weightN).foldl (fun n w => n + w.size) 0
  (upTo u.layers.length).foldl (fun m k => max m (nthD 0 sizes k + nthD 0 sizes (k + 1) + nthD 0 sizes (k + 2))) 0

/-- The working set of R117, in bytes. -/
def NUnit.workingSet (u : NUnit) : Nat := u.arenaBytes + 2 * u.stateBytes + u.weightWindow

/-- The capacity left to class `c` in T1 to T3 after pins, system objects and objects of lower class, in bytes (R116,
R118). -/
def State.capacityFor (s : State) (c : Nat) : Nat :=
  let kept := fun (t i : Nat) => s.place.list.foldl (fun n e =>
    if e.2.system ∨ e.2.pinned ∨ e.2.cls < c then n + e.2.occupies t i else n) 0
  [1, 2, 3].foldl (fun n t => n + sumInst t fun i =>
    s.instPages t - s.retiredIn t i - kept t i - (if c = 0 then 0 else s.reserveIn t i)) 0 * 0x10000

/-- The lowest run of `n` consecutive free buoys (R111; log entry 26). -/
def State.freeBuoys (s : State) (n : Nat) : Option Nat :=
  let used := (s.buoys.filter fun e => decide (e.2.owner ≠ 0xFF)).map fun e => e.1
  let go := used.foldl (fun p b => if b < p + n ∧ p ≤ b then b + 1 else p) 0
  if go + n ≤ 65536 then some go else none

/-- Set up a unit's run of buoys (R111). -/
def State.initBuoys (s : State) (base owner layers : Nat) (tab : List (Bool × Nat)) : State :=
  let s1 := (upTo layers).foldl (fun s k => s.setBuoy (base + k) { Buoy.init with owner := owner }) s
  (upTo tab.length).foldl (fun s k =>
    let e := nthD (false, 0) tab k
    s.setBuoy (base + layers + k) { Buoy.init with owner := owner, barrier := e.1, participants := e.2 }) s1

/-- A pin as an allocation meets it: its tier, its Isle if it names one, the key of its entry. -/
structure Pin where
  tier : Nat
  isle : Option Nat
  key : Nat

/-- The pin that an entry of the pin table gives (05 R151). -/
def pinOf (p : List Byte) : Pin :=
  { tier := leAt p 4 1, isle := if leAt p 5 1 = 0xFF then none else some (leAt p 5 1), key := leAt p 0 4 }

/-- The pin of an object in the pin table (05 R151), if one of `pins` names it. -/
def pinFor (pins : List (List Byte)) (kind who index : Nat) : Option Pin :=
  (pins.find? fun p => leAt p 0 1 == kind && leAt p 1 1 == who && leAt p 2 2 == index).map pinOf

/-- The pin of a unit's state tensors: they are one object with its copy, which a pin of any of them pins (log entry 65). -/
def pinState (pins : List (List Byte)) (who : Nat) : Option Pin :=
  (pins.find? fun p => leAt p 0 1 == 2 && leAt p 1 1 == who).map pinOf

/-- Where a pinned object goes: where its pin's pages are kept, else the instance of its tier that has most room (05 R152). -/
def State.pinPlace (s : State) (p : Pin) (isle : Nat) : Nat × Nat :=
  let e := SMap.get (fun _ => (0, 0, 0)) s.place.hold p.key
  if e.1 = 0 then (p.tier, s.bestInst p.tier (p.isle.getD isle) 0) else (e.1, e.2.1)

/-- Pages kept for a pin are taken by one of its objects. -/
def State.useHold (s : State) (key n : Nat) : State :=
  let e := SMap.get (fun _ => (0, 0, 0)) s.place.hold key
  let left := e.2.2 - n
  { s with place := { s.place with hold := SMap.set (fun _ => (0, 0, 0)) s.place.hold key (if left = 0 then (0, 0, 0) else (e.1, e.2.1, left)) } }

/-- Where and how an object of a unit is allocated: at its pin, or from its hint downwards (05 R137, R139, R152); none where there is no room
in any tier. -/
def State.placeObj (s : State) (o : Obj) (isle : Nat) (pin : Option Pin) : Option Obj × State :=
  let n := pagesOf o.size
  let below : Option Obj × State :=
    let r := s.findRoom (if o.hint = 0 ∨ 4 < o.hint then 3 else o.hint) isle o.cls o.owner n o.immutable
    match r.1 with
    | some (t, i) => (some { o with res := .resident, tier := t, inst := i, home := isle }, r.2)
    | none => (if o.immutable then some { o with res := .unloaded, tier := 3, inst := isle, home := isle } else none, r.2)
  match pin with
  | none => below
  | some p =>
    let (t, i) := s.pinPlace p isle
    let m := (s.useHold p.key n).makeRoom t i 0 o.owner n
    if m.1 then (some { o with res := .resident, tier := t, inst := i, home := if t = 3 then i else instIsle t i, pinned := true }, m.2) else below

/-- Allocate objects of a unit at consecutive ids, each placed by itself (05 R131); one that finds no room is not allocated, its ids stay free. -/
def State.allocSeq (s : State) (isle : Nat) : Nat → List (Obj × Option Pin) → State
  | _, [] => s
  | id, (o, p) :: r =>
    let q := s.placeObj o isle p
    let s1 := match q.1 with
      | some o1 => q.2.allocId id o1
      | none => q.2
    s1.allocSeq isle (id + pagesOf o.size) r

/-- Allocate a run of objects of a unit; the first id is answered. -/
def State.newObjs (s : State) (isle : Nat) (os : List (Obj × Option Pin)) : Nat × State :=
  let id := findRun s.place.list (os.foldl (fun n o => n + pagesOf o.1.size) 0) 1 (s.place.list.length + 1)
  (id, s.allocSeq isle id os)

/-- Allocate one object of a unit. -/
def State.newObj (s : State) (o : Obj) (isle : Nat) (pin : Option Pin) : Nat × State := s.newObjs isle [(o, pin)]

/-- The object that holds a payload digest, if a loaded unit names it (R96). -/
def State.sharedWeight (s : State) (digest : List Byte) : Option Nat :=
  (s.place.list.find? fun e => e.2.digest == digest && e.2.immutable && decide (e.2.owner < 32)).map fun e => e.1

/-- Load the weights of a unit in table order: an object that holds the digest is shared, and owned by the lower slot
(R96). -/
def State.loadWeights (s : State) (n cls isle : Nat) (pins : List (List Byte)) (store : List (List Byte × List Byte)) :
    Nat → List Weight → List Weight × State
  | _, [] => ([], s)
  | k, w :: r =>
    let one : Nat × State :=
      match s.sharedWeight w.digest with
      | some id =>
        match s.obj id with
        | some o => (id, s.setObj id (some { o with owner := min o.owner n }))
        | none => (id, s)
      | none =>
        let o : Obj := { size := w.size, cls := cls, confCls := cls, hint := w.hint, owner := n, immutable := true,
                         res := .resident, tier := 3, inst := isle, digest := w.digest }
        let a := s.newObj o isle (pinFor pins 1 n k)
        let data := ((store.find? fun e => e.1 == w.digest).map fun e => e.2).getD []
        (a.1, a.2.store (placedAddr a.1) data)
    let rest := one.2.loadWeights n cls isle pins store (k + 1) r
    ({ w with obj := one.1 } :: rest.1, rest.2)

/-- Allocate the output objects of a unit at consecutive ids (R99). -/
def State.loadOutputs (s : State) (n cls isle : Nat) (ios : List IoEnt) : List IoEnt × State :=
  let outs := ios.filter fun e => e.isOut
  let mk := fun (e : IoEnt) => List.replicate e.copies
    ({ size := e.bytes, cls := cls, confCls := cls, hint := e.hint, owner := n, res := .resident, tier := 3, inst := isle, home := isle } : Obj)
  let a := s.newObjs isle ((outs.flatMap mk).map fun o => (o, none))
  let span := fun (e : IoEnt) => e.copies * pagesOf e.bytes
  let step := fun (r : List IoEnt × Nat) (e : IoEnt) =>
    if e.isOut then (r.1 ++ [{ e with obj := r.2 }], r.2 + span e) else (r.1 ++ [e], r.2)
  ((ios.foldl step ([], a.1)).1, a.2)

/-- Zero the state tensors of slot `n` (R104): both copies, and STATE_RESET in the next record. -/
def State.resetState (s : State) (n : Nat) : State :=
  let u := s.nslot n
  match u.unit with
  | none => s
  | some x =>
    let s1 := if x.stateCount = 0 then s
      else (s.zero (placedAddr x.stateObj) x.stateBytes).zero (placedAddr (x.stateObj + pagesOf x.stateBytes)) x.stateBytes
    s1.setNslot n { u with stateReset := true, stateGen := 0, committed := 0 }

/-- Sizes of the objects of an arena: at most 16 MiB each, consecutive (05 R131). -/
def arenaParts (n : Nat) : List Nat := (upTo ((n + 0xFFFFFF) / 0x1000000)).map fun k => min 0x1000000 (n - k * 0x1000000)

/-- Object ids of a unit's arena. -/
def NUnit.arenaObjs (x : NUnit) : List Nat := (upTo ((x.arenaBytes + 0xFFFFFF) / 0x1000000)).map fun k => x.arenaObj + 256 * k

/-- Allocate what a unit owns beside its code and its weights: arena, state tensors, record ring, outputs (R93, R99, R103, R110). -/
def State.allocMutable (s : State) (n : Nat) (x : NUnit) (isle : Nat) (pins : List (List Byte)) : NUnit × State :=
  let mk := fun (size : Nat) => ({ size := size, cls := x.cls, confCls := x.cls, hint := 0, owner := n, res := .resident, tier := 3, inst := isle } : Obj)
  let a := s.newObjs isle ((arenaParts x.arenaBytes).zipIdx.map fun e => ({ mk e.1 with hint := if x.attention then 2 else 0 }, pinFor pins 3 n e.2))
  let so := ({ mk x.stateBytes with recurrent := true }, pinState pins n)
  let c := if x.stateCount = 0 then (0, a.2) else a.2.newObjs isle [so, so]
  let g := c.2.newObj (mk 4096) isle none
  let o := g.2.loadOutputs n x.cls isle x.ios
  ({ x with ios := o.1, arenaObj := a.1, stateObj := c.1, ringObj := g.1, isle := isle }, o.2)

/-- Allocate everything a unit owns and start it in its slot (R93, R99, R103, R104, R110, R111, R126, R127): `st` is the
stretch factor. -/
def State.installUnit (s : State) (n : Nat) (x : NUnit) (bytes : List Byte) (store : List (List Byte × List Byte))
    (pl : UnitPlan) (pins : List (List Byte)) (base st : Nat) : State :=
  let isle := pl.isle.val
  let w := s.loadWeights n x.cls isle pins store 0 x.weights
  let p := w.2.newObj { size := bytes.length, cls := x.cls, confCls := x.cls, hint := 0, owner := n, immutable := true, digest := x.digest
                        res := .resident, tier := 3, inst := isle } isle none
  let o := (p.2.store (placedAddr p.1) bytes).allocMutable n x isle pins
  let y : NUnit := { o.1 with isle := isle, weights := w.1, progObj := p.1, buoyBase := base, evec := pl.evec.toNat, tiers := pl.tiers.map fun t => t.val }
  let s1 := o.2.initBuoys base n x.layers.length x.buoyTab
  let plan := pl.islets.map fun l => l.map fun i => i.val
  let s2 := s1.setNslot n { unit := some y, stretch := st, stateReset := true }
  let q := 0x40 * n
  let period := s2.cfgPeriod x
  let s3 := [R.NET_UNIT_INVOKE, R.NET_UNIT_LATE, R.NET_WEIGHT_LATE, R.NET_UNIT_SKIP, R.NET_UNIT_FAIL, R.NET_UNIT_RUNTIME].foldl
    (fun s o => s.setReg (o + q) 0) s2
  let s4 := (((s3.setReg (R.NET_UNIT_CFG_PERIOD + q) period).setReg (R.NET_UNIT_ACT_PERIOD + q) (st * period)).setReg
    (R.NET_UNIT_ACHIEVABLE + q) pl.achievable.toNat).setReg64 (R.NET_UNIT_RING_LO + q) (placedAddr y.ringObj)
  let s5 := s4.setReg (R.NET_UNIT_STATE + q) (0x010000 + b2n x.elastic * 2 ^ 12 + (st - 1) * 2 ^ 8 + x.kind * 16)
  let s6 := ((s5.setUnitState n (if st = 1 then 2 else 3))).setReg R.NET_REFUSED (putBits (s5.reg R.NET_REFUSED) n n 0)
  let moved := (x.weights.filter fun v => (s.sharedWeight v.digest).isNone).foldl (fun m v => m + v.size) bytes.length
  let d : Decision := { epoch := 0, kind := 8, reason := 9, cls := x.cls, owner := n, objects := x.weights.length + 1, bytes := moved
                        tag := s6.objTag p.1, metric := pl.achievable.toNat, target := period }
  s6.setPlan n (if y.planOk plan then plan else y.leastPlan) d

/-- The Pilot's estimate of a unit's shortest period shows (R116). -/
def State.showAchievable (s : State) (n achievable : Nat) : State := s.setReg (R.NET_UNIT_ACHIEVABLE + 0x40 * n) achievable

/-- Refuse a load into slot `n` (R117–R119, R127): the decision is recorded when it is one of fit; `kind` is the header's where it was read. -/
def State.refuseUnit (s : State) (n code achievable period kind : Nat) (ent : List Byte) : State :=
  let q := 0x40 * n
  let s1 := s.setReg (R.NET_UNIT_STATE + q) (code * 2 ^ 16 + leAt ent 0x43 1 % 16 * 2 ^ 12 + kind % 16 * 16)
  let s2 := if code = 2 ∨ code = 3 then s1.showAchievable n achievable else s1
  let s3 := ((s2.setUnitState n 4).setReg R.NET_REFUSED (putBits (s2.reg R.NET_REFUSED) n n 1)).raise 385
  if code = 2 ∨ code = 3 then
    s3.noteDecision { epoch := s.dev.epoch, kind := 9, reason := 9, cls := leAt ent 0x41 1 % 16, owner := n, since := s.tb3,
                      metric := achievable, target := period, always := true }
  else s3

/-- Load a unit into its slot (R96, R101, R111, R116–R118): its payload and its weights are looked up in `store`; the load
result of R127 is answered. Where the fit was decided when the unit was staged it is not decided again (`decided`, R116). -/
def State.loadUnit (s : State) (ent : List Byte) (store : List (List Byte × List Byte)) (pl : UnitPlan)
    (pins : List (List Byte)) (decided : Bool) : Nat × State :=
  let n := leAt ent 0x40 1 % 32
  let good := fun (e : List Byte × List Byte) => decide (leBytes 64 (Config.shake256 e.2).toNat = e.1)
  match store.find? fun e => e.1 == ent.take 64 with
  | none => (5, s.refuseUnit n 5 0 0 0 ent)
  | some e =>
    match (if good e then parseUnit e.2 ent else none) with
    | none => (5, s.refuseUnit n 5 0 0 (leAt e.2 6 1) ent)
    | some x =>
      let found := x.weights.map fun w => store.find? fun e => e.1 == w.digest
      let period := s.cfgPeriod x
      let st := if pl.achievable.toNat ≤ period ∨ period = 0 then 1 else (pl.achievable.toNat + period - 1) / period
      let fail := fun (c : Nat) => (c, s.refuseUnit n c pl.achievable.toNat period x.kind ent)
      if found.any Option.isNone then fail 6
      else if found.any (fun o => match o with | some e => !good e | none => false) then fail 4
      else if (x.weights.zip found).any (fun w => match w.2 with | some e => decide (e.2.length ≠ w.1.size) | none => false) then fail 5
      else if s.capacityFor x.cls < x.workingSet ∧ !decided then fail 3
      else if st ≠ 1 ∧ (!x.elastic ∨ x.maxStretch < st) ∧ !decided then fail 2
      else match s.freeBuoys (x.layers.length + x.buoyTab.length) with
        | none => fail 5
        | some base => (1, s.installUnit n x e.2 store pl pins base st)

/-- Free a slot: its objects but for weights another unit names, which the lowest of those slots owns from now on, and its buoys (R96, R111,
R123). -/
def State.freeUnit (s : State) (n : Nat) : State :=
  match (s.nslot n).unit with
  | none => s
  | some x =>
    let others := s.units.filterMap fun e => if e.1 = n then none else e.2.unit
    let shared := fun (w : Weight) => others.any fun u => u.weights.any fun v => v.obj == w.obj
    let outs := x.ios.flatMap fun e => if e.isOut then (upTo e.copies).map fun k => e.obj + k * pagesOf e.bytes else []
    let st := if x.stateCount = 0 then [] else [x.stateObj, x.stateObj + pagesOf x.stateBytes]
    let ws := ((x.weights.filter fun w => !shared w).map fun w => w.obj).eraseDups
    let s0 := (x.weights.filter shared).foldl (fun (s : State) w =>
      let owners := s.units.filterMap fun e => if e.1 ≠ n ∧ (e.2.unit.any fun u => u.weights.any fun v => v.obj == w.obj) then some e.1 else none
      match s.obj w.obj, owners with
      | some o, k :: r => s.setObj w.obj (some { o with owner := r.foldl min k })
      | _, _ => s) s
    let s1 := ([x.progObj, x.ringObj] ++ x.arenaObjs ++ st ++ outs ++ ws).foldl (fun s id => s.freeObj id) s0
    let s2 := (upTo (x.layers.length + x.buoyTab.length)).foldl (fun s k =>
      s.setBuoy (x.buoyBase + k) { s.buoy (x.buoyBase + k) with owner := 0xFF }) s1
    (s2.setNslot n {}).setUnitState n 0

/-- Set an Islet up for a layer program (02 R63, 16 R429): where its clock-gating group was gated its clock starts now (R30), else the cycles
since its last assignment are a free value (log entry 14). Loads that a failed invocation left in the queue write no register of the new
assignment. DESIGN CHOICE (log entry 151): a debug halt and halt_cause of the assignment before are cleared. -/
def State.assignIslet (s : State) (n : Nat) (x : NUnit) (k rank size i : Nat) (l : Layer) : State :=
  let y := s.islet i
  let w := fun (v : Nat) => BitVec.ofNat 64 v
  let arena := placedAddr x.arenaObj
  let g := [(1, w arena), (2, w (arena + l.argOff)), (3, w rank), (4, w size)].filter fun e => decide (e.2 ≠ 0)
  let c := SMap.set (fun _ => 0) (SMap.set (fun _ => 0) ((y.c).filter fun e => decide (2 ≤ e.1) && decide (e.1 ≤ 5)) 6 (w x.evec))
    15 (w (tagOf 0 0 x.cls 0 n))
  let z : Islet := { y with g := g, v := [], t := [], p := [], c := c, inHandler := false, loopActive := false,
                            pc := placedAddr x.progObj + x.progOff + l.entry, idle := false, halted := false, haltCause := 0,
                            haltReq := false, stepping := false, passBp := false, ready := [], poison := [], storeErrs := [], loads := [],
                            held := none, icache := [], icacheBad := [], lastOwner := some n, gated := false,
                            assign := some ⟨n, k, rank⟩, began := s.place.stamp }
  let s0 := (s.credAdd (y.loads.flatMap fun q => q.paths) true).dropWaiter i
  let s1 := if y.lastOwner = some n then s0 else s0.zero (sliverBase i) 0x10000
  let running := s.islets.any fun e => decide (e.1 / 16 = i / 16) && !e.2.gated
  if running then (s1.tick).setIslet i { z with cycle := y.cycle + s1.free.toNat }
  else s1.setIslet i { z with cycle := 0, retired := 0, vNext := 0, tNext := 0 }

/-- Planned tier of a weight object (R112): the Pilot's, or its hint, or T3. -/
def NUnit.tierOf (x : NUnit) (k : Nat) : Nat :=
  let t := nthD 0 x.tiers k
  if 1 ≤ t ∧ t ≤ 3 then t
  else match x.weights[k]? with
    | some w => if 1 ≤ w.hint ∧ w.hint ≤ 3 then w.hint else 3
    | none => 3

/-- Weight-table indices of layer `k`. -/
def NUnit.layerWeights (x : NUnit) (k : Nat) : List Nat :=
  match x.layers[k]? with
  | some l => (upTo l.weightN).map fun j => l.weightFirst + j
  | none => []

/-- The Pilot's estimate of the time from layer `from_` to the start of layer `k`, in µs: the work of the layers between over their Islets at
1,500 MHz (R95, 05 R155; log entry 130). -/
def NSlot.usUntil (u : NSlot) (x : NUnit) (from_ k : Nat) : Nat :=
  (upTo k).foldl (fun n j => if from_ ≤ j then
    n + (match x.layers[j]? with | some l => l.work | none => 0) * 1024 / max 1 (nthD [] u.plan j).length / 1500 else n) 0

/-- The time that the transfer of `n` bytes takes at the planning figure of 840 GB/s, in µs (05 R141). -/
def transferUs (n : Nat) : Nat := (n + 839999) / 840000

/-- Request a weight object in its planned tier (R112), `us` µs before its layer starts: an UNLOADED one is loaded into T3 first, and its
promotion is requested when that load ends. -/
def State.requestWeight (s : State) (n : Nat) (x : NUnit) (k us : Nat) : State :=
  match x.weights[k]? with
  | none => s
  | some w =>
    match s.obj w.obj with
    | none => s
    | some o =>
      if o.res = .unloaded then (s.setObj w.obj (some { o with want := some (x.tierOf k, n) })).startLoad w.obj x.cls n 1 us
      else if x.tierOf k < o.tier then
        s.requestMove w.obj (x.tierOf k) (s.bestInst (x.tierOf k) x.isle x.cls) x.cls n 1 us (transferUs w.size) false
      else s

/-- Request the weights of layer `k` of the unit in slot `n` (R112). -/
def State.prefetch (s : State) (n k : Nat) : State :=
  let u := s.nslot n
  match u.unit with
  | none => s
  | some x =>
    let now := match u.inv with
      | some v => v.layer
      | none => 0
    (x.layerWeights k).foldl (fun s j => s.requestWeight n x j (u.usUntil x now k)) s

/-- What was requested of an object while it was UNLOADED is requested of it now that it is in T3 (R112). -/
def State.loadedWant (s : State) (id : Nat) : State :=
  match s.obj id with
  | none => s
  | some o =>
    match o.want with
    | none => s
    | some (t, n) =>
      let s1 := s.setObj id (some { o with want := none })
      match (s.nslot n).unit with
      | some x => if o.res = .resident ∧ t < o.tier then s1.requestMove id t (s1.bestInst t x.isle x.cls) x.cls n 1 0 (transferUs o.size) false else s1
      | none => s1

/-- Is a weight object resident with no move of it outstanding (R111). -/
def State.weightHere (s : State) (x : NUnit) (k : Nat) : Bool :=
  match x.weights[k]? with
  | none => true
  | some w =>
    match s.obj w.obj with
    | none => true
    | some o => decide (o.res = .resident) && o.move.isNone && o.promo.isNone

/-- Signal the weight buoy of the current layer once for each of its weights that has become resident; request those that
are still to be moved (R111, R112). -/
def State.weightSync (s : State) (n : Nat) : State :=
  let u := s.nslot n
  match u.unit, u.inv with
  | some x, some v =>
    (x.layerWeights v.layer).foldl (fun s j =>
      match (s.nslot n).inv with
      | none => s
      | some v1 =>
        if v1.signalled.contains j then s
        else
          let s1 := s.requestWeight n x j 0
          if s1.weightHere x j then
            (s1.mapInv n fun v => { v with signalled := v.signalled ++ [j] }).signalBuoy (x.buoyBase + v.layer) 1
          else s1) s
  | _, _ => s

/-- Every unit's weight buoy after a move or a load has ended. -/
def State.weightSyncAll (s : State) : State := (s.units.map fun e => e.1).foldl State.weightSync s

/-- Islets that layer `k` of slot `n`'s invocation starts on: those of its plan but for halted ones that rest until the next re-plan (R122);
none while one of them still runs for another unit (05 R149), or too few are left. -/
def State.layerIslets (s : State) (x : NUnit) (v : Invocation) (k : Nat) : Option (List Nat) :=
  let is := (nthD [] v.nextPlan k).filter fun i => !s.place.resting.contains i
  let least := match x.layers[k]? with
    | some l => l.isletsMin
    | none => 0
  if decide (least ≤ is.length) && is.all fun i => (s.islet i).idle then some is else none

/-- Start layer `k` of the invocation of slot `n` (R99, R111, R112, 02 R63), or wait for its Islets. -/
def State.startLayer (s : State) (n k : Nat) : State :=
  let u := s.nslot n
  match u.unit, u.inv with
  | some x, some v =>
    match x.layers[k]?, s.layerIslets x v k with
    | none, _ => s
    | some _, none => s.mapInv n fun v => { v with starts := some k }
    | some l, some is =>
      let arg := placedAddr x.arenaObj + l.argOff
      let s1 := s.store arg (leBytes 4 (x.buoyBase + k) ++ leBytes 4 (x.buoyBase + x.layers.length))
      let s2 := (upTo x.buoyTab.length).foldl (fun s j =>
        let b := x.buoyBase + x.layers.length + j
        if (nthD (false, 0) x.buoyTab j) = (true, 0) then s.setBuoy b ((s.buoy b).setParticipants is.length) else s) s1
      let s3 := s2.mapInv n fun v => { v with layer := k, running := is, signalled := [], waitSince := none, starts := none }
      let s4 := (upTo is.length).foldl (fun s j => s.assignIslet n x k j is.length (nthD 0 is j) l) s3
      (s4.prefetch n (k + 2)).weightSync n
  | _, _ => s

/-- Object of the copy of an output that invocation `seq` writes (R99). -/
def IoEnt.copyObj (e : IoEnt) (seq : Nat) : Nat := e.obj + (seq - 1) % e.copies * pagesOf e.bytes

/-- The objects of an invocation's outputs, in output order. -/
def NUnit.outObjs (x : NUnit) (seq : Nat) : List Nat :=
  (x.ios.filter fun e => e.isOut).map fun e => e.copyObj seq

/-- Write the descriptors of an invocation (R99): inputs in entry order, then outputs. -/
def State.writeDescs (s : State) (x : NUnit) (seq : Nat) (inputs : List (List Word64)) (aux : List Nat) : State :=
  let arena := placedAddr x.arenaObj
  let put := fun (s : State) (e : IoEnt) (aux : Nat) (tags : List Nat) =>
    s.store (arena + e.desc) (leBytes 4 tags.length ++ leBytes 4 aux ++ tags.flatMap fun t => leBytes 8 t)
  let ins := x.ios.filter fun e => !e.isOut
  let s1 := (upTo ins.length).foldl (fun s k =>
    match ins[k]? with
    | some e => put s e (nthD 0 aux k) ((nthD [] inputs k).map fun t => t.toNat)
    | none => s) s
  (x.ios.filter fun e => e.isOut).foldl (fun s e => put s e 0 [s.objTag (e.copyObj seq)]) s1

/-- The Islets of every layer for an invocation that starts now: the Pilot's plan; in WATCH, the 32 WATCH Islets (16 R422, R426; log
entry 80). -/
def State.planNow (s : State) (u : NSlot) (x : NUnit) : List (List Nat) :=
  if s.dev.state = .watch then x.layers.map fun l => upTo (max l.isletsMin (min 32 l.isletsMax)) else u.plan

/-- Start an invocation (R99, R108, R112). -/
def State.startInv (s : State) (n : Nat) (r : Release) : State :=
  let u := s.nslot n
  match u.unit with
  | none => s
  | some x =>
    let seq := u.seq + 1
    let v : Invocation := { seq := seq, tRel := r.tRel, tRel3 := r.tRel3, epoch := r.epoch, layer := 0, running := [], widest := widestOf (s.planNow u x),
                            waitSince := none, waitUs := 0, weightWait := false, partialIn := r.partialIn,
                            stateReset := u.stateReset, skipped := u.skipped, mask := r.mask, inputs := r.inputs, aux := r.aux,
                            fault := none, nextPlan := s.planNow u x, ev := r.ev }
    let s1 := (s.setNslot n { u with seq := seq, inv := some v, skipped := false, stateReset := false }).incWrap
      (R.NET_UNIT_INVOKE + 0x40 * n)
    let s2 := (x.outObjs seq).foldl State.newGen s1
    let s3 := (s2.writeDescs x seq r.inputs r.aux).prefetch n 0 |>.prefetch n 1
    s3.startLayer n 0

/-- A release of the unit in slot `n` (R108); a FAILED or RETIRING unit ignores it (R122, R123). -/
def State.release (s : State) (n : Nat) (r : Release) : State :=
  let u := s.nslot n
  let st := s.unitState n
  if u.unit.isSome ∧ (st = 2 ∨ st = 3) then
    let u1 := { u with count := u.count + 1 }
    let s1 := s.setNslot n u1
    if u1.count % u.stretch ≠ 0 then s1
    else if u.inv.isNone then s1.startInv n r
    else if u.pend.isSome then (s1.setNslot n { u1 with pend := some r, skipped := true }).inc (R.NET_UNIT_SKIP + 0x40 * n)
    else s1.setNslot n { u1 with pend := some r }
  else s

/-- A release at TB3 instant `t` (R106): its stamp in TB0 and its epoch. -/
def State.releaseAt (s : State) (t mask : Nat) (partialIn : Bool) (inputs : List (List Word64)) (aux : List Nat) : Release :=
  { tRel := (s.toBase 0 t).toNat, tRel3 := t, epoch := s.dev.epoch, mask := mask, partialIn := partialIn, inputs := inputs, aux := aux }

/-- The wait on the weight buoy of the layer (R114): its first Islet's wait begins, or the buoy's release ends it. -/
def State.noteWait (s : State) (n : Nat) : State :=
  let u := s.nslot n
  match u.unit, u.inv with
  | some x, some v =>
    let waits := v.running.any fun i => match (s.islet i).held with
      | some h => decide (h.buoy = some (x.buoyBase + v.layer))
      | none => false
    match v.waitSince with
    | none => if waits then s.mapInv n fun v => { v with waitSince := some s.tb3, weightWait := true } else s
    | some t0 =>
      if waits then s else s.mapInv n fun v => { v with waitSince := none, waitUs := satU 32 (v.waitUs + (s.tb3 - t0) / 1000) }
  | _, _ => s

/-- Let the invocation of slot `n` go on: the Islets that have ended leave their layer, a finished layer is followed by the
next (R95). The last one waits for its output (R109). -/
def State.settleUnit (s : State) (n : Nat) : State :=
  let s1 := s.noteWait n
  let u := s1.nslot n
  match u.unit, u.inv with
  | some x, some v =>
    let left := v.running.filter fun i => !(s1.islet i).idle
    let s2 := s1.mapInv n fun v => { v with running := left }
    if v.starts.isSome then s2.startLayer n (v.starts.getD 0)
    else if left.isEmpty ∧ v.layer + 1 < x.layers.length then s2.startLayer n (v.layer + 1) else s2
  | _, _ => s1

/-- The waits for credits that can end do (05 R141), then `settleUnit` for every slot. -/
def State.settle (s : State) : State :=
  let s1 := s.serveWaiters
  (s1.units.map fun e => e.1).foldl State.settleUnit s1

/-- The invocation record (R110). -/
def State.invRecord (s : State) (n t : Nat) (u : NSlot) (x : NUnit) (v : Invocation) (late failed : Bool) : List Byte :=
  let out0 := match x.outObjs v.seq with
    | id :: _ => s.objTag id
    | [] => 0
  let fault := v.fault.getD (0, 0xFFFF)
  let flags := b2n late + 2 * b2n v.weightWait + 4 * b2n failed + 8 * b2n v.partialIn + 16 * b2n v.stateReset +
    32 * b2n (decide (u.stretch ≠ 1)) + 64 * b2n v.skipped
  record 64 [(0, 8, v.seq), (8, 8, v.tRel), (0x10, 8, (s.toBase 0 t).toNat), (0x18, 8, v.epoch), (0x20, 4, x.deadlineUs),
    (0x24, 4, v.waitUs), (0x28, 2, flags), (0x2A, 1, n), (0x2B, 1, u.stretch), (0x2C, 2, v.widest), (0x2E, 2, v.mask),
    (0x30, 4, u.stateGen), (0x34, 1, fault.1), (0x36, 2, fault.2), (0x38, 8, out0)]

/-- Write an invocation record into the unit's ring (R110). -/
def State.putInvRecord (s : State) (x : NUnit) (seq : Nat) (r : List Byte) : State :=
  s.store (placedAddr x.ringObj + (seq - 1) % 64 * 64) r

/-- Set late or err in the tags of an invocation's outputs (R109, R122). -/
def State.markOutputs (s : State) (ids : List Nat) (late err : Bool) : State :=
  ids.foldl (fun s id => match s.obj id with
    | some o => s.setObj id (some { o with late := late, err := err })
    | none => s) s

/-- Is the last layer of slot `n`'s invocation over. -/
def State.invOver (s : State) (n : Nat) : Bool :=
  let u := s.nslot n
  match u.unit, u.inv with
  | some x, some v => v.running.isEmpty && v.starts.isNone && decide (v.layer + 1 = x.layers.length)
  | _, _ => false

/-- After an invocation has ended: the pending one starts, or the retiring unit's slot is free (R108, R123); whether it is
free for its successor is answered. -/
def State.afterInv (s : State) (n : Nat) : State :=
  let u := s.nslot n
  match u.next with
  | some _ => s
  | none =>
    match u.pend with
    | some r => if s.unitState n = 5 then s.setNslot n { u with pend := none } else (s.setNslot n { u with pend := none }).startInv n r
    | none => s

/-- The last output of slot `n`'s invocation is written at TB3 instant `t` (R103, R109, R110, R114, R120). -/
def State.finishInv (s : State) (n t : Nat) : State :=
  let u := s.nslot n
  match u.unit, u.inv with
  | some x, some v =>
    let now := (s.toBase 0 t).toNat
    let late := decide (v.tRel + x.deadlineUs * 1000 < now)
    let run := (now - v.tRel) / 1000
    let s1 := s.markOutputs (x.outObjs v.seq) late false
    let u1 : NSlot := { u with inv := none, fails := 0, times := (u.times ++ [run]).drop (u.times.length + 1 - 16)
                               committed := if x.stateCount = 0 then 0 else 1 - u.committed
                               stateGen := if x.stateCount = 0 then u.stateGen else u.stateGen + 1 }
    let s2 := (s1.setNslot n u1).setReg (R.NET_UNIT_RUNTIME + 0x40 * n) (satU 32 run)
    let s3 := if late then (s2.inc (R.NET_UNIT_LATE + 0x40 * n)).raise (352 + n) else s2
    let s4 := if late && v.weightWait then s3.inc (R.NET_WEIGHT_LATE + 0x40 * n) else s3
    s4.putInvRecord x v.seq (s1.invRecord n t u1 x v late false)
  | _, _ => s

/-- Islet `i` waits on no buoy any more. -/
def State.unwaitAll (s : State) (i : Nat) : State :=
  ((s.buoys.filter fun e => e.2.waiting.contains i).map fun e => e.1).foldl (fun s b => s.setBuoy b ((s.buoy b).unwait i)) s

/-- The wait that is still open when an invocation ends counts up to now (R110, R114). -/
def Invocation.flushed (v : Invocation) (t : Nat) : Invocation :=
  match v.waitSince with
  | some t0 => { v with waitSince := none, waitUs := satU 32 (v.waitUs + (t - t0) / 1000) }
  | none => v

/-- The Islets of an invocation end before their next bundle (R122); a halted one is reset, and rests until the next re-plan. -/
def State.dropIslets (s : State) (is : List Nat) : State :=
  let rest := is.filter fun i => (s.islet i).halted && !(s.islet i).idle
  let s1 := is.foldl (fun (s : State) i =>
    (s.setIslet i { s.islet i with idle := true, halted := false, haltCause := 0, held := none, assign := none }).unwaitAll i) s
  { s1 with place := { s1.place with resting := s1.place.resting ++ rest } }

/-- The invocation of slot `n` has failed (R122): its Islets end, no state is committed, its outputs carry err, the record
and the counts follow; the eighth in a row makes the unit FAILED. -/
def State.failInv (s : State) (n t : Nat) : State :=
  let u := s.nslot n
  match u.unit, u.inv with
  | some x, some v0 =>
    let v := v0.flushed t
    let s0 := s.dropIslets v.running
    let s1 := s0.markOutputs (x.outObjs v.seq) false true
    let u1 : NSlot := { u with inv := none, fails := u.fails + 1 }
    let s2 := ((s1.setNslot n u1).inc (R.NET_UNIT_FAIL + 0x40 * n)).raise (320 + n)
    let s4 := s2.putInvRecord x v.seq (s1.invRecord n t u1 x v false true)
    if 8 ≤ u1.fails then s4.setUnitState n 5 else s4
  | _, _ => s

/-- May the invocation of slot `n` fail: a layer Islet has halted, or a weight transfer and its retry have failed (R122). -/
def State.invFailed (s : State) (n : Nat) : Bool :=
  match (s.nslot n).inv with
  | some v => v.fault.isSome || v.weightFail
  | none => false

/-- Raise the outstanding weight transfers of slot `n`'s layer to class 0 (R113): only when an Islet waits on its buoy. Their records name the
raise, with the µs waited and the µs of slack (05 R154, R155), and those that wait for credits go ahead (05 R141). -/
def State.raiseWeights (s : State) (n : Nat) : State :=
  let s1 := s.noteWait n
  let u := s1.nslot n
  match u.unit, u.inv with
  | some x, some v =>
    if v.waitSince.isSome then
      (x.layerWeights v.layer).foldl (fun s j =>
        match x.weights[j]? with
        | none => s
        | some w =>
          match s.obj w.obj with
          | none => s
          | some o =>
            match o.move, o.promo with
            | none, none => s
            | mv, pr =>
              if o.cls = 0 then s else
              let waited := (s.tb3 - v.waitSince.getD s.tb3) / 1000
              let slack := (v.tRel3 + x.deadlineUs * 1000 - s.tb3) / 1000
              let f := fun (d : Decision) => { d with epoch := s.dev.epoch, reason := 5, cls := 0, metric := waited, target := slack }
              let s2 := s.setObj w.obj (some { o with cls := 0, move := mv.map fun m => { m with cls := 0 }, promo := pr.map fun m => { m with cls := 0 } })
              match mv, pr with
              | some m, _ => s2.mapDec m f
              | none, some m => s2.mapDec m f
              | none, none => s2) s1
    else s1
  | _, _ => s1

end Sys2Proof.Machine
end

