-- ==== Sys2Proof/Machine/Fuse.lean ====
section
/-! DEFINITION. The estimator (spec 08): items, propagation, the gate, alignment, late items, the
smoother. The arithmetic that the spec does not give step by step is in `Config` (log entry 45); what it says of when each
computation is done, on what, and what it leads to is here. -/
namespace Sys2Proof.Machine

/-- Source `b` has delivered (R240 condition 2). -/
def State.delivered (s : State) (b : Nat) : State := (s.setSource b { s.source b with last := some s.tb3 }).refreshMask

/-- The lag in ns. -/
def State.lagNs (s : State) : Int := s.cfgFld R.FUSE_SMOOTH_CFG R.FUSE_SMOOTH_CFG_lag_ms * 1000000

/-- The world position of the landmark of a mapped observation (R227). -/
def Item.landmark (i : Item) : List Word64 := i.words.drop 14

/-- The world position of an ABSOLUTE_POSE (R227): relative to the anchor of the tile that holds its landmark, or, when it names none, of the tile
that holds `here` (log entry 45). -/
def Item.place (i : Item) (here : List Word64) : List Word64 :=
  let a := anchorOf (if i.mapped then i.landmark else here)
  (upTo 3).map fun k => tqAdd (BitVec.ofInt 64 (nthD 0 a k)) (word32 i.words k).toNat

/-- An item as the words its computations see (R221): a world position in it is relative to the anchor of the tile that holds `here`; a
RELATIVE_POSE comes with the state at its start. -/
def State.itemData (s : State) (here : List Word64) (i : Item) : List (BitVec 64) :=
  let a := anchorOf here
  let body :=
    if i.kind = 5 then relPos a (i.words.take 3) ++ i.words.drop 3
    else if i.kind = 4 then relPos a (i.place here) ++ (i.words.drop 3).take 9
    else if i.mapped then i.words.take 14 ++ relPos a i.landmark
    else i.words
  let start := if i.kind = 3 then (s.estAt (nthD (0 : Word64) i.words 13).toInt).dataAt a else []
  BitVec.ofNat 64 i.src :: BitVec.ofNat 64 i.kind :: BitVec.ofInt 64 i.t :: BitVec.ofNat 64 (b2n i.mapped) :: body ++ start

/-- Is `a` applied before `b` (R230). -/
def Item.before (a b : Item) : Bool :=
  decide (a.t < b.t) || (decide (a.t = b.t) && (decide (a.src < b.src) || (decide (a.src = b.src) && decide (a.arrived < b.arrived))))

/-- Does an item come from a camera, a lidar, GNSS or the map (R239 NO_EXTEROCEPTIVE). -/
def Item.exteroceptive (i : Item) : Bool := decide (i.src < 20) || decide (i.src = 23) || decide (i.src = 26) || i.mapped

/-- Is an item a GNSS position or mapped (R239 NO_ABSOLUTE). -/
def Item.absolute (i : Item) : Bool := decide (i.src = 23) || i.mapped

/-- The gate tests an item against the state `e` (R241): whether it is applied. -/
def State.gate (s : State) (e : Est) (i : Item) : Bool × State :=
  let v := (Config.innovation s.cal e.data (s.itemData e.pos i)).toNat
  let th := s.cfgReg (R.FUSE_GATE_TH + 4 * (i.elems - 1))
  let x := s.source i.src
  if f32Lt th v then
    let s1 := s.inc R.FUSE_GATE_FAIL
    let n := x.fails + 1
    if x.masked then (false, s1.setSource i.src { x with fails := n, passes := 0 })
    else if s.cfgFld R.FUSE_GATE_CFG R.FUSE_GATE_CFG_gate_fails ≤ n then
      (false, ((s1.setSource i.src { x with fails := n, passes := 0, masked := true }).inc R.FUSE_MASKS).refreshMask)
    else (false, s1.setSource i.src { x with fails := n, passes := 0 })
  else if x.masked then
    let n := x.passes + 1
    if s.cfgFld R.FUSE_GATE_CFG R.FUSE_GATE_CFG_gate_passes ≤ n then
      (false, (s.setSource i.src { x with fails := 0, passes := 0, masked := false }).refreshMask)
    else (false, s.setSource i.src { x with fails := 0, passes := n })
  else (true, s.setSource i.src { x with fails := 0 })

/-- The later of an optional instant and one. -/
def laterOf (a : Option Int) (t : Int) : Option Int :=
  match a with
  | some u => some (max u t)
  | none => some t

/-- An item has been applied, by the filter or a pass: what NO_EXTEROCEPTIVE and NO_ABSOLUTE look at (R239). -/
def State.noteApplied (s : State) (i : Item) : State :=
  { s with fuse := { s.fuse with
      lastExt := if i.exteroceptive then laterOf s.fuse.lastExt i.t else s.fuse.lastExt
      lastAbs := if i.absolute then laterOf s.fuse.lastAbs i.t else s.fuse.lastAbs } }

/-- Items as they have been applied in order: the state, its instant, the states at their times, newest first, the items that passed the gate and
those that failed it, the machine. -/
structure Applied where
  est : Est
  at_ : Int
  past : List (Int × Est) := []
  passed : List Nat := []
  failed : List Nat := []
  st : State

/-- Apply items in order, propagating to each one's time (R230): an item of an admitted source that passes the gate; one of a source whose gate
masks it is tested (R240, R241). -/
def Applied.run (x : Applied) : List Item → Applied
  | [] => x
  | i :: r =>
    let s := x.st
    let e := propagated s.cal x.est (s.motionAt x.at_) x.at_ i.t
    let y : Applied :=
      if s.admitted i.src || (s.source i.src).masked then
        let g := s.gate e i
        if g.1 then { x with est := e.took (Config.estApply s.cal e.data (s.itemData e.pos i)), at_ := i.t, passed := i.arrived :: x.passed, st := g.2.noteApplied i }
        else { x with est := e, at_ := i.t, failed := i.arrived :: x.failed, st := g.2 }
      else { x with est := e, at_ := i.t }
    ({ y with past := (i.t, y.est) :: y.past } : Applied).run r

/-- The items of a list, in the order of application. -/
def inOrder (l : List Item) : List Item := sortBy Item.before l

/-- The states of a list within the lag of the instant `now`. -/
def State.withinLag (s : State) (now : Int) (l : List (Int × Est)) : List (Int × Est) := l.filter fun x => decide (now - s.lagNs ≤ x.1)

/-- An item as its tests have left it (R241). -/
def Item.tested (i : Item) (passed failed : List Nat) : Item :=
  { i with gated := i.gated || passed.contains i.arrived, failed := i.failed || failed.contains i.arrived }

/-- The filter propagates to instant `t` (R229, R230): held items that it reaches are applied at their times. -/
def State.propagateTo (s0 : State) (t : Int) : State :=
  let s := s0.freeze
  let due := inOrder (s.fuse.held.filter fun i => decide (i.t ≤ t))
  let x := ({ est := s.fuse.est, at_ := s.fuse.now, st := s } : Applied).run due
  let s1 := x.st
  let e := propagated s1.cal x.est (s1.motionAt x.at_) x.at_ t
  { s1 with fuse := { s1.fuse with
      est := e, now := t, past := s1.withinLag t ((t, e) :: x.past ++ s1.fuse.past)
      held := s1.fuse.held.filter fun i => !decide (i.t ≤ t)
      window := (s1.fuse.window.filter fun i => decide (t - s1.lagNs ≤ i.t)).map fun i => i.tested x.passed x.failed
      nodes := s1.withinLag t s1.fuse.nodes } }

/-- The RUNNING estimator starts (R243) at `pos`; its attitude is roll and pitch as the standstill gives them, then the rotation about z that `yaw`
gives, or that two GNSS positions give. -/
def State.align (s : State) (pos : List Word64) (yaw : Option Quat) (fixes : List (BitVec 64)) : State :=
  let e := s.fuse.est
  let n := e.errLen
  let l := Config.alignState e.data (s.fuse.imuBuf.flatMap fun x => x.axes) fixes
  let f := fun (o k : Nat) => (upTo k).map fun i => word32 l (o + i)
  let q := fun (o : Nat) => Quat.of ((f o 4).map fun w => w.toNat)
  let att := ((match yaw with | some z => z | none => (q 0).yaw).mul (q 4)).unit
  let e1 : Est := { e with pos := pos, quat := att.list.map (BitVec.ofNat 32), vel := f 8 3, rate := f 11 3, bias := f 14 12
                           scale := f 26 e.wheels ++ e.scale.drop e.wheels, cov := f (26 + e.wheels) (covLen n) }
  ({ s with fuse := { s.fuse with est := e1, past := [(s.fuse.now, e1)], nodes := [], window := [], held := [], alignAt := none, levelled := false
                                  absPose := none, gnssFixes := [], gnssPair := none, gnssEarly := false } }).setEstState 2

/-- ALIGNING ends when its conditions hold (R243): 1 s of standstill, and position and yaw from an absolute pose, from two GNSS
positions, or, with an empty map and no GNSS position admitted within 2 s, from zero. -/
def State.tryAlign (s : State) : State :=
  if s.estState ≠ 1 then s
  else
    let lev := s.fuse.levelled || (match s.fuse.stillSince with
      | none => false
      | some u => decide (u + 1000000000 ≤ s.fuse.now))
    let s1 : State := { s with fuse := { s.fuse with levelled := lev } }
    if lev then
      match s.fuse.absPose, s.fuse.gnssPair, s.fuse.alignAt with
      | some p, _, _ =>
        let v := (upTo 3).map fun k => (word32 p.words (3 + k)).toNat
        s1.align (p.place s.fuse.est.pos) (some (Quat.ofVec (V3.of v)).yaw) []
      | none, some (g, h), _ => s1.align g none (relPos (anchorOf g) g ++ relPos (anchorOf g) h)
      | none, none, some a =>
        if s.mapUp ∧ s.mapEmpty ∧ !s.fuse.gnssEarly ∧ a + 2000000000 ≤ s.tb3 then s1.align [0, 0, 0] (some {}) [] else s1
      | none, none, none => s1
    else s1

/-- A sample is late (R232, R234): its time is at or before the boundary of a sealed record, or of one whose wait has ended. -/
def State.isLate (s : State) (t : Int) : Bool :=
  (match s.fuse.lastOut with
   | some b => decide (t ≤ b)
   | none => false) ||
  (match s.fuse.boundary with
   | some (_, tb) => decide (t ≤ tb) && decide (s.waitEnd tb < s.tb3)
   | none => false)

/-- What R232 does to a late sample: whether the smoother may take it. -/
def State.takeLate (s : State) (t : Int) : Bool × State :=
  if s.fuse.now - t ≤ s.lagNs then
    (true, ({ s with fuse := { s.fuse with lateWait := true } }).inc R.FUSE_LATE_APPLIED)
  else
    (false, (({ s with fuse := { s.fuse with fLateDropped := true } }).inc R.FUSE_LATE_DROPPED).raise 98)

/-- An item enters the smoother's window (R231). -/
def State.intoWindow (s : State) (i : Item) : State :=
  if 65536 ≤ s.fuse.window.length then
    ({ s with fuse := { s.fuse with window := s.fuse.window.drop 1 ++ [i], fWindowOvf := true } }).inc R.FUSE_WINDOW_OVF
  else { s with fuse := { s.fuse with window := s.fuse.window ++ [i] } }

/-- Squared distance of two positions in TQ64, and the square of 5 m. -/
def farApart (a b : List Word64) : Bool :=
  let d := fun (i : Nat) => (nthD 0 a i).toInt - (nthD 0 b i).toInt
  decide ((5 * 2 ^ 28 : Int) * (5 * 2 ^ 28) ≤ d 0 * d 0 + d 1 * d 1 + d 2 * d 2)

/-- An ALIGNING estimator looks at an item (R243). -/
def State.alignItem (s : State) (i : Item) : State :=
  if i.kind = 4 then ({ s with fuse := { s.fuse with absPose := some i } }).tryAlign
  else if i.kind = 5 then
    let p := i.words.take 3
    let early := match s.fuse.alignAt with
      | some a => decide (s.tb3 ≤ a + 2000000000)
      | none => false
    let pair := match s.fuse.gnssFixes.find? fun g => farApart g p with
      | some g => some (p, g)
      | none => s.fuse.gnssPair
    ({ s with fuse := { s.fuse with gnssFixes := p :: s.fuse.gnssFixes, gnssPair := pair, gnssEarly := s.fuse.gnssEarly || early } }).tryAlign
  else s

/-- Does an item's source let it be applied, or at least be tested (R240, R241). -/
def State.considers (s : State) (src : Nat) : Bool := s.admitted src || (s.source src).masked

/-- An item of a considered source, at an estimator that has left UNINIT (R230–R232, R243). -/
def State.takeItem (s : State) (i : Item) : State :=
  if s.isLate i.t then
    let l := s.takeLate i.t
    if l.1 then (if s.estState = 1 then (if s.admitted i.src then l.2.alignItem i else l.2) else l.2.intoWindow { i with late := true }) else l.2
  else if s.estState = 1 then (if s.admitted i.src then s.alignItem i else s)
  else
    let s1 := s.intoWindow i
    if s1.fuse.now ≤ i.t then { s1 with fuse := { s1.fuse with held := s1.fuse.held ++ [i] } } else s1

/-- An item reaches the estimator (R230–R232, R240); `delivers` when its coming counts as data of its source. -/
def State.arrive (s : State) (delivers : Bool) (src kind elems : Nat) (mapped : Bool) (t : Int) (words : List Word64) : State :=
  let s1 := (if delivers then s.delivered src else s).freeze
  let i : Item := { src := src, t := t, arrived := s1.fuse.items, kind := kind, mapped := mapped, elems := elems, words := words }
  let s2 : State := { s1 with fuse := { s1.fuse with items := s1.fuse.items + 1 } }
  if s2.dev.estStopped || !s2.considers src || decide (s2.estState = 0) then s2 else s2.takeItem i

/-- Insert a sample in the buffer, newest first. -/
def insertSample (x : ImuSample) : List ImuSample → List ImuSample
  | [] => [x]
  | y :: r => if y.t ≤ x.t then x :: y :: r else y :: insertSample x r

/-- How long samples of the primary IMU are kept: the lag, and for an ALIGNING estimator the standstill of 1 s (R231, R243). -/
def State.sampleNs (s : State) : Int := if s.estState = 1 then max s.lagNs 1000000000 else s.lagNs

/-- A sample joins the buffer. -/
def State.bufferSample (s : State) (x : ImuSample) : State :=
  { s with fuse := { s.fuse with imuBuf := (insertSample x s.fuse.imuBuf).filter fun y => decide (s.fuse.now - s.sampleNs ≤ y.t) } }

/-- STANDSTILL at `t` (R239, R243). -/
def State.noteStill (s : State) (axes : List Nat) (t : Int) : State :=
  let st := Config.standstill s.fuse.est.data axes (s.fuse.edges.map fun e => (e.1, t - e.2)) == 1#1
  { s with fuse := { s.fuse with
      still := st
      stillSince := if st then (match s.fuse.stillSince with | some u => some u | none => some t) else none } }

/-- A sample of the primary IMU (R229, R232, R239, R243). -/
def State.imuSample (s0 : State) (x : ImuSample) : State :=
  let s := s0.freeze
  if s.dev.estStopped ∨ s.estState = 0 then s
  else if s.isLate x.t then
    let l := s.takeLate x.t
    if l.1 then l.2.bufferSample x else l.2
  else if x.t < s.fuse.now then s.bufferSample x
  else
    let s1 := if s.estState = 2 then s.propagateTo x.t else { s with fuse := { s.fuse with now := x.t } }
    ((s1.bufferSample x).noteStill x.axes x.t).tryAlign

/-- The six axes of a sample of IMU `i` at `t`, and whether one of them is flagged SETTLING (R229). -/
def State.imuAxes (s : State) (i : Nat) (t : Int) : List Nat × Bool :=
  let l := (upTo 6).map fun k => if s.chOn (6 * i + k) then s.outAt (6 * i + k) t else none
  (l.map fun o => match o with | some a => a.y | none => 0,
   l.any fun o => match o with | some a => a.settling | none => false)

/-- Without an admitted IMU the filter propagates from wheel speeds and the vehicle signal with the role YAW_RATE (R229). -/
def State.propagateWithout (s : State) (t : Int) : State :=
  if s.primaryImu.isNone ∧ s.estState = 2 ∧ !s.dev.estStopped ∧ s.fuse.now ≤ t ∧ !s.isLate t then (s.propagateTo t).noteStill [] t else s

/-- The reverse gear, where the vehicle signals are admitted (07 R209). -/
def State.reversing (s : State) : Bool := s.fuse.reverse && s.admitted 25

/-- A conditioned output reaches the estimator (R222, R229, R230): in reverse gear a wheel speed is negative (07 R209). A settling output counts as
delivered and is not used. -/
def State.condOut (s : State) (o : CondOut) : State :=
  if o.chan < 12 then
    let i := o.chan / 6
    let s2 := (s.noteOut o.chan { t := o.t, y := o.y, settling := o.settling }).delivered (20 + i)
    let lead := (upTo 6).find? fun k => s.chOn (6 * i + k)
    if lead = some (o.chan % 6) then
      let a := s2.imuAxes i o.t
      if a.2 then s2
      else if s2.primaryImu = some i then s2.imuSample { t := o.t, axes := a.1 }
      else s2.arrive true (20 + i) 6 6 false o.t (a.1.map fun v => BitVec.ofNat 64 v)
    else s2
  else
    let b := sourceOf o.chan
    if o.settling then s.delivered b
    else
      let y := if s.reversing then f32Neg o.y else o.y
      let s1 := s.noteOut o.chan { t := o.t, y := y, settling := false }
      (s1.arrive true b 7 1 false o.t [BitVec.ofNat 64 o.chan, BitVec.ofNat 64 y]).propagateWithout o.t

/-- The outputs of a burst or of the sampler, in order. A lead output forms its sample once the outputs of the same input
instant have come. -/
def State.condOuts (s : State) (l : List CondOut) : State :=
  let leads := fun (o : CondOut) => decide (o.chan < 12) &&
    decide (((upTo 6).find? fun k => s.chOn (6 * (o.chan / 6) + k)) = some (o.chan % 6))
  ((l.filter fun o => !leads o) ++ l.filter leads).foldl State.condOut s

/-- The role under which a signal entry is used (07 R209): of several enabled entries of one role the lowest-numbered one has it. -/
def State.roleOf (s : State) (e : List Byte) : Nat :=
  let vehicle := fun (x : List Byte) => bitOf (leAt x 0 4) 31 && decide (0x10 ≤ leAt x 5 1) && decide (leAt x 5 1 < 0x20)
  let role := leAt e 0xA 1
  if (s.cond.cansig.find? fun x => vehicle x && leAt x 0xA 1 == role) = some e then role else 0

/-- Vehicle signals of a CAN frame reach the estimator (R208, R209, R222): YAW_RATE and VEHICLE_SPEED as items, REVERSE as the gear. -/
def State.vehicleSignals (s : State) (hits : List (List Byte)) (t : Nat) : State :=
  hits.foldl (fun s e =>
    let tg := leAt e 5 1
    if 0x10 ≤ tg ∧ tg < 0x20 then
      let v := (SMap.get (fun _ => (0, 0)) s.cond.vehicle (tg - 0x10)).1
      match s.roleOf e with
      | 0 => s.delivered 25
      | 3 =>
        let s1 := s.delivered 25
        if s1.admitted 25 then { s1 with fuse := { s1.fuse with reverse := !f32Eq v 0 } } else s1
      | role =>
        let s1 := if role = 1 then s.noteOut 32 { t := t, y := v, settling := false } else s
        let s2 := s1.arrive true 25 8 1 false t [BitVec.ofNat 64 role, BitVec.ofNat 64 v]
        if role = 1 then s2.propagateWithout t else s2
    else s) s

/-- Join the position, the accuracy and the labelled edge of a second (R222): a GNSS item of three elements. -/
def State.gnssJoin (s : State) (sec : Nat) : State :=
  match (s.fuse.gnssWait.find? fun e => e.1 == sec), (s.time.labelled.find? fun e => e.1 == sec) with
  | some (_, some p, some a), some (_, edge) =>
    let s1 : State := { s with fuse := { s.fuse with gnssWait := s.fuse.gnssWait.filter fun e => e.1 != sec } }
    s1.arrive true 23 5 3 false edge (p ++ a.map fun w => w.setWidth 64)
  | _, _ => s

/-- A part of a GNSS position has come. -/
def State.gnssPart (s : State) (sec : Nat) (p : Option (List Word64)) (a : Option (List Word32)) : State :=
  let old := match s.fuse.gnssWait.find? fun e => e.1 == sec with
    | some e => e.2
    | none => (none, none)
  let new := (match p with | some x => some x | none => old.1, match a with | some x => some x | none => old.2)
  let s1 : State := { s with fuse := { s.fuse with gnssWait := ((sec, new) :: s.fuse.gnssWait.filter fun e => e.1 != sec).take 16 } }
  s1.gnssJoin sec

/-- A GNSS sentence as the estimator sees it (R222): without a georeference there are no positions. -/
def State.gnssItem (s : State) (n : Nmea) : State :=
  if s.mapGeo then
    let s1 := match n.pos with
      | some p => s.gnssPart p.second.toNat (some (Config.geoPos s.map.superBlock p.lat p.lon p.height)) none
      | none => s
    let s2 := match n.acc with
      | some a => s1.gnssPart a.second.toNat none (some [a.x, a.y, a.z])
      | none => s1
    match n.label with
    | some l => s2.gnssJoin l.toNat
    | none => s2
  else s

/-- Is an F16 code a usable standard deviation (R228). -/
def sigmaOk (c : Nat) : Bool := decide (c ≠ 0) && decide (c < 0x7C00)

/-- Elements in use of an observation kind (R227). -/
def kindElems (k : Nat) : Nat := if k ≤ 2 then 3 else 6

/-- Does the graph solver run (09 R268). -/
def State.gsolOn (s : State) : Bool := s.cfgBit R.GSOL_CFG R.GSOL_CFG_enable && !s.gsol.off

/-- Where a source's sensor stands on the body, and how it is turned (12 R344): a camera, a lidar; another source is the body itself. -/
def mountOf (cal : List Byte) (src : Nat) : V3 × Quat :=
  if src < 16 then ((cameraOf cal src).t, (cameraOf cal src).q) else if src < 20 then lidarOf cal (src - 16) else ({}, {})

/-- The pose that the estimator gave a keyframe (09 R260). -/
def PNode.recorded (n : PNode) : Pose := { pos := n.rpos.map fun p => p.toInt, q := Quat.of (n.rquat.map fun w => w.toNat) }

/-- The graph solver keeps a POINT or BEARING observation (09 R253): at the newest keyframe at or before its instant, with its sensor where the
estimator had it then (log entry 137). -/
def State.noteSight (s : State) (r : List Byte) : State :=
  let f := fun (o n : Nat) => leAt r o n
  let t := sext 64 (f 8 8)
  let before := (s.gsol.nodes ++ s.gsol.waitKf).filter fun n => match n.tb with
    | some b => decide ((b : Int) ≤ t)
    | none => false
  match before.getLast? with
  | none => s
  | some k =>
    if s.gsolOn && s.estRunning && decide (f 0 1 ≤ 2) then
      let m := mountOf s.cal (f 1 1)
      let body := (s.estAt t).pose
      let kf := k.recorded
      let q := kf.q.conj.mul body.q
      let track := if bitOf (f 2 2) 0 then none else some (f 4 4)
      let known := (s.gsol.sights.find? fun x => x.src == f 1 1 && x.track == track && x.entry.isSome).bind fun x => x.entry
      let e := if track.isNone then some (f 4 4 % 2 ^ 26) else known
      let x : Sight := { kf := k.kf, entry := e, src := f 1 1, track := track, bearing := decide (f 0 1 = 1)
                         place := ((kf.q.conj.rot (V3.between body.pos kf.pos)).add (q.rot m.1)).list, turn := (q.mul m.2).list
                         z := (upTo 3).map fun i => f (0x18 + 4 * i) 4, sigma := (upTo 3).map fun i => BitVec.ofNat 16 (f (0x30 + 2 * i) 2) }
      let seen := match e with
        | some i => SMap.set (fun _ => []) s.gsol.seen i ((SMap.get (fun _ => []) s.gsol.seen i) ++ [k.kf]).eraseDups
        | none => s.gsol.seen
      { s with gsol := { s.gsol with sights := s.gsol.sights ++ [x], seen := seen } }
    else s

/-- One observation record reaches the estimator (R227, R228): it counts as data of its source where that is a camera, a lidar, the map or the
network (R240). -/
def State.observation (s : State) (r : List Byte) : State :=
  let f := fun (o n : Nat) => leAt r o n
  let n := kindElems (f 0 1)
  let mapped := bitOf (f 2 2) 0
  let bad := f 0 1 = 0 ∨ 4 < f 0 1 ∨ 27 < f 1 1 ∨ !(upTo n).all (fun i => sigmaOk (f (0x30 + 2 * i) 2)) ∨
    (mapped ∧ f 0x3C 4 ≠ s.reg R.FUSE_MAP_GEN)
  if bad then s.inc R.FUSE_OBS_DISCARD
  else
    let lm := if mapped then
        let a := s.reg64 R.GSOL_LD_BASE_LO + 64 * f 4 4
        [BitVec.ofNat 64 (s.load a 8), BitVec.ofNat 64 (s.load (a + 8) 8), BitVec.ofNat 64 (s.load (a + 16) 8)]
      else []
    let s1 := (s.noteSight r).arrive (decide (f 1 1 < 20) || decide (25 < f 1 1)) (f 1 1) (f 0 1) n mapped (sext 64 (f 8 8))
      (((upTo 6).map fun i => BitVec.ofNat 64 (f (0x18 + 4 * i) 4)) ++ ((upTo 6).map fun i => BitVec.ofNat 64 (f (0x30 + 2 * i) 2)) ++
        [BitVec.ofNat 64 (f 4 4), BitVec.ofNat 64 (f 0x10 8)] ++ lm)
    let s2 := if mapped ∧ f 1 1 ≠ 26 then s1.delivered 26 else s1
    if f 1 1 = 27 then s2 else s2.delivered 27

/-- The fusion network's output block reaches the estimator (04 R115, R226–R228): its address and size, the late and err bits
of its tag, the TB3 instant of the release. -/
def State.observationBlock (s : State) (a size : Nat) (late err : Bool) (tRel : Nat) : State :=
  if s.netBad ∨ s.dev.estStopped then s
  else
    let n := min (min (s.load a 4) 4096) ((size - 64) / 64)
    if late ∧ s.lagNs < s.fuse.now - tRel then s.inc R.FUSE_NET_DISCARD
    else
      let s1 := if late then
          ({ s with fuse := { s.fuse with fNetLate := true } }).inc R.FUSE_NET_LATE_USED
        else s
      if err then s1.addTo R.FUSE_OBS_DISCARD n
      else (upTo n).foldl (fun s' i => s'.observation (s1.bytes (a + 64 + 64 * i) 64)) s1

/-- A smoother pass starts at `t` (R231): at a multiple of period_ms, with no pass running; it takes the items that have arrived and lie in the
window, apart from those that have failed the gate. -/
def State.passStart (s : State) (t : Nat) : State :=
  let p := s.cfgFld R.FUSE_SMOOTH_CFG R.FUSE_SMOOTH_CFG_period_ms * 1000000
  if s.fuse.pass.isNone ∧ s.estState = 2 ∧ !s.dev.estStopped ∧ t % p = 0 then
    let n := s.fuse.now
    let mine := s.fuse.window.filter fun i => decide (n - s.lagNs ≤ i.t) && decide (i.t ≤ n) && !i.failed
    { s with fuse := { s.fuse with pass := some { start := t, now := n, est := s.fuse.est, nodes := s.fuse.nodes, items := mine }
                                   latePass := s.fuse.lateWait, lateWait := false } }
  else s

/-- What the gate lets a pass use (R231, R240, R241): the items of admitted sources that have passed it, and those not yet tested that pass it at
the state of their time. -/
def Applied.gateAll (x : Applied) : List Item → Applied × List Item
  | [] => (x, [])
  | i :: r =>
    let s := x.st
    if i.gated then
      let y := x.gateAll r
      (y.1, if s.admitted i.src then i :: y.2 else y.2)
    else if s.considers i.src then
      let g := s.gate (s.estAt i.t) i
      if g.1 then
        let y := ({ x with passed := i.arrived :: x.passed, st := g.2.noteApplied i } : Applied).gateAll r
        (y.1, i :: y.2)
      else ({ x with failed := i.arrived :: x.failed, st := g.2 } : Applied).gateAll r
    else x.gateAll r

/-- May the estimator refine byte `o` of the calibration (12 R344, R346): camera and lidar extrinsics and time offsets, IMU
biases and time offsets, wheel radii. -/
def calRefinable (o : Nat) : Bool :=
  if o < 0x80 then false
  else if o < 0x880 then (let k := (o - 0x80) % 128; decide (0x34 ≤ k) && decide (k < 0x54))
  else if o < 0x980 then (let k := (o - 0x880) % 128; decide (k < 24) || decide (124 ≤ k))
  else if o < 0xA80 then decide ((o - 0x980) % 64 < 32)
  else if o < 0xB40 then decide ((o - 0xA80) % 16 < 4)
  else false

/-- The calibration as the estimator refines it (12 R346): its bytes where it may refine, the live ones elsewhere. -/
def refined (live new : List Byte) : List Byte :=
  live.zipIdx.map fun e => if calRefinable e.2 then nthD e.1 new e.2 else e.1

/-- The refined values are written, to take effect at the next epoch boundary (12 R346). -/
def State.refineCal (s : State) (e : Est) : State :=
  let cur := match s.cfg.calPending with
    | some c => c
    | none => s.cal
  let new := refined cur (Config.refineCal e.data cur)
  if new = cur then s else ({ s with cfg := { s.cfg with calPending := some new } }).inc R.CFG_CAL_UPDATES

/-- The pass in progress ends at `t` (R231, R232): the filter takes its result and re-propagates through the buffered samples. -/
def State.passEnd (s0 : State) (t : Nat) : State :=
  let s := s0.freeze
  match s.fuse.pass with
  | none => s
  | some p =>
    if s.dev.estStopped then { s with fuse := { s.fuse with pass := none } }
    else
      let g := ({ est := p.est, at_ := p.now, st := s } : Applied).gateAll p.items
      let s1 := g.1.st
      let a := anchorOf p.est.pos
      let nodes := p.nodes.flatMap fun n => BitVec.ofInt 64 n.1 :: n.2.dataAt a
      let e := p.est.took (Config.smooth s1.cal (BitVec.ofInt 64 p.now :: p.est.data ++ nodes) (g.2.flatMap (s1.itemData p.est.pos)))
      let r := repropagate s1.cal e p.now (s1.motionAt p.now) s1.fuse.now (if s1.primaryImu.isSome then s1.fuse.imuBuf.reverse else []) [(p.now, e)]
      let per := s.cfgFld R.FUSE_SMOOTH_CFG R.FUSE_SMOOTH_CFG_period_ms * 1000000
      let ended : Bool := match s1.fuse.boundary with
        | some (_, tb) => decide (s1.waitEnd tb < t)
        | none => false
      let s2 : State := { s1 with fuse := { s1.fuse with
        pass := none, result := some (p.now, e), est := r.1
        past := s1.withinLag s1.fuse.now ((s1.fuse.now, r.1) :: r.2 ++ s1.fuse.past.filter fun x => decide (x.1 < p.now))
        nodes := (s1.withinLag s1.fuse.now ((p.now, e) :: s1.fuse.nodes)).take 256
        window := (s1.fuse.window.filter fun i => decide (s1.fuse.now - s1.lagNs ≤ i.t)).map fun i => i.tested g.1.passed g.1.failed
        fLateApplied := s1.fuse.fLateApplied || (s1.fuse.latePass && !ended)
        fLateNext := s1.fuse.fLateNext || (s1.fuse.latePass && ended), latePass := false
        fStale := s1.fuse.fStale || decide (2 * per < t - p.start) } }
      s2.refineCal e

/-- What an epoch boundary does to the estimator: its error state follows the wheel channels in use (R221), its window a lag that has become
shorter (R231). -/
def State.estBoundary (s : State) : State :=
  let w := s.wheelsOn.length
  let m := fun (x : Int × Est) => (x.1, x.2.setWheels w)
  let n := s.fuse.now
  { s with fuse := { s.fuse with
      est := s.fuse.est.setWheels w, past := s.fuse.past.map m, result := s.fuse.result.map m
      nodes := (s.withinLag n s.fuse.nodes).map m
      pass := s.fuse.pass.map fun p => { p with est := p.est.setWheels w, nodes := p.nodes.map m }
      frozen := s.fuse.frozen.map fun f => { f with est := f.est.setWheels w, past := f.past.map m } } }

/-- The estimator starts anew (R243): cold start, exit from RECOVER. Registers and sequence numbers stay. -/
def State.resetEst (s : State) : State :=
  ({ s with fuse := { ({} : FuseSt) with
      srcs := s.fuse.srcs.filterMap fun (e : Nat × Source) => match e.2.last with | some t => some (e.1, ({ last := some t } : Source)) | none => none
      items := s.fuse.items, outs := s.fuse.outs, mask := s.fuse.mask, lastOut := s.fuse.lastOut, corrs := s.fuse.corrs
      snapObj := s.fuse.snapObj } }).setEstState 0

end Sys2Proof.Machine
end

