-- ==== Sys2Proof/Machine/IndexPages.lean ====
section
/-! DEFINITION. The pages of the place index (spec 11 R311, R312). -/
namespace Sys2Proof.Machine

/-- Data bytes of a page (10 R271). -/
def pageBytes : Nat := 16384

/-- A byte list filled up with zeros to `n` bytes. -/
def padTo (n : Nat) (b : List Byte) : List Byte := b ++ List.replicate (n - b.length) 0

/-- Node `n` of an index. -/
def Index.node (x : Index) (n : Nat) : Node := SMap.get (fun _ => ({} : Node)) x.nodes n

/-- The index with node `n` replaced. -/
def Index.set (x : Index) (n : Nat) (v : Node) : Index := { x with nodes := SMap.set (fun _ => ({} : Node)) x.nodes n v }

/-- Bytes of a node record (R312). -/
def nodeBytes (n : Nat) (x : Node) : List Byte :=
  leBytes 32 x.sketch ++ padTo 128 (x.nbr.flatMap fun e => leBytes 4 e.1) ++ padTo 32 (x.nbr.map fun e => BitVec.ofNat 8 e.2) ++
  record 64 [(0, 4, n), (4, 2, x.gen), (6, 1, x.state + 4 * b2n x.entry), (7, 1, x.nbr.length), (8, 4, x.tileX.toNat), (0xC, 4, x.tileY.toNat),
    (0x10, 4, x.keyframe), (0x14, 1, x.sensor), (0x18, 8, x.tKf)]

/-- First descriptor page (R311). -/
def descPage : Nat := 2 ^ 26

/-- Data area of a logical index page (R311). -/
def Index.page (x : Index) (l : Nat) : List Byte :=
  if l < descPage then (upTo 64).flatMap fun s => nodeBytes (64 * l + s) (x.node (64 * l + s))
  else (upTo 64).flatMap fun s => padTo 256 (x.node (64 * (l - descPage) + s)).desc

end Sys2Proof.Machine
end

