-- ==== Sys2Proof/Machine/Journal.lean ====
section
/-! DEFINITION. The journal of the map store (spec 10): flash addresses and blocks, records, commits, checkpoints, durability,
power failure. Pages are placed one to a word line, the rest of which is padded (log entry 50). -/
namespace Sys2Proof.Machine

/-- Address of directory entry `i` (R255). -/
def State.ldAddr (s : State) (i : Nat) : Nat := placedAddr s.gsol.ldBase + 64 * i

/-- Directory entry `i`. -/
def State.ldEntry (s : State) (i : Nat) : List Byte := s.bytes (s.ldAddr i) 64

/-- Update directory entry `i` to the fields of `b` in the order of R258: wseq odd, the other fields, wseq even. -/
def State.ldWrite (s : State) (i : Nat) (b : List Byte) : State :=
  let a := s.ldAddr i
  let w := s.load (a + 0x26) 2
  let s1 := s.store (a + 0x26) (leBytes 2 ((w + 1) % 2 ^ 16))
  let s2 := (s1.store a (b.take 0x26)).store (a + 0x28) ((b.drop 0x28).take 24)
  s2.store (a + 0x26) (leBytes 2 ((w + 2) % 2 ^ 16))

/-- The 64 bytes of a digest. -/
def digest64 (b : List Byte) : List Byte := leBytes 64 (Config.shake256 b).toNat

/-- Key of page 0 of block 0 of LUN 0 of target 0 of channel `c` (R275). -/
def chanPage (c : Nat) : Nat := c * 2 ^ 32

/-- Block of a page key. -/
def blockOf (p : Nat) : Nat := p / 4096

/-- Channel of a block. -/
def blockChan (b : Nat) : Nat := b / 2 ^ 20

/-- The programmed page under a key. -/
def State.npage (s : State) (p : Nat) : Option NPage := SMap.get (fun _ => none) s.map.nand p

/-- The state with a page programmed, or erased. -/
def State.setNpage (s : State) (p : Nat) (v : Option NPage) : State :=
  { s with map := { s.map with nand := SMap.set (fun _ => none) s.map.nand p v } }

/-- Block `b`. -/
def State.nblock (s : State) (b : Nat) : NBlock := SMap.get (fun _ => ({} : NBlock)) s.map.blocks b

/-- The state with it replaced. -/
def State.setNblock (s : State) (b : Nat) (x : NBlock) : State :=
  { s with map := { s.map with blocks := SMap.set (fun _ => ({} : NBlock)) s.map.blocks b x } }

/-- Blocks of a channel. -/
def Geo.perChan (g : Geo) : Nat := g.targets * g.luns * g.bpl

/-- The `k`-th block of channel `c` in PPA order (R275). -/
def Geo.block (g : Geo) (c k : Nat) : Nat :=
  ((c * 4 + k / g.bpl / g.luns) * 4 + k / g.bpl % g.luns) * 65536 + k % g.bpl

/-- Geometry of a superblock (R277). -/
def geoOfSuper (b : List Byte) : Geo :=
  { channels := leAt b 0x18 1, targets := leAt b 0x19 1, luns := leAt b 0x1A 1, planes := leAt b 0x1B 1, ppb := leAt b 0x1C 2
    ppw := leAt b 0x1E 1, bits := leAt b 0x1F 1, bpl := leAt b 0x20 4, peRated := leAt b 0x24 4, payBlocks := leAt b 0x28 4 }

/-- Good blocks of the map pool: every block but the payload pool, the superblock blocks, the bad and the retired ones. -/
def State.poolGood (s : State) : Nat :=
  match s.map.geo with
  | none => 0
  | some g => g.channels * g.perChan - (s.map.blocks.filter fun e =>
      e.2.payload || e.2.state == .retired || e.2.state == .factoryBad || e.2.state == .super).length

/-- Free blocks of the map pool. -/
def State.poolFree (s : State) : Nat :=
  match s.map.geo with
  | none => 0
  | some g => g.channels * g.perChan - (s.map.blocks.filter fun e => e.2.payload || e.2.state != .free).length

/-- E_day (R304). -/
def State.eDay (s : State) : Nat :=
  match s.map.geo with
  | none => 0
  | some g => s.poolGood * g.peRated * (100 - s.cfgFld R.MAP_WEAR_CFG R.MAP_WEAR_CFG_life_margin) / 100 / 5479

/-- Erase counts of the good blocks of the map pool that have been erased, and 0 when some never was. -/
def State.eraseCounts (s : State) : List Nat :=
  let l := (s.map.blocks.filter fun e => !e.2.payload && (e.2.state == .free || e.2.state == .opened || e.2.state == .full)).map
    fun e => e.2.erases
  if l.length < s.poolGood then 0 :: l else l

/-- The registers that follow from the blocks (R310). -/
def State.poolRegs (s : State) : State :=
  let ec := s.eraseCounts
  let ret := (s.map.blocks.filter fun e => e.2.state == .retired).length
  let fb := (s.map.blocks.filter fun e => e.2.state == .factoryBad).length
  ((((((s.setReg R.MAP_POOL_GOOD s.poolGood).setReg R.MAP_POOL_FREE s.poolFree).setReg R.MAP_EC_MAX (ec.foldl max 0)).setReg
    R.MAP_EC_MIN (ec.foldl min (ec.headD 0))).setReg R.MAP_RETIRED ret).setReg R.MAP_FACTORY_BAD fb)

/-- State of the map store (R309). -/
def State.mapState (s : State) : Nat := s.fld R.MAP_STATUS R.MAP_STATUS_state

/-- The map store enters a state; BLANK, FAILED and READ_ONLY are causes of DEGRADED, READ_ONLY is a level source (R301,
R306, 12 R357). -/
def State.setMapState (s : State) (v : Nat) : State :=
  let s1 := s.setFld R.MAP_STATUS R.MAP_STATUS_state v
  let s2 := s1.setLevel 165 (decide (v = 3))
  ((s2.setCause R.GLB_DEGRADED_map_read_only (decide (v = 3))).setCause R.GLB_DEGRADED_map_failed (decide (v = 4))).setCause
    R.GLB_DEGRADED_map_blank (decide (v = 5))

/-- The budget state of the credit (R304): 0 OK, 1 DEFER, 2 HOLD. -/
def State.budgetOf (s : State) : Nat :=
  let e : Int := s.eDay
  if 0 < s.map.credit then 0 else if -e < s.map.credit then 1 else 2

/-- The lowest unlisted block of channel `c`: a free block that was never erased. -/
def State.freshBlock (s : State) (g : Geo) (c : Nat) : Option Nat :=
  let used := s.map.blocks.map fun e => e.1
  ((upTo (min g.perChan (used.length + 1))).map (g.block c)).find? fun b => !used.contains b

/-- The free block of channel `c` and a pool with the lowest erase count, the lower PPA on a tie (R303). -/
def State.nextFree (s : State) (g : Geo) (c : Nat) (pay : Bool) : Option Nat :=
  let listed := (s.map.blocks.filter fun e => e.2.state == .free && e.2.payload == pay && blockChan e.1 == c).map
    fun e => (e.1, e.2.erases)
  let all := if pay then listed else
    match s.freshBlock g c with
    | some b => (b, 0) :: listed
    | none => listed
  match sortBy2 all with
  | [] => none
  | e :: _ => some e.1
where
  /-- Blocks in the order of R303. -/
  sortBy2 (l : List (Nat × Nat)) : List (Nat × Nat) :=
    l.foldr (fun x r => ins x r) []
  /-- Insertion in that order. -/
  ins (x : Nat × Nat) : List (Nat × Nat) → List (Nat × Nat)
    | [] => [x]
    | y :: r => if x.2 < y.2 ∨ (x.2 = y.2 ∧ x.1 < y.1) then x :: y :: r else y :: ins x r

/-- The open block of channel `c` and a pool, opening one where there is none or it is full (R286, R303). -/
def State.openBlock (s : State) (g : Geo) (c : Nat) (pay : Bool) : Option Nat × State :=
  let k := if pay then 16 + c else c
  let fresh := fun (s : State) => match s.nextFree g c pay with
    | none => (none, s)
    | some b =>
      let x := s.nblock b
      let s1 := s.setNblock b { x with state := .opened, bseq := s.map.blockSeq, next := 0 }
      (some b, { s1 with map := { s1.map with blockSeq := s.map.blockSeq + 1, opens := SMap.put s1.map.opens k b } })
  match s.map.opens.find? fun e => e.1 == k with
  | some (_, b) =>
    if (s.nblock b).next + g.ppw ≤ g.ppb then (some b, s)
    else fresh (s.setNblock b { s.nblock b with state := .full })
  | none => fresh s

/-- Is an erase in progress on the die of block `b` (R291). -/
def State.erasing (s : State) (b : Nat) : Bool := s.map.busy.any fun o => o.erase && o.lun == b / 2 ^ 16

/-- A free word line from channel `c` onwards over `n` channels but those of `off`, on a die with no erase in progress where `calm` asks for one: the
key of its first page. -/
def State.lineFrom (s : State) (g : Geo) (pay calm : Bool) (off : List Nat) : Nat → Nat → Option Nat × State
  | 0, _ => (none, s)
  | n + 1, c =>
    if off.contains (c % 16) then s.lineFrom g pay calm off n (c + 1)
    else match s.openBlock g (c % 16) pay with
    | (some b, s1) =>
      let x := s1.nblock b
      if calm && s1.erasing b then s1.lineFrom g pay calm off n (c + 1)
      else (some (b * 4096 + x.next), s1.setNblock b { x with next := x.next + g.ppw })
    | (none, s1) => s1.lineFrom g pay calm off n (c + 1)

/-- A free word line over the 16 channels, on a die with no erase in progress (R291) where there is one. -/
def State.lineOff (s : State) (g : Geo) (pay : Bool) (off : List Nat) (c : Nat) : Option Nat × State :=
  match s.lineFrom g pay true off 16 c with
  | (some p, s1) => (some p, s1)
  | (none, s1) => s1.lineFrom g pay false off 16 c

/-- The next free word line, from channel `c` onwards: not on a channel of `off`, those that the page's parity group has (R287), unless no other has
a free block (log entry 163); none when no block is free. -/
def State.takeLine (s : State) (g : Geo) (pay : Bool) (off : List Nat) (c : Nat) : Option Nat × State :=
  match s.lineOff g pay off c with
  | (some p, s1) => (some p, s1)
  | (none, s1) => s1.lineOff g pay [] c

/-- Channel of a physical page address. -/
def ppaChan (ppa : Nat) : Nat := blockChan (blockOf (ppa / 2 ^ 28))

/-- Channels of the pages of a commit since its last PARITY page: those of the parity group in the making (R287). -/
def Commit.groupChans (c : Commit) : List Nat := (c.pages.reverse.takeWhile fun p => p.page.typ != 8).map fun p => ppaChan p.ppa

/-- Channels of the other pages of the parity group in which page `i` of a commit's list stands (R287). -/
def Commit.chansBeside (c : Commit) (i : Nat) : List Nat :=
  let content := fun (p : CPage) => p.page.typ != 8
  let before := (c.pages.take i).reverse.takeWhile content
  let rest := c.pages.drop i
  let after := match rest with
    | p :: r => if content p then r.takeWhile content ++ (r.dropWhile content).take 1 else []
    | [] => []
  (before ++ after).map fun p => ppaChan p.ppa

/-- XOR of data areas (R287). -/
def xorData (l : List (List Byte)) : List Byte :=
  l.foldl (fun a b => List.zipWith (fun x y => x ^^^ y) a (padTo pageBytes b)) (List.replicate pageBytes 0)

/-- A page key that no flash has: where a page stands that found no free block. -/
def noPage : Nat := 2 ^ 36

/-- A page of the open commit: it takes the next page_seq and the next word line (R276, R286). -/
def State.putPage (s : State) (typ group aux : Nat) (data : List Byte) : State :=
  match s.map.geo, s.map.cur with
  | some g, some c =>
    let l := s.takeLine g (typ == 7) c.groupChans s.map.rot
    let p := l.1.getD noPage
    let m := l.2.map
    let b := l.2.nblock (blockOf p)
    let first := decide (p % 4096 = 0)
    let page : NPage := { typ := typ, group := group, pool := b2n (typ == 7), seq := m.pageSeq, commit := c.id, aux := aux, mapId := leAt m.superBlock 8 8
                          blockSeq := if first then b.bseq else 0, erases := if first then b.erases else 0, data := data }
    { l.2 with map := { m with pageSeq := m.pageSeq + g.ppw, rot := (m.rot + 1) % 16, sincePages := m.sincePages + 1
                               cur := some { c with pages := c.pages ++ [{ ppa := p * 2 ^ 28, page := page }] } } }
  | _, _ => s

/-- Close the parity group in the making with its PARITY page (R287). -/
def State.putParity (s : State) : State :=
  if s.map.group = [] then s
  else
    let s1 := s.putPage 8 s.map.group.length 0 (xorData s.map.group)
    { s1 with map := { s1.map with group := [] } }

/-- A content page of the open commit (R286, R287). -/
def State.putContent (s : State) (typ aux : Nat) (data : List Byte) : State :=
  let s1 := s.putPage typ s.map.group.length aux data
  let s2 : State := { s1 with map := { s1.map with group := s1.map.group ++ [data] } }
  if 15 ≤ s2.map.group.length then s2.putParity else s2

/-- The bytes of a record: header and body, a multiple of 16 (R281). -/
def recBytes (r : MapRec) : List Byte :=
  let n := 16 + (r.body.length + 15) / 16 * 16
  padTo n (leBytes 1 r.typ.toNat ++ leBytes 1 r.prio.toNat ++ leBytes 2 n ++ leBytes 4 r.tileX.toNat ++ leBytes 4 r.tileY.toNat ++
    leBytes 4 r.id.toNat ++ r.body)

/-- The PAD record that fills `n` bytes. -/
def padRec (n : Nat) : List Byte :=
  if n = 0 then []
  else padTo n (leBytes 1 0x0B ++ leBytes 1 0 ++ leBytes 2 n ++ leBytes 4 0x80000000 ++ leBytes 4 0x80000000 ++ leBytes 4 0)

/-- The records of a data area from byte `o` of it (R281), each with its byte offset, with fuel. -/
def placedRecs : Nat → Nat → List Byte → List (Nat × MapRec)
  | 0, _, _ => []
  | k + 1, o, b =>
    let n := leAt b 2 2
    if n < 16 ∨ b.length < n then []
    else
      let rest := placedRecs k (o + n) (b.drop n)
      if leAt b 0 1 = 0x0B then rest
      else (o, { typ := BitVec.ofNat 8 (leAt b 0 1), prio := BitVec.ofNat 2 (leAt b 1 1), tileX := BitVec.ofNat 32 (leAt b 4 4)
                 tileY := BitVec.ofNat 32 (leAt b 8 4), id := BitVec.ofNat 32 (leAt b 12 4), body := (b.drop 16).take (n - 16) }) :: rest

/-- The records of a data area (R281), with fuel. -/
def parseRecs (fuel : Nat) (b : List Byte) : List MapRec := (placedRecs fuel 0 b).map fun e => e.2

/-- The landmarks whose records a page holds, each with the record's byte offset in the data area. -/
def NPage.landmarks (x : NPage) : List (Nat × Nat) :=
  if x.typ = 1 ∨ x.typ = 2 then (placedRecs 1024 0 x.data).filterMap fun e => if e.2.typ = 1 then some (e.2.id.toNat % 2 ^ 26, e.1) else none
  else []

/-- The commits that are not durable, in order. -/
def State.pendingCommits (s : State) : List Commit :=
  (match s.map.flight with | some c => [c] | none => []) ++ s.map.wait ++ (match s.map.cur with | some c => [c] | none => [])

/-- Where the record of landmark `i` lies in the map (09 R257, R275): in the page with the highest page_seq that holds one, programmed for a
durable commit or placed in one that is not; 0 where there is none. -/
def State.refOf (s : State) (i : Nat) : Nat :=
  let mine := fun (ppa : Nat) (x : NPage) => x.landmarks.filterMap fun e => if e.1 = i then some (x.seq, ppa + e.2) else none
  let flash := s.map.nand.flatMap fun e => match e.2 with
    | some x => if x.mapId = leAt s.map.superBlock 8 8 ∧ x.commit ≤ s.map.head then mine (e.1 * 2 ^ 28) x else []
    | none => []
  let coming := s.pendingCommits.flatMap fun c => c.pages.flatMap fun p => mine p.ppa p.page
  ((flash ++ coming).foldl (fun (b : Nat × Nat) x => if b.1 < x.1 ∨ (b.1 = x.1 ∧ b.2 < x.2) then x else b) (0, 0)).2

/-- map_ref of directory entries follows the places of their records (09 R257, R258). -/
def State.noteRefs (s : State) (ids : List Nat) : State :=
  ids.foldl (fun (s : State) i =>
    let b := s.ldEntry i
    let r := s.refOf i
    if s.gsol.live.contains i ∧ leAt b 0x30 8 ≠ r then s.ldWrite i (b.take 0x30 ++ leBytes 8 r ++ b.drop 0x38) else s) s

/-- Records packed into data areas of whole pages (R281). -/
def packRecs (l : List (List Byte)) : List (List Byte) :=
  let r := l.foldl (fun (a : List (List Byte) × List Byte) b =>
    if pageBytes < a.2.length + b.length then (a.1 ++ [a.2 ++ padRec (pageBytes - a.2.length)], b) else (a.1, a.2 ++ b)) ([], [])
  if r.2 = [] then r.1 else r.1 ++ [r.2 ++ padRec (pageBytes - r.2.length)]

/-- Tile part of the key of 09 R256. -/
def tileKey (x y : BitVec 32) : Nat := (x.toNat % 2 ^ 28) * 2 ^ 36 + (y.toNat % 2 ^ 28) * 2 ^ 8

/-- Interleave bits: those of `x` in the even places (log entry 51). -/
def interleave : Nat → Nat → Nat → Nat
  | 0, _, _ => 0
  | n + 1, x, y => x % 2 + 2 * (y % 2) + 4 * interleave n (x / 2) (y / 2)

/-- Morton code of a tile (09 R251). -/
def morton (x y : BitVec 32) : Nat := interleave 28 ((x.toInt + 2 ^ 27).toNat) ((y.toInt + 2 ^ 27).toNat)

/-- The Morton code of a tile key. -/
def keyMorton (k : Nat) : Nat :=
  morton (BitVec.ofInt 32 (sext 28 (k / 2 ^ 36))) (BitVec.ofInt 32 (sext 28 (k / 2 ^ 8 % 2 ^ 28)))

/-- Do two records describe the same object of the map. -/
def sameObj (a b : MapRec) : Bool :=
  let c := fun (r : MapRec) => if r.typ = 2 then 1 else r.typ.toNat
  c a == c b && (if a.typ = 6 then a.tileX == b.tileX && a.tileY == b.tileY else a.id == b.id)

/-- Order of the records of a segment: Morton code, type, id. -/
def recLt (a b : MapRec) : Bool :=
  let m := morton a.tileX a.tileY
  let n := morton b.tileX b.tileY
  decide (m < n) || (decide (m = n) && (decide (a.typ < b.typ) || (decide (a.typ = b.typ) && decide (a.id < b.id))))

/-- The tile of a home key. -/
def keyTile (key : Nat) : BitVec 32 × BitVec 32 :=
  (BitVec.ofInt 32 (sext 28 (key / 2 ^ 36)), BitVec.ofInt 32 (sext 28 (key / 2 ^ 8 % 2 ^ 28)))

/-- Insert a record. -/
def insertRec (r : MapRec) : List MapRec → List MapRec
  | [] => [r]
  | x :: l => if recLt r x then r :: x :: l else x :: insertRec r l

/-- The records with `r` in place of the object's earlier one. -/
def upsert (r : MapRec) (l : List MapRec) : List MapRec := insertRec r (l.filter fun x => !sameObj r x)

/-- A position under a tile transform (09 R265). -/
def movedPos (tr : List Byte) (x y z : Nat) : List Word64 := txMove tr [sext 64 x, sext 64 y, sext 64 z]

/-- An attitude under a tile transform (09 R265), w in the lowest word. -/
def movedQuat (tr : List Byte) (q : Nat) : List Word32 :=
  (txTurn tr (Quat.of ((upTo 4).map fun i => q / 2 ^ (32 * i) % 2 ^ 32))).list.map (BitVec.ofNat 32)

/-- The transform of a tile, if the list holds one (09 R265). -/
def transformOf (l : List (List Byte)) (tx ty : BitVec 32) : Option (List Byte) :=
  l.find? fun t => leAt t 0 4 == tx.toNat && leAt t 4 4 == ty.toNat

/-- A record under a published correction: landmarks of its tiles by home_key, keyframes by their tile (09 R263, R265). One whose map_gen is the
correction's bears the value after it (log entry 165). -/
def moveRec (gen : Nat) (tiles : List (List Byte)) (r : MapRec) : MapRec :=
  match transformOf tiles r.tileX r.tileY with
  | none => r
  | some tr =>
    let f := fun (o n : Nat) => leAt r.body o n
    if f 0x38 4 = gen then r
    else if r.typ = 1 then
      { r with body := ((movedPos tr (f 0 8) (f 8 8) (f 16 8)).flatMap fun w => leBytes 8 w.toNat) ++ (r.body.drop 24).take 32 ++
          leBytes 4 gen ++ r.body.drop 60 }
    else if r.typ = 3 then
      { r with body := r.body.take 8 ++ ((movedPos tr (f 8 8) (f 16 8) (f 24 8)).flatMap fun w => leBytes 8 w.toNat) ++
          ((movedQuat tr (f 32 16)).flatMap fun w => leBytes 4 w.toNat) ++ (r.body.drop 48).take 8 ++ leBytes 4 gen ++ r.body.drop 60 }
    else r

/-- The transforms that a CORRECTION or CORRECTION_CONT record carries, `n` of them from offset `o`. -/
def transformsIn (b : List Byte) (o n : Nat) : List (List Byte) := (upTo n).map fun i => (b.drop (o + 48 * i)).take 48

/-- Extents of a PAYLOAD or PAYLOAD_CONT record. -/
def extentsIn (b : List Byte) (o n : Nat) : List (Nat × Nat) := (upTo n).map fun i => (leAt b (o + 16 * i) 8, leAt b (o + 16 * i + 8) 4)

/-- A correction whose transforms have all come takes effect on the content (R282). -/
def Content.endCorr (c : Content) : Content :=
  match c.corr with
  | some (g, n, l) =>
    if n ≤ l.length then { c with corr := none, gen := g, recs := c.recs.map (moveRec g l) } else c
  | none => c

/-- A payload whose extents have all come is in the payload table (R282). -/
def Content.endPay (c : Content) (commit : Nat) : Content :=
  match c.pay with
  | some (d, size, n, l) =>
    if n ≤ l.length then
      { c with pay := none, payloads := (c.payloads.filter fun p => p.digest != d) ++
          [{ digest := d, size := size, extents := l, commit := commit }] }
    else c
  | none => c

/-- What a record does to the content of the map (R281, R282). -/
def Content.apply (c : Content) (commit : Nat) (r : MapRec) : Content :=
  let f := fun (o n : Nat) => leAt r.body o n
  match r.typ.toNat with
  | 0x01 | 0x03 | 0x04 | 0x05 | 0x06 => { c with recs := upsert { r with prio := 0 } c.recs }
  | 0x02 => { c with recs := c.recs.filter fun x => !sameObj r x }
  | 0x07 =>
    let n := f 0x18 4
    ({ c with corr := some (f 0 4, n, transformsIn r.body 0x40 (min n 339)) }).endCorr
  | 0x0C =>
    match c.corr with
    | some (g, n, l) => ({ c with corr := some (g, n, l ++ transformsIn r.body 16 (f 8 4)) }).endCorr
    | none => c
  | 0x08 => { c with index := SMap.put c.index (f 0 4) (f 8 8) }
  | 0x09 =>
    let n := f 72 4
    ({ c with pay := some (r.body.take 64, f 64 8, n, extentsIn r.body 80 (min n 1018)) }).endPay commit
  | 0x0D =>
    match c.pay with
    | some (d, size, n, l) => ({ c with pay := some (d, size, n, l ++ extentsIn r.body 80 (f 68 4)) }).endPay commit
    | none => c
  | 0x0A => { c with payloads := c.payloads.filter fun p => p.digest != r.body.take 64 }
  | _ => c

/-- Open a commit when none is open (R286). -/
def State.openCommit (s : State) : State :=
  match s.map.cur with
  | some _ => s
  | none => { s with map := { s.map with cur := some { id := s.map.nextId }, nextId := s.map.nextId + 1, before := s.map.content } }

/-- The page buffer becomes a RECORDS page. -/
def State.flushBuf (s : State) : State :=
  if s.map.buf = [] then s
  else
    let d := s.map.buf ++ padRec (pageBytes - s.map.buf.length)
    (({ s with map := { s.map with buf := [] } }).putContent 1 0 d).noteRefs ((NPage.landmarks { typ := 1, data := d }).map fun (e : Nat × Nat) => e.1)

/-- Tile table entries as bytes keyed by tile; the table's number is 0, index 1, payload 2, block 3 (log entry 52). -/
def tileEntry (s : State) (k : Nat) (segdesc : Nat) (records : Nat) (pages : List (List Byte)) : List Byte :=
  let x := sext 28 (k / 2 ^ 36)
  let y := sext 28 (k / 2 ^ 8 % 2 ^ 28)
  let _ := s
  record 24 [(0, 4, twos 32 x), (4, 4, twos 32 y), (8, 8, segdesc), (16, 4, records), (20, 4, pages.length)] ++
    digest64 (pages.flatMap (padTo pageBytes)) ++ leBytes 8 0

/-- Location of the page put last. -/
def State.lastPpa (s : State) : Nat :=
  match s.map.cur with
  | some c => match c.pages.reverse.find? fun p => p.page.typ != 8 with
    | some p => p.ppa
    | none => 0
  | none => 0

/-- The commit page of a commit whose pages stand (R288). -/
def State.commitPage (s : State) (c : Commit) (ppa0 : Nat) : List Byte :=
  let own := bitOf c.flags 0
  let content := c.pages.filter fun p => p.page.typ != 8
  let fixed := record 0x80 [(0, 4, 0x594C434D), (4, 2, 1), (6, 2, c.flags), (8, 8, c.id),
    (0x10, 8, match c.pages.head? with | some p => p.page.seq | none => 0),
    (0x18, 8, match c.pages.getLast? with | some p => p.page.seq | none => 0), (0x20, 4, c.pages.length), (0x24, 4, c.records),
    (0x28, 4, c.mapGen), (0x30, 8, c.epoch), (0x38, 8, c.tClose), (0x40, 8, if own then c.id else s.map.ckpt),
    (0x48, 8, if own then ppa0 else s.map.ckptPpa), (0x50, 8, s.map.eraseTotal), (0x58, 4, twos 32 s.map.credit)]
  let body := fixed ++ padTo 64 s.map.prevHead ++ digest64 (content.flatMap fun p => padTo pageBytes p.page.data) ++
    (if own then digest64 c.root else List.replicate 64 0)
  body ++ digest64 body ++ c.pages.flatMap fun p => leBytes 8 p.ppa

/-- A copy of the commit page on the next free word line from channel `ch` (R288). -/
def State.placeCopy (s : State) (g : Geo) (id ch : Nat) : CPage × State :=
  let l := s.takeLine g false [] ch
  let p := l.1.getD noPage
  let b := l.2.nblock (blockOf p)
  let first := decide (p % 4096 = 0)
  ({ ppa := p * 2 ^ 28
     page := { typ := 9, seq := l.2.map.pageSeq, commit := id, mapId := leAt l.2.map.superBlock 8 8
               blockSeq := if first then b.bseq else 0, erases := if first then b.erases else 0, data := [] } },
   { l.2 with map := { l.2.map with pageSeq := l.2.map.pageSeq + g.ppw } })

/-- May programs start: PFAIL_N is high and has been for 10 ms, or the commit is the one R295 completes. -/
def State.mayProgram (s : State) (c : Commit) : Bool :=
  (!s.map.refuse && s.map.holdTo.isNone) || (s.map.pfailWait && s.map.flight.any fun d => decide (d.id = c.id))

/-- Issue both copies of the commit page of the commit in flight once its pages have programmed (R291). -/
def State.issueCopies (s : State) : State :=
  match s.map.geo, s.map.flight with
  | some g, some c =>
    if c.copies = [] ∧ (c.pages.all fun p => p.done) ∧ s.mayProgram c then
      let a := s.placeCopy g c.id s.map.rot
      let b := a.2.placeCopy g c.id (s.map.rot + 8)
      let d := b.2.commitPage c a.1.ppa
      let set := fun (p : CPage) => { p with page := { p.page with data := d } }
      { b.2 with map := { b.2.map with rot := (s.map.rot + 1) % 16, flight := some { c with copies := [set a.1, set b.1] } } }
    else s
  | _, _ => s

/-- The next closed commit is in flight (R290). -/
def State.nextFlight (s : State) : State :=
  match s.map.flight, s.map.wait with
  | none, c :: r => ({ s with map := { s.map with flight := some c, wait := r } }).issueCopies
  | _, _ => s

/-- The open commit closes with `flags` (R290). -/
def State.shutCommit (s0 : State) (flags : Nat) : State :=
  let s := s0.putParity
  match s.map.cur with
  | none => s
  | some c =>
    let d := { c with flags := c.flags ||| flags, mapGen := s.map.content.gen, epoch := s.dev.epoch, tClose := s.tb0 }
    ({ s with map := { s.map with cur := none, wait := s.map.wait ++ [d], sinceCkpt := s.map.sinceCkpt + 1 } }).nextFlight

/-- Room in the page list of the open commit for `n` pages of a checkpoint more, with their parity pages: what it holds closes as an ordinary commit
where there is none, and the checkpoint goes on in the next (R290; log entry 164). -/
def State.ckptRoom (s : State) (n : Nat) : State :=
  match s.map.cur with
  | some c => if 2000 < c.pages.length + n + n / 15 + 2 then (s.shutCommit 0).openCommit else s
  | none => s

/-- Put pages of one type, answering their locations. -/
def State.putPages (s : State) (typ aux : Nat) : List (List Byte) → List Nat × State
  | [] => ([], s)
  | d :: r =>
    let s1 := (s.ckptRoom 1).putContent typ aux d
    let p := s1.lastPpa
    let t := s1.putPages typ aux r
    (p :: t.1, t.2)

/-- Write the segment image of a tile and list it (R283). -/
def State.putSegment (s : State) (k : Nat) : State :=
  let recs := s.map.content.recs.filter fun r => tileKey r.tileX r.tileY == k
  let pages := packRecs (recs.map recBytes)
  let a := s.putPages 2 k pages
  let s0 := a.2.noteRefs (recs.filterMap fun r => if r.typ = 1 then some (r.id.toNat % 2 ^ 26) else none)
  let s1 := (s0.ckptRoom 1).putContent 3 k (leBytes 4 pages.length ++ a.1.flatMap fun p => leBytes 8 p)
  let e := tileEntry s1 k s1.lastPpa recs.length pages
  let same := fun (t : List Byte) => t.take 8 == e.take 8
  { s1 with map := { s1.map with tileTab := insertTile e (s1.map.tileTab.filter fun t => !same t) } }
where
  /-- Ascending Morton order. -/
  insertTile (e : List Byte) : List (List Byte) → List (List Byte)
    | [] => [e]
    | t :: r =>
      if morton (BitVec.ofNat 32 (leAt e 0 4)) (BitVec.ofNat 32 (leAt e 4 4)) <
         morton (BitVec.ofNat 32 (leAt t 0 4)) (BitVec.ofNat 32 (leAt t 4 4)) then e :: t :: r else t :: insertTile e r

/-- The state code of a block in the block table. -/
def BState.code : BState → Nat
  | .free => 1 | .opened => 2 | .full => 3 | .retired => 4 | .factoryBad => 5 | .super => 6

/-- The entries of a root list. -/
def rootEntries (b : List Byte) : List (List Byte) :=
  ((upTo (b.length / 80)).map fun i => (b.drop (80 * i)).take 80).filter fun e => leAt e 8 8 != 0

/-- Does something still refer to a page (R293): the last durable checkpoint, a commit after it, a commit that is not durable,
a read in flight. -/
def State.referenced (s : State) (p : Nat) : Bool :=
  let ppa := p * 2 ^ 28
  let inExt := fun (c : Content) => (c.index.any fun e => e.2 == ppa) ||
    c.payloads.any fun q => q.extents.any fun x => decide (x.1 ≤ ppa) && decide (ppa < x.1 + x.2 * 2 ^ 28)
  let segs := fun (t : List Byte) =>
    let sd := leAt t 8 8
    sd == ppa || (match s.npage (sd / 2 ^ 28) with
      | some d => (upTo (leAt d.data 0 4)).any fun i => leAt d.data (4 + 8 * i) 8 == ppa
      | none => false)
  match s.npage p with
  | none => false
  | some x =>
    (decide (x.typ ≠ 0x0A) && decide (s.map.ckpt ≤ x.commit) && decide (x.commit ≠ 0)) || inExt s.map.durContent || inExt s.map.content ||
    (rootEntries s.map.durRoot).any (fun e => leAt e 8 8 == ppa) || s.map.durTiles.any segs || s.map.reads.any fun r => r.issued.isSome && r.page == p

/-- The programmed pages of a block. -/
def State.blockPages (s : State) (b : Nat) : List (Nat × NPage) :=
  s.map.nand.filterMap fun e => if blockOf e.1 = b then e.2.map fun x => (e.1, x) else none

/-- Bytes of a table (R283; log entry 52). -/
def State.tableBytes (s : State) (k : Nat) : List Byte :=
  if k = 0 then s.map.tileTab.flatten
  else if k = 1 then s.map.content.index.flatMap fun e => leBytes 4 e.1 ++ leBytes 4 1 ++ leBytes 8 e.2
  else if k = 2 then s.map.content.payloads.flatMap fun p => p.digest ++ leBytes 8 p.size ++ leBytes 4 p.extents.length ++ leBytes 4 1 ++
    p.extents.flatMap fun x => leBytes 8 x.1 ++ leBytes 8 x.2
  else s.map.blocks.flatMap fun e => leBytes 4 e.1 ++ leBytes 4 e.2.erases ++ leBytes 1 e.2.state.code ++ leBytes 1 (b2n e.2.payload) ++
    leBytes 2 ((s.blockPages e.1).filter fun p => s.referenced p.1).length ++ leBytes 4 0

/-- Cut bytes into pages. -/
def cutPages : Nat → List Byte → List (List Byte)
  | 0, _ => []
  | n + 1, b => if b = [] then [] else b.take pageBytes :: cutPages n (b.drop pageBytes)

/-- An entry of the root list (R283). -/
def rootEntry (table no ppa : Nat) (page : List Byte) : List Byte :=
  record 16 [(0, 1, table), (4, 4, no), (8, 8, ppa)] ++ digest64 (padTo pageBytes page)

/-- Write the changed pages of a table; the entries of all its pages (R283, R292). -/
def State.putTable (s : State) (k : Nat) : List Byte × State :=
  let t := s.tableBytes k
  let old := rootEntries s.map.root
  (cutPages (t.length / pageBytes + 1) t).zipIdx.foldl (fun (a : List Byte × State) e =>
    let d := digest64 (padTo pageBytes e.1)
    match old.find? fun o => leAt o 0 1 == k && leAt o 4 4 == e.2 && o.drop 16 == d with
    | some o => (a.1 ++ o, a.2)
    | none =>
      let s1 := (a.2.ckptRoom 1).putContent 4 e.2 e.1
      (a.1 ++ rootEntry k e.2 s1.lastPpa e.1, s1)) ([], s)

/-- The pages a checkpoint adds (R292): segments of the changed tiles, changed TABLE pages, the root list. Those before the root list may stand in
commits that close before its own. -/
def State.putCheckpoint (s : State) : State :=
  let tiles := sortBy (fun (a b : Nat) => decide (keyMorton a < keyMorton b)) s.map.dirty
  let s1 := tiles.foldl State.putSegment s
  let r := (upTo 4).foldl (fun (a : List Byte × State) k => let t := a.2.putTable k; (a.1 ++ t.1, t.2)) ([], s1)
  let root := cutPages (r.1.length / pageBytes + 1) r.1
  let s2 := ((r.2.ckptRoom root.length).putPages 5 0 root).2
  match s2.map.cur with
  | some c => { s2 with map := { s2.map with root := r.1, dirty := [], sinceCkpt := 0, sincePages := 0, lastSince := s2.map.sincePages
                                             cur := some { c with flags := putBits c.flags 0 0 1, root := r.1, tiles := tiles, tileTab := s2.map.tileTab, content := s2.map.content } } }
  | none => s2
where
  /-- Insertion sort. -/
  sortBy (lt : Nat → Nat → Bool) (l : List Nat) : List Nat := l.foldr (fun x r => ins lt x r) []
  /-- Insertion. -/
  ins (lt : Nat → Nat → Bool) (x : Nat) : List Nat → List Nat
    | [] => [x]
    | y :: r => if lt x y then x :: y :: r else y :: ins lt x r

/-- Is a checkpoint due at the close of the open commit (R292). -/
def State.ckptDue (s : State) : Bool :=
  decide (s.cfgFld R.MAP_CKPT_CFG R.MAP_CKPT_CFG_ckpt_commits ≤ s.map.sinceCkpt + 1) ||
  decide (s.cfgFld R.MAP_CKPT_CFG R.MAP_CKPT_CFG_ckpt_mib * 64 < s.map.sincePages)

/-- The bytes of a payload as its pages hold them (R285), none where a page is gone. -/
def State.payloadBytes (s : State) (p : Payload) : List Byte :=
  ((p.extents.flatMap fun x => (upTo x.2).flatMap fun i =>
    match s.npage (x.1 / 2 ^ 28 + i) with
    | some n => padTo pageBytes n.data
    | none => [])).take p.size

/-- The payloads that can be loaded: their commit is durable (R285). -/
def State.payloadStore (s : State) : List (List Byte × List Byte) :=
  (s.map.content.payloads.filter fun p => decide (p.commit ≤ s.map.head)).map fun p => (p.digest, s.payloadBytes p)

/-- The digests that the network units of the active and the shadow set name: their own and their weights' (R285). -/
def State.namedPayloads (s : State) : List (List Byte) :=
  let ents := (match s.cfg.active with | some i => i.nettab | none => []) ++ (match s.cfg.shadow with | some i => i.nettab | none => [])
  let store := s.payloadStore
  ents.flatMap fun e => e.take 64 :: match store.find? fun p => p.1 == e.take 64 with
    | some p => match parseUnit p.2 e with
      | some u => u.weights.map fun w => w.digest
      | none => []
    | none => []

/-- At a checkpoint the payloads that no unit names are freed with PAYLOAD_FREE records (R285). -/
def State.freePayloads (s : State) : State :=
  let named := s.namedPayloads
  let gone := if s.cfg.staging.isSome then [] else s.map.content.payloads.filter fun p => !named.contains p.digest
  gone.foldl (fun s p =>
    let r : MapRec := { typ := 0x0A, prio := 0, tileX := 0x80000000, tileY := 0x80000000, id := 0, body := p.digest }
    let s1 := if pageBytes < s.map.buf.length + (recBytes r).length then s.flushBuf else s
    { s1 with map := { s1.map with buf := s1.map.buf ++ recBytes r, content := s1.map.content.apply 0 r
                                   cur := s1.map.cur.map fun c => { c with records := c.records + 1 } } }) s

/-- Close the open commit (R290–R292): `ckpt` as a checkpoint, `flags` its other flags. -/
def State.closeCommit (s : State) (ckpt : Bool) (flags : Nat) : State :=
  let s1 := (if ckpt then s.freePayloads else s).flushBuf
  let s2 := if ckpt then s1.putCheckpoint else s1
  let s3 := s2.shutCommit flags
  if ckpt then { s3 with map := { s3.map with sinceCkpt := 0 } } else s3

/-- An event of R290 that closes the open commit, if it holds a record. -/
def State.closeOpen (s : State) : State :=
  match s.map.cur with
  | some c => if c.records = 0 ∧ c.pages = [] then s else s.closeCommit s.ckptDue 0
  | none => s

/-- Records of a kind that a tile may hold (R280). -/
def tileLimit (typ : Nat) : Nat := if typ = 1 then 262144 else if typ = 3 then 4096 else if typ = 5 then 16384 else 2 ^ 32

/-- Does a record belong to a tile's segment. -/
def inTile (r : MapRec) : Bool := decide (1 ≤ r.typ.toNat ∧ r.typ.toNat ≤ 6)

/-- Tiles of a map at most (R279). -/
def maxTiles : Nat := 2 ^ 20

/-- Would a record pass a limit of its tile, or of the map (R279, R280). -/
def State.tileFull (s : State) (r : MapRec) : Bool :=
  let here := fun (x : MapRec) => x.tileX == r.tileX && x.tileY == r.tileY
  let tiles := ((s.map.content.recs.map fun x => (x.tileX, x.tileY)).eraseDups).length
  let mine := s.map.content.recs.filter fun x => x.typ == r.typ && here x
  ((r.typ == 1 || r.typ == 3 || r.typ == 5) && !(s.map.content.recs.any fun x => sameObj r x) && decide (tileLimit r.typ.toNat ≤ mine.length)) ||
    (inTile r && !s.map.content.recs.any here && decide (maxTiles ≤ tiles))

/-- Accept a record into the open commit (R286): it is placed in the page buffer. -/
def State.acceptRec (s : State) (r : MapRec) : State :=
  let s1 := s.openCommit
  let b := recBytes r
  let s2 := if pageBytes < s1.map.buf.length + b.length then s1.flushBuf else s1
  match s2.map.cur with
  | none => s2
  | some c =>
    let c1 := if c.records = 0 then { c with since := s.tb3, ms := s.cfgFld R.MAP_CFG R.MAP_CFG_commit_ms } else c
    let moved := match s2.map.content.corr with
      | some (_, _, l) => (l ++ transformsIn r.body 16 (leAt r.body 8 4)).map fun t => tileKey (BitVec.ofNat 32 (leAt t 0 4)) (BitVec.ofNat 32 (leAt t 4 4))
      | none => if r.typ = 7 then (transformsIn r.body 0x40 (min (leAt r.body 0x18 4) 339)).map fun t => tileKey (BitVec.ofNat 32 (leAt t 0 4)) (BitVec.ofNat 32 (leAt t 4 4)) else []
    let touched := if inTile r then [tileKey r.tileX r.tileY] else if r.typ = 7 ∨ r.typ = 0xC then moved else []
    let s3 : State := { s2 with map := { s2.map with
      cur := some { c1 with records := c.records + 1 }, buf := s2.map.buf ++ b, content := s2.map.content.apply c.id r
      dirty := s2.map.dirty ++ touched.filter fun k => !s2.map.dirty.contains k } }
    let s4 := s3.setFld R.MAP_STATUS R.MAP_STATUS_sealed 0
    match s4.map.cur with
    | some d => if 2000 ≤ d.pages.length + 1 + b2n (decide (s4.map.group ≠ [])) then s4.closeOpen else s4
    | none => s4

/-- A whole page enters the open commit (R286): where it goes. -/
def State.acceptPage (s : State) (typ aux : Nat) (data : List Byte) : Nat × State :=
  let s1 := s.openCommit.putContent typ aux data
  let p := s1.lastPpa
  match s1.map.cur with
  | some d => (p, if 2000 ≤ d.pages.length + 1 + b2n (decide (s1.map.group ≠ [])) then s1.closeOpen else s1)
  | none => (p, s1)

/-- The LANDMARK record of entry `i` (R281): wseq, in_window and map_ref as 0. -/
def State.lmRecord (s : State) (i : Nat) (pr : BitVec 2) : MapRec :=
  let b := s.ldEntry i
  let t := keyTile (leAt b 0x28 8)
  { typ := 1, prio := pr, tileX := t.1, tileY := t.2, id := BitVec.ofNat 32 i
    body := b.take 0x1F ++ leBytes 1 (putBits (leAt b 0x1F 1) 1 1 0) ++ (b.drop 0x20).take 6 ++ leBytes 2 0 ++ (b.drop 0x28).take 8 ++ leBytes 8 0 ++
      b.drop 0x38 }

/-- Write a deferred object once with its value at this time (R304): a directory entry as it stands; of an index page the page goes to the journal
with its INDEX_MAP record. -/
def State.acceptMark (s : State) (r : MapRec) : State :=
  if r.typ = 1 then s.acceptRec (if s.gsol.live.contains r.id.toNat then s.lmRecord r.id.toNat r.prio else r)
  else if r.typ = 8 then
    let l := r.id.toNat
    let a := s.acceptPage 6 l (s.reef.newest.page l)
    let s1 : State := { a.2 with reef := { a.2.reef with slots := (a.2.reef.slots.filter fun e => e.1 != l) ++ [(l, a.1)] } }
    s1.acceptRec { r with body := leBytes 4 l ++ leBytes 4 0 ++ leBytes 8 a.1 }
  else s.acceptRec r

/-- Is a record of priority `p` deferred by the budget (R304). -/
def State.defers (s : State) (p : Nat) : Bool :=
  let b := s.fld R.MAP_STATUS R.MAP_STATUS_budget
  (decide (p = 2) && decide (1 ≤ b)) || (decide (p = 1) && decide (b = 2))

/-- A record of an object's present value is submitted (R280, R286, R295, R304): a mark of the object takes that value, with the more urgent priority
of the two; a record that is accepted leaves no mark of it (log entry 165). -/
def State.submitRec (s : State) (r : MapRec) : State :=
  if s.mapState ≠ 2 then s
  else if s.map.refuse then s.inc R.MAP_PFAIL_LOST
  else if s.tileFull r then s.inc R.MAP_TILE_FULL
  else if s.defers r.prio.toNat then
    if s.map.deferred.any fun x => sameObj x r then
      let into := fun (x : MapRec) => if sameObj x r then { r with prio := if x.prio < r.prio then x.prio else r.prio } else x
      ({ s with map := { s.map with deferred := s.map.deferred.map into } }).inc R.MAP_COALESCED
    else ({ s with map := { s.map with deferred := s.map.deferred ++ [r] } }).inc R.MAP_DEFERRED
  else ({ s with map := { s.map with deferred := s.map.deferred.filter fun x => !sameObj x r } }).acceptRec r

/-- Submit several. -/
def State.submitRecs (s : State) (l : List MapRec) : State := l.foldl State.submitRec s

/-- The budget state follows the credit; marks that the credit allows are written once (R304). -/
def State.budgetRegs (s : State) : State :=
  let b := s.budgetOf
  let s1 := (s.setReg R.MAP_ERASE_CREDIT (twos 32 s.map.credit)).setReg R.MAP_ERASE_DAY s.eDay
  if b = s.fld R.MAP_STATUS R.MAP_STATUS_budget then s1
  else
    let s2 := (s1.setFld R.MAP_STATUS R.MAP_STATUS_budget b).raise 163
    let now := s2.map.deferred.filter fun r => !s2.defers r.prio.toNat
    let s3 : State := { s2 with map := { s2.map with deferred := s2.map.deferred.filter fun r => s2.defers r.prio.toNat } }
    if s3.mapState = 2 ∧ !s3.map.refuse then now.foldl State.acceptMark s3 else { s3 with map := { s3.map with deferred := s3.map.deferred ++ now } }

/-- Seal the map (R294): the open commit, with the deferred records, closes as a checkpoint that carries SEAL. Whether there is
nothing to wait for: nothing was accepted since the last checkpoint, or the store is READ_ONLY (R301). -/
def State.seal (s : State) : Bool × State :=
  if s.mapState ≠ 2 then (true, s)
  else
    let marks := s.map.deferred
    let s1 := marks.foldl State.acceptMark { s with map := { s.map with deferred := [] } }
    let clean := s1.map.cur.isNone && s1.map.flight.isNone && s1.map.wait.isEmpty && s1.map.dirty.isEmpty && decide (s1.map.sinceCkpt = 0)
    if clean then (true, s1)
    else (false, (({ s1.openCommit with map := { s1.openCommit.map with sealWait := true } }).closeCommit true 4))

/-- The map head digest registers (R310). -/
def State.headRegs (s : State) (head : List Byte) : State :=
  (upTo 16).foldl (fun s n => s.setReg (R.MAP_HEAD + 4 * n) (leAt head (4 * n) 4)) s

/-- The commit in flight is durable (R291). -/
def State.commitDurable (s : State) (c : Commit) : State :=
  let page := match c.copies.head? with
    | some p => p.page.data
    | none => []
  let ppa0 := match c.copies.head? with
    | some p => p.ppa
    | none => 0
  let head := (page.drop 0x140).take 64
  let ck := bitOf c.flags 0 && !c.dropped
  let s1 : State := { s with map := { s.map with flight := none, head := c.id, headPage := page, prevHead := head
                                                 ckpt := if ck then c.id else s.map.ckpt, ckptPpa := if ck then ppa0 else s.map.ckptPpa
                                                 durRoot := if ck then c.root else s.map.durRoot
                                                 durTiles := if ck then c.tileTab else s.map.durTiles
                                                 durContent := if ck then c.content else s.map.durContent
                                                 sealWait := if bitOf c.flags 2 && !c.dropped && !(s.map.wait.any fun d => bitOf d.flags 2) then false else s.map.sealWait } }
  let s2 := ((((s1.setReg64 R.MAP_HEAD_COMMIT_LO c.id).headRegs head).inc R.MAP_COMMITS).setReg R.MAP_ERASES (leAt page 0x50 4))
  let s3 := if ck then ((s2.setReg64 R.MAP_CKPT_COMMIT_LO c.id).inc R.MAP_CKPTS) else s2
  let quiet := (match s3.map.cur with | some d => decide (d.records = 0) | none => true) && s3.map.wait.isEmpty
  let s4 := if ck && quiet then s3.setFld R.MAP_STATUS R.MAP_STATUS_sealed 1 else s3
  let s5 := if s4.map.pfailWait then
      (({ s4 with map := { s4.map with pfailWait := false } }).setFld R.MAP_STATUS R.MAP_STATUS_pfail_done 1).raise 162
    else s4
  s5.nextFlight

/-- The read-back of the copies of the commit page (R291): the most corrected bits of a codeword of each, none for a copy that
does not decode. Answers the commit that became durable. -/
def State.readBack (s : State) (r0 r1 : Option Nat) : Option Commit × State :=
  match s.map.geo, s.map.flight with
  | some g, some c =>
    if c.copies ≠ [] ∧ c.copies.all fun p => p.done then
      let margin := s.cfgFld R.MAP_ECC_CFG R.MAP_ECC_CFG_commit_margin
      let ok := fun (r : Option Nat) => match r with
        | some n => decide (n ≤ margin)
        | none => false
      if ok r0 && ok r1 then (some c, s.commitDurable c)
      else
        let redo := fun (a : List CPage × State) (e : CPage × Bool) =>
          if e.2 then (a.1 ++ [e.1], a.2)
          else
            let n := a.2.placeCopy g c.id (blockChan (blockOf (e.1.ppa / 2 ^ 28)) + 1)
            (a.1 ++ [{ n.1 with page := { n.1.page with data := e.1.page.data } }], n.2.inc R.MAP_COMMIT_REWRITE)
        let a := (c.copies.zip [ok r0, ok r1]).foldl redo ([], s)
        (none, { a.2 with map := { a.2.map with flight := some { c with copies := a.1 } } })
    else (none, s)
  | _, _ => (none, s)

/-- The pages of a commit that a checkpoint added. -/
def ckptPage (p : CPage) : Bool := p.page.typ == 2 || p.page.typ == 3 || p.page.typ == 4 || p.page.typ == 5

/-- A checkpoint that PFAIL_N interrupts completes as an ordinary commit (R292). -/
def State.dropCheckpoint (s : State) (c : Commit) : State × Commit :=
  if bitOf c.flags 0 ∧ c.copies = [] then
    let keys := c.tiles
    let reseal := bitOf c.flags 2
    ({ s with map := { s.map with dirty := s.map.dirty ++ keys.filter fun k => !s.map.dirty.contains k
                                  root := s.map.durRoot, tileTab := s.map.durTiles
                                  sinceCkpt := s.map.sinceCkpt + (c.id - s.map.ckpt), sincePages := s.map.sincePages + s.map.lastSince, resealWait := s.map.resealWait || reseal } },
     { c with pages := c.pages.filter fun p => !ckptPage p, flags := putBits (putBits c.flags 0 0 0) 2 2 0, dropped := true })
  else (s, c)

/-- What PFAIL_N does to the map store when it asserts (R295). -/
def State.mapPfail (s : State) : State :=
  let s1 := (s.inc R.MAP_PFAIL).setFld R.MAP_STATUS R.MAP_STATUS_pfail_done 0
  let s2 : State := { s1 with map := { s1.map with refuse := true, holdTo := none } }
  let nothing := fun (s : State) => (s.setFld R.MAP_STATUS R.MAP_STATUS_pfail_done 1).raise 162
  match s2.map.flight, s2.map.cur with
  | some c, o =>
    let lost := match o with
      | some d => d.records
      | none => 0
    let s3 := s2.addTo R.MAP_PFAIL_LOST lost
    let s4 : State := match o with
      | some d => { s3 with map := { s3.map with cur := none, buf := [], group := [], content := s3.map.before, nextId := d.id
                                                 corrs := s3.map.corrs.filter fun x => decide (x.commit ≠ d.id) } }
        |>.noteRefs (d.pages.flatMap fun (p : CPage) => p.page.landmarks.map fun (e : Nat × Nat) => e.1)
      | none => s3
    let d := s4.dropCheckpoint c
    ({ d.1 with map := { d.1.map with pfailWait := true, flight := some { d.2 with flags := if c.copies = [] then d.2.flags ||| 2 else d.2.flags } } }).issueCopies
  | none, some c =>
    if c.records = 0 then nothing s2
    else ({ s2 with map := { s2.map with pfailWait := true } }).closeCommit false 2
  | none, none => nothing s2

/-- PFAIL_N is high again (R290, R295): records are accepted; programs wait for the hold to end. -/
def State.mapPfailRelease (s : State) (t : Nat) : State :=
  { s with map := { s.map with refuse := false, holdTo := some (t + 10000000) } }

/-- The hold has ended (R292, R295). -/
def State.mapHoldEnd (s : State) : State :=
  let s1 : State := { s with map := { s.map with holdTo := none } }
  let s2 := if s1.map.resealWait then
      ({ s1.openCommit with map := { s1.openCommit.map with resealWait := false, sealWait := true } }).closeCommit true 4
    else s1
  s2.nextFlight.issueCopies

end Sys2Proof.Machine
end

