-- ==== Sys2Proof/Machine/Pose.lean ====
section
/-! DEFINITION. The pose record (spec 08 R233–R242): corrections, confidence, integrity, the seal, the snapshot of R226. -/
namespace Sys2Proof.Machine

/-- A covariance element in F16, clamped (R238): the code and whether it was clamped. -/
def covF16 (v : Nat) : Nat × Bool :=
  if f32Lt 0x477FE000 v then (0x7BFF, true) else ((fencode .f16 false (fdecode .f32 v)).1, false)

/-- A quaternion normalised in F32, negated when its w is negative (R238). -/
def normQuat (q : List Word32) : List Nat :=
  let l := q.map fun w => w.toNat
  let n := f32Sqrt (l.foldl (fun a v => f32Add a (f32Mul v v)) 0)
  let u := l.map fun v => f32Div v n
  if f32Lt (nthD 0 u 0) 0 then u.map fun v => v ^^^ 0x80000000 else u

/-- pen of source bit `b` (R242). -/
def State.penalty (s : State) (b : Nat) : Nat :=
  bitsOf (s.cfgReg (R.FUSE_CONF_PEN + 4 * (b / 4))) (8 * (b % 4) + 7) (8 * (b % 4))

/-- The source bits expected and not admitted. -/
def State.missing (s : State) : List Nat :=
  (upTo 28).filter fun b => bitOf (s.cfgReg R.FUSE_EXPECT) b && !s.admitted b

/-- Confidence from the variances of position x and y, F32 (R242). -/
def State.confidence (s : State) (vx vy : Nat) : Nat :=
  let sigma := f32Mul (f32Sqrt (if f32Lt vx vy then vy else vx)) 0x447A0000
  let lo := f32OfInt (s.cfgFld R.FUSE_CONF_SIGMA R.FUSE_CONF_SIGMA_sigma_lo)
  let hi := f32OfInt (s.cfgFld R.FUSE_CONF_SIGMA R.FUSE_CONF_SIGMA_sigma_hi)
  let c := if !f32Lt lo sigma then 0x3F800000
    else if !f32Lt sigma hi then 0
    else f32Sub 0x3F800000 (f32Div (f32Sub sigma lo) (f32Sub hi lo))
  let d := f32Sub c (f32OfRat ((s.missing.foldl (fun a b => a + s.penalty b) 0 : Nat) : Int) 256)
  (fencode .f16 false (fdecode .f32 (if f32Lt d 0 then 0 else d))).1

/-- Has the estimator no solution (R238, R239). -/
def State.noSolution (s : State) : Bool := decide (s.estState ≠ 2)

/-- The integrity flags at boundary `tb` (R239), `corrected` and `clamped` apart. -/
def State.integrity (s : State) (tb : Nat) (corrected clamped : Bool) : Nat :=
  let old := fun (a : Option Int) => match a with
    | some u => decide (u < tb - s.lagNs)
    | none => true
  let exp := s.cfgReg R.FUSE_EXPECT
  let settle := (upTo 24).any fun c => s.chOn c && decide (0 < (s.chan c).settling)
  let hold := s.fld R.TIME_TB_STATUS R.TIME_TB_STATUS_hold_expired == 1
  let l := [s.noSolution, decide (s.estState = 1), decide (s.tbState 0 = 3), hold,
    decide (s.tbState 0 ≤ 1), s.time.tb0Stepped, !s.missing.isEmpty, (upTo 24).any fun b => bitOf exp b && s.sensorSkew b,
    s.primaryImu.isNone, old s.fuse.lastExt, old s.fuse.lastAbs, corrected, s.fuse.fLateApplied, s.fuse.fLateDropped, s.fuse.fNetLate,
    clamped, s.cfg.swapped, s.fuse.fResumed, settle, s.fuse.still, decide (s.dev.state = .degraded), s.fuse.fStale, s.fuse.fWindowOvf]
  (l.zipIdx).foldl (fun a e => a + b2n e.1 * 2 ^ e.2) 0

/-- The fields of a pose record from `seq` on (R237, R238). -/
def State.poseFields (s : State) (seq tOut epoch : Nat) (e : Est) (corrected : Bool) (tb : Nat) : List (Nat × Nat × Nat) :=
  let no := s.noSolution
  let f : List Word32 → Nat → List (Nat × Nat × Nat) := fun l o => (l.zipIdx).map fun w => (o + 4 * w.2, 4, if no then 0 else w.1.toNat)
  let cov := (upTo 6).map fun i => if no then (0, false) else covF16 (nthD (0 : Word32) e.cov i).toNat
  let quat := if no then [0x3F800000, 0, 0, 0] else normQuat e.quat
  let conf := if no then 0 else s.confidence (nthD (0 : Word32) e.cov 0).toNat (nthD (0 : Word32) e.cov 1).toNat
  [(0, 8, seq), (8, 8, tOut)] ++ (e.pos.zipIdx.map fun p => (0x10 + 8 * p.2, 8, if no then 0 else p.1.toNat)) ++
    (quat.zipIdx.map fun q => (0x28 + 4 * q.2, 4, q.1)) ++ f e.vel 0x38 ++ f e.rate 0x44 ++
    (cov.zipIdx.map fun c => (0x50 + 2 * c.2, 2, c.1.1)) ++
    [(0x5C, 4, s.integrity tb corrected (cov.any fun c => c.2)), (0x60, 4, s.fuse.mask), (0x64, 2, conf), (0x68, 4, epoch % 2 ^ 32),
     (0x6C, 4, s.reg R.FUSE_MAP_GEN)]

/-- Estimator data under a transform (R233, 09 R265): the position and the attitude move, velocity and angular rate are rotated. -/
def Est.moved (e : Est) (tr : List Byte) : Est :=
  let turn := fun (v : List Word32) => ((txQuat tr).rot (V3.of (v.map fun w => w.toNat))).list.map (BitVec.ofNat 32)
  { e with pos := txMove tr (e.pos.map fun p => p.toInt)
           quat := (txTurn tr (Quat.of (e.quat.map fun w => w.toNat))).list.map (BitVec.ofNat 32)
           vel := turn e.vel, rate := turn e.rate, cov := Config.moveCov e.cov tr }

/-- The root of a squared distance in units of 2^−28 m, in mm, to the nearest, saturating (log entry 47). -/
def mmOf (d2 : Nat) : Nat := min ((isqrt (4 * d2 * 1000000) / 2 ^ 28 + 1) / 2) 0xFFFFFFFF

/-- Squared distance of two positions in TQ64. -/
def dist2 (a b : List Word64) : Nat :=
  (upTo 3).foldl (fun n i => let d := ((nthD 0 a i).toInt - (nthD 0 b i).toInt).natAbs; n + d * d) 0

/-- A published correction takes effect at an output boundary (R233). -/
def State.applyCorrection (s : State) (c : Correction) : State :=
  let tl := tileOf s.fuse.est.pos
  let s1 := s.setReg R.FUSE_MAP_GEN c.gen
  match transformOf c.tiles tl.1 tl.2 with
  | none => s1.setReg R.FUSE_CORR_LAST 0
  | some tr =>
    let m := fun (x : Int × Est) => (x.1, x.2.moved tr)
    let e := s1.fuse.est.moved tr
    ({ s1 with fuse := { s1.fuse with
        est := e, past := s1.fuse.past.map m, nodes := s1.fuse.nodes.map m, result := s1.fuse.result.map m
        pass := s1.fuse.pass.map fun (p : Pass) => { p with est := p.est.moved tr, nodes := p.nodes.map m }
        frozen := s1.fuse.frozen.map fun (f : Frozen) => { f with est := f.est.moved tr, past := f.past.map m } } }).setReg R.FUSE_CORR_LAST (mmOf (dist2 e.pos s1.fuse.est.pos))

/-- The estimator as a boundary's seal sees it (R234 step 2): as it was at the end of the wait. -/
def State.atWaitEnd (s : State) : State :=
  match s.fuse.frozen with
  | some f => { s with fuse := { s.fuse with mask := f.mask, now := f.now, est := f.est, past := f.past, held := f.held } }
  | none => s

/-- The state at boundary `tb` (R234 step 3): from the filter's newest state at or before it, with the held items up to it. -/
def State.atBoundary (s : State) (tb : Nat) : Est :=
  if s.fuse.now ≤ tb then
    let x := ({ est := s.fuse.est, at_ := s.fuse.now, st := s } : Applied).run (inOrder (s.fuse.held.filter fun i => decide (i.t ≤ tb)))
    propagated s.cal x.est (s.motionAt x.at_) x.at_ tb
  else
    match s.fuse.past.find? (fun (x : Int × Est) => decide (x.1 ≤ (tb : Int))) with
    | some x => propagated s.cal x.2 (s.motionAt x.1) x.1 tb
    | none => s.fuse.est

/-- What a new keyframe needs of a sealed record (09 R260). -/
structure PoseOut where
  pos : List Word64
  quat : List Word32
  t : Nat
  gen : Nat
  cov : List (BitVec 16)
  mask : Nat
  tb : Nat                        -- TB3 of its boundary

/-- Does the estimator seal records in this device state (R236). -/
def State.sealsNow (s : State) : Bool :=
  !s.dev.estStopped && (s.running || decide (s.dev.state = .watch) || decide (s.dev.state = .safe))

/-- Seal the record of the boundary that waits, at TB3 instant `t` (R234–R239, R244); the record, if it has a solution. -/
def State.sealPose (s : State) (t : Nat) : Option PoseOut × State :=
  match s.fuse.boundary with
  | none => (none, s)
  | some (epoch, tb) =>
    if !s.sealsNow then (none, { s with fuse := { s.fuse with boundary := none, frozen := none } })
    else if t < s.waitEnd tb then (none, s)
    else
      let due := s.fuse.corrs.filter fun c => decide (c.at_ < s.waitEnd tb)
      let s1 := due.foldl State.applyCorrection { s with fuse := { s.fuse with corrs := s.fuse.corrs.filter fun c => !decide (c.at_ < s.waitEnd tb) } }
      let s0 := s1.atWaitEnd
      let e := if s1.noSolution then s1.fuse.est else s0.atBoundary tb
      let tOut := (s1.toBase 0 tb).toNat
      let fields := s0.poseFields (s1.ringSeq 0) tOut epoch e (!due.isEmpty) tb
      let s2 := (s1.ringWrite 0 128 (fields.drop 1) (some 96)).incWrap R.FUSE_RECORDS
      let us := satU 8 ((t - tb) / 1000)
      let s3 := ((s2.setReg R.FUSE_SEAL_LAST us).setReg R.FUSE_SEAL_MAX (max us (s2.reg R.FUSE_SEAL_MAX))).setReg R.FUSE_MASK s0.fuse.mask
      let s4 := if 150000 < t - tb then (s3.inc R.FUSE_SEAL_OVERRUNS).raise 100 else s3
      let s5 := match s4.dev.tWake with
        | some w => (s4.setReg R.HOST_FIRST_POSE_US (satU 32 ((t - w) / 1000)))
        | none => s4
      let s6 : State := { s5 with
        dev := { s5.dev with tWake := none, tele := SMap.update (fun _ => 0) s5.dev.tele 1 (fun m => max m ((t - tb) / 1000)) }
        time := { s5.time with tb0Stepped := false }
        cfg := { s5.cfg with swapped := false }
        fuse := { s5.fuse with
          boundary := none, frozen := none, lastOut := some tb, fLateApplied := s5.fuse.fLateNext, fLateNext := false
          fLateDropped := false, fNetLate := false
          fWindowOvf := false, fResumed := false, fStale := false } }
      (if s1.noSolution then none else
        some { pos := e.pos, quat := (normQuat e.quat).map fun v => BitVec.ofNat 32 v, t := tOut, gen := s1.reg R.FUSE_MAP_GEN
               cov := (upTo 6).map fun i => BitVec.ofNat 16 (covF16 (nthD (0 : Word32) e.cov i).toNat).1, mask := s0.fuse.mask, tb := tb }, s6)

/-- Write the snapshot of R226 for instant `t`: the latest smoother result propagated to it through the buffered samples. Its seq is a free
value. -/
def State.writeSnapshot (s : State) (t : Int) : State :=
  let x := match s.fuse.result with
    | some r => r
    | none => (s.fuse.now, s.fuse.est)
  let e := if s.noSolution then x.2 else (s.through x.2 x.1 t).1
  let fields := s.poseFields (s.free.toNat) (s.toBase 0 t).toNat s.dev.epoch e false t.toNat
  s.tick.store (placedAddr s.fuse.snapObj) (record 128 fields)

end Sys2Proof.Machine
end

