-- ==== Sys2Proof/Machine/Bind.lean ====
section
/-! DEFINITION. Triggers and what they bind (spec 04 R98, R99, R106, R107): a trigger that occurs leaves a release that is
due in its unit's slot, with its instant and its inputs; INVOCATION_RELEASE takes it. -/
namespace Sys2Proof.Machine

/-- An event of R106: its code, the slot and invocation of a UNIT_DONE, the result index or the keyframe id. -/
structure Event where
  code : Nat
  slot : Nat := 0
  seq : Nat := 0
  aux : Nat := 0

/-- A tag word, 0 for an object that there is not. -/
def State.tagOr0 (s : State) (id : Nat) : Nat := if id = 0 then 0 else s.objTag id

/-- A delivered frame as a release binds it. -/
def State.camFrame (s : State) (n : Nat) (d : DoneFrame) : CamFrame :=
  { port := n, seq := d.seq, t := d.t, tags := [d.slot.pyr, d.slot.feats, d.slot.tracks, d.slot.depth, d.slot.assoc].map s.tagOr0 }

/-- The pairs whose reference port is in a mask, ascending. -/
def State.maskPairs (s : State) (mask : Nat) : List Nat :=
  (upTo 8).filter fun p => decide (s.pairCfg p R.SHORE_PAIR_CFG_enable = 1) && bitOf mask (s.pairRef p)

/-- The tag of pair `p`'s map for the reference frame among `frames`, 0 for a map not written. -/
def State.mapTag (s : State) (frames : List CamFrame) (p : Nat) : Nat :=
  match frames.find? fun f => f.port == s.pairRef p with
  | none => 0
  | some f =>
    match (s.spair p).matched.find? fun m => m.1 == f.seq with
    | some m => s.objTag m.2.1
    | none => 0

/-- Output `k` of the unit in slot `n` for its invocation `seq`. -/
def State.outputTag (s : State) (n k seq : Nat) : Nat :=
  match (s.nslot n).unit with
  | some x =>
    match (x.outObjs seq)[k]? with
    | some id => s.objTag id
    | none => 0
  | none => 0

/-- The tags and the aux of an input entry (R98, R99). -/
def State.bindEntry (s : State) (e : IoEnt) (mask : Nat) (frames : List CamFrame) (ev : Event) : List Nat × Nat :=
  let col := fun (k : Nat) => frames.map fun f => nthD 0 f.tags k
  match e.source with
  | 0x01 => (col 0, 0)
  | 0x02 => (col 1, 0)
  | 0x03 => (col 2, 0)
  | 0x04 => (col 3, 0)
  | 0x05 => ((s.maskPairs mask).map (s.mapTag frames), 0)
  | 0x06 => (col 4, 0)
  | 0x07 => ([s.objTag s.fuse.snapObj], 0)
  | 0x08 => ([s.outputTag (bitsOf e.param 12 8) (e.param % 16) ev.seq], 0)
  | 0x09 => ([s.objTag (s.gsol.subObj + (s.gsol.subNext + 3) % 4 * (s.gsol.subStep))], 0)
  | 0x0A => ([s.objTag s.reef.ringObj], ev.aux)
  | 0x0B => (frames.map fun f => nthD 0 f.tags 0, ev.aux)
  | 0x0C => ((upTo 256).map fun i => s.objTag (s.gsol.ldBase + 256 * i), 0)
  | _ => ([], 0)

/-- The latest recorded frame of every enabled port, ascending: the frames that make a keyframe. -/
def State.keyFrames (s : State) : List CamFrame :=
  (upTo 16).filterMap fun n => if s.pcfg n R.SHORE_PORT_CFG_enable = 1 then (s.sport n).prev.map (s.camFrame n) else none

/-- Are invocations of the unit in slot `n` released in this device state: every unit's in RUN, DEGRADED and TEST, the fusion
network's in SAFE and WATCH (12 R355, R356, 16 R426). -/
def State.unitRuns (s : State) (n : Nat) : Bool :=
  !s.dev.halting &&
  (s.running || decide (s.dev.state = .test) ||
    ((decide (s.dev.state = .safe) || decide (s.dev.state = .watch)) && s.fuseNamed && decide (s.fuseSlot = n)))

/-- A trigger of the unit in slot `n` has occurred at TB3 instant `t` (R106). -/
def State.trigger (s : State) (n t mask : Nat) (partialIn : Bool) (frames : List CamFrame) (ev : Event) : State :=
  let u := s.nslot n
  match u.unit with
  | none => s
  | some x =>
    if s.unitRuns n ∧ (s.unitState n = 2 ∨ s.unitState n = 3) then
      let b := (x.ios.filter fun e => !e.isOut).map fun e => s.bindEntry e x.trigArg frames ev
      let r := s.releaseAt t mask partialIn (b.map fun p => p.1.map fun v => BitVec.ofNat 64 v) (b.map fun p => p.2)
      s.setNslot n { u with due := u.due ++ [{ r with ev := ev.aux }] }
    else s

/-- Occupied slots. -/
def State.slotsUsed (s : State) : List Nat := s.units.map fun e => e.1

/-- An event occurs (R106). -/
def State.event (s : State) (t : Nat) (ev : Event) : State :=
  s.slotsUsed.foldl (fun s n =>
    match (s.nslot n).unit with
    | some x =>
      let arg := bitsOf x.trigArg 15 8
      if x.trigKind = 2 ∧ x.trigArg % 256 = ev.code ∧ (ev.code ≠ 1 ∨ arg = ev.slot) then
        s.trigger n t 0 false (if ev.code = 3 then s.keyFrames else []) ev
      else s
    | none => s) s

/-- The EPOCH_COUNT triggers of the boundary of epoch `e` (R106). -/
def State.epochTriggers (s : State) (e t : Nat) : State :=
  s.slotsUsed.foldl (fun s n =>
    match (s.nslot n).unit with
    | some x => if x.trigKind = 1 ∧ e % (x.trigArg % 2 ^ 16) = x.trigArg / 2 ^ 16 then s.trigger n t 0 false [] { code := 0 } else s
    | none => s) s

/-- The PLACE_RESULT events of solver results written since the last time (R106, 11 R321). -/
def State.placeEvents (s : State) (t : Nat) : State :=
  let l := s.reef.fresh
  l.foldl (fun s k => s.event t { code := 2, aux := k }) { s with reef := { s.reef with fresh := [] } }

/-- A gathered set releases the unit in slot `n` (R106, R107, 08 R226). -/
def State.releaseSet (s : State) (n t : Nat) (c : CamSet) (partialIn : Bool) : State :=
  let u := s.nslot n
  let frames := sortBy (fun (a b : CamFrame) => decide (a.port < b.port)) c.frames
  let s1 := s.setNslot n { u with camDone := match c.pulse with | some k => some k | none => u.camDone }
  let snap := match u.unit with
    | some x => x.ios.any fun e => !e.isOut && e.source == 7
    | none => false
  let s2 := match snap, frames with
    | true, f :: _ => s1.writeSnapshot f.t
    | _, _ => s1
  s2.trigger n t (frames.foldl (fun m f => m + 2 ^ f.port) 0) partialIn frames { code := 0 }

/-- The FSYNC_OUT pulse that a frame was exposed on. -/
def DoneFrame.pulseKey (d : DoneFrame) : Option (Nat × Nat) := d.pulse.map fun p => (d.cfg.fsync, p)

/-- A frame of port `p` is delivered to the CAMERA_FRAME unit in slot `n` (R106). -/
def State.deliverTo (s : State) (n p : Nat) (d : DoneFrame) (t : Nat) : State :=
  let u := s.nslot n
  match u.unit with
  | none => s
  | some x =>
    let k := d.pulseKey
    if k.isSome ∧ u.camDone = k then s
    else
      let f := s.camFrame p d
      let fits := fun (c : CamSet) => decide (c.pulse = k) && !c.frames.any fun g => g.port == p
      let c := match u.camSets.find? fits with
        | some c => { c with frames := c.frames ++ [f] }
        | none => { pulse := k, since := t, frames := [f] }
      let old := u.camSets.filter fun b => decide (some b ≠ u.camSets.find? fits)
      let full := (upTo 16).all fun q => !bitOf x.trigArg q || c.frames.any fun g => g.port == q
      if full then (s.setNslot n { u with camSets := old }).releaseSet n t c false
      else s.setNslot n { u with camSets := old ++ [c] }

/-- Does the unit in a slot take frames of port `p` at this point of their production: 0 the frame record, 1 the depth header, 2
the association object (R106, 08 R225; log entry 62). -/
def State.takesFrame (s : State) (n p stage : Nat) : Bool :=
  match (s.nslot n).unit with
  | some x =>
    x.trigKind == 0 && bitOf x.trigArg p &&
    (if s.fuseNamed ∧ s.fuseSlot = n then stage == 2
     else if s.inCamMask p && x.ios.any (fun e => !e.isOut && e.source == 4) then stage == 1
     else stage == 0)
  | none => false

/-- A frame of port `p` has reached a stage: the units that wait for it take it. -/
def State.deliverFrame (s : State) (p stage : Nat) (d : DoneFrame) (t : Nat) : State :=
  (s.slotsUsed.filter fun n => s.takesFrame n p stage).foldl (fun s n => s.deliverTo n p d t) s

/-- 2 ms after the first camera of a mask has delivered its frame (R107): the oldest such set of slot `n` is released. -/
def State.partialTimeout (s : State) (n t : Nat) : State :=
  let u := s.nslot n
  match u.camSets with
  | [] => s
  | c :: r => if c.since + 2000000 ≤ t then (s.setNslot n { u with camSets := r }).releaseSet n t c true else s

/-- The oldest release that is due in slot `n` takes place (R108). -/
def State.takeRelease (s : State) (n : Nat) : State :=
  let u := s.nslot n
  match u.due with
  | [] => s
  | r :: rest =>
    let s1 := s.setNslot n { u with due := rest }
    if s.unitRuns n then s1.release n r else s1

end Sys2Proof.Machine
end

