-- ==== Sys2Proof/Machine/ChainPort.lean ====
section
/-! DEFINITION. The receiving side of a Causeway port, training and retraining, and the enumeration of the chain (spec 13 R374–R382). -/
namespace Sys2Proof.Machine

/-- Width code of CHAIN_PORT_STATUS_p for the lanes that passed (R374): 3 four lanes, 2 two, 1 one, 0 none. -/
def laneWidth (l : Nat) : Nat :=
  if l % 16 = 15 then 3 else if l % 4 = 3 ∨ l / 4 % 4 = 3 then 2 else if l % 16 = 0 then 0 else 1

/-- link_width follows the links that are up (R374, R384). -/
def State.linkWidth (s : State) : State :=
  let narrow := [0, 1].any fun p => s.portState p == 2 && decide (s.fld (R.CHAIN_PORT_STATUS + 4 * p) R.CHAIN_PORT_STATUS_width < 3)
  let pcie := s.fld R.HOST_LINK_STATUS R.HOST_LINK_STATUS_link_up == 1 && decide (s.fld R.HOST_LINK_STATUS R.HOST_LINK_STATUS_width < 8)
  s.setCause R.GLB_DEGRADED_link_width (narrow || pcie)

/-- Port `p` takes a state, a width and good lanes; a change of state or width raises CHAIN_LINK (R389). -/
def State.setPort (s : State) (p st lanes : Nat) : State :=
  let v := lanes % 16 * 2 ^ 12 + (if st = 2 then laneWidth lanes else 0) * 2 ^ 8 + st
  let o := R.CHAIN_PORT_STATUS + 4 * p
  let s1 := (s.setReg o v).linkWidth
  if s.reg o % 2 ^ 10 = v % 2 ^ 10 then s1 else s1.raise 224

/-- Port `p` retrains (R375). -/
def State.retrain (s : State) (p : Nat) : State := (s.setPort p 3 0).inc (R.CHAIN_RETRAIN + 0x20 * p)

/-- Take acknowledged frames out of the replay store (R375). -/
def dropAcked (ack : Nat) (l : List (LFrame × Nat)) : List (LFrame × Nat) :=
  match l.findIdx? fun e => e.1.fseq == ack with
  | some i => l.drop (i + 1)
  | none => l

/-- Send the frames held for replay again. -/
def State.resend (s : State) (p : Nat) : State := (s.cport p).replay.foldl (fun s e => s.emit (.frame p e.1)) s

/-- A NAK that names the last frame received in order (R375): the frames after it are replayed; the eighth replay of one retrains. -/
def State.nak (s : State) (p ack : Nat) : State :=
  if s.portState p ≠ 2 then s
  else
    let c := s.cport p
    let again := (dropAcked ack c.replay).map fun e => (e.1, e.2 + 1)
    let s1 := s.setCport p { c with replay := again }
    let s1 := if again.isEmpty then s1 else s1.inc (R.CHAIN_REPLAY + 0x20 * p)
    if again.any fun e => decide (8 ≤ e.2) then s1.retrain p else s1.resend p

/-- Credits come back to the channels of port `p` (R376): what waits goes. -/
def State.addCredits (s : State) (p : Nat) (n : List Nat) : State :=
  if s.portState p ≠ 2 then s
  else
    let c := s.cport p
    let most := [32, 256, 256]
    let sum := (upTo 3).map fun v => min (nthD 0 c.credits v + nthD 0 n v) (nthD 0 most v)
    (s.setCport p { c with credits := sum }).drain p

/-- A CREDIT frame returns the frames freed since the last one (R376), as three 16-bit counts (log entry 76). -/
def State.returnCredits (s : State) (p : Nat) : State :=
  let c := s.cport p
  if s.portUp p ∧ c.freed.any fun n => decide (n ≠ 0) then
    (s.setCport p { c with freed := [0, 0, 0] }).sendCtl p 4 ((c.rxSeq + 4095) % 4096) 0 (c.freed.flatMap fun n => leBytes 2 n)
  else s

/-- A DATA frame received in order: its data joins its channel's message; a whole message is queued for the unit (R375, R376). -/
def State.takeData (s : State) (p vc : Nat) (last : Bool) (data : List Byte) : State :=
  let c := s.cport p
  let whole := nthD [] c.part vc ++ data
  let n := nthD 0 c.freed vc + 1
  let s1 := s.setCport p { c with rxSeq := (c.rxSeq + 1) % 4096, part := setAt c.part vc (if last then [] else whole), freed := setAt c.freed vc n }
  let s2 := if last then { s1 with chain := { s1.chain with rxq := s1.chain.rxq ++ [(p, Msg.ofBytes whole)] } } else s1
  let s3 := s2.sendCtl p 2 c.rxSeq 0 []
  if 64 ≤ n then s3.returnCredits p else s3

/-- A link frame of 264 bytes arrives on port `p` (R375). -/
def State.frameRx (s : State) (p : Nat) (b : List Byte) : State :=
  if !s.portUp p then s
  else
    let c := s.cport p
    let h := leAt b 0 2
    let g := leAt b 2 2
    let typ := h / 4096
    let bad := b.length != 264 || leAt b 260 4 != crc32c (b.take 260) || (typ == 1 && h % 4096 != c.rxSeq)
    if bad then (s.inc (R.CHAIN_CRC_ERR + 0x20 * p)).sendCtl p 3 ((c.rxSeq + 4095) % 4096) 0 []
    else
      let s1 := s.setCport p { c with replay := dropAcked (g % 4096) c.replay }
      if typ = 1 then s1.takeData p (g / 4096 % 4 % 3) (bitOf g 14) ((b.drop 4).take 256)
      else if typ = 3 then s1.nak p (g % 4096)
      else if typ = 4 then s1.addCredits p ((upTo 3).map fun v => leAt b (4 + 2 * v) 2)
      else s1

/-- Loss of lock on port `p` (R375). -/
def State.lockLost (s : State) (p : Nat) : State := if s.portState p = 2 then s.retrain p else s

/-- What a port held when it fails goes as R377 says: own requests and others' requests are answered by `unroutable`, the rest is
counted. The waiting messages are taken out here and queued as received ones that cannot leave. -/
def State.failPort (s : State) (p : Nat) : State :=
  let c := s.cport p
  let s1 := (s.setCport p { fails := c.fails }).setPort p 4 0
  { s1 with chain := { s1.chain with rxq := s1.chain.rxq ++ c.wait.map fun m => (2, m) } }

/-- A training or a retrain of port `p` ends with the lanes that passed (R374, R375, R377). -/
def State.trainEnd (s : State) (p lanes : Nat) : State :=
  let st := s.portState p
  let c := s.cport p
  if st = 1 ∨ st = 3 then
    if laneWidth lanes = 0 then
      let n := c.fails + 1
      let s1 := s.setCport p { c with fails := n }
      if st = 1 ∨ 3 ≤ n then s1.failPort p else s1.retrain p
    else (((s.setCport p { c with fails := 0 }).resend p).setPort p 2 lanes).drain p
  else s

/-- A FAILED port tries training again (R377). -/
def State.retryPort (s : State) (p : Nat) : State := if s.portState p = 4 then s.setPort p 1 0 else s

/-- LOAD is entered (13 R365): the slots that the network table names are LOADING until their units are loaded or refused (04 R127). -/
def State.enterLoad (s : State) : State :=
  let net := match s.cfg.active with
    | some i => i.nettab
    | none => []
  (net.filter fun e => decide (leAt e 0x40 1 < 32)).foldl (fun (s : State) e =>
    s.setFld (R.NET_UNIT_STATE + 0x40 * leAt e 0x40 1) R.NET_UNIT_STATE_state 1) (s.enter .load)

/-- A unit leaves ENUM (R378): its count, its state; LOAD follows, or RECOVER goes on (R373). -/
def State.leaveEnum (s : State) (count st : Nat) : State :=
  let s1 := (s.setFld R.CHAIN_STATUS R.CHAIN_STATUS_count count).setFld R.CHAIN_STATUS R.CHAIN_STATUS_state st
  let s2 := ({ s1 with chain := { s1.chain with stage := .idle, readySent := none, readyDown := false } }).raise 225
  match s2.dev.state with
  | .enum => if s2.pwr.pfailLow ∨ s2.map.holdTo.isSome then { s2 with dev := { s2.dev with pfailHeld := true } } else s2.enterLoad
  | .recover => { s2 with dev := { s2.dev with recoverStep := 6 } }
  | _ => s2

/-- A stage of R378 begins at `t`. -/
def State.stage (s : State) (x : EnumStage) (t : Nat) : State := { s with chain := { s.chain with stage := x, stageSince := t } }

/-- Is the CHAIN_HEAD strap high. -/
def State.isHead (s : State) : Bool := s.fld R.CHAIN_STATUS R.CHAIN_STATUS_head == 1

/-- READY goes up once the UP port is UP (R378 step 1). -/
def State.sendReady (s : State) (t : Nat) : State :=
  if s.portUp 0 then { s.sendCtrl 0 4 0 with chain := { (s.sendCtrl 0 4 0).chain with readySent := some (s.chain.readySent.getD t) } } else s

/-- The unit enters ENUM at `t` (R378 steps 1 and 2). -/
def State.enumStart (s : State) (t : Nat) : State :=
  let s1 := (s.setFld R.CHAIN_STATUS R.CHAIN_STATUS_state 1).setFld R.CHAIN_STATUS R.CHAIN_STATUS_address 0
  let s2 : State := { s1 with chain := { s1.chain with readySent := none, readyDown := false, remote := [] } }
  if s2.isHead then (if s2.portUp 1 then s2.stage .headWait t else s2.leaveEnum 1 2)
  else (s2.stage .waitEnum t).sendReady t

/-- ENUM goes down (R378 steps 2 and 4). -/
def State.sendEnum (s : State) (t : Nat) : State := (s.sendCtrl 1 1 (s.ownAddr + 1)).stage .waitEnd t

/-- ENUM_END goes up with the unit's own address + 1; of the head it is the count (R378 steps 4 and 5). -/
def State.closeChain (s : State) (t : Nat) : State :=
  if s.isHead then (s.sendCtrl 1 3 1).leaveEnum 1 2 else (s.sendCtrl 0 2 (s.ownAddr + 1)).stage .waitCommit t

/-- A READY arrives (R378). -/
def State.onReady (s : State) (p t : Nat) : State :=
  if p ≠ 1 ∨ s.chain.stage = .idle then s
  else
    let s1 : State := { s with chain := { s.chain with readyDown := true } }
    if s1.chain.stage = .headWait ∨ s1.chain.stage = .waitReady then s1.sendEnum t else s1

/-- READY again, once per millisecond until ENUM arrives (R378). -/
def State.readyAgain (s : State) (t : Nat) : State :=
  if s.chain.stage = .waitEnum ∧ !s.isHead then s.sendReady t else s

/-- An ENUM with a value arrives (R378, R379). -/
def State.onEnum (s : State) (p v t : Nat) : State :=
  if p = 0 ∧ s.chain.stage = .waitEnum ∧ !s.isHead then
    let s1 := s.setFld R.CHAIN_STATUS R.CHAIN_STATUS_address (v % 16)
    if s1.portUp 1 ∧ v < 15 then (if s1.chain.readyDown then s1.sendEnum t else s1.stage .waitReady t)
    else s1.closeChain t
  else s.inc R.CHAIN_ENUM_IGNORED

/-- An ENUM_END with a value arrives (R378 step 5). -/
def State.onEnumEnd (s : State) (p v t : Nat) : State :=
  if p ≠ 1 then s
  else if s.isHead then (if s.chain.stage = .waitEnd then (s.sendCtrl 1 3 v).leaveEnum v 2 else s)
  else if s.chain.stage = .waitEnd ∨ s.chain.stage = .waitCommit then (s.sendCtrl 0 2 v).stage .waitCommit t
  else s

/-- An ENUM_COMMIT with the count arrives (R378 step 5). -/
def State.onEnumCommit (s : State) (p v : Nat) : State :=
  if p = 0 ∧ !s.isHead ∧ (s.chain.stage = .waitCommit ∨ s.chain.stage = .waitEnd) then
    (if s.portUp 1 then s.sendCtrl 1 3 v else s).leaveEnum v 2
  else s

/-- enum_tmo_ms has passed in a stage that waits for READY or ENUM (R378, R379); 100 ms have passed in the wait for the other units of
a re-enumeration (R380). -/
def State.enumTimeout (s : State) (t : Nat) : State :=
  let tmo := s.cfgFld R.CHAIN_CFG R.CHAIN_CFG_enum_tmo_ms * 1000000
  let c := s.chain
  match c.stage with
  | .headWait => if c.stageSince + tmo ≤ t then s.leaveEnum 1 2 else s
  | .waitReady => if c.stageSince + tmo ≤ t then s.closeChain t else s
  | .waitEnum =>
    let base := match c.readySent with
      | some r => some r
      | none => if s.portUp 0 then none else some c.stageSince
    match base with
    | some b => if b + tmo ≤ t then (s.setFld R.CHAIN_STATUS R.CHAIN_STATUS_address 0).leaveEnum 1 3 else s
    | none => s
  | .idle => if c.remote ≠ [] ∧ c.stageSince + 100000000 ≤ t then s.enumStart t else s
  | _ => s

/-- No ENUM_END within 10 ms of forwarding ENUM (R378 step 4). -/
def State.enumEndTimeout (s : State) (t : Nat) : State :=
  if s.chain.stage = .waitEnd ∧ s.chain.stageSince + 10000000 ≤ t then s.closeChain t else s

/-- A CTRL message arrives on port `p` (R378): its subtype and value. -/
def State.onCtrl (s : State) (p : Nat) (m : Msg) (t : Nat) : State :=
  let v := leAt m.payload 1 1
  match leAt m.payload 0 1 with
  | 1 => s.onEnum p v t
  | 2 => s.onEnumEnd p v t
  | 3 => s.onEnumCommit p v
  | 4 => s.onReady p t
  | _ => s

end Sys2Proof.Machine
end

