-- ==== Sys2Proof/Machine/Bank.lean ====
section
/-! DEFINITION. The command banks (spec 12 R349–R352): status, final completion. -/
namespace Sys2Proof.Machine

/-- The bank of a master. -/
def State.bank (s : State) : Master → Bank
  | .chain => s.dev.chain
  | .host => s.dev.host

/-- The state with it replaced. -/
def State.setBank (s : State) (m : Master) (b : Bank) : State :=
  match m with
  | .chain => { s with dev := { s.dev with chain := b } }
  | .host => { s with dev := { s.dev with host := b } }

/-- GLB_CMD_STATUS (R362). -/
def statusWord (token op : Nat) (pending : Bool) (st : CStatus) : Word32 :=
  BitVec.ofNat 32 (token % 256 * 2 ^ 24 + op % 256 * 2 ^ 16 + b2n pending * 2 ^ 8 + st.code)

/-- A bank reports a status for a command. -/
def State.setStatus (s : State) (m : Master) (c : Cmd) (pending : Bool) (st : CStatus) : State :=
  if c.hidden then s else s.setBank m { s.bank m with status := statusWord c.token c.op pending st }

/-- What a final completion leaves outside the bank: the EVENT entry and the bank's source (R360, 15 R410). -/
def State.completionEvent (s : State) (m : Master) (c : Cmd) (st : CStatus) : State :=
  let s1 := s.eventEntry 1 (match m with | .chain => 1 | .host => 2) c.op st.code c.token
  s1.raise (match m with | .chain => 1 | .host => 0)

/-- The counts of completions (R364). -/
def State.countCompletion (s : State) (st : CStatus) : State :=
  match st with
  | .wrongState => s.inc R.GLB_CMD_REJECTS
  | .conflictLost => s.inc R.GLB_CMD_CONFLICTS
  | _ => s

/-- A bank's command completes (R352): the bank is free. -/
def State.completeBank (s : State) (m : Master) (st : CStatus) : State :=
  match (s.bank m).cmd with
  | none => s
  | some c =>
    let s1 := (s.countCompletion st).setStatus m c false st
    (s1.setBank m { s1.bank m with cmd := none }).completionEvent m c st

/-- The command that master `m` executes completes, for the host with it when it reports the chain's identical command (R353);
its job ends. -/
def State.finishCmd (s : State) (m : Master) (st : CStatus) : State :=
  let s1 : State := { s with dev := { s.dev with jobs := s.dev.jobs.filter fun j => decide (j.1 ≠ m) } }
  let s2 := s1.completeBank m st
  match m, s2.dev.host.cmd with
  | .chain, some c => if c.merged then s2.completeBank .host st else s2
  | _, _ => s2

end Sys2Proof.Machine
end

