-- ==== Sys2Proof/Machine/Flash.lean ====
section
/-! DEFINITION. The flash of the map store (spec 10): program, erase and read completions, wear, reclamation, patrol, mount and
format. -/
namespace Sys2Proof.Machine

/-- Change the pages of every commit that is not durable. -/
def State.mapPages (s : State) (f : CPage → CPage) : State :=
  let g := fun (c : Commit) => { c with pages := c.pages.map f, copies := c.copies.map f }
  { s with map := { s.map with cur := s.map.cur.map g, flight := s.map.flight.map g, wait := s.map.wait.map g } }

/-- The commit, not yet durable, that a page being programmed belongs to. -/
def State.programming (s : State) (p : Nat) : Option (Commit × CPage) :=
  let l := (match s.map.cur with | some c => [c] | none => []) ++ (match s.map.flight with | some c => [c] | none => []) ++ s.map.wait
  l.findSome? fun c => ((c.pages ++ c.copies).find? fun x => decide (x.ppa = p * 2 ^ 28) && !x.done).map fun x => (c, x)

/-- PAD pages that fill a word line after its first page (R291). -/
def State.putPads (s : State) (p : Nat) (page : NPage) (n : Nat) : State :=
  (upTo n).foldl (fun s i => s.setNpage (p + 1 + i)
    (some { typ := 0x0A, pool := page.pool, seq := page.seq + 1 + i, commit := page.commit, mapId := page.mapId, data := padRec pageBytes })) s

/-- The open commit closes unless `n` pages more fit its page list with their parity (R282, R290). -/
def State.roomInCommit (s : State) (n : Nat) : State :=
  match s.map.cur with
  | some c => if 2000 < c.pages.length + n + n / 15 + 3 then s.closeOpen else s
  | none => s

/-- Submit the records of a payload (R281, R282), into one commit: digest, size, extents. -/
def State.submitPayload (s : State) (d : List Byte) (size : Nat) (ext : List (Nat × Nat)) : State :=
  let enc := fun (l : List (Nat × Nat)) => l.flatMap fun t => leBytes 8 t.1 ++ leBytes 4 t.2 ++ leBytes 4 0
  let mk := fun (typ : BitVec 8) (body : List Byte) =>
    ({ typ := typ, prio := 0, tileX := 0x80000000, tileY := 0x80000000, id := 0, body := body } : MapRec)
  let first := mk 9 (d ++ leBytes 8 size ++ leBytes 4 ext.length ++ leBytes 4 0 ++ enc (ext.take 1018))
  let n := (ext.length - 1018 + 1017) / 1018
  (s.roomInCommit (n + 2)).submitRecs (first :: (upTo n).map fun i =>
    let part := (ext.drop (1018 * (i + 1))).take 1018
    mk 0x0D (d ++ leBytes 4 (1018 * (i + 1)) ++ leBytes 4 part.length ++ leBytes 8 0 ++ enc part))

/-- A record that a move copies (R293, R304): one whose object is marked is older than the mark, which stays; while the budget defers the move, the mark
is enough. -/
def State.moveRecord (s : State) (r : MapRec) : State :=
  if s.map.deferred.any fun x => sameObj x r then (if s.mapState ≠ 2 ∨ s.map.refuse ∨ s.defers r.prio.toNat then s else s.acceptRec r)
  else s.submitRec r

/-- Copy the valid data of a page into the open commit (R293, R305) at priority `pr`. -/
def State.movePage (s : State) (pr : BitVec 2) (e : Nat × NPage) : State :=
  let x := e.2
  let ppa := e.1 * 2 ^ 28
  if x.typ = 1 then
    let live := (parseRecs 1024 x.data).filter fun r => s.map.content.recs.any fun y => sameObj y r && y.body == r.body
    live.foldl (fun s r => s.moveRecord { r with prio := pr }) s
  else if x.typ = 2 ∨ x.typ = 3 then
    if s.map.dirty.contains x.aux then s else { s with map := { s.map with dirty := s.map.dirty ++ [x.aux] } }
  else if x.typ = 4 ∨ x.typ = 5 then
    { s with map := { s.map with root := (rootEntries s.map.root).flatMap fun t => if leAt t 8 8 = ppa then [] else t } }
  else if x.typ = 6 ∧ SMap.get (fun _ => 0) s.map.content.index x.aux = ppa then
    let a := s.acceptPage 6 x.aux x.data
    a.2.moveRecord { typ := 8, prio := pr, tileX := 0x80000000, tileY := 0x80000000, id := BitVec.ofNat 32 x.aux
                     body := leBytes 4 x.aux ++ leBytes 4 0 ++ leBytes 8 a.1 }
  else if x.typ = 7 then
    match s.map.content.payloads.find? fun q => q.extents.any fun t => decide (t.1 ≤ ppa) && decide (ppa < t.1 + t.2 * 2 ^ 28) with
    | none => s
    | some q =>
      let a := s.acceptPage 7 x.aux x.data
      let ext := q.extents.flatMap fun t =>
        if t.1 ≤ ppa ∧ ppa < t.1 + t.2 * 2 ^ 28 then
          let k := (ppa - t.1) / 2 ^ 28
          (if k = 0 then [] else [(t.1, k)]) ++ [(a.1, 1)] ++ (if k + 1 < t.2 then [(ppa + 2 ^ 28, t.2 - k - 1)] else [])
        else [t]
      a.2.submitPayload q.digest q.size ext
  else s

/-- The valid data of a block is to be copied (R273, R293, R305): its pages are read at class 14. -/
def State.moveBlock (s : State) (pr : BitVec 2) (b : Nat) : State :=
  ((s.blockPages b).filter fun e => s.referenced e.1).foldl (fun (s : State) e => s.askRead e.1 14 (.move pr)) s

/-- A block is retired (R305). -/
def State.retireBlock (s : State) (b : Nat) : State :=
  if (s.nblock b).state = .retired then s
  else
    let s1 := s.setNblock b { s.nblock b with state := .retired }
    let s2 : State := { s1 with map := { s1.map with opens := s1.map.opens.filter fun e => e.2 != b
                                                     reclaim := s1.map.reclaim.filter fun x => x != b } }
    ((s2.moveBlock 0 b).poolRegs.raise 166).budgetRegs

/-- A block is refreshed (R303, R305): its data moves at P0 and it is erased when nothing refers to it. -/
def State.refreshBlock (s : State) (b : Nat) : State :=
  if s.map.reclaim.contains b ∨ (s.nblock b).state = .retired ∨ s.mapState ≠ 2 then s
  else
    let s1 : State := { s with map := { s.map with reclaim := s.map.reclaim ++ [b], opens := s.map.opens.filter fun e => e.2 != b } }
    ((s1.setNblock b { s1.nblock b with state := .full }).inc R.MAP_REFRESH).moveBlock 0 b

/-- The bytes of page metadata (R276). -/
def NPage.metadata (x : NPage) : List Byte :=
  record 64 [(0, 4, x.magic), (4, 1, x.typ), (5, 1, x.group), (6, 1, x.pool), (8, 8, x.seq), (0x10, 8, x.commit), (0x18, 8, x.aux), (0x20, 8, x.mapId),
    (0x28, 8, x.blockSeq), (0x30, 4, x.erases)]

/-- What codeword `i` of a page protects (R274): 4,096 data bytes, those of codeword 0 with the metadata. -/
def NPage.codeword (x : NPage) (i : Nat) : List Byte :=
  ((padTo pageBytes x.data).drop (4096 * i)).take 4096 ++ (if i = 0 then x.metadata else [])

/-- The spare area of a page, `n` bytes (R274): the metadata, the parity of the four codewords, 0xFF in the rest (log entry 139). -/
def NPage.spareArea (x : NPage) (n : Nat) : List Byte :=
  let used := x.metadata ++ (upTo 4).flatMap fun i => leBytes 512 (Config.ldpcParity (x.codeword i))
  used ++ List.replicate (n - used.length) 0xFF

/-- The bytes of a spare area (R271): as the first target says, 2,112 at the least. -/
def State.spareBytes (s : State) : Nat :=
  match s.map.parts with
  | (p :: _) :: _ => max 2112 p.spareBytes.toNat
  | _ => 2112

/-- May a block be erased (R293). -/
def State.erasable (s : State) (b : Nat) : Bool :=
  s.map.reclaim.contains b && (s.blockPages b).all (fun e => !s.referenced e.1) && !s.map.refuse && s.map.holdTo.isNone

/-- The programs and erases that may start: the pages of the commits in order, then the blocks to be erased. -/
def State.opsDue (s : State) : List NOp :=
  (s.pendingCommits.flatMap fun c =>
    if s.mayProgram c then ((c.pages ++ c.copies).filter fun p => !p.done).map fun p => { erase := false, key := p.ppa / 2 ^ 28 } else []) ++
  (s.map.reclaim.filter s.erasable).map fun b => { erase := true, key := b }

/-- LUNs of a channel that may be busy with a program or an erase at a time (R273): half of them; the one of a channel that has one (log entry
139). -/
def Geo.busyMax (g : Geo) : Nat := max 1 (g.targets * g.luns / 2)

/-- Start what may start (R273): on a LUN that is not busy, of a channel fewer than half of whose LUNs are. -/
def State.startOps (s : State) : State :=
  match s.map.geo with
  | none => s
  | some g =>
    s.opsDue.foldl (fun (s : State) o =>
      if s.lunBusy o.lun || decide (g.busyMax ≤ (s.map.busy.filter fun x => chanOf x.lun == chanOf o.lun).length) then s
      else { s with map := { s.map with busy := s.map.busy ++ [o] } }) s

/-- A program or an erase in progress ends: reads of its LUN and other operations go on. -/
def State.endOp (s : State) (o : NOp) : State := { s with map := { s.map with busy := s.map.busy.filter fun x => x != o } }

/-- The flash goes on: programs, erases and reads start as they may (R273). -/
def State.runFlash (s : State) : State := s.startOps.runReads

/-- The program of the word line that starts at page key `p` ends (R291, R305). -/
def State.programEnded (s : State) (p : Nat) (pass : Bool) : State :=
  match s.map.geo, s.programming p with
  | some g, some (c, x) =>
      if pass then
        let s1 := (s.setNpage p (some { x.page with spare := x.page.spareArea s.spareBytes })).putPads p x.page (g.ppw - 1)
        (s1.mapPages fun y => if y.ppa = x.ppa then { y with done := true } else y).issueCopies
      else
        -- the page is written again elsewhere in the same commit
        let s0 := s.retireBlock (blockOf p)
        let s1 := if c.copies.any fun y => decide (y.ppa = x.ppa) then s0.inc R.MAP_COMMIT_REWRITE else s0
        let l := s1.takeLine g (x.page.typ == 7) (c.chansBeside (c.pages.findIdx fun y => decide (y.ppa = x.ppa))) (blockChan (blockOf p) + 1)
        let q := l.1.getD noPage * 2 ^ 28
        let b := l.2.nblock (blockOf (q / 2 ^ 28))
        let first := decide (q / 2 ^ 28 % 4096 = 0)
        let placed : NPage := { x.page with blockSeq := if first then b.bseq else 0, erases := if first then b.erases else 0 }
        (l.2.mapPages fun y => if y.ppa = x.ppa then { y with ppa := q, page := placed } else y).noteRefs (x.page.landmarks.map fun e => e.1)
  | _, _ => s

/-- The program of a word line ends, if it is in progress (R273). -/
def State.programDone (s0 : State) (p : Nat) (pass : Bool) : State :=
  let s := s0.startOps
  let o : NOp := { erase := false, key := p }
  if s.map.busy.contains o then ((s.endOp o).programEnded p pass).runFlash else s

/-- The erase of a block ends (R293, R304, R305). -/
def State.eraseEnded (s : State) (b : Nat) (pass : Bool) : State :=
    let s1 : State := { s with map := { s.map with eraseTotal := s.map.eraseTotal + 1, credit := s.map.credit - 1 } }
    let x := s.nblock b
    if pass then
      let s2 := s1.setNblock b { payload := x.payload, erases := x.erases + 1 }
      ({ s2 with map := { s2.map with reclaim := s2.map.reclaim.filter fun y => y != b
                                      reads := s2.map.reads.filter fun r => blockOf r.page != b
                                      nand := s2.map.nand.filter fun e => blockOf e.1 != b } }).poolRegs.budgetRegs
    else ((s1.setNblock b { x with erases := x.erases + 1 }).retireBlock b).budgetRegs

/-- The block with the lowest erase count of the map pool that has gone longest unwritten (R303). -/
def State.coldBlock (s : State) : Option Nat :=
  let full := s.map.blocks.filter fun e => e.2.state == .full && !e.2.payload && !s.map.reclaim.contains e.1
  (full.foldl (fun (b : Option (Nat × NBlock)) e => match b with
    | some x => if e.2.erases < x.2.erases ∨ (e.2.erases = x.2.erases ∧ e.2.bseq < x.2.bseq) then some e else b
    | none => some e) none).map fun b => b.1

/-- Static wear levelling (R303): where the erase counts of the pool differ by more than static_delta, the valid data of the cold block moves at P2. -/
def State.staticWear (s : State) : State :=
  let ec := s.eraseCounts
  if s.mapState = 2 ∧ !s.defers 2 ∧ s.cfgFld R.MAP_WEAR_CFG R.MAP_WEAR_CFG_static_delta < ec.foldl max 0 - ec.foldl min (ec.headD 0) then
    match s.coldBlock with
    | some b =>
      if (s.nblock b).erases = ec.foldl min (ec.headD 0) then ({ s with map := { s.map with reclaim := s.map.reclaim ++ [b] } }).moveBlock 2 b else s
    | none => s
  else s

/-- The erase of a block ends, if it is in progress (R273, R303). -/
def State.eraseDone (s0 : State) (b : Nat) (pass : Bool) : State :=
  let s := s0.startOps
  let o : NOp := { erase := true, key := b }
  if s.map.busy.contains o then ((s.endOp o).eraseEnded b pass).staticWear.runFlash else s

/-- The oldest read of a page in flight that ends with NAND_READ_DONE; an engine's ends with CODEWORD_READ_DONE, compaction's with COMPACT_PAGE. -/
def State.readOf (s : State) (p : Nat) : Option NRead :=
  s.map.reads.find? fun r => r.page == p && r.issued.isSome && (match r.who with | .codeword _ _ _ => false | .sweep _ => false | _ => true)

/-- A read leaves the queue; of one that moves valid data the page's data goes into the open commit when it could be read, and it is asked for
again while records are refused (R293, R295). -/
def State.takeRead (s : State) (p : Nat) (ok : Bool) : State :=
  match s.readOf p with
  | none => s
  | some r =>
    let s1 : State := { s with map := { s.map with reads := s.map.reads.erase r } }
    let s2 := match r.who, s1.npage p with
      | .move pr, some x => if !ok then s1 else if s1.map.refuse then s1.askRead p 14 (.move pr) else s1.movePage pr (p, x)
      | _, _ => s1
    s2.runFlash

/-- A page read ends (R302, R303, R305): the step that succeeded, the codewords corrected, the most corrected bits of one. -/
def State.readDone (s : State) (p : Nat) (r : ReadEnd) (fixed worst : Nat) : State :=
  let b := blockOf p
  let x := s.nblock b
  let s1 : State := (s.setNblock b { x with reads := x.reads + 1 })
  let s2 := s1.takeRead p (decide (r ≠ .uncorrectable))
  let retries := decide (0 < s.cfgFld R.MAP_ECC_CFG R.MAP_ECC_CFG_retry_max)
  let s3 := s2.addTo R.MAP_CE fixed
  let s4 := if r ≠ .hard ∧ retries then s3.inc R.MAP_RETRY else s3
  let s5 := if r = .soft ∨ r = .parity ∨ r = .uncorrectable then s4.inc R.MAP_SOFT else s4
  let s6 := if r = .parity then s5.inc R.MAP_PARITY_FIX else s5
  if r = .uncorrectable then ((s6.inc R.MAP_UNCORRECTABLE).raise 164).retireBlock b
  else if r ≠ .hard ∨ s.cfgFld R.MAP_ECC_CFG R.MAP_ECC_CFG_refresh_bits ≤ worst ∨
      s.cfgFld R.MAP_PATROL_CFG R.MAP_PATROL_CFG_disturb_k * 1000 ≤ x.reads + 1 then s6.refreshBlock b
  else s6

/-- The reads of a page that have passed MAP_READ_TMO at `t` (R302). -/
def State.lateReads (s : State) (p t : Nat) : List NRead :=
  s.map.reads.filter fun r => r.page == p && (match r.issued with
    | some u => decide (u + s.cfgReg R.MAP_READ_TMO * 1000 ≤ t)
    | none => false)

/-- They end with TIMEOUT (R302). -/
def State.readTimeout (s : State) (p t : Nat) : State :=
  let l := s.lateReads p t
  if l = [] then s
  else (({ s with map := { s.map with reads := s.map.reads.filter fun r => !l.contains r } }).addTo R.MAP_READ_TIMEOUT l.length).runReads

/-- Patrol reads a programmed page of the pools in RUN or DEGRADED, at class 14 (R273, R305). -/
def State.patrol (s : State) (p : Nat) : State :=
  if s.running ∧ (s.mapState = 2 ∨ s.mapState = 3) ∧ !s.map.refuse ∧ s.map.holdTo.isNone ∧ (s.npage p).isSome ∧
      (s.nblock (blockOf p)).state ≠ .super then s.askRead p 14 .patrol
  else s

/-- Reclamation starts on a block, or finds none to raise the free blocks with (R293, R306). -/
def State.reclaimStart (s : State) (victim : Option Nat) : State :=
  let free := s.poolFree
  let good := s.poolGood
  if s.mapState ≠ 2 ∨ s.map.refuse ∨ s.map.holdTo.isSome then s
  else
    match victim with
    | none => if free * 200 < good then s.setMapState 3 else s
    | some b =>
      let low := decide (free * 100 < 2 * good)
      let pr : BitVec 2 := if low then 0 else 2
      if (s.nblock b).state ≠ .full ∨ s.map.reclaim.contains b ∨ s.defers pr.toNat then s
      else ({ s with map := { s.map with reclaim := s.map.reclaim ++ [b] } }).moveBlock pr b

/-- The erase credit accrues up to `t` (R304). -/
def State.accrue (s : State) (t : Nat) : State :=
  let e := s.eDay
  let f := s.map.creditFrac + (t - s.map.creditAt) * e
  let day := 86400 * 1000000000
  let c := min (s.map.credit + (f / day : Nat)) (7 * e)
  ({ s with map := { s.map with credit := c, creditAt := max t s.map.creditAt, creditFrac := f % day } }).budgetRegs

/-- Write a payload into the payload pool and journal it (R285). -/
def State.writePayload (s : State) (digest bytes : List Byte) : State :=
  let a := (cutPages (bytes.length / pageBytes + 1) bytes).zipIdx.foldl (fun (a : List (Nat × Nat) × State) e =>
    let r := a.2.acceptPage 7 (e.2 * pageBytes) e.1
    (a.1 ++ [(r.1, 1)], r.2)) ([], s)
  a.2.submitPayload digest bytes.length a.1

/-- The superblock that the NAND descriptor and a map_uuid give (R277). -/
def superOf (desc uuid : List Byte) : List Byte :=
  let h := padTo 0x100 (leBytes 4 0x594C5342 ++ leBytes 2 1 ++ leBytes 2 0 ++ uuid ++ desc.take 4 ++ (desc.drop 4).take 2 ++ (desc.drop 6).take 2 ++
    (desc.drop 8).take 4 ++ (desc.drop 0xC).take 4 ++ (desc.drop 0x10).take 4 ++ leBytes 4 0 ++ (desc.drop 0x28).take 1 ++ leBytes 7 0 ++
    (desc.drop 0x30).take 20)
  h ++ digest64 h

/-- Is a superblock copy valid (R277). -/
def superOk (b : List Byte) : Bool :=
  leAt b 0 4 == 0x594C5342 && leAt b 4 2 == 1 && (b.drop 0x100).take 64 == digest64 (b.take 0x100)

/-- A page as the mount reads it: none for one that does not decode. -/
def State.mountPage (s : State) (bad : List Nat) (p : Nat) : Option NPage := if bad.contains p then none else s.npage p

/-- The pages of a parity group, with the position of one of them. -/
def parityGroups (l : List (Nat × Option NPage)) : List (List (Nat × Option NPage)) :=
  let r := l.foldl (fun (a : List (List (Nat × Option NPage)) × List (Nat × Option NPage)) e =>
    let g := a.2 ++ [e]
    let parity := match e.2 with
      | some x => x.typ == 8
      | none => false
    if parity || decide (16 ≤ g.length) then (a.1 ++ [g], []) else (a.1, g)) ([], [])
  if r.2 = [] then r.1 else r.1 ++ [r.2]

/-- The pages that a commit page lists, each as the mount reads it (R288). -/
def State.listed (s : State) (bad : List Nat) (page : List Byte) : List (Nat × Option NPage) :=
  (upTo (leAt page 0x20 4)).map fun i => (leAt page (0x180 + 8 * i) 8 / 2 ^ 28, s.mountPage bad (leAt page (0x180 + 8 * i) 8 / 2 ^ 28))

/-- The data areas of the content pages of a commit, a failed one rebuilt from its parity group; none where that fails
(R298, R302). -/
def State.commitData (s : State) (bad : List Nat) (page : List Byte) : Option (List (NPage × List Byte)) :=
  let fix := fun (g : List (Nat × Option NPage)) =>
    let lost := (g.filter fun e => e.2.isNone).length
    g.filterMap fun e => match e.2 with
      | some x => if x.typ = 8 then none else some (some (x, padTo pageBytes x.data))
      | none =>
        if lost = 1 then
          match s.npage e.1 with
          | some x => if x.typ = 8 then none else
              some (some (x, xorData (g.filterMap fun f => f.2.map fun y => y.data)))
          | none => some none
        else some none
  ((parityGroups (s.listed bad page)).flatMap fix).foldr (fun e a => match e, a with
    | some x, some l => some (x :: l)
    | _, _ => none) (some [])

/-- The readable commit pages of the mounted map, as location and data. -/
def State.commitPages (s : State) (bad : List Nat) (mapId : Nat) : List (Nat × NPage) :=
  s.map.nand.filterMap fun e => match s.mountPage bad e.1 with
    | some x => if x.magic = 0x594C4D31 ∧ x.typ = 9 ∧ x.mapId = mapId ∧ leAt x.data 0 4 = 0x594C434D ∧ (x.data.drop 0x140).take 64 = digest64 (x.data.take 0x140) then
        some (e.1, x) else none
    | none => none

/-- The replay of R298 step 5: from a head and a content, over at most `n` commits. -/
def State.replay (s : State) (bad : List Nat) (cps : List (Nat × NPage)) :
    Nat → Nat → List Byte → Content → Nat → Nat × List Byte × Content × Nat
  | 0, id, head, c, n => (id, head, c, n)
  | k + 1, id, head, c, n =>
    match cps.find? fun e => leAt e.2.data 8 8 == id + 1 with
    | none => (id, head, c, n)
    | some (_, x) =>
      if (x.data.drop 0x80).take 64 ≠ head then (id, head, c, n)
      else
        match s.commitData bad x.data with
        | none => (id, head, c, n)
        | some l =>
          if (x.data.drop 0xC0).take 64 ≠ digest64 (l.flatMap fun e => e.2) then (id, head, c, n)
          else
            let recs := (l.filter fun e => e.1.typ == 1).flatMap fun e => parseRecs 1024 e.2
            let c1 := recs.foldl (fun c r => c.apply (id + 1) r) c
            s.replay bad cps k (id + 1) ((x.data.drop 0x140).take 64) c1 (n + 1)

/-- The data area of a page as the mount reads it, rebuilt from its parity group where it does not decode (R299, R302): `cps` are the commit pages. -/
def State.mountData (s : State) (bad : List Nat) (cps : List (Nat × NPage)) (p : Nat) : Option (List Byte) :=
  match s.mountPage bad p with
  | some x => some (padTo pageBytes x.data)
  | none => cps.findSome? fun c =>
    match (parityGroups (s.listed bad c.2.data)).find? fun g => g.any fun e => e.1 == p with
    | some g => if (g.filter fun e => e.2.isNone).length = 1 then some (xorData (g.filterMap fun e => e.2.map fun y => y.data)) else none
    | none => none

/-- The bytes of table `k` by the root list; none where a page fails its digest and cannot be rebuilt (R298 step 4, R299). -/
def State.mountTable (s : State) (bad : List Nat) (cps : List (Nat × NPage)) (root : List Byte) (k : Nat) : Option (List Byte) :=
  ((rootEntries root).filter fun e => leAt e 0 1 == k).foldl (fun a e =>
    match a, s.mountData bad cps (leAt e 8 8 / 2 ^ 28) with
    | some b, some x => if digest64 x = e.drop 16 then some (b ++ x) else none
    | _, _ => none) (some [])

/-- Chop bytes into entries of `n` bytes. -/
def entriesOf (n : Nat) (b : List Byte) : List (List Byte) := (upTo (b.length / n)).map fun i => (b.drop (n * i)).take n

/-- The payload table parsed, with fuel. -/
def parsePayloads : Nat → List Byte → List Payload
  | 0, _ => []
  | k + 1, b =>
    if leAt b 76 4 ≠ 1 then []
    else { digest := b.take 64, size := leAt b 64 8, extents := extentsIn b 80 (leAt b 72 4) } :: parsePayloads k (b.drop (80 + 16 * leAt b 72 4))

/-- The records of a tile's segment image; none where it does not match its digest (log entry 166). -/
def State.mountSegment (s : State) (bad : List Nat) (cps : List (Nat × NPage)) (t : List Byte) : List MapRec :=
  match s.mountData bad cps (leAt t 8 8 / 2 ^ 28) with
  | none => []
  | some d =>
    let pages := (upTo (leAt d 0 4)).filterMap fun i => s.mountData bad cps (leAt d (4 + 8 * i) 8 / 2 ^ 28)
    if digest64 pages.flatten = (t.drop 24).take 64 then pages.flatMap (parseRecs 1024) else []

/-- Clear what the map store holds beside the flash: a mount starts. -/
def State.mapOff (s : State) : State :=
  let s1 : State := { s with map := { nand := s.map.nand, blocks := s.map.blocks, bad := s.map.bad, parts := s.map.parts, refuse := s.map.refuse
                                      holdTo := s.map.holdTo, creditAt := s.tb3 } }
  s1.setFld R.GSOL_STATUS R.GSOL_STATUS_ld_ready 0

/-- The NAND descriptor in force (12 R339). -/
def State.nandDesc (s : State) : List Byte :=
  match s.cfg.active with
  | some i => i.nand
  | none => []

/-- Does a target train and match the descriptor and the limits of R271 (R272; log entry 139): its Read ID bytes, its geometry, its times within
the descriptor's maxima. -/
def partMatches (p : NandPart) (desc : List Byte) : Bool :=
  p.trains && decide (p.readId.toNat = leAt desc 0x20 8) && decide (p.luns.toNat = leAt desc 2 1) && decide (p.planes.toNat = leAt desc 3 1) &&
  decide (p.pagesPerBlock.toNat = leAt desc 4 2) && decide (p.bitsPerCell.toNat = leAt desc 7 1) && decide (p.blocksPerLun.toNat = leAt desc 8 4) &&
  decide (p.dataBytes.toNat = 16384) && decide (2112 ≤ p.spareBytes.toNat) &&
  decide (p.progUs.toNat ≤ min 1500 (leAt desc 0x14 2)) && decide (p.readUs.toNat ≤ min 100 (leAt desc 0x16 2)) &&
  decide (p.eraseUs.toNat ≤ min 20000 (leAt desc 0x18 4))

/-- The usable channels by a descriptor (R272): those every one of whose targets matches it. -/
def State.usableBy (s : State) (desc : List Byte) : Nat :=
  s.map.parts.zipIdx.foldl (fun n c =>
    if decide (c.1.length = leAt desc 1 1) && (c.1.all fun p => partMatches p desc) then n + 2 ^ c.2 else n) 0

/-- The channels are checked against the descriptor in force: at training, and at a mount or format (R271, R272, R309, 12 R339). -/
def State.checkChannels (s : State) : State := s.setFld R.MAP_CHANNELS R.MAP_CHANNELS_up (s.usableBy s.nandDesc)

/-- The usable channels (R272, R309). -/
def State.chansUp (s : State) : Nat := s.fld R.MAP_CHANNELS R.MAP_CHANNELS_up

/-- The pools of a geometry (R278): the factory-bad blocks and the superblock blocks are in none; the payload pool takes payload_blocks good blocks,
spread evenly over the channels; the map pool has the rest. -/
def State.sortBlocks (s : State) (g : Geo) : State :=
  let s1 := s.map.bad.foldl (fun s b => s.setNblock b { state := .factoryBad }) s
  let s2 := [0, 8].foldl (fun s c => s.setNblock (blockOf (chanPage c)) { state := .super }) s1
  (upTo g.channels).foldl (fun s c =>
    let want := g.payBlocks / g.channels + b2n (decide (c < g.payBlocks % g.channels))
    let good := ((upTo g.perChan).map (g.block c)).filter fun b => (s.nblock b).state == .free
    (good.take want).foldl (fun s b => s.setNblock b { s.nblock b with payload := true
                                                                       state := if s.map.nand.any fun p => blockOf p.1 == b then .full else .free }) s) s2

/-- The blocks as a mount finds them: the block table, or before the first checkpoint the pools as the format sorted them (R278), then page 0 of every
block (R298 step 2). -/
def State.mountBlocks (s : State) (g : Geo) (tab : List Byte) : State :=
  let ofTab := (entriesOf 16 tab).filterMap fun e =>
    let c := leAt e 8 1
    if c = 0 then none
    else
      let st : BState := if c = 4 then .retired else if c = 5 then .factoryBad else if c = 6 then .super else .free
      some (leAt e 0 4, ({ state := st, payload := leAt e 9 1 == 1, erases := leAt e 4 4 } : NBlock))
  let s1 : State := { s with map := { s.map with blocks := [] } }
  let s2 := if tab = [] then s1.sortBlocks g else ofTab.foldl (fun s e => s.setNblock e.1 e.2) s1
  s2.map.nand.foldl (fun s e =>
    let b := blockOf e.1
    let x := s.nblock b
    let y := match x.state with
      | .free => { x with state := BState.full }
      | _ => x
    match e.1 % 4096, e.2 with
    | 0, some p => s.setNblock b (if y.state = .super then y else { y with erases := max y.erases p.erases, bseq := p.blockSeq })
    | _, _ => s.setNblock b y) s2

/-- The end of a mount that writes no commit (R299, R301), or of one whose commit is durable. -/
def State.endMount (s : State) (st : Nat) : State :=
  let us := match s.map.mountAt with
    | some t => (s.tb3 - t) / 1000
    | none => 0
  let s1 : State := { s with map := { s.map with mountAt := none } }
  let s2 := ((s1.setReg R.MAP_MOUNT_US us).setMapState st).raise 160
  if s2.reg R.MAP_MOUNT_DISCARD = 0 then s2 else s2.raise 161

/-- The commit without records that a mount or a format writes (R290, R298, R301). -/
def State.bareCommit (s : State) (flags : Nat) : State :=
  ((s.openCommit).closeCommit false flags).issueCopies

/-- Format (R278, R301): the superblock from the descriptor, the pools, a FORMAT commit. -/
def State.format (s : State) (desc : List Byte) : State :=
  let uuid := leBytes 8 s.free.toNat ++ leBytes 8 s.tick.free.toNat
  let s0 := s.tick.tick
  let sb := superOf desc uuid
  let g := geoOfSuper sb
  -- the map pool is erased; erase counts stay with the blocks
  let had := s0.map.blocks.map fun e => (e.1, e.2)
  let erased := (had.filter fun e => !e.2.payload && s0.map.nand.any fun p => blockOf p.1 == e.1).map fun e => e.1
  let s1 : State := { s0 with map := { s0.map with
    nand := s0.map.nand.filter fun p => (s0.nblock (blockOf p.1)).payload
    blocks := [], superBlock := sb, geo := some g, pageSeq := 1, blockSeq := 1, prevHead := digest64 (sb.take 0x100), eraseTotal := 0 } }
  let s2 := had.foldl (fun s e =>
    let n := e.2.erases + b2n (erased.contains e.1)
    s.setNblock e.1 { erases := n, state := if e.2.state = .retired then .retired else .free }) s1
  let s5 := [0, 8].foldl (fun (s : State) c => s.setNpage (chanPage c) (some { typ := 0, data := sb })) (s2.sortBlocks g)
  let s6 : State := { s5 with map := { s5.map with credit := s5.eDay } }
  let s7 := ((s6.setFld R.MAP_CHANNELS R.MAP_CHANNELS_present 0xFFFF).setFld R.MAP_STATUS R.MAP_STATUS_geo_valid (leAt sb 0x30 1 % 2)).poolRegs.budgetRegs
  (({ s7 with map := { s7.map with mountTo := 2 } }).setReg R.MAP_REPLAY_COMMITS 0).bareCommit 8

/-- A checkpoint as a mount reads it (R298 step 4): commit id and location, root list, tile table, content, head, block table;
before the first checkpoint, the format. -/
structure Ckpt where
  id : Nat
  ppa : Nat
  root : List Byte
  tiles : List (List Byte)
  base : Content
  head : List Byte
  blockTab : List Byte

/-- The content that a checkpoint's tables and segments give. -/
def State.mountBase (s : State) (bad : List Nat) (cps : List (Nat × NPage)) (tiles : List (List Byte)) (index pays : List Byte) (gen : Nat)
    (own : List MapRec) (id : Nat) : Content :=
  { recs := (tiles.flatMap (s.mountSegment bad cps)).foldl (fun l r => upsert r l) []
    index := ((entriesOf 16 index).filter fun e => leAt e 4 4 == 1).foldl (fun m e => SMap.put m (leAt e 0 4) (leAt e 8 8)) []
    payloads := parsePayloads 65536 pays, gen := gen
    -- a correction that the checkpoint's own records begin is carried on
    corr := (own.foldl (fun c r => Content.apply c id r) ({} : Content)).corr }

/-- Read the checkpoint that the newest commit page names; none where it, the root list or a TABLE page fails its digest. -/
def State.mountCkpt (s : State) (bad : List Nat) (cps : List (Nat × NPage)) (nw : NPage) : Option Ckpt :=
  let id := leAt nw.data 0x40 8
  match cps.find? fun e => leAt e.2.data 8 8 == id && bitOf (leAt e.2.data 6 2) 0 with
  | none =>
    if id = 0 then
      some { id := 0, ppa := 0, root := [], tiles := [], base := {}, head := digest64 (s.map.superBlock.take 0x100), blockTab := [] }
    else none
  | some (p, x) =>
    match s.commitData bad x.data with
    | none => none
    | some l =>
      let root := (rootEntries ((l.filter fun e => e.1.typ == 5).flatMap fun e => e.2)).flatten
      if (x.data.drop 0x100).take 64 ≠ digest64 root then none
      else
        let tab := s.mountTable bad cps root
        match tab 0, tab 1, tab 2, tab 3 with
        | some t0, some t1, some t2, some t3 =>
          let tiles := (entriesOf 96 t0).filter fun t => leAt t 8 8 != 0
          let own := (l.filter fun e => e.1.typ == 1).flatMap fun e => parseRecs 1024 e.2
          some { id := id, ppa := p * 2 ^ 28, root := root, tiles := tiles
                 base := s.mountBase bad cps tiles t1 t2 (leAt x.data 0x28 4) own id
                 head := (x.data.drop 0x140).take 64, blockTab := t3 }
        | _, _, _, _ => none

/-- The tiles whose records differ between two contents. -/
def changedTiles (a b : Content) : List Nat :=
  let diff := (a.recs.filter fun r => !b.recs.contains r) ++ b.recs.filter fun r => !a.recs.contains r
  (diff.map fun r => tileKey r.tileX r.tileY).eraseDups

/-- Take over what a mount has read: the head, the content, the counters (R298, R299). -/
def State.mountTake (s : State) (cps : List (Nat × NPage)) (k : Ckpt) (id : Nat) (head : List Byte) (cont : Content) (n : Nat) : State :=
  let mapId := leAt s.map.superBlock 8 8
  let hp := cps.filter fun e => leAt e.2.data 8 8 == id
  let hseq := hp.foldl (fun m e => max m e.2.seq) 0
  let beyond := s.map.nand.filter fun e => match e.2 with
    | some x => x.magic == 0x594C4D31 && decide (x.typ ≠ 0x0A) && x.mapId == mapId && decide (hseq < x.seq)
    | none => false
  let brk := beyond.any fun e => cps.any fun c => c.1 == e.1 && decide (id < leAt c.2.data 8 8)
  let page := match hp.head? with
    | some e => e.2.data
    | none => []
  let c : Content := { cont with corr := none, pay := none, payloads := cont.payloads.map fun p => { p with commit := min p.commit id } }
  let s1 := s.mountBlocks (geoOfSuper s.map.superBlock) k.blockTab
  let s2 : State := { s1 with map := { s1.map with
    content := c, before := c, durContent := k.base, root := k.root, durRoot := k.root, tileTab := k.tiles, durTiles := k.tiles
    head := id, headPage := page, prevHead := head, nextId := id + 1, ckpt := k.id, ckptPpa := k.ppa, sinceCkpt := n
    pageSeq := s1.map.nand.foldl (fun m e => match e.2 with | some x => max m (x.seq + 1) | none => m) 1
    blockSeq := s1.map.blocks.foldl (fun m e => max m (e.2.bseq + 1)) 1
    dirty := changedTiles k.base c, eraseTotal := leAt page 0x50 8, credit := sext 32 (leAt page 0x58 4) } }
  let s3 := ((s2.setReg R.MAP_REPLAY_COMMITS n).setReg R.MAP_MOUNT_DISCARD beyond.length).setFld R.MAP_STATUS R.MAP_STATUS_chain_break (b2n brk)
  let s4 := ((s3.setReg64 R.MAP_HEAD_COMMIT_LO id).setReg64 R.MAP_CKPT_COMMIT_LO k.id).headRegs head
  let s5 := s4.setFld R.MAP_STATUS R.MAP_STATUS_sealed (b2n (decide (c = { k.base with corr := none, pay := none })))
  (s5.setReg R.MAP_ERASES (leAt page 0x50 4)).poolRegs.budgetRegs

/-- The newest of the readable commit pages (R298 step 3). -/
def newestCommit (cps : List (Nat × NPage)) : Option NPage :=
  cps.foldl (fun (a : Option NPage) e => match a with
    | some x => if leAt x.data 8 8 < leAt e.2.data 8 8 then some e.2 else a
    | none => some e.2) none

/-- A mount from a valid superblock (R298). -/
def State.mountFrom (s : State) (bad : List Nat) (sb : List Byte) : Bool × State :=
  let g := geoOfSuper sb
  let present := 2 ^ g.channels - 1
  let s1 := ({ s with map := { s.map with superBlock := sb, geo := some g } }).setFld R.MAP_CHANNELS R.MAP_CHANNELS_present present
  let s2 := s1.setFld R.MAP_STATUS R.MAP_STATUS_geo_valid (leAt sb 0x30 1 % 2)
  let cps := s2.commitPages bad (leAt sb 8 8)
  if s2.chansUp &&& present ≠ present then (false, s2.endMount 4)
  else
    match newestCommit cps with
    | none => (false, s2.endMount 4)
    | some nw =>
      match s2.mountCkpt bad cps nw with
      | none => (false, s2.endMount 4)
      | some k =>
        let r := s2.replay bad cps cps.length k.id k.head k.base 0
        let s3 := s2.mountTake cps k r.1 r.2.1 r.2.2.1 r.2.2.2
        let ro := decide (s3.poolFree * 200 < s3.poolGood)
        (true, (({ s3 with map := { s3.map with mountTo := if ro then 3 else 2 } }).bareCommit 16))

/-- Steps 1 to 5 and 7 of a mount at the present instant (R298, R299, R301): `bad` are the pages that do not decode. What the
directory and the graph take from it is with the solver. Answers whether there is a map to fill them from. -/
def State.mountMap (s : State) (bad : List Nat) : Bool × State :=
  let s0 := s.mapOff
  let s1 := ({ s0 with map := { s0.map with mountAt := some s.tb3 } }).setFld R.MAP_STATUS R.MAP_STATUS_state 1
  let s2 := (((s1.setReg R.MAP_MOUNT_DISCARD 0).setReg R.MAP_REPLAY_COMMITS 0).setFld R.MAP_STATUS R.MAP_STATUS_chain_break 0).checkChannels
  let copies := [0, 8].map fun c => s2.mountPage bad (chanPage c)
  match copies.findSome? fun x => x.bind fun p => if superOk p.data then some p.data else none with
  | none =>
    if (s2.npage (chanPage 0)).isNone ∧ (s2.npage (chanPage 8)).isNone then
      if s2.cfgBit R.MAP_CFG R.MAP_CFG_format_blank ∧ s2.chansUp = 0xFFFF then (true, s2.format s2.nandDesc)
      else (false, (s2.setFld R.MAP_CHANNELS R.MAP_CHANNELS_present 0).endMount 5)
    else (false, s2.endMount 4)
  | some sb => s2.mountFrom bad sb

end Sys2Proof.Machine
end

