-- ==== Sys2Proof/Machine/Reef.lean ====
section
/-! DEFINITION. The Reef engines (spec 11): the index and its updates, queries, the search, results. -/
namespace Sys2Proof.Machine

/-- Does the index map node page `l` (R311). -/
def Index.mapped (x : Index) (l : Nat) : Bool := x.nodes.any fun e => e.1 / 64 == l

/-- The entry nodes, ascending (R314). -/
def Index.entries (x : Index) : List Nat := x.nodes.filterMap fun e => if e.2.entry ∧ e.2.state = 1 then some e.1 else none

/-- Hamming distance of two sketches. -/
def hamming (a b : Nat) : Nat := onesIn 256 (a ^^^ b)

/-- A node from its record and its descriptor. -/
def parseNode (b desc : List Byte) : Node :=
  let f := fun (o n : Nat) => leAt b o n
  { sketch := f 0 32, nbr := (upTo (f 0xC7 1)).map fun i => (f (0x20 + 4 * i) 4, f (0xA0 + i) 1), gen := f 0xC4 2, state := f 0xC6 1 % 4
    entry := bitOf (f 0xC6 1) 2, tileX := BitVec.ofNat 32 (f 0xC8 4), tileY := BitVec.ofNat 32 (f 0xCC 4), keyframe := f 0xD0 4
    sensor := f 0xD4 1, tKf := f 0xD8 8, desc := desc }

/-- The index that the mounted map holds (R284, R316): from its INDEX pages by the index table. -/
def State.mountIndex (s : State) : Index :=
  let pages := s.map.content.index.filter fun e => decide (e.1 < descPage)
  let data := fun (ppa : Nat) => match s.npage (ppa / 2 ^ 28) with
    | some x => padTo pageBytes x.data
    | none => List.replicate pageBytes 0
  pages.foldl (fun (ix : Index) e =>
    let d := data e.2
    let dd := match s.map.content.index.find? fun g => g.1 == descPage + e.1 with
      | some g => data g.2
      | none => List.replicate pageBytes 0
    (upTo 64).foldl (fun (ix : Index) k =>
      let v := parseNode ((d.drop (256 * k)).take 256) ((dd.drop (256 * k)).take 256)
      ix.set (64 * e.1 + k) (if v.state = 0 ∧ v.gen = 0 then {} else v)) ix) {}

/-- Is an edge from `a` in slot (`id`, `gen`) usable (R313). -/
def Index.usable (x : Index) (e : Nat × Nat) : Bool := (x.node e.1).state == 1 && (x.node e.1).gen % 256 == e.2 % 256

/-- Order of distance and id. -/
def nearer (a b : Nat × Nat) : Bool := decide (a.1 < b.1) || (decide (a.1 = b.1) && decide (a.2 < b.2))

/-- Insert into a queue of at most `beam` entries (R323). -/
def queueAdd (beam d n : Nat) (q : List (Nat × Nat × Bool)) : List (Nat × Nat × Bool) :=
  let rec' := (q.takeWhile fun e => nearer (e.1, e.2.1) (d, n)) ++ [(d, n, false)] ++ q.dropWhile fun e => nearer (e.1, e.2.1) (d, n)
  rec'.take beam

/-- State of a search without parking: queue and visited nodes. -/
structure Walk where
  queue : List (Nat × Nat × Bool)
  visited : List Nat

/-- One expansion of the synchronous search. -/
def Index.expand (x : Index) (beam sketch : Nat) (w : Walk) (c : Nat) : Walk :=
  (x.node c).nbr.foldl (fun (w : Walk) e =>
    if w.visited.contains e.1 then w
    else
      let v := { w with visited := e.1 :: w.visited }
      if x.usable e then { v with queue := queueAdd beam (hamming sketch (x.node e.1).sketch) e.1 v.queue } else v)
    { w with queue := w.queue.map fun e => if e.2.1 = c then (e.1, e.2.1, true) else e }

/-- The traversal of R323 with at most `hops` expansions. -/
def Index.walk (x : Index) (beam sketch : Nat) : Nat → Walk → Walk
  | 0, w => w
  | h + 1, w =>
    match w.queue.find? fun e => !e.2.2 with
    | none => w
    | some c => x.walk beam sketch h (x.expand beam sketch w c.2.1)

/-- Seeding from the entry table (R323). -/
def Index.seed (x : Index) (beam sketch : Nat) : List (Nat × Nat × Bool) :=
  x.entries.foldl (fun q e => queueAdd beam (hamming sketch (x.node e).sketch) e q) []

/-- The nearest LIVE nodes by a search of the updater (R317 step 2). -/
def Index.nearest (x : Index) (beam hops sketch : Nat) : List Nat :=
  let w := x.walk beam sketch hops { queue := x.seed beam sketch, visited := x.entries }
  (w.queue.filter fun e => (x.node e.2.1).state == 1).map fun e => e.2.1

/-- An edge back from `b` to the new node `n` (R317 step 4); between equal distances the higher id is the farther one (log entry 167). -/
def Index.backEdge (x : Index) (n b : Nat) : Index :=
  let v := x.node b
  let me := (n, (x.node n).gen % 256)
  let dist := fun (m : Nat) => hamming v.sketch (x.node m).sketch
  if v.nbr.length < 32 then x.set b { v with nbr := v.nbr ++ [me] }
  else
    let far := v.nbr.zipIdx.foldl (fun (a : Nat × Nat × Nat) e =>
      let k := (dist e.1.1, e.1.1)
      if nearer (a.1, a.2.1) k then (k.1, k.2, e.2) else a) (dist (v.nbr.headD (0, 0)).1, (v.nbr.headD (0, 0)).1, 0)
    if nearer (dist n, n) (far.1, far.2.1) then x.set b { v with nbr := setAt v.nbr far.2.2 me } else x

/-- The node pages that differ between two indexes, and the descriptor page of a new node. -/
def changedPages (a b : Index) : List Nat :=
  let ids := (a.nodes.map fun e => e.1) ++ b.nodes.map fun e => e.1
  let nodes := ids.filter fun n => ({ a.node n with desc := [] } : Node) ≠ { b.node n with desc := [] }
  let descs := ids.filter fun n => (a.node n).desc ≠ (b.node n).desc
  ((nodes.map fun n => n / 64) ++ descs.map fun n => descPage + n / 64).eraseDups

/-- Is the index available, by REEF_STATUS (R332): 0 OFF, 1 READY, 2 FROZEN, 3 UNAVAILABLE. -/
def State.reefState (s : State) : Nat :=
  if !s.cfgBit R.REEF_CFG R.REEF_CFG_enable || s.reef.off then 0
  else if s.mapState = 2 then 1 else if s.mapState = 3 then 2 else 3

/-- Rewrite-buffer slots in use (R316). -/
def State.bufUsed (s : State) : Nat :=
  let wait := s.reef.slots.filter fun e => e.2 = 0 || (s.npage (e.2 / 2 ^ 28)).isNone
  wait.length + s.reef.olds.foldl (fun n e => if s.reef.ctxs.any fun c => decide (c.version < e.1) then n + e.2.length else n) 0

/-- Free the slots that nothing needs any more (R316). -/
def State.trimBuf (s : State) : State :=
  { s with reef := { s.reef with
      slots := s.reef.slots.filter fun e => e.2 = 0 || (s.npage (e.2 / 2 ^ 28)).isNone
      olds := s.reef.olds.filter fun e => s.reef.ctxs.any fun c => decide (c.version < e.1) } }

/-- The index version (R315). -/
def State.reefVersion (s : State) : Nat := s.reg64 R.REEF_VERSION_LO

/-- The REEF registers that follow from the state (R332, R333). -/
def State.reefRegs (s : State) : State :=
  let cnt := fun (k : Nat) => (s.reef.visible.nodes.filter fun e => e.2.state == k).length
  let s1 := ((((s.setFld R.REEF_STATUS R.REEF_STATUS_state s.reefState).setReg R.REEF_NODES (cnt 1)).setReg R.REEF_TOMBSTONES (cnt 2)).setReg
    R.REEF_FREE_IDS s.reef.freeIds.length).setReg R.REEF_BUF_USED (min 4096 s.bufUsed)
  (upTo 16).foldl (fun s e =>
    let n := (s.reef.ctxs.filter fun c => c.engine == e).length
    let o := R.REEF_ENG_CTX + 0x10 * e
    (s.setFld o R.REEF_ENG_CTX_busy n).setFld o R.REEF_ENG_CTX_peak (max n (s.fld o R.REEF_ENG_CTX_peak))) s1

/-- The entry table in Isle 1's Shoal follows the visible index (R314). -/
def State.entryTable (s : State) : State :=
  if s.reef.entryObj = 0 then s
  else
    let t := s.reef.visible.entries.flatMap fun n => nodeBytes n (s.reef.visible.node n)
    s.store (placedAddr s.reef.entryObj) (padTo 16384 t)

/-- Updates whose records the map store has all accepted become visible, in order (R315), with fuel. -/
def State.reefVisible (s : State) : Nat → State
  | 0 => s
  | k + 1 =>
    match s.reef.updates with
    | [] => s
    | u :: r =>
      let waits := u.pages.any fun l => s.map.deferred.any fun d => d.typ == 8 && d.id.toNat == l
      if waits then s
      else
        let v := s.reefVersion + 1
        let s1 : State := { s with reef := { s.reef with updates := r, visible := u.after, olds := s.reef.olds ++ [(v, u.pages)] } }
        ((s1.setReg64 R.REEF_VERSION_LO v).entryTable).reefVisible k

/-- Bring the Reef state in line with the map store (R315, R316). -/
def State.reefSync (s : State) : State := ((s.reefVisible s.reef.updates.length).trimBuf).reefRegs

/-- Submit the INDEX_MAP record of a page (R315): the page goes to the journal with it unless the budget defers the record. -/
def State.submitIndex (s : State) (ix : Index) (pr : BitVec 2) (l : Nat) : State :=
  let r : MapRec := { typ := 8, prio := pr, tileX := 0x80000000, tileY := 0x80000000, id := BitVec.ofNat 32 l, body := leBytes 4 l }
  if s.defers pr.toNat then
    ({ s with reef := { s.reef with slots := s.reef.slots ++ [(l, 0)] } }).submitRec r
  else
    let a := s.acceptPage 6 l (ix.page l)
    let s1 : State := { a.2 with reef := { a.2.reef with slots := (a.2.reef.slots.filter fun e => e.1 != l) ++ [(l, a.1)] } }
    s1.submitRec { r with body := leBytes 4 l ++ leBytes 4 0 ++ leBytes 8 a.1 }

/-- An update (R315): the updater's newest state, its pages in the rewrite buffer, their records submitted. -/
def State.applyUpdate (s : State) (ix : Index) (pr : BitVec 2) : State :=
  let pages := changedPages s.reef.newest ix
  if pages = [] then s
  else
    let s1 : State := { s with reef := { s.reef with newest := ix, updates := s.reef.updates ++ [{ after := ix, pages := pages }] } }
    (pages.foldl (fun s l => s.submitIndex ix pr l) s1).reefSync

/-- Solver, engines and updater start nothing new: shed (16 R433) or held by the power cap (16 R431). -/
def State.reefHeld (s : State) : Bool := s.pwr.shed || s.pwr.engineHold

/-- Has the updater paused. -/
def State.reefPaused (s : State) : Bool := s.fld R.REEF_STATUS R.REEF_STATUS_paused == 1

/-- May the updater take an update now: it pauses on a full buffer (R315, R316). -/
def State.updaterReady (s : State) : Bool × State :=
  if s.reefState ≠ 1 ∨ s.reefPaused ∨ s.reefHeld ∨ s.map.refuse then (false, s)
  else if 4096 ≤ s.bufUsed then (false, (s.setFld R.REEF_STATUS R.REEF_STATUS_paused 1).setLevel 195 true)
  else (true, s)

/-- Insert a keyframe (R314, R317). -/
def State.reefInsert (s : State) (kf sketch : Nat) (desc : List Byte) (tx ty : BitVec 32) (sensor tKf : Nat) : State :=
  let ix := s.reef.newest
  let id := match s.reef.freeIds with
    | n :: _ => some n
    | [] => if s.reef.high < 2 ^ 32 then some s.reef.high else none
  match id with
  | none => (s.inc R.REEF_INS_FAIL).raise 196
  | some n =>
    let beam := 4 * s.cfgFld R.REEF_INS_CFG R.REEF_INS_CFG_ins_beam_q4
    let near := (ix.nearest beam (s.cfgFld R.REEF_INS_CFG R.REEF_INS_CFG_ins_hops) sketch).take 32
    let v : Node := { sketch := sketch, nbr := near.map fun m => (m, (ix.node m).gen % 256), gen := ((ix.node n).gen + 1) % 65536, state := 1
                      entry := decide (ix.entries.length < 64), tileX := tx, tileY := ty, keyframe := kf, sensor := sensor, tKf := tKf, desc := desc }
    let ix1 := near.foldl (fun x b => Index.backEdge x n b) (ix.set n v)
    let s1 : State := { s with reef := { s.reef with freeIds := s.reef.freeIds.filter fun m => m != n, high := max s.reef.high (n + 1) } }
    (s1.inc R.REEF_INSERTS).applyUpdate ix1 1

/-- Delete a node (R314, R318). -/
def State.reefDelete (s : State) (n : Nat) : State :=
  let ix := s.reef.newest
  let v := ix.node n
  if v.state ≠ 1 then s
  else
    let ix1 := ix.set n { v with state := 2, gen := (v.gen + 1) % 65536, entry := false }
    let heirs := v.nbr.filter fun e => ix1.usable e && !(ix1.node e.1).entry
    let best := heirs.foldl (fun (a : Option (Nat × Nat)) e =>
      let k := (hamming v.sketch (ix1.node e.1).sketch, e.1)
      match a with
      | some b => if nearer k b then some k else a
      | none => some k) none
    let ix2 := match v.entry, best with
      | true, some b => ix1.set b.2 { ix1.node b.2 with entry := true }
      | _, _ => ix1
    (s.inc R.REEF_DELETES).applyUpdate ix2 1

/-- The row REEF_INSERT: the updater takes the oldest request if it is an insertion. -/
def State.takeInsert (s : State) : State :=
  let r := s.updaterReady
  match r.1, r.2.reef.reqs with
  | true, .insert kf sk d tx ty se t :: q => ({ r.2 with reef := { r.2.reef with reqs := q } }).reefInsert kf sk d tx ty se t
  | _, _ => r.2

/-- The row REEF_DELETE of node `n`: the updater takes the request if it is the oldest. -/
def State.takeDelete (s : State) (n : Nat) : State :=
  let r := s.updaterReady
  match r.1, r.2.reef.reqs with
  | true, .delete m :: q => if m = n then ({ r.2 with reef := { r.2.reef with reqs := q } }).reefDelete m else r.2
  | _, _ => r.2

/-- Compact one LIVE node (R319): the node, edges removed, edges added. -/
def Index.compactNode (x : Index) (n : Nat) : Index × Nat × Nat :=
  let v := x.node n
  let keep := v.nbr.filter x.usable
  let gone := v.nbr.filter fun e => !x.usable e
  let cands := (gone.filter fun e => (x.node e.1).state == 2).foldl (fun (l : List (Nat × Nat)) e =>
    let t := (x.node e.1).nbr.filter fun m => x.usable m && m.1 != n && !(l.any fun k => k.1 == m.1)
    let t2 := sortBy (fun (a b : Nat × Nat) => nearer (hamming v.sketch (x.node a.1).sketch, a.1) (hamming v.sketch (x.node b.1).sketch, b.1)) t
    (l ++ t2).take 32) keep
  let nbr := cands.map fun e => (e.1, if keep.contains e then e.2 else (x.node e.1).gen % 256)
  (x.set n { v with nbr := nbr }, gone.length, nbr.length - keep.length)

/-- Does compaction read node page `l` from the flash (R311, R316). -/
def State.sweepReads (s : State) (l : Nat) : Bool := s.reef.newest.mapped l && !(s.reef.slots.any fun e => e.1 == l)

/-- The tombstones of an index. -/
def Index.tombs (x : Index) : List Nat := x.nodes.filterMap fun e => if e.2.state = 2 then some e.1 else none

/-- Compact page `l`, whose read has ended (R319); `readable`: it ended well. A sweep begins with page 0 and frees, at its end, the tombstones that
stood at its beginning. -/
def State.compactAt (s : State) (l : Nat) (readable : Bool) (t : Nat) : State :=
    let s0 : State := { s with reef := { s.reef with swept := s.reef.swept ++ [t]
                                                     sweepBegan := if l = 0 then s.reef.newest.tombs else s.reef.sweepBegan } }
    let s1 :=
      if readable then
        let ids := (s0.reef.newest.nodes.filter fun e => e.1 / 64 == l && e.2.state == 1).map fun e => e.1
        let c := ids.foldl (fun (a : Index × Nat × Nat) n =>
          let t := a.1.compactNode n
          (t.1, a.2.1 + t.2.1, a.2.2 + t.2.2)) (s0.reef.newest, 0, 0)
        ((s0.addTo R.REEF_EDGES_REMOVED c.2.1).addTo R.REEF_EDGES_ADDED c.2.2).applyUpdate c.1 2
      else
        (({ s0 with reef := { s0.reef with sweepBad := s0.reef.sweepBad ++ [l] } }).inc R.REEF_READ_ERR).raise 194
    if s1.reef.high ≤ 64 * (l + 1) then
      -- the sweep is complete
      let done := s1.reef.sweepBegan.filter fun n => (s1.reef.newest.node n).state == 2 && !s1.reef.sweepBad.contains (n / 64)
      let ix := done.foldl (fun (x : Index) n => x.set n { gen := (x.node n).gen }) s1.reef.newest
      let s2 := ((s1.applyUpdate ix 2).addTo R.REEF_FREED done.length).inc R.REEF_SWEEPS
      (({ s2 with reef := { s2.reef with freeIds := sortBy (fun (a b : Nat) => decide (a < b)) (s2.reef.freeIds ++ done)
                                         sweepBegan := [], sweepBad := [] } }).setReg R.REEF_SWEEP_PAGE 0).reefRegs
    else s1.setReg R.REEF_SWEEP_PAGE (l + 1)

/-- Compaction of the page being swept (R319): not more than pages_per_s pages within a second; the command starts the read of a page that stands in
the flash, at class 14 (10 R273), and sweeps the page once that read has ended. -/
def State.compactPage (s : State) (readable : Bool) (t : Nat) : State :=
  let r := s.updaterReady
  let late := s.reef.swept.filter fun u => decide (t < u + 1000000000)
  if !r.1 || !s.cfgBit R.REEF_CFG R.REEF_CFG_compact_en || decide (s.cfgFld R.REEF_COMPACT_CFG R.REEF_COMPACT_CFG_pages_per_s ≤ late.length) then r.2
  else
    let s0 : State := { r.2 with reef := { r.2.reef with swept := late } }
    let l := s0.reg R.REEF_SWEEP_PAGE
    if !s0.sweepReads l then s0.compactAt l true t
    else if s0.readWaits (.sweep l) then s0
    else if s0.map.reads.any fun q => q.who == .sweep l then (s0.endReads (.sweep l)).compactAt l readable t
    else s0.askRead (SMap.get (fun _ => 0) s0.map.content.index l / 2 ^ 28) 14 (.sweep l)

/-- The paused updater resumes when slots are free (R316). -/
def State.updaterResume (s : State) : State :=
  let s1 := s.trimBuf
  if s1.reefPaused ∧ s1.bufUsed < 4096 then (s1.setFld R.REEF_STATUS R.REEF_STATUS_paused 0).setLevel 195 false else s1

/-- A query record (R320). -/
def parseQuery (b : List Byte) : Query :=
  let f := fun (o n : Nat) => leAt b o n
  { cookie := f 0 8, beam := f 8 2, hopLimit := f 0xA 2, rerank := f 0xC 2, k := f 0xE 1, cls := f 0xF 1, filterEn := f 0x10 1
    sensorMask := f 0x11 1, region := (upTo 4).map fun i => sext 32 (f (0x18 + 4 * i) 4), tMin := f 0x28 8, tMax := f 0x30 8
    ageMin := f 0x38 4, ageMax := f 0x3C 4, sketch := f 0x40 32, desc := (b.drop 0x60).take 256 }

/-- The ranges of R320. -/
def Query.ok (q : Query) : Bool :=
  let rg := fun (i : Nat) => nthD 0 q.region i
  decide (16 ≤ q.beam) && decide (q.beam ≤ 256) && decide (1 ≤ q.hopLimit) && decide (q.hopLimit ≤ 65535) &&
  (decide (q.rerank = 0) || (decide (q.k ≤ q.rerank) && decide (q.rerank ≤ q.beam))) && decide (1 ≤ q.k) && decide (q.k ≤ 64) &&
  decide (1 ≤ q.cls) && decide (q.cls ≤ 15) && (!bitOf q.filterEn 0 || (decide (rg 0 ≤ rg 2) && decide (rg 1 ≤ rg 3))) &&
  (!bitOf q.filterEn 1 || decide (q.tMin ≤ q.tMax))

/-- Does a node pass the enabled filters (R325). -/
def Query.keeps (q : Query) (tSubmit : Nat) (v : Node) : Bool :=
  let rg := fun (i : Nat) => nthD 0 q.region i
  let age : Int := (tSubmit : Int) - v.tKf
  (!bitOf q.filterEn 0 || (decide (rg 0 ≤ v.tileX.toInt) && decide (v.tileX.toInt ≤ rg 2) && decide (rg 1 ≤ v.tileY.toInt) && decide (v.tileY.toInt ≤ rg 3))) &&
  (!bitOf q.filterEn 1 || (decide (q.tMin ≤ v.tKf) && decide (v.tKf ≤ q.tMax))) &&
  (!bitOf q.filterEn 2 || decide (v.sensor % 16 &&& q.sensorMask % 16 ≠ 0)) &&
  (!bitOf q.filterEn 3 || (decide ((q.ageMin * 1000000000 : Nat) ≤ age) && (decide (q.ageMax = 0) || decide (age ≤ (q.ageMax * 1000000000 : Nat)))))

/-- A result before it is written: header fields and entries (R326). -/
structure Result where
  cookie : Nat
  tSubmit : Nat
  version : Nat := 0
  status : Nat
  flags : Nat := 0
  engine : Nat := 0xFF
  hops : Nat := 0
  reads : Nat := 0
  stale : Nat := 0
  filtered : Nat := 0
  duration : Nat := 0
  entries : List (List (Nat × Nat)) := []   -- size and value of each field

/-- The fields of a result record (R326). -/
def Result.fields (r : Result) (tDone : Nat) : List (Nat × Nat × Nat) :=
  [(8, 8, r.cookie), (0x10, 8, r.tSubmit), (0x18, 8, tDone), (0x20, 8, r.version), (0x28, 1, r.status), (0x29, 1, r.flags),
   (0x2A, 1, r.entries.length), (0x2B, 1, r.engine), (0x2C, 4, r.hops), (0x30, 4, r.reads), (0x34, 2, r.stale), (0x36, 2, r.filtered),
   (0x38, 4, r.duration)] ++
  r.entries.zipIdx.flatMap fun e => (e.1.foldl (fun (a : Nat × List (Nat × Nat × Nat)) f =>
    (a.1 + f.1, a.2 ++ [(a.1, f.1, f.2)])) (0x40 + 32 * e.2, [])).2

/-- Write a result: the host's to the SEARCH ring, the solver's to its ring, and with mirror to the SEARCH ring (R321, R322). -/
def State.writeResult (s : State) (host : Bool) (r : Result) : State :=
  let f := r.fields s.tb0
  if host then s.ringWrite 3 2112 f (some 192)
  else
    let q := s.reef.ringSeq + 1
    let s1 := if s.reef.ringObj = 0 then s
      else s.store (placedAddr s.reef.ringObj + (q - 1) % 4 * 2112) (record 2112 ((0, 8, q) :: f))
    let s2 : State := { s1 with reef := { s1.reef with ringSeq := q, fresh := s1.reef.fresh ++ [(q - 1) % 4] } }
    if s.cfgBit R.REEF_CFG R.REEF_CFG_mirror then s2.ringWrite 3 2112 f (some 192) else s2

/-- The host bank of a PLACE_QUERY: one of its admitted queries has its result; the command completes with the last (R322). -/
def State.queryEnded (s : State) (host : Option Nat) : State :=
  match host with
  | none => s
  | some b =>
    let m : Master := if b = 0 then .chain else .host
    let left := s.dev.jobs.findSome? fun j => match j with
      | (m', .query n) => if m' = m then some n else none
      | _ => none
    match left with
    | some n =>
      if n ≤ 1 then s.finishCmd m .done
      else { s with dev := { s.dev with jobs := s.dev.jobs.map fun j => match j with
          | (m', .query k) => if m' = m then (m', .query (k - 1)) else j
          | _ => j } }
    | none => s

/-- The exact distance of R324. -/
def exactDist (a b : List Byte) : Nat :=
  (List.zipWith (fun (x y : Byte) => ((x.toInt - y.toInt) * (x.toInt - y.toInt)).toNat) a (padTo 256 b)).foldl (· + ·) 0 % 2 ^ 32

/-- A search ends: its list is formed, filtered, cut to k and written (R324–R326, R329). -/
def State.finishSearch (s : State) (c : Ctx) : State :=
  let q := c.q
  let kept := c.list.filter fun e => q.keeps c.tSubmit (c.index.node e.2)
  let filtered := c.list.length - kept.length
  let readable := fun (e : Nat × Nat) => decide (q.rerank = 0) || !c.badCws.contains ((descPage + e.2 / 64) * 4 + e.2 % 64 / 16)
  let usable := kept.filter readable
  let exact := fun (e : Nat × Nat) => if q.rerank = 0 then 0xFFFFFFFF else exactDist q.desc (c.index.node e.2).desc
  let order := if q.rerank = 0 then usable
    else sortBy (fun (a b : Nat × Nat) => nearer (exact a, a.2) (exact b, b.2)) usable
  let out := order.take q.k
  let short := decide (out.length < q.k)
  let err := c.readErr || decide (usable.length < kept.length)
  let entries := out.map fun e =>
    let v := c.index.node e.2
    [(4, e.2), (2, v.gen), (2, e.1), (4, exact e), (4, v.keyframe), (4, v.tileX.toNat), (4, v.tileY.toNat), (8, v.tKf)]
  let s1 : State := { s with reef := { s.reef with ctxs := s.reef.ctxs.filter fun d => d != c } }
  let s2 := s1.addTo R.REEF_STALE_EDGES c.stale
  let s3 := if short then s2.inc R.REEF_SHORT else s2
  let s4 := if c.hopFlag then s3.inc R.REEF_HOP_LIMIT else s3
  ((s4.writeResult c.host.isSome {
      cookie := q.cookie, tSubmit := c.tSubmit, version := c.version, status := 0,
      flags := b2n short + 2 * b2n c.hopFlag + 4 * b2n err, engine := c.engine, hops := c.hops, reads := c.reads, stale := c.stale,
      filtered := filtered, duration := (s.tb3 - c.since) / 1000, entries := entries }).queryEnded c.host).reefSync

/-- Apply the expansion of the node in `cur` once its reads have returned (R323). -/
def Ctx.applyExpansion (c : Ctx) (n : Nat) : Ctx :=
  let d := (c.index.node n).nbr.foldl (fun (c : Ctx) e =>
    let stale := !c.index.usable e
    match c.visited.find? fun v => v.1 == e.1 with
    | some v => if v.2 && stale then { c with stale := c.stale + 1 } else c
    | none =>
      let bad := c.badCws.contains (e.1 / 64 * 4 + e.1 % 64 / 16)
      let c1 := { c with visited := (e.1, !bad) :: c.visited }
      if bad then { c1 with readErr := true }
      else if stale then { c1 with stale := c1.stale + 1 }
      else { c1 with queue := queueAdd c.q.beam (hamming c.q.sketch (c.index.node e.1).sketch) e.1 c1.queue }) c
  { d with cur := none, badCws := [] }

/-- The codewords of node records that an expansion needs from flash: unvisited neighbours on mapped pages. -/
def Ctx.nodeCws (c : Ctx) (n : Nat) : List Nat :=
  (((c.index.node n).nbr.filter fun e => !(c.visited.any fun v => v.1 == e.1) && c.index.mapped (e.1 / 64)).map
    fun e => e.1 / 64 * 4 + e.1 % 64 / 16).eraseDups

/-- Does the rewrite buffer hold the copy of index page `l` that a query at version `v` reads (R316): the page as rewritten, or the copy that a later
version replaced. -/
def State.inBuffer (s : State) (v l : Nat) : Bool :=
  (s.reef.slots.any fun e => e.1 == l) || s.reef.olds.any fun e => decide (v < e.1) && e.2.contains l

/-- Issue the reads of a context (R316, R328): a codeword in the rewrite buffer or in the engine's cache is not read; one in
flight for another context of the engine at this version is waited for; the others queue at their channel with the query's class (10 R273). -/
def State.needCodewords (s : State) (c : Ctx) (cws : List Nat) : State × Ctx :=
  let cached := SMap.get (fun _ => ([] : List (Nat × Nat))) s.reef.caches c.engine
  let need := cws.filter fun w => !cached.contains (w, c.version) && !s.inBuffer c.version (w / 4)
  let new := need.filter fun w => !(s.reef.ctxs.any fun d => d.engine == c.engine && d.version == c.version && d != c && d.cws.contains w)
  let s1 := new.foldl (fun (s : State) w =>
    s.askRead (SMap.get (fun _ => 0) s.map.content.index (w / 4) / 2 ^ 28) c.q.cls (.codeword c.engine w c.version)) s
  (s1.setReg (R.REEF_ENG_READS + 0x10 * c.engine) ((s1.reg (R.REEF_ENG_READS + 0x10 * c.engine) + new.length) % 2 ^ 32),
   { c with cws := need, reads := c.reads + new.length })

/-- Replace a context. -/
def State.putCtx (s : State) (old new : Ctx) : State :=
  { s with reef := { s.reef with ctxs := s.reef.ctxs.map fun d => if d = old then new else d } }

/-- Run a context until it parks or ends (R323, R324, R328), with fuel. -/
def State.runCtx (s : State) (old c : Ctx) : Nat → State
  | 0 => s.putCtx old c
  | k + 1 =>
    if s.pwr.shed || s.reef.off then s.putCtx old c
    else
      match c.phase, c.cur with
      | .walk, some n =>
        if c.cws = [] then s.runCtx old (c.applyExpansion n) k else s.putCtx old c
      | .walk, none =>
        let stop := fun (c : Ctx) =>
          let list := (c.queue.map fun e => (e.1, e.2.1)).take (if c.q.rerank = 0 then c.q.beam else c.q.rerank)
          let want := if c.q.rerank = 0 then [] else
            ((list.filter fun e => c.q.keeps c.tSubmit (c.index.node e.2)).map fun e => (descPage + e.2 / 64) * 4 + e.2 % 64 / 16).eraseDups
          let r := s.needCodewords { c with phase := .rerank, list := list } want
          if r.2.cws = [] then (r.1.putCtx old r.2).finishSearch r.2 else r.1.putCtx old r.2
        match c.queue.find? fun e => !e.2.2 with
        | none => stop c
        | some e =>
          if c.q.hopLimit ≤ c.hops then stop { c with hopFlag := true }
          else
            let c1 := { c with hops := c.hops + 1, cur := some e.2.1
                               queue := c.queue.map fun x => if x.2.1 = e.2.1 then (x.1, x.2.1, true) else x }
            let r := s.needCodewords c1 (c1.nodeCws e.2.1)
            r.1.runCtx old r.2 k
      | .rerank, _ => if c.cws = [] then (s.putCtx old c).finishSearch c else s.putCtx old c

/-- Expansions a run can make, twice over. -/
def Ctx.fuel (c : Ctx) : Nat := 2 * c.q.hopLimit + 4

/-- A codeword read returns (R328, R329): engine, codeword, version, whether it could be read. -/
def State.codewordDone (s0 : State) (e w v : Nat) (ok : Bool) : State :=
  let s := s0.endReads (.codeword e w v)
  let hit := s.reef.ctxs.filter fun c => c.engine == e && c.version == v && c.cws.contains w
  let s1 := if ok then
      let l := SMap.get (fun _ => ([] : List (Nat × Nat))) s.reef.caches e
      { s with reef := { s.reef with caches := SMap.set (fun _ => []) s.reef.caches e (((w, v) :: l).take 256) } }
    else if hit = [] then s else (s.inc R.REEF_READ_ERR).raise 194
  (hit.foldl (fun (s : State) c =>
    let c1 := { c with cws := c.cws.filter fun x => x != w, badCws := if ok then c.badCws else c.badCws ++ [w] }
    if c1.cws = [] then s.runCtx c c1 c1.fuel else s.putCtx c c1) s1).reefRegs

/-- CODEWORD_READ_DONE: a read that still waits at its channel cannot have returned (10 R273). -/
def State.codewordBack (s : State) (e w v : Nat) (ok : Bool) : State :=
  if s.readWaits (.codeword e w v) then s else s.codewordDone e w v ok

/-- Resume the contexts that shedding has kept from going on (16 R434). -/
def State.resumeCtxs (s : State) : State :=
  s.reef.ctxs.foldl (fun (s : State) c => if c.cws = [] then s.runCtx c c c.fuel else s) s

/-- A query that is not admitted: its result (R320, R322, R327). -/
def State.refuseQuery (s : State) (host : Bool) (q : Query) (status : Nat) : State :=
  let s1 := s.writeResult host { cookie := q.cookie, tSubmit := s.tb0, status := status }
  if status = 1 then (s1.inc R.REEF_BUSY).raise 193
  else if status = 3 then s1.inc R.REEF_BAD_QUERY
  else s1

/-- Free contexts of an engine. -/
def State.freeCtx (s : State) (e : Nat) : Nat := 256 - (s.reef.ctxs.filter fun c => c.engine == e).length

/-- The steering share of an engine (R327). -/
def State.shareOf (s : State) (e : Nat) : Nat := nthD 1 s.reef.shares e

/-- The engine that takes a query of class `cls` (R327): the one whose free contexts, times its steering share, are most, the lowest on a tie
(log entry 61). -/
def State.pickEngine (s : State) (cls : Nat) : Option Nat :=
  let may := fun (e : Nat) => decide ((if 3 < cls then s.cfgFld R.REEF_CFG R.REEF_CFG_ctx_reserve else 0) < s.freeCtx e)
  (upTo 16).foldl (fun a e =>
    if may e then
      match a with
      | some b => if s.shareOf b * s.freeCtx b < s.shareOf e * s.freeCtx e then some e else a
      | none => some e
    else a) none

/-- The status that a query would be refused with, none when an engine takes it (R320, R322, R327). -/
def State.queryStatus (s : State) (q : Query) : Option Nat :=
  if !q.ok then some 3
  else if s.reefState = 0 ∨ s.reefState = 3 then some 4
  else if s.reefHeld then some 1
  else
    match s.pickEngine q.cls with
    | some _ => none
    | none => some 1

/-- Admit a query into a context (R323, R327). -/
def State.admitQuery (s : State) (host : Option Nat) (q : Query) : State :=
  match s.pickEngine q.cls with
  | none => s
  | some e =>
    let ix := s.reef.visible
    let c : Ctx := { engine := e, host := host, q := q, index := ix, version := s.reefVersion, tSubmit := s.tb0, since := s.tb3
                     queue := ix.seed q.beam q.sketch, visited := ix.entries.map fun n => (n, true) }
    let s1 : State := { s with reef := { s.reef with ctxs := s.reef.ctxs ++ [c] } }
    let s2 := (s1.incWrap (R.REEF_ENG_QUERIES + 0x10 * e)).inc R.REEF_QUERIES
    (s2.reefRegs).runCtx c c c.fuel

/-- A query of the host or the solver; whether it was admitted. -/
def State.sendQuery (s : State) (host : Option Nat) (q : Query) : Bool × State :=
  match s.queryStatus q with
  | some st => (false, s.refuseQuery host.isSome q st)
  | none => (true, s.admitQuery host q)

/-- A query has run for REEF_QUERY_TMO (R329): the `k`-th context. -/
def State.queryTimeout (s : State) (k t : Nat) : State :=
  match s.reef.ctxs[k]? with
  | none => s
  | some c =>
    if c.since + s.cfgReg R.REEF_QUERY_TMO * 1000000 ≤ t then
      let s1 : State := { s with reef := { s.reef with ctxs := s.reef.ctxs.eraseIdx k } }
      ((((s1.addTo R.REEF_STALE_EDGES c.stale).inc R.REEF_TIMEOUT).writeResult c.host.isSome {
          cookie := c.q.cookie, tSubmit := c.tSubmit, version := c.version, status := 2,
          flags := 4 * b2n c.readErr, engine := c.engine, hops := c.hops, reads := c.reads, stale := c.stale
          duration := (t - c.since) / 1000 }).queryEnded c.host).reefSync
    else s

/-- The queries of a PLACE_QUERY (R322): what the command completes with at its slot. -/
def State.placeQueries (s : State) (bank : Nat) (block : List Byte) : CStatus × Nat × State :=
  let n := leAt block 0 2
  let qs := (upTo n).map fun i => parseQuery ((block.drop (64 + 384 * i)).take 384)
  let r := qs.foldl (fun (a : Nat × State) q =>
    let t := a.2.sendQuery (some bank) q
    (a.1 + b2n t.1, t.2)) (0, s)
  (if r.1 = 0 then .busy else .accepted, r.1, r.2)

/-- Objects of the Reef engines, at LOAD (R314, R316, R321). -/
def State.reefLoad (s : State) : State :=
  let a := s.allocSystem 16384 0x84 2 1
  let b := a.2.allocSystem 0x4000000 0x84 3 1
  let c := b.2.allocSystem (4 * 2112) 0x84 3 1
  let s1 : State := { c.2 with reef := { c.2.reef with entryObj := a.1, bufferObj := b.1, ringObj := c.1 } }
  s1.setReg64 R.REEF_GSOL_RING_LO (placedAddr c.1)

/-- At the end of a mount: the index as of the last durable commit, and what differs from the keyframes (R316). The sensor_mask of a keyframe's pose
record stands in no record of the map: the sensor_class of a node inserted again is a free value (log entry 140). -/
def State.reefMount (s : State) : State :=
  let ix := s.mountIndex
  let high := ix.nodes.foldl (fun m e => max m (e.1 + 1)) 0
  let free := ix.nodes.filterMap fun e => if e.2.state = 0 then some e.1 else none
  let kfs := sortBy (fun (a b : MapRec) => decide (a.id < b.id)) (s.map.content.recs.filter fun r => r.typ == 3)
  let live := ix.nodes.filter fun e => e.2.state == 1
  let ins := kfs.filterMap fun r =>
    if live.any fun e => e.2.keyframe == r.id.toNat then none
    else
      (s.map.content.recs.find? fun k => k.typ == 4 && k.id == r.id).map fun k =>
        (UpReq.insert r.id.toNat (leAt k.body 16 32) ((k.body.drop 48).take 256) r.tileX r.tileY (Config.sensorClass s.freeCount r.id.toNat).toNat
          (leAt r.body 48 8))
  let del := live.filterMap fun e => if kfs.any fun r => r.id.toNat == e.2.keyframe then none else some (UpReq.delete e.1)
  let s1 : State := { s with reef := { s.reef with newest := ix, visible := ix, high := high, freeIds := free, updates := [], slots := []
                                                   olds := [], caches := [], sweepBegan := [], sweepBad := [], reqs := ins ++ del } }
  (s1.tick.setReg R.REEF_SWEEP_PAGE 0).entryTable.reefRegs

end Sys2Proof.Machine
end

