-- ==== Sys2Proof/Machine/Solver.lean ====
section
/-! DEFINITION. The arithmetic of an optimisation (spec 09 R249–R252): residuals and their derivatives in F32, normal equations of blocks,
elimination, Cholesky factors, the iterations of Levenberg–Marquardt. The order of the F32 operations within one formula is the model's (log
entry 132); what the rules leave open of the method is in log entry 136. -/
namespace Sys2Proof.Machine

/-- A matrix of F32 elements, by rows. -/
abbrev Mat := List (List Nat)

/-- Element (i, j). -/
def Mat.elem (m : Mat) (i j : Nat) : Nat := nthD 0 (nthD [] m i) j

/-- An F16 value as F32. -/
def f32OfF16 (c : Nat) : Nat := (fencode .f32 false (fdecode .f16 c)).1

/-- The transpose of a matrix. -/
def Mat.trans (m : Mat) : Mat := (upTo (nthD [] m 0).length).map fun j => m.map fun r => nthD 0 r j

/-- Product with a vector. -/
def Mat.vec (m : Mat) (v : List Nat) : List Nat := m.map fun r => f32Dot r v

/-- Product. -/
def Mat.mul (a b : Mat) : Mat := a.map (b.trans.vec ·)

/-- Sum of two vectors. -/
def vecAdd (a b : List Nat) : List Nat := (a.zip b).map fun e => f32Add e.1 e.2

/-- Difference of two vectors. -/
def vecSub (a b : List Nat) : List Nat := (a.zip b).map fun e => f32Sub e.1 e.2

/-- Sum of two matrices. -/
def Mat.add (a b : Mat) : Mat := (a.zip b).map fun e => vecAdd e.1 e.2

/-- Difference of two matrices. -/
def Mat.sub (a b : Mat) : Mat := (a.zip b).map fun e => vecSub e.1 e.2

/-- A matrix with the signs of its elements changed. -/
def Mat.neg (m : Mat) : Mat := m.map fun r => r.map f32Neg

/-- Two matrices side by side. -/
def Mat.beside (a b : Mat) : Mat := (a.zip b).map fun e => e.1 ++ e.2

/-- The zero matrix of 3 × 3 elements. -/
def zero3 : Mat := List.replicate 3 [0, 0, 0]

/-- The unit matrix of 3 × 3 elements. -/
def unit3 : Mat := [[f32One, 0, 0], [0, f32One, 0], [0, 0, f32One]]

/-- The matrix that takes from a vector its part along the unit vector `u`. -/
def V3.across (u : V3) : Mat := (unit3.zip u.list).map fun e => vecSub e.1 (u.scale e.2).list

/-- The matrix of the cross product with a vector. -/
def V3.skew (v : V3) : Mat := [[0, f32Neg v.z, v.y], [v.z, 0, f32Neg v.x], [f32Neg v.y, v.x, 0]]

/-- The rotation matrix of the inverse of a unit quaternion: its rows are the axes rotated. -/
def Quat.inverseMat (q : Quat) : Mat := unit3.map fun r => (q.rot (V3.of r)).list

/-- The rotation matrix of a unit quaternion. -/
def Quat.mat (q : Quat) : Mat := q.conj.inverseMat

/-- A node in an optimisation (R248, R249): keyframe, position, attitude, the anchor of its tile, whether it is held fixed. -/
structure GPose where
  kf : Nat
  pos : List (BitVec 64)
  q : Quat
  anchor : List Int
  fixed : Bool

/-- A landmark in an optimisation (R253): its number and its position. -/
structure GPoint where
  num : Nat
  pos : List (BitVec 64)

/-- A constraint of an optimisation: the pose of keyframe `b` in the frame of `a`; a point seen by a sensor that is mounted at a place and
attitude relative to the keyframe's body, whole or only its direction. -/
inductive Con where
  | rel (a b : Nat) (z sigma : List Nat)
  | sight (kf pt : Nat) (bearing : Bool) (t : V3) (q : Quat) (z sigma : List Nat)

/-- An optimisation: landmarks in ascending index, nodes in elimination order, constraints in ascending index. -/
structure Problem where
  points : List GPoint
  poses : List GPose
  cons : List Con

/-- The variable of a landmark. -/
def pointVar (num : Nat) : Nat := 2 * num

/-- The variable of a keyframe. -/
def poseVar (kf : Nat) : Nat := 2 * kf + 1

/-- The variables in the order of their elimination (R250, R251): landmarks, then the nodes that are not fixed. -/
def Problem.vars (p : Problem) : List Nat :=
  (p.points.map fun x => pointVar x.num) ++ (p.poses.filter fun x => !x.fixed).map fun x => poseVar x.kf

/-- A constraint's residual and its derivative with regard to each variable, both divided by the standard deviations. -/
structure Lin where
  r : List Nat
  js : List (Nat × Mat)

/-- Divide a residual and its derivatives by the standard deviations. -/
def Lin.whiten (l : Lin) (sigma : List Nat) : Lin :=
  { r := (l.r.zip sigma).map fun e => f32Div e.1 e.2
    js := l.js.map fun j => (j.1, (j.2.zip sigma).map fun e => e.1.map fun x => f32Div x e.2) }

/-- A position relative to an anchor (R249). -/
def localPos (anchor : List Int) (p : List (BitVec 64)) : V3 := V3.between (p.map fun x => x.toInt) anchor

/-- The residual of a relative pose (R249): both positions relative to the anchor of the first node. -/
def relLin (x y : GPose) (z : List Nat) : Lin :=
  let t := x.q.conj.rot ((localPos x.anchor y.pos).sub (localPos x.anchor x.pos))
  let qz := Quat.ofVec (V3.of (z.drop 3))
  let q := x.q.conj.mul y.q
  let rt := x.q.inverseMat
  let ja := ((rt.neg).beside t.skew) ++ zero3.beside (q.inverseMat).neg
  let jb := (rt.beside zero3) ++ zero3.beside unit3
  { r := (t.sub (V3.of z)).list ++ (qz.conj.mul q).toVec.list, js := [(poseVar x.kf, ja), (poseVar y.kf, jb)] }

/-- The residual of a sighting (R249, 08 R227): the point in the sensor's frame, or its direction. -/
def sightLin (x : GPose) (l : GPoint) (bearing : Bool) (t : V3) (q : Quat) (z : List Nat) : Lin :=
  let v := x.q.conj.rot ((localPos x.anchor l.pos).sub (localPos x.anchor x.pos))
  let p := q.conj.rot (v.sub t)
  let rs := q.inverseMat
  let rk := x.q.inverseMat
  let n := p.norm
  let u := p.scale (f32Div f32One n)
  let m : Mat := if bearing then Mat.mul (u.across.map fun r => r.map fun c => f32Div c n) rs else rs
  { r := ((if bearing then u else p).sub (V3.of z)).list
    js := [(poseVar x.kf, (m.mul rk).neg.beside (m.mul v.skew)), (pointVar l.num, m.mul rk)] }

/-- The node of a keyframe. -/
def Problem.pose (p : Problem) (kf : Nat) : Option GPose := p.poses.find? fun x => decide (x.kf = kf)

/-- A landmark by its number. -/
def Problem.point (p : Problem) (n : Nat) : Option GPoint := p.points.find? fun x => decide (x.num = n)

/-- A constraint at the present poses; one that names no node of the optimisation says nothing. -/
def Problem.linear (p : Problem) : Con → Lin
  | .rel a b z sigma =>
    match p.pose a, p.pose b with
    | some x, some y => (relLin x y z).whiten sigma
    | _, _ => ⟨[], []⟩
  | .sight kf pt bearing t q z sigma =>
    match p.pose kf, p.point pt with
    | some x, some l => (sightLin x l bearing t q z).whiten sigma
    | _, _ => ⟨[], []⟩

/-- The squared length of a residual: a constraint's normalised squared residual (R263). -/
def Lin.cost (l : Lin) : Nat := f32Dot l.r l.r

/-- The cost of all constraints. -/
def linCost (l : List Lin) : Nat := f32Sum (l.map Lin.cost)

/-- Blocks of the normal equations by their two variables. -/
abbrev Blocks := List ((Nat × Nat) × Mat)

/-- Block (i, j), if there is one. -/
def Blocks.find (h : Blocks) (i j : Nat) : Option Mat := (List.find? (fun e => e.1 == (i, j)) h).map fun e => e.2

/-- Add a contribution to block (i, j). -/
def Blocks.addTo (h : Blocks) (i j : Nat) (m : Mat) : Blocks :=
  match h.find i j with
  | some _ => h.map fun e => if e.1 == (i, j) then (e.1, e.2.add m) else e
  | none => ((i, j), m) :: h

/-- The normal equations: the blocks, and the right-hand side of each variable. -/
structure Normal where
  h : Blocks := []
  b : List (Nat × List Nat) := []

/-- The right-hand side of a variable. -/
def Normal.rhs (n : Normal) (i : Nat) : List Nat :=
  match n.b.find? fun e => e.1 == i with
  | some e => e.2
  | none => []

/-- A vector added to the right-hand side of a variable. -/
def Normal.addRhs (n : Normal) (i : Nat) (v : List Nat) : Normal :=
  if n.b.any fun e => e.1 == i then { n with b := n.b.map fun e => if e.1 == i then (e.1, vecAdd e.2 v) else e }
  else { n with b := (i, v) :: n.b }

/-- The contribution of a constraint (R250 step 1): for the variables that are not fixed. -/
def Normal.addLin (vars : List Nat) (n : Normal) (l : Lin) : Normal :=
  let js := l.js.filter fun j => vars.contains j.1
  js.foldl (fun (n : Normal) i =>
    let t := i.2.trans
    let n1 := js.foldl (fun (m : Normal) j => { m with h := m.h.addTo i.1 j.1 (t.mul j.2) }) n
    n1.addRhs i.1 ((t.vec l.r).map f32Neg)) n

/-- The normal equations of constraints: each block sums its contributions in ascending constraint index (R250 step 1). -/
def normalOf (vars : List Nat) (l : List Lin) : Normal := l.foldl (Normal.addLin vars) {}

/-- Damping by λ relative to the diagonal (R250). -/
def Normal.damped (n : Normal) (lambda : Nat) : Normal :=
  { n with h := n.h.map fun e =>
      if e.1.1 = e.1.2 then
        (e.1, e.2.zipIdx.map fun r => r.1.zipIdx.map fun x => if x.2 = r.2 then f32Add x.1 (f32Mul lambda x.1) else x.1)
      else e }

/-- One row of a Cholesky factor after the rows before it; none where the pivot is not positive. -/
def choleskyRow (a : List Nat) (rows : Mat) : Option (List Nat) :=
  let l := rows.foldl (fun l r => l ++ [f32Div (f32Sub (nthD 0 a l.length) (f32Dot l r)) (nthD 0 r l.length)]) []
  let d := f32Sub (nthD 0 a l.length) (f32Dot l l)
  if f32Lt 0 d then some (l ++ [f32Sqrt d]) else none

/-- The lower Cholesky factor of a block; none where it is not positive definite (R252). -/
def cholesky (a : Mat) : Option Mat := a.foldlM (fun rows r => (choleskyRow r rows).map fun l => rows ++ [l]) []

/-- The solution of L x = y. -/
def forwardSolve (l : Mat) (y : List Nat) : List Nat :=
  l.foldl (fun x r => x ++ [f32Div (f32Sub (nthD 0 y x.length) (f32Dot x r)) (nthD 0 r x.length)]) []

/-- The solution of Lᵀ x = y. -/
def backSolve (l : Mat) (y : List Nat) : List Nat :=
  (upTo l.length).reverse.foldl (fun x i =>
    f32Div (f32Sub (nthD 0 y i) (f32Dot ((l.map fun r => nthD 0 r i).drop (i + 1)) x)) (l.elem i i) :: x) []

/-- Eliminate the variables in order and solve (R250 steps 2 to 4): the step of each variable. A landmark's elimination is the Schur complement of
its block, a node's a column of the block-sparse factor. None where a pivot block is not positive definite (R252), as the zero block of a variable
that no constraint reaches. -/
def Normal.solve (n : Normal) : List Nat → Option (List (Nat × List Nat))
  | [] => some []
  | v :: rest =>
    match cholesky ((n.h.find v v).getD [[0]]) with
    | none => none
    | some l =>
      let y := forwardSolve l (n.rhs v)
      let col := rest.filterMap fun i => (n.h.find i v).map fun m => (i, (m.map (forwardSolve l) : Mat))
      let n1 := col.foldl (fun (n : Normal) i =>
        let n2 := col.foldl (fun (m : Normal) j => { m with h := m.h.addTo i.1 j.1 ((i.2.mul j.2.trans).neg) }) n
        n2.addRhs i.1 ((i.2.vec y).map f32Neg)) n
      match n1.solve rest with
      | none => none
      | some xs =>
        let y1 := col.foldl (fun y i => vecSub y (i.2.trans.vec (match xs.find? fun x => x.1 == i.1 with | some x => x.2 | none => []))) y
        some ((v, backSolve l y1) :: xs)

/-- The rows of each variable's column in the factor (R251, R254): the structure of the blocks and what elimination fills in, without a number. -/
def factorCols (adj : List (Nat × Nat)) : List Nat → List (List Nat)
  | [] => []
  | v :: rest =>
    let col := rest.filter fun i => adj.contains (v, i) || adj.contains (i, v)
    col :: factorCols (col.flatMap (fun i => col.map fun j => (i, j)) ++ adj) rest

/-- The pairs of variables that constraints join. -/
def Problem.joins (p : Problem) : List (Nat × Nat) :=
  p.cons.map fun c => match c with
    | .rel a b _ _ => (poseVar a, poseVar b)
    | .sight kf pt _ _ _ _ _ => (pointVar pt, poseVar kf)

/-- A position moved by a step (R249): TQ64 addition. -/
def stepPos (p : List (BitVec 64)) (d : List Nat) : List (BitVec 64) := p.zipIdx.map fun x => tqAdd x.1 (nthD 0 d x.2)

/-- The poses and landmarks moved by a step (R249, R250 step 4): an attitude by a rotation vector in the body frame. -/
def Problem.step (p : Problem) (xs : List (Nat × List Nat)) : Problem :=
  let d := fun (v : Nat) => (xs.find? fun x => x.1 == v).map fun x => x.2
  { p with
    points := p.points.map fun l => match d (pointVar l.num) with
      | some x => { l with pos := stepPos l.pos x }
      | none => l
    poses := p.poses.map fun g => match d (poseVar g.kf) with
      | some x => { g with pos := stepPos g.pos x, q := (g.q.mul (Quat.ofVec (V3.of (x.drop 3)))).unit }
      | none => g }

/-- λ at the start, 10^−4. -/
def lambda0 : Nat := 0x38D1B717
/-- The least relative decrease after which the iterations go on, 10^−6. -/
def leastDecrease : Nat := 0x358637BD
/-- Ten. -/
def f32Ten : Nat := 0x41200000

/-- The iterations of an optimisation (R250): at most so many, the damping at λ; none where a pivot block is not positive definite. -/
def Problem.iterate (p : Problem) (lambda : Nat) : Nat → Option Problem
  | 0 => some p
  | k + 1 =>
    let lin := p.cons.map p.linear
    match ((normalOf p.vars lin).damped lambda).solve p.vars with
    | none => none
    | some xs =>
      let q := p.step xs
      let c := linCost lin
      let d := linCost (q.cons.map q.linear)
      if f32Lt d c then
        if f32Lt (f32Div (f32Sub c d) c) leastDecrease then some q else q.iterate (f32Div lambda f32Ten) k
      else p.iterate (f32Mul lambda f32Ten) k

/-- An optimisation of at most `n` iterations (R250). -/
def Problem.optimise (p : Problem) (n : Nat) : Option Problem := p.iterate lambda0 n

/-- The point nearest to a set of rays (R253), each from a place in a direction: none where they do not fix one. -/
def nearestPoint (rays : List (V3 × V3)) : Option V3 :=
  let h := rays.foldl (fun (h : Mat) r => h.add r.2.across) zero3
  let b := rays.foldl (fun b r => vecAdd b (r.2.across.vec r.1.list)) [0, 0, 0]
  (cholesky h).map fun l => V3.of (backSolve l (forwardSolve l b))

/-- A node of a tile before and after an optimisation (R263): place and attitude relative to the tile's anchor, the variances of its pose. -/
structure FitNode where
  p0 : V3
  q0 : Quat
  p1 : V3
  q1 : Quat
  var : List Nat

/-- The residual of a tile's transform at a node, and its derivative: the node moved, against where it came to lie. -/
def FitNode.linear (n : FitNode) (t : V3) (q : Quat) : Lin :=
  let r := ((q.rot n.p0).add t).sub n.p1
  let e := ((q.mul n.q0).conj.mul n.q1).toVec
  ({ r := r.list ++ e.list
     js := [(0, (unit3.beside (q.mat.mul n.p0.skew).neg) ++ zero3.beside n.q0.inverseMat.neg)] } : Lin).whiten (n.var.map f32Sqrt)

/-- The rigid transform that best maps a tile's nodes (R263): iterations as R250's, each node weighted by its variances; where no step can be
solved, the transform reached. -/
def fitTile (nodes : List FitNode) (t : V3) (q : Quat) (lambda : Nat) : Nat → V3 × Quat
  | 0 => (t, q)
  | k + 1 =>
    let lin := nodes.map fun n => n.linear t q
    match ((normalOf [0] lin).damped lambda).solve [0] with
    | some [(_, x)] =>
      let t1 := t.add (V3.of x)
      let q1 := (q.mul (Quat.ofVec (V3.of (x.drop 3)))).unit
      let c := linCost lin
      let d := linCost (nodes.map fun n => n.linear t1 q1)
      if f32Lt d c then
        if f32Lt (f32Div (f32Sub c d) c) leastDecrease then (t1, q1) else fitTile nodes t1 q1 (f32Div lambda f32Ten) k
      else fitTile nodes t q (f32Mul lambda f32Ten) k
    | _ => (t, q)

end Sys2Proof.Machine
end

