-- ==== Sys2Proof/Machine/Gsol.lean ====
section
/-! DEFINITION. The graph solver (spec 09): the Landmark Directory, keyframes, the graph, bundle adjustment, loop closure,
publication. The arithmetic of its optimisations is in `Solver`. -/
namespace Sys2Proof.Machine

/-- May it start new work (16 R430, R433). -/
def State.gsolMayStart (s : State) : Bool := s.gsolOn && !s.pwr.engineHold && !s.pwr.shed

/-- What GSOL_STATUS reports of the loop closure (R268). -/
def State.gsolPhase (s : State) : Nat :=
  let v := s.nslot (s.cfgFld R.GSOL_CFG R.GSOL_CFG_verify_slot)
  if s.gsol.opt.isSome then 3
  else if s.gsol.rewrite.isSome then 4
  else if !s.map.corrs.isEmpty then 5
  else if s.gsolOn && (v.inv.isSome || !v.due.isEmpty) then 2
  else if !s.gsol.query.isEmpty || s.reef.ctxs.any (fun c => c.host.isNone) then 1
  else 0

/-- The registers that follow the solver's state (R268, R269). -/
def State.gsolRegs (s : State) : State :=
  (((((s.setFld R.GSOL_STATUS R.GSOL_STATUS_pending s.gsol.verdicts.length).setFld R.GSOL_STATUS R.GSOL_STATUS_state
    s.gsolPhase).setReg R.GSOL_POSES s.gsol.nodes.length).setReg R.GSOL_CONSTRAINTS s.gsol.edges.length).setReg R.GSOL_LD_LIVE
    s.gsol.live.length)

/-- The home key of a position (R256). -/
def homeKey (x y : Word64) : Nat :=
  let tx := wrapTo 28 (x.toInt / 2 ^ 36)
  let ty := wrapTo 28 (y.toInt / 2 ^ 36)
  tx * 2 ^ 36 + ty * 2 ^ 8 + bitsOf y.toNat 35 32 * 16 + bitsOf x.toNat 35 32

/-- The home slot of a key (R256). -/
def homeSlot (key : Nat) : Nat := key * 0x9E3779B97F4A7C15 % 2 ^ 64 / 2 ^ 38

/-- The slots probed from a home slot. -/
def probes (h : Nat) : List Nat := (upTo 64).map fun k => (h + k) % 2 ^ 26

/-- The slot that a new landmark takes: the first FREE or TOMBSTONE one (R256). -/
def State.ldSlot (s : State) (key : Nat) : Option Nat :=
  (probes (homeSlot key)).find? fun i => decide (s.load (s.ldAddr i + 0x1E) 1 ≠ 1)

/-- A lookup by cell (R256): the LIVE entries of the key, up to the first FREE slot. -/
def State.ldLookup (s : State) (key : Nat) : List Nat :=
  ((probes (homeSlot key)).takeWhile fun i => decide (s.load (s.ldAddr i + 0x1E) 1 ≠ 0)).filter fun i =>
    decide (s.load (s.ldAddr i + 0x1E) 1 = 1) && decide (s.load (s.ldAddr i + 0x28) 8 = key)

/-- The fields of a directory entry (R257), wseq apart. -/
def ldBytes (x y z : Word64) (first obs state flags cov key ref gen : Nat) : List Byte :=
  record 64 [(0, 8, x.toNat), (8, 8, y.toNat), (0x10, 8, z.toNat), (0x18, 4, first), (0x1C, 2, obs), (0x1E, 1, state), (0x1F, 1, flags),
    (0x20, 6, cov), (0x28, 8, key), (0x30, 8, ref), (0x38, 4, gen)]

/-- Insert a number in an ascending list. -/
def insertNat (n : Nat) : List Nat → List Nat
  | [] => [n]
  | m :: r => if n < m then n :: m :: r else if n = m then m :: r else m :: insertNat n r

/-- A position variance of landmark `v` from the normal equations of its adjustment (R253). -/
def Normal.landmarkCov (n : Normal) (v : Nat) : Nat :=
  let words := n.h.flatMap fun e => e.1.1 :: e.1.2 :: e.2.flatten
  (upTo 3).foldl (fun a i => a + (Config.landmarkVar v words i).toNat * 2 ^ (16 * i)) 0

/-- A new landmark enters the directory (R253, R256); its observations name it from now on. Its record has no place in the map yet. -/
def State.newLandmark (s : State) (l : BaPoint) (pos : List Word64) (cov : Nat) : State :=
  let at_ := fun (i : Nat) => nthD (0 : Word64) pos i
  let key := homeKey (at_ 0) (at_ 1)
  match s.ldSlot key with
  | none => (s.inc R.GSOL_LD_FULL).raise 130
  | some i =>
    let s1 := s.ldWrite i (ldBytes (at_ 0) (at_ 1) (at_ 2) l.first (min l.count 65535) 1 2 cov key 0 (s.reg R.GSOL_MAP_GEN))
    let mine := fun (x : Sight) => x.entry.isNone && (l.track == x.track.map fun k => (x.src, k))
    let s2 : State := { s1 with gsol := { s1.gsol with
      live := insertNat i s1.gsol.live, seen := SMap.set (fun _ => []) s1.gsol.seen i l.kfs
      window := insertNat i s1.gsol.window
      sights := s1.gsol.sights.map fun x => if mine x then { x with entry := some i } else x } }
    s2.submitRec (s2.lmRecord i 1)

/-- A landmark of the window is refined (R253). -/
def State.refineLandmark (s : State) (i : Nat) (pos : List Word64) (cov : Nat) : State :=
  if s.gsol.live.contains i then
    let at_ := fun (i : Nat) => nthD (0 : Word64) pos i
    let b := s.ldEntry i
    let s1 := s.ldWrite i (ldBytes (at_ 0) (at_ 1) (at_ 2) (leAt b 0x18 4) (leAt b 0x1C 2) 1 (putBits (leAt b 0x1F 1) 1 1 1) cov (leAt b 0x28 8)
      (leAt b 0x30 8) (leAt b 0x38 4))
    let s2 : State := { s1 with gsol := { s1.gsol with window := insertNat i s1.gsol.window } }
    s2.submitRec (s2.lmRecord i 2)
  else s

/-- obs_count of the entries takes the observations that it has not counted yet (R257). -/
def State.countSights (s : State) : State :=
  let ids := (s.gsol.sights.filterMap fun x => if x.fresh then x.entry else none).eraseDups
  let s1 := ids.foldl (fun (s : State) i =>
    if s.gsol.live.contains i then
      let b := s.ldEntry i
      let n := (s.gsol.sights.filter fun x => x.fresh && x.entry == some i).length
      s.ldWrite i (b.take 0x1C ++ leBytes 2 (min (leAt b 0x1C 2 + n) 65535) ++ b.drop 0x1E)
    else s) s
  { s1 with gsol := { s1.gsol with sights := s1.gsol.sights.map fun x => if x.entry.isSome then { x with fresh := false } else x } }

/-- in_window of an entry that has left the window. -/
def State.leaveWindow (s : State) (i : Nat) : State :=
  let b := s.ldEntry i
  s.ldWrite i (b.take 0x1F ++ leBytes 1 (putBits (leAt b 0x1F 1) 1 1 0) ++ b.drop 0x20)

/-- The elimination order (R251). -/
def elimOrder (l : List PNode) : List PNode :=
  sortBy (fun (a b : PNode) =>
    let m := morton a.tileX a.tileY
    let n := morton b.tileX b.tileY
    decide (m < n) || (decide (m = n) && decide (a.kf < b.kf))) l

/-- Does a constraint name keyframe `kf`. -/
def PEdge.names (e : PEdge) (kf : Nat) : Bool := decide (e.a = kf) || decide (e.b = kf)

/-- Constraints in ascending index. -/
def inIndex (l : List PEdge) : List PEdge := sortBy (fun (a b : PEdge) => decide (a.id < b.id)) l

/-- Retire the oldest active node (R248): its constraints leave the graph, and those that joined it to another active node become priors on
that node. -/
def State.retireOldest (s : State) : State :=
  match s.gsol.nodes with
  | [] => s
  | n :: rest =>
    let joined := s.gsol.edges.filter fun (e : PEdge) => e.names n.kf && rest.any fun m => e.names m.kf
    ({ s with gsol := { s.gsol with
        nodes := rest, retired := s.gsol.retired ++ [n]
        priors := (s.gsol.priors.filter fun (e : PEdge) => !e.names n.kf || rest.any fun (m : PNode) => e.names m.kf) ++ joined
        edges := s.gsol.edges.filter fun (e : PEdge) => !e.names n.kf } }).inc R.GSOL_RETIRED

/-- How many of some keyframes are not active. -/
def State.absent (s : State) (kfs : List Nat) : Nat :=
  (kfs.eraseDups.filter fun k => !s.gsol.nodes.any fun n => decide (n.kf = k)).length

/-- Retire until those of some keyframes that are not active and `de` constraints more fit (R247, R248). -/
def State.fitGraph (s : State) (kfs : List Nat) (de : Nat) : Nat → State
  | 0 => s
  | k + 1 =>
    if 2 ^ 20 < s.gsol.nodes.length + s.absent kfs ∨ 2 ^ 22 < s.gsol.edges.length + de then s.retireOldest.fitGraph kfs de k else s

/-- A position under a tile transform (R265). -/
def posUnder (tr : List Byte) (p : List Word64) : List Word64 := txMove tr (p.map fun w => w.toInt)

/-- An attitude under a tile transform (R265). -/
def turnUnder (tr : List Byte) (q : List Word32) : List Word32 := (txTurn tr (Quat.of (q.map fun w => w.toNat))).list.map (BitVec.ofNat 32)

/-- A node's pose under one published correction. -/
def PNode.under (n : PNode) (c : Nat × List (List Byte)) : PNode :=
  match transformOf c.2 n.tileX n.tileY with
  | some tr => { n with pos := posUnder tr n.pos, quat := turnUnder tr n.quat, gen := c.1 }
  | none => { n with gen := c.1 }

/-- What the estimator recorded of a node, under one published correction for its tile (R260, 08 R233). -/
def PNode.recordUnder (n : PNode) (c : Nat × List (List Byte)) : PNode :=
  match transformOf c.2 (tileOf n.rpos).1 (tileOf n.rpos).2 with
  | some tr => { n with rpos := posUnder tr n.rpos, rquat := turnUnder tr n.rquat }
  | none => n

/-- A node anchored at the tile that holds it (R249). -/
def PNode.anchored (n : PNode) : PNode := { n with tileX := (tileOf n.pos).1, tileY := (tileOf n.pos).2 }

/-- The published corrections after the generation `g`. -/
def since (g : Nat) : List (Nat × List (List Byte)) → List (Nat × List (List Byte))
  | [] => []
  | c :: r => if r.any (fun d => d.1 == g) then since g r else if c.1 = g then r else c :: r

/-- A keyframe of an older map_gen under the corrections published since (R260). -/
def State.catchUp (s : State) (n : PNode) : PNode :=
  (since n.gen s.gsol.published).foldl (fun (n : PNode) c => ((n.under c).recordUnder c).anchored) n

/-- The KEYFRAME record of a node (10 R281). -/
def PNode.record (n : PNode) : MapRec :=
  { typ := 3, prio := 1, tileX := n.tileX, tileY := n.tileY, id := BitVec.ofNat 32 n.kf
    body := Machine.record 80 ([(0, 4, n.kf)] ++ (n.pos.zipIdx.map fun p => (8 + 8 * p.2, 8, p.1.toNat)) ++
      (n.quat.zipIdx.map fun q => (0x20 + 4 * q.2, 4, q.1.toNat)) ++ [(0x30, 8, n.t), (0x38, 4, n.gen)] ++
      (n.cov.zipIdx.map fun c => (0x40 + 2 * c.2, 2, c.1.toNat))) }

/-- The CONSTRAINT record of an edge whose first keyframe lies in a tile. -/
def PEdge.record (e : PEdge) (tx ty : BitVec 32) : MapRec :=
  { typ := 5, prio := 1, tileX := tx, tileY := ty, id := BitVec.ofNat 32 e.id
    body := Machine.record 64 ([(0, 4, e.a), (4, 4, e.b), (8, 1, e.kind)] ++ (e.z.zipIdx.map fun w => (12 + 4 * w.2, 4, w.1.toNat)) ++
      (e.sigma.zipIdx.map fun c => (36 + 2 * c.2, 2, c.1.toNat))) }

/-- A constraint from its 36 bytes of z and sigma. -/
def edgeOf (id a b kind : Nat) (v : Nat) : PEdge :=
  { id := id, a := a, b := b, kind := kind, z := (upTo 6).map fun i => BitVec.ofNat 32 (v / 2 ^ (32 * i))
    sigma := (upTo 6).map fun i => BitVec.ofNat 16 (v / 2 ^ (192 + 16 * i)) }

/-- A node as an optimisation takes it. -/
def PNode.solved (n : PNode) : GPose :=
  { kf := n.kf, pos := n.pos, q := Quat.of (n.quat.map fun w => w.toNat), anchor := tileAnchor n.tileX n.tileY, fixed := n.fixed }

/-- A constraint as an optimisation takes it. -/
def PEdge.con (e : PEdge) : Con := .rel e.a e.b (e.z.map fun w => w.toNat) (e.sigma.map fun c => f32OfF16 c.toNat)

/-- The optimisation of the whole active graph (R263): the nodes in the order of R251. -/
def Optim.problem (o : Optim) : Problem := { points := [], poses := (elimOrder o.work).map PNode.solved, cons := o.cons.map PEdge.con }

/-- The keyframes of the window (R253): the newest 64 active ones. -/
def State.baKeyframes (s : State) : List PNode := s.gsol.nodes.drop (s.gsol.nodes.length - 64)

/-- The number of the landmark that an observation shows: its entry, else 2^26 and its place among the new tracks. -/
def Sight.num (tracks : List (Nat × Nat)) (x : Sight) : Nat :=
  match x.entry, x.track with
  | some i, _ => i
  | none, some k => 2 ^ 26 + tracks.idxOf (x.src, k)
  | none, none => 2 ^ 26 + tracks.length

/-- Where a sensor stood and where it looked, F32 relative to an anchor: the ray of a BEARING, or the point of a POINT. -/
def Sight.ray (x : Sight) (n : PNode) (anchor : List Int) : V3 × V3 :=
  let g := n.solved
  let o := (localPos anchor g.pos).add (g.q.rot (V3.of x.place))
  (o, g.q.rot ((Quat.of x.turn).rot (V3.of x.z)))

/-- A landmark from the observations that show it (R253): from its first POINT, else the point nearest to the rays of two keyframes or more. -/
def triangulate (nodes : List PNode) (anchor : List Int) (l : List Sight) : Option (List Word64) :=
  let rays := fun (b : Bool) => (l.filter fun x => x.bearing == b).filterMap fun x =>
    (nodes.find? fun n => decide (n.kf = x.kf)).map fun n => x.ray n anchor
  let p := match rays false with
    | r :: _ => some (r.1.add r.2)
    | [] => if 2 ≤ ((l.map fun (x : Sight) => x.kf).eraseDups).length then nearestPoint (rays true) else none
  p.map fun (v : V3) => stepPos (anchor.map (BitVec.ofInt 64)) v.list

/-- A bundle adjustment starts where one is to run, none does and the solver may start new work (R253, 16 R433): the window's keyframes and constraints, the oldest keyframe and those
outside held fixed; the landmarks that its keyframes observe, those with the most observations, the lower entry on a tie, 8,192 at most. -/
def State.startBa (s0 : State) : State :=
  if s0.gsol.ba.isSome || decide (s0.gsol.baWait = 0) || !s0.gsolMayStart then s0
  else
    let s := s0.countSights
    let win := s.baKeyframes
    let isIn := fun (k : Nat) => win.any fun n => decide (n.kf = k)
    let cons := inIndex ((s.gsol.edges ++ s.gsol.priors).filter fun e => isIn e.a || isIn e.b)
    let outer := ((s.gsol.nodes ++ s.gsol.retired).filter fun n => !isIn n.kf && cons.any fun e => e.names n.kf).map
      fun n => { n with fixed := true }
    let nodes := (win.zipIdx.map fun n => { n.1 with fixed := n.1.fixed || decide (n.2 = 0) }) ++ outer
    let sights := s.gsol.sights.filter fun x => isIn x.kf
    let tracks := (sights.filterMap fun x => if x.entry.isNone then x.track.map fun k => (x.src, k) else none).eraseDups
    let anchor := match win with
      | n :: _ => tileAnchor n.tileX n.tileY
      | [] => [0, 0, 0]
    let point := fun (num : Nat) =>
      let l := sights.filter fun x => x.num tracks == num
      let kfs := (l.map fun x => x.kf).eraseDups
      if num < 2 ^ 26 then
        let b := s.ldEntry num
        if s.gsol.live.contains num then
          some ({ num := num, pos := (upTo 3).map fun k => BitVec.ofNat 64 (leAt b (8 * k) 8), first := leAt b 0x18 4, count := leAt b 0x1C 2
                  kfs := kfs } : BaPoint)
        else none
      else (triangulate win anchor l).map fun p =>
        { num := num, pos := p, first := kfs.foldl min (kfs.headD 0), count := l.length, kfs := kfs, track := tracks[num - 2 ^ 26]? }
    let all := ((sights.map fun x => x.num tracks).eraseDups).filterMap point
    let best := (sortBy (fun (a b : BaPoint) => decide (b.count < a.count) || (decide (a.count = b.count) && decide (a.num < b.num))) all).take 8192
    let points := sortBy (fun (a b : BaPoint) => decide (a.num < b.num)) best
    let used := sights.filter fun x => points.any fun p => p.num == x.num tracks
    { s with gsol := { s.gsol with
        baWait := s.gsol.baWait - 1
        ba := some { gen := s.reg R.GSOL_MAP_GEN, nodes := nodes, cons := cons, points := points, sights := used } } }

/-- The landmark of an adjustment that an observation shows. -/
def Ba.shows (b : Ba) (x : Sight) : Nat :=
  match x.entry with
  | some i => i
  | none => match b.points.find? fun p => p.track.isSome && p.track == x.track.map fun k => (x.src, k) with
    | some p => p.num
    | none => 0

/-- The optimisation of a bundle adjustment (R250, R253): the constraints of the graph, then the observations in order of arrival. -/
def Ba.problem (b : Ba) : Problem :=
  { points := b.points.map fun p => { num := p.num, pos := p.pos }, poses := (elimOrder b.nodes).map PNode.solved
    cons := b.cons.map PEdge.con ++ b.sights.map fun x =>
      .sight x.kf (b.shows x) x.bearing (V3.of x.place) (Quat.of x.turn) x.z (x.sigma.map fun c => f32OfF16 c.toNat) }

/-- An odometry constraint (R260): the pose that the estimator gave keyframe `n` in the frame of `p`. -/
def odometry (id : Nat) (p n : PNode) : PEdge :=
  let a := p.recorded
  let b := n.recorded
  let z := (a.q.conj.rot (V3.between b.pos a.pos)).list ++ (a.q.conj.mul b.q).toVec.list
  { id := id, a := p.kf, b := n.kf, kind := 0, z := z.map (BitVec.ofNat 32)
    sigma := (upTo 6).map (Config.odometrySigma p.cov n.cov) }

/-- A keyframe joins the graph (R248, R253, R260): retirement, the odometry constraint, its records, a bundle adjustment. -/
def State.joinGraph (s : State) (n0 : PNode) : State :=
  let n := s.catchUp n0
  let s1 := s.fitGraph [n.kf] 1 s.gsol.nodes.length
  let prev := s1.gsol.nodes.getLast?
  let s2 : State := { s1 with gsol := { s1.gsol with nodes := s1.gsol.nodes ++ [n] } }
  let s3 := s2.submitRec n.record
  let s4 := match prev with
    | none => s3
    | some p =>
      let e := odometry s3.gsol.nextEdge p n
      ({ s3 with gsol := { s3.gsol with edges := s3.gsol.edges ++ [e], nextEdge := s3.gsol.nextEdge + 1 } }).submitRec (e.record p.tileX p.tileY)
  let win := (s4.baKeyframes ++ s4.gsol.waitKf).map fun m => m.kf
  let s5 : State := { s4 with gsol := { s4.gsol with baWait := s4.gsol.baWait + 1, sights := s4.gsol.sights.filter fun x => win.contains x.kf } }
  s5.startBa.gsolRegs

/-- The keyframes that waited for an optimisation join (R260). -/
def State.joinWaiting (s : State) : State :=
  s.gsol.waitKf.foldl State.joinGraph { s with gsol := { s.gsol with waitKf := [] } }

/-- A difference of TQ64 values as VTQREL gives it (R249, 03 R85). -/
def tqRel (a b : Word64) : Nat := f32OfScaled (a.toInt - b.toInt) (-28)

/-- The subgraph object of a keyframe (R259). -/
def State.writeSubgraph (s : State) (n : PNode) : State :=
  let rad := s.cfgFld R.GSOL_SUBGRAPH_CFG R.GSOL_SUBGRAPH_CFG_radius_m * 2 ^ 28
  let pos := fun (i : Nat) => (upTo 3).map fun k => BitVec.ofNat 64 (s.load (s.ldAddr i + 8 * k) 8)
  let ids := (s.gsol.live.filter fun i => decide (dist2 (pos i) n.pos ≤ rad * rad)).take
    (s.cfgFld R.GSOL_SUBGRAPH_CFG R.GSOL_SUBGRAPH_CFG_max_nodes)
  let seen := ids.map fun i => SMap.get (fun _ => []) s.gsol.seen i
  let common := fun (a b : List Nat) => (a.filter fun k => b.contains k).length
  let rows := seen.zipIdx.map fun a =>
    let all := seen.zipIdx.filterMap fun b => if a.2 ≠ b.2 ∧ common a.1 b.1 ≠ 0 then some (common a.1 b.1, b.2) else none
    let best := (sortBy (fun (x y : Nat × Nat) => decide (y.1 < x.1) || (decide (x.1 = y.1) && decide (x.2 < y.2))) all).take 32
    sortBy (fun (x y : Nat) => decide (x < y)) (best.map fun x => x.2)
  let pairs := (rows.zipIdx.flatMap fun r => r.1.map fun j => (min r.2 j, max r.2 j)).eraseDups
  let ax := BitVec.ofInt 64 (n.tileX.toInt * 2 ^ 36)
  let ay := BitVec.ofInt 64 (n.tileY.toInt * 2 ^ 36)
  let node := fun (i : Nat) =>
    let b := s.ldEntry i
    let p := pos i
    record 32 [(0, 4, i), (4, 2, leAt b 0x1C 2), (6, 2, leAt b 0x1F 1), (8, 4, tqRel (nthD 0 p 0) ax), (12, 4, tqRel (nthD 0 p 1) ay),
      (16, 4, tqRel (nthD 0 p 2) 0), (20, 6, leAt b 0x20 6)]
  let row := fun (r : List Nat) => (upTo 32).flatMap fun k => leBytes 4 (nthD 0xFFFFFFFF r k)
  let k := s.gsol.subNext % 4
  let id := s.gsol.subObj + k * s.gsol.subStep
  let s1 := if 4 ≤ s.gsol.subNext then s.newGen id else s
  let s2 := s1.store (placedAddr id) (record 64 [(0, 4, ids.length), (4, 4, pairs.length), (8, 4, s.reg R.GSOL_MAP_GEN), (12, 4, n.kf),
    (0x10, 8, ax.toNat), (0x18, 8, ay.toNat)] ++ ids.flatMap node ++ rows.flatMap row)
  { s2 with gsol := { s2.gsol with subNext := s.gsol.subNext + 1 } }

/-- An F32 element as an integer multiple of 2^−200. -/
def f32Fix (v : Word32) : Int :=
  match fdecode .f32 v.toNat with
  | .fin neg m e => if neg then -((m * 2 ^ (e + 200).toNat : Nat) : Int) else ((m * 2 ^ (e + 200).toNat : Nat) : Int)
  | _ => 0

/-- The exact dot product of two quaternions. -/
def quatDot (p q : List Word32) : Int := ((p.zip q).map fun e => f32Fix e.1 * f32Fix e.2).foldl (· + ·) 0

/-- Has the attitude turned by more than `a` tenths of a degree between two unit quaternions (R260; log entry 49). -/
def turned (p q : List Word32) (a : Nat) : Bool :=
  let d := quatDot p q
  let n := quatDot p p * quatDot q q
  let c := (2 ^ 192 : Int) + cosFix a 3600
  decide (2 ^ 193 * (d * d) < n * c)

/-- Is a keyframe due at this record (R260). -/
def State.keyframeDue (s : State) (p : PoseOut) : Bool :=
  match s.gsol.lastKf with
  | none => true
  | some k =>
    let d := s.cfgFld R.GSOL_KF_CFG R.GSOL_KF_CFG_kf_dist_cm * 2 ^ 28
    decide (d * d < 10000 * dist2 k.pos p.pos) || turned k.quat p.quat (s.cfgFld R.GSOL_KF_CFG R.GSOL_KF_CFG_kf_angle)

/-- A keyframe from a sealed record at TB3 instant `t` (R259–R261). -/
def State.makeKeyframe (s : State) (p : PoseOut) (t : Nat) : State :=
  if s.gsolMayStart ∧ s.running ∧ s.keyframeDue p then
    let tl := tileOf p.pos
    let n : PNode := { kf := s.gsol.nextKf, pos := p.pos, quat := p.quat, tileX := tl.1, tileY := tl.2, t := p.t, gen := p.gen, cov := p.cov
                       mask := p.mask, rpos := p.pos, rquat := p.quat, tb := some p.tb }
    let s1 : State := { s with gsol := { s.gsol with nextKf := s.gsol.nextKf + 1, lastKf := some n } }
    let busy := s1.gsol.opt.isSome || s1.gsol.rewrite.isSome || !s1.map.corrs.isEmpty
    let s2 := if busy then { s1 with gsol := { s1.gsol with waitKf := s1.gsol.waitKf ++ [n] } } else s1.joinGraph n
    let s3 := if s2.cfgBit R.GSOL_CFG R.GSOL_CFG_subgraph_en then s2.writeSubgraph (s2.catchUp n) else s2
    s3.event t { code := 3, aux := n.kf }
  else s

/-- The node of a keyframe, active, waiting or retired. -/
def State.findNode (s : State) (kf : Nat) : Option PNode :=
  (s.gsol.nodes ++ s.gsol.waitKf ++ s.gsol.retired).find? fun n => decide (n.kf = kf)

/-- The solver's query for a keyframe (11 R321); its cookie is a free value. -/
def State.solverQuery (s : State) (q : PQuery) : Query :=
  { cookie := s.free.toNat, beam := 4 * s.cfgFld R.GSOL_QUERY_CFG R.GSOL_QUERY_CFG_beam_q4
    hopLimit := s.cfgFld R.REEF_GSOL_CFG R.REEF_GSOL_CFG_gsol_hops, rerank := s.cfgFld R.REEF_GSOL_CFG R.REEF_GSOL_CFG_gsol_rerank
    k := s.cfgFld R.GSOL_QUERY_CFG R.GSOL_QUERY_CFG_k, cls := s.cfgFld R.REEF_CFG R.REEF_CFG_gsol_class, filterEn := 8
    sensorMask := 0, region := [0, 0, 0, 0], tMin := 0, tMax := 0, ageMin := s.cfgFld R.GSOL_QUERY_CFG R.GSOL_QUERY_CFG_min_age_s
    ageMax := 0, sketch := q.sketch, desc := q.desc }

/-- Send a query (R261): one that completes BUSY is sent again at the next epoch boundary; the events of its result follow. -/
def State.sendSolver (s : State) (q : PQuery) (t : Nat) : State :=
  let x := s.solverQuery q
  let busy := decide (s.queryStatus x = some 1)
  let r := s.tick.sendQuery none x
  let s1 := if busy then ({ r.2 with gsol := { r.2.gsol with query := r.2.gsol.query ++ [q] } }).inc R.GSOL_QUERY_BUSY else r.2
  s1.placeEvents t

/-- The encoder's output for a keyframe (R261): the sketch is journalled, the query sent, then the insertion requested. -/
def State.encoded (s : State) (kf : Nat) (out : Nat) (t : Nat) : State :=
  match s.gsolOn, s.findNode kf with
  | true, some n =>
    let sk := s.load out 32
    let desc := s.bytes (out + 32) 256
    let s1 := s.submitRec { typ := 4, prio := 1, tileX := n.tileX, tileY := n.tileY, id := BitVec.ofNat 32 kf
                            body := leBytes 4 kf ++ leBytes 12 0 ++ leBytes 32 sk ++ desc }
    let s2 := if s1.cfgBit R.GSOL_CFG R.GSOL_CFG_closure_en then s1.sendSolver { kf := kf, sketch := sk, desc := desc } t else s1
    ({ s2 with reef := { s2.reef with reqs := s2.reef.reqs ++ [UpReq.insert kf sk desc n.tileX n.tileY n.mask n.t] } }).gsolRegs
  | _, _ => s

/-- The verdict block that the verifier has written (R261, R262). -/
def State.takeVerdicts (s : State) (out : Nat) (err : Bool) : State :=
  if err ∨ !s.gsolOn then s
  else
    let n := min (s.load out 4) 64
    ((upTo n).foldl (fun (s : State) i =>
      let b := s.bytes (out + 64 + 64 * i) 64
      if leAt b 0xA 1 = 1 ∧ s.cfgFld R.GSOL_ACCEPT_CFG R.GSOL_ACCEPT_CFG_min_inliers ≤ leAt b 8 2 then
        if 16 ≤ s.gsol.verdicts.length then s.inc R.GSOL_VERDICT_DROP
        else
          let v : Verdict := { kfQuery := leAt b 0 4, kfMatch := leAt b 4 4
                               z := (upTo 6).map fun k => BitVec.ofNat 32 (leAt b (0x10 + 4 * k) 4)
                               sigma := (upTo 6).map fun k => BitVec.ofNat 16 (leAt b (0x28 + 2 * k) 2) }
          ({ s with gsol := { s.gsol with verdicts := s.gsol.verdicts ++ [v] } }).inc R.GSOL_CAND
      else s) s).gsolRegs

/-- Bring a retired keyframe back as a fixed node (R248). -/
def State.bringBack (s : State) (kf : Nat) : State :=
  match s.gsol.nodes.any (fun n => decide (n.kf = kf)), s.gsol.retired.find? fun n => decide (n.kf = kf) with
  | false, some n =>
    { s with gsol := { s.gsol with
        nodes := sortBy (fun (a b : PNode) => decide (a.kf < b.kf)) ({ n with fixed := true } :: s.gsol.nodes)
        retired := s.gsol.retired.filter fun m => decide (m.kf ≠ kf) } }
  | _, _ => s

/-- The workspace of a solve (R254) in parts of at most 1 GiB (05 R131), with the evictions that making room for it takes; none where there is no
room. -/
def State.placeWorkspace (s : State) (mib tier : Nat) : Option (List Nat) × State :=
  let part := fun (k : Nat) =>
    ({ size := min 1024 (mib - 1024 * k) * 2 ^ 20, cls := 4, confCls := 4, hint := tier, owner := 0x82, system := true, res := .resident
       tier := tier, inst := 1 } : Obj)
  let m := s.makeRoom tier 1 4 0x82 (mib * 16)
  if m.1 then
    let n := (mib + 1023) / 1024
    let a := m.2.allocRun ((upTo n).map part)
    (some ((upTo n).map fun k => a.1 + 16384 * k), a.2)
  else (none, m.2)

/-- Where the workspace of a factor of so many MiB goes (R254): the Shoal, HBM3E stack 1, or neither; the tier and the objects. -/
def State.findWorkspace (s : State) (mib : Nat) : Option (Nat × List Nat) × State :=
  let small := if mib ≤ s.cfgReg R.GSOL_WS_T2 then s.placeWorkspace mib 2 else (none, s)
  match small.1 with
  | some l => (some (2, l), small.2)
  | none =>
    let big := if mib ≤ s.cfgReg R.GSOL_WS_T3 then small.2.placeWorkspace mib 3 else (none, small.2)
    (big.1.map fun l => (3, l), big.2)

/-- The oldest queued verdict is taken at TB3 instant `t` (R248, R254, R263): its constraint joins the graph, the factor's structure is found, its
workspace is placed, or it is refused. -/
def State.startOpt (s : State) (t : Nat) : State :=
  match s.gsol.verdicts with
  | [] => s
  | v :: rest =>
    if !s.gsolMayStart || s.gsol.opt.isSome || s.gsol.rewrite.isSome || !s.map.corrs.isEmpty then s
    else
      let g := s.gsol
      let s0 : State := { s with gsol := { s.gsol with verdicts := rest } }
      if (s.findNode v.kfQuery).isNone ∨ (s.findNode v.kfMatch).isNone then s0.gsolRegs
      else
        let s1 := ((s0.fitGraph [v.kfQuery, v.kfMatch] 1 g.nodes.length).bringBack v.kfQuery).bringBack v.kfMatch
        let e : PEdge := { id := s1.gsol.nextEdge, a := v.kfQuery, b := v.kfMatch, kind := 1, z := v.z, sigma := v.sigma }
        let s2 : State := { s1 with gsol := { s1.gsol with edges := s1.gsol.edges ++ [e], nextEdge := s1.gsol.nextEdge + 1 } }
        let held := (s2.gsol.retired.filter fun n => s2.gsol.priors.any fun c => c.names n.kf).map fun n => { n with fixed := true }
        let o : Optim := { verdict := v, start := t, work := s2.gsol.nodes ++ held, cons := inIndex (s2.gsol.edges ++ s2.gsol.priors), loop := e
                           nodes := g.nodes, edges := g.edges, priors := g.priors, retired := g.retired }
        let mib := Config.factorMiB (factorCols o.problem.joins o.problem.vars)
        let w := (s2.setReg R.GSOL_LAST_FACTOR_MIB (satU 32 mib)).findWorkspace mib
        match w.1 with
        | some (2, ids) => (({ w.2 with gsol := { w.2.gsol with opt := some { o with ws := ids } } }).setFld R.GSOL_STATUS R.GSOL_STATUS_spilled 0).gsolRegs
        | some (_, ids) =>
          let s4 := ({ w.2 with gsol := { w.2.gsol with opt := some { o with ws := ids, spilled := true } } }).inc R.GSOL_SPILLS
          ((s4.setFld R.GSOL_STATUS R.GSOL_STATUS_spilled 1).writeDecision
            { epoch := s.dev.epoch, kind := 8, reason := 2, cls := 4, owner := 0x82, dst := placeByte 3 1, objects := ids.length
              bytes := mib * 2 ^ 20, tag := s4.objTag (ids.headD 0), metric := satU 32 mib, target := s.cfgReg R.GSOL_WS_T2, since := t }).gsolRegs
        | none =>
          let s4 : State := { w.2 with gsol := { w.2.gsol with nodes := g.nodes, edges := g.edges, priors := g.priors, retired := g.retired } }
          ((s4.inc R.GSOL_TOO_LARGE).raise 129).gsolRegs

/-- The nodes with the poses that an optimisation gives those of them that are not fixed in it (R249, R250). -/
def takePoses (p : Problem) (nodes : List PNode) : List PNode :=
  nodes.map fun n => match p.pose n.kf with
    | some g => if g.fixed then n else { n with pos := g.pos, quat := g.q.list.map (BitVec.ofNat 32) }
    | none => n

/-- A node of a tile before and after an optimisation. -/
def fitNode (anchor : List Int) (p : PNode × PNode) : FitNode :=
  { p0 := localPos anchor p.1.pos, q0 := p.1.solved.q, p1 := localPos anchor p.2.pos, q1 := p.2.solved.q
    var := p.1.cov.map fun c => f32OfF16 c.toNat }

/-- The transform record of a tile (R263, R265): the rigid transform that best maps the poses of its nodes from before to after, weighted by their
covariances. -/
def tileTransform (tx ty : BitVec 32) (l : List (PNode × PNode)) : List Byte :=
  let r := fitTile (l.map (fitNode (tileAnchor tx ty))) {} {} lambda0 16
  record 48 ([(0, 4, tx.toNat), (4, 4, ty.toNat)] ++ (r.1.list.zipIdx.map fun v => (8 + 4 * v.2, 4, v.1)) ++
    r.2.upper.list.zipIdx.map fun v => (0x14 + 4 * v.2, 4, v.1))

/-- The transforms of every tile that holds a node that moved, in ascending Morton order (R263, R265). -/
def tileTransforms (before after : List PNode) : List (List Byte) :=
  let both := before.zip after
  let moved := both.filter fun p => decide (p.1.pos ≠ p.2.pos) || decide (p.1.quat ≠ p.2.quat)
  let tiles := (moved.map fun p => (p.2.tileX, p.2.tileY)).eraseDups
  let order := sortBy (fun (a b : BitVec 32 × BitVec 32) => decide (morton a.1 a.2 < morton b.1 b.2)) tiles
  order.map fun t => tileTransform t.1 t.2 (both.filter fun p => p.2.tileX == t.1 && p.2.tileY == t.2)

/-- Rewrite a LIVE entry whose home_key lies in a transformed tile (R263). -/
def State.rewriteEntry (s : State) (tiles : List (List Byte)) (gen i : Nat) : State :=
  let b := s.ldEntry i
  let k := keyTile (leAt b 0x28 8)
  match transformOf tiles k.1 k.2 with
  | none => s
  | some tr =>
    let p := movedPos tr (leAt b 0 8) (leAt b 8 8) (leAt b 16 8)
    s.ldWrite i ((p.flatMap fun w => leBytes 8 w.toNat) ++ (b.drop 24).take 32 ++ leBytes 4 gen ++ b.drop 60)

/-- The translation of a transform, mm, saturating (R264; log entry 47). -/
def shiftMm (tr : List Byte) : Nat :=
  let t := (upTo 3).map fun i => leAt tr (8 + 4 * i) 4
  let d := f32Sqrt (t.foldl (fun a v => f32Add a (f32Mul v v)) 0)
  min ((fToInt 34 true 0 (fdecode .f32 (f32Mul d 0x447A0000))).1) 0xFFFFFFFF

/-- The next map generation (R264). -/
def nextGen (g : Nat) : Nat := if g = 0xFFFFFFFF then 1 else g + 1

/-- The records of a correction (10 R281, R282). -/
def correctionRecords (c : Corr) : List MapRec :=
  let rec1 := fun (typ : Byte) (body : List Byte) =>
    ({ typ := typ, prio := 0, tileX := 0x80000000, tileY := 0x80000000, id := BitVec.ofNat 32 c.gen, body := body } : MapRec)
  let head := record 64 [(0, 4, c.gen), (4, 4, c.prev), (0x18, 4, c.tiles.length), (0x1C, 1, b2n c.spilled), (0x28, 4, c.maxShift),
    (0x2C, 4, c.solveUs), (0x30, 4, c.kfQuery), (0x34, 4, c.kfMatch)]
  let more := c.tiles.drop 339
  rec1 7 (head ++ (c.tiles.take 339).flatMap id) ::
    (upTo ((more.length + 339) / 340)).map fun i =>
      let part := (more.drop (340 * i)).take 340
      rec1 0xC (leBytes 4 c.gen ++ leBytes 4 (339 + 340 * i) ++ leBytes 4 part.length ++ leBytes 4 0 ++ part.flatMap id)

/-- The map store journals a correction and closes the commit at once (R264). -/
def State.journalCorrection (s : State) (c : Corr) : State :=
  if s.mapState = 2 ∧ !s.map.refuse then
    let s1 := s.submitRecs (correctionRecords c)
    match s1.map.cur with
    | some d => ({ s1 with map := { s1.map with corrs := s1.map.corrs ++ [{ c with commit := d.id }] } }).closeOpen
    | none => { s1 with map := { s1.map with corrs := s1.map.corrs ++ [{ c with commit := s1.map.nextId - 1 }] } }
  else s.submitRecs (correctionRecords c)

/-- The workspace of a solve is freed. -/
def State.freeWorkspace (s : State) (o : Optim) : State := o.ws.foldl State.freeObj s

/-- The iterations that an optimisation may take (R250, R268). -/
def State.maxIter (s : State) : Nat := s.cfgFld R.GSOL_CFG R.GSOL_CFG_max_iter

/-- The optimisation has ended at TB3 instant `t` (R250, R252, R254, R263): failed, NOT_POSITIVE, rejected, or accepted; then the directory is
rewritten. One that failed by an error of its workspace is not counted (log entry 162). -/
def State.endOpt (s : State) (failed : Bool) (t : Nat) : State :=
  match s.gsol.opt with
  | none => s
  | some o =>
    let us := satU 32 ((t - o.start) / 1000)
    let s0 := ((s.freeWorkspace o).setReg R.GSOL_SOLVE_LAST_US us).setReg R.GSOL_SOLVE_MAX_US (max us (s.reg R.GSOL_SOLVE_MAX_US))
    let back : State := { s0 with gsol := { s0.gsol with opt := none, nodes := o.nodes, edges := o.edges, priors := o.priors, retired := o.retired } }
    if failed then back.joinWaiting.gsolRegs
    else match o.problem.optimise s.maxIter with
    | none => ((back.inc R.GSOL_NOT_POSITIVE).raise 129).joinWaiting.gsolRegs
    | some p =>
      if f32Lt (s.cfgReg R.GSOL_ACCEPT_TH) (p.linear o.loop.con).cost then (back.inc R.GSOL_REJECT).joinWaiting.gsolRegs
      else
        let before := o.work.take s0.gsol.nodes.length
        let tiles := tileTransforms before (takePoses p before)
        let gen := nextGen (s0.reg R.GSOL_MAP_GEN)
        let s1 : State := { s0 with gsol := { s0.gsol with opt := none, nodes := takePoses p s0.gsol.nodes } }
        let s2 := s1.gsol.live.foldl (fun s i => s.rewriteEntry tiles gen i) s1
        let c : Corr := { gen := gen, prev := s0.reg R.GSOL_MAP_GEN, spilled := o.spilled, maxShift := tiles.foldl (fun m tr => max m (shiftMm tr)) 0
                          solveUs := us, kfQuery := o.verdict.kfQuery, kfMatch := o.verdict.kfMatch, tiles := tiles }
        ({ s2 with gsol := { s2.gsol with rewrite := some (c, o.loop) }
                   map := { s2.map with deferred := s2.map.deferred.map (moveRec gen tiles) } }).gsolRegs

/-- The rewrite is complete (R264): the loop constraint and the correction are journalled. -/
def State.endRewrite (s : State) : State :=
  match s.gsol.rewrite with
  | none => s
  | some (c, e) =>
    let s1 : State := { s with gsol := { s.gsol with rewrite := none } }
    let s2 := match s1.findNode e.a with
      | some n => s1.submitRec (e.record n.tileX n.tileY)
      | none => s1
    let s3 := s2.journalCorrection c
    (if s3.map.corrs.isEmpty then s3.joinWaiting else s3).gsolRegs

/-- Publish a correction at TB3 instant `t` (R264). -/
def State.publish (s : State) (t : Nat) (c : Corr) : State :=
  let old := s.gsol.tableObj
  let s1 := if old = 0 then s else s.freeObj old
  let a := s1.allocSystem (max 64 (48 * c.tiles.length)) 0x82 3 1
  let s2 := (a.2.store (placedAddr a.1) (c.tiles.flatMap id)).setReg R.GSOL_MAP_GEN c.gen
  let s3 : State := { s2 with
    gsol := { s2.gsol with tableObj := a.1, published := s2.gsol.published ++ [(c.gen, c.tiles)]
                           retired := s2.gsol.retired.map fun n => n.under (c.gen, c.tiles)
                           nodes := s2.gsol.nodes.map fun n => { n.recordUnder (c.gen, c.tiles) with gen := c.gen } }
    fuse := { s2.fuse with corrs := s2.fuse.corrs ++ [{ gen := c.gen, at_ := t, tiles := c.tiles }] } }
  let s4 := s3.ringWrite 2 64 [(8, 4, c.gen), (0xC, 4, c.prev), (0x10, 8, s3.dev.epoch), (0x18, 8, (s3.toBase 0 t).toNat),
    (0x20, 4, c.tiles.length), (0x24, 1, b2n c.spilled), (0x28, 8, s3.objTag a.1), (0x30, 4, c.maxShift), (0x34, 4, c.solveUs),
    (0x38, 4, c.kfQuery), (0x3C, 4, c.kfMatch)] none
  (s4.inc R.GSOL_CLOSURES).raise 128

/-- The corrections whose last record lies in the commit that is durable now are published (R264, 10 R282). -/
def State.publishDurable (s : State) (t commit : Nat) : State :=
  let due := s.map.corrs.filter fun c => decide (c.commit = commit)
  if due.isEmpty then s
  else
    let s1 : State := { s with map := { s.map with corrs := s.map.corrs.filter fun c => decide (c.commit ≠ commit) } }
    ((due.foldl (fun s c => s.publish t c) s1).joinWaiting).gsolRegs

/-- The results of a bundle adjustment are written (R253): poses into the graph, landmarks into the directory, new ones among them; a write that
ends in error leaves its entry as it was (05 R143). -/
def State.takeBa (s0 : State) (b : Ba) (p : Problem) (lost : List Nat) : State :=
  let kept := (b.points.filter fun x => x.track.isNone).map fun x => x.num
  let s1 := (s0.gsol.window.filter fun i => !kept.contains i).foldl State.leaveWindow s0
  let s2 : State := { s1 with gsol := { s1.gsol with
    window := s1.gsol.window.filter fun i => kept.contains i, nodes := takePoses p s1.gsol.nodes
    opt := s1.gsol.opt.map fun (o : Optim) => { o with nodes := takePoses p o.nodes } } }
  let n := normalOf p.vars (p.cons.map p.linear)
  let s3 := b.points.foldl (fun (s : State) x =>
    let pos := match p.point x.num with
      | some l => l.pos
      | none => x.pos
    let cov := n.landmarkCov (pointVar x.num)
    if x.track.isNone then (if lost.contains x.num then s else s.refineLandmark x.num pos cov) else s.newLandmark x pos cov) s2
  let counted := fun (x : Sight) => x.entry.isSome && b.sights.contains { x with entry := none }
  { s3 with gsol := { s3.gsol with sights := s3.gsol.sights.map fun x => if counted x then { x with fresh := false } else x } }

/-- A bundle adjustment has ended (R250, R252, R253, R266); the next one that has to run starts. One in which a read ended in error writes nothing
(log entry 162). -/
def State.endBa (s : State) (failed : Bool) (lost : List Nat) : State :=
  match s.gsol.ba with
  | none => s
  | some b =>
    let s0 := ({ s with gsol := { s.gsol with ba := none } }).inc R.GSOL_BA_RUNS
    let s1 :=
      if s.reg R.GSOL_MAP_GEN ≠ b.gen then ({ s0 with gsol := { s0.gsol with baWait := s0.gsol.baWait + 1 } }).inc R.GSOL_BA_DISCARD
      else if failed then s0
      else
        match b.problem.optimise s.maxIter with
        | none => (s0.inc R.GSOL_NOT_POSITIVE).raise 129
        | some p => s0.takeBa b p lost
    s1.startBa.gsolRegs

/-- The solver at an epoch boundary: queries that completed BUSY are sent again (R261); a rewrite is complete (R264; log entry 138); a bundle adjustment
that has to run starts. -/
def State.gsolBoundary (s : State) (t : Nat) : State :=
  let s1 := if s.gsolOn then s.gsol.query.foldl (fun (s : State) q => s.sendSolver q t) { s with gsol := { s.gsol with query := [] } } else s
  let s2 := s1.endRewrite
  s2.startBa.gsolRegs

/-- The solver's objects, at LOAD (R255, R259). -/
def State.gsolLoad (s : State) : State :=
  let o : Obj := { size := 2 ^ 24, cls := 1, confCls := 1, hint := 3, owner := 0x82, system := true, res := .resident, tier := 3, inst := 1 }
  let a := s.allocRun (List.replicate 256 o)
  let size := 64 + 160 * 65536
  let b := a.2.allocRun (List.replicate 4 { o with size := size })
  let s1 : State := { b.2 with gsol := { b.2.gsol with ldBase := a.1, subObj := b.1, subStep := pagesOf size } }
  s1.setReg64 R.GSOL_LD_BASE_LO (placedAddr a.1)

/-- The node that a KEYFRAME record holds. -/
def nodeOf (r : MapRec) : PNode :=
  let f := fun (o n : Nat) => leAt r.body o n
  { kf := r.id.toNat, pos := (upTo 3).map fun i => BitVec.ofNat 64 (f (8 + 8 * i) 8)
    quat := (upTo 4).map fun i => BitVec.ofNat 32 (f (0x20 + 4 * i) 4), tileX := r.tileX, tileY := r.tileY, t := f 0x30 8, gen := f 0x38 4
    cov := (upTo 6).map fun i => BitVec.ofNat 16 (f (0x40 + 2 * i) 2), rpos := (upTo 3).map fun i => BitVec.ofNat 64 (f (8 + 8 * i) 8)
    rquat := (upTo 4).map fun i => BitVec.ofNat 32 (f (0x20 + 4 * i) 4) }

/-- The constraint that a CONSTRAINT record holds. -/
def edgeIn (r : MapRec) : PEdge :=
  edgeOf r.id.toNat (leAt r.body 0 4) (leAt r.body 4 4) (leAt r.body 8 1) (leAt r.body 12 36)

/-- The map store fills the directory and the graph from the map, at the end of a mount (R248, R255, R260). -/
def State.gsolMount (s : State) : State :=
  let recs := s.map.content.recs
  let kfs := sortBy (fun (a b : PNode) => decide (a.kf < b.kf)) ((recs.filter fun r => r.typ == 3).map nodeOf)
  let old := kfs.take (kfs.length - 2 ^ 20)
  let act := kfs.drop (kfs.length - 2 ^ 20)
  let has := fun (k : Nat) => act.any fun n => decide (n.kf = k)
  let es := sortBy (fun (a b : PEdge) => decide (a.id < b.id)) ((recs.filter fun r => r.typ == 5).map edgeIn)
  let lms := recs.filter fun r => r.typ == 1
  let live := sortBy (fun (a b : Nat) => decide (a < b)) (lms.map fun r => r.id.toNat % 2 ^ 26)
  let s1 := s.zero (placedAddr s.gsol.ldBase) (2 ^ 32)
  let s2 := (lms.foldl (fun s r => s.store (s.ldAddr (r.id.toNat % 2 ^ 26)) r.body) s1).noteRefs live
  let s3 : State := { s2 with gsol := { s2.gsol with
    nodes := act, retired := old, edges := es.filter fun e => has e.a && has e.b
    priors := es.filter fun e => has e.a != has e.b, nextKf := (kfs.foldl (fun m n => max m n.kf) 0) + 1
    nextEdge := (es.foldl (fun m e => max m e.id) 0) + 1, lastKf := none, waitKf := [], live := live
    seen := lms.foldl (fun m r => SMap.set (fun _ => []) m (r.id.toNat % 2 ^ 26) [leAt r.body 0x18 4]) [], window := [], sights := []
    query := [], verdicts := [], opt := none, rewrite := none, ba := none, baWait := 0, published := [] } }
  ((s3.setReg R.GSOL_MAP_GEN s.map.content.gen).setReg R.FUSE_MAP_GEN s.map.content.gen).gsolRegs.setFld R.GSOL_STATUS
    R.GSOL_STATUS_ld_ready 1

end Sys2Proof.Machine
end

