-- ==== Sys2Proof/Machine/IsletEvents.lean ====
section
/-! DEFINITION. What happens to an Islet and to a buoy beside the issue of bundles: the ends of loads, stores, tows and
buoy waits (spec 02 R43, R44, R59), the buoy registers (R55–R58) and the debug window (R65–R68). -/
namespace Sys2Proof.Machine

/-- BUOY_WAIT_TIMEOUT (R59). -/
def execBuoyWaitTimeout (i : IsletId) (s : State) : Host.Outcome State Fault Refusal :=
  .next (s.whenAwake fun s => (s.buoyTimeout i.val).settle)

/-- May a master write the registers of buoy `n` (04 R111): the host only those of a buoy that is unowned or its own. -/
def State.mayWriteBuoy (s : State) (m : Master) (n : Nat) : Bool :=
  decide (m = .chain) || decide ((s.buoy n).owner = 0xFF) || decide ((s.buoy n).owner = 0xFE)

/-- A write of BUOY_VALUE_n (R55, R57). -/
def State.writeBuoyValue (s : State) (m : Master) (n v : Nat) : State :=
  if s.mayWriteBuoy m n then
    (s.setBuoy n { s.buoy n with value := v % 2 ^ 32, lastSignaller := 0xFFF }).wakeBuoy n
  else s

/-- A write of BUOY_BAR_n (R58). -/
def State.writeBuoyBar (s : State) (m : Master) (n v : Nat) : State :=
  if s.mayWriteBuoy m n then (s.setBuoy n ((s.buoy n).setParticipants (v % 2 ^ 16))).wakeBuoy n else s

/-- A write of BUOY_CTL_n (R55). -/
def State.writeBuoyCtl (s : State) (m : Master) (n v : Nat) : State :=
  if s.mayWriteBuoy m n then s.setBuoy n ((s.buoy n).setCtl v) else s

/-- BUOY_VALUE_WRITE (R57); a BSIG of the same cycle follows as a command of its own. -/
def execBuoyValueWrite (m : Master) (n : Fin 65536) (v : Word32) (s : State) : Host.Outcome State Fault Refusal :=
  .next (s.whenAwake fun s => (s.writeBuoyValue m n.val v.toNat).settle)

/-- BUOY_PARTICIPANTS_WRITE (R58); arrivals of the same cycle come before it. -/
def execBuoyParticipantsWrite (m : Master) (n : Fin 65536) (v : Word32) (s : State) : Host.Outcome State Fault Refusal :=
  .next (s.whenAwake fun s => (s.writeBuoyBar m n.val v.toNat).settle)

/-- BUOY_CTL_WRITE (R55). -/
def execBuoyCtlWrite (m : Master) (n : Fin 65536) (v : Word32) (s : State) : Host.Outcome State Fault Refusal :=
  .next (s.whenAwake fun s => s.writeBuoyCtl m n.val v.toNat)

/-- Is the debug window active (R65). -/
def State.dbgOn (s : State) : Bool := decide (s.dev.state = .test)

/-- A halt request (R67, R68): a bundle that waits is abandoned and issues again on resume; a BARR whose arrival is counted
completes first. -/
def State.dbgHalt (s : State) (i : Nat) : State :=
  let x := s.islet i
  if x.halted then s
  else match x.held with
    | some h =>
      if h.barrPhase.isSome then s.setIslet i { x with haltReq := true }
      else
        let s1 := match h.buoy with
          | some n => s.setBuoy n ((s.buoy n).unwait i)
          | none => s
        s1.setIslet i { x with held := none, halted := true, haltCause := 1, stepping := false }
    | none => s.setIslet i { x with halted := true, haltCause := 1, stepping := false }

/-- Leave the halt (R67). -/
def State.dbgResume (s : State) (i : Nat) : State :=
  let x := s.islet i
  s.setIslet i { x with halted := false, haltCause := 0, haltReq := false }

/-- A halted Islet that has left the halt for one bundle (R67). -/
def State.stepped (s : State) (i : Nat) : State :=
  s.setIslet i { s.islet i with halted := false, haltCause := 0, stepping := true, passBp := true }

/-- One bundle of a halted Islet, with its stalls, then a halt with cause STEP (R67). -/
def State.dbgStep (s : State) (i : Nat) : State :=
  if (s.islet i).halted ∧ !(s.islet i).idle then (s.stepped i).issue i none else s

/-- A write of DBG_CTL (R67): halt, resume and step, in this order when several bits are 1. -/
def State.dbgCtl (s : State) (i v : Nat) : State :=
  let s1 := if bitOf v 0 then s.dbgHalt i else s
  let s2 := if bitOf v 1 then s1.dbgResume i else s1
  if bitOf v 2 then s2.dbgStep i else s2

/-- DBG_HALT (R65, R68). -/
def execDbgHalt (i : IsletId) (s : State) : Host.Outcome State Fault Refusal :=
  .next (s.whenAwake fun s => if s.dbgOn then s.dbgHalt i.val else s)

/-- DBG_RESUME (R65, R67). -/
def execDbgResume (i : IsletId) (s : State) : Host.Outcome State Fault Refusal :=
  .next (s.whenAwake fun s => if s.dbgOn then s.dbgResume i.val else s)

/-- DBG_STEP (R65, R67). -/
def execDbgStep (i : IsletId) (s : State) : Host.Outcome State Fault Refusal :=
  .next (s.whenAwake fun s => if s.dbgOn then (s.dbgStep i.val).settle else s)

/-- A debug register of the window as stored (R66): DBG_BP, DBG_WP, DBG_VSEL. -/
def Islet.dbgReg (x : Islet) (o : Nat) : Nat := (SMap.get (fun _ => (0 : Word32)) x.dbg o).toNat

/-- Is an offset one of the stored debug registers, and which of its bits can be written (R66, R67). -/
def dbgMask (o : Nat) : Nat :=
  if 0x10 ≤ o ∧ o < 0x30 then (if o % 8 = 0 then 0xFFFFFFE1 else 0xFFFF)
  else if 0x30 ≤ o ∧ o < 0x50 then
    (if o % 16 = 0 then 0xFFFFFFFF else if o % 16 = 4 then 0xFFFF else if o % 16 = 8 then 0xFF else 0)
  else if o = 0x80 then 0x1DF
  else 0

/-- A write of a watchpoint's control keeps a size_log2 above 16 as it was (R67, 00 R11); a write of DBG_VSEL that would name a t register
above 7 leaves file and index as they were (R67, 00 R466; log entry 127). -/
def dbgWrite (o old v : Nat) : Nat :=
  let n := v &&& dbgMask o
  if o = 0x38 ∨ o = 0x48 then (if bitsOf n 7 2 ≤ 16 then n else putBits n 7 2 (bitsOf old 7 2))
  else if o = 0x80 ∧ bitOf n 8 ∧ 8 ≤ bitsOf n 4 0 then putBits (putBits n 8 8 (bitsOf old 8 8)) 4 0 (bitsOf old 4 0)
  else n

/-- Half of a 64-bit value. -/
def half (v : Nat) (hi : Bool) : Nat := if hi then v / 2 ^ 32 % 2 ^ 32 else v % 2 ^ 32
/-- A 64-bit value with one half replaced. -/
def setHalf (old : Nat) (hi : Bool) (v : Nat) : Nat := if hi then v * 2 ^ 32 + old % 2 ^ 32 else old / 2 ^ 32 * 2 ^ 32 + v

/-- The 64 bytes that DBG_VSEL selects (R67). -/
def Islet.vsel (x : Islet) : VReg :=
  let q := x.dbgReg 0x80
  if bitOf q 8 then accQuarter (x.tr (bitsOf q 2 0)) (bitsOf q 7 6) else x.vr (bitsOf q 4 0)

/-- The Islet with word `k` of the selected 64 bytes written; a write to a v register clears its poison (R62). -/
def Islet.setVsel (x : Islet) (k v : Nat) : Islet :=
  let q := x.dbgReg 0x80
  let n := vecOf 32 fun l => if l = k then v else elem 32 l x.vsel
  if bitOf q 8 then x.setT (bitsOf q 2 0) (accSetQuarter (x.tr (bitsOf q 2 0)) (bitsOf q 7 6) n (BitVec.allOnes 64))
  else { x.setV (bitsOf q 4 0) n with poison := SMap.del x.poison (keyV (bitsOf q 4 0)) }

/-- A read of Islet `i`'s debug window at offset `o` (R65, R66). -/
def State.dbgRead (s : State) (i o : Nat) : Nat :=
  let x := s.islet i
  let hi := decide (o % 8 = 4)
  if !s.dbgOn then 0
  else if o = 4 then x.haltCause * 2 ^ 8 + 2 * b2n x.idle + b2n x.halted
  else if dbgMask o ≠ 0 then x.dbgReg o
  else if !x.halted then 0
  else if o = 8 ∨ o = 0xC then half x.pc (decide (o = 0xC))
  else if 0xC0 ≤ o ∧ o < 0x100 then elem 32 ((o - 0xC0) / 4) x.vsel
  else if 0x100 ≤ o ∧ o < 0x200 then half (x.gr ((o - 0x100) / 8)).toNat hi
  else if 0x200 ≤ o ∧ o < 0x280 then half (x.cr i s.dev.epoch ((o - 0x200) / 8)).toNat hi
  else if 0x280 ≤ o ∧ o < 0x2C0 then half (x.pr ((o - 0x280) / 8)).toNat hi
  else 0

/-- The Islet after a write of `v` to a register of its files through the debug window (R65, R66). DESIGN CHOICE (log entry 152): bits [4:0] of a
DBG_PC write are dropped. -/
def Islet.dbgPoke (x : Islet) (i epoch o v : Nat) : Islet :=
  let hi := decide (o % 8 = 4)
  let w := fun (n : Nat) => BitVec.ofNat 64 n
  if o = 8 ∨ o = 0xC then { x with pc := setHalf x.pc (decide (o = 0xC)) v % 2 ^ 48 / 32 * 32 }
  else if 0xC0 ≤ o ∧ o < 0x100 then x.setVsel ((o - 0xC0) / 4) v
  else if 0x100 ≤ o ∧ o < 0x200 then
    let n := (o - 0x100) / 8
    { x.setG n (w (setHalf (x.gr n).toNat hi v)) with poison := SMap.del x.poison (keyG n) }
  else if 0x200 ≤ o ∧ o < 0x280 then
    let n := (o - 0x200) / 8
    x.setC n (w (setHalf (x.cr i epoch n).toNat hi v))
  else if 0x280 ≤ o ∧ o < 0x2C0 then
    let n := (o - 0x280) / 8
    x.setP n (w (setHalf (x.pr n).toNat hi v))
  else x

/-- A write to Islet `i`'s debug window (R65–R67). -/
def State.writeDbg (s : State) (i o v : Nat) : State :=
  let x := s.islet i
  if !s.dbgOn then s
  else if o = 0 then (s.dbgCtl i v).settle
  else if dbgMask o ≠ 0 then
    s.setIslet i { x with dbg := SMap.set (fun _ => (0 : Word32)) x.dbg o (BitVec.ofNat 32 (dbgWrite o (x.dbgReg o) v)) }
  else if x.halted then s.setIslet i (x.dbgPoke i s.dev.epoch o v)
  else s

end Sys2Proof.Machine
end

