-- ==== Sys2Proof/Machine/Sec.lean ====
section
/-! DEFINITION. Identity and security (spec 14, 12 R336–R340): the OTP, the verification of an image, the rollback counter, the
identity key, the records of ATTEST. -/
namespace Sys2Proof.Machine

/-- The rollback counter (R399): the largest value of a row that decodes, 0 without one. -/
def State.rollback (s : State) : Nat :=
  s.sec.rows.foldl (fun m e => match e.2 with
    | .value v => max m v
    | _ => m) 0

/-- The registers that follow from the OTP, the identity key and the active image (R408, R409). -/
def State.secRegs (s : State) : State :=
  let kv : Nat × Nat := match s.cfg.active with
    | some i => (i.keyIndex, i.secver)
    | none => (0, 0)
  let s1 := s.setFld R.SEC_STATUS R.SEC_STATUS_rollback_rows s.sec.nextRow
  let s2 := s1.setFld R.SEC_STATUS R.SEC_STATUS_counter_full (b2n (decide (32 ≤ s.sec.nextRow)))
  let s3 := s2.setFld R.SEC_STATUS R.SEC_STATUS_enrol_done (b2n s.sec.enrolDone)
  let s4 := s3.setFld R.SEC_STATUS R.SEC_STATUS_vendor_disable (b2n s.sec.vendorDisable)
  let s5 := s4.setFld R.SEC_STATUS R.SEC_STATUS_integrator_key_set (b2n s.sec.integratorHash.isSome)
  let s6 := s5.setFld R.SEC_STATUS R.SEC_STATUS_boot_key kv.1
  let s7 := (s6.setReg64 R.SEC_ROLLBACK_LO s.rollback).setReg64 R.SEC_SECVER_LO kv.2
  (upTo 4).foldl (fun s n => s.setReg (R.SEC_UID + 4 * n) (leAt s.sec.uid (4 * n) 4)) s7

/-- SEC_STATUS identity: 0 NONE, 1 GENERATING, 2 READY, 3 FAILED (R408). -/
def State.identity (s : State) : Nat := s.fld R.SEC_STATUS R.SEC_STATUS_identity

/-- The identity key pair is made from the seed (R401): the digest of the public key shows. -/
def State.makeKey (s : State) (seed : List Byte) : State :=
  let pub := leBytes 1952 (Config.publicKey seed)
  let h := digest64 pub
  let s1 : State := { s with sec := { s.sec with idPub := pub } }
  let s2 := s1.setFld R.SEC_STATUS R.SEC_STATUS_identity 2
  (upTo 16).foldl (fun s n => s.setReg (R.SEC_IDPUB_HASH + 4 * n) (leAt h (4 * n) 4)) s2

/-- Free bytes, eight for each free value (log entry 1). -/
def State.freeBytes (s : State) : Nat → List Byte × State
  | 0 => ([], s)
  | n + 1 =>
    let r := s.tick.freeBytes n
    (leBytes 8 s.free.toNat ++ r.1, r.2)

/-- The identity key at BOOT (R401, R402): from the seed, or GENERATING until one is drawn. -/
def State.startKey (s : State) : State :=
  match s.sec.seed with
  | some d => s.makeKey d
  | none => s.setFld R.SEC_STATUS R.SEC_STATUS_identity 1

/-- Before TRAIN ends a blank seed is drawn, programmed and read back (R402): `ok` when the source's health tests and the
read-back pass. -/
def State.drawSeed (s : State) (ok : Bool) : State :=
  if s.identity ≠ 1 then s
  else if ok then
    let r := s.freeBytes 4
    ({ r.2 with sec := { r.2.sec with seed := some r.1 } }).makeKey r.1
  else ((s.setFld R.SEC_STATUS R.SEC_STATUS_identity 3).setFld R.SEC_STATUS R.SEC_STATUS_entropy_fail 1).raise 257

/-- `n` bytes of the NOR flash from address `a`: an unlisted byte is erased (12 R335). -/
def State.norBytes (s : State) (a n : Nat) : List Byte := (upTo n).map fun i => SMap.get (fun _ => (0xFF : Byte)) s.cfg.nor (a + i)

/-- A NOR sector is erased. -/
def State.norErase (s : State) (a : Nat) : State :=
  { s with cfg := { s.cfg with nor := SMap.clearRange s.cfg.nor a 0x10000 } }

/-- Bytes are programmed into erased NOR. -/
def State.norProgram (s : State) (a : Nat) (b : List Byte) : State :=
  { s with cfg := { s.cfg with nor := (b.zipIdx).foldl (fun m e => SMap.set (fun _ => (0xFF : Byte)) m (a + e.2) e.1) s.cfg.nor } }

/-- First byte of an image slot (12 R335). -/
def slotBase (k : Nat) : Nat := k * 0x3000000

/-- Bytes of an image slot, 48 MiB. -/
def slotSize : Nat := 0x3000000

/-- The header checks of R396 that locate the signature: `room` is the slot's size or the argument's image_bytes. -/
def headerOk (b : List Byte) (room : Nat) : Bool :=
  let n := leAt b 8 4
  leAt b 0 4 == 0x4E434647 && leAt b 4 2 == 1 && decide (8192 ≤ n) && decide (n ≤ slotSize) && decide (n % 16 = 0) && decide (n ≤ room)

/-- The sections of an image as type, offset and length (12 R336). -/
def sections (b : List Byte) : List (Nat × Nat × Nat) :=
  (upTo (leAt b 0xC 2)).map fun i => (leAt b (0x40 + 16 * i) 1, leAt b (0x44 + 16 * i) 4, leAt b (0x48 + 16 * i) 4)

/-- Bytes of an entry and the most entries of a section of each type; a FIRMWARE of bytes, a NAND descriptor of its own length
(12 R338). -/
def sectionLimit (typ : Nat) : Nat × Nat :=
  match typ with
  | 1 => (1, 0x800000) | 2 => (8, 16384) | 3 => (96, 32) | 4 => (16, 64) | 5 => (576, 8) | 6 => (16, 64) | 7 => (1, 0xC0)
  | _ => (0, 0)

/-- Is a section within its limits. -/
def sectionFits (b : List Byte) (e : Nat × Nat × Nat) : Bool :=
  let l := sectionLimit e.1
  decide (l.1 ≠ 0) && decide (e.2.2 % max l.1 1 = 0) && decide (e.2.2 ≤ l.1 * l.2) &&
  (e.1 != 7 || (decide (leAt b (e.2.1 + 0x1E) 1 ≤ 15) && decide (e.2.2 = 0x48 + 8 * leAt b (e.2.1 + 0x1E) 1)))

/-- Do no two sections overlap (12 R336). -/
def disjoint : List (Nat × Nat × Nat) → Bool
  | [] => true
  | e :: r => r.all (fun f => decide (e.2.1 + e.2.2 ≤ f.2.1) || decide (f.2.1 + f.2.2 ≤ e.2.1)) && disjoint r

/-- A register-set entry meets 12 R339: the register has an RW field and no WO, W1C or W1S field, and the value is 0 in the
reserved bits. The buoys and the debug windows count with their tables' access codes (02 R55, R66). -/
def regEntryOk (e : Nat × Nat) : Bool :=
  let o := e.1
  if o % 4 ≠ 0 then false
  else if o < 0x100000 then
    let f := csrFields o
    let free := f.foldl (fun n x => putBits n x.hi x.lo 0) (e.2 % 2 ^ 32)
    f.any (fun x => x.acc == .rw) && f.all (fun x => x.acc == .rw || x.acc == .ro) && free == 0
  else if o < 0x200000 then
    (o % 16 == 0) || (o % 16 == 4) || (o % 16 == 8 && e.2 &&& 0x00FEFFFF == 0)
  else if 0x1000000 ≤ o ∧ o < 0x1C00000 then
    let d := o % 0x1000
    (dbgMask d != 0 && e.2 &&& (0xFFFFFFFF ^^^ dbgMask d) == 0) || d == 8 || (d == 0xC && decide (e.2 < 2 ^ 16)) ||
      (decide (0xC0 ≤ d) && decide (d < 0x2C0))
  else false

/-- The entries of a section's bytes. -/
def sectionEntries (b : List Byte) (typ : Nat) : List (List Byte) :=
  match (sections b).find? fun e => e.1 == typ with
  | some (_, o, n) => entriesOf (sectionLimit typ).1 ((b.drop o).take n)
  | none => []

/-- The image that bytes hold (12 R336–R339). -/
def parseImage (b : List Byte) : Image :=
  let sec := fun (t : Nat) => match (sections b).find? fun e => e.1 == t with
    | some (_, o, n) => (b.drop o).take n
    | none => []
  let n := leAt b 8 4
  { keyIndex := leAt b 6 1, bytes := n, testAllowed := bitOf (leAt b 0xE 2) 0, secver := leAt b 0x10 8, seq := leAt b 0x18 4
    digest := digest64 (b.take (n - 3312)), fwDigest := digest64 (sec 1)
    regs := (entriesOf 8 (sec 2)).map fun e => (leAt e 0 4, leAt e 4 4)
    nettab := entriesOf 96 (sec 3), pintab := entriesOf 16 (sec 4), lidar := entriesOf 576 (sec 5), cansig := entriesOf 16 (sec 6)
    nand := sec 7 }

/-- A CAN signal entry's role is one that its target takes (07 R209). -/
def roleOk (e : List Byte) : Bool := decide (leAt e 10 1 ≤ 3) && (decide (3 < leAt e 5 1) || leAt e 10 1 == 0)

/-- The rest of the structure (12 R336–R339): section count, unused entries 0, types, limits, places, register set, roles
(log entry 70). -/
def structureOk (b : List Byte) : Bool :=
  let n := leAt b 8 4
  let l := sections b
  let types := l.map fun e => e.1
  decide (1 ≤ leAt b 0xC 2) && decide (leAt b 0xC 2 ≤ 32) && ((b.drop (0x40 + 16 * l.length)).take (16 * (32 - l.length))).all (· == 0) &&
  l.all (sectionFits b) && types.contains 1 && types.contains 7 && types.eraseDups == types &&
  l.all (fun e => decide (e.2.1 % 64 = 0) && decide (0x9E0 ≤ e.2.1) && decide (e.2.1 + e.2.2 ≤ n - 3312)) && disjoint l &&
  (parseImage b).regs.all regEntryOk && (parseImage b).cansig.all roleOk

/-- Steps 1 to 3 of R396. -/
def State.signatureOk (s : State) (b : List Byte) : Bool :=
  let n := leAt b 8 4
  let k := leAt b 6 1
  let key : Option (List Byte) := if k = 0 then (if s.sec.vendorDisable then none else some s.sec.vendorHash)
    else if k = 1 then s.sec.integratorHash else none
  let pub := (b.drop 0x240).take 1952
  match key with
  | none => false
  | some h => digest64 pub == h && Config.verify pub (digest64 (b.take (n - 3312))) ((b.drop (n - 3312)).take 3309)

/-- Verification of an image up to its structure (R396, steps 1 and 2 of 12 R341): the reason of 12 R342, 0 when it passes. -/
def State.verifyImage (s : State) (b : List Byte) (room : Nat) : Nat × State :=
  if !headerOk b room then (3, s)
  else if !s.signatureOk b then (1, s.inc R.SEC_SIG_FAIL)
  else if leAt b 0x10 8 < s.rollback then (2, s)
  else if !structureOk b then (3, s)
  else (0, s)

/-- The image bytes in a NOR slot. -/
def State.slotImage (s : State) (k : Nat) : List Byte :=
  let n := leAt (s.norBytes (slotBase k) 0x20) 8 4
  s.norBytes (slotBase k) (max 0x9E0 (min n slotSize))

/-- The slot that R340 tries first: the higher image_seq, A on a tie; a slot without a header comes last (log entry 70). -/
def State.firstSlot (s : State) : Nat :=
  let seq := fun (k : Nat) =>
    let h := s.norBytes (slotBase k) 0x20
    if leAt h 0 4 = 0x4E434647 then leAt h 0x18 4 + 1 else 0
  if seq 0 < seq 1 then 1 else 0

/-- The boot slot's image under R340: slot and image, or none; CFG_BOOT_STATUS and SEC_SIG_FAIL follow. -/
def State.bootImage (s : State) : Option (Nat × Image) × State :=
  let a := s.firstSlot
  let r := s.verifyImage (s.slotImage a) slotSize
  let s1 := r.2.setFld R.CFG_BOOT_STATUS R.CFG_BOOT_STATUS_first_fail r.1
  if r.1 = 0 then (some (a, parseImage (s.slotImage a)), s1.setFld R.CFG_BOOT_STATUS R.CFG_BOOT_STATUS_fallback 0)
  else
    let b := 1 - a
    let q := s1.verifyImage (s.slotImage b) slotSize
    if q.1 = 0 then (some (b, parseImage (s.slotImage b)), q.2.setFld R.CFG_BOOT_STATUS R.CFG_BOOT_STATUS_fallback 1)
    else (none, q.2)

/-- An occasion of R400 at a boundary in RUN or DEGRADED: `ok` when the row reads back well. -/
def State.rollbackOccasion (s : State) (ok : Bool) : State :=
  if !s.sec.armed ∨ !s.running ∨ s.pwr.pfailLow then s
  else
    let v := match s.cfg.active with
      | some i => i.secver
      | none => 0
    let s1 : State := { s with sec := { s.sec with armed := false } }
    if v ≤ s.rollback ∨ 32 ≤ s.sec.nextRow then s1
    else
      let row : OtpRow := if ok then .value v else .bad
      let s2 : State := { s1 with sec := { s1.sec with rows := SMap.set (fun _ => OtpRow.blank) s1.sec.rows s1.sec.nextRow row, nextRow := s1.sec.nextRow + 1 } }
      let s3 := s2.secRegs
      if ok then s3.raise 256 else s3

/-- The result of SEC_OTP_PROG (R408). -/
def State.otpResult (s : State) (v : Nat) : State := s.setFld R.SEC_OTP_PROG R.SEC_OTP_PROG_result v

/-- SEC_OTP_PROG is refused (R398, R406). -/
def State.otpDenied (s : State) : State := (s.otpResult 2).inc R.SEC_DENIED

/-- SEC_OTP_PROG with target INTEGRATOR_KEY_HASH (R398): `ok` when the field reads back well; else it holds no usable value. -/
def State.otpHash (s : State) (ok : Bool) : State :=
  if s.dev.state ≠ .test ∨ s.sec.integratorHash.isSome then s.otpDenied
  else
    let data := (upTo 16).flatMap fun n => leBytes 4 (s.reg (R.SEC_OTP_DATA + 4 * n))
    let s1 : State := { s with sec := { s.sec with integratorHash := some (if ok then data else []) } }
    (s1.otpResult (if ok then 1 else 3)).secRegs

/-- SEC_OTP_PROG with target VENDOR_DISABLE (R398). -/
def State.otpVendor (s : State) : State :=
  let vendorImage : Bool := match s.cfg.active with
    | some i => decide (i.keyIndex = 0)
    | none => true
  if s.dev.state ≠ .test ∨ s.sec.vendorDisable ∨ s.sec.integratorHash.isNone ∨ vendorImage then s.otpDenied
  else (({ s with sec := { s.sec with vendorDisable := true } }).otpResult 1).secRegs

/-- A signature field (R394): 3,309 bytes over the digest of bytes, then 3 zero bytes; fresh randomness each time. -/
def State.signed (s : State) (b : List Byte) : List Byte × State :=
  let sig := leBytes 3309 (Config.sign (s.sec.seed.getD []) (digest64 b) s.free)
  (sig ++ List.replicate 3 0, s.tick)

/-- The value GLB_ID reads (00 R13, R14). -/
def glbId : Nat := 0x96000A20

/-- The attestation report at this instant (R405). -/
def State.report (s : State) (nonce : List Byte) : List Byte × State :=
  let up := decide (s.mapState = 2) || decide (s.mapState = 3)
  let im := s.cfg.active
  let f := fun (g : Image → Nat) => match im with
    | some i => g i
    | none => 0
  let d := fun (g : Image → List Byte) => match im with
    | some i => padTo 64 (g i)
    | none => List.replicate 64 0
  let flags := b2n (!up) + 2 * s.fld R.GLB_DEGRADED R.GLB_DEGRADED_cal_invalid + 4 * s.fld R.SEC_STATUS R.SEC_STATUS_counter_full
  let head := record 0x60 [(0, 4, 0x4B415452), (4, 2, 1), (6, 1, 1), (7, 1, flags), (8, 4, glbId), (0xC, 1, s.dev.state.code),
    (0xD, 1, f Image.keyIndex), (0xE, 1, s.fld R.CFG_BOOT_STATUS R.CFG_BOOT_STATUS_active_slot), (0x10, 16, ofLe s.sec.uid),
    (0x20, 8, s.dev.epoch), (0x28, 8, s.tb0), (0x30, 8, f Image.secver), (0x38, 8, s.rollback), (0x40, 4, s.reg R.CFG_CAL_GEN),
    (0x44, 4, s.reg R.GLB_DEGRADED), (0x48, 8, if up then s.map.head else 0), (0x50, 4, f Image.seq)]
  let idh := (upTo 16).flatMap fun n => leBytes 4 (s.reg (R.SEC_IDPUB_HASH + 4 * n))
  let mapHead := if up then padTo 64 ((s.map.headPage.drop 0x140).take 64) else List.replicate 64 0
  let body := padTo 0x200 (head ++ padTo 64 nonce ++ d Image.fwDigest ++ d Image.digest ++ mapHead ++ idh)
  let g := s.signed body
  (body ++ g.1, g.2)

/-- The enrolment record at this instant (R403). -/
def State.enrolment (s : State) (nonce : List Byte) : List Byte × State :=
  let head := record 0x40 [(0, 4, 0x4B454E52), (4, 2, 1), (6, 1, 2), (8, 4, glbId), (0x10, 16, ofLe s.sec.uid), (0x20, 8, s.dev.epoch)]
  let body := padTo 0x840 (head ++ padTo 1952 s.sec.idPub ++ padTo 64 nonce)
  let g := s.signed body
  (body ++ g.1, g.2)

end Sys2Proof.Machine
end

