-- ==== Sys2Proof/Machine/RegWrite.lean ====
section
/-! DEFINITION. Writes of CSR registers that hold what is written (spec 00 R8–R12, R466, 06 R163): the access codes, the relations
between fields, the registers whose write does more than set a field. -/
namespace Sys2Proof.Machine

/-- Pin `k` of FSYNC_OUT whose register lies at `o`, and which of the four it is. -/
def fsyncReg (o : Nat) : Option (Nat × Nat) :=
  if R.SHORE_FSYNC_CFG ≤ o ∧ o < R.SHORE_FSYNC_CFG + 0x80 then
    some ((o - R.SHORE_FSYNC_CFG) / 16, (o - R.SHORE_FSYNC_CFG) % 16 / 4)
  else none

/-- The FSYNC registers after a write of `v` to register `j` of pin `k` (06 R163): a width, a phase or a period that breaks the
limits leaves its field as it was. -/
def State.fsyncWrite (s : State) (k j o v : Nat) : State :=
  let n := (csrAfterWrite o (BitVec.ofNat 32 (s.reg o)) (BitVec.ofNat 32 v)).toNat
  let period := s.reg (R.SHORE_FSYNC_PERIOD + 16 * k)
  let phase := s.reg (R.SHORE_FSYNC_PHASE + 16 * k)
  let width := s.fld (R.SHORE_FSYNC_CFG + 16 * k) R.SHORE_FSYNC_CFG_width_us
  if j = 0 then
    s.setReg o (if n % 2 ^ 16 < period then n else putBits n 15 0 width)
  else if j = 1 then
    if 1000 ≤ n ∧ n ≤ 1000000 ∧ phase < n ∧ width < n then s.setReg o n else s
  else if j = 2 then (if n < period then s.setReg o n else s)
  else s

/-- A write of `v` to the register at offset `o` of a block, which has no action beyond its fields (00 R8): the masks and counts of
the interrupt controller, the rates of the time bases and the FSYNC registers as their rules say. -/
def State.fieldWrite (s : State) (o v : Nat) : State :=
  let w := BitVec.ofNat 32 v
  if R.INTC_MASK ≤ o ∧ o < R.INTC_MASK + 64 then s.maskWrite ((o - R.INTC_MASK) / 4) w []
  else if R.INTC_COUNT ≤ o ∧ o < R.INTC_COUNT + 2048 then s.countWrite ((o - R.INTC_COUNT) / 4) w false
  else if o % 0x40 = R.TIME_TB_RATE_LO % 0x40 ∧ R.TIME_TB_RATE_LO ≤ o ∧ o < R.TIME_TB_RATE_LO + 0x100 then
    s.writeRateLo ((o - R.TIME_TB_RATE_LO) / 0x40) v
  else if o % 0x40 = R.TIME_TB_RATE_HI % 0x40 ∧ R.TIME_TB_RATE_HI ≤ o ∧ o < R.TIME_TB_RATE_HI + 0x100 then
    s.writeRateHi ((o - R.TIME_TB_RATE_HI) / 0x40) v
  else match fsyncReg o with
    | some (k, j) => s.fsyncWrite k j o v
    | none =>
      if csrFields o = [] then s else s.setReg o (csrAfterWrite o (BitVec.ofNat 32 (s.reg o)) w).toNat

/-- A write to the CSR window that sets fields (00 R8, 02 R55, R65): a register of a block, of a buoy or of a debug window. -/
def State.windowWrite (s : State) (m : Master) (o v : Nat) : State :=
  if o < 0x100000 then s.fieldWrite o v
  else if o < 0x200000 then
    let n := (o - 0x100000) / 16
    let j := o % 16 / 4
    if j = 0 then (s.writeBuoyValue m n v).settle
    else if j = 1 then (s.writeBuoyBar m n (v % 2 ^ 16)).settle
    else if j = 2 then s.writeBuoyCtl m n v
    else s
  else if 0x1000000 ≤ o ∧ o < 0x1C00000 then s.writeDbg ((o - 0x1000000) / 0x1000) (o % 0x1000) v
  else s

/-- Apply a register set in list order, each entry as one write (12 R339). -/
def State.applyRegs (s : State) (l : List (Nat × Nat)) : State := l.foldl (fun s e => s.windowWrite .chain e.1 e.2) s

/-- Every register value written so far is in force (00 R12). -/
def State.inForce (s : State) : State := { s with act := s.csr }

end Sys2Proof.Machine
end

