-- ==== Sys2Proof/Machine/Cal.lean ====
section
/-! DEFINITION. The calibration record (spec 12 R344–R348): reading it at a cold start, the live calibration, the commit. -/
namespace Sys2Proof.Machine

/-- First byte of a calibration sector (R335). -/
def calBase (k : Nat) : Nat := 0x6000000 + k * 0x10000

/-- F32 1.0. -/
def oneBytes : List Byte := leBytes 4 0x3F800000

/-- A unit quaternion and a 3 × 3 unit matrix of F32. -/
def unitQuat : List Byte := oneBytes ++ leBytes 12 0
/-- A 3 × 3 unit matrix of F32. -/
def unitMatrix : List Byte := oneBytes ++ leBytes 12 0 ++ oneBytes ++ leBytes 12 0 ++ oneBytes

/-- The live calibration where no record is valid (R345): zero biases, unit matrices, identity extrinsics, zero offsets; what
R345 does not name is 0 (log entry 71). -/
def defaultCal : List Byte :=
  let camera := padTo 128 (leBytes 64 0 ++ unitQuat)
  let imu := padTo 128 (leBytes 24 0 ++ unitMatrix ++ unitMatrix ++ leBytes 12 0 ++ unitQuat)
  let lidar := padTo 64 (leBytes 12 0 ++ unitQuat)
  padTo 0xC00 (leBytes 0x80 0 ++ ((List.replicate 16 camera).flatMap id) ++ ((List.replicate 2 imu).flatMap id) ++ ((List.replicate 4 lidar).flatMap id))

/-- The record in a sector. -/
def State.calSector (s : State) (k : Nat) : List Byte := s.norBytes (calBase k) (0xC40 + 3309)

/-- Is the record of a sector valid (R345): magic, digest, signature. -/
def State.calValid (s : State) (k : Nat) : Bool :=
  let b := s.calSector k
  let body := b.take 0xC00
  leAt b 0 4 == 0x4B43414C && (b.drop 0xC00).take 64 == digest64 body && decide (s.identity = 2) &&
  Config.verify s.sec.idPub ((b.drop 0xC00).take 64) ((b.drop 0xC40).take 3309)

/-- cal_gen of the record in a sector. -/
def State.calGen (s : State) (k : Nat) : Nat := leAt (s.calSector k) 8 4

/-- CFG_CAL_STATUS record, CFG_CAL_GEN and the cause of R357 take their values. -/
def State.calRegs (s : State) (record gen : Nat) : State :=
  ((s.setFld R.CFG_CAL_STATUS R.CFG_CAL_STATUS_record record).setReg R.CFG_CAL_GEN gen).setCause R.GLB_DEGRADED_cal_invalid (decide (record ≠ 0))

/-- Both sectors are read at a cold start (R345): the values that the live calibration takes at LOAD, and one erase. -/
def State.readCal (s : State) : State :=
  let v0 := s.calValid 0
  let v1 := s.calValid 1
  let use : Option Nat := if v0 && v1 then some (if s.calGen 0 < s.calGen 1 then 1 else 0) else if v0 then some 0 else if v1 then some 1 else none
  match use with
  | some k =>
    let s1 : State := { s with cfg := { s.cfg with calSector := some k, calPending := some ((s.calSector k).take 0xC00) } }
    let s2 := s1.calRegs 0 (s.calGen k)
    if v0 && v1 then s2.norErase (calBase (1 - k)) else s2
  | none =>
    let blank := (s.calSector 0).all (· == 0xFF) && (s.calSector 1).all (· == 0xFF)
    ({ s with cfg := { s.cfg with calSector := none, calPending := some defaultCal } }).calRegs (if blank then 2 else 1) 0

/-- The live calibration is written (R346). -/
def State.setCal (s : State) (b : List Byte) : State := s.store (s.reg64 R.CFG_CAL_LIVE_LO) (padTo 0xC00 (b.take 0xC00))

/-- Values written since the last boundary take effect together (R346). -/
def State.calBoundary (s : State) : State :=
  match s.cfg.calPending with
  | some b => ({ s with cfg := { s.cfg with calPending := none } }).setCal b
  | none => s

/-- The live calibration is an object of the system controller, allocated at LOAD in Shoal 0, which WATCH keeps powered (R345, 05 R137,
16 R422). -/
def State.calLoad (s : State) (live : List Byte) : State :=
  let a := s.allocSystem 0xC00 0x86 2 0
  let s1 := a.2.setReg64 R.CFG_CAL_LIVE_LO (placedAddr a.1)
  s1.setCal live

/-- The record of a commit (R344, R347 step 2). -/
def State.calRecord (s : State) (live : List Byte) (supplied : Bool) : List Byte × State :=
  let head := record 0x40 [(0, 4, 0x4B43414C), (4, 2, 1), (8, 4, s.reg R.CFG_CAL_GEN + 1), (0xC, 4, b2n supplied), (0x10, 8, s.tb0),
    (0x18, 8, s.dev.epoch), (0x20, 4, s.reg R.CFG_CAL_UPDATES)]
  let body := head ++ padTo 0xBC0 ((live.drop 0x40).take 0xBC0)
  let d := digest64 body
  let sig := leBytes 3309 (Config.sign (s.sec.seed.getD []) d s.free)
  (body ++ d ++ sig, s.tick)

/-- CAL_COMMIT begins at its boundary (R347 steps 1 to 3): the snapshot, or the block that becomes live; the sector that does not
hold the record is being erased. -/
def State.calStart (s : State) (block : Option (List Byte)) : State :=
  let s1 := match block with
    | some b => s.setCal b
    | none => s
  let r := s1.calRecord s1.cal block.isSome
  let sector := match s.cfg.calSector with
    | some k => 1 - k
    | none => 0
  ({ r.2 with cfg := { r.2.cfg with calJob := some ⟨0, r.1, sector⟩ } }).setFld R.CFG_CAL_STATUS R.CFG_CAL_STATUS_committing 1

/-- The commit in progress is over. -/
def State.calStop (s : State) : State :=
  ({ s with cfg := { s.cfg with calJob := none } }).setFld R.CFG_CAL_STATUS R.CFG_CAL_STATUS_committing 0

/-- The new record stands alone (R347 step 4, 12 R360). -/
def State.calEnd (s : State) (sector : Nat) : State :=
  let g := s.reg R.CFG_CAL_GEN + 1
  let s1 : State := { s with cfg := { s.cfg with calSector := some sector } }
  let s2 := (s1.calRegs 0 g).setReg R.CFG_CAL_UPDATES 0
  (s2.calStop).eventEntry 4 0 0 0 (s2.reg R.CFG_CAL_GEN)

/-- A step of the commit ends in the NOR (R347): whether the commit is over, and with success. A step that fails abandons it as
PFAIL_N does (log entry 72). -/
def State.calStep (s : State) (ok : Bool) : Option Bool × State :=
  match s.cfg.calJob with
  | none => (none, s)
  | some j =>
    let goOn := fun (s : State) (n : Nat) => { s with cfg := { s.cfg with calJob := some { j with step := n } } }
    match j.step with
    | 0 => if ok then (none, goOn (s.norErase (calBase j.sector)) 1) else (some false, s.calStop)
    | 1 => if ok then (none, goOn (s.norProgram (calBase j.sector) j.record) 2) else (some false, s.calStop)
    | 2 =>
      if !ok then (some false, s.calStop)
      else match s.cfg.calSector with
        | some _ => (none, goOn s 3)
        | none => (some true, s.calEnd j.sector)
    | _ => (some true, (if ok then s.norErase (calBase (1 - j.sector)) else s).calEnd j.sector)

/-- PFAIL_N before the record is read back abandons the commit (R347): whether one was abandoned. -/
def State.calPfail (s : State) : Bool × State :=
  match s.cfg.calJob with
  | some j => if j.step < 3 then (true, s.calStop) else (false, s)
  | none => (false, s)

end Sys2Proof.Machine
end

