-- ==== Sys2Proof/Machine/NetEvents.lean ====
section
/-! DEFINITION. The commands of the network units (spec 04): releases, weights, the end of invocations. -/
namespace Sys2Proof.Machine

/-- The first output object of invocation `seq` of the unit `x`. -/
def NUnit.out0 (x : NUnit) (seq : Nat) : Nat := (x.outObjs seq).headD 0

/-- Its size. -/
def NUnit.out0Size (x : NUnit) : Nat :=
  match x.ios.find? fun e => e.isOut with
  | some e => e.bytes
  | none => 0

/-- What the consumers inside the device do with the output of an invocation of slot `n` that has ended at TB3 instant `t`: the
estimator (R115, 08 R226–R228), the graph solver (09 R261, R262), the units that it triggers (R106). -/
def State.consumeOutput (s : State) (n t : Nat) (x : NUnit) (v : Invocation) (err : Bool) : State :=
  let id := x.out0 v.seq
  let a := placedAddr id
  let late := match s.obj id with
    | some o => o.late
    | none => false
  let s1 := if s.fuseNamed ∧ s.fuseSlot = n then s.observationBlock a x.out0Size late err v.tRel3 else s
  let enc := decide (s1.cfgFld R.GSOL_CFG R.GSOL_CFG_encoder_slot = n) && x.trigKind == 2 && decide (x.trigArg % 256 = 3)
  let s2 := if enc ∧ !err then s1.encoded v.ev a t else s1
  let ver := decide (s2.cfgFld R.GSOL_CFG R.GSOL_CFG_verify_slot = n) && x.trigKind == 2 && decide (x.trigArg % 256 = 2)
  let s3 := if ver then s2.takeVerdicts a err else s2
  if err then s3 else s3.event t { code := 1, slot := n, seq := v.seq }

/-- The slot of an invocation that has ended: a unit that is being replaced leaves it (R123), else the pending release starts
(R108). -/
def State.succeed (s : State) (n : Nat) : State :=
  match (s.nslot n).next with
  | none => s.afterInv n
  | some succ =>
    let s1 := s.freeUnit n
    match succ with
    | none => s1
    | some (ent, pl) =>
      let pins := match s1.cfg.active with
        | some im => im.pintab
        | none => []
      (s1.loadUnit ent s1.payloadStore pl pins true).2

/-- The last output of slot `n` is written at `t` (R103, R109, R110). -/
def State.invDone (s : State) (n t : Nat) : State :=
  let u := s.nslot n
  match u.unit, u.inv with
  | some x, some v =>
    if s.invOver n then (((s.finishInv n t).consumeOutput n t x v false).succeed n).settle else s
  | _, _ => s

/-- The invocation of slot `n` fails at `t` (R122). -/
def State.invFails (s : State) (n t : Nat) : State :=
  let u := s.nslot n
  match u.unit, u.inv with
  | some x, some v =>
    if s.invFailed n then (((s.failInv n t).consumeOutput n t x v true).succeed n).settle else s
  | _, _ => s

/-- Is an object a weight of a unit that is loaded. -/
def State.isWeight (s : State) (id : Nat) : Bool :=
  s.slotsUsed.any fun n => (s.nslot n).unit.any fun x => x.weights.any fun w => w.obj == id

/-- The accesses that wait for an object whose load has failed end with its code (05 R135, R144): each ends when it returns. -/
def State.failWaiting (s : State) (id n code : Nat) : State :=
  let hits := fun (a : Nat) => inPlaced a && decide (id ≤ placedPage a) && decide (placedPage a < id + n)
  let one := fun (x : Islet) => { x with
    loads := x.loads.map fun l => if hits l.loc then { l with err := code } else l
    stores := x.stores.map fun q => if hits q.loc then { q with err := code } else q
    tows := x.tows.map fun e => (e.1, if e.2.busy && hits e.2.loc then { e.2 with lost := code } else e.2)
    fetching := if x.fetching = some 0 ∧ hits (x.pc / 128 * 128) then some code else x.fetching }
  { s with islets := s.islets.map fun e => (e.1, one e.2) }

/-- A transfer of an object has ended in error (R122, 05 R135, R143): a weight's is retried once from the payload partition; when the retry
fails, the invocations that need it fail. An UNLOADED object's accesses end with the error. -/
def State.transferFailed (s : State) (id code : Nat) : State :=
  match s.obj id with
  | none => s
  | some o =>
    if s.isWeight id && !o.retried then
      let s1 := s.setObj id (some { o with res := .unloaded, retried := true })
      let s2 := s1.startLoad id o.cls o.owner 1 0
      if (s2.obj id).any fun q => q.move.isSome then s2 else s2.failWaiting id (pagesOf o.size) ccNoSpace
    else
      let s1 := s.setObj id (some { o with retried := false })
      let s2 := if o.res = .unloaded then s1.failWaiting id (pagesOf o.size) code else s1
      s2.slotsUsed.foldl (fun s n =>
        let u := s.nslot n
        match u.unit, u.inv with
        | some x, some v => if (x.layerWeights v.layer ++ x.layerWeights (v.layer + 1) ++ x.layerWeights (v.layer + 2)).any fun j =>
            (x.weights[j]?).any fun w => w.obj == id then s.mapInv n fun v => { v with weightFail := true } else s
        | _, _ => s) s2

/-- A transfer of an object ends with a code (05 R133–R136, R143): what was requested of it meanwhile is requested now, buoys are signalled,
failed weights retried, those that wait for credits go on. -/
def State.moveEnded (s : State) (id code : Nat) (atDest : Bool) : State :=
  if (s.obj id).any fun o => o.move.any fun m => !m.paths.isEmpty then
    let s1 := (s.endReads (.payload id)).endMove id code atDest
    let s2 := if 0x10 ≤ code then s1.transferFailed id code else s1.loadedWant id
    s2.weightSyncAll.settle
  else s

/-- INVOCATION_RELEASE (R108). -/
def execInvocationRelease (n : Fin 32) (t : Nat) (s : State) : Host.Outcome State Fault Refusal :=
  .next (s.whenAwake fun s => ((s.at t).takeRelease n.val).settle)

/-- PARTIAL_INPUT_TIMEOUT (R107). -/
def execPartialInputTimeout (n : Fin 32) (t : Nat) (s : State) : Host.Outcome State Fault Refusal :=
  .next (s.whenAwake fun s => (s.at t).partialTimeout n.val t)

/-- WEIGHT_PREFETCH (R112): the Pilot requests the weights of layer `k` of slot `n`. -/
def execWeightPrefetch (n : Fin 32) (k : Fin 4096) (s : State) : Host.Outcome State Fault Refusal :=
  .next (s.whenAwake fun s => (s.prefetch n.val k.val).settle)

/-- WEIGHT_RAISE (R113). -/
def execWeightRaise (n : Fin 32) (t : Nat) (s : State) : Host.Outcome State Fault Refusal := .next (s.whenAwake fun s => ((s.at t).raiseWeights n.val).settle)

/-- INVOCATION_DONE (R103, R109, R110, R114). -/
def execInvocationDone (n : Fin 32) (t : Nat) (s : State) : Host.Outcome State Fault Refusal := .next (s.whenAwake fun s => (s.at t).invDone n.val t)

/-- INVOCATION_FAIL (R122). -/
def execInvocationFail (n : Fin 32) (t : Nat) (s : State) : Host.Outcome State Fault Refusal := .next (s.whenAwake fun s => (s.at t).invFails n.val t)

end Sys2Proof.Machine
end

