-- ==== Sys2Proof/Machine/CfgOps.lean ====
section
/-! DEFINITION. Configuration sets in use (spec 12 R341–R343, 05 R137, R151, R152, 04 R116–R119, R123): pins, the objects of LOAD, the
units of a set, the staging of the shadow set, the exchange of the sets. -/
namespace Sys2Proof.Machine

/-- The objects of a subsystem in the order of their allocation, which is that of their ids (05 R152; log entry 65). -/
def State.subsystemObjs (s : State) (owner : Nat) : List (Nat × Obj) := s.place.list.filter fun e => e.2.owner == owner

/-- Pages that a pin's object takes and the subsystem object it names; none when no object has its name (05 R151, R152). -/
def State.pinPages (s : State) (net : List (List Byte)) (store : List (List Byte × List Byte)) (p : List Byte) : Option (Nat × Option Nat) :=
  let kind := leAt p 0 1
  let k := leAt p 2 2
  if kind = 4 then ((s.subsystemObjs (leAt p 1 1))[k]?).map fun e => (pagesOf e.2.size, some e.1)
  else
    match net.find? fun e => leAt e 0x40 1 == leAt p 1 1 with
    | none => none
    | some e =>
      match (store.find? fun q => q.1 == e.take 64).bind fun q => parseUnit q.2 e with
      | none => none
      | some x =>
        if kind = 1 then (x.weights[k]?).map fun w => (pagesOf w.size, none)
        else if kind = 2 then (if k < x.stateCount then some (2 * pagesOf x.stateBytes, none) else none)
        else if kind = 3 then ((arenaParts x.arenaBytes)[k]?).map fun n => (pagesOf n, none)
        else none

/-- Pages of a tier instance that pins may take: what system objects and retired pages leave (05 R137). -/
def State.pinRoom (s : State) (t i : Nat) : Nat :=
  s.instPages t - s.retiredIn t i - s.place.list.foldl (fun n e => if e.2.system then n + e.2.occupies t i else n) 0

/-- The instances that a pin admits. -/
def pinInsts (p : List Byte) : List Nat :=
  let t := leAt p 4 1
  (upTo (tierInsts t)).filter fun i => leAt p 5 1 == 0xFF || instIsle t i == leAt p 5 1

/-- Where pins go, each taken in turn by the instance that has most room left (05 R152; log entry 65): do they fit together, and the tier, the
instance and the pages of each by the key of its entry. Subsystem objects that stand where they are pinned, and state tensors pinned already,
take nothing more. -/
def State.pinAssign (s : State) (net : List (List Byte)) (store : List (List Byte × List Byte)) (pins : List (List Byte)) :
    Bool × List (Nat × Nat × Nat × Nat) :=
  pins.foldl (fun (a : Bool × List (Nat × Nat × Nat × Nat)) p =>
    let t := leAt p 4 1
    match s.pinPages net store p with
    | none => (false, a.2)
    | some (n, sub) =>
      let left := fun (i : Nat) => s.pinRoom t i - a.2.foldl (fun m e => if e.2.1 = t ∧ e.2.2.1 = i then m + e.2.2.2 else m) 0
      let again := leAt p 0 1 == 2 && a.2.any fun e => e.1 % 2 ^ 16 == leAt p 0 2
      let here : Bool := match sub.bind s.obj with
        | some o => o.tier == t && (pinInsts p).contains o.inst
        | none => false
      if here || again then a
      else if t < 1 ∨ 3 < t then (false, a.2)
      else match pinInsts p with
        | [] => (false, a.2)
        | i0 :: is =>
          let i := is.foldl (fun b i => if left b < left i then i else b) i0
          (a.1 && decide (n ≤ left i), a.2 ++ [((pinOf p).key, t, i, n)])) (true, [])

/-- Do pins fit together. -/
def State.pinsFit (s : State) (net : List (List Byte)) (store : List (List Byte × List Byte)) (pins : List (List Byte)) : Bool :=
  (s.pinAssign net store pins).1

/-- The pages of the pins of units to be loaded are kept for them until their objects are allocated (05 R137, R152). -/
def State.holdPins (s : State) (net : List (List Byte)) (store : List (List Byte × List Byte)) (pins : List (List Byte)) : State :=
  let mine := pins.filter fun p => decide (leAt p 0 1 ≤ 3) && net.any fun e => leAt e 0x40 1 == leAt p 1 1
  { s with place := { s.place with hold := (s.pinAssign net store mine).2.foldl (fun (m : SMap (Nat × Nat × Nat)) e =>
      SMap.set (fun _ => (0, 0, 0)) m e.1 e.2) [] } }

/-- The pins that LOAD keeps and those it drops, which fit or do not exist (05 R152). -/
def State.keepPins (s : State) (net : List (List Byte)) (store : List (List Byte × List Byte)) (pins : List (List Byte)) :
    List (List Byte) × List (List Byte) :=
  let real := pins.filter fun p => (s.pinPages net store p).isSome
  let n := ((upTo (real.length + 1)).filter fun k => s.pinsFit net store (real.take k)).foldl max 0
  let kept := real.take n
  (kept, pins.filter fun p => !kept.contains p)

/-- The record of a dropped pin (05 R152). -/
def State.dropPin (s : State) (net : List (List Byte)) (store : List (List Byte × List Byte)) (p : List Byte) : State :=
  let t := leAt p 4 1
  let i := (pinInsts p).headD 0
  let n := match s.pinPages net store p with
    | some e => e.1
    | none => 0
  s.noteDecision { epoch := s.dev.epoch, kind := 7, reason := 2, cls := 0, owner := leAt p 1 1, dst := placeByte t i, objects := 1
                   metric := mibOf n, target := mibOf (s.pinRoom t i), since := s.tb3, always := true }

/-- A subsystem pin takes effect: its object stands in the pin's tier and Isle with the pinned bit (05 R152). -/
def State.pinSubsystem (s : State) (p : List Byte) : State :=
  if leAt p 0 1 ≠ 4 then s
  else
    match (s.subsystemObjs (leAt p 1 1))[leAt p 2 2]? with
    | none => s
    | some (id, o) =>
      let t := leAt p 4 1
      let i := if o.tier = t ∧ (pinInsts p).contains o.inst then o.inst
        else (pinInsts p).foldl (fun b i => if s.freeIn t b < s.freeIn t i then i else b) ((pinInsts p).headD 0)
      (s.setObj id (some { o with tier := t, inst := i, home := if t = 3 then i else o.home, pinned := true })).placeRegs

/-- Everything that stands in the Placed Range is given up: a LOAD starts. Generations stay (01 R24). -/
def State.unplace (s : State) : State :=
  let still := s.place.objs.map fun e => (e.1, e.2.map fun o => { o with move := none, promo := none })
  let s1 : State := { s with place := { s.place with objs := still, decs := [], credits := [], waiters := s.place.waiters.filter fun w => match w with
    | .outside _ => true
    | _ => false } }
  let s2 := s1.slotsUsed.foldl State.freeUnit s1
  let s3 := (s2.place.list.map fun e => e.1).foldl (fun s id => s.freeObj id) s2
  let s4 := (upTo 16).foldl (fun s n => s.setSport n { s.sport n with
    sig := [], slots := [], oldSlots := [], nextSlot := 0, ringObj := 0, depthRing := 0, tracks := [], prev := none }) s3
  let s5 := (upTo 8).foldl (fun s p => s.setSpair p { s.spair p with
    maps := [], nextMap := 0, mapBytes := 0, buffer := 0, ringObj := 0, matched := [], mesh := [], nextMesh := [] }) s4
  let s6 := (upTo 4).foldl (fun s k => s.setStream k { s.stream k with ringObj := 0, count := 0 }) s5
  let s7 := (upTo 32).foldl (fun s n => if s.unitState n = 4 then s.setUnitState n 0 else s) s6
  { s7 with fuse := { s7.fuse with snapObj := 0 } }

/-- The objects of Shore as the configuration in force asks for them, whether Shore is powered or not (05 R137, R152). -/
def State.shoreLoad (s : State) : State :=
  let on := fun (s : State) (n : Nat) => s.pcfg n R.SHORE_PORT_CFG_enable == 1 && (s.frameCfg n).ok
  let s1 := (upTo 16).foldl (fun s n => if on s n then s.ensureSlots n else s) s
  let s2 := (upTo 8).foldl (fun s p => if s.pairCfg p R.SHORE_PAIR_CFG_enable = 1 ∧ on s (2 * p) ∧ on s (2 * p + 1) ∧ s.pairOk p then s.ensurePair p else s) s1
  (upTo 4).foldl State.ensureStream s2

/-- The Pilot's plan for a slot, or one that leaves everything to the layer records. -/
def planFor (plans : List UnitPlan) (n : Nat) : UnitPlan :=
  match plans.find? fun p => p.slot.val == n with
  | some p => p
  | none => { slot := Fin.ofNat 32 n, achievable := 0, isle := 0, islets := [], tiers := [], evec := 0 }

/-- Load units in the order of the network table (04 R119, 05 R152): the pages of their pins are kept for them first. An entry that names no
slot of 0 to 31 loads nothing. -/
def State.loadUnits (s : State) (net : List (List Byte)) (store : List (List Byte × List Byte)) (pins : List (List Byte)) (plans : List UnitPlan)
    (decided : Bool) : State :=
  let own := net.filter fun e => decide (leAt e 0x40 1 < 32)
  let s1 := own.foldl (fun (s : State) e => (s.loadUnit e store (planFor plans (leAt e 0x40 1)) pins decided).2) (s.holdPins own store pins)
  let s2 : State := { s1 with place := { s1.place with hold := [] } }
  s2.setCause R.GLB_DEGRADED_net_refused ((upTo 32).any fun n => s2.unitState n == 4)

/-- The work of LOAD (13 R365, R367, 05 R137, R152): system objects, pins, units; `store` is the payload table as of the mount head,
`live` the live calibration. -/
def State.loadAll (s : State) (store : List (List Byte × List Byte)) (plans : List UnitPlan) (live : List Byte) : State :=
  let (net, table) : List (List Byte) × List (List Byte) := match s.cfg.active with
    | some i => (i.nettab, i.pintab)
    | none => ([], [])
  let s1 := (((s.unplace.calLoad live).shoreLoad).gsolLoad).reefLoad
  let a := s1.allocSystem 128 0x81 2 0
  let s2 : State := { a.2 with fuse := { a.2.fuse with snapObj := a.1 }, gsol := { a.2.gsol with off := false }, reef := { a.2.reef with off := false } }
  let k := s2.keepPins net store table
  let s3 := k.1.foldl State.pinSubsystem s2
  let s4 := k.2.reverse.foldl (fun (s : State) p => s.dropPin net store p) s3
  ((s4.setCause R.GLB_DEGRADED_pin_drop (!k.2.isEmpty)).loadUnits net store k.1 plans false).settle

/-- An image becomes the active set (R340, R343): its identity shows; its register set is applied and in force. -/
def State.activate (s : State) (i : Image) (slot : Nat) : State :=
  let s1 : State := { s with cfg := { s.cfg with active := some i }, cond := { s.cond with cansig := i.cansig } }
  let s2 := ((s1.setReg R.CFG_ACTIVE_SEQ i.seq).setFld R.CFG_BOOT_STATUS R.CFG_BOOT_STATUS_active_slot slot).secRegs
  ((s2.applyRegs i.regs).inForce)

/-- CFG_SHADOW_STATUS and CFG_SHADOW_SEQ (R363, R364). -/
def State.shadowRegs (s : State) (st reason slot seq : Nat) : State :=
  (s.setReg R.CFG_SHADOW_STATUS (reason * 2 ^ 16 + slot * 2 ^ 8 + st)).setReg R.CFG_SHADOW_SEQ seq

/-- The shadow set is discarded (R341, R370, 13 R373). -/
def State.dropShadow (s : State) : State :=
  ({ s with cfg := { s.cfg with shadow := none, shadowPlans := [], staging := none } }).shadowRegs 0 0 0 0

/-- The active slot (R363). -/
def State.activeSlot (s : State) : Nat := s.fld R.CFG_BOOT_STATUS R.CFG_BOOT_STATUS_active_slot

/-- The slot of source NOR_OTHER (R341). -/
def State.otherSlot (s : State) : Nat := if s.activeSlot = 2 then s.firstSlot else 1 - s.activeSlot

/-- The slot that persist programs (R341). -/
def State.persistSlot (s : State) : Nat := if s.activeSlot = 2 then 1 - s.firstSlot else 1 - s.activeSlot

/-- The payload list of a STAGE_SHADOW argument block: digest, host address, size (R341). -/
def stagePayloads (block : List Byte) : List (List Byte × Nat × Nat) :=
  (entriesOf 80 ((block.drop 0x40).take (80 * leAt block 0x14 4))).map fun e => (e.take 64, leAt e 64 8, leAt e 72 8)

/-- The next part of what a staging of the chain bank reads from the head (R341, R349). -/
def State.stageAsk (s : State) : State :=
  match s.cfg.staging.bind fun g => g.todo.head?.map fun e => (e, g.got.length) with
  | some ((a, n), k) => s.askHead (a + k) (n - k) .stage
  | none => s

/-- A part has come, or failed: the rest of a range that failed is not read. -/
def Staging.part (g : Staging) (r : Option (List Byte)) : Staging :=
  match g.todo, r with
  | [], _ => g
  | _ :: q, none => { g with todo := q, got := [], read := g.read ++ [none] }
  | (_, n) :: q, some b =>
    let got := g.got ++ b
    if n ≤ got.length then { g with todo := q, got := [], read := g.read ++ [some (got.take n)] } else { g with got := got }

/-- A read of a staging at the head has ended (R341, R349). -/
def State.stagePart (s : State) (r : Option (List Byte)) : State :=
  ({ s with cfg := { s.cfg with staging := s.cfg.staging.map fun (g : Staging) => g.part r } }).stageAsk

/-- STAGE_SHADOW begins (R341): the shadow set held before is discarded; the image and the payloads are being read. -/
def State.stageStart (s : State) (m : Master) (block : List Byte) : State :=
  let host := decide (leAt block 0 1 = 1)
  let persist := host && decide (leAt block 1 1 = 1)
  let slot := if !host then s.otherSlot else if persist then s.persistSlot else 2
  let s1 := s.dropShadow
  let s2 : State := { s1 with cfg := { s1.cfg with staging := some { source := b2n host, persist := persist, slot := slot, block := block, master := m } } }
  let s3 := s2.shadowRegs 1 0 slot 0
  let ranges := (if host then [(leAt block 8 8, leAt block 0x10 4)] else []) ++ (stagePayloads block).map fun e => e.2
  match m with
  | .host => ranges.foldl (fun s e => if s.canMaster then s.emit (.hostRead e.1 e.2) else s) s3
  | .chain =>
    ({ s3 with cfg := { s3.cfg with staging := s3.cfg.staging.map fun (g : Staging) => { g with todo := ranges } } }).forget .stage |>.stageAsk

/-- Staging ends with a reason (R341, R342). -/
def State.stageFail (s : State) (m : Master) (slot reason : Nat) : State :=
  let s1 : State := { s with cfg := { s.cfg with staging := none, shadow := none, shadowPlans := [] } }
  let st : CStatus := if reason = 1 ∨ reason = 2 then .denied else if reason = 0xD then .conflictLost else .badArg
  let s2 := if st = .denied then s1.inc R.SEC_DENIED else s1
  (s2.shadowRegs 3 reason slot 0).finishCmd m st

/-- Does a staged descriptor agree with the mounted superblock (R339). -/
def State.nandAgrees (s : State) (d : List Byte) : Bool :=
  if s.mapState = 2 ∨ s.mapState = 3 then
    let b := s.map.superBlock
    leAt d 0 4 == leAt b 0x18 4 && leAt d 4 2 == leAt b 0x1C 2 && leAt d 8 4 == leAt b 0x20 4 && leAt d 0x10 4 == leAt b 0x28 4
  else true

/-- Is a unit of the network table one that runs in its slot already (04 R123). -/
def State.keepsUnit (s : State) (e : List Byte) : Bool :=
  let n := leAt e 0x40 1 % 32
  match (s.nslot n).unit with
  | some x => x.digest == e.take 64 && (s.nslot n).next.isNone
  | none => false

/-- The shadow reason of a load result (R342, 04 R127). -/
def shadowReason (code : Nat) : Nat :=
  if code = 1 then 0 else if code = 2 then 7 else if code = 3 then 8 else if code = 4 then 4 else if code = 6 then 5 else 6

/-- Steps 4 and 5 of the verification (R341): the reason, 0 when every unit is there and fits and every pin fits. The fit is a trial on
a copy of the device as it stands (log entry 66). -/
def State.stageCheck (s : State) (im : Image) (plans : List UnitPlan) : Nat :=
  let store := s.payloadStore
  let trial := (s.applyRegs im.regs).inForce
  let there := im.nettab.findSome? fun e =>
    match store.find? fun p => p.1 == e.take 64 with
    | none => some 6
    | some p =>
      match parseUnit p.2 e with
      | none => some 6
      | some x => if x.weights.all fun w => store.any fun q => q.1 == w.digest then none else some 5
  match there with
  | some r => r
  | none =>
    let r := im.nettab.foldl (fun (a : Nat × State) e =>
      if a.1 ≠ 0 ∨ s.keepsUnit e then a
      else
        let l := a.2.loadUnit e store (planFor plans (leAt e 0x40 1 % 32)) im.pintab false
        (shadowReason l.1, l.2)) (0, trial)
    if r.1 ≠ 0 then r.1
    else if (im.pintab.all fun p => (s.pinPages im.nettab store p).isSome) && s.pinsFit im.nettab store im.pintab then 0 else 9

/-- The Pilot's estimates for the units of a staged set show when it has taken their fit decision (04 R116). -/
def State.stageShow (s : State) (im : Image) (plans : List UnitPlan) : State :=
  im.nettab.foldl (fun (s : State) e =>
    let n := leAt e 0x40 1 % 32
    if s.keepsUnit e then s else s.showAchievable n (planFor plans n).achievable.toNat) s

/-- Staging comes to its end once its payloads are durable (R341, R342). -/
def State.stageFinish (s : State) : State :=
  match s.cfg.staging with
  | none => s
  | some g =>
    match g.image with
    | none => s
    | some b =>
      if s.map.head < g.commit ∧ s.mapState = 2 then s
      else
        let im := parseImage b
        let r := s.stageCheck im g.plans
        let s := s.stageShow im g.plans
        if r ≠ 0 then s.stageFail g.master g.slot r
        else
          let s1 := if g.persist then
              if g.norOk then ((upTo (slotSize / 0x10000)).foldl (fun (s : State) i => s.norErase (slotBase g.slot + i * 0x10000)) s).norProgram (slotBase g.slot) (b.take im.bytes)
              else s
            else s
          if g.persist && !g.norOk then s1.stageFail g.master g.slot 0xA
          else
            let s2 : State := { s1 with cfg := { s1.cfg with staging := none, shadow := some im, shadowPlans := g.plans, shadowSlot := g.slot } }
            (s2.shadowRegs 2 0 g.slot im.seq).finishCmd g.master .done

/-- Write the listed payloads (R285, step 3 of R341): the reason. -/
def State.stageWrite (s : State) : List ((List Byte × Nat × Nat) × Option (List Byte)) → Nat × State
  | [] => (0, s)
  | (_, none) :: _ => (0xB, s)
  | (p, some b) :: r =>
    if digest64 (b.take p.2.2) ≠ p.1 ∨ b.length < p.2.2 then (4, s) else (s.writePayload p.1 (b.take p.2.2)).stageWrite r

/-- The image and the payloads have been read (R341): steps 1 to 3, then what follows them. `image` and `data` are what the reads of
host memory gave, none for one that failed; a staging of the chain bank has read them from the head. -/
def State.stageRead (s : State) (image : Option (List Byte)) (data : List (Option (List Byte))) (norOk : Bool) (plans : List UnitPlan) : State :=
  match s.cfg.staging with
  | none => s
  | some g =>
    let far := decide (g.master = .chain)
    if g.image.isSome ∨ far ∧ g.todo ≠ [] then s
    else
      let reads := far || s.canMaster
      let fromHost := if far then (g.read.headD none) else image
      let given := if far then g.read.drop g.source else data
      let n := leAt g.block 0x10 4
      let bytes := if g.source = 0 then some (s.slotImage g.slot) else if reads then fromHost.map fun b => padTo n (b.take n) else none
      match bytes with
      | none => s.stageFail g.master g.slot 0xB
      | some b =>
        let v := s.verifyImage b (if g.source = 0 then slotSize else n)
        let pays := stagePayloads g.block
        if v.1 ≠ 0 then v.2.stageFail g.master g.slot v.1
        else if !v.2.nandAgrees (parseImage b).nand then v.2.stageFail g.master g.slot 3
        else if !pays.isEmpty && decide (v.2.mapState ≠ 2) then v.2.stageFail g.master g.slot 0xC
        else
          let got := pays.zipIdx.map fun e => (e.1, if reads then (given[e.2]?).getD none else none)
          let w := v.2.stageWrite got
          if w.1 ≠ 0 then w.2.stageFail g.master g.slot w.1
          else
            let s1 := if pays.isEmpty then w.2 else w.2.closeOpen
            let last := if pays.isEmpty then 0 else s1.map.nextId - 1
            ({ s1 with cfg := { s1.cfg with staging := some { g with image := some b, plans := plans, commit := last, norOk := norOk } } }).stageFinish

/-- STAGE_SHADOW is aborted (R342, R353). -/
def State.stageAbort (s : State) : State :=
  match s.cfg.staging with
  | some g =>
    let s1 : State := { s with cfg := { s.cfg with staging := none, shadow := none, shadowPlans := [] } }
    s1.shadowRegs 3 0xD g.slot 0
  | none => s

/-- An object takes the pin of the new set, or loses its own (05 R137, 12 R343): a pinned one is moved to the pin's tier and Isle. -/
def State.markPin (s : State) (id : Nat) (p : Option Pin) : State :=
  match s.obj id with
  | none => s
  | some o =>
    match p with
    | none => if o.pinned then s.setObj id (some { o with pinned := false }) else s
    | some p =>
      let s1 := if o.tier = p.tier ∧ (p.isle.isNone ∨ p.isle = some (instIsle p.tier o.inst)) then s
        else (s.setObj id (some { o with pinned := false })).requestMove id p.tier (s.bestInst p.tier (p.isle.getD (instIsle o.tier o.inst)) 0) 0 0x85 8 0 0 false
      match s1.obj id with
      | some q => s1.setObj id (some { q with pinned := true })
      | none => s1

/-- The pins of the units that a swap keeps follow the new table (R343, 05 R152). -/
def State.repin (s : State) (pins : List (List Byte)) : State :=
  s.slotsUsed.foldl (fun s n =>
    match (s.nslot n).unit with
    | none => s
    | some x =>
      let s1 := x.weights.zipIdx.foldl (fun s e => match s.obj e.1.obj with
        | some o => if o.owner = n then s.markPin e.1.obj (pinFor pins 1 n e.2) else s
        | none => s) s
      let s2 := x.arenaObjs.zipIdx.foldl (fun s e => s.markPin e.1 (pinFor pins 3 n e.2)) s1
      if x.stateCount = 0 then s2
      else (s2.markPin x.stateObj (pinState pins n)).markPin (x.stateObj + pagesOf x.stateBytes) (pinState pins n)) s

/-- The pinned bits of the subsystem objects follow the new table; system objects stay where they are (05 R137, R152). -/
def State.repinSubsystems (s : State) (pins : List (List Byte)) : State :=
  let want := pins.filterMap fun p => if leAt p 0 1 = 4 then ((s.subsystemObjs (leAt p 1 1))[leAt p 2 2]?).map fun e => e.1 else none
  (s.place.list.filter fun e => decide (0x80 ≤ e.2.owner) && e.2.pinned != want.contains e.1).foldl (fun s e =>
    s.setObj e.1 (some { e.2 with pinned := want.contains e.1 })) s

/-- A unit that stays takes the hints of its new entry (04 R97): class, affinity, policy, deadline, stretch; an assignment outside the new
affinity is replaced. -/
def State.newEntry (s : State) (n : Nat) (ent : List Byte) : State :=
  let u := s.nslot n
  match u.unit with
  | none => s
  | some x =>
    if !entryOk ent then s
    else
      let y := x.withEntry ent
      let objs := s.place.objs.map fun e => (e.1, e.2.map fun o =>
        if o.owner = n then { o with confCls := y.cls, cls := if o.cls = o.confCls then y.cls else o.cls } else o)
      let s1 : State := { s with place := { s.place with objs := objs } }
      let s2 := (s1.setNslot n { u with unit := some y, stretch := min u.stretch (max 1 y.maxStretch), plan := if y.planOk u.plan then u.plan else y.leastPlan })
      let st := (s2.nslot n).stretch
      let s3 := ((s2.setFld (R.NET_UNIT_STATE + 0x40 * n) R.NET_UNIT_STATE_fit_policy (b2n y.elastic)).setFld (R.NET_UNIT_STATE + 0x40 * n)
        R.NET_UNIT_STATE_stretch (st - 1)).setReg (R.NET_UNIT_ACT_PERIOD + 0x40 * n) (st * s2.reg (R.NET_UNIT_CFG_PERIOD + 0x40 * n))
      if s3.unitState n = 3 ∧ st = 1 then s3.setUnitState n 2 else s3

/-- Slot `n` meets the new set (04 R123): a unit that stays goes on; one whose invocation is in flight retires; else the slot is freed. -/
def State.swapSlot (s : State) (net : List (List Byte)) (plans : List UnitPlan) (n : Nat) : State :=
  let ent := net.find? fun e => leAt e 0x40 1 % 32 == n
  let keep : Bool := match ent with
    | some e => s.keepsUnit e
    | none => false
  let u := s.nslot n
  if keep then s.newEntry n (ent.getD [])
  else if u.unit.isNone then (if s.unitState n = 4 then s.setUnitState n 0 else s)
  else if u.inv.isSome then
    (s.setNslot n { u with pend := none, due := [], camSets := [], next := some (ent.map fun e => (e, planFor plans n)) }).setUnitState n 6
  else s.freeUnit n

/-- The settings of the fusion unit in force (08 R236, R245, R246). -/
def State.fuseSettings (s : State) : List (Nat × Word32) := s.act.filter fun e => e.1 / 2 ^ 16 == R.FUSE_OUT_CFG / 2 ^ 16

/-- SWAP_CONFIG exchanges the sets (R343): registers and tables of the new set together; units as 04 R123 says; the former active set is
the STALE shadow. The next record says so when N or another setting of the fusion unit changes (08 R236). -/
def State.swapSets (s : State) : State :=
  match s.cfg.shadow with
  | none => s
  | some im =>
    let old := s.cfg.active
    let oldSlot := s.activeSlot
    let plans := s.cfg.shadowPlans
    let s1 := s.activate im s.cfg.shadowSlot
    let s2 : State := { s1 with cfg := { s1.cfg with shadow := old, shadowPlans := [], shadowSlot := oldSlot, swapped := s1.cfg.swapped || decide (s1.fuseSettings ≠ s.fuseSettings) }
                                sec := { s1.sec with armed := true } }
    let s3 := (s2.shadowRegs 4 0 oldSlot (match old with | some i => i.seq | none => 0)).inc R.CFG_SWAPS
    let s4 := (upTo 32).foldl (fun (s : State) n => s.swapSlot im.nettab plans n) s3
    let fresh := im.nettab.filter fun e => !s.keepsUnit e && (s4.nslot (leAt e 0x40 1 % 32)).unit.isNone
    let s5 := (s4.repin im.pintab).repinSubsystems im.pintab
    ((s5.setCause R.GLB_DEGRADED_pin_drop false).loadUnits fresh s5.payloadStore im.pintab plans true).settle

end Sys2Proof.Machine
end

