-- ==== Sys2Proof/Machine/Modes.lean ====
section
/-! DEFINITION. The device states (spec 12 R354–R357, 13 R370–R373, 16 R421–R427, R433, R434): entering and leaving them, HALT's steps,
RECOVER's steps, WATCH, SLEEP and the wake, the shedding of PFAIL_N. -/
namespace Sys2Proof.Machine

/-- PWR_DOMAINS and PWR_ATOLL_MHZ_a follow the device state (16 R422, R429, R469); an Atoll runs at 1,500 MHz less the steps taken
under the cap (log entry 73). -/
def State.domains (s : State) : State :=
  let base := match s.dev.state with
    | .off | .sleep => 1
    | .boot => 3
    | .watch => 0x17
    | _ => 0xFF
  let ports := if base < 4 then 0 else
    (upTo 16).foldl (fun m n => if s.pcfg n R.SHORE_PORT_CFG_enable = 1 ∧ s.portPowered n then m + 2 ^ n else m) 0
  let mhz := fun (a : Nat) => match s.dev.state with
    | .off | .sleep | .boot => 0
    | .watch => if a = 0 then 400 else 0
    | _ => 1500 - 100 * (s.pwr.steps.filter fun b => b == a).length
  (upTo 6).foldl (fun s a => s.setReg (R.PWR_ATOLL_MHZ + 4 * a) (mhz a)) (s.setReg R.PWR_DOMAINS (ports * 256 + base))

/-- Enter RUN, DEGRADED, SAFE or TEST: Shore is powered, its configuration is checked, and RUN is DEGRADED while a cause holds (12 R354,
R357, 16 R422, R469); the time from the Skerry's wake shows (13 R393). -/
def State.goTo (s : State) (x : DState) (t : Nat) : State :=
  let old := s.dev.state
  let s0 := s.setState (if x = .run then .degraded else x)
  let s1 := ({ s0 with shore := { s0.shore with off := false } }).shoreCheck t
  let y : DState := if x = .run ∧ s1.reg R.GLB_DEGRADED ≠ 0 then .degraded else x
  let s2 := (({ s1 with dev := { s1.dev with posted := s1.reg R.GLB_DEGRADED } }).setState old).enter y
  let s3 := match s2.dev.tStart with
    | some t0 => if x = DState.test then s2 else ({ s2 with dev := { s2.dev with tStart := none } }).setReg R.HOST_START_US (satU 32 ((t - t0) / 1000))
    | none => s2
  s3.domains

/-- An invocation ends as HALT ends it (12 R356, 04 R122): its outputs carry err, its record FAILED; nothing is counted. -/
def State.endInv (s : State) (n t : Nat) : State :=
  let u := s.nslot n
  match u.unit, u.inv with
  | some x, some v0 =>
    let v := v0.flushed t
    let s1 := s.dropIslets v.running
    let s2 := s1.markOutputs (x.outObjs v.seq) false true
    let u1 : NSlot := { u with inv := none, pend := none, due := [], camSets := [] }
    ((s2.setNslot n u1).putInvRecord x v.seq (s2.invRecord n t u1 x v false true)).succeed n
  | some _, none => s.setNslot n { u with pend := none, due := [], camSets := [] }
  | none, _ => s

/-- Steps 1 to 3 of HALT begin (R356): invocations end, Shore, the estimator, the solver and the Reef engines stop, the open commit
closes. -/
def State.stopWork (s : State) (t : Nat) : State :=
  let s1 := (upTo 32).foldl (fun (s : State) n => s.endInv n t) s
  let s2 := s1.shoreStop
  let s3 : State := { s2 with dev := { s2.dev with estStopped := true }, fuse := { s2.fuse with boundary := none, frozen := none, pass := none }
                              gsol := { s2.gsol.stopped with off := true }
                              reef := { s2.reef with off := true } }
  let s4 := (s3.gsolRegs).reefSync
  (if s4.map.refuse then s4 else s4.closeOpen).domains

/-- Is every commit durable that holds a record. -/
def State.mapQuiet (s : State) : Bool :=
  s.map.flight.isNone && s.map.wait.isEmpty && (match s.map.cur with
    | some c => decide (c.records = 0) && c.pages.isEmpty
    | none => true)

/-- The master whose running job meets a test. -/
def State.jobOf (s : State) (f : Job → Bool) : Option Master := (s.dev.jobs.find? fun j => f j.2).map fun j => j.1

/-- A job begins for a master. -/
def State.addJob (s : State) (m : Master) (j : Job) : State := { s with dev := { s.dev with jobs := s.dev.jobs ++ [(m, j)] } }

/-- The job of a master changes. -/
def State.setJob (s : State) (m : Master) (j : Job) : State :=
  { s with dev := { s.dev with jobs := s.dev.jobs.map fun k => if k.1 = m then (m, j) else k } }

/-- HALT's step 4 once its commit is durable (R356). -/
def State.haltTry (s : State) : State :=
  if s.dev.halting && s.mapQuiet then
    let s1 : State := { s with dev := { s.dev with halting := false } }
    let s2 := match s1.jobOf (fun j => j == .halt) with
      | some m => s1.finishCmd m .done
      | none => s1
    (s2.enter .halt).domains
  else s

/-- HALT, or a trip as it (R356, R432): a start-up or a RECOVER in progress goes no further. -/
def State.haltStart (s : State) (t : Nat) : State :=
  let s1 := s.stopWork t
  ({ s1 with dev := { s1.dev with halting := true, recoverStep := 0 }, pwr := { s1.pwr with wakePending := false } }).haltTry

/-- Does WATCH keep a tier instance (16 R422, R426): Lagoon 0, Shoal 0, the host region. -/
def watchKeeps (t i : Nat) : Bool := (t == 1 && i == 0) || (t == 2 && i == 0) || t == 4

/-- A unit's own objects apart from its code and weights. -/
def NUnit.ownObjs (x : NUnit) : List Nat :=
  [x.ringObj] ++ x.arenaObjs ++ (if x.stateCount = 0 then [] else [x.stateObj, x.stateObj + pagesOf x.stateBytes]) ++
    x.ios.flatMap fun e => if e.isOut then (upTo e.copies).map fun k => e.obj + k * pagesOf e.bytes else []

/-- An object as the domains that WATCH switches off leave it (16 R426): immutable ones UNLOADED, mutable ones freed. -/
def State.watchObject (s : State) (id : Nat) : State :=
  match s.obj id with
  | none => s
  | some o0 =>
    let o : Obj := { o0 with move := none, promo := none, res := if o0.res = .unloaded then .unloaded else .resident }
    if o.res = .unloaded ∨ watchKeeps o.tier o.inst then s.setObj id (some o)
    else if o.immutable then s.setObj id (some { o with res := .unloaded, tier := 3, inst := o.home })
    else (s.setObj id (some o)).freeObj id

/-- WATCH is entered (16 R422, R426): invocations on Atolls 1 to 5, and those whose objects go, end; state tensors other than the fusion
network's are reset; the directory is freed. -/
def State.watchEnter (s : State) (t : Nat) : State :=
  let goes := fun (s : State) (n : Nat) =>
    let u := s.nslot n
    match u.unit, u.inv with
    | some x, some v => v.running.any (fun i => decide (512 ≤ i)) || x.ownObjs.any fun id => match s.obj id with
        | some o => !watchKeeps o.tier o.inst
        | none => false
    | _, _ => false
  let s1 := (upTo 32).foldl (fun s n => if goes s n then s.endInv n t else s) s
  let s2 := (s1.place.list.map fun e => e.1).foldl State.watchObject s1
  let s3 := (upTo 32).foldl (fun s n => if s.fuseNamed ∧ s.fuseSlot = n then s else s.resetState n) s2
  let s4 : State := { s3 with gsol := { s3.gsol.emptied with off := true }
                              reef := { s3.reef with off := true, ctxs := [] }
                              pwr := { s3.pwr with steps := [], relock := [], engineHold := false, low95 := 0, cut := 0 }
                              place := { s3.place with decs := [], credits := [], waiters := s3.place.waiters.filter fun w => match w with
                                | .outside _ => true
                                | _ => false } }
  let s5 := ((s4.setFld R.GSOL_STATUS R.GSOL_STATUS_ld_ready 0).enter .watch).shoreCheck t
  (s5.placeRegs).domains

/-- A unit whose objects WATCH has freed gets new ones (16 R426, R427; log entry 74). -/
def State.remakeUnit (s : State) (n : Nat) : State :=
  let u := s.nslot n
  match u.unit with
  | none => s
  | some x =>
    if x.ownObjs.all fun id => (s.obj id).isSome then s
    else
      let pins := match s.cfg.active with
        | some i => i.pintab
        | none => []
      let s1 := x.ownObjs.foldl (fun (s : State) id => s.freeObj id) s
      let a := s1.allocMutable n x x.isle pins
      ((a.2.setNslot n { a.2.nslot n with unit := some a.1 }).setReg64 (R.NET_UNIT_RING_LO + 0x40 * n) (placedAddr a.1.ringObj))

/-- The domains of RUN come back (16 R427): the solver's, Reef's and Shore's objects, the units' objects; the map store mounts and the
directory is refilled from it. -/
def State.watchRestore (s : State) : State :=
  let gone := fun (s : State) (id : Nat) => (s.obj id).isNone
  let s1 := (upTo 16).foldl (fun s n =>
    let x := s.sport n
    if x.ringObj ≠ 0 ∧ (gone s x.ringObj ∨ gone s x.depthRing ∨ x.slots.any fun q => gone s q.pyr) then
      let s1 := (x.slots ++ x.oldSlots).foldl State.freeSlot ((s.freeObj x.ringObj).freeObj x.depthRing)
      s1.setSport n { x with sig := [], slots := [], oldSlots := [], ringObj := 0, depthRing := 0, tracks := [], prev := none }
    else s) s
  let s2 := (upTo 8).foldl (fun s p =>
    let x := s.spair p
    if x.ringObj ≠ 0 ∧ gone s x.ringObj then
      let s1 := (x.maps ++ [x.buffer]).foldl (fun (s : State) id => s.freeObj id) s
      s1.setSpair p { x with maps := [], nextMap := 0, mapBytes := 0, buffer := 0, ringObj := 0, matched := [] }
    else s) s1
  let s3 := (upTo 4).foldl (fun s k => if (s.stream k).ringObj ≠ 0 ∧ gone s (s.stream k).ringObj then s.setStream k { s.stream k with ringObj := 0, count := 0 } else s) s2
  let s4 := (s3.gsolLoad).reefLoad
  let s5 := (upTo 32).foldl State.remakeUnit s4
  let s6 : State := { s5 with gsol := { s5.gsol with off := false }, reef := { s5.reef with off := false } }
  (s6.setMapState 1).placeRegs

/-- Leave the present state for RUN, SAFE or TEST; after WATCH the clocks of the other Islets run again (16 R427). -/
def State.leaveTo (s : State) (x : DState) (t : Nat) : State :=
  let s1 : State := { s with pwr := { s.pwr with wakePending := false } }
  if s1.dev.state = .watch then ((s1.watchRestore).goTo x t).retryAll fun i => !watchIslet i else s1.goTo x t

/-- The header of the resume image (13 R370): the sections hold what the state holds; their sizes and the MACs are free values. -/
def State.resumeHeader (s : State) : List Byte :=
  let seq := match s.cfg.active with
    | some i => i.seq
    | none => 0
  let free := fun (k : Nat) => (Config.resumeField s.freeCount k).toNat
  let head := record 0x40 [(0, 4, 0x4B52534D), (4, 2, 1), (8, 8, free 0 % (12 * 2 ^ 20 + 1)), (0x10, 8, free 1 % (64 * 2 ^ 20 + 1)),
    (0x18, 8, s.dev.epoch), (0x20, 8, s.tb3), (0x28, 4, seq)]
  let table := (upTo 8).flatMap fun k => record 16 [(0, 1, k + 1), (4, 4, free (2 * k + 2)), (8, 8, free (2 * k + 3))]
  let body := padTo 0x140 (head ++ table)
  padTo 4096 (body ++ leBytes 64 (Config.resumeMac body s.freeCount 0) ++ leBytes 64 (Config.resumeMac body s.freeCount 1))

/-- Does PWR_EN ask for the main supplies (18 R449, R450): the Skerry drives it low in reset and in SLEEP, until a wake that may proceed. -/
def State.pwrEn (s : State) : Bool :=
  !s.dev.poweredOff && (decide (s.dev.state ≠ .sleep) || (decide (s.pwr.latched ≠ 0) && !s.pwr.pfailLow && s.map.holdTo.isNone))

/-- SLEEP is entered (13 R370, 16 R422): the links go down after the STATE entry; TB0–TB2's offsets are recorded. -/
def State.sleepEnter (s : State) : State :=
  let s1 := (s.timeSleep).enter .sleep
  let s2 := ((s1.setReg R.HOST_LINK_STATUS 0).domains).tick
  { s2 with dev := { s2.dev with jobs := [], chain := { s2.dev.chain with cmd := none }, host := { s2.dev.host with cmd := none } }
            shore := {}
            pwr := { s2.pwr with psram := s.resumeHeader, wakePending := false, shed := false, selfRefresh := false, steps := [], relock := [], engineHold := false, low95 := 0, cut := 0 } }

/-- What SLEEP does not keep is gone at a wake (16 R421, 13 R370): memories, Islets, buoys, units, links, requests, channels. RO registers
and counters keep their values but for those of 15 R419 (log entry 75). DESIGN CHOICE (log entry 135): generations of object ids
stay as they are, also where the object is made again; the spec is silent. -/
def State.sleepLost (s : State) : State :=
  let within := fun (o lo n : Nat) => decide (lo ≤ o) && decide (o < lo + n)
  let keep := fun (o : Nat) => !(within o R.INTC_PEND 64 || within o R.INTC_LEVEL 64 || within o R.INTC_COUNT 2048 || within o R.INTC_PEER_SRC 64 ||
    within o R.MSIX 0x400 || within o pbaOff 8 || o == R.HOST_BAR2_CFG || o == R.HOST_BAR2_BASE || within o R.HOST_RELAY_CTL 16)
  { s with
    csr := s.csr.filter fun e => keep e.1
    mem := [], islets := [], buoys := [], units := []
    place := { gens := s.place.gens, used := s.place.used, retired := s.place.retired, ce := s.place.ce }
    chain := { seqs := s.chain.seqs }
    ep := { perst := s.ep.perst, refclk := s.ep.refclk, configOpen := true }
    cond := { cansig := s.cond.cansig }
    time := { s.time with trackers := [], ports := [] }
    shore := {}
    reef := {}
    map := { s.map with cur := none, flight := none, wait := [], reads := [], sealWait := false, resealWait := false } }

/-- The levels of the level sources as the controller finds them at its restart (15 R419). -/
def State.levelsNow (s : State) : State :=
  let l : List (Nat × Bool) := [(3, decide (s.reg R.GLB_DEGRADED ≠ 0)), (4, s.dev.safeStopLow), (165, decide (s.mapState = 3)),
    (195, s.reefPaused), (288, s.fld R.PWR_STATUS R.PWR_STATUS_capped == 1), (289, s.fld R.PWR_STATUS R.PWR_STATUS_thermal == 1),
    (290, s.pwr.pfailLow), (384, decide (s.reg R.NET_DEGRADED ≠ 0))]
  l.foldl (fun (s : State) e => s.setLevel e.1 e.2) s

/-- The sources satisfied now, as PWR_WAKE_CAUSE bits (16 R424): those latched and the alarm. -/
def State.satisfiedNow (s : State) : Nat :=
  let alarm := s.cfgBit R.PWR_WAKE_CFG R.PWR_WAKE_CFG_alarm_en && decide (s.cfgReg R.PWR_ALARM_LO + 2 ^ 32 * s.cfgReg R.PWR_ALARM_HI ≤ s.tb3)
  s.pwr.latched ||| (if alarm then 2 ^ 8 else 0)

/-- A wake by a wake source shows (16 R424): its causes, the count, PWR_WAKE. -/
def State.noteWake (s : State) (bits : Nat) : State :=
  ((s.setReg R.PWR_WAKE_CAUSE (s.reg R.PWR_WAKE_CAUSE ||| bits)).inc R.PWR_WAKES).raise 291

/-- The wake from the resume image (13 R371): registers, tables and the estimator's state stand again, objects and units are loaded,
the interrupt controller restarts, RUN, DEGRADED or SAFE; the map store is to mount. -/
def State.resume (s : State) (restOk : Bool) (plans : List UnitPlan) (bits t : Nat) : State :=
  let live := s.cal
  let store := s.payloadStore
  let s1 := s.sleepLost
  let s2 := s1.setState .train
  let s3 : State := { s2 with
    gsol := if restOk then { s2.gsol.emptied with query := [], verdicts := [] }
            else {}
    fuse := { s2.fuse with fResumed := true, boundary := none, frozen := none, pass := none, snapObj := 0 }
    dev := { s2.dev with tWake := some t, tStart := some t, estStopped := false }
    sec := { s2.sec with armed := true }, pwr := { s2.pwr with latched := 0 } }
  let s4 := (((s3.timeWake).dropShadow).inForce).setMapState 1
  let s5 := (s4.loadAll store plans live).setFld R.GSOL_STATUS R.GSOL_STATUS_ld_ready 0
  let s6 := ((s5.setReg R.HOST_START_STATUS 1).setReg R.HOST_FIRST_POSE_US 0)
  let s7 := (s6.levelsNow).noteWake bits
  (s7.setState .sleep).goTo (if s7.dev.safeStopLow then .safe else .run) t

/-- What PFAIL_N's assertion sheds from TRAIN onward (16 R433): `us` is the time taken to reach 20 W. -/
def State.shedStart (s : State) (us : Nat) : State :=
  let quiet : Bool := match s.dev.state with
    | .off | .sleep | .watch | .boot => true
    | _ => false
  if quiet then s
  else
    let s1 : State := { s with pwr := { s.pwr with shed := true, selfRefresh := true } }
    (s1.inc R.PWR_PFAIL_SHEDS).setReg R.PWR_SHED_US_MAX (max (s1.reg R.PWR_SHED_US_MAX) (satU 16 us))

end Sys2Proof.Machine
end

