-- ==== Sys2Proof/Machine/Jobs.lean ====
section
/-! DEFINITION. What runs on after its slot (spec 12 R351–R356, R348, 13 R365–R373, 10 R294): sealing, PARK and SLEEP, HALT, RECOVER, the
end of a mount, the writing of a command's result. -/
namespace Sys2Proof.Machine

/-- The solver and the Reef engines take up the mounted map (09 R255, 11 R316). -/
def State.mapFill (s : State) : State := if s.mapUp then s.gsolMount.reefMount else s

/-- RECOVER's exit (13 R373 step 7): the command is DONE, then RUN, DEGRADED or SAFE. -/
def State.recoverExit (s : State) (t : Nat) : State :=
  let s1 : State := { s with dev := { s.dev with estStopped := false, recoverStep := 0 } }
  let isRecover := fun (j : Job) => match j with
    | .recover _ _ => true
    | _ => false
  let s2 := match s1.jobOf isRecover with
    | some m => s1.finishCmd m .done
    | none => s1
  s2.goTo (if s2.dev.safeStopLow then .safe else .run) t

/-- A mount has ended: a cold start and RECOVER go on to their last step (13 R365, R373). -/
def State.startExit (s : State) (t : Nat) : State :=
  match s.dev.state with
  | .mount => if s.dev.halting then s else s.goTo (if s.dev.safeStopLow then .safe else .run) t
  | .recover => if s.dev.recoverStep = 7 then s.recoverExit t else s
  | _ => s

/-- The erased map pool of a RECOVER that asks for a format (10 R301); all 16 channels must be usable (R272). -/
def State.forceFormat (s : State) : Bool × State :=
  let s0 := s.mapOff
  let s1 := ({ s0 with map := { s0.map with mountAt := some s.tb3 } }).setFld R.MAP_STATUS R.MAP_STATUS_state 1
  let s2 := ((s1.setReg R.MAP_MOUNT_DISCARD 0).setFld R.MAP_STATUS R.MAP_STATUS_chain_break 0).checkChannels
  if s2.chansUp = 0xFFFF then (true, s2.format s2.nandDesc) else (false, s2.endMount 4)

/-- LOAD (13 R365, R367): the payloads of the mount head as a mount would read it, programming nothing. -/
def State.doLoad (s : State) (plans : List UnitPlan) (bad : List Nat) : State :=
  let store := (s.mountMap bad).2.payloadStore
  let live := s.cfg.calPending.getD s.cal
  let s1 : State := { s with gsol := { s.gsol.emptied with query := [], verdicts := [] } }
  let s2 := s1.loadAll store plans live
  ({ s2 with cfg := { s2.cfg with calPending := none } }).setFld R.GSOL_STATUS R.GSOL_STATUS_ld_ready 0

/-- MOUNT (10 R298, R301): where it ends without a commit, the start goes on at once. -/
def State.doMount (s : State) (bad : List Nat) (format : Bool) (t : Nat) : State :=
  let r := if format then s.forceFormat else s.mountMap bad
  if r.1 then r.2 else r.2.startExit t

/-- Does RECOVER in progress ask for a format. -/
def State.wantsFormat (s : State) : Bool := s.dev.jobs.any fun j => match j.2 with
  | .recover f _ => bitOf f 0
  | _ => false

/-- The row MOUNT: LOAD and MOUNT of a cold start or of RECOVER; after a wake or WATCH the mount alone (10 R294, 13 R371, 16 R427). It
waits while PFAIL_N is low or its hold lasts (13 R369). -/
def State.mountRow (s : State) (plans : List UnitPlan) (bad : List Nat) (t : Nat) : State :=
  if s.map.refuse ∨ s.map.holdTo.isSome ∨ s.dev.halting then s
  else
    match s.dev.state with
    | .load => ((s.doLoad plans bad).enter .mount).doMount bad false t
    | .recover =>
      if s.dev.recoverStep = 6 then
        let s1 := s.doLoad plans bad
        ({ s1 with dev := { s1.dev with recoverStep := 7 } }).doMount bad s.wantsFormat t
      else s
    | .off | .sleep | .watch | .boot | .train | .enum | .mount => s
    | _ => if s.mapState = 1 ∧ s.map.mountAt.isNone then s.doMount bad false t else s

/-- Does a job hold one of the resources of a mask (R351): 1 STATE, 2 SHADOW, 4 NOR, 8 MAP_WRITE, 16 SEC, 32 COND. -/
def Job.resources : Job → Nat
  | .park _ _ => 9
  | .halt => 1
  | .stage => 6
  | .cal => 4
  | .seal => 8
  | .exportMap _ => 0
  | .query _ => 0
  | .attest _ _ _ => 16
  | .recover _ test => if test then 1 else 63
  | .writing k _ => if k = 0 then 0 else 16

/-- PARK and SLEEP go on (R348, R351, 10 R294): once everything accepted is sealed, then the calibration commit, then the state. -/
def State.parkTry (s : State) (m : Master) (sleep cal : Bool) (t : Nat) : State :=
  if s.map.sealWait then s
  else
    let r := if s.dev.state = .watch then (true, s) else s.seal
    if !r.1 then r.2
    else if r.2.cfg.calJob.isSome then r.2
    else if !cal ∧ r.2.cfgBit R.CFG_CAL_CFG R.CFG_CAL_CFG_autocommit ∧ r.2.reg R.CFG_CAL_UPDATES ≠ 0 ∧ r.2.identity = 2 ∧ !r.2.pwr.pfailLow then
      (r.2.calStart none).setJob m (.park sleep true)
    else
      let s1 := r.2.finishCmd m .done
      if sleep then s1.sleepEnter else s1.watchEnter t

/-- PARK or SLEEP begins. -/
def State.parkStart (s : State) (m : Master) (sleep : Bool) (t : Nat) : State := (s.addJob m (.park sleep false)).parkTry m sleep false t

/-- Steps 2 to 4 of RECOVER (13 R373). -/
def State.recoverBody (s : State) (flags : Nat) : State :=
  let s1 := (upTo 32).foldl State.resetState s.resetEst
  let s2 := if bitOf flags 1 then
      let r := s1.bootImage
      let s3 := match r.1 with
        | some (slot, im) => r.2.activate im slot
        | none => r.2
      ({ s3.dropShadow with sec := { s3.dropShadow.sec with armed := true } })
    else s1
  [0, 1].foldl (fun s p => if s.portState p = 2 ∨ s.portState p = 3 then s else s.retrain p) s2

/-- Step 5 of RECOVER (13 R373, R380): the head's host makes every other unit recover first. -/
def State.recoverEnum (s : State) (m : Master) (flags t : Nat) : State :=
  if !bitOf flags 2 then { s with dev := { s.dev with recoverStep := 6 } }
  else
    let s1 : State := { s with dev := { s.dev with recoverStep := 5 } }
    let others := ((upTo s1.unitCount).drop 1)
    if m = .chain ∨ others = [] then s1.enumStart t
    else
      let a := s1.allocSystem 64 0x86 2 0
      let addr := placedAddr a.1
      let s2 := a.2.store addr (record 64 [(0, 4, 4)])
      let tag := tagOf 0 0 1 0 0x86
      let s3 : State := { s2 with chain := { s2.chain with remote := others, stage := .idle, stageSince := t } }
      others.foldl (fun (s : State) u =>
        let w := fun (s : State) (o v : Nat) => s.sendRequest u o true (leBytes 4 v) 4 tag (.enumHead u)
        let s4 := w (w (w s R.GLB_CMD_ARG_LO (addr % 2 ^ 32)) R.GLB_CMD_ARG_HI (addr / 2 ^ 32)) R.GLB_CMD 0x0B
        s4.sendRequest u R.GLB_STATE false [] 4 tag (.enumHead u)) s3

/-- RECOVER goes on once step 1's commit is durable. -/
def State.recoverTry (s : State) (t : Nat) : State :=
  if s.dev.state = .recover ∧ s.dev.recoverStep = 1 ∧ s.mapQuiet then
    match s.dev.jobs.findSome? fun j => match j.2 with
      | .recover f _ => some (j.1, f)
      | _ => none with
    | some (m, f) => (s.recoverBody f).recoverEnum m f t
    | none => s
  else s

/-- RECOVER begins (13 R373 step 1): the state, the staging it aborts, the end of all work. -/
def State.recoverStart (s : State) (m : Master) (flags : Nat) (test : Bool) (t : Nat) : State :=
  let under := (upTo 2).filter fun p => s.portTest p
  let s1 := match s.cfg.staging with
    | some g => s.stageAbort.finishCmd g.master .conflictLost
    | none => s
  let s2 := under.foldl (fun (s : State) p => s.retrain p) ((s1.addJob m (.recover flags test)).enter .recover)
  let s3 := s2.stopWork t
  ({ s3 with dev := { s3.dev with recoverStep := 1 } }).recoverTry t

/-- The bytes of a result go to the master's memory (R349, 10 R294, 14 R405): posted writes to the host, WR_REQs to the head. -/
def State.masterWrite (s : State) (m : Master) (addr : Nat) (b : List Byte) : State :=
  match m with
  | .host => s.emit (.hostWrite addr b)
  | .chain => (parts b.length).foldl (fun (s : State) p =>
      s.sendRequest 0 (addr + p.1) true ((b.drop p.1).take p.2) p.2 (tagOf 0 0 0 0 0x86) .cmdWrite) s

/-- A command whose result is written ends (R351, 14 R403, R405). -/
def State.writeEnded (s : State) (m : Master) (kind : Nat) (ok : Bool) : State :=
  if !ok then s.finishCmd m .badArg
  else
    let s1 := if kind = 1 then s.inc R.SEC_ATTESTS
      else if kind = 2 then ({ s with sec := { s.sec with enrolDone := true } }).secRegs
      else s
    s1.finishCmd m .done

/-- A result is handed over: to the host it is written at once or not at all; to the head its requests are answered. -/
def State.writeResultTo (s : State) (m : Master) (kind addr : Nat) (b : List Byte) (whole : Bool) : State :=
  match m with
  | .host => if s.canMaster then (s.masterWrite m addr b).writeEnded m kind whole else s.writeEnded m kind false
  | .chain => if b = [] then s.writeEnded m kind whole else (s.masterWrite m addr b).setJob m (.writing kind whole)

/-- What MAP_EXPORT writes (10 R294) and whether every tile fits: superblock and commit page as whole data areas, then for each tile its
entry of the last durable checkpoint and its segment image (log entry 77). -/
def State.exportBytes (s : State) (block : List Byte) : List Byte × Bool :=
  let room := leAt block 8 8
  let keys := (entriesOf 8 ((block.drop 0x40).take (8 * leAt block 0x10 4))).map fun e => tileKey (BitVec.ofNat 32 (leAt e 0 4)) (BitVec.ofNat 32 (leAt e 4 4))
  let order := sortBy (fun (a b : Nat) => decide (keyMorton a < keyMorton b)) keys.eraseDups
  let ents := order.filterMap fun k => s.map.durTiles.find? fun t => tileKey (BitVec.ofNat 32 (leAt t 0 4)) (BitVec.ofNat 32 (leAt t 4 4)) == k
  let image := fun (t : List Byte) =>
    match s.npage (leAt t 8 8 / 2 ^ 28) with
    | some d => (upTo (leAt d.data 0 4)).flatMap fun i => match s.npage (leAt d.data (4 + 8 * i) 8 / 2 ^ 28) with
        | some x => padTo pageBytes x.data
        | none => padTo pageBytes []
    | none => []
  let head := padTo pageBytes s.map.superBlock ++ padTo pageBytes s.map.headPage
  if room < head.length then ([], false)
  else ents.foldl (fun (a : List Byte × Bool) t =>
    let e := t ++ image t
    if a.2 && decide (a.1.length + e.length ≤ room) then (a.1 ++ e, true) else (a.1, false)) (head, true)

/-- The jobs that end at a boundary (R351, 14 R405): an export, an attestation. -/
def State.jobBoundary (s : State) : State :=
  s.dev.jobs.foldl (fun (s : State) j =>
    match j.2 with
    | .exportMap b => if s.mapState = 1 then s else
        let e := s.exportBytes b
        s.writeResultTo j.1 0 (leAt b 0 8) e.1 e.2
    | .attest r d rep => s.writeResultTo j.1 (if rep then 1 else 2) d r true
    | _ => s) s

/-- The jobs that the map store holds up go on. -/
def State.jobSync (s : State) (t : Nat) : State :=
  let s1 := (s.haltTry).recoverTry t
  let s2 := s1.dev.jobs.foldl (fun (s : State) j =>
    match j.2 with
    | .seal => if s.map.sealWait then s else s.finishCmd j.1 .done
    | .park sleep cal => s.parkTry j.1 sleep cal t
    | _ => s) s1
  s2.stageFinish

/-- A command that a higher order or a trip aborts (R353, 16 R432). -/
def State.abortJob (s : State) (m : Master) (j : Job) : State :=
  match j with
  | .stage => s.stageAbort.finishCmd m .conflictLost
  | _ => s.finishCmd m .conflictLost

/-- A trip (16 R432): every running command that meets STATE or SHADOW is aborted, then as HALT without a master; a halt under way goes on. -/
def State.trip (s : State) (t : Nat) : State :=
  if s.dev.state = .halt then s
  else
    let hit := s.dev.jobs.filter fun j => j.2.resources % 4 ≠ 0
    let s1 := hit.foldl (fun (s : State) j => s.abortJob j.1 j.2) s
    if s.dev.halting then s1 else s1.haltStart t

end Sys2Proof.Machine
end

