-- ==== Sys2Proof/Machine/Command.lean ====
section
/-! DEFINITION. The command interface (spec 12 R349–R354, R468): writes of GLB_CMD, argument blocks, the slot and its arbitration, what the
winners do. -/
namespace Sys2Proof.Machine

/-- The resources of an opcode (R351): 1 STATE, 2 SHADOW, 4 NOR, 8 MAP_WRITE, 16 SEC, 32 COND. -/
def opResources (op : Nat) : Nat :=
  match op with
  | 0x01 | 0x0C | 0x0D | 0x0E => 1
  | 0x02 | 0x03 => 9
  | 0x04 => 6
  | 0x05 => 3
  | 0x06 => 4
  | 0x07 => 8
  | 0x0A => 16
  | 0x0B => 63
  | 0x0F => 32
  | _ => 0

/-- Does an opcode take an argument block (R351). -/
def opTakesArg (op : Nat) : Bool := [0x04, 0x06, 0x08, 0x09, 0x0A, 0x0B].contains op

/-- Commands by state (R354): is an opcode legal in a state in which the command interface is reached. -/
def opLegal (op : Nat) (x : DState) : Bool :=
  let l : List DState := match op with
    | 0x00 | 0x0A | 0x0E => [.enum, .load, .mount, .run, .degraded, .watch, .safe, .recover, .test, .halt]
    | 0x01 => [.watch, .safe]
    | 0x02 | 0x04 | 0x05 | 0x08 | 0x09 => [.run, .degraded]
    | 0x03 => [.run, .degraded, .watch]
    | 0x06 => [.run, .degraded, .watch, .test]
    | 0x07 | 0x0F => [.run, .degraded, .watch, .safe]
    | 0x0B | 0x0C => [.run, .degraded, .safe, .halt]
    | 0x0D => [.test]
    | _ => []
  l.contains x

/-- Does the command interface answer (R354). -/
def State.cmdOpen (s : State) : Bool :=
  match s.dev.state with
  | .off | .sleep | .boot | .train => false
  | _ => true

/-- The address that a bank's GLB_CMD_ARG holds. -/
def Bank.argAddr (b : Bank) : Nat := b.argLo.toNat + 2 ^ 32 * b.argHi.toNat

/-- The bytes of an argument block whose first bytes are `b` (R341, R344, R351, 11 R322, 14 R404). -/
def argBytes (op : Nat) (b : List Byte) : Nat :=
  match op with
  | 0x04 => 64 + 80 * min (leAt b 0x14 4) 256
  | 0x06 => 3072
  | 0x08 => 64 + 8 * min (leAt b 0x10 4) 4096
  | 0x09 => 64 + 384 * min (leAt b 0 2) 64
  | 0x0A => 128
  | _ => 64

/-- A write of GLB_CMD by master `m` (R349, R350): a bank that holds a command answers BUSY; else the command waits for its slot and its
argument block is being read: the host's by a read of host memory, the chain head's through its peer window (log entry 54). -/
def State.issueCmd (s : State) (m : Master) (token op : Nat) : State :=
  if !s.cmdOpen then s
  else
    let b := s.bank m
    let addr := b.argAddr
    let c : Cmd := { op := op, token := token, argAddr := addr, since := s.tb3, arg := .notNeeded }
    match b.cmd with
    | some _ => (s.setStatus m c false .busy).completionEvent m c .busy
    | none =>
      if !opTakesArg op ∨ addr = 0 then (s.setBank m { b with cmd := some c }).setStatus m c true .none
      else
        let can : Bool := match m with
          | .host => s.canMaster
          | .chain => inPlaced addr
        let d := { c with arg := if can then .reading else .failed }
        let s1 := (s.setBank m { b with cmd := some d }).setStatus m d true .none
        match m with
        | .host => if can then s1.emit (.hostRead addr 0x10000) else s1
        | .chain => if can then (s1.forget .cmdArg).askHead addr (argBytes op []) .cmdArg else s1

/-- The command of a bank that still waits for its slot. -/
def State.waitingCmd (s : State) (m : Master) : Option Cmd := (s.bank m).cmd.filter fun c => !c.accepted

/-- Its argument read ends (R350): none for one that fails; a read that ends after 2 ms has failed. -/
def State.argRead (s : State) (m : Master) (t : Nat) (block : Option (List Byte)) : State :=
  match s.waitingCmd m with
  | none => s
  | some c =>
    if c.arg = .reading then
      let ok : Bool := decide (t ≤ c.since + 2000000) && (match m with | .host => s.canMaster | .chain => true)
      let r : ArgRead := match block with
        | some b => if ok then .done b else .failed
        | none => .failed
      s.setBank m { s.bank m with cmd := some { c with arg := r } }
    else s

/-- A read of the chain bank's argument block at the head has ended, with its bytes or with an error (R349, R350): the block is whole, or the next
part is read. -/
def State.argPart (s : State) (r : Option (List Byte)) : State :=
  match r, s.waitingCmd .chain with
  | none, _ => s.argRead .chain s.tb3 none
  | some b, some c =>
    let got := c.got ++ b
    let n := argBytes c.op got
    if c.arg ≠ .reading then s
    else if n ≤ got.length then s.argRead .chain s.tb3 (some got)
    else (s.setBank .chain { s.bank .chain with cmd := some { c with got := got } }).askHead (c.argAddr + got.length) (n - got.length) .cmdArg
  | some _, none => s

/-- The argument block of a command. -/
def Cmd.block (c : Cmd) : List Byte :=
  match c.arg with
  | .done b => b
  | _ => []

/-- Has the block of a command been read, with at least `n` bytes and at most 64 KiB. -/
def Cmd.has (c : Cmd) (n : Nat) : Bool :=
  match c.arg with
  | .done b => decide (n ≤ b.length) && decide (b.length ≤ 0x10000)
  | _ => false

/-- The argument check (R351, R468, R349 for the chain bank's addresses). -/
def State.argOk (s : State) (m : Master) (c : Cmd) : Bool :=
  let b := c.block
  let f := fun (o n : Nat) => leAt b o n
  let reach := fun (a : Nat) => match m with
    | .host => true
    | .chain => inPlaced a
  match c.op with
  | 0x04 =>
    let n := f 0x14 4
    c.has 64 && decide (n ≤ 256) && c.has (64 + 80 * n) && decide (f 0 1 ≤ 1) && (f 0 1 == 0 || (decide (f 1 1 ≤ 1) && reach (f 8 8))) &&
    (stagePayloads b).all fun e => reach e.2.1
  | 0x06 => c.argAddr == 0 || c.has 3072
  | 0x08 =>
    let n := f 0x10 4
    c.has 64 && decide (1 ≤ n) && decide (n ≤ 4096) && c.has (64 + 8 * n) && decide (f 0 8 % 4096 = 0) && reach (f 0 8)
  | 0x09 =>
    let n := f 0 2
    c.has 64 && decide (1 ≤ n) && decide (n ≤ 64) && c.has (64 + 384 * n)
  | 0x0A =>
    c.has 128 && (f 0 1 == 1 || f 0 1 == 2) && decide (f 8 8 % 64 = 0) && reach (f 8 8) && decide ((if f 0 1 = 1 then 3824 else 5424) ≤ f 0x10 4)
  | 0x0B =>
    c.argAddr == 0 || (c.has 64 && (!bitOf (f 0 4) 2 || decide (m = .chain) || s.isHead))
  | _ => decide (c.op ≤ 0x0F) && c.argAddr == 0

/-- Is a command refused for security (14 R406). -/
def State.refused (s : State) (x : DState) (c : Cmd) : Bool :=
  match c.op with
  | 0x06 => (c.argAddr != 0 && decide (x ≠ .test)) || s.identity != 2
  | 0x0C => match s.cfg.active with
    | some i => !i.testAllowed
    | none => true
  | 0x0A => s.identity != 2 || (leAt c.block 0 1 == 2 && (decide (x ≠ .test) || s.sec.enrolDone))
  | _ => false

/-- Is a command illegal in the state, by R354 or by the map store's state (10 R301). -/
def State.illegal (s : State) (x : DState) (c : Cmd) : Bool :=
  !opLegal c.op x || ((c.op == 0x07 || c.op == 0x08) && decide (x ≠ .watch) && decide (4 ≤ s.mapState))

/-- The argument bytes of a command whose block has been read: the block's own, not what was read past it. -/
def Cmd.args (c : Cmd) : Option (List Byte) :=
  match c.arg with
  | .done b => some (b.take (argBytes c.op b))
  | _ => none

/-- Have two commands the same opcode and argument bytes (R353). -/
def sameCmd (a b : Cmd) : Bool := a.op == b.op && (a.argAddr == 0) == (b.argAddr == 0) && decide (a.args = b.args)

/-- A winner's status is ACCEPTED: it runs on. -/
def State.accept (s : State) (m : Master) (c : Cmd) : State :=
  (s.setBank m { s.bank m with cmd := some { c with accepted := true } }).setStatus m c false .accepted

/-- PLACE_QUERY at its slot (11 R322): the job counts the queries, one more while they are being sent. -/
def State.queryCmd (s : State) (m : Master) (c : Cmd) : CStatus × State :=
  let bank := match m with
    | .chain => 0
    | .host => 1
  let n := leAt c.block 0 2
  let s1 := (s.accept m c).addJob m (.query (n + 1))
  let r := s1.placeQueries bank c.block
  if r.2.1 = 0 then (.busy, r.2.2.finishCmd m .busy)
  else (.accepted, (upTo (n - r.2.1 + 1)).foldl (fun (s : State) _ => s.queryEnded (some bank)) r.2.2)

/-- What a winner reports at its slot (R352): the final code of one that ends there. -/
def State.execute (s : State) (x : DState) (m : Master) (c : Cmd) : CStatus × State :=
  match c.op with
  | 0x00 | 0x01 | 0x05 | 0x0C | 0x0F => (.done, s.completeBank m .done)
  | 0x07 =>
    let r := if x = .watch then (true, s) else s.seal
    if r.1 then (.done, r.2.completeBank m .done) else (.accepted, (r.2.accept m c).addJob m .seal)
  | 0x06 => (.accepted, ((s.accept m c).addJob m .cal).calStart (if c.argAddr = 0 then none else some c.block))
  | 0x08 => (.accepted, (s.accept m c).addJob m (.exportMap c.block))
  | 0x09 => s.queryCmd m c
  | 0x0E => if x = .halt then (.done, s.completeBank m .done) else (.accepted, s.accept m c)
  | _ => (.accepted, s.accept m c)

/-- The slot as far as it is decided: resources claimed, the winners with what they reported. -/
structure Slot where
  claimed : Nat := 0
  won : List (Master × Cmd × CStatus) := []

/-- A command loses, or is refused (14 R406): it completes. -/
def State.lose (s : State) (m : Master) (st : CStatus) : State :=
  (match st with
    | .denied => s.inc R.SEC_DENIED
    | _ => s).completeBank m st

/-- Resources that running commands hold. -/
def State.held (s : State) : Nat := s.dev.jobs.foldl (fun n j => n ||| j.2.resources) 0

/-- Why a command does not execute (R353), none where it does. -/
def State.verdict (s : State) (x : DState) (m : Master) (c : Cmd) (claimed : Nat) : Option CStatus :=
  let res := opResources c.op
  if !s.argOk m c then some .badArg
  else if res &&& claimed ≠ 0 then some .conflictLost
  else if s.illegal x c then some .wrongState
  else if s.refused x c then some .denied
  else if res &&& s.held ≠ 0 ∨ (c.op = 0x06 ∧ s.cfg.calJob.isSome) then some .busy
  else if c.op = 0x05 ∧ (s.cfg.shadow.isNone ∨ s.fld R.CFG_SHADOW_STATUS R.CFG_SHADOW_STATUS_state ≠ 2) then some .badArg
  else none

/-- Decide the command of a master (R353). -/
def State.decideCmd (s : State) (x : DState) (t : Nat) (g : Slot) (m : Master) : Slot × State :=
  match s.waitingCmd m with
  | none => (g, s)
  | some c0 =>
    let c : Cmd := if c0.arg = .reading ∧ c0.since + 2000000 < t then { c0 with arg := .failed } else c0
    if c.arg = .reading then (g, s)
    else
      match g.won.find? fun w => sameCmd w.2.1 c with
      | some w =>
        if w.2.2 = .accepted then
          (g, (s.setBank m { s.bank m with cmd := some { c with accepted := true, merged := true } }).setStatus m c false .accepted)
        else (g, s.completeBank m w.2.2)
      | none =>
        match s.verdict x m c g.claimed with
        | some st => (g, s.lose m st)
        | none =>
          let r := s.execute x m c
          ({ claimed := g.claimed ||| opResources c.op, won := g.won ++ [(m, c, r.1)] }, r.2)

/-- Does the pin's order take the device to SAFE in a state (R354). -/
def stopsTo (x : DState) : Bool :=
  match x with
  | .run | .degraded | .watch | .test => true
  | _ => false

/-- The pin's order (R353): STATE and SHADOW are claimed, running commands that hold them are aborted, save three. -/
def State.pinOrder (s : State) : Slot × State :=
  if s.dev.safeStopLow ∧ s.cmdOpen then
    let hit := s.dev.jobs.filter fun j => match j.2 with
      | .recover _ _ => false
      | .halt => false
      | _ => decide (j.2.resources % 4 ≠ 0)
    ({ claimed := 3 }, hit.foldl (fun (s : State) j => s.abortJob j.1 j.2) s)
  else ({}, s)

/-- TEST is entered (R354): from HALT what it stopped runs again (16 R469). -/
def State.testEnter (s : State) (t : Nat) : State :=
  let s1 : State := if s.dev.state = .halt then
      { s with dev := { s.dev with estStopped := false }, gsol := { s.gsol with off := false }, reef := { s.reef with off := false } }
    else s
  s1.goTo .test t

/-- What a winner does (R351). -/
def State.effect (s : State) (x : DState) (m : Master) (c : Cmd) (t : Nat) : State :=
  match c.op with
  | 0x01 => s.leaveTo .run t
  | 0x02 => s.parkStart m false t
  | 0x03 => s.parkStart m true t
  | 0x04 => (s.addJob m .stage).stageStart m c.block
  | 0x0B => s.recoverStart m (if c.argAddr = 0 then 0 else leAt c.block 0 4 % 8) false t
  | 0x0C => s.testEnter t
  | 0x0D => s.recoverStart m 0 true t
  | 0x0E => if x = .halt then s else (s.addJob m .halt).haltStart t
  | 0x0F => s.condSync t
  | _ => s

/-- Step 1 of 01 R21 at a boundary: the slot is decided, then the winners act. -/
def State.arbitrate (s : State) (t : Nat) : Slot × State :=
  if !s.cmdOpen then ({}, s)
  else
    let x := s.dev.state
    let p := s.pinOrder
    let a := p.2.decideCmd x t p.1 .chain
    let b := a.2.decideCmd x t a.1 .host
    let s1 := if p.1.claimed ≠ 0 ∧ stopsTo x ∧ !b.2.dev.halting then b.2.leaveTo .safe t else b.2
    (b.1, b.1.won.foldl (fun (s : State) w => s.effect x w.1 w.2.1 t) s1)

/-- Did an opcode win the slot. -/
def Slot.has (g : Slot) (op : Nat) : Bool := g.won.any fun w => w.2.1.op == op

/-- ATTEST captures what it measures after step 2 (14 R403, R405). -/
def State.capture (s : State) (g : Slot) : State :=
  g.won.foldl (fun (s : State) w =>
    if w.2.1.op = 0x0A then
      let b := w.2.1.block
      let isReport := decide (leAt b 0 1 = 1)
      let nonce := (b.drop 0x40).take 64
      let r := if isReport then s.report nonce else s.enrolment nonce
      r.2.addJob w.1 (.attest r.1 (leAt b 8 8) isReport)
    else s) s

/-- Step 1 and 2 of 01 R21: arbitration, the exchange of the sets, the captures. -/
def State.slotClose (s : State) (t : Nat) : State :=
  let r := s.arbitrate t
  let s1 := if r.1.has 0x05 then r.2.swapSets else r.2
  s1.capture r.1

/-- CMD_NOP: GLB_CMD is written with NOP (R351). -/
def execCmdNop (m : Master) (token : Byte) (t : Nat) (s : State) : Host.Outcome State Fault Refusal :=
  .next (s.whenAwake fun s => (s.at t).issueCmd m token.toNat 0x00)
/-- WAKE (R351). -/
def execWake (m : Master) (token : Byte) (t : Nat) (s : State) : Host.Outcome State Fault Refusal :=
  .next (s.whenAwake fun s => (s.at t).issueCmd m token.toNat 0x01)
/-- PARK (R351). -/
def execPark (m : Master) (token : Byte) (t : Nat) (s : State) : Host.Outcome State Fault Refusal :=
  .next (s.whenAwake fun s => (s.at t).issueCmd m token.toNat 0x02)
/-- SLEEP (R351). -/
def execSleep (m : Master) (token : Byte) (t : Nat) (s : State) : Host.Outcome State Fault Refusal :=
  .next (s.whenAwake fun s => (s.at t).issueCmd m token.toNat 0x03)
/-- STAGE_SHADOW (R351). -/
def execStageShadow (m : Master) (token : Byte) (t : Nat) (s : State) : Host.Outcome State Fault Refusal :=
  .next (s.whenAwake fun s => (s.at t).issueCmd m token.toNat 0x04)
/-- SWAP_CONFIG (R351). -/
def execSwapConfig (m : Master) (token : Byte) (t : Nat) (s : State) : Host.Outcome State Fault Refusal :=
  .next (s.whenAwake fun s => (s.at t).issueCmd m token.toNat 0x05)
/-- CAL_COMMIT (R351). -/
def execCalCommit (m : Master) (token : Byte) (t : Nat) (s : State) : Host.Outcome State Fault Refusal :=
  .next (s.whenAwake fun s => (s.at t).issueCmd m token.toNat 0x06)
/-- MAP_SEAL (R351). -/
def execMapSeal (m : Master) (token : Byte) (t : Nat) (s : State) : Host.Outcome State Fault Refusal :=
  .next (s.whenAwake fun s => (s.at t).issueCmd m token.toNat 0x07)
/-- MAP_EXPORT (R351). -/
def execMapExport (m : Master) (token : Byte) (t : Nat) (s : State) : Host.Outcome State Fault Refusal :=
  .next (s.whenAwake fun s => (s.at t).issueCmd m token.toNat 0x08)
/-- PLACE_QUERY (R351). -/
def execPlaceQuery (m : Master) (token : Byte) (t : Nat) (s : State) : Host.Outcome State Fault Refusal :=
  .next (s.whenAwake fun s => (s.at t).issueCmd m token.toNat 0x09)
/-- RECOVER (R351). -/
def execRecover (m : Master) (token : Byte) (t : Nat) (s : State) : Host.Outcome State Fault Refusal :=
  .next (s.whenAwake fun s => (s.at t).issueCmd m token.toNat 0x0B)
/-- TEST_ENTER (R351). -/
def execTestEnter (m : Master) (token : Byte) (t : Nat) (s : State) : Host.Outcome State Fault Refusal :=
  .next (s.whenAwake fun s => (s.at t).issueCmd m token.toNat 0x0C)
/-- TEST_EXIT (R351). -/
def execTestExit (m : Master) (token : Byte) (t : Nat) (s : State) : Host.Outcome State Fault Refusal :=
  .next (s.whenAwake fun s => (s.at t).issueCmd m token.toNat 0x0D)
/-- HALT (R351). -/
def execHalt (m : Master) (token : Byte) (t : Nat) (s : State) : Host.Outcome State Fault Refusal :=
  .next (s.whenAwake fun s => (s.at t).issueCmd m token.toNat 0x0E)
/-- COND_SYNC (R351). -/
def execCondSync (m : Master) (token : Byte) (t : Nat) (s : State) : Host.Outcome State Fault Refusal :=
  .next (s.whenAwake fun s => (s.at t).issueCmd m token.toNat 0x0F)

/-- ATTEST is written and its argument block (14 R404) has been read: kind, dest, dest_bytes, nonce. -/
def State.issueAttest (s : State) (m : Master) (token kind : Nat) (dest destBytes : Nat) (nonce : List Byte) (t : Nat) : State :=
  match s.waitingCmd m with
  | some _ => s.issueCmd m token 0x0A
  | none => (s.issueCmd m token 0x0A).argRead m t (some (record 64 [(0, 1, kind), (8, 8, dest), (0x10, 4, destBytes)] ++ padTo 64 (nonce.take 64)))

/-- ATTEST of kind REPORT (14 R405). -/
def execAttestReport (m : Master) (token : Byte) (dest : Word64) (n : Word32) (nonce : List Byte) (t : Nat) (s : State) :
    Host.Outcome State Fault Refusal := .next (s.whenAwake fun s => (s.at t).issueAttest m token.toNat 1 dest.toNat n.toNat nonce t)
/-- ATTEST of kind ENROL (14 R403). -/
def execAttestEnrol (m : Master) (token : Byte) (dest : Word64) (n : Word32) (nonce : List Byte) (t : Nat) (s : State) :
    Host.Outcome State Fault Refusal := .next (s.whenAwake fun s => (s.at t).issueAttest m token.toNat 2 dest.toNat n.toNat nonce t)
/-- CMD_ARG_READ_DONE (R350). -/
def execCmdArgReadDone (m : Master) (block : List Byte) (t : Nat) (s : State) : Host.Outcome State Fault Refusal :=
  .next (s.whenAwake fun s => (s.at t).argRead m t (some block))
/-- CMD_ARG_READ_TIMEOUT (R350). -/
def execCmdArgReadTimeout (m : Master) (t : Nat) (s : State) : Host.Outcome State Fault Refusal :=
  .next (s.whenAwake fun s => (s.at t).argRead m t none)

end Sys2Proof.Machine
end

