-- ==== Sys2Proof/Machine/Csr.lean ====
section
/-! DEFINITION. The CSR window as a master meets it (spec 00 R7–R12, 12 R349, R364, 13 R386, R388, R393, 14 R398, 19 R463, R464): reads,
writes, the actions that a write starts, and the rows of the opcode table that are writes of one register. -/
namespace Sys2Proof.Machine

/-- Is an access to the CSR window the single aligned 32-bit access of R7. -/
def csrAligned (o n : Nat) : Bool := decide (o % 4 = 0) && decide (n = 4) && decide (o < 0x10000000)

/-- A read of the register at `o` by master `m` (00 R8, 12 R349, R364, 07 R193): its value, and the state with what the read latches. -/
def State.csrRead (s : State) (m : Master) (o : Nat) : Nat × State :=
  let tb := (o - R.TIME_TB_NS_LO) / 0x40
  if o = R.GLB_ID then (glbId, s)
  else if o = R.GLB_STATE then (s.glbState, s)
  else if o = R.GLB_CMD_ARG_LO then ((s.bank m).argLo.toNat, s)
  else if o = R.GLB_CMD_ARG_HI then ((s.bank m).argHi.toNat, s)
  else if o = R.GLB_CMD_STATUS then ((s.bank m).status.toNat, s)
  else if o = R.GLB_EPOCH_LO then (s.dev.epoch % 2 ^ 32, s.setReg R.GLB_EPOCH_HI (s.dev.epoch / 2 ^ 32))
  else if R.TIME_TB_NS_LO ≤ o ∧ tb < 4 ∧ o = R.TIME_TB_NS_LO + 0x40 * tb then s.latchTb tb
  else if o < 0x100000 then (s.reg o, s)
  else if o < 0x200000 then ((s.buoy ((o - 0x100000) / 16)).read (o % 16 / 4), s)
  else if 0x1000000 ≤ o ∧ o < 0x1C00000 then (s.dbgRead ((o - 0x1000000) / 0x1000) (o % 0x1000), s)
  else (0, s)

/-- The device address that HOST_RELAY_ADDR holds (13 R393). -/
def State.relayAddr (s : State) : Nat := s.reg R.HOST_RELAY_ADDR_LO + 2 ^ 32 * (s.reg R.HOST_RELAY_ADDR_HI % 2 ^ 16)

/-- The relay ends with a result (13 R392). -/
def State.relayEnd (s : State) (result : Nat) : State :=
  (s.setFld R.HOST_RELAY_CTL R.HOST_RELAY_CTL_result result).setFld R.HOST_RELAY_CTL R.HOST_RELAY_CTL_busy 0

/-- HOST_RELAY_CTL takes an op (13 R392, R393): ignored while busy; an address outside the windows of other units gives UNMAPPED. -/
def State.relay (s : State) (isWrite : Bool) : State :=
  if s.fld R.HOST_RELAY_CTL R.HOST_RELAY_CTL_busy = 1 then s
  else
    let a := s.relayAddr
    let u := (a - 0x100000000000) / 0x40000000000
    if a < 0x100000000000 ∨ 0x500000000000 ≤ a ∨ u = s.ownAddr ∨ s.unitCount ≤ u then s.relayEnd 1
    else
      let s1 := s.setFld R.HOST_RELAY_CTL R.HOST_RELAY_CTL_busy 1
      s1.sendRequest u ((a - 0x100000000000) % 0x40000000000) isWrite (leBytes 4 (s.reg R.HOST_RELAY_DATA)) 4 (tagOf 0 0 1 0 0xFE) .relay

/-- CHAIN_TEST is written (13 R388): in TEST a port that leaves its test mode retrains. -/
def State.chainTest (s : State) (v : Nat) : State :=
  let under := (upTo 2).filter fun p => s.portTest p
  let s1 := s.setReg R.CHAIN_TEST (csrAfterWrite R.CHAIN_TEST (BitVec.ofNat 32 (s.reg R.CHAIN_TEST)) (BitVec.ofNat 32 v)).toNat
  (under.filter fun p => !s1.portTest p).foldl (fun (s : State) p => s.retrain p) s1

/-- SEC_OTP_PROG is written (14 R398): `ok` when the field reads back well. -/
def State.otpProg (s : State) (target : Nat) (ok : Bool) : State :=
  if target = 1 then s.otpHash ok else if target = 2 then s.otpVendor else s

/-- May MSI-X write the vector now: its entry and the function are unmasked, MSI-X is enabled, requests can be issued (13 R386, R387). -/
def State.vectorOpen (s : State) (v : Nat) : Bool :=
  s.ep.msixEnable && s.canMaster && !s.ep.funcMask && !bitOf (s.reg (R.MSIX + 16 * v + 12)) 0

/-- The vectors left in the Pending Bit Array go once nothing masks them (15 R417). -/
def State.pbaFlush (s : State) : State :=
  ((upTo 64).filter fun v => bitOf (s.reg (pbaOff + 4 * (v / 32))) (v % 32) && s.vectorOpen v).foldl (fun (s : State) v =>
    let o := pbaOff + 4 * (v / 32)
    (s.setReg o (putBits (s.reg o) (v % 32) (v % 32) 0)).msixWrite v) s

/-- A write of `v` to the register at `o` by master `m` (00 R8): the registers whose write starts an action, then those that hold what is
written. -/
def State.csrWrite (s : State) (m : Master) (o v : Nat) : State :=
  let w := BitVec.ofNat 32 v
  let tb := (o - R.TIME_TB_NS_LO) / 0x40
  if o = R.GLB_CMD then s.issueCmd m (v / 2 ^ 24) (v % 256)
  else if o = R.GLB_CMD_ARG_LO then s.setBank m { s.bank m with argLo := w }
  else if o = R.GLB_CMD_ARG_HI then s.setBank m { s.bank m with argHi := w }
  else if R.INTC_PEND ≤ o ∧ o < R.INTC_PEND + 64 then s.pendWrite ((o - R.INTC_PEND) / 4) w []
  else if o = R.INTC_SOFT then s.softWrite w
  else if o = R.TIME_SNAP then (if bitOf v 0 then s.snap else s)
  else if R.TIME_TB_NS_LO ≤ o ∧ tb < 4 ∧ o = R.TIME_TB_ADJ_LO + 0x40 * tb then s.writeAdjLo tb v
  else if R.TIME_TB_NS_LO ≤ o ∧ tb < 4 ∧ o = R.TIME_TB_ADJ_HI + 0x40 * tb then s.writeAdj tb v
  else if o = R.CHAIN_TEST then s.chainTest v
  else if o = R.HOST_RELAY_CTL then (if v % 4 = 1 then s.relay false else if v % 4 = 2 then s.relay true else s)
  else if o = R.SEC_OTP_PROG then s.tick.otpProg (v % 4) (s.free.getLsbD 0)
  else if R.MSIX ≤ o ∧ o < R.MSIX + 0x400 then (s.fieldWrite o v).pbaFlush
  else s.windowWrite m o v

/-- CSR_ODD_ACCESS (00 R7): a write of another width or alignment has no effect, a read returns 0. -/
def execCsrOddAccess (isRead : Bool) (s : State) : Host.Outcome State Fault Refusal :=
  .next (s.whenAwake fun s => if isRead then s.emit (.value 0) else s)

/-- A read of a register answers. -/
def State.csrAnswer (s : State) (m : Master) (o : Nat) : State := (s.csrRead m o).2.emit (.value (s.csrRead m o).1)

/-- GLB_EPOCH_LO_READ (12 R364): the read latches GLB_EPOCH_HI. -/
def execGlbEpochLoRead (m : Master) (s : State) : Host.Outcome State Fault Refusal :=
  .next (s.whenAwake fun s => s.csrAnswer m R.GLB_EPOCH_LO)

/-- INTEGRATOR_KEY_HASH (14 R398): the field reads back well or not. -/
def execIntegratorKeyHash (ok : Bool) (s : State) : Host.Outcome State Fault Refusal := .next (s.whenAwake fun s => s.otpProg 1 ok)

/-- VENDOR_DISABLE (14 R398). -/
def execVendorDisable (s : State) : Host.Outcome State Fault Refusal := .next (s.whenAwake fun s => s.otpProg 2 true)

/-- NEAR_LOOPBACK (13 R388): CHAIN_TEST is written with mode NEAR_LOOPBACK on port `p`. -/
def execNearLoopback (p : Fin 2) (s : State) : Host.Outcome State Fault Refusal := .next (s.whenAwake fun s => s.chainTest (p.val * 2 ^ 8 + 1))

/-- FAR_LOOPBACK (13 R388). -/
def execFarLoopback (p : Fin 2) (s : State) : Host.Outcome State Fault Refusal := .next (s.whenAwake fun s => s.chainTest (p.val * 2 ^ 8 + 2))

/-- CHAIN_TEST is written with mode PRBS31 on port `p` (13 R388): what the checkers of lanes 0 to 3 count is added to CHAIN_PRBS_ERR. -/
def State.prbs (s : State) (p : Nat) (errs : List Word32) : State :=
  let s1 := s.chainTest (p * 2 ^ 8 + 3)
  if s1.portTest p then (errs.zipIdx).foldl (fun (s : State) e => s.addTo (R.CHAIN_PRBS_ERR + 4 * (4 * p + e.2)) e.1.toNat) s1 else s1

/-- PRBS31 (13 R388). -/
def execPrbs31 (p : Fin 2) (e0 e1 e2 e3 : Word32) (s : State) : Host.Outcome State Fault Refusal :=
  .next (s.whenAwake fun s => s.prbs p.val [e0, e1, e2, e3])

/-- CHAIN_TEST_OFF (13 R388): the mode returns to OFF on port `p`. -/
def execChainTestOff (p : Fin 2) (s : State) : Host.Outcome State Fault Refusal := .next (s.whenAwake fun s => s.chainTest (p.val * 2 ^ 8))

end Sys2Proof.Machine
end

