-- ==== Sys2Proof/Machine/TierEvents.lean ====
section
/-! DEFINITION. The commands of the tiers (spec 05): transfers that end, requests that time out or fail, pages that retire. -/
namespace Sys2Proof.Machine

/-- A Ferry move ends well (R133, R135, R136); a load of an UNLOADED object does not end this way. -/
def State.ferryDone (s : State) (id : Nat) : State :=
  match s.obj id with
  | some o => if o.res = .unloaded then s else s.moveEnded id ccOk true
  | none => s

/-- An UNLOADED object's load ends (R135, R144, 10 R273, R285): its payload is read and its digest checked, or it cannot be read. It does not end
while one of its reads waits. -/
def State.loadDone (s : State) (id : Nat) (readable : Bool) : State :=
  match s.obj id with
  | none => s
  | some o =>
    if o.res = .unloaded ∧ o.move.isSome ∧ s.readWaits (.payload id) = false then
      match s.map.content.payloads.find? fun p => p.digest == o.digest with
      | none => s.moveEnded id ccNandRead false
      | some p =>
        if !readable then s.moveEnded id ccNandRead false
        else
          let b := s.payloadBytes p
          if digest64 b = o.digest then ((s.store (placedAddr id) b).clearMarks id o.size).moveEnded id ccOk true
          else s.moveEnded id ccPayloadHash false
    else s

/-- A request to a tier ends with an error code (R142, R143): only that request or its move ends. -/
def State.requestEnds (s : State) (r : TierReq) (code : Nat) : State :=
  match r with
  | .load i k => s.loadReturn i.val k 0 (some code) none
  | .store i k => s.storePerformed i.val k 0 (some code)
  | .tow i k => s.towComplete i.val k.val 0 (some code) none
  | .move id atDest => s.moveEnded id.toNat code atDest

/-- The tier of a request in flight and the instant of its issue (R142); none for one that is not in flight. -/
def State.tierReq (s : State) (r : TierReq) : Option (Nat × Nat) :=
  match r with
  | .load i k => ((s.islet i.val).loads[k]?).map fun l => (s.tierAt l.loc, l.since)
  | .store i k => ((s.islet i.val).stores[k]?).map fun q => (s.tierAt q.loc, q.since)
  | .tow i k => let t := (s.islet i.val).tow k.val; if t.busy then some (s.tierAt t.loc, t.since) else none
  | .move id atDest => (s.obj id.toNat).bind fun o => o.move.bind fun m =>
      if m.paths.isEmpty then none else some (if atDest then m.toTier else if o.res = .unloaded then 0 else o.tier, m.since)

/-- Has a request not been answered within the time limit of its tier (R142); one to T5 has none. -/
def State.overdue (s : State) (r : TierReq) (t : Nat) : Bool :=
  match s.tierReq r with
  | some (k, since) => decide (1 ≤ k) && decide (k ≤ 4) && decide (since + 1000 * s.cfgFld (R.PLACE_TMO + 4 * (k - 1)) R.PLACE_TMO_us ≤ t)
  | none => false

/-- A page of a tier instance reports an error (R145, R146): `unit` is the address of the 64-byte unit of an uncorrectable one, none
for a corrected one; `id` the object that occupies the page, 0 for none. The unit of an uncorrectable error is poisoned where the page held the
copy that accesses read. -/
def State.pageError (s : State) (t i page id : Nat) (unit : Option Nat) : State :=
  if s.place.retired.contains (t, i, page) then s
  else
    let key := (t * 8 + i) * 2 ^ 24 + page
    let ce := SMap.get (fun _ => 0) s.place.ce key + b2n unit.isNone
    let s1 := ({ s with place := { s.place with ce := SMap.set (fun _ => 0) s.place.ce key ce } }).inc (if unit.isSome then R.PLACE_UE else R.PLACE_CE)
    if unit.isNone ∧ ce < s.cfgFld R.PLACE_RETIRE_CE R.PLACE_RETIRE_CE_count then s1
    else
      let read : Bool := match s.obj id with
        | some o => decide (o.res ≠ .unloaded) && decide (o.tier = t) && decide (o.inst = i)
        | none => false
      let s2 : State := match unit with
        | some a => if read then { s1 with place := { s1.place with poison := SMap.set (fun _ => false) s1.place.poison (a / 64) true } } else s1
        | none => s1
      (s2.relocate { tier := t, inst := i, page := page, unit := unit, errors := ce } id).settle

end Sys2Proof.Machine
end

