-- ==== Sys2Proof/Machine/Peer.lean ====
section
/-! DEFINITION. Messages and peer windows (spec 13 R377–R383, 15 R418), the requests of other units and the ends of the unit's own, the
rows of the links and of enumeration, and the accesses of the host through BAR2 (13 R385). -/
namespace Sys2Proof.Machine

/-- How an access from outside the unit ends: a completion code; or it waits, for an object's load or a page in transfer (05 R135), or for
the credits of some paths, at a class (05 R140). -/
inductive Served
  | ok (b : List Byte)
  | unmapped
  | denied
  | error
  | waits
  | noCredit (cls : Nat) (paths : List Nat)
  deriving DecidableEq, Repr

/-- The response status of an end (13 R381). -/
def Served.status : Served → Nat
  | .ok _ => 0
  | .unmapped => 1
  | .denied => 2
  | _ => 3

/-- The data of an end. -/
def Served.data : Served → List Byte
  | .ok b => b
  | _ => []

/-- Does the access wait. -/
def Served.isWait : Served → Bool
  | .waits => true
  | .noCredit _ _ => true
  | _ => false

/-- An access of `n` bytes at `a` to memory: bytes to write, or none for a read; a poisoned unit ends a read in error (05 R146), counted at its
tier (05 R157). -/
def State.memAccess (s : State) (a n : Nat) (w : Option (List Byte)) : Served × State :=
  match w with
  | some b => (.ok [], ((s.store a (b.take n)).unpoison a n).requestDone a ccOk)
  | none => if s.poisoned a n then (.error, s.requestDone a ccEcc) else (.ok (s.bytes a n), s.requestDone a ccOk)

/-- An access to the Placed Range for a requester with deadline class `cls`, owner `owner` and the tag `tag` (05 R132, R135, R138, R140, 01
R24): it touches its object, waits for an UNLOADED one, for a page in transfer that it writes, and for a credit, and never writes an immutable
object. It holds its credits only while it is served, at once; it comes from Isle 0 (log entry 131). -/
def State.placedAccess (s : State) (a n cls owner tag : Nat) (w : Option (List Byte)) : Served × State :=
  let c := s.checkPlaced a none (some tag)
  match c.2 with
  | none => (if c.1 = ccUnallocated then .unmapped else .error, s.countCode 0 c.1)
  | some (id, o) =>
    if c.1 ≠ ccOk then (if c.1 = ccUnallocated then .unmapped else .error, s.countCode o.tier c.1)
    else if o.immutable ∧ w.isSome then (.denied, s)
    else
      let ps := State.objPaths 0 o (placedPage a - id)
      if o.res = .unloaded then
        let s2 := (s.touch id n []).startLoad id cls owner 0xA 0
        (if (s2.obj id).any fun q => q.move.isSome then .waits else .error, s2)
      else if w.isSome && s.inTransfer a n then (.waits, s.progress id)
      else if !s.credFree ps cls then (.noCredit cls ps, s)
      else (match w with | some _ => (s.touch id n ps).noteMovedStore a | none => s.touch id n ps).memAccess a n w

/-- A request of another unit at local address `a` (13 R383, 19 R460–R462): `src` sent it, it came over port `p`. DESIGN CHOICE
(log entry 143): the owner of a decision that a request to the Placed Range causes is the one in the message's tag; the spec does not say which. -/
def State.serve (s : State) (src a n tag p : Nat) (w : Option (List Byte)) : Served × State :=
  if n = 0 ∨ n % 4 ≠ 0 ∨ 4096 < n then (.error, s)
  else if a < 0x10000000 then
    if src ≠ 0 ∨ p ≠ 0 then (.denied, s)
    else if !csrAligned a n then (.ok (if w.isSome then [] else List.replicate n 0), s)
    else match w with
      | some b => (.ok [], s.csrWrite .chain a (leAt b 0 4))
      | none => let r := s.csrRead .chain a; (.ok (leBytes 4 r.1), r.2)
  else if a + n ≤ 0x1C000000 then s.memAccess a n w
  else if inDirect a ∧ inDirect (a + n - 1) then (if s.dev.state = .test then s.memAccess a n w else (.denied, s))
  else if inPlaced a then s.placedAccess a n (bitsOf tag 31 28) (bitsOf tag 23 16) tag w
  else (.unmapped, s)

/-- Take a request out of those in flight. -/
def State.takeReq (s : State) (r : PeerReq) : State :=
  { s with chain := { s.chain with reqs := s.chain.reqs.filter fun q => decide (q.seq ≠ r.seq ∨ q.dest ≠ r.dest) } }

/-- The completion code of a status; 4 is a timeout (13 R383). -/
def peerCode (status : Nat) : Nat := if status = 0 then ccOk else if status = 1 then ccUnallocated else if status = 4 then ccTimeout else ccLink

/-- The Islet access behind a request ends (13 R383, 02 R43, R44). -/
def State.towPart (s : State) (i slot off code : Nat) (isWrite : Bool) (data : List Byte) : State :=
  let t := (s.islet i).tow slot
  let near := sliverBase i + t.off
  let s1 := if code = ccOk ∧ !isWrite then (s.store (near + off) data).unpoison (near + off) data.length else s
  let x := s1.islet i
  let t1 : Tow := if code ≠ ccOk ∧ t.code = 0 then { t with code := code } else t
  let s2 := s1.setIslet i { x with tows := SMap.put x.tows slot t1 }
  let more := s2.chain.reqs.any fun q => match q.who with
    | .tow j k _ => j == i && k == slot
    | _ => false
  if more then s2
  else (s2.endTow i slot t1.code (if t.isIn then some (s2.bytes near t.len) else none)).settle

/-- A unit's answer while the head waits for it to recover (13 R380): once every unit reads RECOVER, R378 begins. -/
def State.headPoll (s : State) (u status : Nat) (isWrite : Bool) (data : List Byte) : State :=
  if isWrite ∨ status ≠ 0 ∨ !s.chain.remote.contains u then s
  else if leAt data 0 1 = DState.recover.code then
    let left := s.chain.remote.filter (· ≠ u)
    let s1 : State := { s with chain := { s.chain with remote := left } }
    if left = [] then s1.enumStart s1.tb3 else s1
  else s.sendRequest u R.GLB_STATE false [] 4 (tagOf 0 0 1 0 0x86) (.enumHead u)

/-- A write of a command's result has ended (14 R405): after the last one the command ends. -/
def State.resultWritten (s : State) (status : Nat) : State :=
  let isWriting := fun (j : Job) => match j with
    | .writing _ _ => true
    | _ => false
  match s.dev.jobs.find? fun j => decide (j.1 = .chain) && isWriting j.2 with
  | some (m, .writing kind ok) =>
    let ok1 := ok && decide (status = 0)
    let s1 := s.setJob m (.writing kind ok1)
    if s1.chain.reqs.any fun q => decide (q.who = .cmdWrite) then s1 else s1.writeEnded m kind ok1
  | _ => s

/-- A request of the unit's own ends with a status, 4 for a timeout, and data (13 R383). -/
def State.endReq (s : State) (r : PeerReq) (status : Nat) (data : List Byte) : State :=
  let s1 := s.takeReq r
  let s2 := if status = 2 ∨ status = 3 then (s1.inc R.CHAIN_REMOTE_ERR).raise 226
    else if status = 4 then (s1.inc R.CHAIN_TIMEOUT).raise 226 else s1
  let code := peerCode status
  match r.who with
  | .relay => (if status = 0 ∧ !r.isWrite then s2.setReg R.HOST_RELAY_DATA (leAt data 0 4) else s2).relayEnd status
  | .load i q =>
    match (s2.islet i).loads.find? fun l => l.seq == q with
    | some l => (s2.endLoad i l code (some (padTo l.bytes ((data.drop (l.addr % 4)).take l.bytes)))).settle
    | none => s2
  | .store i q =>
    match (s2.islet i).stores.find? fun e => e.seq == q with
    | some e => (s2.endStore i e code).settle
    | none => s2
  | .tow i slot off => s2.towPart i slot off code r.isWrite data
  | .enumHead u => s2.headPoll u status r.isWrite data
  | .cmdWrite => s2.resultWritten status
  | .cmdArg => s2.argPart (if status = 0 then some data else none)
  | .stage => s2.stagePart (if status = 0 then some data else none)
  | .forgotten => s2

/-- The unit answers a request (13 R381): the response carries the request's seq and tag, with err where it ended in error (01 R24). -/
def State.respond (s : State) (m : Msg) (isWrite : Bool) (status : Nat) (data : List Byte) : State :=
  if s.reachable m.src then
    s.sendOn (s.portTo m.src) { dest := m.src, src := s.ownAddr, cls := if isWrite then 5 else 4, flags := status, seq := m.seq
                                epoch := s.dev.epoch, tag := if status = 0 then m.tag else m.tag ||| 2 ^ 11, payload := data }
  else s.inc R.CHAIN_UNROUTABLE

/-- The unit's own request that message `m` is or answers. -/
def State.findReq (s : State) (dest seq : Nat) (isWrite : Bool) : Option PeerReq :=
  s.chain.reqs.find? fun q => q.seq == seq && q.dest == dest && q.isWrite == isWrite

/-- A message that cannot leave the unit (13 R377): a request ends with status ERROR, others are discarded and counted. -/
def State.unroutable (s : State) (m : Msg) : State :=
  if m.cls = 2 ∨ m.cls = 3 then
    if m.src = s.ownAddr then
      match s.findReq m.dest m.seq (decide (m.cls = 3)) with
      | some r => s.endReq r 3 []
      | none => s
    else s.respond m (decide (m.cls = 3)) 3 []
  else s.inc R.CHAIN_UNROUTABLE

/-- An EVENT message (15 R418): CHAIN_PEER_u is raised, its source and count are recorded. -/
def State.onEvent (s : State) (m : Msg) : State :=
  let u := m.src % 16
  let b := m.payload
  (s.setReg (R.INTC_PEER_SRC + 4 * u) (leAt b 2 1 * 2 ^ 24 + leAt b 3 1 % 4 * 2 ^ 16 + leAt b 0 2 % 2 ^ 9)).raise (448 + u)

/-- An access from outside begins to wait: its number; one that waits for credits joins those that do (05 R140, R141). -/
def State.newOutside (s : State) (v : Served) : Nat × State :=
  let k := s.place.nextOut
  let s1 : State := { s with place := { s.place with nextOut := k + 1 } }
  match v with
  | .noCredit cls ps =>
    (k, ({ s1 with place := { s1.place with outside := SMap.set (fun _ => ((16, []) : Nat × List Nat)) s1.place.outside k (cls, ps) } }).waitCredit (.outside k) ps)
  | _ => (k, s1)

/-- A request for this unit is served, or waits (13 R383). -/
def State.onRequest (s : State) (p : Nat) (m : Msg) : State :=
  let isWrite := decide (m.cls = 3)
  let n := if isWrite then m.payload.length else leAt m.payload 0 4
  let r := s.serve m.src m.address n m.tag p (if isWrite then some m.payload else none)
  if r.1.isWait then
    let q := r.2.newOutside r.1
    { q.2 with chain := { q.2.chain with stalled := q.2.chain.stalled ++ [(q.1, p, m)] } }
  else r.2.respond m isWrite r.1.status r.1.data

/-- A response for this unit ends its request (13 R383). -/
def State.onResponse (s : State) (m : Msg) : State :=
  match s.findReq m.src m.seq (decide (m.cls = 5)) with
  | some r => s.endReq r (m.flags % 4) m.payload
  | none => s

/-- A whole message that came over port `p` (13 R378, R381, R382). -/
def State.message (s : State) (p : Nat) (m : Msg) (t : Nat) : State :=
  if p = 2 then s.unroutable m
  else
    let s1 := s.incWrap (R.CHAIN_RX_MSG + 0x20 * p)
    if 5 < m.cls then s1.inc R.CHAIN_UNROUTABLE
    else if m.dest = 0xFE then (if m.cls = 0 then s1.onCtrl p m t else s1.inc R.CHAIN_UNROUTABLE)
    else if m.dest = s1.ownAddr then
      match m.cls with
      | 1 => s1.onEvent m
      | 2 | 3 => s1.onRequest p m
      | 4 | 5 => s1.onResponse m
      | _ => s1
    else if s1.reachable m.dest then s1.sendOn (s1.portTo m.dest) m
    else s1.unroutable m

/-- The messages received so far are handled, at most `n`. -/
def State.drainRx (s : State) (t : Nat) : Nat → State
  | 0 => s
  | n + 1 =>
    match s.chain.rxq with
    | [] => s
    | (p, m) :: r => (({ s with chain := { s.chain with rxq := r } }).message p m t).drainRx t n

/-- All of them are handled, with what they lead to. -/
def State.drainAll (s : State) (t : Nat) : State := s.drainRx t (s.chain.rxq.length + 4096)

/-- A message arrives over port `p`. -/
def State.receive (s : State) (p : Nat) (m : Msg) (t : Nat) : State := if s.portUp p then (s.message p m t).drainAll t else s

/-- A CTRL message of subtype `k` arrives over port `p`. -/
def State.receiveCtrl (s : State) (p k v t : Nat) : State :=
  s.receive p { dest := 0xFE, src := 0, cls := 0, payload := record 16 [(0, 1, k), (1, 1, v)] } t

/-- The byte at offset `a` of a BAR2 access's target, none for one that ends in error (13 R385). -/
def State.bar2Target (s : State) (o : Nat) : Option Nat :=
  let a := s.fld R.HOST_BAR2_BASE R.HOST_BAR2_BASE_gib * 2 ^ 30 + o
  if s.fld R.HOST_BAR2_CFG R.HOST_BAR2_CFG_direct = 1 then
    if s.dev.state = .test ∧ ((0x10000000 ≤ a ∧ a < 0x1C000000) ∨ inDirect a) then some a else none
  else if inPlaced (placedBase + a) then some (placedBase + a) else none

/-- A BAR2 access of at most one page in one window: class of HOST_BAR2_CFG, owner 0xFE, no object named (13 R385). -/
def State.bar2Access (s : State) (o n : Nat) (w : Option (List Byte)) : Served × State :=
  match s.bar2Target o with
  | none => (.unmapped, s)
  | some a =>
    if inPlaced a then
      let cls := s.fld R.HOST_BAR2_CFG R.HOST_BAR2_CFG_deadline_class
      s.placedAccess a n cls 0xFE (tagOf 0 0 cls 0 0xFE) w
    else s.memAccess a n w

/-- The pieces of a BAR2 access, one for each 64-byte unit it meets: offset, length. -/
def pieces (o n : Nat) : List (Nat × Nat) :=
  (upTo ((o + n + 63) / 64 - o / 64)).map fun k =>
    let lo := max o ((o / 64 + k) * 64)
    (lo, min (o + n) ((o / 64 + k + 1) * 64) - lo)

/-- A BAR2 access of `n` bytes at offset `o` (13 R385): the bytes that end in error read as all ones or are discarded, and the access is
counted once; `bad`: the memory system reports an error for all of it. -/
def State.bar2 (s : State) (o n : Nat) (w : Option (List Byte)) (bad : Bool) : State :=
  if n = 0 ∨ 2 ^ 36 < o + n then s
  else
    let idle : List Served × State := ([], s)
    let r := (pieces o n).foldl (fun (a : List Served × State) p =>
      let q := if bad then (Served.error, a.2) else a.2.bar2Access p.1 p.2 (w.map fun b => (b.drop (p.1 - o)).take p.2)
      (a.1 ++ [q.1], q.2)) idle
    match r.1.find? Served.isWait with
    | some v =>
      let q := r.2.newOutside v
      { q.2 with ep := { q.2.ep with bar2 := q.2.ep.bar2 ++ [(q.1, o, n, w)] } }
    | none =>
      let err := r.1.any fun e => decide (e.status ≠ 0)
      let s1 := if err then r.2.inc R.HOST_BAR2_ERR else r.2
      match w with
      | some _ => s1
      | none => s1.emit (.bytes (((pieces o n).zip r.1).flatMap fun e => match e.2 with
          | .ok b => b
          | _ => List.replicate e.1.2 0xFF))

/-- The accesses from outside with some numbers go on. -/
def State.goOn (s : State) (f : Nat → Bool) : State :=
  let reqs := s.chain.stalled.filter fun e => f e.1
  let bars := s.ep.bar2.filter fun e => f e.1
  let s1 : State := { s with chain := { s.chain with stalled := s.chain.stalled.filter fun e => !f e.1 }, ep := { s.ep with bar2 := s.ep.bar2.filter fun e => !f e.1 } }
  let s2 := reqs.foldl (fun (s : State) e => s.onRequest e.2.1 e.2.2) s1
  bars.foldl (fun (s : State) e => s.bar2 e.2.1 e.2.2.1 e.2.2.2 false) s2

/-- The accesses from outside whose wait for credits has ended are served, in the order in which they got them (05 R141). -/
def State.serveOutside (s : State) (t : Nat) : State :=
  let l := s.place.granted
  if l.isEmpty then s
  else
    let s1 := l.foldl (fun (s : State) e => (s.credAdd e.2 true).goOn fun k => k == e.1) { s with place := { s.place with granted := [] } }
    s1.drainAll t

/-- A transfer of an object has ended: the accesses from outside that waited for it go on; those that waited for an object that could not be
loaded end in error (05 R135, R144). -/
def State.unstall (s : State) (id : Nat) (t : Nat) : State :=
  let failed : Bool := match s.obj id with
    | some o => decide (o.res = .unloaded) && o.move.isNone
    | none => false
  let mine := fun (k : Nat) => !(s.place.outside.any fun e => e.1 == k) && !(s.place.granted.any fun e => e.1 == k)
  let reqs := s.chain.stalled.filter fun e => mine e.1
  let bars := s.ep.bar2.filter fun e => mine e.1
  let s1 : State := { s with chain := { s.chain with stalled := s.chain.stalled.filter fun e => !mine e.1 }, ep := { s.ep with bar2 := s.ep.bar2.filter fun e => !mine e.1 } }
  let here := fun (s : State) (a : Nat) => match s.objAtPage (placedPage a) with
    | some e => inPlaced a && e.1 == id
    | none => false
  let s2 := reqs.foldl (fun (s : State) e =>
    if failed && here s e.2.2.address then s.respond e.2.2 (decide (e.2.2.cls = 3)) 3 [] else s.onRequest e.2.1 e.2.2) s1
  let s3 := bars.foldl (fun (s : State) e =>
    let hit : Bool := match s.bar2Target e.2.1, s.bar2Target (e.2.1 + e.2.2.1 - 1) with
      | some a, some b => here s a || here s b
      | some a, none => here s a
      | none, some b => here s b
      | none, none => false
    s.bar2 e.2.1 e.2.2.1 e.2.2.2 (failed && hit)) s2
  (s3.drainAll t).serveOutside t

/-- REGISTER_WRITE (00 R8): one aligned 32-bit write, and what a request it starts leads to at once. -/
def execRegisterWrite (m : Master) (o : BitVec 28) (v : Word32) (t : Nat) (s : State) : Host.Outcome State Fault Refusal :=
  .next (s.whenAwake fun s => if csrAligned o.toNat 4 then ((s.at t).csrWrite m o.toNat v.toNat).drainAll t else s.at t)

/-- OBJECT_LOAD_COMPLETE (05 R135). -/
def execObjectLoadComplete (id : BitVec 24) (readable : Bool) (t : Nat) (s : State) : Host.Outcome State Fault Refusal :=
  .next (s.whenAwake fun s => ((s.at t).loadDone id.toNat readable).unstall id.toNat t)

/-- A request to a tier ends with an error code; accesses that waited for a load that failed end too. -/
def State.tierError (s : State) (r : TierReq) (code t : Nat) : State :=
  let s1 := s.requestEnds r code
  match r with
  | .move id _ => s1.unstall id.toNat t
  | _ => s1.settle.serveOutside t

/-- LOAD_RETURN (02 R43, R62): entry `k` of the Islet's load queue returns at cycle `cyc`. -/
def execLoadReturn (i : IsletId) (k : Nat) (cyc : Nat) (err : Option Byte) (data : Option (List Byte)) (s : State) :
    Host.Outcome State Fault Refusal :=
  .next (s.whenAwake fun s => (s.loadReturn i.val k cyc (err.map fun e => e.toNat) data).settle.serveOutside s.tb3)

/-- STORE_PERFORMED (02 R43, R62): entry `k` of the Islet's store buffer is performed at cycle `cyc`. -/
def execStorePerformed (i : IsletId) (k : Nat) (cyc : Nat) (err : Option Byte) (s : State) :
    Host.Outcome State Fault Refusal :=
  .next (s.whenAwake fun s => (s.storePerformed i.val k cyc (err.map fun e => e.toNat)).settle.serveOutside s.tb3)

/-- TOW_COMPLETE (02 R44): tow slot `k` ends at cycle `cyc`. -/
def execTowComplete (i : IsletId) (k : Fin 8) (cyc : Nat) (err : Option Byte) (data : Option (List Byte)) (s : State) :
    Host.Outcome State Fault Refusal :=
  .next (s.whenAwake fun s => (s.towComplete i.val k.val cyc (err.map fun e => e.toNat) data).settle.serveOutside s.tb3)

/-- FERRY_MOVE_COMPLETE (05 R135). -/
def execFerryMoveComplete (id : BitVec 24) (t : Nat) (s : State) : Host.Outcome State Fault Refusal :=
  .next (s.whenAwake fun s => ((s.at t).ferryDone id.toNat).unstall id.toNat t)

/-- PAGE_RETIRE (05 R145–R147). -/
def execPageRetire (tier : Fin 3) (i : Fin 6) (page : BitVec 24) (id : BitVec 24) (unit : Option (BitVec 48)) (t : Nat) (s : State) :
    Host.Outcome State Fault Refusal :=
  .next (s.whenAwake fun s => (s.at t).pageError (tier.val + 1) i.val page.toNat id.toNat (unit.map fun a => a.toNat))

/-- TIER_REQUEST_TIMEOUT (05 R142): a request that has been in flight for its limit. -/
def execTierRequestTimeout (r : TierReq) (t : Nat) (s : State) : Host.Outcome State Fault Refusal :=
  .next (s.whenAwake fun s => if s.overdue r t then (s.at t).tierError r ccTimeout t else s.at t)

/-- TIER_REQUEST_ERROR (05 R143, R144): `code` is ECC_UNCORRECTABLE, LINK_ERROR or HOST_ABORT. -/
def execTierRequestError (r : TierReq) (code : Fin 3) (t : Nat) (s : State) : Host.Outcome State Fault Refusal :=
  .next (s.whenAwake fun s => (s.at t).tierError r (ccEcc + code.val) t)

/-- ENUM_READY (13 R378): a READY arrives over port `p`. -/
def execEnumReady (p : Fin 2) (t : Nat) (s : State) : Host.Outcome State Fault Refusal :=
  .next (s.whenAwake fun s => (s.at t).receiveCtrl p.val 4 0 t)
/-- READY_REPEAT (13 R378). -/
def execReadyRepeat (t : Nat) (s : State) : Host.Outcome State Fault Refusal := .next (s.whenAwake fun s => (s.at t).readyAgain t)
/-- ENUM (13 R378): an ENUM with a value arrives over port `p`. -/
def execEnum (p : Fin 2) (v : Byte) (t : Nat) (s : State) : Host.Outcome State Fault Refusal :=
  .next (s.whenAwake fun s => (s.at t).receiveCtrl p.val 1 v.toNat t)
/-- ENUM_END (13 R378). -/
def execEnumEnd (p : Fin 2) (v : Byte) (t : Nat) (s : State) : Host.Outcome State Fault Refusal :=
  .next (s.whenAwake fun s => (s.at t).receiveCtrl p.val 2 v.toNat t)
/-- ENUM_COMMIT (13 R378). -/
def execEnumCommit (p : Fin 2) (v : Byte) (t : Nat) (s : State) : Host.Outcome State Fault Refusal :=
  .next (s.whenAwake fun s => (s.at t).receiveCtrl p.val 3 v.toNat t)
/-- ENUM_TIMEOUT (13 R378–R380). -/
def execEnumTimeout (t : Nat) (s : State) : Host.Outcome State Fault Refusal := .next (s.whenAwake fun s => (s.at t).enumTimeout t)
/-- ENUM_END_TIMEOUT (13 R378). -/
def execEnumEndTimeout (t : Nat) (s : State) : Host.Outcome State Fault Refusal := .next (s.whenAwake fun s => (s.at t).enumEndTimeout t)

/-- LINK_FRAME_RX (13 R375): the 264 bytes of a frame arrive over port `p`. -/
def execLinkFrameRx (p : Fin 2) (b : List Byte) (t : Nat) (s : State) : Host.Outcome State Fault Refusal :=
  .next (s.whenAwake fun s => ((s.at t).frameRx p.val b).drainAll t)
/-- LINK_NAK (13 R375): it names the last frame received in order. -/
def execLinkNak (p : Fin 2) (ack : BitVec 12) (s : State) : Host.Outcome State Fault Refusal :=
  .next (s.whenAwake fun s => if s.portUp p.val then s.nak p.val ack.toNat else s)
/-- LINK_CREDIT (13 R376): credits for the three virtual channels. -/
def execLinkCredit (p : Fin 2) (c0 c1 c2 : BitVec 16) (s : State) : Host.Outcome State Fault Refusal :=
  .next (s.whenAwake fun s => if s.portUp p.val then s.addCredits p.val [c0.toNat, c1.toNat, c2.toNat] else s)
/-- LINK_RETRAIN (13 R375): loss of lock. -/
def execLinkRetrain (p : Fin 2) (t : Nat) (s : State) : Host.Outcome State Fault Refusal := .next (s.whenAwake fun s => (s.at t).lockLost p.val)
/-- A training ends with the lanes that passed (13 R375, R377); a unit that waits for its UP port sends READY (R378). -/
def State.trained (s : State) (p lanes t : Nat) : State :=
  let s1 := s.trainEnd p lanes
  (if p = 0 ∧ s1.chain.readySent.isNone then s1.readyAgain t else s1).drainAll t

/-- LINK_RETRAIN_DONE (13 R375, R377). -/
def execLinkRetrainDone (p : Fin 2) (lanes : BitVec 4) (t : Nat) (s : State) : Host.Outcome State Fault Refusal :=
  .next (s.whenAwake fun s => (s.at t).trained p.val lanes.toNat t)
/-- LINK_RETRY_TIMER (13 R377). -/
def execLinkRetryTimer (p : Fin 2) (t : Nat) (s : State) : Host.Outcome State Fault Refusal := .next (s.whenAwake fun s => (s.at t).retryPort p.val)
/-- CREDIT_RETURN_TIMER (13 R376). -/
def execCreditReturnTimer (p : Fin 2) (t : Nat) (s : State) : Host.Outcome State Fault Refusal :=
  .next (s.whenAwake fun s => (s.at t).returnCredits p.val)

/-- RD_REQ (13 R382, R383): a read request arrives over port `p`. -/
def execRdReq (p : Fin 2) (dest src : Byte) (address : BitVec 48) (n seq : Word32) (epoch tag : Word64) (t : Nat) (s : State) :
    Host.Outcome State Fault Refusal :=
  .next (s.whenAwake fun s =>
    (s.at t).receive p.val { dest := dest.toNat, src := src.toNat, cls := 2, address := address.toNat, seq := seq.toNat, epoch := epoch.toNat,
                                  tag := tag.toNat, payload := record 8 [(0, 4, n.toNat)] } t)
/-- WR_REQ (13 R382, R383). -/
def execWrReq (p : Fin 2) (dest src : Byte) (address : BitVec 48) (seq : Word32) (epoch tag : Word64) (data : List Byte) (t : Nat) (s : State) :
    Host.Outcome State Fault Refusal :=
  .next (s.whenAwake fun s =>
    (s.at t).receive p.val { dest := dest.toNat, src := src.toNat, cls := 3, address := address.toNat, seq := seq.toNat, epoch := epoch.toNat,
                                  tag := tag.toNat, payload := data } t)
/-- RD_RESP (13 R381–R383). -/
def execRdResp (p : Fin 2) (dest src : Byte) (status : BitVec 2) (seq : Word32) (epoch tag : Word64) (data : List Byte) (t : Nat) (s : State) :
    Host.Outcome State Fault Refusal :=
  .next (s.whenAwake fun s =>
    (s.at t).receive p.val { dest := dest.toNat, src := src.toNat, cls := 4, flags := status.toNat, seq := seq.toNat, epoch := epoch.toNat,
                                  tag := tag.toNat, payload := data } t)
/-- WR_ACK (13 R381–R383). -/
def execWrAck (p : Fin 2) (dest src : Byte) (status : BitVec 2) (seq : Word32) (epoch tag : Word64) (t : Nat) (s : State) :
    Host.Outcome State Fault Refusal :=
  .next (s.whenAwake fun s =>
    (s.at t).receive p.val { dest := dest.toNat, src := src.toNat, cls := 5, flags := status.toNat, seq := seq.toNat, epoch := epoch.toNat,
                                  tag := tag.toNat } t)
/-- EVENT_MESSAGE (15 R418): the fields of its payload. -/
def execEventMessage (p : Fin 2) (dest src : Byte) (seq : Word32) (epoch tag : Word64) (source : BitVec 16) (count flags : Byte) (tb0 : Word64) (t : Nat)
    (s : State) : Host.Outcome State Fault Refusal :=
  .next (s.whenAwake fun s =>
    (s.at t).receive p.val { dest := dest.toNat, src := src.toNat, cls := 1, seq := seq.toNat, epoch := epoch.toNat, tag := tag.toNat,
                                  payload := record 16 [(0, 2, source.toNat), (2, 1, count.toNat), (3, 1, flags.toNat), (8, 8, tb0.toNat)] } t)
/-- The request in flight number `k` has had no response within req_tmo_us (13 R383). -/
def State.reqTimeout (s : State) (k t : Nat) : State :=
  match s.chain.reqs[k]? with
  | some r => if r.since + s.cfgFld R.CHAIN_CFG R.CHAIN_CFG_req_tmo_us * 1000 ≤ t then (s.endReq r 4 []).drainAll t else s
  | none => s

/-- PEER_REQUEST_TIMEOUT (13 R383). -/
def execPeerRequestTimeout (k t : Nat) (s : State) : Host.Outcome State Fault Refusal := .next (s.whenAwake fun s => (s.at t).reqTimeout k t)
/-- HOST_RELAY_READ (13 R392, R393). -/
def execHostRelayRead (t : Nat) (s : State) : Host.Outcome State Fault Refusal := .next (s.whenAwake fun s => ((s.at t).relay false).drainAll t)
/-- HOST_RELAY_WRITE (13 R392, R393). -/
def execHostRelayWrite (t : Nat) (s : State) : Host.Outcome State Fault Refusal := .next (s.whenAwake fun s => ((s.at t).relay true).drainAll t)

end Sys2Proof.Machine
end

