-- ==== Sys2Proof/Machine/HostLink.lean ====
section
/-! DEFINITION. The PCIe endpoint (spec 13 R368, R384–R387): PERST_N, the link, configuration space, Function Level Reset, BAR2. -/
namespace Sys2Proof.Machine

/-- Requests that the device masters stop (13 R387): an argument read of the host bank in progress fails. -/
def State.mastersStop (s : State) : State :=
  match s.dev.host.cmd with
  | some c => if c.arg = .reading then s.setBank .host { s.dev.host with cmd := some { c with arg := .failed } } else s
  | none => s

/-- Configuration space at its defaults: Bus Master Enable, MSI-X Enable and the function mask clear. -/
def State.configClear (s : State) : State :=
  ({ s with ep := { s.ep with msixEnable := false, funcMask := false } }).setFld R.HOST_LINK_STATUS R.HOST_LINK_STATUS_bme 0 |>.mastersStop

/-- Is the PCIe link up. -/
def State.hostUp (s : State) : Bool := s.fld R.HOST_LINK_STATUS R.HOST_LINK_STATUS_link_up == 1

/-- The PCIe link goes down (13 R387; log entry 78). -/
def State.hostDown (s : State) : State :=
  if s.hostUp then
    ((((s.configClear).setReg R.HOST_LINK_STATUS 0).linkWidth).inc R.HOST_LINK_DOWN).raise 232
  else s

/-- The PCIe link comes up with a speed code and a width in lanes (13 R368, R384, R392); it trains only with PERST_N high and a stable
reference clock. -/
def State.hostLinkUp (s : State) (speed width : Nat) : State :=
  if s.ep.perst ∧ s.ep.refclk ∧ !s.hostUp ∧ 1 ≤ speed ∧ speed ≤ 5 ∧ [1, 2, 4, 8].contains width then
    ((s.setReg R.HOST_LINK_STATUS (speed * 2 ^ 12 + width * 2 ^ 4 + 1)).linkWidth).raise 232
  else s

/-- PERST_N and the reference clock take levels (13 R368): with PERST_N low the link is down. -/
def State.perst (s : State) (high refclk : Bool) : State :=
  let s1 : State := { s with ep := { s.ep with perst := high, refclk := refclk } }
  if high && refclk then s1 else s1.hostDown

/-- What the endpoint's configuration space reads as (13 R384). -/
def configValue : ConfigId → Nat
  | .vendor => 0x1F4E | .device => 0x9600 | .revision => 0x0A | .classCode => 0x120000 | .subVendor => 0x1F4E | .subsystem => 0x9600

/-- A configuration request (13 R368, R384, R387, 15 R417): Retry Status until BOOT verification has ended; then it reads an identity or writes
what it names. -/
def State.configRequest (s0 : State) (msix mask bme : Option Bool) (rd : Option ConfigId) : State :=
  if !s0.ep.configOpen then s0.emit .configRetry
  else
    let s := match rd with
      | some k => s0.emit (.value (configValue k))
      | none => s0
    let s1 : State := { s with ep := { s.ep with msixEnable := msix.getD s.ep.msixEnable, funcMask := mask.getD s.ep.funcMask } }
    let s2 := match bme with
      | some b => s1.setFld R.HOST_LINK_STATUS R.HOST_LINK_STATUS_bme (b2n b)
      | none => s1
    (if s2.canMaster then s2 else s2.mastersStop).pbaFlush

/-- A register back at its reset value. -/
def State.regDefault (s : State) (o : Nat) : State := s.setReg o (csrReset o).toNat

/-- Function Level Reset (13 R387). -/
def State.flr (s : State) : State :=
  let s1 := s.configClear
  let s2 : State := { s1 with csr := SMap.clearRange (SMap.clearRange s1.csr R.MSIX 0x400) pbaOff 8
                              chain := (s1.forget .relay).chain }
  let s3 := [R.HOST_BAR2_CFG, R.HOST_BAR2_BASE, R.HOST_RELAY_CTL, R.HOST_RELAY_ADDR_LO, R.HOST_RELAY_ADDR_HI, R.HOST_RELAY_DATA].foldl State.regDefault s2
  let s4 := s3.setBank .host { cmd := s3.dev.host.cmd.map fun c => { c with hidden := true } }
  (s4.inc R.HOST_FLR).raise 233

/-- PERST (13 R368). -/
def execPerst (high refclk : Bool) (s : State) : Host.Outcome State Fault Refusal := .next (s.perst high refclk)
/-- PCIE_LINK_DOWN (13 R387). -/
def execPcieLinkDown (s : State) : Host.Outcome State Fault Refusal := .next (s.whenAwake fun s => s.hostDown)
/-- PCIE_LINK_UP (13 R387, R392). -/
def execPcieLinkUp (speed width : BitVec 4) (s : State) : Host.Outcome State Fault Refusal :=
  .next (s.whenAwake fun s => s.hostLinkUp speed.toNat width.toNat)
/-- FUNCTION_LEVEL_RESET (13 R387). -/
def execFunctionLevelReset (s : State) : Host.Outcome State Fault Refusal := .next (s.whenAwake fun s => s.flr)
/-- CONFIGURATION_REQUEST (13 R368, R384, 15 R417): MSI-X Enable, the function mask, Bus Master Enable, as far as the request writes them; an
identity, where it reads one. -/
def execConfigurationRequest (msix mask : Option Bool) (header : HeaderAccess) (s : State) : Host.Outcome State Fault Refusal :=
  .next (s.whenAwake fun s => s.configRequest msix mask header.bme header.rd)
/-- BAR2_READ (13 R385): `n` bytes at offset `o`; `bad` when the memory system reports an error. -/
def execBar2Read (o : BitVec 36) (n : Fin 4097) (bad : Bool) (t : Nat) (s : State) : Host.Outcome State Fault Refusal :=
  .next (s.whenAwake fun s => (s.at t).bar2 o.toNat n.val none bad)
/-- BAR2_WRITE (13 R385). -/
def execBar2Write (o : BitVec 36) (data : List Byte) (bad : Bool) (t : Nat) (s : State) : Host.Outcome State Fault Refusal :=
  .next (s.whenAwake fun s => (s.at t).bar2 o.toNat data.length (some data) bad)

end Sys2Proof.Machine
end

