-- ==== Sys2Proof/Machine/Start.lean ====
section
/-! DEFINITION. Power, reset and start (spec 13 R365–R372, 16 R424, R425, R429, R432–R434, 18 R449, R450), and SAFE_STOP_N. -/
namespace Sys2Proof.Machine

/-- Reset of every domain but what the reset leaves (18 R450, 13 R365): OTP, flash, pins and straps; commands that wait and what has left
the device are no part of it. -/
def State.afterReset (s : State) : State :=
  { ({} : State) with
    pending := s.pending, freeCount := s.freeCount, tb3 := s.tb3, out := s.out
    time := { tb3Frac := s.time.tb3Frac }
    map := { nand := s.map.nand, blocks := s.map.blocks, bad := s.map.bad, refuse := s.pwr.pfailLow, holdTo := s.map.holdTo }
    cfg := { nor := s.cfg.nor }
    sec := { uid := s.sec.uid, vendorHash := s.sec.vendorHash, integratorHash := s.sec.integratorHash, vendorDisable := s.sec.vendorDisable
             seed := s.sec.seed, enrolDone := s.sec.enrolDone, rows := s.sec.rows, nextRow := s.sec.nextRow }
    pwr := { pfailLow := s.pwr.pfailLow, pfailSince := s.pwr.pfailSince }
    dev := { poweredOff := s.dev.poweredOff, pwrOk := s.dev.pwrOk, safeStopLow := s.dev.safeStopLow }
    ep := { perst := s.ep.perst, refclk := s.ep.refclk }
    tap := s.tap }

/-- CHAIN_HEAD as sampled at the Skerry's reset (13 R378, R390), and PFAIL_N as it stands (15 R410, R419). -/
def State.strap (s : State) (head : Bool) : State :=
  ((s.setFld R.CHAIN_STATUS R.CHAIN_STATUS_head (b2n head)).setFld R.PWR_STATUS R.PWR_STATUS_pfail (b2n s.pwr.pfailLow)).setLevel 290 s.pwr.pfailLow

/-- Does PFAIL_N, or its hold of 10 ms, keep a cold start from its next state (13 R369). -/
def State.pfailHolds (s : State) : Bool := s.pwr.pfailLow || s.map.holdTo.isSome

/-- TRAIN and the entry of ENUM (13 R365, R374, 14 R402): both Causeway ports train, a blank seed is drawn, the channels are checked. -/
def State.trainAll (s : State) (b : BootIn) (t : Nat) : State :=
  let s1 := s.enter .train
  let port := fun (s : State) (p : Nat) (l : BitVec 4) => (s.setPort p 1 0).trainEnd p l.toNat
  let s2 := port (port s1 0 b.lanesUp) 1 b.lanesDown
  let s2a := s2.drawSeed b.entropyOk
  let s3 := ({ s2a with map := { s2a.map with parts := b.parts } }).checkChannels
  let s4 := ((s3.enter .enum).setLevel 4 s3.dev.safeStopLow).levelsNow
  (s4.enumStart t).domains

/-- BOOT (12 R340, R345, 13 R365, R368, 14 R401): the image, the calibration; no slot leaves the device in BOOT. -/
def State.boot (s : State) (b : BootIn) (t : Nat) : State :=
  let s1 := (s.setState .boot).startKey.secRegs.domains
  let r := s1.bootImage
  let s2 : State := { r.2 with ep := { r.2.ep with configOpen := true } }
  match r.1 with
  | none => { s2 with dev := { s2.dev with bootFailed := true } }
  | some (slot, im) =>
    let s3 := s2.readCal.activate im slot
    let s4 : State := { s3 with sec := { s3.sec with armed := true } }
    if s4.pfailHolds then { s4 with dev := { s4.dev with pfailHeld := true } } else s4.trainAll b t

/-- What the board fits is there from the first power-on (12 R334, 14 R395, 10 R278). -/
def State.fit (s : State) (f : Fitted) : State :=
  let nor := f.nor.foldl (fun (m : SMap Byte) e => (e.2.zipIdx).foldl (fun (m : SMap Byte) x => SMap.set (fun _ => (0xFF : Byte)) m (e.1 + x.2) x.1) m) s.cfg.nor
  { s with cfg := { s.cfg with nor := nor }, sec := { s.sec with uid := f.uid, vendorHash := f.vendorHash }, map := { s.map with bad := f.bad } }

/-- POR_N falls (18 R450). -/
def State.porAssert (s : State) : State :=
  let s1 := s.afterReset
  { s1 with dev := { s1.dev with poweredOff := true, state := .off }, tb3 := 0, time := {} }

/-- The epoch count stands where TB3 does (01 R19): epoch e begins where TB3 is e × 250,000 ns. -/
def State.countEpochs (s : State) : State := { s with dev := { s.dev with epoch := max s.dev.epoch (s.tb3 / epochNs) } }

/-- POR_N rises at the reset state: TB3 counts from 0, the straps are taken, and BOOT starts where the supplies stand (13 R365, 18 R449). -/
def State.coldGo (s : State) (pwrOk head : Bool) (b : BootIn) (t : Nat) : State :=
  let s1 : State := { s with tb3 := 0, time := {}, dev := { s.dev with poweredOff := false, pwrOk := pwrOk, state := .boot, tStart := some 0 } }
  let s2 := (s1.strap head).domains
  if pwrOk then ((s2.at t).countEpochs).boot b t else s2

/-- POR_N rises (13 R365, 18 R449): TB3 and the epoch count start from zero; BOOT waits for PWR_OK. -/
def State.coldStart (s : State) (pwrOk head : Bool) (ext : Option Fitted) (b : BootIn) (t : Nat) : State :=
  let s1 := match ext with
    | some f => s.afterReset.fit f
    | none => s.afterReset
  s1.coldGo pwrOk head b t

/-- PWR_OK has been low for 10 µs (18 R450); in SLEEP the supplies may go (16 R423). -/
def State.pwrOkLoss (s : State) : State :=
  if s.dev.state = .sleep ∨ s.dev.poweredOff then { s with dev := { s.dev with pwrOk := false } }
  else
    let head := s.isHead
    let s1 := s.afterReset
    ({ s1 with dev := { s1.dev with pwrOk := false, state := .boot } }).strap head

/-- A wake that finds no resume image to use (13 R372): a cold start after the clocks, TB3 and the epoch count running on. -/
def State.wakeCold (s : State) (fail : Nat) (b : BootIn) (bits t : Nat) : State :=
  let head := s.isHead
  let s1 := s.afterReset
  let s2 := ({ s1 with dev := { s1.dev with epoch := s.dev.epoch, tStart := some t } }).strap head
  let s3 := (s2.setFld R.HOST_START_STATUS R.HOST_START_STATUS_resume_fail fail).noteWake bits
  s3.boot b t

/-- Why the resume image cannot be used, 0 when it can (13 R372, R392): a header that is none, or what the wake finds. -/
def State.resumeFail (s : State) (w : WakeIn) : Nat :=
  if w.fail.val = 0 ∧ (leAt s.pwr.psram 0 4 ≠ 0x4B52534D ∨ leAt s.pwr.psram 4 2 ≠ 1) then 1 else w.fail.val

/-- The wake sequence proceeds (13 R371, R372) from the crystal edge at which TB3 resumes (07 R192). -/
def State.wakeGo (s : State) (w : WakeIn) (t : Nat) : State :=
  let bits := s.satisfiedNow
  let s1 := (s.at t).crystalWake
  if s1.resumeFail w = 0 then s1.resume w.restOk w.plans bits s1.tb3 else s1.wakeCold (s1.resumeFail w) w.boot bits s1.tb3

/-- A wake source acts (16 R424, R425): from SLEEP the sequence starts once PWR_OK is high, from WATCH the next boundary leaves it; while
PFAIL_N is low or its hold lasts the source is latched. -/
def State.wakeSource (s : State) (bit : Nat) (w : WakeIn) (t : Nat) : State :=
  let on := bitOf (s.cfgReg R.PWR_WAKE_CFG) bit && decide (s.dev.state = .sleep ∨ s.dev.state = .watch) && !s.dev.poweredOff
  if !on ∨ (s.dev.state = .watch ∧ (s.dev.safeStopLow ∨ s.pwr.wakePending)) then s
  else
    let s1 : State := { s with pwr := { s.pwr with latched := s.pwr.latched ||| 2 ^ bit } }
    if s1.pfailHolds then s1
    else if s1.dev.state = .watch then
      let bits := s1.satisfiedNow
      ({ s1 with pwr := { s1.pwr with wakePending := true, latched := 0 } }).noteWake bits
    else if s1.dev.pwrOk then s1.wakeGo w t
    else s1

/-- PWR_OK rises (18 R449, R450): BOOT, or the wake that waits for it. -/
def State.pwrOkRise (s : State) (w : WakeIn) (t : Nat) : State :=
  if s.dev.poweredOff ∨ s.dev.pwrOk then s
  else
    let s1 : State := { s with dev := { s.dev with pwrOk := true } }
    if s1.dev.state = .sleep then (if s1.pwr.latched ≠ 0 ∧ !s1.pfailHolds then (s1.at t).wakeGo w t else s1)
    else
      let s2 : State := if s1.dev.tStart.isSome then (s1.at t).countEpochs
        else { s1 with tb3 := 0, time := {}, dev := { s1.dev with epoch := 0, tStart := some 0 } }
      s2.boot w.boot (max s2.tb3 (if s1.dev.tStart.isSome then t else 0))

/-- TB3 has reached PWR_ALARM (16 R424). -/
def State.alarmDue (s : State) : Bool := decide (s.cfgReg R.PWR_ALARM_LO + 2 ^ 32 * s.cfgReg R.PWR_ALARM_HI ≤ s.tb3)

/-- PFAIL_N falls (10 R295, 12 R347, 16 R433): `us` µs pass until the device draws 20 W. -/
def State.pfailAssert (s : State) (us t : Nat) : State :=
  if s.pwr.pfailLow then s
  else
    let s1 : State := { s with pwr := { s.pwr with pfailLow := true, pfailSince := t } }
    if s1.dev.poweredOff ∨ !s1.dev.pwrOk ∨ s1.dev.state = .sleep ∨ s1.dev.state = .off then
      { s1 with map := { s1.map with refuse := true, holdTo := none } }
    else
      let s2 := ((s1.setFld R.PWR_STATUS R.PWR_STATUS_pfail 1).setLevel 290 true).shedStart us
      let c := s2.calPfail
      let s3 := match c.1, c.2.jobOf (fun j => j == .cal) with
        | true, some m => c.2.finishCmd m .badArg
        | _, _ => c.2
      let busy : Bool := s3.map.flight.isSome || s3.map.cur.isSome || decide (s3.mapState = 2 ∨ s3.mapState = 3)
      let s4 : State := if busy ∧ s3.dev.state ≠ .watch then s3.mapPfail else { s3 with map := { s3.map with refuse := true, holdTo := none } }
      (s4.reefSync).jobSync t

/-- PFAIL_N rises (16 R424, R425, R434): the hold of 10 ms starts; its release is a wake source. -/
def State.pfailRelease (s : State) (t : Nat) : State :=
  if !s.pwr.pfailLow then s
  else
    let s1 : State := { s with pwr := { s.pwr with pfailLow := false, pfailSince := t } }
    let s2 := (s1.setFld R.PWR_STATUS R.PWR_STATUS_pfail 0).setLevel 290 false
    let s3 := s2.mapPfailRelease t
    let wakes := s3.cfgBit R.PWR_WAKE_CFG R.PWR_WAKE_CFG_pfail_en && !s3.dev.poweredOff &&
      (decide (s3.dev.state = .sleep) || (decide (s3.dev.state = .watch) && !s3.dev.safeStopLow && !s3.pwr.wakePending))
    if wakes then { s3 with pwr := { s3.pwr with latched := s3.pwr.latched ||| 2 ^ 9 } } else s3

/-- PFAIL_N has been high for 10 ms (16 R425, R434, 13 R369). -/
def State.pfailHoldEnd (s : State) (w : WakeIn) (t : Nat) : State :=
  match s.map.holdTo with
  | none => s
  | some h =>
    if s.pwr.pfailLow ∨ t < h then s
    else
      let shed := s.pwr.shed
      let s1 : State := { s with pwr := { s.pwr with shed := false, selfRefresh := false } }
      let s2 := s1.mapHoldEnd
      let s3 := if shed then (s2.resumeCtxs).retryAll fun _ => true else s2
      let s4 : State := { s3 with dev := { s3.dev with pfailHeld := false } }
      if s3.dev.pfailHeld then
        match s4.dev.state with
        | .boot => s4.trainAll w.boot t
        | .enum => s4.enterLoad
        | _ => s4
      else if s4.pwr.latched = 0 then s4
      else if s4.dev.state = .sleep then (if s4.dev.pwrOk then s4.wakeGo w t else s4)
      else if s4.dev.state = .watch ∧ !s4.dev.safeStopLow ∧ !s4.pwr.wakePending then
        let bits := s4.satisfiedNow
        ({ s4 with pwr := { s4.pwr with wakePending := true, latched := 0 } }).noteWake bits
      else { s4 with pwr := { s4.pwr with latched := 0 } }

/-- SAFE_STOP_N takes a level (12 R354, R362): its source follows from ENUM onward. -/
def State.safeStop (s : State) (low : Bool) : State :=
  let s1 : State := { s with dev := { s.dev with safeStopLow := low } }
  match s1.dev.state with
  | .off | .sleep | .boot | .train => s1
  | _ => s1.setLevel 4 low

/-- The temperature at which the device trips has been reached (16 R432). -/
def State.thermalTrip (s : State) (t : Nat) : State :=
  match s.dev.state with
  | .off | .sleep | .boot | .train => s
  | _ => s.trip t

/-- The PLL of Atoll `a` has locked again (16 R429). -/
def State.relocked (s : State) (a : Nat) : State :=
  let s1 : State := { s with pwr := { s.pwr with relock := SMap.del s.pwr.relock a } }
  s1.retryAll fun i => decide (i / 512 = a)

/-- POR_ASSERT (18 R450). -/
def execPorAssert (s : State) : Host.Outcome State Fault Refusal := .next s.porAssert

/-- COLD_START (13 R365). -/
def execColdStart (pwrOk head : Bool) (ext : Option Fitted) (b : BootIn) (t : Nat) (s : State) : Host.Outcome State Fault Refusal :=
  .next (s.coldStart pwrOk head ext b t)

/-- PWR_OK_LOSS (18 R450). -/
def execPwrOkLoss (t : Nat) (s : State) : Host.Outcome State Fault Refusal := .next ((s.at t).pwrOkLoss)

/-- PWR_OK_RISE (18 R449). -/
def execPwrOkRise (w : WakeIn) (t : Nat) (s : State) : Host.Outcome State Fault Refusal := .next (s.pwrOkRise w t)

/-- WAKE_N_PIN (16 R424). -/
def execWakeNPin (k : Fin 4) (w : WakeIn) (t : Nat) (s : State) : Host.Outcome State Fault Refusal :=
  .next ((s.at t).wakeSource k.val w t)

/-- CAN_WAKE (16 R424). -/
def execCanWake (j : Fin 4) (w : WakeIn) (t : Nat) (s : State) : Host.Outcome State Fault Refusal :=
  .next ((s.at t).wakeSource (4 + j.val) w t)

/-- TB3_ALARM (16 R424): it acts when TB3 has reached the alarm. -/
def execTb3Alarm (w : WakeIn) (t : Nat) (s : State) : Host.Outcome State Fault Refusal :=
  .next (if (s.at t).alarmDue then (s.at t).wakeSource 8 w t else s.at t)

/-- PFAIL_ASSERT (10 R295, 16 R433). -/
def execPfailAssert (us t : Nat) (s : State) : Host.Outcome State Fault Refusal := .next ((s.at t).pfailAssert us t)

/-- PFAIL_RELEASE (16 R424, R434). -/
def execPfailRelease (t : Nat) (s : State) : Host.Outcome State Fault Refusal := .next ((s.at t).pfailRelease t)

/-- PFAIL_HOLD_END (16 R434). -/
def execPfailHoldEnd (w : WakeIn) (t : Nat) (s : State) : Host.Outcome State Fault Refusal := .next ((s.at t).pfailHoldEnd w t)

/-- SAFE_STOP_ASSERT (12 R354). -/
def execSafeStopAssert (s : State) : Host.Outcome State Fault Refusal := .next (s.safeStop true)

/-- SAFE_STOP_RELEASE (12 R353). -/
def execSafeStopRelease (s : State) : Host.Outcome State Fault Refusal := .next (s.safeStop false)

/-- THERMAL_TRIP (16 R432). -/
def execThermalTrip (t : Nat) (s : State) : Host.Outcome State Fault Refusal := .next (s.whenAwake fun s => (s.at t).thermalTrip t)

/-- ATOLL_RELOCK_DONE (16 R429). -/
def execAtollRelockDone (a : Fin 6) (t : Nat) (s : State) : Host.Outcome State Fault Refusal := .next (s.whenAwake fun s => (s.at t).relocked a.val)

end Sys2Proof.Machine
end

