-- ==== Sys2Proof/Machine/Boundary.lean ====
section
/-! DEFINITION. The epoch boundary (spec 01 R19–R22, 04 R120, 05 R148–R150, 12 R357, R361, 16 R429–R432): its steps in their order. -/
namespace Sys2Proof.Machine

/-- Is the Pilot at work: invocations may run in this state (12 R354). -/
def State.pilotOn (s : State) : Bool :=
  !s.dev.halting && match s.dev.state with
    | .run | .degraded | .safe | .watch | .test => true
    | _ => false

/-- Cycles that bundles have issued in and cycles of stall of an Islet since the last boundary; a clock that restarted since counts from zero (05
R148, 02 R30). -/
def Place.islandTime (p : Place) (i : Nat) (x : Islet) : Nat × Nat :=
  let b := SMap.get (fun _ => ((0, 0) : Nat × Nat)) p.seen i
  let fresh := decide (x.cycle < b.1 ∨ x.retired < b.2)
  let dc := if fresh then x.cycle else x.cycle - b.1
  let dr := if fresh then x.retired else x.retired - b.2
  (dr, dc - dr)

/-- The busy and stall cycles of the epoch that ends, per Atoll and per unit (05 R148). -/
def State.isletTimes (s : State) : State :=
  let z : Nat → Nat × Nat := fun _ => (0, 0)
  let add := fun (m : SMap (Nat × Nat)) (k : Nat) (d : Nat × Nat) => SMap.update z m k fun e => (e.1 + d.1, e.2 + d.2)
  let busy := s.islets.foldl (fun (m : SMap (Nat × Nat)) e =>
    let d := s.place.islandTime e.1 e.2
    let m1 := add m (e.1 / 512) d
    match e.2.lastOwner with
    | some n => add m1 (64 + n) d
    | none => m1) []
  { s with place := { s.place with busy := busy, seen := s.islets.foldl (fun (m : SMap (Nat × Nat)) e => SMap.set z m e.1 (e.2.cycle, e.2.retired)) [] } }

/-- Bytes of a tier: those over the paths of its instances (05 R157). -/
def Place.tierBytes (p : Place) (t : Nat) : Nat := sumInst t fun i => SMap.get (fun _ => 0) p.bytes (pathOf t i)

/-- The measures of the epoch that ends show, and are added to the telemetry interval (05 R148, R157, 12 R361); the hit rate of a tier
without an access is a free value (log entry 81). -/
def State.measures (s : State) : State :=
  let get := fun (m : SMap Nat) (t : Nat) => SMap.get (fun _ => 0) m t
  let s1 := [1, 2, 3, 4].foldl (fun (s : State) t =>
    let o := 0x20 * (t - 1)
    let n := get s.place.touches t
    let f := s.free.toNat % 1001
    let s1 := if n = 0 then s.tick.setReg (R.PLACE_TIER_HIT + o) f else s.setReg (R.PLACE_TIER_HIT + o) (1000 * get s.place.hits t / n)
    s1.setReg (R.PLACE_TIER_BW + o) (satU 32 ((s.place.tierBytes t + 4095) / 4096))) s.isletTimes
  let add := fun (m : SMap Nat) (k n : Nat) => SMap.update (fun _ => 0) m k (· + n)
  let tele := [1, 2, 3, 4].foldl (fun (m : SMap Nat) t => add (add m (4 + t) (get s.place.hits t)) (8 + t) (get s.place.touches t)) s1.dev.tele
  { s1 with place := { s1.place with touches := [], hits := [], bytes := [], waits := [], migBytes := [] }, dev := { s1.dev with tele := tele } }

/-- A move of the Pilot's plan (05 R149, R150, R152, R153): a promotion to rebalance, which the budget of an Isle bounds, an eviction, or the
load of an UNLOADED object. An eviction takes the object where it asks; an immutable one is discarded (R134). -/
def State.pilotMove (s : State) (m : PilotMove) : State :=
  let id := m.id.toNat
  match s.obj id with
  | none => s
  | some o =>
    let t := m.tier.val + 1
    if o.pinned ∨ o.system ∨ tierInsts t ≤ m.inst.val then s
    else if o.res = .unloaded then s.startLoad id o.cls 0x85 7 m.metric.toNat
    else if o.tier < t ∧ o.immutable then
      if o.res = .resident ∧ o.promo.isNone then (evictOne s.place.nextDec o.cls 0x85 { st := s } (id, o)).st.placeRegs else s
    else s.requestMove id t m.inst.val o.cls 0x85 7 m.metric.toNat m.target.toNat true

/-- The rebalancing moves left over from earlier epochs start as far as the new budget goes (05 R150). -/
def State.deferredMoves (s : State) : State :=
  (s.place.list.filter fun e => e.2.res == .resident && e.2.move.isNone && e.2.promo.any fun m => m.rebal).foldl (fun (s : State) e => s.grantMove e.1) s

/-- A unit's stretch factor changes (04 R120). -/
def State.setStretch (s : State) (n st kind reason metric target : Nat) : State :=
  let u := s.nslot n
  let o := 0x40 * n
  let s1 := (s.setNslot n { u with stretch := st }).setFld (R.NET_UNIT_STATE + o) R.NET_UNIT_STATE_stretch (st - 1)
  let s2 := (s1.setReg (R.NET_UNIT_ACT_PERIOD + o) (st * s1.reg (R.NET_UNIT_CFG_PERIOD + o))).setUnitState n (if st = 1 then 2 else 3)
  let cls := match u.unit with
    | some x => x.cls
    | none => 0
  (s2.writeDecision { epoch := s.dev.epoch, kind := kind, reason := reason, cls := cls, owner := n, metric := metric, target := target
                      since := s.tb3, always := true })

/-- The Pilot takes up a new assignment for a unit (05 R149, R153): it applies to invocations that start from now on. -/
def State.pilotPlan (s : State) (n : Nat) (p : List (List Nat)) : State :=
  match (s.nslot n).unit with
  | some x =>
    if x.planOk p ∧ (s.unitState n = 2 ∨ s.unitState n = 3) then
      let mean := (s.nslot n).times.foldl (· + ·) 0 / max 1 (s.nslot n).times.length
      s.setPlan n p { epoch := 0, kind := 3, reason := 3, cls := x.cls, owner := n, metric := mean, target := s.reg (R.NET_UNIT_ACT_PERIOD + 0x40 * n) }
    else s
  | none => s

/-- Islets of all layers of a plan. -/
def islandsOf (p : List (List Nat)) : Nat := p.foldl (fun n l => n + l.length) 0

/-- The comparison of R120 for a unit: the mean of its last 16 invocations against its configured period; a wider assignment comes first, as the
Pilot's plan `wider` or the layer records allow it, then a stretch (log entry 82). -/
def State.pace (s : State) (n : Nat) (wider : Option (List (List Nat))) : State :=
  let u := s.nslot n
  match u.unit with
  | none => s
  | some x =>
    if s.unitState n ≠ 2 ∧ s.unitState n ≠ 3 then s
    else
      let period := s.cfgPeriod x
      let o := 0x40 * n
      let s0 := (s.setReg (R.NET_UNIT_CFG_PERIOD + o) period).setReg (R.NET_UNIT_ACT_PERIOD + o) (u.stretch * period)
      let s1 := match wider with
        | some p => s0.pilotPlan n p
        | none => s0
      let full := decide (u.times.length = 16)
      let sum := u.times.foldl (· + ·) 0
      if full && decide (1 < u.stretch) && u.times.all fun r => decide (100 * r ≤ 80 * ((u.stretch - 1) * period)) then
        s1.setStretch n (u.stretch - 1) 5 4 (sum / 16) period
      else if full && decide (16 * period < sum) then
        let most := x.mostPlan
        let s2 := if islandsOf u.plan < islandsOf (s1.nslot n).plan then s1
          else if islandsOf u.plan < islandsOf most ∧ x.planOk most then s1.pilotPlan n most else s1
        if islandsOf u.plan < islandsOf (s2.nslot n).plan then s2
        else if u.stretch < x.maxStretch then s2.setStretch n (u.stretch + 1) 4 3 (sum / 16) period
        else s2
      else s1

/-- The Pilot changes the steering shares of the Reef engines (11 R327); the change is logged. -/
def State.steerReef (s : State) (x : ReefShares) : State :=
  let shares := (x.shares.take 16).map fun b => b.toNat
  if shares = s.reef.shares then s
  else
    ({ s with reef := { s.reef with shares := shares } }).noteDecision
      { epoch := s.dev.epoch, kind := 0x0B, reason := if x.reason.val = 0 then 9 else x.reason.val, cls := 0, owner := 0x84
        metric := x.metric.toNat, target := x.target.toNat, since := s.tb3, always := true }

/-- Clock-gating groups of 16 Islets without an assignment are gated (16 R429). -/
def State.gateIdle (s : State) : State :=
  let busy := (s.islets.filter fun e => !e.2.idle).map fun e => e.1 / 16
  ((s.islets.map fun e => e.1).filter fun i => !busy.contains (i / 16)).foldl (fun (s : State) i => s.setIslet i { s.islet i with gated := true }) s

/-- Step 3 of R21: the re-plan, from the measures of the epoch that ends (05 R148, R149). Halted Islets may be assigned again, and
NET_UNIT_ISLETS_n follows (04 R122, R127). -/
def State.replan (s : State) (x : EpochIn) : State :=
  let s1 := s.measures
  if !s1.pilotOn then s1
  else
    let s2 := (s1.setFld R.PLACE_STATUS R.PLACE_STATUS_last_replan_us (satU 8 x.replanUs))
    let s3 := if 20 < x.replanUs then s2.inc R.PLACE_REPLAN_LATE else s2
    let plan := fun (n : Nat) => match x.plans.find? fun p => p.1.val == n with
      | some p => some (p.2.map fun l => l.map fun i => i.val)
      | none => none
    let s4 := s3.slotsUsed.foldl (fun (s : State) n => if s.unitRuns n then s.pace n (plan n) else s) s3
    let s5 := if s4.pwr.shed ∨ s4.dev.state = .watch then s4 else x.moves.foldl State.pilotMove s4.deferredMoves
    let s5 := match x.steer with
      | some w => s5.steerReef w
      | none => s5
    let s6 : State := { s5 with place := { s5.place with resting := [] } }
    let s7 := (upTo 32).foldl State.showPlan s6
    (s7.gateIdle).placeRegs.settle

/-- Frequency of an Atoll under the steps in force, MHz (16 R429, R431). -/
def State.atollMhz (s : State) (a : Nat) : Nat := 1500 - 100 * (s.pwr.steps.filter fun b => b == a).length

/-- The lowest deadline class among the units assigned to an Atoll; 16 without one (16 R431; log entry 83). -/
def State.atollClass (s : State) (a : Nat) : Nat :=
  s.slotsUsed.foldl (fun m n =>
    match (s.nslot n).unit with
    | some x => if bitOf (s.fld (R.NET_UNIT_ISLETS + 0x40 * n) R.NET_UNIT_ISLETS_atolls) a then min m x.cls else m
    | none => m) 16

/-- The Atoll that the next step lowers (16 R431): the one begun, until it is at 600 MHz, then the one with the highest class. -/
def State.stepAtoll (s : State) : Option Nat :=
  let ok := fun (a : Nat) => decide (600 < s.atollMhz a) && decide (s.atollClass a ≠ 0)
  match s.pwr.steps.head?.filter ok with
  | some a => some a
  | none =>
    ((upTo 6).filter ok).foldl (fun (b : Option Nat) a => match b with
      | some c => if s.atollClass c < s.atollClass a then some a else b
      | none => some a) none

/-- The PLL of an Atoll relocks at a new frequency (16 R429). -/
def State.setSteps (s : State) (a : Nat) (l : List Nat) : State :=
  { s with pwr := { s.pwr with steps := l, relock := SMap.set (fun _ => 0) s.pwr.relock a 1 } }

/-- The effective cap in W (16 R432). -/
def State.effCap (s : State) : Nat :=
  let cap := s.cfgFld R.PWR_CAP R.PWR_CAP_watts
  max (min cap 40) (cap - s.pwr.cut)

/-- The thermal limits at a boundary (16 R432): `tj` in 0.1 °C. -/
def State.thermal (s : State) (tj : Int) : State :=
  let limit : Int := 10 * (s.cfgFld R.PWR_THERM_CFG R.PWR_THERM_CFG_throttle_c : Nat)
  let cut := if limit < tj then (if 40 < s.effCap then s.pwr.cut + 5 else s.pwr.cut) else if tj ≤ limit - 30 then s.pwr.cut - 5 else s.pwr.cut
  let s1 : State := { s with pwr := { s.pwr with cut := cut } }
  let s2 := (s1.setFld R.PWR_STATUS R.PWR_STATUS_eff_cap s1.effCap).setFld R.PWR_STATUS R.PWR_STATUS_thermal (b2n (decide (limit < tj)))
  (if limit < tj then s2.inc R.PWR_THROTTLE_EPOCHS else s2).setLevel 289 (decide (limit < tj))

/-- The power of the last epoch against the effective cap (16 R431). -/
def State.capStep (s : State) (mw : Nat) : State :=
  let cap := 1000 * s.effCap
  let above := decide (cap < mw)
  let low := if 100 * mw ≤ 95 * cap then s.pwr.low95 + 1 else 0
  let next := s.stepAtoll
  let s1 : State := { s with pwr := { s.pwr with low95 := low } }
  let s2 := if above then
      match next with
      | some a => s1.setSteps a (a :: s1.pwr.steps)
      | none => { s1 with pwr := { s1.pwr with engineHold := true } }
    else
      let s2 : State := if mw < cap then { s1 with pwr := { s1.pwr with engineHold := false } } else s1
      match s2.pwr.steps with
      | a :: r => if 16 ≤ low then s2.setSteps a r else s2
      | [] => s2
  let capped := s2.pwr.engineHold || !s2.pwr.steps.isEmpty
  let s3 := (s2.setFld R.PWR_STATUS R.PWR_STATUS_capped (b2n capped)).setFld R.PWR_STATUS R.PWR_STATUS_over
    (b2n (above && next.isNone && s.pwr.engineHold))
  ((if capped then s3.inc R.PWR_CAP_EPOCHS else s3).setLevel 288 capped).domains

/-- Power and temperature of the last epoch (16 R430–R432): they show, they are added to the telemetry interval, the cap and the limits
act; a junction at trip_c trips the device. -/
def State.power (s : State) (x : EpochIn) (t : Nat) : State :=
  let tj := sext 12 x.tj.toNat
  let s1 := (s.setReg R.PWR_POWER_MW x.power.toNat).setFld R.PWR_STATUS R.PWR_STATUS_tj_max x.tj.toNat
  let s2 : State := { s1 with dev := { s1.dev with tele := SMap.update (fun _ => 0) (SMap.update (fun _ => 0) s1.dev.tele 0 (· + x.power.toNat)) 3 (· + x.corrected) } }
  match s2.dev.state with
  | .off | .sleep | .boot => s2
  | _ =>
    let s3 := if s2.dev.state = .watch then s2.thermal tj else (s2.thermal tj).capStep x.power.toNat
    if 10 * (s3.cfgFld R.PWR_THERM_CFG R.PWR_THERM_CFG_trip_c : Nat) ≤ tj then s3.thermalTrip t else s3

/-- Invocations that were late, all units (12 R361). -/
def State.lateSum (s : State) : Nat := (upTo 32).foldl (fun n k => n + s.reg (R.NET_UNIT_LATE + 0x40 * k)) 0

/-- The telemetry entry (12 R361) and the start of the next interval. -/
def State.telemetry (s : State) : State :=
  let n := s.dev.teleEpochs + 1
  let k := fun (i : Nat) => SMap.get (fun _ => 0) s.dev.tele i
  let every := s.cfgReg R.CFG_TELE_CFG % 2 ^ 16
  if every = 0 ∨ n < every then { s with dev := { s.dev with teleEpochs := n } }
  else
    let per := fun (f : Nat → Nat × Nat × Nat) => (upTo 4).map f
    let hit := fun (i : Nat) => if k (9 + i) = 0 then s.reg (R.PLACE_TIER_HIT + 0x20 * i) else 1000 * k (5 + i) / k (9 + i)
    let mask := fun (m : Nat) (f : Nat → Bool) => (upTo m).foldl (fun a i => if f i then a + 2 ^ i else a) 0
    let dropped := s.reg R.FUSE_LATE_DROPPED
    let fields := [(8, 8, s.dev.epoch), (0x10, 8, s.tb0), (0x18, 1, s.dev.state.code), (0x1C, 4, s.reg R.GLB_DEGRADED), (0x20, 4, k 0 / n),
      (0x24, 2, wrapTo 16 (sext 12 (s.fld R.PWR_STATUS R.PWR_STATUS_tj_max))), (0x28, 2, k 1), (0x2C, 4, s.reg R.FUSE_MASK), (0x30, 4, s.reg R.NET_DEGRADED),
      (0x34, 4, s.lateSum - k 2)] ++ per (fun i => (0x38 + 4 * i, 4, s.reg (R.PLACE_TIER_OCC + 0x20 * i))) ++
      per (fun i => (0x48 + 2 * i, 2, hit i)) ++ per (fun i => (0x50 + 4 * i, 4, s.reg (R.PLACE_TIER_RETIRED + 0x20 * i))) ++
      [(0x60, 4, k 3), (0x64, 2, mask 16 s.shedding), (0x66, 1, mask 8 fun p => s.pairSt p == 2), (0x68, 2, s.reef.ctxs.length),
      (0x6C, 4, s.reg R.MAP_ERASE_CREDIT), (0x70, 1, s.fld R.MAP_STATUS R.MAP_STATUS_budget), (0x71, 1, s.mapState), (0x74, 4, dropped - k 4)]
    let s1 := s.ringWrite 4 256 fields (some 6)
    { s1 with dev := { s1.dev with teleEpochs := 0, tele := [(2, s.lateSum), (4, dropped)].filter fun e => decide (e.2 ≠ 0) } }

/-- GLB_DEGRADED at a boundary (12 R357, R360; log entry 25): a change is written, and DEGRADED without a cause is left. -/
def State.causes (s : State) : State :=
  let v := s.reg R.GLB_DEGRADED
  let s1 := if v ≠ s.dev.posted then ({ s with dev := { s.dev with posted := v } }).eventEntry 3 0 0 0 v else s
  if s1.dev.state = .degraded ∧ v = 0 then s1.enter .run else if s1.dev.state = .run ∧ v ≠ 0 then s1.enter .degraded else s1

/-- The blocks at a boundary, under the configuration in force after step 2. -/
def State.blockBoundary (s : State) (e t : Nat) : State :=
  let s1 := ((s.timeBoundary t).condBoundary).shoreCheck t
  (((s1.domains).refreshMask.estBoundary).epochTriggers e t).gsolBoundary t

/-- Step 4 of R21: an output boundary waits for its seal (08 R234, R236). -/
def State.outputDue (s : State) (e t : Nat) : State :=
  let n := max 1 (s.cfgFld R.FUSE_OUT_CFG R.FUSE_OUT_CFG_div)
  if e % n = 0 ∧ s.sealsNow then { s with fuse := { s.fuse with boundary := some (e, t), frozen := none } } else s

/-- What a boundary does after step 2. -/
def State.afterSlot (s : State) (x : EpochIn) (e t : Nat) : State :=
  if s.asleep then s
  else
    let s1 := ((s.jobBoundary).blockBoundary e t).replan x
    let s2 := ((s1.rollbackOccasion x.otpOk).addTo R.HOST_AER_CE x.aer).power x t
    let s3 := ((s2.reefSync).jobSync t).drainAll t
    let s4 := if s3.pwr.wakePending ∧ s3.dev.state = .watch then s3.leaveTo .run t else s3
    if s4.asleep then s4 else ((s4.causes).outputDue e t).telemetry

/-- The boundary that begins the next epoch (01 R19, R21): while PWR_OK is awaited the count runs on, as in SLEEP; a start that PWR_OK will begin
(18 R450) has no count yet. -/
def State.epochBoundary (s : State) (x : EpochIn) : State :=
  if s.dev.poweredOff ∨ (!s.dev.pwrOk ∧ s.dev.state ≠ .sleep ∧ s.dev.tStart.isNone) then s
  else
    let e := s.dev.epoch + 1
    let t := e * 250000
    let s1 := ({ s with dev := { s.dev with epoch := e } }).at t
    if s1.dev.state = .sleep ∨ !s1.dev.pwrOk then s1
    else (((s1.calBoundary).inForce).slotClose t).afterSlot x e t

/-- EPOCH_BOUNDARY (01 R21). -/
def execEpochBoundary (x : EpochIn) (s : State) : Host.Outcome State Fault Refusal := .next (s.epochBoundary x)

end Sys2Proof.Machine
end

