-- ==== Sys2Proof/Machine/BuoyOps.lean ====
section
/-! DEFINITION. The buoy operations of an Islet (spec 02 R55, R56). -/
namespace Sys2Proof.Machine

/-- Islet `i` issues the bundle of the slot words `r` with the buoy operation `op` in its T slot (R31, R48, R56). -/
def State.runB (s : State) (op : TOp) (i : Nat) (a : BArgs) (r : Rest) : State :=
  let b := decodeRest r
  (s.issue i (some { b with t := { op := op, b := a, t := { b.t.t with pred := a.pred } } })).settle

/-- BSIG: BSIG adds to a COUNT buoy's value as a release (02 R56). -/
def execBsig (i : IsletId) (a : BArgs) (r : Rest) (s : State) : Host.Outcome State Fault Refusal :=
  .next (s.runB .bsig i.val a r)

/-- BSET: BSET sets a COUNT buoy's value (02 R56). -/
def execBset (i : IsletId) (a : BArgs) (r : Rest) (s : State) : Host.Outcome State Fault Refusal :=
  .next (s.runB .bset i.val a r)

/-- BWAIT: BWAIT waits until a buoy's value reaches a target (02 R56). -/
def execBwait (i : IsletId) (a : BArgs) (r : Rest) (s : State) : Host.Outcome State Fault Refusal :=
  .next (s.runB .bwait i.val a r)

/-- BARR: BARR arrives at a barrier buoy and waits for the phase to advance (02 R56). -/
def execBarr (i : IsletId) (a : BArgs) (r : Rest) (s : State) : Host.Outcome State Fault Refusal :=
  .next (s.runB .barr i.val a r)

/-- BARV: BARV arrives at a barrier buoy without waiting (02 R56). -/
def execBarv (i : IsletId) (a : BArgs) (r : Rest) (s : State) : Host.Outcome State Fault Refusal :=
  .next (s.runB .barv i.val a r)

/-- BPOLL: BPOLL reads a buoy's value without waiting (02 R56). -/
def execBpoll (i : IsletId) (a : BArgs) (r : Rest) (s : State) : Host.Outcome State Fault Refusal :=
  .next (s.runB .bpoll i.val a r)

end Sys2Proof.Machine
end

