-- ==== Sys2Proof/Machine/FuseEvents.lean ====
section
/-! DEFINITION. The commands of the fusion unit, the estimator and the graph solver's datapath (specs 08, 09). -/
namespace Sys2Proof.Machine

/-- The lidar depth of a track at (u, v), 12.4, among the depth records of its frame (R223). -/
def State.lidarDepth (s : State) (obj n u v : Nat) : Nat :=
  let px := s.cfgFld R.FUSE_NET_CFG R.FUSE_NET_CFG_assoc_px * 16
  let far := fun (a b : Nat) => decide (px < max a b - min a b)
  (upTo n).foldl (fun best i =>
    let a := placedAddr obj + 16 * i
    let d := s.load (a + 4) 4
    if far (s.load a 2) u || far (s.load (a + 2) 2) v then best
    else if best = 0 ∨ f32Lt d best then d else best) 0

/-- f × B of a pair at its stereo level (R223, 12 R344; log entry 64). -/
def State.depthScale (s : State) (p level : Nat) : Nat :=
  let c := s.cal
  let f := leAt c (0x80 + 128 * s.pairRef p) 4
  let d := (upTo 3).map fun k => f32Sub (leAt c (0x80 + 128 * (2 * p + 1) + 0x34 + 4 * k) 4) (leAt c (0x80 + 128 * (2 * p) + 0x34 + 4 * k) 4)
  let b := f32Sqrt (d.foldl (fun a v => f32Add a (f32Mul v v)) 0)
  f32Mul (f32Mul f (f32OfScaled 1 (-(level : Int)))) b

/-- The stereo depth and the confidence of a track at (u, v) of a frame of port `n` (R223). -/
def State.stereoDepth (s : State) (n : Nat) (d : DoneFrame) (u v : Nat) : Nat × Nat :=
  let p := n / 2
  if s.pairRef p ≠ n ∨ s.pairCfg p R.SHORE_PAIR_CFG_enable ≠ 1 then (0, 0)
  else
    match (s.spair p).matched.find? fun m => m.1 == d.seq with
    | none => (0, 0)
    | some (_, obj, l) =>
      let w := d.cfg.width / 2 ^ l
      let h := d.cfg.height / 2 ^ l
      let at_ := fun (z size : Nat) => min (divRne z (16 * 2 ^ l : Nat)).toNat (size - 1)
      let i := at_ v h * w + at_ u w
      let word := s.load (placedAddr obj + 2 * i) 2
      if 0xF001 ≤ word then (0, 0)
      else (f32Div (s.depthScale p l) (f32OfScaled word (-4)), s.load (placedAddr obj + 2 * w * h + i) 1)

/-- Write the association object of the oldest frame of port `n` that waits for it (R223–R225). -/
def State.associate (s : State) (n t : Nat) : State :=
  let x := s.sport n
  match x.toAssoc with
  | [] => s
  | (d, depth, _, pts) :: rest =>
    let rows := ((upTo d.rows).map fun i => s.bytes (placedAddr d.slot.tracks + 32 * i) 32).filter fun b => decide (leAt b 0xE 1 ≤ 1)
    let one := fun (b : List Byte) =>
      let u := leAt b 4 2
      let v := leAt b 6 2
      let dl := if depth = 0 then 0 else s.lidarDepth depth pts u v
      let ds := s.stereoDepth n d u v
      record 32 [(0, 4, leAt b 0 4), (4, 1, n), (5, 1, b2n (decide (dl ≠ 0)) + 2 * b2n (decide (ds.1 ≠ 0))), (6, 1, leAt b 0xE 1), (8, 2, u),
        (0xA, 2, v), (0xC, 4, dl), (0x10, 4, ds.1), (0x14, 1, ds.2), (0x18, 8, leAt b 0x14 8)]
    let s1 := s.store (placedAddr d.slot.assoc) (record 64 [(0, 4, d.seq), (4, 4, rows.length), (8, 1, n)] ++ rows.flatMap one)
    (s1.setSport n { s1.sport n with toAssoc := rest }).deliverFrame n 2 d t

/-- Seal the record of the boundary that waits; a keyframe may follow (R234, 09 R260). -/
def State.sealAndKey (s : State) (t : Nat) : State :=
  match s.sealPose t with
  | (some p, s1) => s1.makeKeyframe p t
  | (none, s1) => s1

/-- ASSOCIATION_WRITE (R223–R225). -/
def execAssociationWrite (n : Fin 16) (t : Nat) (s : State) : Host.Outcome State Fault Refusal :=
  .next (s.whenAwake fun s => (s.at t).associate n.val t)

/-- SMOOTHER_PASS_START (R231). -/
def execSmootherPassStart (t : Nat) (s : State) : Host.Outcome State Fault Refusal := .next (s.whenAwake fun s => (s.at t).passStart t)

/-- SMOOTHER_PASS_END (R231, R232). -/
def execSmootherPassEnd (t : Nat) (s : State) : Host.Outcome State Fault Refusal := .next (s.whenAwake fun s => (s.at t).passEnd t)

/-- A source has been silent for its time (R240): sensor_mask follows. -/
def State.dropout (s : State) (b : Nat) : State := if s.maskCause b = 2 then s.refreshMask else s

/-- SOURCE_DROPOUT (R240): sensor_mask follows the silence of a source. -/
def execSourceDropout (b : Fin 28) (t : Nat) (s : State) : Host.Outcome State Fault Refusal := .next (s.whenAwake fun s => (s.at t).dropout b.val)

/-- POSE_SEAL (R233–R239, R242). -/
def execPoseSeal (t : Nat) (s : State) : Host.Outcome State Fault Refusal := .next (s.whenAwake fun s => (s.at t).sealAndKey t)

/-- BUNDLE_ADJUST_END (09 R253, R266, 05 R143): `failed` when a read of the run ended in error; `lost`, the directory entries whose write did. -/
def execBundleAdjustEnd (failed : Bool) (lost : List (BitVec 26)) (t : Nat) (s : State) : Host.Outcome State Fault Refusal :=
  .next (s.whenAwake fun s => ((s.at t).endBa failed (lost.map fun i => i.toNat)).reefSync)

/-- OPTIMISATION_START (09 R254, R263). -/
def execOptimisationStart (t : Nat) (s : State) : Host.Outcome State Fault Refusal := .next (s.whenAwake fun s => (s.at t).startOpt t)

/-- OPTIMISATION_END (09 R252, R254, R263, R264): `failed` when a request of the solve ended in error (05 R143). -/
def execOptimisationEnd (failed : Bool) (t : Nat) (s : State) : Host.Outcome State Fault Refusal :=
  .next (s.whenAwake fun s => ((s.at t).endOpt failed t).reefSync)

end Sys2Proof.Machine
end

