-- ==== Sys2Proof/Machine/LoadStore.lean ====
section
/-! DEFINITION. The load/store operations of an Islet (spec 02 R39–R45). -/
namespace Sys2Proof.Machine

/-- Islet `i` issues the bundle of the slot words `r` with the load/store operation `op` in its M slot (R31, R39, R40). -/
def State.runM (s : State) (op : MOp) (i : Nat) (a : MArgs) (r : Rest) : State :=
  (s.issue i (some { decodeRest r with m := ⟨op, a⟩ })).settle

/-- LS_NOP: The load/store NOP does nothing (02 R40). -/
def execLsNop (i : IsletId) (a : MArgs) (r : Rest) (s : State) : Host.Outcome State Fault Refusal :=
  .next (s.runM .nop i.val a r)

/-- LD: LD loads a sign-extended value into a g register (02 R40). -/
def execLd (i : IsletId) (a : MArgs) (r : Rest) (s : State) : Host.Outcome State Fault Refusal :=
  .next (s.runM .ld i.val a r)

/-- LDU: LDU loads a zero-extended value into a g register (02 R40). -/
def execLdu (i : IsletId) (a : MArgs) (r : Rest) (s : State) : Host.Outcome State Fault Refusal :=
  .next (s.runM .ldu i.val a r)

/-- ST: ST stores the low bits of a g register (02 R40). -/
def execSt (i : IsletId) (a : MArgs) (r : Rest) (s : State) : Host.Outcome State Fault Refusal :=
  .next (s.runM .st i.val a r)

/-- VLD: VLD loads 64 bytes into a v register (02 R40). -/
def execVld (i : IsletId) (a : MArgs) (r : Rest) (s : State) : Host.Outcome State Fault Refusal :=
  .next (s.runM .vld i.val a r)

/-- VST: VST stores a v register as 64 bytes (02 R40). -/
def execVst (i : IsletId) (a : MArgs) (r : Rest) (s : State) : Host.Outcome State Fault Refusal :=
  .next (s.runM .vst i.val a r)

/-- VLDS: VLDS loads one value into every lane of a v register (02 R40). -/
def execVlds (i : IsletId) (a : MArgs) (r : Rest) (s : State) : Host.Outcome State Fault Refusal :=
  .next (s.runM .vlds i.val a r)

/-- TOWIN: TOWIN starts a tow from a far address into the sliver store (02 R44). -/
def execTowin (i : IsletId) (a : MArgs) (r : Rest) (s : State) : Host.Outcome State Fault Refusal :=
  .next (s.runM .towin i.val a r)

/-- TOWOUT: TOWOUT starts a tow from the sliver store to a far address (02 R44). -/
def execTowout (i : IsletId) (a : MArgs) (r : Rest) (s : State) : Host.Outcome State Fault Refusal :=
  .next (s.runM .towout i.val a r)

/-- TWAIT: TWAIT waits for the named tow slots to be idle and returns their error state (02 R40). -/
def execTwait (i : IsletId) (a : MArgs) (r : Rest) (s : State) : Host.Outcome State Fault Refusal :=
  .next (s.runM .twait i.val a r)

/-- TSTAT: TSTAT returns the tow busy and error masks without waiting (02 R40). -/
def execTstat (i : IsletId) (a : MArgs) (r : Rest) (s : State) : Host.Outcome State Fault Refusal :=
  .next (s.runM .tstat i.val a r)

end Sys2Proof.Machine
end

