-- ==== Sys2Proof/Machine/MapEvents.lean ====
section
/-! DEFINITION. The meanings of the commands of the map store and of the calibration's NOR steps (spec 10, 12 R347). -/
namespace Sys2Proof.Machine

/-- RECORD_SUBMIT (10 R280, R286, R304). -/
def execRecordSubmit (r : MapRec) (t : Nat) (s : State) : Host.Outcome State Fault Refusal :=
  .next (s.whenAwake fun s => ((s.at t).submitRec r).reefSync)

/-- commit_ms after its first record the open commit closes (10 R290). -/
def State.commitExpiry (s : State) (t : Nat) : State :=
  match s.map.cur with
  | some c => if 1 ≤ c.records ∧ c.since + c.ms * 1000000 ≤ t ∧ !s.map.refuse then s.closeOpen else s
  | none => s

/-- COMMIT_INTERVAL_EXPIRY (10 R290). -/
def execCommitIntervalExpiry (t : Nat) (s : State) : Host.Outcome State Fault Refusal := .next (s.whenAwake fun s => (s.at t).commitExpiry t)

/-- What follows the durability of commit `c` (09 R264, 10 R298, R301, 12 R351). -/
def State.afterDurable (s : State) (c : Commit) (t : Nat) : State :=
  let s1 := s.publishDurable t c.id
  let s2 := if s1.map.mountAt.isSome ∧ (bitOf c.flags 3 ∨ bitOf c.flags 4) then ((s1.endMount s1.map.mountTo).mapFill).startExit t else s1
  (s2.reefSync).jobSync t

/-- The commit in flight is read back (10 R291). -/
def State.commitReadBack (s : State) (t : Nat) (c0 c1 : Option Nat) : State :=
  let r := s.readBack c0 c1
  match r.1 with
  | some c => r.2.afterDurable c t
  | none => r.2

/-- COMMIT_DURABLE (10 R291). -/
def execCommitDurable (t : Nat) (c0 c1 : Option Nat) (s : State) : Host.Outcome State Fault Refusal :=
  .next (s.whenAwake fun s => (s.at t).commitReadBack t c0 c1)

/-- NAND_PROGRAM_DONE (10 R291, R305). -/
def execNandProgramDone (p : Nat) (pass : Bool) (s : State) : Host.Outcome State Fault Refusal :=
  .next (s.whenAwake fun s => (s.programDone p pass).reefSync)

/-- NAND_ERASE_DONE (10 R293, R304). -/
def execNandEraseDone (b : Nat) (pass : Bool) (s : State) : Host.Outcome State Fault Refusal :=
  .next (s.whenAwake fun s => (s.eraseDone b pass).reefSync)

/-- NAND_READ_DONE (10 R302, R305). -/
def execNandReadDone (p : Nat) (r : ReadEnd) (fixed worst : Nat) (s : State) : Host.Outcome State Fault Refusal :=
  .next (s.whenAwake fun s => (s.readDone p r fixed worst).reefSync)

/-- What the end of a read with TIMEOUT ends (05 R142, 11 R329): the load of its object, an engine's codeword. -/
def State.readFailed (s : State) (r : NRead) (t : Nat) : State :=
  match r.who with
  | .payload id => (s.moveEnded id ccTimeout false).unstall id t
  | .codeword e w v => (s.codewordDone e w v false).placeEvents t
  | _ => s

/-- NAND_READ_TIMEOUT (10 R302). -/
def execNandReadTimeout (p t : Nat) (s : State) : Host.Outcome State Fault Refusal :=
  .next (s.whenAwake fun s => ((s.at t).lateReads p t).foldl (fun (u : State) r => u.readFailed r t) ((s.at t).readTimeout p t))

/-- RECLAIM_START (10 R293, R306). -/
def execReclaimStart (victim : Option Nat) (s : State) : Host.Outcome State Fault Refusal :=
  .next (s.whenAwake fun s => (s.reclaimStart victim).reefSync)

/-- PATROL_READ (10 R305). -/
def execPatrolRead (p t : Nat) (s : State) : Host.Outcome State Fault Refusal := .next (s.whenAwake fun s => (s.at t).patrol p)

/-- ERASE_CREDIT_ACCRUE (10 R304). -/
def execEraseCreditAccrue (t : Nat) (s : State) : Host.Outcome State Fault Refusal := .next (s.whenAwake fun s => ((s.at t).accrue t).reefSync)

/-- MOUNT (10 R298, 13 R365, R373). -/
def execMount (plans : List UnitPlan) (bad : List Nat) (t : Nat) (s : State) : Host.Outcome State Fault Refusal :=
  .next (s.whenAwake fun s => (s.at t).mountRow plans bad t)

/-- A step of the calibration commit ends in the NOR (12 R347, R348). -/
def State.norDone (s : State) (ok : Bool) (t : Nat) : State :=
  let r := s.calStep ok
  match r.1 with
  | none => r.2
  | some good =>
    let s1 := match r.2.jobOf (fun j => j == .cal) with
      | some m => r.2.finishCmd m (if good then .done else .badArg)
      | none => r.2
    s1.jobSync t

/-- NOR_PROGRAM_DONE (12 R347). -/
def execNorProgramDone (ok : Bool) (t : Nat) (s : State) : Host.Outcome State Fault Refusal := .next (s.whenAwake fun s => (s.at t).norDone ok t)

/-- The row SHADOW_VERIFY_END: the reads of STAGE_SHADOW have ended (12 R341, R342). -/
def execShadowVerifyEnd (image : Option (List Byte)) (data : List (Option (List Byte))) (norOk : Bool) (plans : List UnitPlan) (t : Nat)
    (s : State) : Host.Outcome State Fault Refusal := .next (s.whenAwake fun s => (s.at t).stageRead image data norOk plans)

end Sys2Proof.Machine
end

