-- ==== Sys2Proof/Machine/ReefEvents.lean ====
section
/-! DEFINITION. The meanings of the commands of the Reef engines (spec 11). -/
namespace Sys2Proof.Machine

/-- REEF_INSERT (11 R314, R317). -/
def execReefInsert (s : State) : Host.Outcome State Fault Refusal := .next (s.whenAwake fun s => s.takeInsert)

/-- REEF_DELETE (11 R314, R318). -/
def execReefDelete (n : BitVec 32) (s : State) : Host.Outcome State Fault Refusal := .next (s.whenAwake fun s => s.takeDelete n.toNat)

/-- COMPACT_PAGE (11 R319). -/
def execCompactPage (read : SweepRead) (s : State) : Host.Outcome State Fault Refusal :=
  .next (s.whenAwake fun s => (s.at read.t).compactPage read.readable read.t)

/-- UPDATER_RESUME (11 R316). -/
def execUpdaterResume (s : State) : Host.Outcome State Fault Refusal := .next (s.whenAwake fun s => s.updaterResume)

/-- CODEWORD_READ_DONE (11 R328, R329; results release units, 04 R106). -/
def execCodewordReadDone (e : Fin 16) (w v : Nat) (ok : Bool) (t : Nat) (s : State) : Host.Outcome State Fault Refusal :=
  .next (s.whenAwake fun s => ((s.at t).codewordBack e.val w v ok).placeEvents t)

/-- REEF_QUERY_TIMEOUT (11 R329). -/
def execReefQueryTimeout (k t : Nat) (s : State) : Host.Outcome State Fault Refusal :=
  .next (s.whenAwake fun s => ((s.at t).queryTimeout k t).placeEvents t)

end Sys2Proof.Machine
end

