-- ==== Sys2Proof/Machine/Scalar.lean ====
section
/-! DEFINITION. The scalar operations of an Islet (spec 02 R36–R38). -/
namespace Sys2Proof.Machine

/-- Islet `i` issues the bundle of the slot words `r` with the scalar operation `op` in the slot that `a` names (R31, R36,
R37; log entry 28). -/
def State.runS (s : State) (op : SOp) (i : Nat) (a : SArgs) (r : Rest) : State :=
  let b := decodeRest r
  let b1 := match a.slot with
    | .s0 => { b with s0 := ⟨op, a⟩ }
    | .s1 => { b with s1 := ⟨op, a⟩ }
  (s.issue i (some b1)).settle

/-- NOP: The scalar NOP does nothing (02 R37). -/
def execNop (i : IsletId) (a : SArgs) (r : Rest) (s : State) : Host.Outcome State Fault Refusal :=
  .next (s.runS .nop i.val a r)

/-- ADD: ADD writes rs1 + rs2 to rd (02 R37). -/
def execAdd (i : IsletId) (a : SArgs) (r : Rest) (s : State) : Host.Outcome State Fault Refusal :=
  .next (s.runS .add i.val a r)

/-- SUB: SUB writes rs1 - rs2 to rd (02 R37). -/
def execSub (i : IsletId) (a : SArgs) (r : Rest) (s : State) : Host.Outcome State Fault Refusal :=
  .next (s.runS .sub i.val a r)

/-- AND: AND writes the bitwise AND of rs1 and rs2 to rd (02 R37). -/
def execAnd (i : IsletId) (a : SArgs) (r : Rest) (s : State) : Host.Outcome State Fault Refusal :=
  .next (s.runS .and i.val a r)

/-- OR: OR writes the bitwise OR of rs1 and rs2 to rd (02 R37). -/
def execOr (i : IsletId) (a : SArgs) (r : Rest) (s : State) : Host.Outcome State Fault Refusal :=
  .next (s.runS .or i.val a r)

/-- XOR: XOR writes the bitwise XOR of rs1 and rs2 to rd (02 R37). -/
def execXor (i : IsletId) (a : SArgs) (r : Rest) (s : State) : Host.Outcome State Fault Refusal :=
  .next (s.runS .xor i.val a r)

/-- SHL: SHL shifts rs1 left by rs2[5:0] (02 R37). -/
def execShl (i : IsletId) (a : SArgs) (r : Rest) (s : State) : Host.Outcome State Fault Refusal :=
  .next (s.runS .shl i.val a r)

/-- SHR: SHR shifts rs1 right logically by rs2[5:0] (02 R37). -/
def execShr (i : IsletId) (a : SArgs) (r : Rest) (s : State) : Host.Outcome State Fault Refusal :=
  .next (s.runS .shr i.val a r)

/-- SRA: SRA shifts rs1 right arithmetically by rs2[5:0] (02 R37). -/
def execSra (i : IsletId) (a : SArgs) (r : Rest) (s : State) : Host.Outcome State Fault Refusal :=
  .next (s.runS .sra i.val a r)

/-- MUL: MUL writes the low 64 bits of rs1 x rs2 (02 R37). -/
def execMul (i : IsletId) (a : SArgs) (r : Rest) (s : State) : Host.Outcome State Fault Refusal :=
  .next (s.runS .mul i.val a r)

/-- MULH: MULH writes the high 64 bits of the signed product (02 R37). -/
def execMulh (i : IsletId) (a : SArgs) (r : Rest) (s : State) : Host.Outcome State Fault Refusal :=
  .next (s.runS .mulh i.val a r)

/-- SLT: SLT writes 1 when rs1 < rs2 signed (02 R37). -/
def execSlt (i : IsletId) (a : SArgs) (r : Rest) (s : State) : Host.Outcome State Fault Refusal :=
  .next (s.runS .slt i.val a r)

/-- SLTU: SLTU writes 1 when rs1 < rs2 unsigned (02 R37). -/
def execSltu (i : IsletId) (a : SArgs) (r : Rest) (s : State) : Host.Outcome State Fault Refusal :=
  .next (s.runS .sltu i.val a r)

/-- POPC: POPC writes the count of ones in rs1 (02 R37). -/
def execPopc (i : IsletId) (a : SArgs) (r : Rest) (s : State) : Host.Outcome State Fault Refusal :=
  .next (s.runS .popc i.val a r)

/-- MIN: MIN writes the signed minimum of rs1 and rs2 (02 R37). -/
def execMin (i : IsletId) (a : SArgs) (r : Rest) (s : State) : Host.Outcome State Fault Refusal :=
  .next (s.runS .min i.val a r)

/-- MAX: MAX writes the signed maximum of rs1 and rs2 (02 R37). -/
def execMax (i : IsletId) (a : SArgs) (r : Rest) (s : State) : Host.Outcome State Fault Refusal :=
  .next (s.runS .max i.val a r)

/-- ADDI: ADDI writes rs1 + imm (02 R37). -/
def execAddi (i : IsletId) (a : SArgs) (r : Rest) (s : State) : Host.Outcome State Fault Refusal :=
  .next (s.runS .addi i.val a r)

/-- ANDI: ANDI writes rs1 AND imm (02 R37). -/
def execAndi (i : IsletId) (a : SArgs) (r : Rest) (s : State) : Host.Outcome State Fault Refusal :=
  .next (s.runS .andi i.val a r)

/-- ORI: ORI writes rs1 OR imm (02 R37). -/
def execOri (i : IsletId) (a : SArgs) (r : Rest) (s : State) : Host.Outcome State Fault Refusal :=
  .next (s.runS .ori i.val a r)

/-- XORI: XORI writes rs1 XOR imm (02 R37). -/
def execXori (i : IsletId) (a : SArgs) (r : Rest) (s : State) : Host.Outcome State Fault Refusal :=
  .next (s.runS .xori i.val a r)

/-- SHLI: SHLI shifts rs1 left by imm[5:0] (02 R37). -/
def execShli (i : IsletId) (a : SArgs) (r : Rest) (s : State) : Host.Outcome State Fault Refusal :=
  .next (s.runS .shli i.val a r)

/-- SHRI: SHRI shifts rs1 right logically by imm[5:0] (02 R37). -/
def execShri (i : IsletId) (a : SArgs) (r : Rest) (s : State) : Host.Outcome State Fault Refusal :=
  .next (s.runS .shri i.val a r)

/-- SRAI: SRAI shifts rs1 right arithmetically by imm[5:0] (02 R37). -/
def execSrai (i : IsletId) (a : SArgs) (r : Rest) (s : State) : Host.Outcome State Fault Refusal :=
  .next (s.runS .srai i.val a r)

/-- LUI: LUI writes imm21 << 21 (02 R37). -/
def execLui (i : IsletId) (a : SArgs) (r : Rest) (s : State) : Host.Outcome State Fault Refusal :=
  .next (s.runS .lui i.val a r)

/-- LIH: LIH replaces bits [63:42] of rs1 with imm21 (02 R37). -/
def execLih (i : IsletId) (a : SArgs) (r : Rest) (s : State) : Host.Outcome State Fault Refusal :=
  .next (s.runS .lih i.val a r)

/-- PEQ: PEQ sets a predicate to all ones when rs1 = rs2 (02 R37). -/
def execPeq (i : IsletId) (a : SArgs) (r : Rest) (s : State) : Host.Outcome State Fault Refusal :=
  .next (s.runS .peq i.val a r)

/-- PLT: PLT sets a predicate when rs1 < rs2 signed (02 R37). -/
def execPlt (i : IsletId) (a : SArgs) (r : Rest) (s : State) : Host.Outcome State Fault Refusal :=
  .next (s.runS .plt i.val a r)

/-- PLTU: PLTU sets a predicate when rs1 < rs2 unsigned (02 R37). -/
def execPltu (i : IsletId) (a : SArgs) (r : Rest) (s : State) : Host.Outcome State Fault Refusal :=
  .next (s.runS .pltu i.val a r)

/-- PAND: PAND ANDs two predicates (02 R37). -/
def execPand (i : IsletId) (a : SArgs) (r : Rest) (s : State) : Host.Outcome State Fault Refusal :=
  .next (s.runS .pand i.val a r)

/-- POR: POR ORs two predicates (02 R37). -/
def execPor (i : IsletId) (a : SArgs) (r : Rest) (s : State) : Host.Outcome State Fault Refusal :=
  .next (s.runS .por i.val a r)

/-- PNOT: PNOT inverts a predicate (02 R37). -/
def execPnot (i : IsletId) (a : SArgs) (r : Rest) (s : State) : Host.Outcome State Fault Refusal :=
  .next (s.runS .pnot i.val a r)

/-- BR: BR branches relative by imm21 bundles (02 R37). -/
def execBr (i : IsletId) (a : SArgs) (r : Rest) (s : State) : Host.Outcome State Fault Refusal :=
  .next (s.runS .br i.val a r)

/-- JR: JR jumps to rs1 (02 R37). -/
def execJr (i : IsletId) (a : SArgs) (r : Rest) (s : State) : Host.Outcome State Fault Refusal :=
  .next (s.runS .jr i.val a r)

/-- CALL: CALL saves the return address and branches relative (02 R37). -/
def execCall (i : IsletId) (a : SArgs) (r : Rest) (s : State) : Host.Outcome State Fault Refusal :=
  .next (s.runS .call i.val a r)

/-- CALLR: CALLR saves the return address and jumps to rs1 (02 R37). -/
def execCallr (i : IsletId) (a : SArgs) (r : Rest) (s : State) : Host.Outcome State Fault Refusal :=
  .next (s.runS .callr i.val a r)

/-- LOOP: LOOP sets the hardware-loop registers from a count and an end offset (02 R38). -/
def execLoop (i : IsletId) (a : SArgs) (r : Rest) (s : State) : Host.Outcome State Fault Refusal :=
  .next (s.runS .loop i.val a r)

/-- MFC: MFC reads a control register into rd (02 R37). -/
def execMfc (i : IsletId) (a : SArgs) (r : Rest) (s : State) : Host.Outcome State Fault Refusal :=
  .next (s.runS .mfc i.val a r)

/-- MTC: MTC writes rs1 to a control register (02 R30). -/
def execMtc (i : IsletId) (a : SArgs) (r : Rest) (s : State) : Host.Outcome State Fault Refusal :=
  .next (s.runS .mtc i.val a r)

/-- FENCE: FENCE waits for earlier queued loads or posted stores to finish (02 R52). -/
def execFence (i : IsletId) (a : SArgs) (r : Rest) (s : State) : Host.Outcome State Fault Refusal :=
  .next (s.runS .fence i.val a r)

/-- ERET: ERET returns to EPC and clears in_handler (02 R37). -/
def execEret (i : IsletId) (a : SArgs) (r : Rest) (s : State) : Host.Outcome State Fault Refusal :=
  .next (s.runS .eret i.val a r)

/-- TRAP: TRAP raises the TRAP exception with ECODE2 = imm21 (02 R61). -/
def execTrap (i : IsletId) (a : SArgs) (r : Rest) (s : State) : Host.Outcome State Fault Refusal :=
  .next (s.runS .trap i.val a r)

/-- END: END ends the Islet's assignment after an implicit full fence (02 R37). -/
def execEnd (i : IsletId) (a : SArgs) (r : Rest) (s : State) : Host.Outcome State Fault Refusal :=
  .next (s.runS .endA i.val a r)

end Sys2Proof.Machine
end

