-- ==== Sys2Proof/Machine/SensorEvents.lean ====
section
/-! DEFINITION. The commands of the sensors that the estimator hears (specs 06, 07): what a sensor delivers, then sensor_mask
(08 R240). -/
namespace Sys2Proof.Machine

/-- The frame record of port `n` (06 R166), and the units that wait for it (04 R106). -/
def State.recordFrame (s : State) (n t : Nat) : State :=
  match s.frameRecord n t with
  | (some d, s1) => s1.deliverFrame n 0 d t
  | (none, s1) => s1

/-- The depth header of the frame in projection of port `n` (06 R185), and the units that wait for it. -/
def State.recordDepth (s : State) (n t : Nat) : State :=
  match (s.sport n).proj with
  | some j => (s.depthHeader n).deliverFrame n 1 j.frame t
  | none => s

/-- LONG_PACKET (06 R159, R161, R165, 07 R203). -/
def execLongPacket (n : Fin 16) (vc : Fin 4) (dtype : Byte) (headerOk : Bool) (crcOk : Bool) (payload : List Byte) (t : Nat)
    (s : State) : Host.Outcome State Fault Refusal :=
  .next (s.whenAwake fun s => ((s.at t).longPacket n.val vc.val dtype.toNat headerOk crcOk payload t).refreshMask)

/-- LIDAR_DATAGRAM (06 R181–R184). -/
def execLidarDatagram (p : Fin 4) (src : Word32) (dport : BitVec 16) (fragmented : Bool) (payload : List Byte) (t : Nat)
    (s : State) : Host.Outcome State Fault Refusal :=
  .next (s.whenAwake fun s => ((s.at t).lidarDatagram p.val src.toNat dport.toNat fragmented payload t).refreshMask)

/-- FRAME_RECORD_WRITE (06 R166–R174). -/
def execFrameRecordWrite (n : Fin 16) (t : Nat) (s : State) : Host.Outcome State Fault Refusal :=
  .next (s.whenAwake fun s => (s.at t).recordFrame n.val t)

/-- DEPTH_HEADER_WRITE (06 R185). -/
def execDepthHeaderWrite (n : Fin 16) (t : Nat) (s : State) : Host.Outcome State Fault Refusal :=
  .next (s.whenAwake fun s => (s.at t).recordDepth n.val t)

/-- PPS_EDGE (07 R202). -/
def execPpsEdge (falling : Bool) (t : Nat) (s : State) : Host.Outcome State Fault Refusal :=
  .next (s.whenAwake fun s => ((s.at t).ppsEdge falling t).refreshMask)

/-- NMEA_SENTENCE (07 R202, 08 R222). -/
def execNmeaSentence (n : Nmea) (t : Nat) (s : State) : Host.Outcome State Fault Refusal :=
  .next (s.whenAwake fun s => (((s.at t).gnssSentence n t).gnssItem n).refreshMask)

/-- IMU_DRDY (07 R203, R206). -/
def execImuDrdy (i : Fin 2) (t : Nat) (s : State) : Host.Outcome State Fault Refusal :=
  .next (s.whenAwake fun s => ((s.at t).imuDrdy i.val t).refreshMask)

/-- A burst's reply is conditioned and handed on (07 R206, R211). -/
def State.burstDone (s : State) (i : Nat) (reply : List Byte) : State := (s.imuBurst i reply).2.condOuts (s.imuBurst i reply).1

/-- IMU_BURST_DONE (07 R206, R210–R214, 08 R229). -/
def execImuBurstDone (i : Fin 2) (reply : List Byte) (t : Nat) (s : State) : Host.Outcome State Fault Refusal :=
  .next (s.whenAwake fun s => (s.at t).burstDone i.val reply)

/-- WHEEL_EDGE (07 R207). -/
def execWheelEdge (k : Fin 8) (level : WheelLevel) (t : Nat) (s : State) : Host.Outcome State Fault Refusal :=
  .next (s.whenAwake fun s => (s.at t).wheelEdge k.val level.rising level.held t)

/-- The wheel channels are sampled and handed on (07 R207, R211). -/
def State.wheelTick (s : State) (t : Nat) : State := (s.wheelSample t).2.condOuts (s.wheelSample t).1

/-- WHEEL_SAMPLE (07 R207, R210–R214). -/
def execWheelSample (t : Nat) (s : State) : Host.Outcome State Fault Refusal := .next (s.whenAwake fun s => (s.at t).wheelTick t)

/-- A CAN frame's signals are taken and handed on (07 R208, R209). -/
def State.canRx (s : State) (j id : Nat) (ext good : Bool) (data : List Byte) (t : Nat) : State :=
  ((s.canFrame j id ext good data t).2.vehicleSignals (s.canFrame j id ext good data t).1 t).refreshMask

/-- CAN_FRAME (07 R203, R208, R209). -/
def execCanFrame (j : Fin 4) (id : BitVec 29) (ext : Bool) (body : CanPayload) (t : Nat) (s : State) :
    Host.Outcome State Fault Refusal :=
  .next (s.whenAwake fun s => (s.at t).canRx j.val id.toNat ext body.good body.data t)

end Sys2Proof.Machine
end

