-- ==== Sys2Proof/Machine/TapOps.lean ====
section
/-! DEFINITION. The boundary-scan port (spec 18 R446, R447). -/
namespace Sys2Proof.Machine

/-- May SAMPLE/PRELOAD and EXTEST act (R447). -/
def State.scanOpen (s : State) : Bool := decide (s.dev.state = .test) || s.dev.bootFailed

/-- Bits in the order they are shifted, as a number. -/
def ofBits : List Bool → Nat
  | [] => 0
  | b :: r => b2n b + 2 * ofBits r

/-- The state with the port's registers replaced. -/
def State.setTap (s : State) (x : Tap) : State := { s with tap := x }

/-- The bits shifted in appear at TDO one bit later, after the 0 that the bypass register captures (R447; log entry 79). -/
def State.bypass (s : State) (tdi : List Bool) : State :=
  (s.setTap { s.tap with ir := 1, bypassBit := tdi.getLast?.getD false, drive := none }).emit (.tdo tdi.length (ofBits ((false :: tdi).take tdi.length)))

/-- TRST_N takes a level (R447). -/
def State.trst (s : State) (low : Bool) : State :=
  s.setTap (if low then { s.tap with inReset := true, ir := 0, drive := none } else { s.tap with inReset := false })

/-- The levels that the port drives onto the signal balls now (R447). -/
def State.scanDrive (s : State) : Option (List Bool) := if s.scanOpen then s.tap.drive else none

/-- IDCODE (R446). -/
def execIdcode (s : State) : Host.Outcome State Fault Refusal :=
  .next (if s.tap.inReset then s else (s.setTap { s.tap with ir := 0, drive := none }).emit (.tdo 32 0xA9600C2B))

/-- BYPASS (R447). -/
def execBypass (tdi : List Bool) (s : State) : Host.Outcome State Fault Refusal := .next (if s.tap.inReset then s else s.bypass tdi)

/-- SAMPLE_PRELOAD (R447): the levels of the signal balls are captured and shifted out, `tdi` is preloaded. -/
def execSamplePreload (pins tdi : List Bool) (s : State) : Host.Outcome State Fault Refusal :=
  .next (if s.tap.inReset then s
    else if s.scanOpen then (s.setTap { s.tap with ir := 2, scan := tdi, drive := none }).emit (.tdo pins.length (ofBits pins))
    else s.bypass tdi)

/-- EXTEST (R447): the preloaded levels are driven; a shift captures the balls and drives what it shifts in. -/
def execExtest (pins tdi : List Bool) (s : State) : Host.Outcome State Fault Refusal :=
  .next (if s.tap.inReset then s
    else if s.scanOpen then
      let levels := if tdi = [] then s.tap.scan else tdi
      (s.setTap { s.tap with ir := 3, scan := levels, drive := some levels }).emit (.tdo pins.length (ofBits pins))
    else s.bypass tdi)

/-- TRST (R447). -/
def execTrst (low : Bool) (s : State) : Host.Outcome State Fault Refusal := .next (s.trst low)

end Sys2Proof.Machine
end

