-- ==== Sys2Proof/Machine/TensorOps.lean ====
section
/-! DEFINITION. The tensor operations of an Islet (spec 02 R48–R50). -/
namespace Sys2Proof.Machine

/-- Islet `i` issues the bundle of the slot words `r` with the tensor operation `op` in its T slot (R31, R48). -/
def State.runT (s : State) (op : TOp) (i : Nat) (a : TArgs) (r : Rest) : State :=
  let b := decodeRest r
  (s.issue i (some { b with t := { op := op, t := a, b := { b.t.b with pred := a.pred } } })).settle

/-- TNOP: TNOP does nothing (02 R48). -/
def execTnop (i : IsletId) (a : TArgs) (r : Rest) (s : State) : Host.Outcome State Fault Refusal :=
  .next (s.runT .nop i.val a r)

/-- TMMA: TMMA accumulates an 8x8 matrix product into a tensor accumulator (02 R49). -/
def execTmma (i : IsletId) (a : TArgs) (r : Rest) (s : State) : Host.Outcome State Fault Refusal :=
  .next (s.runT .tmma i.val a r)

/-- TFILL: TFILL sets every element of an accumulator to an immediate (02 R48). -/
def execTfill (i : IsletId) (a : TArgs) (r : Rest) (s : State) : Host.Outcome State Fault Refusal :=
  .next (s.runT .tfill i.val a r)

end Sys2Proof.Machine
end

