-- ==== Sys2Proof/Machine/VectorOps.lean ====
section
/-! DEFINITION. The vector operations of an Islet (spec 02 R46, R47, 03). -/
namespace Sys2Proof.Machine

/-- Islet `i` issues the bundle of the slot words `r` with the vector operation `op` in its V slot (R31, R46, R47). -/
def State.runV (s : State) (op : VOp) (i : Nat) (a : VArgs) (r : Rest) : State :=
  (s.issue i (some { decodeRest r with v := ⟨some op, a⟩ })).settle

/-- VNOP: VNOP does nothing (02 R47). -/
def execVnop (i : IsletId) (a : VArgs) (r : Rest) (s : State) : Host.Outcome State Fault Refusal :=
  .next (s.runV .vnop i.val a r)

/-- VADD: VADD adds lanes of va and vb (02 R47). -/
def execVadd (i : IsletId) (a : VArgs) (r : Rest) (s : State) : Host.Outcome State Fault Refusal :=
  .next (s.runV .vadd i.val a r)

/-- VSUB: VSUB subtracts lanes of vb from va (02 R47). -/
def execVsub (i : IsletId) (a : VArgs) (r : Rest) (s : State) : Host.Outcome State Fault Refusal :=
  .next (s.runV .vsub i.val a r)

/-- VMUL: VMUL multiplies lanes (02 R47). -/
def execVmul (i : IsletId) (a : VArgs) (r : Rest) (s : State) : Host.Outcome State Fault Refusal :=
  .next (s.runV .vmul i.val a r)

/-- VMIN: VMIN takes the per-lane minimum (02 R47). -/
def execVmin (i : IsletId) (a : VArgs) (r : Rest) (s : State) : Host.Outcome State Fault Refusal :=
  .next (s.runV .vmin i.val a r)

/-- VMAX: VMAX takes the per-lane maximum (02 R47). -/
def execVmax (i : IsletId) (a : VArgs) (r : Rest) (s : State) : Host.Outcome State Fault Refusal :=
  .next (s.runV .vmax i.val a r)

/-- VAND: VAND is a bitwise AND of registers (02 R47). -/
def execVand (i : IsletId) (a : VArgs) (r : Rest) (s : State) : Host.Outcome State Fault Refusal :=
  .next (s.runV .vand i.val a r)

/-- VOR: VOR is a bitwise OR of registers (02 R47). -/
def execVor (i : IsletId) (a : VArgs) (r : Rest) (s : State) : Host.Outcome State Fault Refusal :=
  .next (s.runV .vor i.val a r)

/-- VXOR: VXOR is a bitwise XOR of registers (02 R47). -/
def execVxor (i : IsletId) (a : VArgs) (r : Rest) (s : State) : Host.Outcome State Fault Refusal :=
  .next (s.runV .vxor i.val a r)

/-- VSHL: VSHL shifts lanes left by lanes of vb (02 R47). -/
def execVshl (i : IsletId) (a : VArgs) (r : Rest) (s : State) : Host.Outcome State Fault Refusal :=
  .next (s.runV .vshl i.val a r)

/-- VSHR: VSHR shifts lanes right logically (02 R47). -/
def execVshr (i : IsletId) (a : VArgs) (r : Rest) (s : State) : Host.Outcome State Fault Refusal :=
  .next (s.runV .vshr i.val a r)

/-- VSRA: VSRA shifts lanes right arithmetically (02 R47). -/
def execVsra (i : IsletId) (a : VArgs) (r : Rest) (s : State) : Host.Outcome State Fault Refusal :=
  .next (s.runV .vsra i.val a r)

/-- VSHLA: VSHLA shifts va left by an immediate and adds vb (02 R47). -/
def execVshla (i : IsletId) (a : VArgs) (r : Rest) (s : State) : Host.Outcome State Fault Refusal :=
  .next (s.runV .vshla i.val a r)

/-- VABS: VABS takes the per-lane absolute value (02 R47). -/
def execVabs (i : IsletId) (a : VArgs) (r : Rest) (s : State) : Host.Outcome State Fault Refusal :=
  .next (s.runV .vabs i.val a r)

/-- VPOPC: VPOPC counts ones per lane (02 R47). -/
def execVpopc (i : IsletId) (a : VArgs) (r : Rest) (s : State) : Host.Outcome State Fault Refusal :=
  .next (s.runV .vpopc i.val a r)

/-- VFMA: VFMA computes va x vb + vc with one rounding (02 R47). -/
def execVfma (i : IsletId) (a : VArgs) (r : Rest) (s : State) : Host.Outcome State Fault Refusal :=
  .next (s.runV .vfma i.val a r)

/-- VADDI: VADDI adds a sign-extended immediate to each lane (02 R47). -/
def execVaddi (i : IsletId) (a : VArgs) (r : Rest) (s : State) : Host.Outcome State Fault Refusal :=
  .next (s.runV .vaddi i.val a r)

/-- VANDI: VANDI ANDs each lane with an immediate (02 R47). -/
def execVandi (i : IsletId) (a : VArgs) (r : Rest) (s : State) : Host.Outcome State Fault Refusal :=
  .next (s.runV .vandi i.val a r)

/-- VSHLI: VSHLI shifts lanes left by an immediate (02 R47). -/
def execVshli (i : IsletId) (a : VArgs) (r : Rest) (s : State) : Host.Outcome State Fault Refusal :=
  .next (s.runV .vshli i.val a r)

/-- VSHRI: VSHRI shifts lanes right by an immediate (02 R47). -/
def execVshri (i : IsletId) (a : VArgs) (r : Rest) (s : State) : Host.Outcome State Fault Refusal :=
  .next (s.runV .vshri i.val a r)

/-- VMOVI: VMOVI sets every lane to an immediate (02 R47). -/
def execVmovi (i : IsletId) (a : VArgs) (r : Rest) (s : State) : Host.Outcome State Fault Refusal :=
  .next (s.runV .vmovi i.val a r)

/-- VLANE: VLANE sets each lane to its own index (02 R47). -/
def execVlane (i : IsletId) (a : VArgs) (r : Rest) (s : State) : Host.Outcome State Fault Refusal :=
  .next (s.runV .vlane i.val a r)

/-- VINS: VINS inserts a g register into one lane (02 R47). -/
def execVins (i : IsletId) (a : VArgs) (r : Rest) (s : State) : Host.Outcome State Fault Refusal :=
  .next (s.runV .vins i.val a r)

/-- VEXT: VEXT extracts one lane into a g register (02 R47). -/
def execVext (i : IsletId) (a : VArgs) (r : Rest) (s : State) : Host.Outcome State Fault Refusal :=
  .next (s.runV .vext i.val a r)

/-- VBCST: VBCST broadcasts a g register to every lane (02 R47). -/
def execVbcst (i : IsletId) (a : VArgs) (r : Rest) (s : State) : Host.Outcome State Fault Refusal :=
  .next (s.runV .vbcst i.val a r)

/-- VCMPEQ: VCMPEQ writes a per-lane equality result into a predicate (03 R79). -/
def execVcmpeq (i : IsletId) (a : VArgs) (r : Rest) (s : State) : Host.Outcome State Fault Refusal :=
  .next (s.runV .vcmpeq i.val a r)

/-- VCMPLT: VCMPLT writes a per-lane less-than result into a predicate (03 R79). -/
def execVcmplt (i : IsletId) (a : VArgs) (r : Rest) (s : State) : Host.Outcome State Fault Refusal :=
  .next (s.runV .vcmplt i.val a r)

/-- VCMPLE: VCMPLE writes a per-lane less-or-equal result into a predicate (03 R79). -/
def execVcmple (i : IsletId) (a : VArgs) (r : Rest) (s : State) : Host.Outcome State Fault Refusal :=
  .next (s.runV .vcmple i.val a r)

/-- VSEL: VSEL selects lanes from va or vb by a predicate (02 R47). -/
def execVsel (i : IsletId) (a : VArgs) (r : Rest) (s : State) : Host.Outcome State Fault Refusal :=
  .next (s.runV .vsel i.val a r)

/-- VCVT: VCVT converts elements between formats by part number (03 R83). -/
def execVcvt (i : IsletId) (a : VArgs) (r : Rest) (s : State) : Host.Outcome State Fault Refusal :=
  .next (s.runV .vcvt i.val a r)

/-- VTQREL: VTQREL forms anchor-relative F32 differences of TQ64 lanes (03 R85). -/
def execVtqrel (i : IsletId) (a : VArgs) (r : Rest) (s : State) : Host.Outcome State Fault Refusal :=
  .next (s.runV .vtqrel i.val a r)

/-- VRMIN: VRMIN reduces lane groups by minimum in pairwise order (03 R88). -/
def execVrmin (i : IsletId) (a : VArgs) (r : Rest) (s : State) : Host.Outcome State Fault Refusal :=
  .next (s.runV .vrmin i.val a r)

/-- VRMAX: VRMAX reduces lane groups by maximum in pairwise order (03 R88). -/
def execVrmax (i : IsletId) (a : VArgs) (r : Rest) (s : State) : Host.Outcome State Fault Refusal :=
  .next (s.runV .vrmax i.val a r)

/-- VRADD: VRADD reduces lane groups by sum in pairwise order (03 R88). -/
def execVradd (i : IsletId) (a : VArgs) (r : Rest) (s : State) : Host.Outcome State Fault Refusal :=
  .next (s.runV .vradd i.val a r)

/-- VPERM: VPERM permutes lanes of va by indices in vb (02 R47). -/
def execVperm (i : IsletId) (a : VArgs) (r : Rest) (s : State) : Host.Outcome State Fault Refusal :=
  .next (s.runV .vperm i.val a r)

/-- VMFT: VMFT moves a quarter of a tensor accumulator into a v register (02 R47). -/
def execVmft (i : IsletId) (a : VArgs) (r : Rest) (s : State) : Host.Outcome State Fault Refusal :=
  .next (s.runV .vmft i.val a r)

/-- VMTT: VMTT moves a v register into a quarter of a tensor accumulator (02 R47). -/
def execVmtt (i : IsletId) (a : VArgs) (r : Rest) (s : State) : Host.Outcome State Fault Refusal :=
  .next (s.runV .vmtt i.val a r)

/-- VRCP: VRCP computes a reciprocal at up to 13 significant bits (03 R80). -/
def execVrcp (i : IsletId) (a : VArgs) (r : Rest) (s : State) : Host.Outcome State Fault Refusal :=
  .next (s.runV .vrcp i.val a r)

/-- VRSQ: VRSQ computes a reciprocal square root at up to 13 significant bits (03 R80). -/
def execVrsq (i : IsletId) (a : VArgs) (r : Rest) (s : State) : Host.Outcome State Fault Refusal :=
  .next (s.runV .vrsq i.val a r)

end Sys2Proof.Machine
end

