-- ==== Sys2Proof/Machine/Dispatch.lean ====
section
/-! DEFINITION. The dispatch: one arm per command, one direct call of its meaning. -/
namespace Sys2Proof.Machine

/-- What a command does to everything but the queue. -/
def exec (i : Instr) (s : State) : Host.Outcome State Fault Refusal :=
  match i with
  | .registerWrite m o v t => Sys2Proof.Machine.execRegisterWrite m o v t s
  | .csrOddAccess isRead => Sys2Proof.Machine.execCsrOddAccess isRead s
  | .epochBoundary x => Sys2Proof.Machine.execEpochBoundary x s
  | .cmdNop m token t => Sys2Proof.Machine.execCmdNop m token t s
  | .wake m token t => Sys2Proof.Machine.execWake m token t s
  | .park m token t => Sys2Proof.Machine.execPark m token t s
  | .sleep m token t => Sys2Proof.Machine.execSleep m token t s
  | .stageShadow m token t => Sys2Proof.Machine.execStageShadow m token t s
  | .shadowVerifyEnd image data norOk plans t => Sys2Proof.Machine.execShadowVerifyEnd image data norOk plans t s
  | .swapConfig m token t => Sys2Proof.Machine.execSwapConfig m token t s
  | .calCommit m token t => Sys2Proof.Machine.execCalCommit m token t s
  | .mapSeal m token t => Sys2Proof.Machine.execMapSeal m token t s
  | .mapExport m token t => Sys2Proof.Machine.execMapExport m token t s
  | .placeQuery m token t => Sys2Proof.Machine.execPlaceQuery m token t s
  | .attestReport m token dest n nonce t => Sys2Proof.Machine.execAttestReport m token dest n nonce t s
  | .attestEnrol m token dest n nonce t => Sys2Proof.Machine.execAttestEnrol m token dest n nonce t s
  | .recover m token t => Sys2Proof.Machine.execRecover m token t s
  | .testEnter m token t => Sys2Proof.Machine.execTestEnter m token t s
  | .testExit m token t => Sys2Proof.Machine.execTestExit m token t s
  | .halt m token t => Sys2Proof.Machine.execHalt m token t s
  | .condSync m token t => Sys2Proof.Machine.execCondSync m token t s
  | .cmdArgReadDone m block t => Sys2Proof.Machine.execCmdArgReadDone m block t s
  | .cmdArgReadTimeout m t => Sys2Proof.Machine.execCmdArgReadTimeout m t s
  | .safeStopAssert => Sys2Proof.Machine.execSafeStopAssert s
  | .safeStopRelease => Sys2Proof.Machine.execSafeStopRelease s
  | .nop il a r => Sys2Proof.Machine.execNop il a r s
  | .add il a r => Sys2Proof.Machine.execAdd il a r s
  | .sub il a r => Sys2Proof.Machine.execSub il a r s
  | .andG il a r => Sys2Proof.Machine.execAnd il a r s
  | .orG il a r => Sys2Proof.Machine.execOr il a r s
  | .xorG il a r => Sys2Proof.Machine.execXor il a r s
  | .shl il a r => Sys2Proof.Machine.execShl il a r s
  | .shr il a r => Sys2Proof.Machine.execShr il a r s
  | .sra il a r => Sys2Proof.Machine.execSra il a r s
  | .mul il a r => Sys2Proof.Machine.execMul il a r s
  | .mulh il a r => Sys2Proof.Machine.execMulh il a r s
  | .slt il a r => Sys2Proof.Machine.execSlt il a r s
  | .sltu il a r => Sys2Proof.Machine.execSltu il a r s
  | .popc il a r => Sys2Proof.Machine.execPopc il a r s
  | .minG il a r => Sys2Proof.Machine.execMin il a r s
  | .maxG il a r => Sys2Proof.Machine.execMax il a r s
  | .addi il a r => Sys2Proof.Machine.execAddi il a r s
  | .andi il a r => Sys2Proof.Machine.execAndi il a r s
  | .ori il a r => Sys2Proof.Machine.execOri il a r s
  | .xori il a r => Sys2Proof.Machine.execXori il a r s
  | .shli il a r => Sys2Proof.Machine.execShli il a r s
  | .shri il a r => Sys2Proof.Machine.execShri il a r s
  | .srai il a r => Sys2Proof.Machine.execSrai il a r s
  | .lui il a r => Sys2Proof.Machine.execLui il a r s
  | .lih il a r => Sys2Proof.Machine.execLih il a r s
  | .peq il a r => Sys2Proof.Machine.execPeq il a r s
  | .plt il a r => Sys2Proof.Machine.execPlt il a r s
  | .pltu il a r => Sys2Proof.Machine.execPltu il a r s
  | .pand il a r => Sys2Proof.Machine.execPand il a r s
  | .por il a r => Sys2Proof.Machine.execPor il a r s
  | .pnot il a r => Sys2Proof.Machine.execPnot il a r s
  | .br il a r => Sys2Proof.Machine.execBr il a r s
  | .jr il a r => Sys2Proof.Machine.execJr il a r s
  | .call il a r => Sys2Proof.Machine.execCall il a r s
  | .callr il a r => Sys2Proof.Machine.execCallr il a r s
  | .loop il a r => Sys2Proof.Machine.execLoop il a r s
  | .mfc il a r => Sys2Proof.Machine.execMfc il a r s
  | .mtc il a r => Sys2Proof.Machine.execMtc il a r s
  | .fence il a r => Sys2Proof.Machine.execFence il a r s
  | .eret il a r => Sys2Proof.Machine.execEret il a r s
  | .trap il a r => Sys2Proof.Machine.execTrap il a r s
  | .endA il a r => Sys2Proof.Machine.execEnd il a r s
  | .lsNop il a r => Sys2Proof.Machine.execLsNop il a r s
  | .ld il a r => Sys2Proof.Machine.execLd il a r s
  | .ldu il a r => Sys2Proof.Machine.execLdu il a r s
  | .st il a r => Sys2Proof.Machine.execSt il a r s
  | .vld il a r => Sys2Proof.Machine.execVld il a r s
  | .vst il a r => Sys2Proof.Machine.execVst il a r s
  | .vlds il a r => Sys2Proof.Machine.execVlds il a r s
  | .towin il a r => Sys2Proof.Machine.execTowin il a r s
  | .towout il a r => Sys2Proof.Machine.execTowout il a r s
  | .twait il a r => Sys2Proof.Machine.execTwait il a r s
  | .tstat il a r => Sys2Proof.Machine.execTstat il a r s
  | .loadReturn il k cyc err data => Sys2Proof.Machine.execLoadReturn il k cyc err data s
  | .storePerformed il k cyc err => Sys2Proof.Machine.execStorePerformed il k cyc err s
  | .towComplete il k cyc err data => Sys2Proof.Machine.execTowComplete il k cyc err data s
  | .vnop il a r => Sys2Proof.Machine.execVnop il a r s
  | .vadd il a r => Sys2Proof.Machine.execVadd il a r s
  | .vsub il a r => Sys2Proof.Machine.execVsub il a r s
  | .vmul il a r => Sys2Proof.Machine.execVmul il a r s
  | .vmin il a r => Sys2Proof.Machine.execVmin il a r s
  | .vmax il a r => Sys2Proof.Machine.execVmax il a r s
  | .vand il a r => Sys2Proof.Machine.execVand il a r s
  | .vor il a r => Sys2Proof.Machine.execVor il a r s
  | .vxor il a r => Sys2Proof.Machine.execVxor il a r s
  | .vshl il a r => Sys2Proof.Machine.execVshl il a r s
  | .vshr il a r => Sys2Proof.Machine.execVshr il a r s
  | .vsra il a r => Sys2Proof.Machine.execVsra il a r s
  | .vshla il a r => Sys2Proof.Machine.execVshla il a r s
  | .vabs il a r => Sys2Proof.Machine.execVabs il a r s
  | .vpopc il a r => Sys2Proof.Machine.execVpopc il a r s
  | .vfma il a r => Sys2Proof.Machine.execVfma il a r s
  | .vaddi il a r => Sys2Proof.Machine.execVaddi il a r s
  | .vandi il a r => Sys2Proof.Machine.execVandi il a r s
  | .vshli il a r => Sys2Proof.Machine.execVshli il a r s
  | .vshri il a r => Sys2Proof.Machine.execVshri il a r s
  | .vmovi il a r => Sys2Proof.Machine.execVmovi il a r s
  | .vlane il a r => Sys2Proof.Machine.execVlane il a r s
  | .vins il a r => Sys2Proof.Machine.execVins il a r s
  | .vext il a r => Sys2Proof.Machine.execVext il a r s
  | .vbcst il a r => Sys2Proof.Machine.execVbcst il a r s
  | .vcmpeq il a r => Sys2Proof.Machine.execVcmpeq il a r s
  | .vcmplt il a r => Sys2Proof.Machine.execVcmplt il a r s
  | .vcmple il a r => Sys2Proof.Machine.execVcmple il a r s
  | .vsel il a r => Sys2Proof.Machine.execVsel il a r s
  | .vcvt il a r => Sys2Proof.Machine.execVcvt il a r s
  | .vtqrel il a r => Sys2Proof.Machine.execVtqrel il a r s
  | .vrmin il a r => Sys2Proof.Machine.execVrmin il a r s
  | .vrmax il a r => Sys2Proof.Machine.execVrmax il a r s
  | .vradd il a r => Sys2Proof.Machine.execVradd il a r s
  | .vperm il a r => Sys2Proof.Machine.execVperm il a r s
  | .vmft il a r => Sys2Proof.Machine.execVmft il a r s
  | .vmtt il a r => Sys2Proof.Machine.execVmtt il a r s
  | .vrcp il a r => Sys2Proof.Machine.execVrcp il a r s
  | .vrsq il a r => Sys2Proof.Machine.execVrsq il a r s
  | .tnop il a r => Sys2Proof.Machine.execTnop il a r s
  | .tmma il a r => Sys2Proof.Machine.execTmma il a r s
  | .tfill il a r => Sys2Proof.Machine.execTfill il a r s
  | .bsig il a r => Sys2Proof.Machine.execBsig il a r s
  | .bset il a r => Sys2Proof.Machine.execBset il a r s
  | .bwait il a r => Sys2Proof.Machine.execBwait il a r s
  | .barr il a r => Sys2Proof.Machine.execBarr il a r s
  | .barv il a r => Sys2Proof.Machine.execBarv il a r s
  | .bpoll il a r => Sys2Proof.Machine.execBpoll il a r s
  | .buoyWaitTimeout il => Sys2Proof.Machine.execBuoyWaitTimeout il s
  | .buoyValueWrite m n v => Sys2Proof.Machine.execBuoyValueWrite m n v s
  | .buoyParticipantsWrite m n v => Sys2Proof.Machine.execBuoyParticipantsWrite m n v s
  | .buoyCtlWrite m n v => Sys2Proof.Machine.execBuoyCtlWrite m n v s
  | .dbgHalt il => Sys2Proof.Machine.execDbgHalt il s
  | .dbgResume il => Sys2Proof.Machine.execDbgResume il s
  | .dbgStep il => Sys2Proof.Machine.execDbgStep il s
  | .invocationRelease n t => Sys2Proof.Machine.execInvocationRelease n t s
  | .partialInputTimeout n t => Sys2Proof.Machine.execPartialInputTimeout n t s
  | .weightPrefetch n k => Sys2Proof.Machine.execWeightPrefetch n k s
  | .weightRaise n t => Sys2Proof.Machine.execWeightRaise n t s
  | .invocationDone n t => Sys2Proof.Machine.execInvocationDone n t s
  | .invocationFail n t => Sys2Proof.Machine.execInvocationFail n t s
  | .ferryMoveComplete id t => Sys2Proof.Machine.execFerryMoveComplete id t s
  | .objectLoadComplete id readable t => Sys2Proof.Machine.execObjectLoadComplete id readable t s
  | .tierRequestTimeout r t => Sys2Proof.Machine.execTierRequestTimeout r t s
  | .tierRequestError r code t => Sys2Proof.Machine.execTierRequestError r code t s
  | .pageRetire tier il page id unit t => Sys2Proof.Machine.execPageRetire tier il page id unit t s
  | .bar2Read o n bad t => Sys2Proof.Machine.execBar2Read o n bad t s
  | .bar2Write o data bad t => Sys2Proof.Machine.execBar2Write o data bad t s
  | .frameStart n vc fill t => Sys2Proof.Machine.execFrameStart n vc fill t s
  | .longPacket n vc dtype headerOk crcOk payload t => Sys2Proof.Machine.execLongPacket n vc dtype headerOk crcOk payload t s
  | .frameEnd n vc t => Sys2Proof.Machine.execFrameEnd n vc t s
  | .frameRecordWrite n t => Sys2Proof.Machine.execFrameRecordWrite n t s
  | .writeQueueFull il fills t => Sys2Proof.Machine.execWriteQueueFull il fills t s
  | .portLostTimeout n t => Sys2Proof.Machine.execPortLostTimeout n t s
  | .fsyncPulse k t => Sys2Proof.Machine.execFsyncPulse k t s
  | .stereoRecordWrite p t => Sys2Proof.Machine.execStereoRecordWrite p t s
  | .stereoPartnerTimeout p t => Sys2Proof.Machine.execStereoPartnerTimeout p t s
  | .lidarDatagram p src dport fragmented payload t => Sys2Proof.Machine.execLidarDatagram p src dport fragmented payload t s
  | .projectionStart n t => Sys2Proof.Machine.execProjectionStart n t s
  | .depthHeaderWrite n t => Sys2Proof.Machine.execDepthHeaderWrite n t s
  | .gptpSync p d seqId twoStep origin corr t => Sys2Proof.Machine.execGptpSync p d seqId twoStep origin corr t s
  | .gptpFollowUp p d seqId origin corr t => Sys2Proof.Machine.execGptpFollowUp p d seqId origin corr t s
  | .gptpAnnounce p d a t => Sys2Proof.Machine.execGptpAnnounce p d a t s
  | .pdelayReq p seqId rx tx => Sys2Proof.Machine.execPdelayReq p seqId rx tx s
  | .pdelayResp p seqId t2 t3 rx => Sys2Proof.Machine.execPdelayResp p seqId t2 t3 rx s
  | .pdelayTimer p t => Sys2Proof.Machine.execPdelayTimer p t s
  | .syncTimeout b t => Sys2Proof.Machine.execSyncTimeout b t s
  | .holdoverExpired b t => Sys2Proof.Machine.execHoldoverExpired b t s
  | .ppsEdge falling t => Sys2Proof.Machine.execPpsEdge falling t s
  | .nmeaSentence n t => Sys2Proof.Machine.execNmeaSentence n t s
  | .ppsLabelTimeout t => Sys2Proof.Machine.execPpsLabelTimeout t s
  | .ppsTimeout t => Sys2Proof.Machine.execPpsTimeout t s
  | .uartRateTimeout t => Sys2Proof.Machine.execUartRateTimeout t s
  | .timeSnap v t => Sys2Proof.Machine.execTimeSnap v t s
  | .tbNsLoRead b t => Sys2Proof.Machine.execTbNsLoRead b t s
  | .glbEpochLoRead m => Sys2Proof.Machine.execGlbEpochLoRead m s
  | .tbAdjWrite b v t => Sys2Proof.Machine.execTbAdjWrite b v t s
  | .tbRateLoWrite b v t => Sys2Proof.Machine.execTbRateLoWrite b v t s
  | .tbRateHiWrite b v t => Sys2Proof.Machine.execTbRateHiWrite b v t s
  | .imuDrdy il t => Sys2Proof.Machine.execImuDrdy il t s
  | .imuBurstDone il reply t => Sys2Proof.Machine.execImuBurstDone il reply t s
  | .imuLostTimeout il t => Sys2Proof.Machine.execImuLostTimeout il t s
  | .wheelEdge k level t => Sys2Proof.Machine.execWheelEdge k level t s
  | .wheelSample t => Sys2Proof.Machine.execWheelSample t s
  | .canFrame j id ext body t => Sys2Proof.Machine.execCanFrame j id ext body t s
  | .syncInEdge rising t => Sys2Proof.Machine.execSyncInEdge rising t s
  | .associationWrite n t => Sys2Proof.Machine.execAssociationWrite n t s
  | .smootherPassStart t => Sys2Proof.Machine.execSmootherPassStart t s
  | .smootherPassEnd t => Sys2Proof.Machine.execSmootherPassEnd t s
  | .sourceDropout b t => Sys2Proof.Machine.execSourceDropout b t s
  | .poseSeal t => Sys2Proof.Machine.execPoseSeal t s
  | .bundleAdjustEnd failed lost t => Sys2Proof.Machine.execBundleAdjustEnd failed lost t s
  | .optimisationEnd failed t => Sys2Proof.Machine.execOptimisationEnd failed t s
  | .optimisationStart t => Sys2Proof.Machine.execOptimisationStart t s
  | .recordSubmit r t => Sys2Proof.Machine.execRecordSubmit r t s
  | .commitIntervalExpiry t => Sys2Proof.Machine.execCommitIntervalExpiry t s
  | .commitDurable t c0 c1 => Sys2Proof.Machine.execCommitDurable t c0 c1 s
  | .nandProgramDone p pass => Sys2Proof.Machine.execNandProgramDone p pass s
  | .nandEraseDone b pass => Sys2Proof.Machine.execNandEraseDone b pass s
  | .nandReadDone p r fixed worst => Sys2Proof.Machine.execNandReadDone p r fixed worst s
  | .nandReadTimeout p t => Sys2Proof.Machine.execNandReadTimeout p t s
  | .reclaimStart victim => Sys2Proof.Machine.execReclaimStart victim s
  | .patrolRead p t => Sys2Proof.Machine.execPatrolRead p t s
  | .eraseCreditAccrue t => Sys2Proof.Machine.execEraseCreditAccrue t s
  | .mount plans bad t => Sys2Proof.Machine.execMount plans bad t s
  | .pfailAssert us t => Sys2Proof.Machine.execPfailAssert us t s
  | .pfailHoldEnd w t => Sys2Proof.Machine.execPfailHoldEnd w t s
  | .pfailRelease t => Sys2Proof.Machine.execPfailRelease t s
  | .reefInsert => Sys2Proof.Machine.execReefInsert s
  | .reefDelete n => Sys2Proof.Machine.execReefDelete n s
  | .compactPage read => Sys2Proof.Machine.execCompactPage read s
  | .updaterResume => Sys2Proof.Machine.execUpdaterResume s
  | .codewordReadDone e w v ok t => Sys2Proof.Machine.execCodewordReadDone e w v ok t s
  | .reefQueryTimeout k t => Sys2Proof.Machine.execReefQueryTimeout k t s
  | .porAssert => Sys2Proof.Machine.execPorAssert s
  | .coldStart pwrOk head ext b t => Sys2Proof.Machine.execColdStart pwrOk head ext b t s
  | .pwrOkLoss t => Sys2Proof.Machine.execPwrOkLoss t s
  | .pwrOkRise w t => Sys2Proof.Machine.execPwrOkRise w t s
  | .wakeNPin k w t => Sys2Proof.Machine.execWakeNPin k w t s
  | .canWake j w t => Sys2Proof.Machine.execCanWake j w t s
  | .tb3Alarm w t => Sys2Proof.Machine.execTb3Alarm w t s
  | .thermalTrip t => Sys2Proof.Machine.execThermalTrip t s
  | .atollRelockDone a t => Sys2Proof.Machine.execAtollRelockDone a t s
  | .enumReady p t => Sys2Proof.Machine.execEnumReady p t s
  | .readyRepeat t => Sys2Proof.Machine.execReadyRepeat t s
  | .enumMsg p v t => Sys2Proof.Machine.execEnum p v t s
  | .enumEnd p v t => Sys2Proof.Machine.execEnumEnd p v t s
  | .enumCommit p v t => Sys2Proof.Machine.execEnumCommit p v t s
  | .enumTimeout t => Sys2Proof.Machine.execEnumTimeout t s
  | .enumEndTimeout t => Sys2Proof.Machine.execEnumEndTimeout t s
  | .linkFrameRx p b t => Sys2Proof.Machine.execLinkFrameRx p b t s
  | .linkNak p ack => Sys2Proof.Machine.execLinkNak p ack s
  | .linkCredit p c0 c1 c2 => Sys2Proof.Machine.execLinkCredit p c0 c1 c2 s
  | .linkRetrain p t => Sys2Proof.Machine.execLinkRetrain p t s
  | .linkRetrainDone p lanes t => Sys2Proof.Machine.execLinkRetrainDone p lanes t s
  | .linkRetryTimer p t => Sys2Proof.Machine.execLinkRetryTimer p t s
  | .rdReq p dest src address n seq epoch tag t => Sys2Proof.Machine.execRdReq p dest src address n seq epoch tag t s
  | .wrReq p dest src address seq epoch tag data t => Sys2Proof.Machine.execWrReq p dest src address seq epoch tag data t s
  | .rdResp p dest src status seq epoch tag data t => Sys2Proof.Machine.execRdResp p dest src status seq epoch tag data t s
  | .wrAck p dest src status seq epoch tag t => Sys2Proof.Machine.execWrAck p dest src status seq epoch tag t s
  | .eventMessage p dest src seq epoch tag source count flags tb0 t => Sys2Proof.Machine.execEventMessage p dest src seq epoch tag source count flags tb0 t s
  | .peerRequestTimeout k t => Sys2Proof.Machine.execPeerRequestTimeout k t s
  | .hostRelayRead t => Sys2Proof.Machine.execHostRelayRead t s
  | .hostRelayWrite t => Sys2Proof.Machine.execHostRelayWrite t s
  | .nearLoopback p => Sys2Proof.Machine.execNearLoopback p s
  | .farLoopback p => Sys2Proof.Machine.execFarLoopback p s
  | .prbs31 p e0 e1 e2 e3 => Sys2Proof.Machine.execPrbs31 p e0 e1 e2 e3 s
  | .chainTestOff p => Sys2Proof.Machine.execChainTestOff p s
  | .perst high refclk => Sys2Proof.Machine.execPerst high refclk s
  | .pcieLinkDown => Sys2Proof.Machine.execPcieLinkDown s
  | .pcieLinkUp speed width => Sys2Proof.Machine.execPcieLinkUp speed width s
  | .functionLevelReset => Sys2Proof.Machine.execFunctionLevelReset s
  | .integratorKeyHash ok => Sys2Proof.Machine.execIntegratorKeyHash ok s
  | .vendorDisable => Sys2Proof.Machine.execVendorDisable s
  | .intcPendWrite k v meets => Sys2Proof.Machine.execIntcPendWrite k v meets s
  | .intcMaskWrite k v meets => Sys2Proof.Machine.execIntcMaskWrite k v meets s
  | .intcCountWrite n v meets => Sys2Proof.Machine.execIntcCountWrite n v meets s
  | .intcSoft v => Sys2Proof.Machine.execIntcSoft v s
  | .levelDeassert n => Sys2Proof.Machine.execLevelDeassert n s
  | .bypass tdi => Sys2Proof.Machine.execBypass tdi s
  | .idcode => Sys2Proof.Machine.execIdcode s
  | .samplePreload pins tdi => Sys2Proof.Machine.execSamplePreload pins tdi s
  | .extest pins tdi => Sys2Proof.Machine.execExtest pins tdi s
  | .trst low => Sys2Proof.Machine.execTrst low s
  | .configurationRequest msix mask header => Sys2Proof.Machine.execConfigurationRequest msix mask header s
  | .norProgramDone ok t => Sys2Proof.Machine.execNorProgramDone ok t s
  | .deskewSequence n passes t => Sys2Proof.Machine.execDeskewSequence n passes t s
  | .creditReturnTimer p t => Sys2Proof.Machine.execCreditReturnTimer p t s

end Sys2Proof.Machine
end

