-- ==== Sys2Proof/Safety.lean ====
section
/-! DEFINITION. What a claim about every command speaks of: the canonical form of the tables that hold registers and memory, the OTP, and
what a command may never do to what it does not own. -/
namespace Sys2Proof

open Machine

/-- The memory and both register tables are in their canonical form: keys rising, no entry equal to what an unlisted key reads as. -/
def canonical (s : State) : Bool :=
  memWf s.mem && SMap.wf csrReset s.csr && SMap.wf csrReset s.act

/-- What every command keeps of the state it starts from: the queue, the canonical form, everything that has already left the device, the
free values already taken. -/
def Kept (s t : State) : Prop :=
  t.pending = s.pending ∧ (canonical s = true → canonical t = true) ∧ s.out <+: t.out ∧ s.freeCount ≤ t.freeCount

/-- One-time-programmable memory is never taken back (14 R395, R398, R401): the unique id, the vendor key hash, a programmed integrator key
hash, the disabling of the vendor key, the end of enrolment. -/
def OtpKept (s t : State) : Prop :=
  t.sec.uid = s.sec.uid ∧ t.sec.vendorHash = s.sec.vendorHash ∧ (∀ h, s.sec.integratorHash = some h → t.sec.integratorHash = some h) ∧
  (s.sec.vendorDisable = true → t.sec.vendorDisable = true) ∧ (s.sec.enrolDone = true → t.sec.enrolDone = true)

/-- Both: what every command keeps but the power-up that finds other parts fitted. -/
def Keeps (s t : State) : Prop := Kept s t ∧ OtpKept s t

/-- A run is safe as far as it goes on: a step answers a next state. -/
def Goes (s : State) : Prop := ∃ t, step s = .next t

/-! The vocabulary of the statements about bundles. -/

/-- Device memory, the Islets with all their registers, and the buoys are as they were. -/
def Apart (s t : State) : Prop := t.mem = s.mem ∧ t.islets = s.islets ∧ t.buoys = s.buoys
/-- The bundle of a scalar row: the slot words with the row's operation in the slot its operands name (02 R31, R36). -/
def bundleS (op : SOp) (a : SArgs) (r : Rest) : Bundle :=
  match a.slot with
  | .s0 => { decodeRest r with s0 := ⟨op, a⟩ }
  | .s1 => { decodeRest r with s1 := ⟨op, a⟩ }

/-- The bundle of a load/store row (02 R39). -/
def bundleM (op : MOp) (a : MArgs) (r : Rest) : Bundle := { decodeRest r with m := ⟨op, a⟩ }

/-- The bundle of a vector row (02 R46). -/
def bundleV (op : VOp) (a : VArgs) (r : Rest) : Bundle := { decodeRest r with v := ⟨some op, a⟩ }

/-- The bundle of a tensor row (02 R48). -/
def bundleT (op : TOp) (a : TArgs) (r : Rest) : Bundle :=
  let b := decodeRest r
  { b with t := { op := op, t := a, b := { b.t.b with pred := a.pred } } }

/-- The bundle of a buoy row (02 R48, R56). -/
def bundleB (op : TOp) (a : BArgs) (r : Rest) : Bundle :=
  let b := decodeRest r
  { b with t := { op := op, b := a, t := { b.t.t with pred := a.pred } } }

/-- The scalar rows of the opcode table, with their operation (02 R37). -/
inductive ScalarRow : Instr → SOp → IsletId → SArgs → Rest → Prop
  | nop (il : IsletId) (a : SArgs) (r : Rest) : ScalarRow (.nop il a r) .nop il a r
  | add (il : IsletId) (a : SArgs) (r : Rest) : ScalarRow (.add il a r) .add il a r
  | sub (il : IsletId) (a : SArgs) (r : Rest) : ScalarRow (.sub il a r) .sub il a r
  | andG (il : IsletId) (a : SArgs) (r : Rest) : ScalarRow (.andG il a r) .and il a r
  | orG (il : IsletId) (a : SArgs) (r : Rest) : ScalarRow (.orG il a r) .or il a r
  | xorG (il : IsletId) (a : SArgs) (r : Rest) : ScalarRow (.xorG il a r) .xor il a r
  | shl (il : IsletId) (a : SArgs) (r : Rest) : ScalarRow (.shl il a r) .shl il a r
  | shr (il : IsletId) (a : SArgs) (r : Rest) : ScalarRow (.shr il a r) .shr il a r
  | sra (il : IsletId) (a : SArgs) (r : Rest) : ScalarRow (.sra il a r) .sra il a r
  | mul (il : IsletId) (a : SArgs) (r : Rest) : ScalarRow (.mul il a r) .mul il a r
  | mulh (il : IsletId) (a : SArgs) (r : Rest) : ScalarRow (.mulh il a r) .mulh il a r
  | slt (il : IsletId) (a : SArgs) (r : Rest) : ScalarRow (.slt il a r) .slt il a r
  | sltu (il : IsletId) (a : SArgs) (r : Rest) : ScalarRow (.sltu il a r) .sltu il a r
  | popc (il : IsletId) (a : SArgs) (r : Rest) : ScalarRow (.popc il a r) .popc il a r
  | minG (il : IsletId) (a : SArgs) (r : Rest) : ScalarRow (.minG il a r) .min il a r
  | maxG (il : IsletId) (a : SArgs) (r : Rest) : ScalarRow (.maxG il a r) .max il a r
  | addi (il : IsletId) (a : SArgs) (r : Rest) : ScalarRow (.addi il a r) .addi il a r
  | andi (il : IsletId) (a : SArgs) (r : Rest) : ScalarRow (.andi il a r) .andi il a r
  | ori (il : IsletId) (a : SArgs) (r : Rest) : ScalarRow (.ori il a r) .ori il a r
  | xori (il : IsletId) (a : SArgs) (r : Rest) : ScalarRow (.xori il a r) .xori il a r
  | shli (il : IsletId) (a : SArgs) (r : Rest) : ScalarRow (.shli il a r) .shli il a r
  | shri (il : IsletId) (a : SArgs) (r : Rest) : ScalarRow (.shri il a r) .shri il a r
  | srai (il : IsletId) (a : SArgs) (r : Rest) : ScalarRow (.srai il a r) .srai il a r
  | lui (il : IsletId) (a : SArgs) (r : Rest) : ScalarRow (.lui il a r) .lui il a r
  | lih (il : IsletId) (a : SArgs) (r : Rest) : ScalarRow (.lih il a r) .lih il a r
  | peq (il : IsletId) (a : SArgs) (r : Rest) : ScalarRow (.peq il a r) .peq il a r
  | plt (il : IsletId) (a : SArgs) (r : Rest) : ScalarRow (.plt il a r) .plt il a r
  | pltu (il : IsletId) (a : SArgs) (r : Rest) : ScalarRow (.pltu il a r) .pltu il a r
  | pand (il : IsletId) (a : SArgs) (r : Rest) : ScalarRow (.pand il a r) .pand il a r
  | por (il : IsletId) (a : SArgs) (r : Rest) : ScalarRow (.por il a r) .por il a r
  | pnot (il : IsletId) (a : SArgs) (r : Rest) : ScalarRow (.pnot il a r) .pnot il a r
  | br (il : IsletId) (a : SArgs) (r : Rest) : ScalarRow (.br il a r) .br il a r
  | jr (il : IsletId) (a : SArgs) (r : Rest) : ScalarRow (.jr il a r) .jr il a r
  | call (il : IsletId) (a : SArgs) (r : Rest) : ScalarRow (.call il a r) .call il a r
  | callr (il : IsletId) (a : SArgs) (r : Rest) : ScalarRow (.callr il a r) .callr il a r
  | loop (il : IsletId) (a : SArgs) (r : Rest) : ScalarRow (.loop il a r) .loop il a r
  | mfc (il : IsletId) (a : SArgs) (r : Rest) : ScalarRow (.mfc il a r) .mfc il a r
  | mtc (il : IsletId) (a : SArgs) (r : Rest) : ScalarRow (.mtc il a r) .mtc il a r
  | fence (il : IsletId) (a : SArgs) (r : Rest) : ScalarRow (.fence il a r) .fence il a r
  | eret (il : IsletId) (a : SArgs) (r : Rest) : ScalarRow (.eret il a r) .eret il a r
  | trap (il : IsletId) (a : SArgs) (r : Rest) : ScalarRow (.trap il a r) .trap il a r
  | endA (il : IsletId) (a : SArgs) (r : Rest) : ScalarRow (.endA il a r) .endA il a r

/-- The load/store rows (02 R40). -/
inductive LoadStoreRow : Instr → MOp → IsletId → MArgs → Rest → Prop
  | lsNop (il : IsletId) (a : MArgs) (r : Rest) : LoadStoreRow (.lsNop il a r) .nop il a r
  | ld (il : IsletId) (a : MArgs) (r : Rest) : LoadStoreRow (.ld il a r) .ld il a r
  | ldu (il : IsletId) (a : MArgs) (r : Rest) : LoadStoreRow (.ldu il a r) .ldu il a r
  | st (il : IsletId) (a : MArgs) (r : Rest) : LoadStoreRow (.st il a r) .st il a r
  | vld (il : IsletId) (a : MArgs) (r : Rest) : LoadStoreRow (.vld il a r) .vld il a r
  | vst (il : IsletId) (a : MArgs) (r : Rest) : LoadStoreRow (.vst il a r) .vst il a r
  | vlds (il : IsletId) (a : MArgs) (r : Rest) : LoadStoreRow (.vlds il a r) .vlds il a r
  | towin (il : IsletId) (a : MArgs) (r : Rest) : LoadStoreRow (.towin il a r) .towin il a r
  | towout (il : IsletId) (a : MArgs) (r : Rest) : LoadStoreRow (.towout il a r) .towout il a r
  | twait (il : IsletId) (a : MArgs) (r : Rest) : LoadStoreRow (.twait il a r) .twait il a r
  | tstat (il : IsletId) (a : MArgs) (r : Rest) : LoadStoreRow (.tstat il a r) .tstat il a r

/-- The vector rows (02 R47). -/
inductive VectorRow : Instr → VOp → IsletId → VArgs → Rest → Prop
  | vnop (il : IsletId) (a : VArgs) (r : Rest) : VectorRow (.vnop il a r) .vnop il a r
  | vadd (il : IsletId) (a : VArgs) (r : Rest) : VectorRow (.vadd il a r) .vadd il a r
  | vsub (il : IsletId) (a : VArgs) (r : Rest) : VectorRow (.vsub il a r) .vsub il a r
  | vmul (il : IsletId) (a : VArgs) (r : Rest) : VectorRow (.vmul il a r) .vmul il a r
  | vmin (il : IsletId) (a : VArgs) (r : Rest) : VectorRow (.vmin il a r) .vmin il a r
  | vmax (il : IsletId) (a : VArgs) (r : Rest) : VectorRow (.vmax il a r) .vmax il a r
  | vand (il : IsletId) (a : VArgs) (r : Rest) : VectorRow (.vand il a r) .vand il a r
  | vor (il : IsletId) (a : VArgs) (r : Rest) : VectorRow (.vor il a r) .vor il a r
  | vxor (il : IsletId) (a : VArgs) (r : Rest) : VectorRow (.vxor il a r) .vxor il a r
  | vshl (il : IsletId) (a : VArgs) (r : Rest) : VectorRow (.vshl il a r) .vshl il a r
  | vshr (il : IsletId) (a : VArgs) (r : Rest) : VectorRow (.vshr il a r) .vshr il a r
  | vsra (il : IsletId) (a : VArgs) (r : Rest) : VectorRow (.vsra il a r) .vsra il a r
  | vshla (il : IsletId) (a : VArgs) (r : Rest) : VectorRow (.vshla il a r) .vshla il a r
  | vabs (il : IsletId) (a : VArgs) (r : Rest) : VectorRow (.vabs il a r) .vabs il a r
  | vpopc (il : IsletId) (a : VArgs) (r : Rest) : VectorRow (.vpopc il a r) .vpopc il a r
  | vfma (il : IsletId) (a : VArgs) (r : Rest) : VectorRow (.vfma il a r) .vfma il a r
  | vaddi (il : IsletId) (a : VArgs) (r : Rest) : VectorRow (.vaddi il a r) .vaddi il a r
  | vandi (il : IsletId) (a : VArgs) (r : Rest) : VectorRow (.vandi il a r) .vandi il a r
  | vshli (il : IsletId) (a : VArgs) (r : Rest) : VectorRow (.vshli il a r) .vshli il a r
  | vshri (il : IsletId) (a : VArgs) (r : Rest) : VectorRow (.vshri il a r) .vshri il a r
  | vmovi (il : IsletId) (a : VArgs) (r : Rest) : VectorRow (.vmovi il a r) .vmovi il a r
  | vlane (il : IsletId) (a : VArgs) (r : Rest) : VectorRow (.vlane il a r) .vlane il a r
  | vins (il : IsletId) (a : VArgs) (r : Rest) : VectorRow (.vins il a r) .vins il a r
  | vext (il : IsletId) (a : VArgs) (r : Rest) : VectorRow (.vext il a r) .vext il a r
  | vbcst (il : IsletId) (a : VArgs) (r : Rest) : VectorRow (.vbcst il a r) .vbcst il a r
  | vcmpeq (il : IsletId) (a : VArgs) (r : Rest) : VectorRow (.vcmpeq il a r) .vcmpeq il a r
  | vcmplt (il : IsletId) (a : VArgs) (r : Rest) : VectorRow (.vcmplt il a r) .vcmplt il a r
  | vcmple (il : IsletId) (a : VArgs) (r : Rest) : VectorRow (.vcmple il a r) .vcmple il a r
  | vsel (il : IsletId) (a : VArgs) (r : Rest) : VectorRow (.vsel il a r) .vsel il a r
  | vcvt (il : IsletId) (a : VArgs) (r : Rest) : VectorRow (.vcvt il a r) .vcvt il a r
  | vtqrel (il : IsletId) (a : VArgs) (r : Rest) : VectorRow (.vtqrel il a r) .vtqrel il a r
  | vrmin (il : IsletId) (a : VArgs) (r : Rest) : VectorRow (.vrmin il a r) .vrmin il a r
  | vrmax (il : IsletId) (a : VArgs) (r : Rest) : VectorRow (.vrmax il a r) .vrmax il a r
  | vradd (il : IsletId) (a : VArgs) (r : Rest) : VectorRow (.vradd il a r) .vradd il a r
  | vperm (il : IsletId) (a : VArgs) (r : Rest) : VectorRow (.vperm il a r) .vperm il a r
  | vmft (il : IsletId) (a : VArgs) (r : Rest) : VectorRow (.vmft il a r) .vmft il a r
  | vmtt (il : IsletId) (a : VArgs) (r : Rest) : VectorRow (.vmtt il a r) .vmtt il a r
  | vrcp (il : IsletId) (a : VArgs) (r : Rest) : VectorRow (.vrcp il a r) .vrcp il a r
  | vrsq (il : IsletId) (a : VArgs) (r : Rest) : VectorRow (.vrsq il a r) .vrsq il a r

/-- The tensor rows (02 R48). -/
inductive TensorRow : Instr → TOp → IsletId → TArgs → Rest → Prop
  | tnop (il : IsletId) (a : TArgs) (r : Rest) : TensorRow (.tnop il a r) .nop il a r
  | tmma (il : IsletId) (a : TArgs) (r : Rest) : TensorRow (.tmma il a r) .tmma il a r
  | tfill (il : IsletId) (a : TArgs) (r : Rest) : TensorRow (.tfill il a r) .tfill il a r

/-- The buoy rows (02 R56). -/
inductive BuoyRow : Instr → TOp → IsletId → BArgs → Rest → Prop
  | bsig (il : IsletId) (a : BArgs) (r : Rest) : BuoyRow (.bsig il a r) .bsig il a r
  | bset (il : IsletId) (a : BArgs) (r : Rest) : BuoyRow (.bset il a r) .bset il a r
  | bwait (il : IsletId) (a : BArgs) (r : Rest) : BuoyRow (.bwait il a r) .bwait il a r
  | barr (il : IsletId) (a : BArgs) (r : Rest) : BuoyRow (.barr il a r) .barr il a r
  | barv (il : IsletId) (a : BArgs) (r : Rest) : BuoyRow (.barv il a r) .barv il a r
  | bpoll (il : IsletId) (a : BArgs) (r : Rest) : BuoyRow (.bpoll il a r) .bpoll il a r

/-- The commands that issue a bundle, with their Islet and the bundle (02 R31). -/
inductive IssuesBundle : Instr → IsletId → Bundle → Prop
  | scalar {c : Instr} {op : SOp} {il : IsletId} {a : SArgs} {r : Rest} (h : ScalarRow c op il a r) : IssuesBundle c il (bundleS op a r)
  | loadStore {c : Instr} {op : MOp} {il : IsletId} {a : MArgs} {r : Rest} (h : LoadStoreRow c op il a r) : IssuesBundle c il (bundleM op a r)
  | vector {c : Instr} {op : VOp} {il : IsletId} {a : VArgs} {r : Rest} (h : VectorRow c op il a r) : IssuesBundle c il (bundleV op a r)
  | tensor {c : Instr} {op : TOp} {il : IsletId} {a : TArgs} {r : Rest} (h : TensorRow c op il a r) : IssuesBundle c il (bundleT op a r)
  | buoy {c : Instr} {op : TOp} {il : IsletId} {a : BArgs} {r : Rest} (h : BuoyRow c op il a r) : IssuesBundle c il (bundleB op a r)

/-- A bundle that Islet `i` takes up now: as it stands before anything keeps it. -/
def newHeld (s : State) (i : Nat) (b : Bundle) : Held := { bundle := b, since := (s.islet i).cycle }

/-- Islet `i` gets the bundle at its pc (02 R64): its line is at hand or its object is loaded (05 R135), and no error meets the fetch (02 R60). -/
def Fetches (s : State) (i : Nat) : Prop := s.fetchWaits i = false ∧ s.fetchExn i = none

/-- The state in which Islet `i` has the bundle at its pc: the cache holds the line, whose object the read has touched (02 R64). -/
def fetched (s : State) (i : Nat) : State := (s.fetch i).2

/-- Nothing keeps Islet `i` from issuing the bundle `b` now (02 R32): it may issue and holds no other bundle, no breakpoint or watchpoint stops
it that has not stopped it already (log entry 15), the bundle is legal and names no destination twice, no load is on its way to its registers, no slot raises, its queues and tow slot
have room and its request a credit, what it orders has drained, no deferred error is due, its buoy wait is met. -/
structure Ready (s : State) (i : Nat) (b : Bundle) : Prop where
  may : s.canIssue i = true
  single : (s.islet i).held = none
  noBreak : (s.islet i).atBreak = true → (s.islet i).passBp = true
  legal : b.illegal = none
  alone : b.conflict = none
  preds : (s.islet i).loadPending b.predKeys = false
  regs : (s.islet i).loadPending (b.srcs ((s.islet i).active b) ++ b.dests ((s.islet i).active b)) = false
  quiet : s.slotExn i b ((s.islet i).active b) = none
  room : (((s.islet i).active b).m && s.mFull i b.m) = false
  drained : (s.islet i).mustDrain b ((s.islet i).active b) = false
  credit : (((s.islet i).active b).m && s.mNoCredit i b.m) = false
  clean : (s.islet i).dueErrs b ((s.islet i).active b) = []
  unwatched : s.watched i b ((s.islet i).active b) = true → (s.islet i).passBp = true
  met : (s.buoyWait i b ((s.islet i).active b) (newHeld s i b)).1 = none

/-- The cycle in which Islet `i` issues the bundle `b` (02 R32). -/
def cycleOf (s : State) (i : Nat) (b : Bundle) : Nat := (s.islet i).issueCycle b ((s.islet i).active b)

/-- The state in which the bundle completes: a BARR has arrived at its buoy (02 R56). -/
def ahead (s : State) (i : Nat) (b : Bundle) : State := (s.buoyWait i b ((s.islet i).active b) (newHeld s i b)).2.2.1

/-- What a BWAIT or BARR of the bundle has observed (02 R56). -/
def observed (s : State) (i : Nat) (b : Bundle) : Word64 := (s.buoyWait i b ((s.islet i).active b) (newHeld s i b)).2.1

/-- The state after the bundle `b` of Islet `i` has completed (02 R32, R34), before what it releases goes on. -/
def issued (s : State) (i : Nat) (b : Bundle) : State :=
  ((ahead s i b).complete i b ((s.islet i).active b) (cycleOf s i b) (observed s i b)).1

/-- The buoy that the bundle `b` of Islet `i` has changed (02 R56). -/
def buoyHit (s : State) (i : Nat) (b : Bundle) : Option Nat :=
  match (s.buoyWait i b ((s.islet i).active b) (newHeld s i b)).2.2.2 with
  | some n => some n
  | none => ((ahead s i b).complete i b ((s.islet i).active b) (cycleOf s i b) (observed s i b)).2

/-- The vector operations whose result is `vexec`'s, in v[vd] (02 R47): all but VNOP, VEXT, the comparisons, VMFT and VMTT. -/
def laneOp : VOp → Bool
  | .vnop | .vext | .vcmpeq | .vcmplt | .vcmple | .vmft | .vmtt => false
  | _ => true

/-- Is the bundle at the last bundle of an active loop (02 R38). -/
def atLoopEnd (x : Islet) : Prop := x.loopActive = true ∧ (x.craw 9).toNat % 2 ^ 48 = x.pc

/-- Where the pc goes after a bundle without a taken branch (02 R38). -/
def nextPc (x : Islet) : Nat :=
  if x.loopActive = true ∧ (x.craw 9).toNat % 2 ^ 48 = x.pc ∧ 1 < (x.craw 7).toNat then (x.craw 8).toNat % 2 ^ 48 else (x.pc + 32) % 2 ^ 48

/-- Does slot M of the bundle write the own sliver store now (02 R42). -/
def OwnStore (s : State) (i : Nat) (b : Bundle) : Prop :=
  ((s.islet i).active b).m = true ∧ b.m.op.isStore = true ∧ ∃ off, s.target i ((s.islet i).ea b.m) = .own off

/-- An integer brought into `w` bits: saturated, or wrapped (02 R47, R50). -/
def fit (w : Nat) (sat : Bool) (x : Int) : Int :=
  if sat then max (-(2 ^ (w - 1) : Nat)) (min x ((2 ^ (w - 1) : Nat) - 1)) else sext w (wrapTo w x)

/-- What follows a bundle at once: the Islets that wait on the buoy it changed are released (02 R56), then the invocations go on
(04 R95). -/
def goesOn (s : State) (i : Nat) (b : Bundle) : State := (wakeOf (issued s i b, buoyHit s i b)).settle

/-- The commands that leave device memory, the Islets and the buoys as they are. -/
inductive Remote : Instr → Prop
  | cmdNop {m token t} : Remote (.cmdNop m token t)
  | wake {m token t} : Remote (.wake m token t)
  | park {m token t} : Remote (.park m token t)
  | sleep {m token t} : Remote (.sleep m token t)
  | stageShadow {m token t} : Remote (.stageShadow m token t)
  | swapConfig {m token t} : Remote (.swapConfig m token t)
  | calCommit {m token t} : Remote (.calCommit m token t)
  | mapSeal {m token t} : Remote (.mapSeal m token t)
  | mapExport {m token t} : Remote (.mapExport m token t)
  | placeQuery {m token t} : Remote (.placeQuery m token t)
  | recover {m token t} : Remote (.recover m token t)
  | testEnter {m token t} : Remote (.testEnter m token t)
  | testExit {m token t} : Remote (.testExit m token t)
  | halt {m token t} : Remote (.halt m token t)
  | condSync {m token t} : Remote (.condSync m token t)
  | attestReport {m token dest n nonce t} : Remote (.attestReport m token dest n nonce t)
  | attestEnrol {m token dest n nonce t} : Remote (.attestEnrol m token dest n nonce t)
  | cmdArgReadDone {m block t} : Remote (.cmdArgReadDone m block t)
  | cmdArgReadTimeout {m t} : Remote (.cmdArgReadTimeout m t)
  | imuLostTimeout {il t} : Remote (.imuLostTimeout il t)
  | syncInEdge {rising t} : Remote (.syncInEdge rising t)
  | csrOddAccess {isRead} : Remote (.csrOddAccess isRead)
  | glbEpochLoRead {m} : Remote (.glbEpochLoRead m)
  | integratorKeyHash {ok} : Remote (.integratorKeyHash ok)
  | vendorDisable : Remote (.vendorDisable)
  | nearLoopback {p} : Remote (.nearLoopback p)
  | farLoopback {p} : Remote (.farLoopback p)
  | prbs31 {p e0 e1 e2 e3} : Remote (.prbs31 p e0 e1 e2 e3)
  | chainTestOff {p} : Remote (.chainTestOff p)
  | smootherPassStart {t} : Remote (.smootherPassStart t)
  | smootherPassEnd {t} : Remote (.smootherPassEnd t)
  | sourceDropout {b t} : Remote (.sourceDropout b t)
  | optimisationStart {t} : Remote (.optimisationStart t)
  | perst {high refclk} : Remote (.perst high refclk)
  | pcieLinkDown : Remote (.pcieLinkDown)
  | pcieLinkUp {speed width} : Remote (.pcieLinkUp speed width)
  | functionLevelReset : Remote (.functionLevelReset)
  | configurationRequest {msix mask header} : Remote (.configurationRequest msix mask header)
  | intcPendWrite {k v meets} : Remote (.intcPendWrite k v meets)
  | intcMaskWrite {k v meets} : Remote (.intcMaskWrite k v meets)
  | intcCountWrite {n v meets} : Remote (.intcCountWrite n v meets)
  | intcSoft {v} : Remote (.intcSoft v)
  | levelDeassert {n} : Remote (.levelDeassert n)
  | patrolRead {p t} : Remote (.patrolRead p t)
  | readyRepeat {t} : Remote (.readyRepeat t)
  | enumTimeout {t} : Remote (.enumTimeout t)
  | enumEndTimeout {t} : Remote (.enumEndTimeout t)
  | linkNak {p ack} : Remote (.linkNak p ack)
  | linkCredit {p c0 c1 c2} : Remote (.linkCredit p c0 c1 c2)
  | linkRetrain {p t} : Remote (.linkRetrain p t)
  | linkRetryTimer {p t} : Remote (.linkRetryTimer p t)
  | updaterResume : Remote (.updaterResume)
  | longPacket {n vc dtype headerOk crcOk payload t} : Remote (.longPacket n vc dtype headerOk crcOk payload t)
  | ppsEdge {falling t} : Remote (.ppsEdge falling t)
  | nmeaSentence {n t} : Remote (.nmeaSentence n t)
  | imuDrdy {il t} : Remote (.imuDrdy il t)
  | imuBurstDone {il reply t} : Remote (.imuBurstDone il reply t)
  | wheelEdge {k level t} : Remote (.wheelEdge k level t)
  | wheelSample {t} : Remote (.wheelSample t)
  | canFrame {j id ext body t} : Remote (.canFrame j id ext body t)
  | writeQueueFull {il fills t} : Remote (.writeQueueFull il fills t)
  | portLostTimeout {n t} : Remote (.portLostTimeout n t)
  | fsyncPulse {k t} : Remote (.fsyncPulse k t)
  | deskewSequence {n passes t} : Remote (.deskewSequence n passes t)
  | projectionStart {n t} : Remote (.projectionStart n t)
  | pfailRelease {t} : Remote (.pfailRelease t)
  | idcode : Remote (.idcode)
  | bypass {tdi} : Remote (.bypass tdi)
  | samplePreload {pins tdi} : Remote (.samplePreload pins tdi)
  | extest {pins tdi} : Remote (.extest pins tdi)
  | trst {low} : Remote (.trst low)
  | gptpSync {p d seqId twoStep origin corr t} : Remote (.gptpSync p d seqId twoStep origin corr t)
  | gptpFollowUp {p d seqId origin corr t} : Remote (.gptpFollowUp p d seqId origin corr t)
  | gptpAnnounce {p d a t} : Remote (.gptpAnnounce p d a t)
  | pdelayReq {p seqId rx tx} : Remote (.pdelayReq p seqId rx tx)
  | pdelayResp {p seqId t2 t3 rx} : Remote (.pdelayResp p seqId t2 t3 rx)
  | pdelayTimer {p t} : Remote (.pdelayTimer p t)
  | syncTimeout {b t} : Remote (.syncTimeout b t)
  | holdoverExpired {b t} : Remote (.holdoverExpired b t)
  | ppsLabelTimeout {t} : Remote (.ppsLabelTimeout t)
  | ppsTimeout {t} : Remote (.ppsTimeout t)
  | uartRateTimeout {t} : Remote (.uartRateTimeout t)
  | timeSnap {v t} : Remote (.timeSnap v t)
  | tbNsLoRead {b t} : Remote (.tbNsLoRead b t)
  | tbAdjWrite {b v t} : Remote (.tbAdjWrite b v t)
  | tbRateLoWrite {b v t} : Remote (.tbRateLoWrite b v t)
  | tbRateHiWrite {b v t} : Remote (.tbRateHiWrite b v t)

/-- The rows that write one opcode to GLB_CMD, with opcode, master, token and the instant of the write (12 R351). -/
inductive CommandRow : Instr → Nat → Master → Byte → Nat → Prop
  | cmdNop (m : Master) (token : Byte) (t : Nat) : CommandRow (.cmdNop m token t) 0x00 m token t
  | wake (m : Master) (token : Byte) (t : Nat) : CommandRow (.wake m token t) 0x01 m token t
  | park (m : Master) (token : Byte) (t : Nat) : CommandRow (.park m token t) 0x02 m token t
  | sleep (m : Master) (token : Byte) (t : Nat) : CommandRow (.sleep m token t) 0x03 m token t
  | stageShadow (m : Master) (token : Byte) (t : Nat) : CommandRow (.stageShadow m token t) 0x04 m token t
  | swapConfig (m : Master) (token : Byte) (t : Nat) : CommandRow (.swapConfig m token t) 0x05 m token t
  | calCommit (m : Master) (token : Byte) (t : Nat) : CommandRow (.calCommit m token t) 0x06 m token t
  | mapSeal (m : Master) (token : Byte) (t : Nat) : CommandRow (.mapSeal m token t) 0x07 m token t
  | mapExport (m : Master) (token : Byte) (t : Nat) : CommandRow (.mapExport m token t) 0x08 m token t
  | placeQuery (m : Master) (token : Byte) (t : Nat) : CommandRow (.placeQuery m token t) 0x09 m token t
  | recover (m : Master) (token : Byte) (t : Nat) : CommandRow (.recover m token t) 0x0B m token t
  | testEnter (m : Master) (token : Byte) (t : Nat) : CommandRow (.testEnter m token t) 0x0C m token t
  | testExit (m : Master) (token : Byte) (t : Nat) : CommandRow (.testExit m token t) 0x0D m token t
  | halt (m : Master) (token : Byte) (t : Nat) : CommandRow (.halt m token t) 0x0E m token t
  | condSync (m : Master) (token : Byte) (t : Nat) : CommandRow (.condSync m token t) 0x0F m token t

/-- A register of a block whose write does nothing but set its fields (00 R8): one with fields, and none of those whose write starts an
action or is bound by a rule of its own. -/
def PlainReg (o : Nat) : Prop :=
  o % 4 = 0 ∧ o < 0x100000 ∧ csrFields o ≠ [] ∧ o ∉ [R.GLB_CMD, R.GLB_CMD_ARG_LO, R.GLB_CMD_ARG_HI, R.INTC_SOFT, R.TIME_SNAP, R.CHAIN_TEST,
    R.HOST_RELAY_CTL, R.SEC_OTP_PROG] ∧ ¬ (R.INTC_PEND ≤ o ∧ o < R.INTC_PEND + 128) ∧ ¬ (R.INTC_COUNT ≤ o ∧ o < R.INTC_COUNT + 2048) ∧
  ¬ (R.TIME_TB_NS_LO ≤ o ∧ o < R.TIME_TB_NS_LO + 0x100) ∧ ¬ (R.MSIX ≤ o ∧ o < R.MSIX + 0x400) ∧
  ¬ (R.SHORE_FSYNC_CFG ≤ o ∧ o < R.SHORE_FSYNC_CFG + 0x80)

/-- The commands that act on the device while it sleeps, is switched off or has no supply: its Skerry, its pins, its boundary-scan port, and
those of an Islet (which itself does not run then). -/
inductive Awake : Instr → Prop
  | coldStart {pwrOk head ext b t} : Awake (.coldStart pwrOk head ext b t)
  | porAssert : Awake (.porAssert)
  | pwrOkLoss {t} : Awake (.pwrOkLoss t)
  | pwrOkRise {w t} : Awake (.pwrOkRise w t)
  | wakeNPin {k w t} : Awake (.wakeNPin k w t)
  | canWake {j w t} : Awake (.canWake j w t)
  | tb3Alarm {w t} : Awake (.tb3Alarm w t)
  | pfailAssert {us t} : Awake (.pfailAssert us t)
  | pfailRelease {t} : Awake (.pfailRelease t)
  | pfailHoldEnd {w t} : Awake (.pfailHoldEnd w t)
  | safeStopAssert : Awake (.safeStopAssert)
  | safeStopRelease : Awake (.safeStopRelease)
  | idcode : Awake (.idcode)
  | bypass {tdi} : Awake (.bypass tdi)
  | samplePreload {pins tdi} : Awake (.samplePreload pins tdi)
  | extest {pins tdi} : Awake (.extest pins tdi)
  | trst {low} : Awake (.trst low)
  | perst {high refclk} : Awake (.perst high refclk)
  | epochBoundary {x} : Awake (.epochBoundary x)
  | islet {c : Instr} {il : IsletId} {b : Bundle} (h : IssuesBundle c il b) : Awake c

/-- The rows that bring a message of a class other than CTRL over a Causeway port, with the port, the message and the instant (13 R381,
15 R418). -/
inductive PeerRow : Instr → Fin 2 → Msg → Nat → Prop
  | rdReq (p : Fin 2) (dest src : Byte) (address : BitVec 48) (n seq : Word32) (epoch tag : Word64) (t : Nat) :
      PeerRow (.rdReq p dest src address n seq epoch tag t) p { dest := dest.toNat, src := src.toNat, cls := 2, address := address.toNat, seq := seq.toNat, epoch := epoch.toNat, tag := tag.toNat, payload := record 8 [(0, 4, n.toNat)] } t
  | wrReq (p : Fin 2) (dest src : Byte) (address : BitVec 48) (seq : Word32) (epoch tag : Word64) (data : List Byte) (t : Nat) :
      PeerRow (.wrReq p dest src address seq epoch tag data t) p { dest := dest.toNat, src := src.toNat, cls := 3, address := address.toNat, seq := seq.toNat, epoch := epoch.toNat, tag := tag.toNat, payload := data } t
  | rdResp (p : Fin 2) (dest src : Byte) (status : BitVec 2) (seq : Word32) (epoch tag : Word64) (data : List Byte) (t : Nat) :
      PeerRow (.rdResp p dest src status seq epoch tag data t) p { dest := dest.toNat, src := src.toNat, cls := 4, flags := status.toNat, seq := seq.toNat, epoch := epoch.toNat, tag := tag.toNat, payload := data } t
  | wrAck (p : Fin 2) (dest src : Byte) (status : BitVec 2) (seq : Word32) (epoch tag : Word64) (t : Nat) :
      PeerRow (.wrAck p dest src status seq epoch tag t) p { dest := dest.toNat, src := src.toNat, cls := 5, flags := status.toNat, seq := seq.toNat, epoch := epoch.toNat, tag := tag.toNat } t
  | eventMessage (p : Fin 2) (dest src : Byte) (seq : Word32) (epoch tag : Word64) (source : BitVec 16) (count flags : Byte) (tb0 : Word64) (t : Nat) :
      PeerRow (.eventMessage p dest src seq epoch tag source count flags tb0 t) p { dest := dest.toNat, src := src.toNat, cls := 1, seq := seq.toNat, epoch := epoch.toNat, tag := tag.toNat, payload := record 16 [(0, 2, source.toNat), (2, 1, count.toNat), (3, 1, flags.toNat), (8, 8, tb0.toNat)] } t

/-- A message stands with the transmitter of a port: sent, or waiting for credits (13 R376). -/
def handedTo (u : State) (p : Nat) (m : Msg) : Prop := Out.msg p m ∈ u.out ∨ m ∈ (u.cport p).wait

/-- A CTRL message of a subtype and a value stands with the transmitter of a port (13 R378). -/
def sendsCtrl (u : State) (p k v : Nat) : Prop :=
  ∃ m : Msg, m.dest = 0xFE ∧ m.cls = 0 ∧ m.payload = record 16 [(0, 1, k), (1, 1, v)] ∧ handedTo u p m

end Sys2Proof
end

