-- ==== Sys2Proof/WellFormed.lean ====
section
/-! DEFINITION. The operands a command can carry beyond what their types say: the sizes that an interface of the device gives its
messages, frames and blocks (spec 06, 07, 12 to 15, 18). -/
namespace Sys2Proof

/-- Are a command's operands ones that the outside world can bring: a register offset on a word boundary (00 R7), one plan for each slot, a
temperature that the sensor register can hold (16 R430), a tier instance that there is (05 R137), a nonce of 64 bytes (14 R403, R405), a BAR2 access of 1 to 4,096 bytes (13 R385),
payloads within their packets (06 R165, R181, 07 R208), an 11-bit standard identifier, an id of 16 and a hash of 64 bytes (14 R395), a
link frame of 264 bytes (13 R375), message payloads of at most 4,096 bytes (13 R381), a link of R384. Every other operand may take every value of its type. -/
def Instr.wellFormed : Instr → Bool
  | .registerWrite _ o _ _ => decide (o.toNat % 4 = 0)
  | .epochBoundary x => decide ((x.plans.map (·.1)).Nodup) && decide (x.tj.toNat ≤ 2550)
  | .attestReport _ _ _ _ nonce _ => decide (nonce.length = 64)
  | .attestEnrol _ _ _ _ nonce _ => decide (nonce.length = 64)
  | .pageRetire tier i _ _ _ _ => decide (tier.val = 0) || decide (i.val < 2)
  | .bar2Read _ n _ _ => decide (0 < n.val)
  | .bar2Write _ data _ _ => decide (0 < data.length) && decide (data.length ≤ 4096)
  | .longPacket _ _ _ _ _ payload _ => decide (payload.length ≤ 65535)
  | .lidarDatagram _ _ _ _ payload _ => decide (payload.length ≤ 65507)
  | .canFrame _ id ext body _ => decide (body.data.length ≤ 64) && (ext || decide (id.toNat < 2048))
  | .coldStart _ _ ext _ _ => (match ext with | none => true | some f => decide (f.uid.length = 16) && decide (f.vendorHash.length = 64))
  | .linkFrameRx _ b _ => decide (b.length = 264)
  | .wrReq _ _ _ _ _ _ _ data _ => decide (data.length ≤ 4096)
  | .rdResp _ _ _ _ _ _ _ data _ => decide (data.length ≤ 4096)
  | .pcieLinkUp speed width => decide (1 ≤ speed.toNat) && decide (speed.toNat ≤ 5) && decide (width.toNat ∈ [1, 2, 4, 8])
  | .intcPendWrite _ _ meets => decide meets.Nodup
  | .intcMaskWrite _ _ meets => decide meets.Nodup
  | .csrOddAccess .. | .cmdNop .. | .wake .. | .park .. | .sleep .. | .stageShadow .. | .shadowVerifyEnd .. | .swapConfig ..
  | .calCommit .. | .mapSeal .. | .mapExport .. | .placeQuery .. | .recover .. | .testEnter .. | .testExit .. | .halt ..
  | .condSync .. | .cmdArgReadDone .. | .cmdArgReadTimeout .. | .safeStopAssert | .safeStopRelease | .nop .. | .add .. | .sub ..
  | .andG .. | .orG .. | .xorG .. | .shl .. | .shr .. | .sra .. | .mul .. | .mulh .. | .slt .. | .sltu .. | .popc .. | .minG ..
  | .maxG .. | .addi .. | .andi .. | .ori .. | .xori .. | .shli .. | .shri .. | .srai .. | .lui .. | .lih .. | .peq .. | .plt ..
  | .pltu .. | .pand .. | .por .. | .pnot .. | .br .. | .jr .. | .call .. | .callr .. | .loop .. | .mfc .. | .mtc .. | .fence ..
  | .eret .. | .trap .. | .endA .. | .lsNop .. | .ld .. | .ldu .. | .st .. | .vld .. | .vst .. | .vlds .. | .towin ..
  | .towout .. | .twait .. | .tstat .. | .loadReturn .. | .storePerformed .. | .towComplete .. | .vnop .. | .vadd .. | .vsub ..
  | .vmul .. | .vmin .. | .vmax .. | .vand .. | .vor .. | .vxor .. | .vshl .. | .vshr .. | .vsra .. | .vshla .. | .vabs ..
  | .vpopc .. | .vfma .. | .vaddi .. | .vandi .. | .vshli .. | .vshri .. | .vmovi .. | .vlane .. | .vins .. | .vext ..
  | .vbcst .. | .vcmpeq .. | .vcmplt .. | .vcmple .. | .vsel .. | .vcvt .. | .vtqrel .. | .vrmin .. | .vrmax .. | .vradd ..
  | .vperm .. | .vmft .. | .vmtt .. | .vrcp .. | .vrsq .. | .tnop .. | .tmma .. | .tfill .. | .bsig .. | .bset .. | .bwait ..
  | .barr .. | .barv .. | .bpoll .. | .buoyWaitTimeout .. | .buoyValueWrite .. | .buoyParticipantsWrite .. | .buoyCtlWrite ..
  | .dbgHalt .. | .dbgResume .. | .dbgStep .. | .invocationRelease .. | .partialInputTimeout .. | .weightPrefetch ..
  | .weightRaise .. | .invocationDone .. | .invocationFail .. | .ferryMoveComplete .. | .objectLoadComplete ..
  | .tierRequestTimeout .. | .tierRequestError .. | .frameStart .. | .frameEnd .. | .frameRecordWrite .. | .writeQueueFull ..
  | .portLostTimeout .. | .fsyncPulse .. | .stereoRecordWrite .. | .stereoPartnerTimeout .. | .projectionStart ..
  | .depthHeaderWrite .. | .gptpSync .. | .gptpFollowUp .. | .gptpAnnounce .. | .pdelayReq .. | .pdelayResp .. | .pdelayTimer ..
  | .syncTimeout .. | .holdoverExpired .. | .ppsEdge .. | .nmeaSentence .. | .ppsLabelTimeout .. | .ppsTimeout ..
  | .uartRateTimeout .. | .timeSnap .. | .tbNsLoRead .. | .glbEpochLoRead .. | .tbAdjWrite .. | .tbRateLoWrite ..
  | .tbRateHiWrite .. | .imuDrdy .. | .imuBurstDone .. | .imuLostTimeout .. | .wheelEdge .. | .wheelSample .. | .syncInEdge ..
  | .associationWrite .. | .smootherPassStart .. | .smootherPassEnd .. | .sourceDropout .. | .poseSeal .. | .bundleAdjustEnd ..
  | .optimisationEnd .. | .optimisationStart .. | .recordSubmit .. | .commitIntervalExpiry .. | .commitDurable ..
  | .nandProgramDone .. | .nandEraseDone .. | .nandReadDone .. | .nandReadTimeout .. | .reclaimStart .. | .patrolRead ..
  | .eraseCreditAccrue .. | .mount .. | .pfailAssert .. | .pfailHoldEnd .. | .pfailRelease .. | .reefInsert | .reefDelete ..
  | .compactPage .. | .updaterResume | .codewordReadDone .. | .reefQueryTimeout .. | .porAssert | .pwrOkLoss .. | .pwrOkRise ..
  | .wakeNPin .. | .canWake .. | .tb3Alarm .. | .thermalTrip .. | .atollRelockDone .. | .enumReady .. | .readyRepeat ..
  | .enumMsg .. | .enumEnd .. | .enumCommit .. | .enumTimeout .. | .enumEndTimeout .. | .linkNak .. | .linkCredit ..
  | .linkRetrain .. | .linkRetrainDone .. | .linkRetryTimer .. | .rdReq .. | .wrAck .. | .eventMessage ..
  | .peerRequestTimeout .. | .hostRelayRead .. | .hostRelayWrite .. | .nearLoopback .. | .farLoopback .. | .prbs31 ..
  | .chainTestOff .. | .perst .. | .pcieLinkDown | .functionLevelReset | .integratorKeyHash .. | .vendorDisable
  | .intcCountWrite .. | .intcSoft .. | .levelDeassert .. | .bypass .. | .idcode | .samplePreload .. | .extest .. | .trst ..
  | .configurationRequest .. | .norProgramDone .. | .deskewSequence .. | .creditReturnTimer .. => true

end Sys2Proof
end

