-- ==== Sys2Proof/Certificates/Slice0/Obligations.lean ====
section
/-! DEFINITION. The statements about the model. -/
open Sys2Proof Sys2Proof.Machine

/-- A step with the command at the front of the queue is that command's effect on the state with the queue's rest (the block form of
the model; 01 R21 has the device take what arrives in order). A step with no waiting command answers the state as it is: a choice of
the model (log entry 4). -/
def Obligations.StepRunsFront : Prop :=
  (∀ (c : Instr) (q : List Instr) (s : State), s.pending = c :: q → step s = exec c (s.withPending q)) ∧
  ∀ s : State, s.pending = [] → step s = .next s

/-- No command of the device faults or is refused: every one answers a next state, for every operand and in every state, and leaves the
waiting commands as they are. -/
def Obligations.EveryCommandAnswers : Prop :=
  ∀ (c : Instr) (s : State), ∃ t : State, exec c s = .next t ∧ t.pending = s.pending

/-- The invariant of the model, kept by every step from every state that has it: memory and register tables stand in their canonical form
(00 R7–R12, 19 R460: one value for every byte and register); nothing that has left the device is taken back; free values are not used
twice; the queue loses its front only. -/
def Obligations.StepKeepsInvariant : Prop :=
  ∀ s t : State, canonical s = true → step s = .next t →
    canonical t = true ∧ s.out <+: t.out ∧ s.freeCount ≤ t.freeCount ∧ t.pending = s.pending.tail

/-- One-time-programmable memory (14 R395, R398, R401), over every command: identity and vendor key hash stand, an integrator key hash once
programmed stays as it is, disabling the vendor key and enrolment are for ever. The one command left out is a first power-up that finds
other parts fitted. -/
def Obligations.OtpNeverTakenBack : Prop :=
  ∀ (c : Instr) (s t : State), (∀ pwrOk head f b n, c ≠ .coldStart pwrOk head (some f) b n) → exec c s = .next t → OtpKept s t

/-- Reset (02 R29, R55; 12 R362; 13 R365; 18 R446): the state the run starts from has the invariant, and holds the values the spec gives. -/
def Obligations.ResetState : Prop :=
  canonical State.reset = true ∧ State.reset.pending = [] ∧ State.reset.dev.state = .boot ∧ State.reset.dev.epoch = 0 ∧ State.reset.tb3 = 0 ∧
  (∀ i n, (State.reset.islet i).gr n = 0) ∧ (∀ i, (State.reset.islet i).pr 0 = BitVec.allOnes 64) ∧
  (∀ n, (State.reset.buoy n).value = 0 ∧ (State.reset.buoy n).arrivals = 0 ∧ (State.reset.buoy n).owner = 0xFF ∧
    (State.reset.buoy n).barrier = false ∧ (State.reset.buoy n).lastSignaller = 0xFFF) ∧
  State.reset.tap.inReset = true ∧ State.reset.tap.ir = 0

/-- The scalar operations that write a g register (02 R37), each on its own line, for both slots that may hold it: a bundle that nothing keeps
(R32) completes and rd holds the result, g0 stays zero (R29). -/
def Obligations.ScalarResults : Prop :=
  ∀ (c : Instr) (op : SOp) (il : IsletId) (a : SArgs) (r : Rest) (s0 : State), ScalarRow c op il a r → op.writesG = true → Fetches s0 il.val →
    let s := fetched s0 il.val
    Ready s il.val (bundleS op a r) → (s.islet il.val).predOn a.pred = true →
    let x := s.islet il.val
    let u := x.gr a.rs1.toNat
    let v := x.gr a.rs2.toNat
    let y := ((issued s il.val (bundleS op a r)).islet il.val).gr a.rd.toNat
    exec c s0 = .next (goesOn s il.val (bundleS op a r)) ∧ (a.rd.toNat = 0 → y = 0) ∧ (a.rd.toNat ≠ 0 →
      (op = .add → y = u + v) ∧ (op = .sub → y = u - v) ∧ (op = .and → y = u &&& v) ∧ (op = .or → y = u ||| v) ∧ (op = .xor → y = u ^^^ v) ∧
      (op = .shl → y.toNat = u.toNat * 2 ^ (v.toNat % 64) % 2 ^ 64) ∧ (op = .shr → y.toNat = u.toNat / 2 ^ (v.toNat % 64)) ∧
      (op = .sra → y.toInt = u.toInt / 2 ^ (v.toNat % 64)) ∧
      (op = .mul → y.toNat = u.toNat * v.toNat % 2 ^ 64) ∧ (op = .mulh → y.toInt = u.toInt * v.toInt / 2 ^ 64) ∧
      (op = .slt → y = if u.toInt < v.toInt then 1 else 0) ∧ (op = .sltu → y = if u.toNat < v.toNat then 1 else 0) ∧
      (op = .popc → y.toNat = ((List.range 64).filter fun k => u.getLsbD k).length) ∧
      (op = .min → y.toInt = min u.toInt v.toInt) ∧ (op = .max → y.toInt = max u.toInt v.toInt) ∧
      (op = .addi → y = u + BitVec.ofInt 64 (sImm a)) ∧ (op = .andi → y = u &&& BitVec.ofInt 64 (sImm a)) ∧
      (op = .ori → y = u ||| BitVec.ofInt 64 (sImm a)) ∧ (op = .xori → y = u ^^^ BitVec.ofInt 64 (sImm a)) ∧
      (op = .shli → y.toNat = u.toNat * 2 ^ (a.imm.toNat % 64) % 2 ^ 64) ∧ (op = .shri → y.toNat = u.toNat / 2 ^ (a.imm.toNat % 64)) ∧
      (op = .srai → y.toInt = u.toInt / 2 ^ (a.imm.toNat % 64)) ∧
      (op = .lui → y.toInt = sext 21 a.imm.toNat * 2 ^ 21) ∧
      (op = .lih → y = (u &&& 0x3FFFFFFFFFF) ||| (BitVec.ofInt 64 (sImm a) <<< 42)) ∧
      (op = .call ∨ op = .callr → y = BitVec.ofNat 64 (x.pc + 32)) ∧
      (op = .mfc → y = { x with cycle := cycleOf s il.val (bundleS op a r) }.cr il.val s.dev.epoch (a.imm.toNat % 16)))

/-- The scalar operations that write a predicate (02 R37): all ones or all zeros of the comparison, AND, OR and NOT of predicates; p0 stays all
ones (R29). -/
def Obligations.PredicateResults : Prop :=
  ∀ (c : Instr) (op : SOp) (il : IsletId) (a : SArgs) (r : Rest) (s0 : State), ScalarRow c op il a r → op.writesPred = true → Fetches s0 il.val →
    let s := fetched s0 il.val
    Ready s il.val (bundleS op a r) → (s.islet il.val).predOn a.pred = true →
    let x := s.islet il.val
    let u := x.gr a.rs1.toNat
    let v := x.gr a.rs2.toNat
    let y := ((issued s il.val (bundleS op a r)).islet il.val).pr a.rd.toNat
    exec c s0 = .next (goesOn s il.val (bundleS op a r)) ∧ (a.rd.toNat = 0 → y = BitVec.allOnes 64) ∧ (a.rd.toNat ≠ 0 →
      (op = .peq → y = if u = v then BitVec.allOnes 64 else 0) ∧ (op = .plt → y = if u.toInt < v.toInt then BitVec.allOnes 64 else 0) ∧
      (op = .pltu → y = if u.toNat < v.toNat then BitVec.allOnes 64 else 0) ∧
      (op = .pand → y = x.pr a.rs1.toNat &&& x.pr a.rs2.toNat) ∧ (op = .por → y = x.pr a.rs1.toNat ||| x.pr a.rs2.toNat) ∧
      (op = .pnot → y = ~~~ x.pr a.rs1.toNat))

/-- The scalar operations that move the pc or write control state (02 R30, R37, R38, R52): branches and their extra cycle, the hardware
loop, the return from an exception, MTC (a read-only register stays), FENCE and END with their queues drained. -/
def Obligations.ScalarControl : Prop :=
  ∀ (c : Instr) (op : SOp) (il : IsletId) (a : SArgs) (r : Rest) (s0 : State), ScalarRow c op il a r → a.slot = .s0 → op ≠ .trap → Fetches s0 il.val →
    let s := fetched s0 il.val
    Ready s il.val (bundleS op a r) → (s.islet il.val).predOn a.pred = true →
    let x := s.islet il.val
    let y := (issued s il.val (bundleS op a r)).islet il.val
    let n := cycleOf s il.val (bundleS op a r)
    exec c s0 = .next (goesOn s il.val (bundleS op a r)) ∧ y.retired = x.retired + 1 ∧
    (op = .br ∨ op = .call → y.pc = wrapTo 48 (x.pc + sImm a * 32) ∧ y.cycle = n + 2) ∧
    (op = .jr ∨ op = .callr → y.pc = (x.gr a.rs1.toNat).toNat % 2 ^ 48 ∧ (x.gr a.rs1.toNat).toNat % 32 = 0 ∧ y.cycle = n + 2) ∧
    (op = .eret → y.pc = (x.craw 2).toNat % 2 ^ 48 ∧ y.inHandler = false) ∧
    (op = .loop → y.craw 7 = x.gr a.rs1.toNat ∧ (y.craw 8).toNat = (x.pc + 32) % 2 ^ 48 ∧ (y.craw 9).toNat = wrapTo 48 (x.pc + sImm a * 32) ∧
      y.loopActive = true ∧ (x.gr a.rs1.toNat = 0 → y.pc = wrapTo 48 (x.pc + sImm a * 32 + 32))) ∧
    (op = .mtc → (2 ≤ a.imm.toNat % 16 ∧ a.imm.toNat % 16 < 12 ∧ a.imm.toNat % 16 ≠ 10 → y.craw (a.imm.toNat % 16) = x.gr a.rs1.toNat) ∧
      (a.imm.toNat % 16 = 15 → y.craw 15 = x.craw 15) ∧ (a.imm.toNat % 16 = 1 → y.inHandler = (x.gr a.rs1.toNat).getLsbD 0)) ∧
    (op = .fence → (bitOf a.imm.toNat 0 = true → x.loads = []) ∧ (bitOf a.imm.toNat 1 = true → x.stores = [])) ∧
    (op = .endA → x.loads = [] ∧ x.stores = [] ∧ y.idle = true) ∧
    (op = .nop ∨ op = .fence ∨ op = .mtc ∨ op = .endA ∨ op.writesPred = true ∨ (op.writesG = true ∧ op ≠ .call ∧ op ≠ .callr) →
      y.pc = nextPc x ∧ y.cycle = n + 1)

/-- TRAP (02 R60, R61): the other slots complete, EPC names the next bundle, ECAUSE TRAP, ECODE2 imm21, sign-extended as R37 says of every immediate; the Islet goes on at EVEC with
in_handler set. -/
def Obligations.TrapEnters : Prop :=
  ∀ (il : IsletId) (a : SArgs) (r : Rest) (s0 : State), a.slot = .s0 → Fetches s0 il.val →
    let s := fetched s0 il.val
    Ready s il.val (bundleS .trap a r) →
    (s.islet il.val).predOn a.pred = true → (s.islet il.val).inHandler = false → (s.islet il.val).craw 6 ≠ 0 → (s.islet il.val).stepping = false →
    (s.islet il.val).haltReq = false →
    let x := s.islet il.val
    let y := (issued s il.val (bundleS .trap a r)).islet il.val
    exec (.trap il a r) s0 = .next (goesOn s il.val (bundleS .trap a r)) ∧
    y.craw 2 = BitVec.ofNat 64 (nextPc x) ∧ y.craw 3 = 0xA ∧ y.craw 5 = BitVec.ofInt 64 (sext 21 a.imm.toNat) ∧
    y.inHandler = true ∧ y.pc = (x.craw 6).toNat % 2 ^ 48 ∧ y.halted = x.halted

/-- Accesses to the own sliver store (02 R39, R40, R42): sign and zero extension, the 64 bytes of a vector register, one value in every lane;
the bytes a store writes, and every other byte as before. The store's address is that of the meaning: the effective address in the Islet's window. -/
def Obligations.OwnStoreAccesses : Prop :=
  ∀ (c : Instr) (op : MOp) (il : IsletId) (a : MArgs) (r : Rest) (s0 : State) (off : Nat), LoadStoreRow c op il a r →
    op.isLoad = true ∨ op.isStore = true → Fetches s0 il.val →
    let s := fetched s0 il.val
    Ready s il.val (bundleM op a r) → (s.islet il.val).predOn a.pred = true →
    s.target il.val ((s.islet il.val).ea ⟨op, a⟩) = .own off →
    let x := s.islet il.val
    let t := issued s il.val (bundleM op a r)
    let y := t.islet il.val
    let n := 2 ^ (⟨op, a⟩ : MIns).log2w
    let at_ := sliverBase il.val + off
    exec c s0 = .next (goesOn s il.val (bundleM op a r)) ∧
    (op = .ld → y.gr a.rd.toNat = if a.rd.toNat = 0 then 0 else BitVec.ofInt 64 (sext (8 * n) (s.load at_ n))) ∧
    (op = .ldu → y.gr a.rd.toNat = if a.rd.toNat = 0 then 0 else BitVec.ofNat 64 (s.load at_ n % 2 ^ (8 * n))) ∧
    (op = .vld → y.vr a.rd.toNat = BitVec.ofNat 512 (s.load at_ 64)) ∧
    (op = .vlds → y.vr a.rd.toNat = vecOf (8 * n) fun _ => s.load at_ n % 2 ^ (8 * n)) ∧
    (op.isLoad = true → ∀ p, t.byte p = s.byte p) ∧
    (op = .st → ∀ k < n, t.byte (at_ + k) = BitVec.ofNat 8 ((x.gr a.rd.toNat).toNat / 256 ^ k)) ∧
    (op = .vst → ∀ k < 64, t.byte (at_ + k) = BitVec.ofNat 8 ((x.vr a.rd.toNat).toNat / 256 ^ k)) ∧
    (op.isStore = true → ∀ p, p < at_ ∨ at_ + n ≤ p → t.byte p = s.byte p)

/-- The decoupled load queue and the store buffer (02 R42, R43): what an access beyond the own sliver store leaves in them; it changes no byte
of memory when it issues. -/
def Obligations.QueuedAccesses : Prop :=
  ∀ (c : Instr) (op : MOp) (il : IsletId) (a : MArgs) (r : Rest) (s0 : State), LoadStoreRow c op il a r → Fetches s0 il.val →
    let s := fetched s0 il.val
    Ready s il.val (bundleM op a r) → (s.islet il.val).predOn a.pred = true →
    (∀ off, s.target il.val ((s.islet il.val).ea ⟨op, a⟩) ≠ .own off) →
    let x := s.islet il.val
    let t := issued s il.val (bundleM op a r)
    let y := t.islet il.val
    exec c s0 = .next (goesOn s il.val (bundleM op a r)) ∧
    (op.isLoad = true → y.stores = x.stores ∧ y.tows = x.tows ∧ y.seq = x.seq + 1 ∧ ∃ q : QLoad, y.loads = x.loads ++ [q] ∧ q.seq = x.seq ∧
      q.op = op ∧ q.size = a.size.toNat ∧ q.reg = a.rd.toNat ∧ q.addr = x.ea ⟨op, a⟩) ∧
    (op.isStore = true → y.loads = x.loads ∧ y.tows = x.tows ∧ y.seq = x.seq + 1 ∧ ∃ q : QStore, y.stores = x.stores ++ [q] ∧ q.seq = x.seq ∧
      q.addr = x.ea ⟨op, a⟩ ∧
      q.bytes = if op = .st then leBytes (2 ^ a.size.toNat) (x.gr a.rd.toNat).toNat else leBytes 64 (x.vr a.rd.toNat).toNat) ∧
    (op.isLoad = true ∨ op.isStore = true → ∀ p, t.byte p = s.byte p)

/-- Tows (02 R40, R44): where the operands stand, the slot that becomes busy, and what TWAIT and TSTAT answer. -/
def Obligations.TowOperations : Prop :=
  ∀ (c : Instr) (op : MOp) (il : IsletId) (a : MArgs) (r : Rest) (s0 : State), LoadStoreRow c op il a r → Fetches s0 il.val →
    let s := fetched s0 il.val
    Ready s il.val (bundleM op a r) → (s.islet il.val).predOn a.pred = true →
    let x := s.islet il.val
    let t := issued s il.val (bundleM op a r)
    let y := t.islet il.val
    exec c s0 = .next (goesOn s il.val (bundleM op a r)) ∧
    (op = .towin ∨ op = .towout →
      let w := y.tow a.size.toNat
      w.busy = true ∧ w.isIn = decide (op = .towin) ∧ w.far = (x.gr a.base.toNat).toNat ∧ w.off = (x.gr a.index.toNat).toNat % 65536 ∧
      w.len = a.off.toNat ∧ w.err = false ∧ w.off + w.len ≤ 65536 ∧ w.len % 64 = 0 ∧ w.far % 64 = 0 ∧
      (x.tow a.size.toNat).busy = false ∧ (∀ k, k ≠ a.size.toNat → y.tow k = x.tow k) ∧ y.loads = x.loads ∧ y.stores = x.stores ∧
      ∀ p, t.byte p = s.byte p) ∧
    (op = .twait → (∀ k < 8, bitOf a.off.toNat k = true → (x.tow k).busy = false) ∧
      y.gr a.rd.toNat = if a.rd.toNat = 0 then 0 else x.twaitValue ⟨op, a⟩) ∧
    (op = .tstat → y.gr a.rd.toNat = if a.rd.toNat = 0 then 0 else x.tstatValue) ∧
    (op = .twait ∨ op = .tstat ∨ op = .nop → y.loads = x.loads ∧ y.stores = x.stores ∧ y.tows = x.tows ∧ ∀ p, t.byte p = s.byte p)

/-- The vector slot (02 R35, R46, R47): where each operation's result goes, if its predicate enables a lane that it would write (R35). The lanes themselves are the subject of IntegerLanes and
BitwiseLanes. -/
def Obligations.VectorResults : Prop :=
  ∀ (c : Instr) (op : VOp) (il : IsletId) (a : VArgs) (r : Rest) (s0 : State) (ty : EType), VectorRow c op il a r →
    EType.ofCode a.etype.toNat = some ty → Fetches s0 il.val →
    let s := fetched s0 il.val
    Ready s il.val (bundleV op a r) →
    let x := s.islet il.val
    let y := (issued s il.val (bundleV op a r)).islet il.val
    let src := x.vsrc ⟨some op, a⟩
    let on := vEnabled op ty a.imm.toNat (x.predReg a.pred) = true
    exec c s0 = .next (goesOn s il.val (bundleV op a r)) ∧
    (on → laneOp op = true → y.vr a.vd.toNat = (vexec op ty a.sat a.imm.toNat src).1) ∧
    (on → op = .vcmpeq ∨ op = .vcmplt ∨ op = .vcmple → y.pr (a.vd.toNat % 8) = if a.vd.toNat % 8 = 0 then BitVec.allOnes 64 else vcmp op ty src) ∧
    (op = .vext → a.imm.toNat % 64 < laneCount ty → laneOn (x.predReg a.pred) ty.laneWidth (a.imm.toNat % 64) = true →
      y.gr a.vd.toNat = if a.vd.toNat = 0 then 0
        else BitVec.ofInt 64 (sext ty.laneWidth (elem ty.laneWidth (a.imm.toNat % 64) (x.vr a.va.toNat)))) ∧
    (on → op = .vmft → ∀ l < 16, elem 32 l (y.vr a.vd.toNat) = if laneOn (x.predReg a.pred) 32 l = true
      then nthD 0 (x.tr (a.va.toNat % 8)) (16 * (a.imm.toNat % 4) + l) % 2 ^ 32 else elem 32 l (x.vr a.vd.toNat)) ∧
    (on → op = .vmtt → ∀ e < 64, nthD 0 (y.tr (a.vd.toNat % 8)) e = if e / 16 = a.imm.toNat % 4 ∧ laneOn (x.predReg a.pred) 32 (e % 16) = true
      then elem 32 (e % 16) (x.vr a.va.toNat) else nthD 0 (x.tr (a.vd.toNat % 8)) e) ∧
    (¬ on → ∀ n < 32, keyV n ∉ (bundleV op a r).dests (x.active (bundleV op a r)) → y.vr n = x.vr n)

/-- Integer lanes (02 R35, R47; 03 R78): the exact integer result of the lanes, wrapped or saturated; disabled lanes keep vd. -/
def Obligations.IntegerLanes : Prop :=
  ∀ (ty : EType) (sat : Bool) (imm : Nat) (src : VSrc) (l : Nat), ty.isInt = true → l < laneCount ty → imm < 2 ^ 24 →
    let w := ty.laneWidth
    let u := sext w (elem w l src.a)
    let v := sext w (elem w l src.b)
    let on := laneOn src.pred w l
    let z := fun (op : VOp) => sext w (elem w l (vexec op ty sat imm src).1)
    (on = false → ∀ op, op = .vadd ∨ op = .vsub ∨ op = .vmul ∨ op = .vmin ∨ op = .vmax ∨ op = .vabs ∨ op = .vaddi ∨ op = .vmovi ∨ op = .vshla →
      elem w l (vexec op ty sat imm src).1 = elem w l src.old) ∧
    (on = true → z .vadd = fit w sat (u + v) ∧ z .vsub = fit w sat (u - v) ∧ z .vmul = fit w sat (u * v) ∧ z .vmin = min u v ∧ z .vmax = max u v ∧
      z .vabs = fit w sat u.natAbs ∧ z .vaddi = fit w sat (u + sext 24 imm) ∧ z .vmovi = fit w sat (sext 24 imm) ∧
      z .vshl = fit w sat (u * 2 ^ (elem w l src.b % w)) ∧ z .vshla = fit w sat (u * 2 ^ (imm % 64) + v) ∧
      z .vsra = u / 2 ^ (elem w l src.b % w))

/-- Raw lanes (02 R47): bitwise operations, logical shifts, lane numbers, broadcast, insertion, selection, permutation. -/
def Obligations.BitwiseLanes : Prop :=
  ∀ (ty : EType) (sat : Bool) (imm : Nat) (src : VSrc) (l : Nat), l < laneCount ty → laneOn src.pred ty.laneWidth l = true →
    let w := ty.laneWidth
    let u := elem w l src.a
    let v := elem w l src.b
    let z := fun (op : VOp) => elem w l (vexec op ty sat imm src).1
    z .vand = u &&& v ∧ z .vor = u ||| v ∧ z .vxor = u ^^^ v ∧ z .vshr = u / 2 ^ (v % w) ∧ z .vshri = u / 2 ^ (imm % 64) ∧
    z .vlane = l ∧ z .vbcst = src.g.toNat % 2 ^ w ∧ z .vins = (if l = imm % 64 then src.g.toNat % 2 ^ w else elem w l src.old) ∧
    z .vsel = (if laneOn src.sel w l = true then u else v) ∧ z .vperm = elem w (v % laneCount ty) src.a

/-- The tensor slot (02 R48–R50): TFILL, and TMMA over integer types, element by element. -/
def Obligations.TensorResults : Prop :=
  ∀ (c : Instr) (op : TOp) (il : IsletId) (a : TArgs) (r : Rest) (s0 : State), TensorRow c op il a r → Fetches s0 il.val →
    let s := fetched s0 il.val
    Ready s il.val (bundleT op a r) → (s.islet il.val).predOn a.pred = true →
    let x := s.islet il.val
    let y := (issued s il.val (bundleT op a r)).islet il.val
    exec c s0 = .next (goesOn s il.val (bundleT op a r)) ∧
    (op = .tfill → ∀ e < 64, sext 32 (nthD 0 (y.tr a.td.toNat) e) = sext 26 a.imm.toNat) ∧
    (op = .tmma → ∀ ty, EType.ofCode a.etype.toNat = some ty → ty = .i8 ∨ ty = .i4 → ∀ i < 8, ∀ j < 8,
      let k := tmmaK ty
      let w := 64 / k
      sext 32 (nthD 0 (y.tr a.td.toNat) (8 * i + j)) = fit 32 a.sat
        ((if a.acc = 1 then 0 else sext 32 (nthD 0 (x.tr a.td.toNat) (8 * i + j))) +
          ((List.range k).map fun m => sext w (elem w (i * k + m) (x.vr a.va.toNat)) * sext w (elem w (m * 8 + j) (x.vr a.vb.toNat))).sum)) ∧
    (op = .nop → ∀ n < 8, keyT n ∉ (bundleT op a r).dests (x.active (bundleT op a r)) → y.tr n = x.tr n)

/-- The buoy operations (02 R56): the buoy they name, what they leave in it, what they answer in g[rd]; no other buoy changes. -/
def Obligations.BuoyOperations : Prop :=
  ∀ (c : Instr) (op : TOp) (il : IsletId) (a : BArgs) (r : Rest) (s0 : State), BuoyRow c op il a r → Fetches s0 il.val →
    let s := fetched s0 il.val
    Ready s il.val (bundleB op a r) → (s.islet il.val).predOn a.pred = true →
    let x := s.islet il.val
    let t := issued s il.val (bundleB op a r)
    let y := t.islet il.val
    let n := ((x.gr a.rb.toNat).toNat + a.imm.toNat) % 65536
    let b := s.buoy n
    let full := b.participants ≤ b.arrivals + 1
    let g := fun (v : Nat) => if a.rd.toNat = 0 then (0 : Word64) else BitVec.ofNat 64 v
    exec c s0 = .next (goesOn s il.val (bundleB op a r)) ∧
    (op = .bsig → t.buoy n = { b with value := (b.value + (x.gr a.rs.toNat).toNat % 2 ^ 32) % 2 ^ 32, lastSignaller := il.val }) ∧
    (op = .bset → t.buoy n = { b with value := (x.gr a.rs.toNat).toNat % 2 ^ 32, lastSignaller := il.val }) ∧
    (op = .bwait → (b.value + 2 ^ 32 - (x.gr a.rs.toNat).toNat % 2 ^ 32) % 2 ^ 32 < 2 ^ 31 ∧ (t.buoy n).value = b.value ∧
      y.gr a.rd.toNat = g b.value) ∧
    (op = .barr → (t.buoy n).arrivals = 0 ∧ (t.buoy n).value = (b.value + 1) % 2 ^ 32 ∧ (t.buoy n).lastSignaller = il.val ∧ full ∧
      y.gr a.rd.toNat = g ((b.value + 1) % 2 ^ 32)) ∧
    (op = .barv → (t.buoy n).lastSignaller = il.val ∧ (full → (t.buoy n).arrivals = 0 ∧ (t.buoy n).value = (b.value + 1) % 2 ^ 32) ∧
      (¬ full → (t.buoy n).arrivals = b.arrivals + 1 ∧ (t.buoy n).value = b.value) ∧ y.gr a.rd.toNat = g b.value) ∧
    (op = .bpoll → t.buoy n = b ∧ y.gr a.rd.toNat = g b.value) ∧
    (∀ m, m ≠ n → t.buoy m = s.buoy m)

/-- The frame of a bundle (02 R32–R35): only the destinations its running slots name change. The fetch before it (R64) fills the
instruction cache and touches an object (05 R138, R148), no more. -/
def Obligations.BundleFrame : Prop :=
  ∀ (c : Instr) (il : IsletId) (b : Bundle) (s0 : State), IssuesBundle c il b → Fetches s0 il.val →
    let s := fetched s0 il.val
    Ready s il.val b →
    let x := s.islet il.val
    let a := x.active b
    let t := issued s il.val b
    let y := t.islet il.val
    exec c s0 = .next (goesOn s il.val b) ∧
    (∀ n < 32, keyG n ∉ b.dests a ∨ n = 0 → y.gr n = x.gr n) ∧ (∀ n < 32, keyV n ∉ b.dests a → y.vr n = x.vr n) ∧
    (∀ n < 8, keyT n ∉ b.dests a → y.tr n = x.tr n) ∧ (∀ n < 8, keyP n ∉ b.dests a ∨ n = 0 → y.pr n = x.pr n) ∧
    (a.s0 = false ∨ b.s0.op ≠ .mtc ∧ b.s0.op ≠ .loop ∧ b.s0.op ≠ .eret ∧ b.s0.op ≠ .trap → ¬ atLoopEnd x →
      (∀ k, k ≠ 10 → y.craw k = x.craw k) ∧ y.inHandler = x.inHandler ∧ y.loopActive = x.loopActive) ∧
    (∀ j, j ≠ il.val → t.islet j = s.islet j) ∧
    (¬ OwnStore s il.val b → ∀ p, t.byte p = s.byte p) ∧
    (a.t = false → ∀ n, t.buoy n = s.buoy n) ∧
    (a.m = false → ∃ is bs fc us cs, t = { s with islets := is, buoys := bs, freeCount := fc, units := us, csr := cs } ∧
      (¬ (a.s0 = true ∧ b.s0.op = .trap) → us = s.units ∧ cs = s.csr) ∧
      ∀ o, o ≠ R.NET_ISLET_HALTS → o ≠ R.NET_LAST_FAULT → t.reg o = s.reg o) ∧
    (∃ f ic bad, s.islet il.val = { s0.islet il.val with fetching := f, icache := ic, icacheBad := bad }) ∧
    (∀ j, j ≠ il.val → s.islet j = s0.islet j) ∧
    (∃ is os th hs n, s = { s0 with islets := is, place := { s0.place with objs := os, touches := th, hits := hs, bytes := n } }) ∧
    ((s0.islet il.val).cached = true → s = s0)

/-- ILLEGAL_OPCODE and ILLEGAL_BUNDLE (02 R33, R34, R60, R61): cause, secondary code, EPC, the handler; no other architectural effect. -/
def Obligations.IllegalBundles : Prop :=
  ∀ (c : Instr) (il : IsletId) (b : Bundle) (s : State) (k : Nat), IssuesBundle c il b → Fetches s il.val →
    s.canIssue il.val = true → (s.islet il.val).held = none → (s.islet il.val).atBreak = false →
    (s.islet il.val).inHandler = false → (s.islet il.val).craw 6 ≠ 0 → (s.islet il.val).stepping = false →
    b.illegal = some k ∨ (b.illegal = none ∧ b.conflict = some k) →
    let x := s.islet il.val
    ∃ u : State, exec c s = .next u.settle ∧ (u.islet il.val).craw 2 = BitVec.ofNat 64 x.pc ∧
      (u.islet il.val).craw 3 = (if b.illegal = some k then 1 else 2) ∧ (u.islet il.val).craw 5 = BitVec.ofNat 64 k ∧
      (u.islet il.val).inHandler = true ∧ (u.islet il.val).pc = (x.craw 6).toNat % 2 ^ 48 ∧
      (∀ n, (u.islet il.val).gr n = x.gr n ∧ (u.islet il.val).vr n = x.vr n ∧ (u.islet il.val).tr n = x.tr n ∧ (u.islet il.val).pr n = x.pr n) ∧
      (∀ p, u.byte p = s.byte p) ∧ (∀ n, u.buoy n = s.buoy n) ∧ u.csr = s.csr ∧ u.out = s.out

/-- ALIGN of a data access (02 R41, R60, R61). -/
def Obligations.MisalignedAccess : Prop :=
  ∀ (c : Instr) (op : MOp) (il : IsletId) (a : MArgs) (r : Rest) (s : State), LoadStoreRow c op il a r → op.isLoad = true ∨ op.isStore = true →
    let b := bundleM op a r
    let x := s.islet il.val
    Fetches s il.val → s.canIssue il.val = true → x.held = none → x.atBreak = false → b.illegal = none → b.conflict = none → x.loads = [] →
    x.predOn a.pred = true → ((x.active b).s0 = false ∨ b.s0.op ≠ .jr ∧ b.s0.op ≠ .callr) →
    x.inHandler = false → x.craw 6 ≠ 0 → x.stepping = false → x.ea ⟨op, a⟩ % 2 ^ (⟨op, a⟩ : MIns).log2w ≠ 0 →
    ∃ u : State, exec c s = .next u.settle ∧ (u.islet il.val).craw 2 = BitVec.ofNat 64 x.pc ∧ (u.islet il.val).craw 3 = 3 ∧
      (u.islet il.val).craw 4 = BitVec.ofNat 64 (x.ea ⟨op, a⟩) ∧ (u.islet il.val).craw 5 = 0 ∧ (u.islet il.val).pc = (x.craw 6).toNat % 2 ^ 48 ∧
      (∀ n, (u.islet il.val).gr n = x.gr n ∧ (u.islet il.val).vr n = x.vr n ∧ (u.islet il.val).tr n = x.tr n ∧ (u.islet il.val).pr n = x.pr n) ∧
      ∀ p, u.byte p = s.byte p

/-- Where nothing waits for a credit (05 R141), no invocation runs (04 R95) or no bundle is held (02 R32), nothing follows a command. -/
def Obligations.SettleQuiet : Prop :=
  (∀ s : State, s.place.waiters = [] → (∀ n, (s.nslot n).inv = none) → s.settle = s) ∧
  (∀ (s : State) (i : Nat), s.place.waiters = [] → (s.islet i).held = none → s.freed i = s) ∧
  ∀ (s : State) (t : Nat), s.place.granted = [] → s.serveOutside t = s

/-- The end of a queued load (02 R43, R52, R62), before what its freed places bring. -/
def Obligations.LoadReturns : Prop :=
  ∀ (il : IsletId) (k cyc : Nat) (err : Option Byte) (data : Option (List Byte)) (s : State) (l : QLoad), s.asleep = false →
    (s.islet il.val).loads[k]? = some l → s.isPeer il.val l.addr = false →
    ((s.islet il.val).olderLoad l = true → exec (.loadReturn il k cyc err data) s = .next (s.settle.serveOutside s.tb3)) ∧
    ((s.islet il.val).olderLoad l = false → l.err ≠ 0 ∨ err.isSome = true ∨ s.notLoaded il.val l.loc = false →
    let s0 := s.isletAt il.val cyc
    let x := s.islet il.val
    let clean := s0.isletCode il.val l.loc l.bytes true
    let code := if l.err ≠ 0 then l.err else
      match err with
      | some e => if 0x10 ≤ e.toNat then e.toNat else clean
      | none => clean
    let raw := ofLe (overlay x.stores l.seq l.loc (s0.loadBytes il.val l (if l.err ≠ 0 then none else data)))
    ∃ u : State, exec (.loadReturn il k cyc err data) s = .next ((u.freed il.val).settle.serveOutside s.tb3) ∧
      let y := u.islet il.val
      y.loads = x.loads.filter (fun q => q.seq ≠ l.seq) ∧ y.stores = x.stores ∧ y.tows = x.tows ∧ y.cycle = max x.cycle cyc ∧ y.pc = x.pc ∧
      (code < 0x10 → (l.op = .ld ∨ l.op = .ldu → l.reg ≠ 0 → y.gr l.reg = loadG l.op l.size raw) ∧
        (l.op = .vld ∨ l.op = .vlds → y.vr l.reg = loadV l.op l.size raw) ∧ ∀ e, (l.op.destKey l.reg, e) ∉ y.poison) ∧
      (0x10 ≤ code → (∀ n, y.gr n = x.gr n ∧ y.vr n = x.vr n) ∧ (l.op.destKey l.reg, ⟨l.seq, l.addr, code⟩) ∈ y.poison) ∧
      (∀ n, n ≠ l.reg → y.gr n = x.gr n ∧ y.vr n = x.vr n) ∧ (∀ n, y.pr n = x.pr n ∧ y.tr n = x.tr n ∧ y.craw n = x.craw n) ∧
      (∀ p, u.byte p = s.byte p) ∧ (∀ n, u.buoy n = s.buoy n) ∧ u.out = s.out ∧ ∀ j, j ≠ il.val → u.islet j = s.islet j)

/-- The end of a posted store (02 R43, R52, R62), before what its freed places bring. -/
def Obligations.StoresPerformed : Prop :=
  ∀ (il : IsletId) (k cyc : Nat) (err : Option Byte) (s : State) (q : QStore), s.asleep = false →
    (s.islet il.val).stores[k]? = some q → q.sent = false → s.isPeer il.val q.addr = false →
    (∀ l ∈ (s.islet il.val).loads, l.seq < q.seq → overlap l.loc l.bytes q.loc q.bytes.length = false) →
    (∀ r ∈ (s.islet il.val).stores, r.seq < q.seq → overlap r.loc r.bytes.length q.loc q.bytes.length = false) →
    q.err ≠ 0 ∨ (s.notLoaded il.val q.loc = false ∧ s.inTransfer q.loc q.bytes.length = false) →
    let x := s.islet il.val
    let code := if q.err ≠ 0 then q.err else
      match err with
      | some e => if 0x10 ≤ e.toNat then e.toNat else ccOk
      | none => (s.isletAt il.val cyc).isletCode il.val q.loc q.bytes.length false
    let at_ := devAddr il.val q.loc
    let host := s.target il.val q.addr = .hostWin
    ∃ u : State, exec (.storePerformed il k cyc err) s = .next ((u.freed il.val).settle.serveOutside s.tb3) ∧
      let y := u.islet il.val
      y.stores = x.stores.filter (fun r => r.seq ≠ q.seq) ∧ y.loads = x.loads ∧ y.cycle = max x.cycle cyc ∧
      (∀ n, y.gr n = x.gr n ∧ y.vr n = x.vr n ∧ y.tr n = x.tr n ∧ y.pr n = x.pr n) ∧
      (code < 0x10 ∧ ¬ host → u.out = s.out ∧ (∀ j < q.bytes.length, u.byte (at_ + j) = nthD 0 q.bytes j) ∧
        ∀ p, p < at_ ∨ at_ + q.bytes.length ≤ p → u.byte p = s.byte p) ∧
      (code < 0x10 ∧ host → u.out = s.out ++ [.hostWrite (q.addr - 0x80000000000) q.bytes] ∧ ∀ p, u.byte p = s.byte p) ∧
      (0x10 ≤ code → y.storeErrs = x.storeErrs ++ [⟨q.seq, q.addr, code⟩] ∧ u.out = s.out ∧ ∀ p, u.byte p = s.byte p) ∧
      ∀ j, j ≠ il.val → u.islet j = s.islet j

/-- The end of a tow (02 R44), before what its freed places bring. -/
def Obligations.TowsComplete : Prop :=
  ∀ (il : IsletId) (k : Fin 8) (cyc : Nat) (err : Option Byte) (data : Option (List Byte)) (s : State), s.asleep = false →
    let x := s.islet il.val
    let w := x.tow k.val
    w.busy = true → s.isPeer il.val w.far = false →
    w.lost ≠ 0 ∨ (s.notLoaded il.val w.loc = false ∧ (w.isIn = true ∨ s.inTransfer w.loc w.len = false)) →
    let s0 := s.isletAt il.val cyc
    let first := s0.isletCode il.val w.loc w.len w.isIn
    let code := if w.lost ≠ 0 then w.lost else
      match err with
      | some e => if 0x10 ≤ e.toNat then e.toNat else ccOk
      | none => if first = ccOk then s0.isletCode il.val (w.loc + w.len - 64) 64 w.isIn else first
    let got := if w.lost ≠ 0 then none else data
    let near := sliverBase il.val + w.off
    let far := devAddr il.val w.loc
    let host := s.target il.val w.far = .hostWin
    ∃ u : State, exec (.towComplete il k cyc err data) s = .next ((u.freed il.val).settle.serveOutside s.tb3) ∧
      let y := u.islet il.val
      (y.tow k.val).busy = false ∧ (y.tow k.val).err = decide (0x10 ≤ code) ∧ (y.tow k.val).code = (if 0x10 ≤ code then code else 0) ∧
      (∀ j, j ≠ k.val → y.tow j = x.tow j) ∧ y.loads = x.loads ∧ y.stores = x.stores ∧ y.cycle = max x.cycle cyc ∧
      (∀ n, y.gr n = x.gr n ∧ y.vr n = x.vr n) ∧
      (code < 0x10 → w.isIn = true → got = none → u.out = s.out ∧ (∀ j < w.len, u.byte (near + j) = s.byte (far + j)) ∧
        ∀ p, p < near ∨ near + w.len ≤ p → u.byte p = s.byte p) ∧
      (code < 0x10 → w.isIn = true → ∀ d, got = some d → (∀ j < min w.len d.length, u.byte (near + j) = nthD 0 d j) ∧
        ∀ p, p < near ∨ near + w.len ≤ p → u.byte p = s.byte p) ∧
      (code < 0x10 → w.isIn = false → ¬ host → u.out = s.out ∧ (∀ j < w.len, u.byte (far + j) = s.byte (near + j)) ∧
        ∀ p, p < far ∨ far + w.len ≤ p → u.byte p = s.byte p) ∧
      (code < 0x10 → w.isIn = false → host → u.out = s.out ++ [.hostWrite (w.far - 0x80000000000) (s.bytes near w.len)] ∧ ∀ p, u.byte p = s.byte p) ∧
      (0x10 ≤ code → u.out = s.out ∧ ∀ p, u.byte p = s.byte p)

/-- 02 R59. The bundle is held on buoy `n` since cycle `h.since`; its operands are readable, its other slots can run (R32). -/
def Obligations.BuoyTimeouts : Prop :=
  (∀ (il : IsletId) (s : State) (h : Held) (n : Nat), s.asleep = false →
    let x := s.islet il.val
    let b := h.bundle
    let a := x.active b
    let tmo := (x.craw 11).toNat % 2 ^ 32
    let v : Word64 := BitVec.ofNat 64 (2 ^ 63 + (s.buoy n).value)
    x.held = some h → h.buoy = some n → tmo ≠ 0 → a.t = true → b.t.op = .bwait ∨ b.t.op = .barr → (s.buoy n).value < 2 ^ 32 →
    b.illegal = none → b.conflict = none → x.loadPending b.predKeys = false → x.loadPending (b.srcs a ++ b.dests a) = false →
    h.barrPhase.isSome = true ∨ (s.slotExn il.val b a = none ∧ (a.m && s.mFull il.val b.m) = false ∧ x.mustDrain b a = false ∧
      (a.m && s.mNoCredit il.val b.m) = false ∧ x.dueErrs b a = [] ∧ (s.watched il.val b a = true → x.passBp = true)) →
    let h1 : Held := { h with done := some v }
    let s1 := s.setIslet il.val { x with cycle := max x.cycle (h.since + tmo), held := some h1 }
    let r := s1.complete il.val b a ((s1.islet il.val).issueCycle b a) v
    exec (.buoyWaitTimeout il) s = .next (wakeOf r).settle ∧ (r.1.islet il.val).held = none ∧ h.since + tmo ≤ (r.1.islet il.val).cycle ∧
    (r.1.islet il.val).gr b.t.b.rd.toNat = (if b.t.b.rd.toNat = 0 then 0 else v) ∧ v.getLsbD 63 = true ∧ v.toNat % 2 ^ 63 = (s.buoy n).value ∧
    (∀ m, r.1.buoy m = { s.buoy m with waiting := (r.1.buoy m).waiting })) ∧
  (∀ (c : Instr) (op : TOp) (il : IsletId) (a : BArgs) (r : Rest) (s0 : State), BuoyRow c op il a r → op = .bwait ∨ op = .barr →
    let s := fetched s0 il.val
    Ready s il.val (bundleB op a r) → (s.islet il.val).predOn a.pred = true →
    (s.buoy ((((s.islet il.val).gr a.rb.toNat).toNat + a.imm.toNat) % 65536)).value < 2 ^ 32 →
    (((issued s il.val (bundleB op a r)).islet il.val).gr a.rd.toNat).getLsbD 63 = false)

/-- 02 R55, R57, R58, 04 R111: the registers of a buoy on which no Islet waits; the mode also where Islets wait. -/
def Obligations.BuoyRegisterWrites : Prop :=
  ∀ (m : Master) (n : Fin 65536) (v : Word32) (s : State), s.asleep = false →
    let b := s.buoy n.val
    let may := m = .chain ∨ b.owner = 0xFF ∨ b.owner = 0xFE
    let done := v.toNat % 65536 ≠ 0 ∧ b.barrier = true ∧ v.toNat % 65536 ≤ b.arrivals
    ∃ u1 u2 u3, exec (.buoyCtlWrite m n v) s = .next u1 ∧ exec (.buoyValueWrite m n v) s = .next u2.settle ∧
      exec (.buoyParticipantsWrite m n v) s = .next u3.settle ∧
      (¬ may → u1 = s ∧ u2 = s ∧ u3 = s) ∧
      (may → (u1.buoy n.val).owner = v.toNat / 2 ^ 24 ∧ (u1.buoy n.val).barrier = (if b.waiting = [] then v.getLsbD 16 else b.barrier) ∧
        (u1.buoy n.val).value = b.value ∧ (u1.buoy n.val).arrivals = b.arrivals ∧ (u1.buoy n.val).participants = b.participants) ∧
      (may → b.waiting = [] → u2.buoy n.val = { b with value := v.toNat, lastSignaller := 0xFFF }) ∧
      (may → b.waiting = [] → (u3.buoy n.val).participants = v.toNat % 65536 ∧ (u3.buoy n.val).arrivals = (if done then 0 else b.arrivals) ∧
        (u3.buoy n.val).value = (if done then (b.value + 1) % 2 ^ 32 else b.value)) ∧
      (b.waiting = [] → ∀ k, k ≠ n.val → u1.buoy k = s.buoy k ∧ u2.buoy k = s.buoy k ∧ u3.buoy k = s.buoy k) ∧
      (b.waiting = [] → ∀ u, u = u1 ∨ u = u2 ∨ u = u3 → u.csr = s.csr ∧ u.mem = s.mem ∧ u.islets = s.islets ∧ u.out = s.out)

/-- DBG_HALT, DBG_RESUME and DBG_STEP (02 R65, R67, R68). The state a step starts from is the model's `stepped`: out of the halt for one bundle. -/
def Obligations.DebugWindow : Prop :=
  ∀ (il : IsletId) (s : State), s.asleep = false →
    let x := s.islet il.val
    let s1 := s.stepped il.val
    let f := fetched s1 il.val
    let b := decodeRest (splitBundle (s1.fetch il.val).1)
    (s.dev.state ≠ .test → exec (.dbgHalt il) s = .next s ∧ exec (.dbgResume il) s = .next s ∧ exec (.dbgStep il) s = .next s) ∧
    (s.dev.state = .test →
      (x.halted = true → exec (.dbgHalt il) s = .next s) ∧
      (x.halted = false → (∀ h, x.held = some h → h.barrPhase = none) → ∃ u : State, exec (.dbgHalt il) s = .next u ∧
        u.islet il.val = { x with held := none, halted := true, haltCause := 1, stepping := false } ∧ u.mem = s.mem ∧ u.csr = s.csr ∧ u.out = s.out ∧
        (∀ n, u.buoy n = { s.buoy n with waiting := (u.buoy n).waiting }) ∧
        (∀ n, (u.buoy n).waiting ≠ (s.buoy n).waiting → (u.buoy n).waiting = (s.buoy n).waiting.filter (fun j => j ≠ il.val)) ∧
        ∀ j, j ≠ il.val → u.islet j = s.islet j) ∧
      (∀ h, x.halted = false → x.held = some h → h.barrPhase.isSome = true →
        exec (.dbgHalt il) s = .next (s.setIslet il.val { x with haltReq := true })) ∧
      exec (.dbgResume il) s = .next (s.setIslet il.val { x with halted := false, haltCause := 0, haltReq := false }) ∧
      (x.halted = false ∨ x.idle = true → exec (.dbgStep il) s = .next s.settle) ∧
      (x.halted = true → x.idle = false → Fetches s1 il.val → Ready f il.val b →
        exec (.dbgStep il) s = .next (goesOn f il.val b) ∧ ((issued f il.val b).islet il.val).retired = x.retired + 1 ∧
        ((issued f il.val b).islet il.val).halted = true ∧ ((issued f il.val b).islet il.val).stepping = false ∧
        (x.haltReq = false → ¬ (((f.islet il.val).active b).s0 = true ∧ b.s0.op = .trap) → ((issued f il.val b).islet il.val).haltCause = 4)) ∧
      (∀ e, x.halted = true → x.idle = false → s1.canIssue il.val = true → x.held = none → s1.fetchWaits il.val = false →
        s1.fetchExn il.val = some e → x.inHandler = false → x.craw 6 ≠ 0 →
        ∃ u : State, exec (.dbgStep il) s = .next u.settle ∧ (u.islet il.val).halted = true ∧ (u.islet il.val).haltCause = 4 ∧
          (u.islet il.val).stepping = false ∧ (u.islet il.val).craw 2 = BitVec.ofNat 64 x.pc ∧
          (u.islet il.val).craw 3 = BitVec.ofNat 64 e.cause ∧ (u.islet il.val).craw 5 = BitVec.ofNat 64 e.code2 ∧
          (u.islet il.val).inHandler = true ∧ (u.islet il.val).pc = (x.craw 6).toNat % 2 ^ 48 ∧
          ∀ n, (u.islet il.val).gr n = x.gr n ∧ (u.islet il.val).vr n = x.vr n ∧ (u.islet il.val).tr n = x.tr n ∧ (u.islet il.val).pr n = x.pr n))

/-- A frame over 87 commands: memory, Islets, buoys and the waiting commands stay. -/
def Obligations.RemoteFrame : Prop :=
  ∀ (c : Instr) (s : State), Remote c → ∃ t : State, exec c s = .next t ∧ Apart s t ∧ t.pending = s.pending ∧ s.out <+: t.out

/-- 16 R422, 13 R370 as the model reads them (log entry 84). -/
def Obligations.AsleepDeaf : Prop := ∀ (c : Instr) (s : State), s.asleep = true → ¬ Awake c → exec c s = .next s

/-- 00 R7. -/
def Obligations.OddAccess : Prop :=
  ∀ s : State, s.asleep = false →
    exec (.csrOddAccess false) s = .next s ∧ exec (.csrOddAccess true) s = .next { s with out := s.out ++ [.value 0] } ∧
    ∀ (m : Master) (o : BitVec 28) (v : Word32) (t : Nat), o.toNat % 4 ≠ 0 → exec (.registerWrite m o v t) s = .next { s with tb3 := max s.tb3 t }

/-- 00 R8, R10, R11, R466: the bits of a field, of a bit without field, and the relations. -/
def Obligations.RegisterFields : Prop :=
  ∀ (o : Nat) (old v : Word32),
    let z := (csrAfterWrite o old v).toNat
    (∀ f ∈ csrFields o, f.lo ≤ f.hi → f.hi < 32 → (∀ g ∈ csrFields o, g ≠ f → g.hi < f.lo ∨ f.hi < g.lo) → (∀ g ∈ csrFields o, g.lo ≤ g.hi ∧ g.hi < 32) →
      (∀ r ∈ relations, r.1.holds o = false) →
      (f.acc = .rw → bitsOf z f.hi f.lo = if f.legal.ok (bitsOf v.toNat f.hi f.lo) then bitsOf v.toNat f.hi f.lo else bitsOf old.toNat f.hi f.lo) ∧
      (f.acc = .ro ∨ f.acc = .w1s ∨ f.acc = .wo → bitsOf z f.hi f.lo = bitsOf old.toNat f.hi f.lo) ∧
      (f.acc = .w1c → ∀ b, f.lo ≤ b → b ≤ f.hi → bitOf z b = (bitOf old.toNat b && !bitOf v.toNat b))) ∧
    (∀ b < 32, (∀ f ∈ csrFields o, f.lo ≤ f.hi ∧ f.hi < 32 ∧ (b < f.lo ∨ f.hi < b)) → (∀ r ∈ relations, r.1.holds o = false) →
      bitOf z b = bitOf old.toNat b) ∧
    (keepsRelation o old.toNat = true → keepsRelation o z = true)

/-- 00 R8, R12, 12 R349. What messages already received lead to follows (`drainAll`); without one nothing does. -/
def Obligations.RegisterWrites : Prop :=
  ∀ (m : Master) (o : BitVec 28) (v : Word32) (t : Nat) (s : State), s.asleep = false →
    (PlainReg o.toNat → ∃ u : State, exec (.registerWrite m o v t) s = .next (u.drainAll t) ∧ (s.chain.rxq = [] → u.drainAll t = u) ∧
      u.reg o.toNat = (csrAfterWrite o.toNat (BitVec.ofNat 32 (s.reg o.toNat)) v).toNat ∧ (∀ p, p ≠ o.toNat → u.reg p = s.reg p) ∧
      (∀ p, u.cfgReg p = s.cfgReg p) ∧ u.tb3 = max s.tb3 t ∧ u.out = s.out ∧ u.mem = s.mem ∧ u.islets = s.islets ∧ u.buoys = s.buoys ∧
      u.dev = s.dev) ∧
    (o.toNat = R.GLB_CMD_ARG_LO → ∃ u : State, exec (.registerWrite m o v t) s = .next (u.drainAll t) ∧ (u.bank m).argLo = v ∧
      (u.bank m).argHi = (s.bank m).argHi ∧ (u.bank m).cmd = (s.bank m).cmd ∧ ∀ k, k ≠ m → u.bank k = s.bank k) ∧
    (o.toNat = R.GLB_CMD_ARG_HI → ∃ u : State, exec (.registerWrite m o v t) s = .next (u.drainAll t) ∧ (u.bank m).argHi = v ∧
      (u.bank m).argLo = (s.bank m).argLo ∧ (u.bank m).cmd = (s.bank m).cmd ∧ ∀ k, k ≠ m → u.bank k = s.bank k)

/-- 15 R412; `meets` are the sources of the register that have an event in the cycle of the write. -/
def Obligations.PendingAndCounts : Prop :=
  ∀ s : State, s.asleep = false →
    (∀ (k : Fin 16) (v : Word32) (meets : List (Fin 32)), ∃ t : State, exec (.intcPendWrite k v meets) s = .next t ∧
      (∀ b : Fin 32, t.srcBit R.INTC_PEND (32 * k.val + b.val) =
        ((decide (b ∈ meets) && sourceExists (32 * k.val + b.val)) || (s.srcBit R.INTC_PEND (32 * k.val + b.val) && !bitOf v.toNat b.val))) ∧
      (∀ j : Fin 16, j ≠ k → t.reg (R.INTC_PEND + 4 * j.val) = s.reg (R.INTC_PEND + 4 * j.val)) ∧ (meets = [] → t.out = s.out)) ∧
    (∀ (k : Fin 16) (v : Word32) (b : Fin 32), let n := 32 * k.val + b.val
      let o := R.INTC_ROUTE + 4 * n
      let e := s.fld o R.INTC_ROUTE_vector
      sourceExists n = true → s.srcBit R.INTC_MASK n = false → s.fld o R.INTC_ROUTE_msix_en = 1 → s.fld o R.INTC_ROUTE_chain_en = 0 →
      s.vectorOpen e = true → ∃ t : State, exec (.intcPendWrite k v [b]) s = .next t ∧
        t.out = if s.srcBit R.INTC_PEND n = true ∧ bitOf v.toNat b.val = false then s.out
          else s.out ++ [.msix e (s.reg64 (R.MSIX + 16 * e)) (s.reg (R.MSIX + 16 * e + 8))]) ∧
    (∀ (n : Fin 512) (v : Word32) (meets : Bool), ∃ t : State, exec (.intcCountWrite n v meets) s = .next t ∧
      t.reg (R.INTC_COUNT + 4 * n.val) = (if meets = true ∧ sourceExists n.val = true then min ((if v = 0 then 0 else s.reg (R.INTC_COUNT + 4 * n.val)) + 1) 255
        else if v = 0 then 0 else s.reg (R.INTC_COUNT + 4 * n.val)) ∧
      (meets = true → sourceExists n.val = true → t.srcBit R.INTC_PEND n.val = true) ∧
      (meets = false → t.out = s.out ∧ ∀ p, p ≠ R.INTC_COUNT + 4 * n.val → t.reg p = s.reg p))

/-- 15 R410, R411, R413–R415. -/
def Obligations.MasksAndSources : Prop :=
  ∀ s : State, s.asleep = false →
    (∀ (k : Fin 16) (v : Word32), ∃ t : State, exec (.intcMaskWrite k v []) s = .next t ∧ t.reg (R.INTC_MASK + 4 * k.val) = v.toNat ∧
      (∀ j : Fin 16, t.reg (R.INTC_PEND + 4 * j.val) = s.reg (R.INTC_PEND + 4 * j.val) ∧
        (j ≠ k → t.reg (R.INTC_MASK + 4 * j.val) = s.reg (R.INTC_MASK + 4 * j.val))) ∧
      (∀ b < 32, let n := 32 * k.val + b
        let e := s.fld (R.INTC_ROUTE + 4 * n) R.INTC_ROUTE_vector
        s.srcBit R.INTC_MASK n = true → bitOf v.toNat b = false → s.srcBit R.INTC_PEND n = true → s.fld (R.INTC_ROUTE + 4 * n) R.INTC_ROUTE_msix_en = 1 →
        s.vectorOpen e = true → Out.msix e (s.reg64 (R.MSIX + 16 * e)) (s.reg (R.MSIX + 16 * e + 8)) ∈ t.out) ∧
      ((∀ b < 32, s.srcBit R.INTC_PEND (32 * k.val + b) = false ∨ bitOf v.toNat b = true) → t.out = s.out)) ∧
    (∀ v : Word32, ∃ t : State, exec (.intcSoft v) s = .next t ∧ ∀ n < 512, let up := 496 ≤ n ∧ bitOf v.toNat (n - 496) = true
      t.srcBit R.INTC_PEND n = (decide up || s.srcBit R.INTC_PEND n) ∧
      t.reg (R.INTC_COUNT + 4 * n) = (if up then min (s.reg (R.INTC_COUNT + 4 * n) + 1) 255 else s.reg (R.INTC_COUNT + 4 * n))) ∧
    (∀ n : Fin 512, ∃ t : State, exec (.levelDeassert n) s = .next t ∧ (levelSource n.val = false → t = s) ∧
      (levelSource n.val = true → t.srcBit R.INTC_LEVEL n.val = false) ∧ (∀ k < 512, k ≠ n.val → t.srcBit R.INTC_LEVEL k = s.srcBit R.INTC_LEVEL k) ∧
      (∀ p, p < R.INTC_LEVEL ∨ R.INTC_LEVEL + 64 ≤ p → t.reg p = s.reg p) ∧ t.out = s.out)

/-- 12 R359, R360; the ring's own source comes after the writes. -/
def Obligations.RingEntries : Prop :=
  ∀ (s : State) (kind a b c d : Nat), let q := s.reg64 (R.CFG_RING_SEQ_LO + 0x20)
    let t := s.eventEntry kind a b c d
    let at_ := s.ringBase 1 + ((q - 1) % 2 ^ s.ringLog 1) * 32
    let body := record 32 [(8, 8, s.tb0), (0x10, 8, s.dev.epoch), (0x18, 1, kind), (0x19, 1, a), (0x1A, 1, b), (0x1B, 1, c), (0x1C, 4, d)]
    t.reg64 (R.CFG_RING_SEQ_LO + 0x20) = (q + 1) % 2 ^ 64 ∧
    (s.ringOn 1 = false → t.out = s.out ∧ ∀ p, p ≠ R.CFG_RING_SEQ_LO + 0x20 → p ≠ R.CFG_RING_SEQ_LO + 0x24 → t.reg p = s.reg p) ∧
    (s.ringOn 1 = true → s.canMaster = true →
      s.out ++ [.hostWrite at_ (leBytes 8 0), .hostWrite (at_ + 8) (body.drop 8), .hostWrite at_ (leBytes 8 q)] <+: t.out ∧
      (s.intcRuns = true → t.srcBit R.INTC_PEND 5 = true)) ∧
    (s.ringOn 1 = true → s.canMaster = false → t.reg (R.CFG_RING_ERR + 0x20) = min (s.reg (R.CFG_RING_ERR + 0x20) + 1) (2 ^ 32 - 1))

/-- 12 R349, R350, R354. -/
def Obligations.CommandWrites : Prop :=
  ∀ (c : Instr) (op : Nat) (m : Master) (token : Byte) (t : Nat) (s : State), CommandRow c op m token t → s.asleep = false →
    let b := s.bank m
    let addr := b.argLo.toNat + 2 ^ 32 * b.argHi.toNat
    let takes := op = 0x04 ∨ op = 0x06 ∨ op = 0x08 ∨ op = 0x09 ∨ op = 0x0B
    let word := fun (pending status : Nat) => BitVec.ofNat 32 (token.toNat * 2 ^ 24 + op * 2 ^ 16 + pending * 2 ^ 8 + status)
    ∃ u : State, exec c s = .next u ∧ u.tb3 = max s.tb3 t ∧ (∀ k, k ≠ m → u.bank k = s.bank k) ∧ u.dev.state = s.dev.state ∧ u.dev.jobs = s.dev.jobs ∧
      (s.dev.state = .boot ∨ s.dev.state = .train → u = { s with tb3 := max s.tb3 t }) ∧
      (s.cmdOpen = true → b.cmd.isSome = true → (u.bank m).cmd = b.cmd ∧ (u.bank m).status = word 0 6) ∧
      (s.cmdOpen = true → b.cmd = none → ∃ d : Cmd, (u.bank m).cmd = some d ∧ d.op = op ∧ d.token = token.toNat ∧ d.argAddr = addr ∧
        d.since = max s.tb3 t ∧ d.accepted = false ∧ (u.bank m).status = word 1 0 ∧
        d.arg = (if takes ∧ addr ≠ 0 then (if (m = .host ∧ s.canMaster = true) ∨ (m = .chain ∧ inPlaced addr = true) then .reading else .failed)
          else .notNeeded) ∧
        u.out = (if takes ∧ addr ≠ 0 ∧ m = .host ∧ s.canMaster = true then s.out ++ [.hostRead addr 0x10000] else s.out))

/-- 12 R350, 14 R404. -/
def Obligations.CommandArguments : Prop :=
  (∀ (m : Master) (block : List Byte) (t : Nat) (s : State) (d : Cmd), s.asleep = false → (s.bank m).cmd = some d → d.accepted = false →
    d.arg = .reading →
    let intime := t ≤ d.since + 2000000 ∧ (m = .host → s.canMaster = true)
    ∃ u v, exec (.cmdArgReadDone m block t) s = .next u ∧ exec (.cmdArgReadTimeout m t) s = .next v ∧
      (u.bank m).cmd = some { d with arg := if intime then .done block else .failed } ∧ (v.bank m).cmd = some { d with arg := .failed } ∧
      (u.bank m).status = (s.bank m).status ∧ (v.bank m).status = (s.bank m).status ∧ u.csr = s.csr ∧ v.csr = s.csr ∧ u.out = s.out ∧ v.out = s.out) ∧
  (∀ (m : Master) (block : List Byte) (t : Nat) (s : State), s.asleep = false → (∀ d, (s.bank m).cmd = some d → d.accepted = true ∨ d.arg ≠ .reading) →
    exec (.cmdArgReadDone m block t) s = .next { s with tb3 := max s.tb3 t } ∧ exec (.cmdArgReadTimeout m t) s = .next { s with tb3 := max s.tb3 t }) ∧
  (∀ (m : Master) (token : Byte) (dest : Word64) (n : Word32) (nonce : List Byte) (t : Nat) (s : State), s.asleep = false → s.cmdOpen = true →
    (s.bank m).cmd = none → s.tb3 ≤ t → nonce.length = 64 → let addr := (s.bank m).argLo.toNat + 2 ^ 32 * (s.bank m).argHi.toNat
    addr ≠ 0 → (m = .host → s.canMaster = true) → (m = .chain → inPlaced addr = true) →
    ∀ c : Instr, c = .attestReport m token dest n nonce t ∨ c = .attestEnrol m token dest n nonce t →
      ∃ u : State, exec c s = .next u ∧ ∃ (d : Cmd) (block : List Byte), (u.bank m).cmd = some d ∧ d.op = 0x0A ∧ d.token = token.toNat ∧ d.arg = .done block ∧
        block.length = 128 ∧ leAt block 0 1 = (if c = .attestReport m token dest n nonce t then 1 else 2) ∧ leAt block 8 8 = dest.toNat ∧
        leAt block 0x10 4 = n.toNat ∧ block.drop 64 = nonce ∧ d.accepted = false)

/-- 04 R107, R108. -/
def Obligations.NetReleases : Prop :=
  ∀ (n : Fin 32) (t : Nat) (s : State), s.asleep = false →
    let u := s.nslot n.val
    let o := 0x40 * n.val
    let runs := u.unit.isSome = true ∧ (s.unitState n.val = 2 ∨ s.unitState n.val = 3)
    let turn := (u.count + 1) % u.stretch = 0
    (u.due = [] → exec (.invocationRelease n t) s = .next ({ s with tb3 := max s.tb3 t } : State).settle) ∧
    (∀ r rest, u.due = r :: rest →
      (s.unitRuns n.val = false ∨ ¬ runs → ∃ v : State, exec (.invocationRelease n t) s = .next v.settle ∧ v.nslot n.val = { u with due := rest } ∧ Apart s v ∧
        v.csr = s.csr) ∧
      (s.unitRuns n.val = true → runs → ¬ turn → ∃ v : State, exec (.invocationRelease n t) s = .next v.settle ∧
        v.nslot n.val = { u with count := u.count + 1, due := rest } ∧ Apart s v ∧ v.csr = s.csr) ∧
      (s.unitRuns n.val = true → runs → turn → u.inv.isSome = true → ∃ v : State, exec (.invocationRelease n t) s = .next v.settle ∧
        v.nslot n.val = { u with count := u.count + 1, due := rest, pend := some r, skipped := u.skipped || u.pend.isSome } ∧ Apart s v ∧
        v.reg (R.NET_UNIT_SKIP + o) = (if u.pend.isSome then min (s.reg (R.NET_UNIT_SKIP + o) + 1) (2 ^ 32 - 1) else s.reg (R.NET_UNIT_SKIP + o)) ∧
        ∀ p, p ≠ R.NET_UNIT_SKIP + o → v.reg p = s.reg p) ∧
      (s.unitRuns n.val = true → runs → turn → u.inv = none → ∃ v : State, exec (.invocationRelease n t) s = .next (v.startLayer n.val 0).settle ∧
        let y := v.nslot n.val
        y.seq = u.seq + 1 ∧ y.count = u.count + 1 ∧ y.due = rest ∧ y.pend = u.pend ∧ y.skipped = false ∧ y.unit = u.unit ∧
        v.reg (R.NET_UNIT_INVOKE + o) = (s.reg (R.NET_UNIT_INVOKE + o) + 1) % 2 ^ 32 ∧ v.islets = s.islets ∧ v.buoys = s.buoys ∧
        ∃ i, y.inv = some i ∧ i.seq = u.seq + 1 ∧ i.layer = 0 ∧ i.running = [] ∧ i.tRel = r.tRel ∧ i.epoch = r.epoch ∧ i.mask = r.mask ∧
          i.partialIn = r.partialIn ∧ i.skipped = u.skipped ∧ i.stateReset = u.stateReset ∧ i.inputs = r.inputs ∧ i.fault = none)) ∧
    (u.camSets = [] → exec (.partialInputTimeout n t) s = .next { s with tb3 := max s.tb3 t }) ∧
    (∀ c rest, u.camSets = c :: rest →
      (t < c.since + 2000000 → exec (.partialInputTimeout n t) s = .next { s with tb3 := max s.tb3 t }) ∧
      (c.since + 2000000 ≤ t → runs → s.unitRuns n.val = true → ∃ v : State, exec (.partialInputTimeout n t) s = .next v ∧ v.islets = s.islets ∧
        v.buoys = s.buoys ∧ v.csr = s.csr ∧ (v.nslot n.val).camSets = rest ∧ (v.nslot n.val).inv = u.inv ∧
        ∃ r, (v.nslot n.val).due = u.due ++ [r] ∧ r.partialIn = true ∧ r.mask = (c.frames.map fun f => 2 ^ f.port).sum ∧ r.tRel3 = t ∧
          r.tRel = (s.toBase 0 t).toNat ∧ r.epoch = s.dev.epoch))

/-- 04 R112, R113, 05 R135, R136, R138, R140, before what follows at once (`settle`). -/
def Obligations.WeightRequests : Prop :=
  ∀ (n : Fin 32) (s : State) (x : NUnit), s.asleep = false → (s.nslot n.val).unit = some x →
    (∀ k : Fin 4096, (∀ j ∈ x.layerWeights k.val, ∀ w, x.weights[j]? = some w → ∀ o, s.obj w.obj = some o → o.res ≠ .unloaded ∧ o.tier ≤ x.tierOf j) →
      exec (.weightPrefetch n k) s = .next s.settle) ∧
    (∀ (k : Fin 4096) (j : Nat) (w : Weight) (o : Obj), x.layerWeights k.val = [j] → x.weights[j]? = some w → s.obj w.obj = some o → o.move = none →
      (o.res = .unloaded → pagesOf o.size ≤ s.availIn 3 (s.bestInst 3 o.home x.cls) x.cls → ∃ v m, exec (.weightPrefetch n k) s = .next v.settle ∧
        v.obj w.obj = some { o with want := some (x.tierOf j, n.val), move := some m } ∧ m.toTier = 3 ∧ m.toInst = s.bestInst 3 o.home x.cls ∧
        m.cls = x.cls ∧ m.requester = n.val ∧ Apart s v ∧ ∀ id, id ≠ w.obj → v.obj id = s.obj id) ∧
      (let i := s.bestInst (x.tierOf j) x.isle x.cls
       let credit := s.credFree (o.movePaths { toTier := x.tierOf j, toInst := i, cls := x.cls, requester := n.val }) x.cls
       o.res = .resident → x.tierOf j < o.tier → o.promo = none → o.system = false → o.pinned = false →
        pagesOf o.size ≤ s.availIn (x.tierOf j) i x.cls → ∃ v m, exec (.weightPrefetch n k) s = .next v.settle ∧
          v.obj w.obj = some (if credit then { o with res := .movingUp, move := some m } else { o with promo := some m }) ∧ m.toTier = x.tierOf j ∧
          m.toInst = i ∧ m.cls = x.cls ∧ m.requester = n.val ∧ (credit = true → m.paths ≠ []) ∧ (credit = false → .move w.obj ∈ v.place.waiters) ∧
          Apart s v ∧ ∀ id, id ≠ w.obj → v.obj id = s.obj id)) ∧
    (∀ (t : Nat) (v : Invocation), (s.nslot n.val).inv = some v →
      let waits := ∃ i ∈ v.running, ∃ h, (s.islet i).held = some h ∧ h.buoy = some (x.buoyBase + v.layer)
      let named := fun (id : Nat) => ∃ j ∈ x.layerWeights v.layer, ∃ w, x.weights[j]? = some w ∧ w.obj = id
      ∃ y : State, exec (.weightRaise n t) s = .next y.settle ∧ Apart s y ∧ y.csr = s.csr ∧ (∀ id, ¬ named id → y.obj id = s.obj id) ∧
        (¬ waits → ∀ id, y.obj id = s.obj id) ∧
        (waits → (v.waitSince = none → ∃ i, (y.nslot n.val).inv = some i ∧ i.weightWait = true ∧ i.waitSince = some (max s.tb3 t)) ∧
          ∀ id o, named id → s.obj id = some o → y.obj id = some (if o.cls ≠ 0 ∧ (o.move.isSome = true ∨ o.promo.isSome = true) then
            { o with cls := 0, move := o.move.map (fun m => { m with cls := 0 }), promo := o.promo.map (fun m => { m with cls := 0 }) } else o)))

/-- 04 R103, R109, R110, R114, R122; what consumes the output and what follows in the slot (R106, R108) comes after. -/
def Obligations.InvocationEnds : Prop :=
  ∀ (n : Fin 32) (t : Nat) (s : State) (x : NUnit) (v : Invocation), s.asleep = false → (s.nslot n.val).unit = some x → (s.nslot n.val).inv = some v →
    let u := s.nslot n.val
    let o := 0x40 * n.val
    let now := (s.toBase 0 t).toNat
    let late := decide (v.tRel + x.deadlineUs * 1000 < now)
    let run := (now - v.tRel) / 1000
    let ring := placedAddr x.ringObj + (v.seq - 1) % 64 * 64
    let waited := match v.waitSince with
      | some t0 => min (v.waitUs + (t - t0) / 1000) (2 ^ 32 - 1)
      | none => v.waitUs
    let rec64 := fun (failed : Bool) (gen : Nat) (tag : Nat) => record 64 [(0, 8, v.seq), (8, 8, v.tRel), (0x10, 8, now), (0x18, 8, v.epoch),
      (0x20, 4, x.deadlineUs), (0x24, 4, if failed then waited else v.waitUs), (0x28, 2, b2n (!failed && late) + 2 * b2n v.weightWait + 4 * b2n failed + 8 * b2n v.partialIn +
        16 * b2n v.stateReset + 32 * b2n (decide (u.stretch ≠ 1)) + 64 * b2n v.skipped), (0x2A, 1, n.val), (0x2B, 1, u.stretch), (0x2C, 2, v.widest),
      (0x2E, 2, v.mask), (0x30, 4, gen), (0x34, 1, (v.fault.getD (0, 0xFFFF)).1), (0x36, 2, (v.fault.getD (0, 0xFFFF)).2), (0x38, 8, tag)]
    let up := fun (p : Nat) => min (s.reg p + 1) (2 ^ 32 - 1)
    (v.running = [] → v.starts = none → v.layer + 1 = x.layers.length → ∃ w : State, exec (.invocationDone n t) s = .next ((w.consumeOutput n.val t x v false).succeed n.val).settle ∧
      let y := w.nslot n.val
      let gen := if x.stateCount = 0 then u.stateGen else u.stateGen + 1
      y.inv = none ∧ y.fails = 0 ∧ y.stateGen = gen ∧ y.committed = (if x.stateCount = 0 then 0 else 1 - u.committed) ∧ y.pend = u.pend ∧
      (∀ j < 64, w.byte (ring + j) = nthD 0 (rec64 false gen (match x.outObjs v.seq with | id :: _ => w.objTag id | [] => 0)) j) ∧
      (∀ p, p < ring ∨ ring + 64 ≤ p → w.byte p = s.byte p) ∧ w.islets = s.islets ∧ w.buoys = s.buoys ∧
      w.reg (R.NET_UNIT_RUNTIME + o) = min run (2 ^ 32 - 1) ∧ w.reg (R.NET_UNIT_LATE + o) = (if late then up (R.NET_UNIT_LATE + o) else s.reg (R.NET_UNIT_LATE + o)) ∧
      w.reg (R.NET_WEIGHT_LATE + o) = (if late && v.weightWait then up (R.NET_WEIGHT_LATE + o) else s.reg (R.NET_WEIGHT_LATE + o))) ∧
    (v.running ≠ [] ∨ v.starts ≠ none ∨ v.layer + 1 ≠ x.layers.length → exec (.invocationDone n t) s = .next { s with tb3 := max s.tb3 t }) ∧
    (v.fault.isSome = true ∨ v.weightFail = true → ∃ w : State, exec (.invocationFail n t) s = .next ((w.consumeOutput n.val t x v true).succeed n.val).settle ∧
      let y := w.nslot n.val
      y.inv = none ∧ y.fails = u.fails + 1 ∧ y.stateGen = u.stateGen ∧ y.committed = u.committed ∧ y.pend = u.pend ∧
      (∀ j < 64, w.byte (ring + j) = nthD 0 (rec64 true u.stateGen (match x.outObjs v.seq with | id :: _ => w.objTag id | [] => 0)) j) ∧
      (∀ p, p < ring ∨ ring + 64 ≤ p → w.byte p = s.byte p) ∧
      (∀ i ∈ v.running, (w.islet i).idle = true ∧ (w.islet i).held = none ∧ (w.islet i).assign = none) ∧ (∀ i, i ∉ v.running → w.islet i = s.islet i) ∧
      w.reg (R.NET_UNIT_FAIL + o) = up (R.NET_UNIT_FAIL + o) ∧
      (8 ≤ u.fails + 1 → w.unitState n.val = 5 ∧ bitOf (w.reg R.NET_DEGRADED) n.val = true) ∧ (u.fails + 1 < 8 → w.unitState n.val = s.unitState n.val)) ∧
    (v.fault = none → v.weightFail = false → exec (.invocationFail n t) s = .next { s with tb3 := max s.tb3 t })

/-- 05 R133–R136, R142–R144, for a move that no other request, free or retirement follows; what was requested meanwhile, the retry of a
weight, the weight buoys and the accesses that waited come after. -/
def Obligations.TransfersEnd : Prop :=
  ∀ (t : Nat) (s : State), s.asleep = false →
    let s1 : State := { s with tb3 := max s.tb3 t }
    (∀ (id : BitVec 24) (o : Obj) (m : Move), s.obj id.toNat = some o → o.move = some m → o.promo = none → o.freePending = false →
      o.retire = [] → m.reloc = none →
      let home := if m.toTier = 3 then m.toInst else o.home
      let there := { o with res := .resident, tier := m.toTier, inst := m.toInst, move := none, moved := some s.dev.epoch, home := home,
                            cls := o.confCls, retried := false }
      let back := { o with res := if o.res = .unloaded then .unloaded else .resident, move := none, cls := o.confCls }
      let after := fun (v : State) => ((v.loadedWant id.toNat).weightSyncAll.settle).unstall id.toNat t
      let failed := fun (v : State) (code : Nat) => ((v.transferFailed id.toNat code).weightSyncAll.settle).unstall id.toNat t
      (m.paths = [] ∨ o.res = .unloaded → exec (.ferryMoveComplete id t) s = .next (s1.unstall id.toNat t)) ∧
      (m.paths ≠ [] →
      (o.res ≠ .unloaded → ∃ v : State, exec (.ferryMoveComplete id t) s = .next (after v) ∧ v.obj id.toNat = some there ∧ Apart s v ∧
        ∀ k, k ≠ id.toNat → v.obj k = s.obj k) ∧
      (∀ p, o.res = .unloaded → s.readWaits (.payload id.toNat) = false → (s.map.content.payloads.find? fun p => p.digest == o.digest) = some p →
        digest64 (s.payloadBytes p) = o.digest →
        ∃ v : State, exec (.objectLoadComplete id true t) s = .next (after v) ∧ v.obj id.toNat = some there ∧
          v.islets = s.islets ∧ v.buoys = s.buoys ∧ (∀ k, k ≠ id.toNat → v.obj k = s.obj k) ∧
          let b := s.payloadBytes p
          (∀ j < b.length, v.byte (placedAddr id.toNat + j) = nthD 0 b j) ∧
          ∀ a, a < placedAddr id.toNat ∨ placedAddr id.toNat + b.length ≤ a → v.byte a = s.byte a) ∧
      (o.res = .unloaded → s.readWaits (.payload id.toNat) = false → ∃ v : State, exec (.objectLoadComplete id false t) s = .next (failed v ccNandRead) ∧
        v.obj id.toNat = some back ∧ Apart s v) ∧
      (∀ dest : Bool, s.overdue (.move id dest) t = true → ∃ v : State, exec (.tierRequestTimeout (.move id dest) t) s = .next (failed v ccTimeout) ∧
        v.obj id.toNat = some back ∧ Apart s v ∧ v.reg R.PLACE_TIMEOUT = min (s.reg R.PLACE_TIMEOUT + 1) (2 ^ 32 - 1)) ∧
      (∀ (dest : Bool) (code : Fin 3), ∃ v : State, exec (.tierRequestError (.move id dest) code t) s = .next (failed v (0x11 + code.val)) ∧
        v.obj id.toNat = some back ∧ Apart s v ∧ v.reg R.PLACE_TIMEOUT = s.reg R.PLACE_TIMEOUT))) ∧
    (∀ id : BitVec 24, s.obj id.toNat = none → exec (.ferryMoveComplete id t) s = .next (s1.unstall id.toNat t)) ∧
    (∀ r : TierReq, s.overdue r t = false → exec (.tierRequestTimeout r t) s = .next s1) ∧
    (∀ (il : IsletId) (r : TierReq) (c : Instr) (code : Nat),
      (c = .tierRequestTimeout r t ∧ code = 0x10 ∧ s.overdue r t = true) ∨ (∃ e : Fin 3, c = .tierRequestError r e t ∧ code = 0x11 + e.val) →
      let counted := fun (v : State) => v.reg R.PLACE_TIMEOUT = if code = 0x10 then min (s.reg R.PLACE_TIMEOUT + 1) (2 ^ 32 - 1) else s.reg R.PLACE_TIMEOUT
      let x := s.islet il.val
      (∀ k l, r = .load il k → x.loads[k]? = some l → s.isPeer il.val l.addr = false → x.olderLoad l = false → l.err = 0 →
        ∃ v : State, exec c s = .next ((v.freed il.val).settle.serveOutside t) ∧
          let y := v.islet il.val
          y.loads = x.loads.filter (fun q => q.seq ≠ l.seq) ∧ (l.op.destKey l.reg, ⟨l.seq, l.addr, code⟩) ∈ y.poison ∧
          (∀ n, y.gr n = x.gr n ∧ y.vr n = x.vr n) ∧ v.mem = s.mem ∧ v.buoys = s.buoys ∧ counted v) ∧
      (∀ k q, r = .store il k → x.stores[k]? = some q → q.sent = false → s.isPeer il.val q.addr = false → q.err = 0 →
        s.notLoaded il.val q.loc = false → s.inTransfer q.loc q.bytes.length = false →
        (∀ l ∈ x.loads, l.seq < q.seq → overlap l.loc l.bytes q.loc q.bytes.length = false) →
        (∀ p ∈ x.stores, p.seq < q.seq → overlap p.loc p.bytes.length q.loc q.bytes.length = false) →
        ∃ v : State, exec c s = .next ((v.freed il.val).settle.serveOutside t) ∧
          let y := v.islet il.val
          y.stores = x.stores.filter (fun p => p.seq ≠ q.seq) ∧ y.storeErrs = x.storeErrs ++ [⟨q.seq, q.addr, code⟩] ∧
          v.mem = s.mem ∧ v.buoys = s.buoys ∧ counted v) ∧
      (∀ k : Fin 8, r = .tow il k → (x.tow k.val).busy = true → s.isPeer il.val (x.tow k.val).far = false → (x.tow k.val).lost = 0 →
        s.notLoaded il.val (x.tow k.val).loc = false → (x.tow k.val).isIn = true ∨ s.inTransfer (x.tow k.val).loc (x.tow k.val).len = false →
        ∃ v : State, exec c s = .next ((v.freed il.val).settle.serveOutside t) ∧
          let w := (v.islet il.val).tow k.val
          w.busy = false ∧ w.err = true ∧ w.code = code ∧ v.mem = s.mem ∧ v.buoys = s.buoys ∧ counted v))

/-- 05 R133, R145–R147; what follows at once (`settle`) comes after. A page that is not occupied keeps no count once retired. -/
def Obligations.PageErrors : Prop :=
  ∀ (tier : Fin 3) (i : Fin 6) (page id : BitVec 24) (t : Nat) (s : State), s.asleep = false →
    let key := ((tier.val + 1) * 8 + i.val) * 2 ^ 24 + page.toNat
    let seen := SMap.get (fun _ => 0) s.place.ce key
    let th := s.cfgFld R.PLACE_RETIRE_CE R.PLACE_RETIRE_CE_count
    let mine := (tier.val + 1, i.val, page.toNat)
    let up := fun (p : Nat) => min (s.reg p + 1) (2 ^ 32 - 1)
    let gone := R.PLACE_TIER_RETIRED + 0x20 * tier.val
    (mine ∈ s.place.retired → ∀ unit, exec (.pageRetire tier i page id unit t) s = .next { s with tb3 := max s.tb3 t }) ∧
    (mine ∉ s.place.retired → seen + 1 < th → ∃ v : State, exec (.pageRetire tier i page id none t) s = .next v ∧ Apart s v ∧
      v.place = { s.place with ce := SMap.set (fun _ => 0) s.place.ce key (seen + 1) } ∧ v.reg R.PLACE_CE = up R.PLACE_CE ∧
      (∀ p, p ≠ R.PLACE_CE → v.reg p = s.reg p) ∧ v.out = s.out) ∧
    (mine ∉ s.place.retired → ∀ unit : Option (BitVec 48), unit.isSome = true ∨ th ≤ seen + 1 →
      let counted := fun (v : State) => v.reg R.PLACE_UE = (if unit.isSome then up R.PLACE_UE else s.reg R.PLACE_UE) ∧
        v.reg R.PLACE_CE = (if unit.isSome then s.reg R.PLACE_CE else up R.PLACE_CE)
      ((∀ o, s.obj id.toNat = some o → o.move = none ∧ o.occupies (tier.val + 1) i.val = 0) →
        ∃ v : State, exec (.pageRetire tier i page id unit t) s = .next v.settle ∧ Apart s v ∧ v.place.retired = s.place.retired ++ [mine] ∧
          SMap.get (fun _ => 0) v.place.ce key = 0 ∧ v.reg gone = up gone ∧ counted v) ∧
      (∀ o, s.obj id.toNat = some o → o.occupies (tier.val + 1) i.val ≠ 0 → o.move = none →
        o.immutable = false ∨ unit = none ∨ o.tier ≠ 3 → pagesOf o.size ≤ s.availIn (tier.val + 1) i.val 0 →
        ∃ v m, exec (.pageRetire tier i page id unit t) s = .next v.settle ∧ Apart s v ∧ v.place.retired = s.place.retired ∧ counted v ∧
          v.obj id.toNat = some { o with res := .movingDown, move := some m } ∧ m.toTier = tier.val + 1 ∧ m.toInst = i.val ∧
          (∃ r, m.reloc = some r ∧ r.tier = tier.val + 1 ∧ r.inst = i.val ∧ r.page = page.toNat ∧ r.unit = unit.map BitVec.toNat) ∧
          (∀ a : BitVec 48, unit = some a → o.res ≠ .unloaded → o.tier = tier.val + 1 → o.inst = i.val →
            SMap.get (fun _ => false) v.place.poison (a.toNat / 64) = true) ∧
          ∀ k, k ≠ id.toNat → v.obj k = s.obj k)) ∧
    (∀ (o : Obj) (m : Move) (r : Reloc), s.obj id.toNat = some o → o.move = some m → m.reloc = some r → m.paths ≠ [] → o.res ≠ .unloaded →
      o.promo = none → o.freePending = false → o.retire = [] → ∃ v : State, exec (.ferryMoveComplete id t) s =
        .next (((v.loadedWant id.toNat).weightSyncAll.settle).unstall id.toNat t) ∧ Apart s v ∧
        v.place.retired = s.place.retired ++ [(r.tier, r.inst, r.page)] ∧
        v.obj id.toNat = some { o with res := .resident, move := none, moved := some s.dev.epoch, cls := o.confCls })

/-- 13 R385, 05 R132, R140: not in direct mode. `base` is what HOST_BAR2_BASE selects. -/
def Obligations.HostWindow : Prop :=
  ∀ (o : BitVec 36) (t : Nat) (s : State), s.asleep = false → s.fld R.HOST_BAR2_CFG R.HOST_BAR2_CFG_direct = 0 →
    let a := placedBase + (s.fld R.HOST_BAR2_BASE R.HOST_BAR2_BASE_gib * 2 ^ 30 + o.toNat)
    let up := min (s.reg R.HOST_BAR2_ERR + 1) (2 ^ 32 - 1)
    let within := fun (n : Nat) (id : Nat) (x : Obj) => 0 < n ∧ o.toNat + n ≤ 2 ^ 36 ∧ a + n ≤ placedBase + 2 ^ 40 ∧ s.obj id = some x ∧ x.res ≠ .unloaded ∧
      (∀ p, placedPage a ≤ p → p ≤ placedPage (a + n - 1) → s.objAtPage p = some (id, x)) ∧
      ∀ p, placedPage a ≤ p → p ≤ placedPage (a + n - 1) →
        s.credFree (State.objPaths 0 x (p - id)) (s.fld R.HOST_BAR2_CFG R.HOST_BAR2_CFG_deadline_class) = true
    (∀ (n : Fin 4097) (id : Nat) (x : Obj), within n.val id x → (∀ j < n.val, SMap.get (fun _ => false) s.place.poison ((a + j) / 64) = false) →
      ∃ v : State, exec (.bar2Read o n false t) s = .next v ∧ v.out = s.out ++ [.bytes (s.bytes a n.val)] ∧ Apart s v ∧ v.csr = s.csr) ∧
    (∀ (data : List Byte) (id : Nat) (x : Obj), within data.length id x → x.immutable = false → x.move = none → ∃ v : State, exec (.bar2Write o data false t) s = .next v ∧
      (∀ j < data.length, v.byte (a + j) = nthD 0 data j) ∧ (∀ p, p < a ∨ a + data.length ≤ p → v.byte p = s.byte p) ∧ v.out = s.out ∧
      v.islets = s.islets ∧ v.buoys = s.buoys ∧ v.csr = s.csr) ∧
    (∀ n : Fin 4097, 0 < n.val → o.toNat + n.val ≤ 2 ^ 36 → ∃ v : State, exec (.bar2Read o n true t) s = .next v ∧
      v.out = s.out ++ [.bytes (List.replicate n.val 0xFF)] ∧ Apart s v ∧ v.reg R.HOST_BAR2_ERR = up) ∧
    (∀ data : List Byte, data ≠ [] → o.toNat + data.length ≤ 2 ^ 36 → ∃ v : State, exec (.bar2Write o data true t) s = .next v ∧ Apart s v ∧ v.out = s.out ∧
      v.reg R.HOST_BAR2_ERR = up)

/-- 07 R190, R191, R193–R195, 12 R364. -/
def Obligations.TimeBases : Prop :=
  (∀ s : State, s.asleep = false →
    (∀ (b : Fin 4) (t : Nat), let now := max s.tb3 t
      let v := if b.val = 3 then (now : Int) * 2 ^ 48 else (segAt s.time.seg s.time.hist now).1.value b.val now
      let ns := if b.val = 3 then now else wrapTo 64 (v / 2 ^ 48)
      ∃ u : State, exec (.tbNsLoRead b t) s = .next u ∧ u.out = s.out ++ [.value (ns % 2 ^ 32)] ∧ u.tb3 = now ∧
        u.reg (R.TIME_TB_NS_HI + 0x40 * b.val) = ns / 2 ^ 32 % 2 ^ 32 ∧ u.reg (R.TIME_TB_FRAC + 0x40 * b.val) = (if b.val = 3 then s.time.tb3Frac % 2 ^ 32 else wrapTo 16 (v / 2 ^ 32)) ∧
        (∀ p, p ≠ R.TIME_TB_NS_HI + 0x40 * b.val → p ≠ R.TIME_TB_FRAC + 0x40 * b.val → u.reg p = s.reg p) ∧ u.time = s.time) ∧
    (∀ (w : Word32) (t : Nat), let now := max s.tb3 t
      (bitOf w.toNat 0 = false → exec (.timeSnap w t) s = .next { s with tb3 := now }) ∧
      (bitOf w.toNat 0 = true → ∃ u : State, exec (.timeSnap w t) s = .next u ∧ u.out = s.out ∧ u.time = s.time ∧
        ∀ b : Fin 4, u.reg64 (R.TIME_TB_SNAP_LO + 0x40 * b.val) = if b.val = 3 then now % 2 ^ 64
          else wrapTo 64 ((segAt s.time.seg s.time.hist now).1.value b.val now / 2 ^ 48))) ∧
    (∀ m : Master, ∃ u : State, exec (.glbEpochLoRead m) s = .next u ∧ u.out = s.out ++ [.value (s.dev.epoch % 2 ^ 32)] ∧
      u.reg R.GLB_EPOCH_HI = s.dev.epoch / 2 ^ 32 % 2 ^ 32 ∧ u.dev = s.dev)) ∧
  (∀ (b : Fin 4) (w : Word32) (t : Nat) (s : State), s.asleep = false → s.time.seg.start ≤ max s.tb3 t →
    let q := 0x40 * b.val
    let now := max s.tb3 t
    let still : State := { s with tb3 := now }
    let free := b.val < 3 ∧ s.srcOn b.val = false
    let x := s.base b.val
    let d := sext 64 (w.toNat * 2 ^ 32 + x.adjLo.toNat)
    let r := sext 48 (w.toNat % 2 ^ 16 * 2 ^ 32 + (match x.heldLo with | some l => l.toNat | none => s.reg (R.TIME_TB_RATE_LO + q)))
    let c := max (-32768000000) (min r 32768000000)
    (¬ free → exec (.tbAdjWrite b w t) s = .next still ∧ exec (.tbRateLoWrite b w t) s = .next still ∧
      exec (.tbRateHiWrite b w t) s = .next still) ∧
    (free → d = 0 → exec (.tbAdjWrite b w t) s = .next still) ∧
    (free → d ≠ 0 → ∃ u : State, exec (.tbAdjWrite b w t) s = .next u ∧ u.time.seg.start = now + 1 ∧
      (∀ k < 3, u.time.seg.r k = s.time.seg.r k ∧ u.time.seg.v k = s.time.seg.value k (now + 1 : Nat) + (if k = b.val then d * 2 ^ 48 else 0)) ∧
      u.reg (R.TIME_TB_STEPS + q) = min (s.reg (R.TIME_TB_STEPS + q) + 1) (2 ^ 32 - 1) ∧
      u.reg (R.TIME_TB_STEP_LAST + q) = (BitVec.ofInt 32 (max (-2147483648) (min d 2147483647))).toNat ∧ u.srcBit R.INTC_PEND 65 = true ∧
      (b.val = 0 → u.time.tb0Stepped = true)) ∧
    (free → ∃ u : State, exec (.tbRateLoWrite b w t) s = .next u ∧ (u.base b.val).heldLo = some w ∧ u.time.seg = s.time.seg ∧ u.csr = s.csr) ∧
    (free → ∃ u : State, exec (.tbRateHiWrite b w t) s = .next u ∧ (u.base b.val).heldLo = none ∧ u.time.seg.start = now + 1 ∧
      (∀ k < 3, u.time.seg.v k = s.time.seg.value k (now + 1 : Nat) ∧ u.time.seg.r k = if k = b.val then c else s.time.seg.r k) ∧
      u.reg (R.TIME_TB_RATE_LO + q) = wrapTo 48 c % 2 ^ 32 ∧ u.reg (R.TIME_TB_RATE_HI + q) = wrapTo 48 c / 2 ^ 32))

/-- 07 R195, R197, R199. -/
def Obligations.Servo : Prop :=
  (∀ (b : Fin 3) (t : Nat) (o : Int) (s : State), s.asleep = false → s.time.seg.start ≤ t →
    let q := 0x20 * b.val
    let x := s.base b.val
    let u := s.servo b.val t o
    let cl := fun (r : Int) => max (-32768000000) (min r 32768000000)
    let steps := s.cfgBit (R.TIME_SERVO_CFG + q) R.TIME_SERVO_CFG_step_en = true ∧ s.cfgReg (R.TIME_SERVO_STEP + q) < o.natAbs
    let i := cl (x.integral + s.cfgReg (R.TIME_SERVO_KI + q) * o)
    let good := if o.natAbs < s.cfgReg (R.TIME_SERVO_LOCK + q) then min (s.fld (R.TIME_TB_STATUS + 0x40 * b.val) R.TIME_TB_STATUS_good + 1) 15 else 0
    let from_ := if s.tbState b.val = 0 ∨ s.tbState b.val = 3 then 1 else s.tbState b.val
    (u.base b.val).lastSample = t ∧ u.time.seg.start = t + 1 ∧
    (steps → (u.base b.val).integral = x.integral ∧ u.time.seg.r b.val = cl x.integral ∧ u.tbState b.val = 1 ∧
      u.fld (R.TIME_TB_STATUS + 0x40 * b.val) R.TIME_TB_STATUS_good = 0 ∧
      (segAt u.time.seg u.time.hist t).1.v b.val = s.time.seg.value b.val t + o * 2 ^ 48 ∧ u.srcBit R.INTC_PEND 65 = true ∧
      u.reg (R.TIME_TB_STEPS + 0x40 * b.val) = min (s.reg (R.TIME_TB_STEPS + 0x40 * b.val) + 1) (2 ^ 32 - 1)) ∧
    (¬ steps → (u.base b.val).integral = i ∧ u.time.seg.r b.val = cl (i + s.cfgReg (R.TIME_SERVO_KP + q) * o) ∧
      u.time.seg.v b.val = s.time.seg.value b.val (t + 1 : Nat) ∧ u.fld (R.TIME_TB_STATUS + 0x40 * b.val) R.TIME_TB_STATUS_good = good ∧
      (s.tbState b.val ≤ 3 → u.tbState b.val = if from_ = 1 ∧ 8 ≤ good then 2 else if from_ = 2 ∧ good = 0 then 1 else from_) ∧
      (from_ = 1 → 8 ≤ good → u.srcBit R.INTC_PEND 66 = true))) ∧
  (∀ (p : Fin 4) (d : Byte) (seqId : BitVec 16) (twoStep : Bool) (origin corr : Word64) (t : Nat) (s : State), s.asleep = false →
    let still : State := { s with tb3 := max s.tb3 t }
    let led := fun (b : Nat) => s.domainBase d.toNat = some b ∧ ∃ m, (s.base b).master = some m ∧ m.port = p.val ∧ (s.base b).lost = false ∧
      s.mayLead b p.val = true ∧ s.asCapable p.val = true ∧ s.srcOn b = true
    let ingress := (t : Int) - (s.cfgReg (R.TIME_PORT_LAT + 0x20 * p.val) / 2 ^ 16 : Nat)
    let sample := fun (b : Nat) (c at_ : Int) => (origin.toNat : Int) + divRne c 65536 + s.reg (R.TIME_PORT_DELAY + 0x20 * p.val) - s.toBase b at_
    ((∀ b, ¬ led b) → exec (.gptpSync p d seqId twoStep origin corr t) s = .next still ∧ exec (.gptpFollowUp p d seqId origin corr t) s = .next still) ∧
    (∀ b, led b →
      (twoStep = false → exec (.gptpSync p d seqId twoStep origin corr t) s =
        .next ((still.convStale ingress).servo b t (sample b corr.toInt ingress))) ∧
      (twoStep = true → ∃ u : State, exec (.gptpSync p d seqId twoStep origin corr t) s = .next u ∧
        (u.base b).pendSync = some ⟨p.val, seqId.toNat, d.toNat, ingress, corr.toInt⟩ ∧ u.csr = s.csr ∧ u.time.seg = s.time.seg) ∧
      (∀ q, (s.base b).pendSync = some q → q.port = p.val → q.seqId = seqId.toNat → ∃ w : State, (w.base b).pendSync = none ∧
        w.csr = s.csr ∧ w.time.seg = s.time.seg ∧ exec (.gptpFollowUp p d seqId origin corr t) s =
          .next ((w.convStale q.ingress).servo b t (sample b (corr.toInt + q.correction) q.ingress))) ∧
      ((∀ q, (s.base b).pendSync = some q → q.port ≠ p.val ∨ q.seqId ≠ seqId.toNat) →
        exec (.gptpFollowUp p d seqId origin corr t) s = .next still)))

/-- 07 R198, R199, R200, R201; the order of the masters is log entry 29, the rounding of the delay and the nine requests
log entry 21, the three intervals log entry 59. -/
def Obligations.GptpPorts : Prop :=
  ∀ (p : Fin 4) (s : State), s.asleep = false →
    let runs := bitOf (s.cfgFld R.TIME_GPTP_CFG R.TIME_GPTP_CFG_port_en) p.val = true
    let at_ := fun (t : Nat) => ({ s with tb3 := max s.tb3 t } : State)
    let rx := fun (t : Nat) => (t : Int) - (s.cfgReg (R.TIME_PORT_LAT + 0x20 * p.val) / 2 ^ 16 : Nat)
    let tx := fun (t : Nat) => (t : Int) + (s.cfgReg (R.TIME_PORT_LAT + 0x20 * p.val) % 2 ^ 16 : Nat)
    let g := s.gport p.val
    (∀ (d : Byte) (a : Announce) (t : Nat),
      (s.domainBase d.toNat = none ∨ ¬ runs ∨ s.asCapable p.val = false → exec (.gptpAnnounce p d a t) s = .next (at_ t)) ∧
      (∀ b, s.domainBase d.toNat = some b → runs → s.asCapable p.val = true → ∃ u : State, exec (.gptpAnnounce p d a t) s = .next u ∧
        let m : GMaster := { vector := [a.priority1.toNat, a.clockClass.toNat, a.clockAccuracy.toNat, a.variance.toNat, a.priority2.toNat, a.gmId.toNat,
          a.steps.toNat, a.srcPort.toNat], gmId := a.gmId.toNat, port := p.val, syncNs := a.syncNs.toNat, annNs := a.annNs.toNat, heardAt := t }
        let heard := ((s.base b).heard.filter (fun h => h.port ≠ p.val) ++ [m]).filter fun h => decide (t ≤ h.heardAt + 3 * h.annNs)
        let best := bestMaster (heard.filter fun h => s.mayLead b h.port && s.asCapable h.port)
        (u.base b).heard = heard ∧ (u.base b).lost = best.isNone ∧ (best.isSome = true → (u.base b).master = best) ∧
        (best = none → (u.base b).master = (s.base b).master ∧ (u.base b).pendSync = none) ∧ (u.base b).integral = (s.base b).integral ∧ u.time.seg = s.time.seg ∧
        (∀ old new, (s.base b).master = some old → best = some new → new.gmId ≠ old.gmId ∨ new.port ≠ old.port →
          s.tbState b = 1 ∨ s.tbState b = 2 → (u.base b).pendSync = none ∧ u.tbState b = 3 ∧
            u.reg64 (R.TIME_TB_HOLD_LO + 0x40 * b) = t % 2 ^ 64 ∧ u.srcBit R.INTC_PEND 64 = true) ∧
        ((s.base b).master = none ∨ best = none ∨ (∃ old new, (s.base b).master = some old ∧ best = some new ∧ new.gmId = old.gmId ∧ new.port = old.port) →
          u.csr = s.csr ∧ u.out = s.out))) ∧
    (∀ (seqId : BitVec 16) (r x : Nat),
      (¬ runs → exec (.pdelayReq p seqId r x) s = .next (at_ x)) ∧
      (runs → g.txq.length < 16 → exec (.pdelayReq p seqId r x) s = .next { at_ x with out := s.out ++ [.gptp p.val 3 0 seqId.toNat (rx r).toNat, .gptp p.val 0xA 0 seqId.toNat (tx x).toNat] }) ∧
      (runs → 16 ≤ g.txq.length → ∃ u : State, exec (.pdelayReq p seqId r x) s = .next u ∧ s.out ++ [.gptp p.val 3 0 seqId.toNat (rx r).toNat] <+: u.out ∧
        u.reg (R.TIME_TXTS_OVF + 0x20 * p.val) = min (s.reg (R.TIME_TXTS_OVF + 0x20 * p.val) + 1) (2 ^ 32 - 1) ∧ u.srcBit R.INTC_PEND 68 = true)) ∧
    (∀ t : Nat, (¬ runs → exec (.pdelayTimer p t) s = .next (at_ t)) ∧
      (runs → ∃ u : State, exec (.pdelayTimer p t) s = .next u ∧ s.out ++ [.gptp p.val 2 0 g.nextSeq t] <+: u.out ∧
        (u.gport p.val).nextSeq = (g.nextSeq + 1) % 65536 ∧ (u.gport p.val).unanswered = g.unanswered + 1 ∧
        u.reg (R.TIME_PORT_ASCAP + 0x20 * p.val) = (if 9 < g.unanswered then 0 else s.reg (R.TIME_PORT_ASCAP + 0x20 * p.val)) ∧
        (g.txq.length < 16 → (u.gport p.val).txq = g.txq ++ [⟨g.nextSeq, 2, 0, tx t⟩] ∧ (g.unanswered ≤ 9 → u.csr = s.csr)) ∧
        (16 ≤ g.txq.length → (u.gport p.val).txq = g.txq ∧
          u.reg (R.TIME_TXTS_OVF + 0x20 * p.val) = min (s.reg (R.TIME_TXTS_OVF + 0x20 * p.val) + 1) (2 ^ 32 - 1)))) ∧
    (∀ (seqId : BitVec 16) (t2 t3 : Word64) (r : Nat),
      ((∀ e ∈ g.txq, e.seqId = seqId.toNat → e.typ ≠ 2) → exec (.pdelayResp p seqId t2 t3 r) s = .next (at_ r)) ∧
      (∀ e ∈ g.txq, (∀ f ∈ g.txq, f.seqId = seqId.toNat → f.typ = 2 → f = e) → e.seqId = seqId.toNat → e.typ = 2 →
        ∃ u : State, exec (.pdelayResp p seqId t2 t3 r) s = .next u ∧
          let d := min (Config.meanLinkDelay e.stamp t2.toNat t3.toNat (rx r)) (2 ^ 32 - 1)
          u.reg (R.TIME_PORT_DELAY + 0x20 * p.val) = d ∧ u.reg (R.TIME_PORT_ASCAP + 0x20 * p.val) = (if d ≤ 800 then 1 else 0) ∧ u.out = s.out ∧ (u.gport p.val).unanswered = 0 ∧
          (u.gport p.val).txq = g.txq.filter fun f => !(f.seqId == seqId.toNat && f.typ == 2)))

/-- 07 R197, R198, R202, 18 R458; the estimator's item and mask follow. -/
def Obligations.TimeLosses : Prop :=
  ∀ (t : Nat) (s : State), s.asleep = false →
    let still : State := { s with tb3 := max s.tb3 t }
    let lost := fun (b : Nat) (c : Instr) => (s.tbState b ≠ 1 → s.tbState b ≠ 2 → exec c s = .next still) ∧
      (s.tbState b = 1 ∨ s.tbState b = 2 → ∃ u : State, exec c s = .next u ∧ u.tbState b = 3 ∧ u.reg64 (R.TIME_TB_HOLD_LO + 0x40 * b) = t % 2 ^ 64 ∧
        u.srcBit R.INTC_PEND 64 = true ∧ u.time = s.time)
    let unl := min (s.reg R.TIME_PPS_UNLABELLED + 1) (2 ^ 32 - 1)
    (∀ b : Fin 2, ((s.base b.val).master = none → exec (.syncTimeout b t) s = .next still) ∧
      (∀ m, (s.base b.val).master = some m → let due := (s.base b.val).lastSample + s.cfgReg R.TIME_GPTP_TMO * m.syncNs
        (t < due → exec (.syncTimeout b t) s = .next still) ∧ (due ≤ t → lost b.val (.syncTimeout b t)))) ∧
    (t < (s.base 2).lastSample + 1500000000 → exec (.ppsTimeout t) s = .next still) ∧
    ((s.base 2).lastSample + 1500000000 ≤ t → lost 2 (.ppsTimeout t)) ∧
    (∀ b : Fin 3, let o := R.TIME_TB_STATUS + 0x40 * b.val
      let due := s.tbState b.val = 3 ∧ s.fld o R.TIME_TB_STATUS_hold_expired = 0 ∧
        s.reg64 (R.TIME_TB_HOLD_LO + 0x40 * b.val) + s.cfgReg (R.TIME_SERVO_HOLDMAX + 0x20 * b.val) * 1000000000 ≤ t
      (¬ due → exec (.holdoverExpired b t) s = .next still) ∧
      (due → ∃ u : State, exec (.holdoverExpired b t) s = .next u ∧ u.fld o R.TIME_TB_STATUS_hold_expired = 1 ∧ u.tbState b.val = 3 ∧
        u.srcBit R.INTC_PEND 64 = true)) ∧
    (∀ f : Bool, let ours := f = (s.cfgReg R.TIME_PPS_CFG % 2 == 1)
      let early := ∃ p, s.time.ppsLast = some p ∧ t < p + 500000000
      ∃ u : State, exec (.ppsEdge f t) s = .next u.refreshMask ∧ (¬ ours → u = still) ∧
        (ours → u.time.ppsLast = some t ∧ u.time.bases = s.time.bases ∧ (early → u.time.ppsOpen = s.time.ppsOpen ∧ u.reg R.TIME_PPS_UNLABELLED = unl) ∧
          (¬ early → u.time.ppsOpen = s.time.ppsOpen ++ [t] ∧ u.csr = s.csr))) ∧
    (∀ n : Nmea, ∃ u : State, exec (.nmeaSentence n t) s = .next (u.gnssItem n).refreshMask ∧ u.time.gnssDetect = false ∧ u.time.gnssLast = t ∧
      (n.label = none → u.time.ppsOpen = s.time.ppsOpen ∧ u.time.seg = s.time.seg ∧ u.csr = s.csr) ∧
      (∀ l, n.label = some l → u.time.ppsOpen = s.time.ppsOpen.filter (fun e => decide (e + 900000000 < t)) ∧
        ((∀ e ∈ s.time.ppsOpen, e + 900000000 < t) → u.time.seg = s.time.seg ∧ u.time.bases = s.time.bases ∧ u.csr = s.csr) ∧
        (∀ e, s.time.ppsOpen.filter (fun e => decide (t ≤ e + 900000000)) = [e] → u.time.labelled = ((l.toNat, e) :: s.time.labelled).take 16 ∧
          (s.srcOn 2 = true → (u.base 2).lastSample = t) ∧ (s.srcOn 2 = false → u.time.seg = s.time.seg)))) ∧
    (let due := s.time.ppsOpen.filter fun e => decide (e + 900000000 ≤ t)
      ∃ u : State, exec (.ppsLabelTimeout t) s = .next u ∧ u.time.ppsOpen = s.time.ppsOpen.filter (fun e => decide (t < e + 900000000)) ∧
      u.reg R.TIME_PPS_UNLABELLED = min (s.reg R.TIME_PPS_UNLABELLED + due.length) (2 ^ 32 - 1) ∧
      (∀ p, p ≠ R.TIME_PPS_UNLABELLED → u.reg p = s.reg p) ∧ u.time.bases = s.time.bases ∧ u.time.seg = s.time.seg ∧ u.out = s.out) ∧
    (∃ u : State, exec (.uartRateTimeout t) s = .next u ∧ u.time.gnssDetect = (decide (s.time.gnssLast + 5000000000 ≤ t) || s.time.gnssDetect) ∧ u.csr = s.csr)

/-- 07 R203, R206–R208, R211, R214; what the estimator does with the outputs (`condOuts`, `vehicleSignals`) and its mask follow. -/
def Obligations.SensorInputs : Prop :=
  ∀ (t : Nat) (s : State), s.asleep = false →
    let still : State := { s with tb3 := max s.tb3 t }
    (∀ i : Fin 2, let x := s.imu i.val
      let lat := s.cfgReg (R.COND_IMU_LAT + 0x20 * i.val)
      let due := s.imuOn i.val = true ∧ ∃ e, x.lastEdge = some e ∧ e + 2 * s.imuPeriod i.val * (x.lostSince + 1) ≤ t
      (∃ u : State, exec (.imuDrdy i t) s = .next u.refreshMask ∧ (s.imuOn i.val = false → u = still) ∧
        (s.imuOn i.val = true → u.imu i.val = { lastEdge := some t, lostSince := 0, burst := some t } ∧ (let o := R.COND_IMU_CFG + 0x20 * i.val
            s.out ++ [.spi i.val (if s.cfgFld o R.COND_IMU_CFG_spi_mode = 1 then 3 else 0) (s.cfgFld o R.COND_IMU_CFG_sclk_div)
              (s.cfgFld o R.COND_IMU_CFG_command)] <+: u.out) ∧
          ((s.tracker (20 + i.val)).state ≠ 0 → (u.tracker (20 + i.val)).k = (s.tracker (20 + i.val)).k + 1))) ∧
      (∀ reply : List Byte, (x.burst = none → exec (.imuBurstDone i reply t) s = .next still) ∧
        (∀ t0, x.burst = some t0 → let o := R.COND_IMU_CFG + 0x20 * i.val
          let axes := (List.range 6).map fun k => (6 * i.val + k, imuAxis (s.cfgFld o R.COND_IMU_CFG_width) (s.cfgFld o R.COND_IMU_CFG_first) k reply)
          ∃ w : State, exec (.imuBurstDone i reply t) s = .next ((w.feedAll axes ((t0 : Int) - lat)).2.condOuts (w.feedAll axes ((t0 : Int) - lat)).1) ∧
            w.imu i.val = { x with burst := none } ∧ w.cond.chans = s.cond.chans ∧
            w.reg (R.COND_IMU_SAMPLES + 0x20 * i.val) = (s.reg (R.COND_IMU_SAMPLES + 0x20 * i.val) + 1) % 2 ^ 32)) ∧
      (¬ due → exec (.imuLostTimeout i t) s = .next still) ∧
      (due → ∃ u : State, exec (.imuLostTimeout i t) s = .next u ∧ u.imu i.val = { x with lostSince := x.lostSince + 1 } ∧ u.srcBit R.INTC_PEND 75 = true ∧
        u.reg (R.COND_IMU_LOST + 0x20 * i.val) = min (s.reg (R.COND_IMU_LOST + 0x20 * i.val) + 1) (2 ^ 32 - 1))) ∧
    (∀ (k : Fin 8) (rising : Bool) (held : Nat),
      let glitch := s.cfgFld R.COND_WHEEL_CFG R.COND_WHEEL_CFG_glitch * 10
      let stamp := t - glitch - Config.wheelSync
      let ours := bitOf (s.cfgFld R.COND_WHEEL_CFG R.COND_WHEEL_CFG_enable) k.val = true ∧ rising ≠ bitOf (s.cfgFld R.COND_WHEEL_CFG R.COND_WHEEL_CFG_edge) k.val ∧ glitch ≤ held
      (¬ ours → exec (.wheelEdge k ⟨rising, held⟩ t) s = .next still) ∧
      (ours → ∃ u : State, exec (.wheelEdge k ⟨rising, held⟩ t) s = .next u ∧ (u.wheel k.val).edges = stamp :: (s.wheel k.val).edges.take 1 ∧
        SMap.get (fun _ => 0) u.fuse.edges k.val = stamp ∧
        u.reg (R.COND_WHEEL_EDGES + 4 * k.val) = (s.reg (R.COND_WHEEL_EDGES + 4 * k.val) + 1) % 2 ^ 32)) ∧
    (t % s.samplerPeriod ≠ 0 → exec (.wheelSample t) s = .next still) ∧
    (t % s.samplerPeriod = 0 → ∃ (w : State) (outs : List CondOut), exec (.wheelSample t) s = .next (w.condOuts outs) ∧ w.cond.wheels = s.cond.wheels ∧ w.fuse = s.fuse ∧
      (∀ c < 24, c < 12 ∨ s.chOn c = false → w.chan c = s.chan c) ∧
      (∀ k < 4, s.chOn (20 + k) = true → w.chan (20 + k) = (s.feed (20 + k) (SMap.get (fun _ => 0) s.cond.canWheel k) t).2.chan (20 + k)) ∧
      (∀ k < 8, s.chOn (12 + k) = true → bitOf (s.cfgFld R.COND_WHEEL_CFG R.COND_WHEEL_CFG_enable) k = true →
        ∀ a b, (s.wheel k).edges = [a, b] → b < a → t ≤ a + s.cfgFld R.COND_WHEEL_CFG R.COND_WHEEL_CFG_timeout_ms * 10000000 →
          divRne (2 ^ 16 * 1000000000) ((a : Int) - b) < 2 ^ 31 →
          w.chan (12 + k) = (s.feed (12 + k) (divRne (2 ^ 16 * 1000000000) ((a : Int) - b)) t).2.chan (12 + k))) ∧
    (∀ (j : Fin 4) (id : BitVec 29) (ext good : Bool) (data : List Byte), let hits := s.cond.cansig.filter fun e => canTakes e j.val id.toNat ext
      let on := s.cfgBit (R.COND_CAN_CFG + 0x10 * j.val) R.COND_CAN_CFG_enable
      let sent := fun (o : Out) => if s.cfgBit (R.COND_CAN_CFG + 0x10 * j.val) R.COND_CAN_CFG_listen_only then s.out else s.out ++ [o]
      (on = false → exec (.canFrame j id ext ⟨good, data⟩ t) s = .next still.refreshMask) ∧
      (on = true → good = false → ∃ w : State, exec (.canFrame j id ext ⟨good, data⟩ t) s = .next w.refreshMask ∧
        w.reg (R.COND_CAN_ERR + 0x10 * j.val) = min (s.reg (R.COND_CAN_ERR + 0x10 * j.val) + 1) (2 ^ 32 - 1) ∧ w.out = sent (.canError j.val) ∧
        w.cond = s.cond) ∧
      (on = true → good = true → ∃ w : State, exec (.canFrame j id ext ⟨good, data⟩ t) s = .next (w.vehicleSignals hits t).refreshMask ∧
        sent (.canAck j.val) <+: w.out ∧
        w.reg (R.COND_CAN_RX + 0x10 * j.val) = (s.reg (R.COND_CAN_RX + 0x10 * j.val) + 1) % 2 ^ 32 ∧
        (hits = [] → w.cond = s.cond) ∧
        (∀ e, hits = [e] → (leAt e 5 1 < 4 → SMap.get (fun _ => 0) w.cond.canWheel (leAt e 5 1) = canBits e data ∧
            SMap.get (fun _ => 0x3F800000) w.cond.canScale (leAt e 5 1) = leAt e 0xC 4) ∧
          (0x10 ≤ leAt e 5 1 → leAt e 5 1 < 0x20 →
            SMap.get (fun _ => (0, 0)) w.cond.vehicle (leAt e 5 1 - 0x10) = (f32Mul (f32OfInt (canBits e data)) (leAt e 0xC 4), t))))) ∧
    (∀ rising : Bool, let on := s.cfgBit R.COND_SYNC_CFG R.COND_SYNC_CFG_enable = true ∧ rising ≠ s.cfgBit R.COND_SYNC_CFG R.COND_SYNC_CFG_edge
      (¬ on ∨ s.cond.syncAt = some t → exec (.syncInEdge rising t) s = .next still) ∧
      (on → s.cond.syncAt ≠ some t → ∃ u : State, exec (.syncInEdge rising t) s = .next u ∧ u.cond.syncAt = some t ∧
        u.reg R.COND_SYNC_COUNT = min (s.reg R.COND_SYNC_COUNT + 1) (2 ^ 32 - 1) ∧ u.reg64 R.COND_SYNC_LAST_LO = t % 2 ^ 64 ∧
        ∀ c < 24, u.chan c = { s.chan c with i1 := 0, i2 := 0, i3 := 0, c1 := 0, c2 := 0, c3 := 0, phase := 0, settling := 3 + s.chCfg c R.COND_CH_CFG_taps } ∧
          u.fld (R.COND_CH_STATUS + 0x40 * c) R.COND_CH_STATUS_settling = 1)) ∧
    (∀ (c : Nat) (v : Int) (a : Int), c < 24 →
      let x := s.chan c
      let ranks := (v :: x.ranks).take (s.chCfg c R.COND_CH_CFG_rank_w)
      let q := max 1 (s.chCfg c R.COND_CH_CFG_q)
      let i1 := x.i1 + BitVec.ofInt 64 (rankOut (s.chCfg c R.COND_CH_CFG_rank_w) (s.chCfg c R.COND_CH_CFG_rank_r) ranks)
      let i2 := x.i2 + i1
      let i3 := x.i3 + i2
      let z := if q = 1 then BitVec.ofInt 64 (rankOut (s.chCfg c R.COND_CH_CFG_rank_w) (s.chCfg c R.COND_CH_CFG_rank_r) ranks) else i3 - x.c1 - x.c2 - x.c3
      let f := f32Mul (f32OfInt z.toInt) (f32OfRat 1 (q * q * q))
      let own := fun (y : Nat) => if 20 ≤ c then f32Mul y (SMap.get (fun _ => 0x3F800000) s.cond.canScale (c - 20)) else y
      (s.chOn c = false → s.feed c v a = (none, s)) ∧
      (s.chOn c = true → (∃ ts, s.cond.syncAt = some ts ∧ a < ts) → (s.feed c v a).1 = none ∧ (s.feed c v a).2.chan c = { x with ranks := ranks }) ∧
      (s.chOn c = true → (∀ ts, s.cond.syncAt = some ts → ts ≤ a) → x.phase + 1 < q → (s.feed c v a).1 = none ∧
        (s.feed c v a).2.chan c = { x with ranks := ranks, i1 := i1, i2 := i2, i3 := i3, phase := x.phase + 1 }) ∧
      (s.chOn c = true → (∀ ts, s.cond.syncAt = some ts → ts ≤ a) → q ≤ x.phase + 1 → ∃ o, (s.feed c v a).1 = some o ∧ o.chan = c ∧
        o.t = a - (s.chDelay c).1 ∧ o.settling = decide (0 < x.settling) ∧
        o.y = own (f32Mul (firOut (s.firCoef c) (s.chCfg c R.COND_CH_CFG_taps) ((f :: x.fir).take 64)) (s.cfgReg (R.COND_CH_SCALE + 0x40 * c))) ∧
        let y := (s.feed c v a).2.chan c
        y.ranks = ranks ∧ y.i1 = i1 ∧ y.i2 = i2 ∧ y.i3 = i3 ∧ y.c1 = i3 ∧ y.c2 = i3 - x.c1 ∧ y.c3 = i3 - x.c1 - x.c2 ∧ y.phase = 0 ∧
        y.fir = (f :: x.fir).take 64 ∧ y.settling = x.settling - 1))

/-- 06 R159, R161, R162, R164, R165, R167, R168; the estimator's mask follows a row. -/
def Obligations.ShoreFrames : Prop :=
  ∀ (n : Fin 16) (t : Nat) (s : State), s.asleep = false →
    let still : State := { s with tb3 := max s.tb3 t }
    let q := 0x40 * n.val
    let x := s.sport n.val
    let up := fun (p : Nat) => min (s.reg p + 1) (2 ^ 32 - 1)
    (∀ (vc : Fin 4) (fill : Fin 129),
      let ours := s.portSt n.val ≠ 0 ∧ s.portSt n.val ≠ 4 ∧ s.portPowered n.val = true ∧ s.pcfg n.val R.SHORE_PORT_CFG_vc = vc.val
      let mine := ∃ f, x.cur = some f ∧ f.cfg.vc = vc.val
      (s.portPowered n.val = false ∨ ¬ ours ∧ ¬ mine → exec (.frameStart n vc fill t) s = .next still) ∧
      (s.portPowered n.val = true → ¬ ours → ∀ f, x.cur = some f → f.cfg.vc = vc.val → ∃ u : State, exec (.frameStart n vc fill t) s = .next u ∧
        (u.sport n.val).cur = none ∧ (u.sport n.val).frameSeq = x.frameSeq ∧ (u.sport n.val).ended = x.ended ∧ u.mem = s.mem ∧
        u.portSt n.val = s.portSt n.val ∧
        (f.shed = false → f.gone = false → u.reg (R.SHORE_DROP_BAD + q) = up (R.SHORE_DROP_BAD + q) ∧ u.srcBit R.INTC_PEND 36 = true)) ∧
      (ours → ∃ u : State, exec (.frameStart n vc fill t) s = .next u ∧ u.portSt n.val = 2 ∧ (u.sport n.val).frameSeq = (x.frameSeq + 1) % 2 ^ 32 ∧
        (u.sport n.val).lastStart = some t ∧ u.fld (R.SHORE_WR_STATUS + 4 * (n.val / 8)) R.SHORE_WR_STATUS_fill = fill.val ∧
        (∃ f, (u.sport n.val).cur = some f ∧ f.seq = (x.frameSeq + 1) % 2 ^ 32 ∧ f.start = t ∧ f.cfg = s.frameCfg n.val ∧ f.stamps = [] ∧ f.rows = [] ∧
          f.bad = false ∧ f.gone = false ∧ f.shed = (u.shedding n.val || s.pwr.shed)) ∧
        (u.shedding n.val = true → u.reg (R.SHORE_DROP_SHED + q) = up (R.SHORE_DROP_SHED + q) ∧ u.srcBit R.INTC_PEND 32 = true) ∧
        (u.shedding n.val = false → u.reg (R.SHORE_DROP_SHED + q) = s.reg (R.SHORE_DROP_SHED + q)))) ∧
    (∀ (vc : Fin 4) (dtype : Byte) (hdr crc : Bool) (data : List Byte),
      let c := fun (h : Bool) => Instr.longPacket n vc dtype h crc data t
      let heard := s.portPowered n.val = true ∧ (x.cur.isSome = true ∨ s.portSt n.val ≠ 0 ∧ s.portSt n.val ≠ 4)
      (¬ heard → exec (c hdr) s = .next still.refreshMask) ∧
      (heard → ∃ u : State, exec (c false) s = .next u.refreshMask ∧ u.reg (R.SHORE_CSI_ERR + q) = up (R.SHORE_CSI_ERR + q) ∧ u.srcBit R.INTC_PEND 36 = true ∧
        u.shore = s.shore) ∧
      (heard → (∀ f, x.cur = some f → f.cfg.vc ≠ vc.val ∨ f.cfg.dtype ≠ dtype.toNat) → exec (c true) s = .next still.refreshMask) ∧
      (∀ f, heard → x.cur = some f → f.cfg.vc = vc.val → f.cfg.dtype = dtype.toNat → ∃ (u : State) (p : Option Nat), exec (c true) s = .next u.refreshMask ∧
        (u.sport n.val).cur = some { f with stamps := f.stamps ++ [(t : Int) - f.cfg.expoff], crc := f.crc || !crc, pulse := p, rows := if f.shed || f.gone || decide (f.cfg.height ≤ f.rows.length) then f.rows else f.rows ++ [data], bad := f.bad || decide (data.length ≠ rowBytes dtype.toNat f.cfg.width) || decide (f.cfg.height ≤ f.stamps.length) } ∧
        (f.stamps ≠ [] → p = f.pulse) ∧
        u.reg (R.SHORE_CSI_ERR + q) = if crc then s.reg (R.SHORE_CSI_ERR + q) else up (R.SHORE_CSI_ERR + q))) ∧
    (∀ vc : Fin 4,
      ((∀ f, x.cur = some f → f.cfg.vc ≠ vc.val) ∨ s.portPowered n.val = false → exec (.frameEnd n vc t) s = .next still) ∧
      (∀ f, x.cur = some f → f.cfg.vc = vc.val → s.portPowered n.val = true →
        let b := f.slot
        let pyr := pyramidBytes (pyramid f.cfg.dtype f.cfg.width f.cfg.height f.rows)
        let raw := f.rows.flatMap (rawRow f.cfg.dtype f.cfg.width)
        let outside := fun (a base len : Nat) => a < base ∨ base + len ≤ a
        ∃ u : State, exec (.frameEnd n vc t) s = .next u ∧ (u.sport n.val).cur = none ∧ u.islets = s.islets ∧ u.buoys = s.buoys ∧
        (f.shed = true ∨ f.gone = true → u.csr = s.csr ∧ u.mem = s.mem ∧ (u.sport n.val).ended = x.ended) ∧
        (f.shed = false → f.gone = false → f.bad = false → f.rows.length = f.cfg.height → (u.sport n.val).ended = x.ended ++ [f] ∧
          u.reg (R.SHORE_FRAMES + q) = up (R.SHORE_FRAMES + q) ∧
          (∀ a, outside a (placedAddr b.rows) (8 * f.stamps.length) → outside a (placedAddr b.pyr) pyr.length →
            (f.cfg.raw = true → outside a (placedAddr b.raw) raw.length) → u.byte a = s.byte a) ∧
          (f.cfg.raw = true → ∀ j < raw.length, u.byte (placedAddr b.raw + j) = nthD 0 raw j)) ∧
        (f.shed = false → f.gone = false → f.bad = true ∨ f.rows.length ≠ f.cfg.height → (u.sport n.val).ended = x.ended ∧ u.mem = s.mem ∧
          u.reg (R.SHORE_DROP_BAD + q) = up (R.SHORE_DROP_BAD + q) ∧ u.srcBit R.INTC_PEND 36 = true))) ∧
    (∀ (i : Fin 2) (fills : List (Fin 129)), let w := R.SHORE_WR_STATUS + 4 * i.val
      (s.inFlight i.val = [] → ∃ u : State, exec (.writeQueueFull i fills t) s = .next u ∧ u.fld w R.SHORE_WR_STATUS_fill = 128 ∧ u.shore = s.shore) ∧
      (∀ m f, s.pickPort true (s.inFlight i.val) = some m → (s.sport m).cur = some f → (fills.headD 0).val < 128 → m < 16 →
        ∃ u : State, exec (.writeQueueFull i fills t) s = .next u ∧
        (u.sport m).cur = some { f with gone := true, rows := [] } ∧ u.shedding m = true ∧ u.srcBit R.INTC_PEND 32 = true ∧
        u.fld w R.SHORE_WR_STATUS_fill = (fills.headD 0).val ∧ u.reg R.SHORE_DROP_OVF = up R.SHORE_DROP_OVF ∧
        u.reg (R.SHORE_DROP_SHED + 0x40 * m) = up (R.SHORE_DROP_SHED + 0x40 * m) ∧ ∀ k, k ≠ m → u.sport k = s.sport k)) ∧
    (let due := s.portSt n.val = 2 ∧ ∃ e, x.lastStart = some e ∧ e + 2000 * s.cfgFld (R.SHORE_PORT_PERIOD + q) R.SHORE_PORT_PERIOD_period_us ≤ t;
      (¬ due → exec (.portLostTimeout n t) s = .next still) ∧
      (due → ∃ u : State, exec (.portLostTimeout n t) s = .next u ∧ u.portSt n.val = 3 ∧ u.srcBit R.INTC_PEND 33 = true ∧ u.shore = s.shore)) ∧
    (∀ lanes : Fin 16, (s.portSt n.val = 0 → exec (.deskewSequence n lanes t) s = .next still) ∧
      (s.portSt n.val ≠ 0 → ∃ u : State, exec (.deskewSequence n lanes t) s = .next u ∧ u.portSt n.val = s.portSt n.val ∧
        u.fld (R.SHORE_PORT_STATUS + q) R.SHORE_PORT_STATUS_lanes_up = lanes.val % 2 ^ 2 ^ s.pcfg n.val R.SHORE_PORT_CFG_lanes))

/-- 06 R163, R166, R177–R185, R467; the units that wait for a frame follow (`deliverFrame`), and the estimator's mask a datagram. -/
def Obligations.ShoreRecords : Prop :=
  ∀ (t : Nat) (s : State), s.asleep = false →
    let still : State := { s with tb3 := max s.tb3 t }
    let up := fun (p : Nat) => min (s.reg p + 1) (2 ^ 32 - 1)
    (∀ n : Fin 16, let x := s.sport n.val
      (x.ended = [] → exec (.frameRecordWrite n t) s = .next still) ∧
      (∀ f rest, x.ended = f :: rest → ∃ (w : State) (d : DoneFrame), exec (.frameRecordWrite n t) s = .next (w.deliverFrame n.val 0 d t) ∧
        d.seq = f.seq ∧ d.cfg = f.cfg ∧ d.slot = f.slot ∧ d.stamps = f.stamps ∧ d.t = f.stamps.headD 0 ∧ (w.sport n.val).ended = rest ∧
        (w.sport n.val).recSeq = x.recSeq + 1 ∧ (w.sport n.val).prev = some d ∧ w.islets = s.islets ∧ w.buoys = s.buoys ∧
        (w.sport n.val).toProject = (if s.inCamMask n.val then x.toProject ++ [d] else x.toProject)) ∧
      (x.proj = none → exec (.depthHeaderWrite n t) s = .next still) ∧
      (∀ j, x.proj = some j → ∃ (w : State) (tag k : Nat), exec (.depthHeaderWrite n t) s = .next (w.deliverFrame n.val 1 j.frame t) ∧
        (w.sport n.val).proj = none ∧ (w.sport n.val).depthSeq = x.depthSeq + 1 ∧ k ≤ 262144 ∧
        (w.sport n.val).toAssoc = x.toAssoc ++ [(j.frame, j.frame.slot.depth, tag, k)] ∧ w.islets = s.islets ∧ w.buoys = s.buoys) ∧
      (x.toProject = [] ∨ x.proj.isSome = true → exec (.projectionStart n t) s = .next still) ∧
      (∀ d rest, x.toProject = d :: rest → x.proj = none →
        let ends := d.window.2 + (s.cfgFld R.SHORE_PROJ_CFG R.SHORE_PROJ_CFG_wait_us * 1000 : Nat)
        (s.shoreFull = false ∨ (t : Int) ≤ ends → exec (.projectionStart n t) s = .next still) ∧
        (s.shoreFull = true → ends < t → ∃ u : State, exec (.projectionStart n t) s = .next u ∧ u.csr = s.csr ∧ u.mem = s.mem ∧
          (u.sport n.val).toProject = rest ∧ ∃ j, (u.sport n.val).proj = some j ∧ j.frame = d ∧
          ∀ b ∈ j.points, d.window.1 ≤ sext 64 (leAt b 0 8) ∧ sext 64 (leAt b 0 8) < d.window.2))) ∧
    (∀ p : Fin 8, let x := s.spair p.val
      let o := R.SHORE_PAIR_STATUS + 0x20 * p.val
      (∀ (f : FrameObs) (rest : List FrameObs) (oo : Int), x.waiting = f :: rest →
        let ref := s.pairRef p.val
        let ro := if f.pulse.isSome then f.o else (s.tracker ref).o
        let sk := if ref % 2 = 0 then oo - ro else ro - oo
        let per := (f.cfg.period * 1000 : Nat)
        let sensor := s.sensorSkew (2 * p.val) || s.sensorSkew (2 * p.val + 1)
        let breaks := per < sk.natAbs ∨ sensor = true
        let y := s.stereoRecord p.val f oo
        (y.spair p.val).recSeq = x.recSeq + 1 ∧ (y.spair p.val).waiting = rest ∧ y.islets = s.islets ∧ y.buoys = s.buoys ∧
        y.reg (R.SHORE_PAIR_SKEW + 0x20 * p.val) = (BitVec.ofInt 32 (max (-2147483648) (min sk 2147483647))).toNat ∧
        (s.pairSt p.val = 1 ∨ s.pairSt p.val = 2 ∧ x.resume = true → y.pairSt p.val = if breaks then 2 else 1) ∧
        (s.asleep = false → s.pairSt p.val = 1 → breaks → y.srcBit R.INTC_PEND 34 = true ∧
          y.reg (R.SHORE_PAIR_SUSPEND + 0x20 * p.val) = up (R.SHORE_PAIR_SUSPEND + 0x20 * p.val)) ∧
        (s.pairSt p.val = 2 → x.resume = false → y.pairSt p.val = 2 ∧
          y.fld o R.SHORE_PAIR_STATUS_trial = if 2 * sk.natAbs < per then min 8 (s.fld o R.SHORE_PAIR_STATUS_trial + 1) else 0)) ∧
      (s.stereoReady p.val = none → exec (.stereoRecordWrite p t) s = .next still) ∧
      (∀ f, s.stereoReady p.val = some f → let due := decide (f.t + 2 * (f.cfg.period * 1000 : Nat) ≤ t)
        (s.otherOffset p.val f due = none → exec (.stereoRecordWrite p t) s = .next still) ∧
        (∀ oo, s.otherOffset p.val f due = some oo → exec (.stereoRecordWrite p t) s = .next (still.stereoRecord p.val f oo))) ∧
      (x.waiting = [] ∨ s.pairSt p.val ≠ 1 ∧ s.pairSt p.val ≠ 2 → exec (.stereoPartnerTimeout p t) s = .next still) ∧
      (∀ f rest, x.waiting = f :: rest → s.pairSt p.val = 1 ∨ s.pairSt p.val = 2 →
        ((t : Int) < f.t + 2 * (f.cfg.period * 1000 : Nat) → exec (.stereoPartnerTimeout p t) s = .next still) ∧
        (f.t + 2 * (f.cfg.period * 1000 : Nat) ≤ t → ∃ oo, s.otherOffset p.val f true = some oo ∧
          exec (.stereoPartnerTimeout p t) s = .next (still.stereoRecord p.val f oo)))) ∧
    (∀ k : Fin 8, let o := R.SHORE_FSYNC_CFG + 0x10 * k.val
      let c := R.SHORE_FSYNC_COUNT + 0x10 * k.val
      let x := s.spin k.val
      let late := ∀ e ∈ x.pulses.head?, s.cfgBit o R.SHORE_FSYNC_CFG_base = false → (∃ u ∈ s.time.tb0StepAt, e.1 < u ∧ u ≤ t) →
        2 * e.1 + s.cfgReg (R.SHORE_FSYNC_PERIOD + 0x10 * k.val) * 1000 ≤ 2 * t
      let now := x.on = true ∧ s.pinMatches k.val t = true ∧ late
      (¬ now → exec (.fsyncPulse k t) s = .next still) ∧
      (now → ∃ u : State, exec (.fsyncPulse k t) s = .next u ∧ u.reg c = (s.reg c + 1) % 2 ^ 32 ∧
        u.out = s.out ++ [.pulse k.val (!s.cfgBit o R.SHORE_FSYNC_CFG_polarity) t (s.cfgFld o R.SHORE_FSYNC_CFG_width_us * 1000)] ∧
        u.spin k.val = { x with pulses := ((t, (s.reg c + 1) % 2 ^ 32) :: x.pulses).take 64 })) ∧
    (∀ (p : Fin 4) (src : Word32) (port : BitVec 16) (frag : Bool) (data : List Byte),
      let c := Instr.lidarDatagram p src port frag data t
      let hit := (s.lidarTemplates.zipIdx).find? fun e =>
        leAt e.1 0 1 == 1 && bitOf (leAt e.1 2 1) p.val && leAt e.1 8 2 == port.toNat && (leAt e.1 4 4 == 0 || leAt e.1 4 4 == src.toNat)
      (s.shoreFull = false → exec c s = .next still.refreshMask) ∧
      (s.shoreFull = true → hit = none → ∃ u : State, exec c s = .next u.refreshMask ∧ u.shore = s.shore ∧ u.mem = s.mem ∧
        u.reg R.SHORE_LIDAR_UNMATCHED = up R.SHORE_LIDAR_UNMATCHED) ∧
      (∀ tm j, s.shoreFull = true → hit = some (tm, j) → let k := leAt tm 1 1 % 4
        let n := ((List.range (leAt tm 0xE 2)).filter fun i => (lidarPoint tm (data.drop (leAt tm 0xA 2 + i * leAt tm 0x10 2))).isSome).length
        (frag = true ∨ data.length ≠ leAt tm 0xC 2 → ∃ u : State, exec c s = .next u.refreshMask ∧ u.shore = s.shore ∧ u.mem = s.mem ∧
          u.reg (R.SHORE_LIDAR_ERR + 0x20 * k) = up (R.SHORE_LIDAR_ERR + 0x20 * k) ∧ u.srcBit R.INTC_PEND 37 = true) ∧
        (frag = false → data.length = leAt tm 0xC 2 → (s.stream k).next < 2 ^ 32 → ∃ u : State, exec c s = .next u.refreshMask ∧
          u.reg (R.SHORE_LIDAR_PKTS + 0x20 * k) = up (R.SHORE_LIDAR_PKTS + 0x20 * k) ∧ (u.stream k).next = ((s.stream k).next + n) % 2 ^ 32 ∧
          u.reg (R.SHORE_LIDAR_POINTS + 0x20 * k) = min (s.reg (R.SHORE_LIDAR_POINTS + 0x20 * k) + n) (2 ^ 32 - 1) ∧
          u.islets = s.islets ∧ u.buoys = s.buoys)))

/-- 08 R223–R225, R231, R234, R236, R240, R244. -/
def Obligations.EstimatorRuns : Prop :=
  ∀ (t : Nat) (s : State), s.asleep = false →
    let still : State := { s with tb3 := max s.tb3 t }
    (∀ b < 28, s.refreshMask.admitted b = decide (s.maskCause b = 0)) ∧
    (∀ b : Fin 28, exec (.sourceDropout b t) s = .next (if still.maskCause b.val = 2 then still.refreshMask else still)) ∧
    (∀ n : Fin 16, let x := s.sport n.val
      (x.toAssoc = [] → exec (.associationWrite n t) s = .next still) ∧
      (∀ d k tag pts rest, x.toAssoc = (d, k, tag, pts) :: rest → ∃ w : State, exec (.associationWrite n t) s = .next (w.deliverFrame n.val 2 d t) ∧
        (w.sport n.val).toAssoc = rest ∧ w.csr = s.csr ∧ w.islets = s.islets ∧ w.buoys = s.buoys ∧
        ∃ rows, rows ≤ d.rows ∧ (∀ a, a < placedAddr d.slot.assoc ∨ placedAddr d.slot.assoc + 64 + 32 * rows ≤ a → w.byte a = s.byte a))) ∧
    (let p := s.cfgFld R.FUSE_SMOOTH_CFG R.FUSE_SMOOTH_CFG_period_ms * 1000000
     let starts := s.fuse.pass = none ∧ s.estState = 2 ∧ s.dev.estStopped = false ∧ t % p = 0
     (¬ starts → exec (.smootherPassStart t) s = .next still) ∧
     (starts → ∃ u : State, exec (.smootherPassStart t) s = .next u ∧ u.fuse.pass = some { start := t, now := s.fuse.now, est := s.fuse.est, nodes := s.fuse.nodes, items := s.fuse.window.filter fun i => decide (s.fuse.now - s.lagNs ≤ i.t) && decide (i.t ≤ s.fuse.now) && !i.failed } ∧ u.csr = s.csr ∧
       u.fuse.est = s.fuse.est ∧ u.fuse.latePass = s.fuse.lateWait) ∧
     (s.fuse.pass = none → exec (.smootherPassEnd t) s = .next still.freeze) ∧
     (∀ r, s.fuse.pass = some r → ∃ u : State, exec (.smootherPassEnd t) s = .next u ∧ u.fuse.pass = none ∧ u.fuse.now = s.fuse.now ∧
       (s.dev.estStopped = true → u.fuse = { still.freeze.fuse with pass := none } ∧ u.csr = s.csr) ∧
       (s.dev.estStopped = false → (∃ e, u.fuse.result = some (r.now, e)) ∧ u.fuse.latePass = false ∧
         (s.fuse.latePass = true → u.fuse.fLateApplied = true ∨ u.fuse.fLateNext = true) ∧
         u.fuse.fStale = (s.fuse.fStale || decide (2 * p < t - r.start))))) ∧
    (let m := match s.fuse.frozen with
      | some f => f.mask
      | none => s.fuse.mask;
    (s.fuse.boundary = none → exec (.poseSeal t) s = .next still) ∧
    (∀ e tb, s.fuse.boundary = some (e, tb) →
      (s.sealsNow = false → exec (.poseSeal t) s = .next { still with fuse := { s.fuse with boundary := none, frozen := none } }) ∧
      (s.sealsNow = true → t < s.waitEnd tb → exec (.poseSeal t) s = .next still) ∧
      (s.sealsNow = true → s.waitEnd tb ≤ t → ∃ w : State, w.fuse.boundary = none ∧ w.fuse.lastOut = some tb ∧ w.dev.tWake = none ∧
        w.reg R.FUSE_RECORDS = (s.reg R.FUSE_RECORDS + 1) % 2 ^ 32 ∧ w.reg R.FUSE_MASK = m % 2 ^ 32 ∧ w.fuse.frozen = none ∧
        w.reg R.FUSE_SEAL_LAST = min ((t - tb) / 1000) 255 ∧ w.reg R.FUSE_SEAL_MAX = max (min ((t - tb) / 1000) 255) (s.reg R.FUSE_SEAL_MAX) ∧
        (150000 < t - tb → w.srcBit R.INTC_PEND 100 = true ∧ w.reg R.FUSE_SEAL_OVERRUNS = min (s.reg R.FUSE_SEAL_OVERRUNS + 1) (2 ^ 32 - 1)) ∧
        s.out <+: w.out ∧ w.islets = s.islets ∧ w.buoys = s.buoys ∧
        (s.estState ≠ 2 → exec (.poseSeal t) s = .next w) ∧
        (s.estState = 2 → ∃ p : PoseOut, p.t = (s.toBase 0 tb).toNat ∧ p.mask = m ∧ exec (.poseSeal t) s = .next (w.makeKeyframe p t)))))

/-- 09 R248, R252–R254, R263, R266; the keyframes that waited and the Reef's registers follow. -/
def Obligations.SolverRuns : Prop :=
  ∀ (t : Nat) (s : State), s.asleep = false →
    let still : State := { s with tb3 := max s.tb3 t }
    let up := fun (p : Nat) => min (s.reg p + 1) (2 ^ 32 - 1)
    let gen := s.reg R.GSOL_MAP_GEN
    (∀ (failed : Bool) (lost : List (BitVec 26)), let c := Instr.bundleAdjustEnd failed lost t;
      (s.gsol.ba = none → exec c s = .next still.reefSync) ∧
      (∀ b, s.gsol.ba = some b → ∃ w : State, exec c s = .next w.reefSync ∧ w.reg R.GSOL_BA_RUNS = up R.GSOL_BA_RUNS ∧
        w.gsol.nodes.map (fun n => n.kf) = s.gsol.nodes.map (fun n => n.kf) ∧ w.gsol.edges = s.gsol.edges ∧
        (b.gen ≠ gen → w.reg R.GSOL_BA_DISCARD = up R.GSOL_BA_DISCARD ∧ w.gsol.nodes = s.gsol.nodes) ∧
        (b.gen = gen → w.reg R.GSOL_BA_DISCARD = s.reg R.GSOL_BA_DISCARD) ∧
        (b.gen = gen → failed = true → w.gsol.nodes = s.gsol.nodes ∧ w.reg R.GSOL_NOT_POSITIVE = s.reg R.GSOL_NOT_POSITIVE) ∧
        (b.gen = gen → failed = false → b.problem.optimise s.maxIter = none → w.gsol.nodes = s.gsol.nodes ∧ w.reg R.GSOL_NOT_POSITIVE = up R.GSOL_NOT_POSITIVE ∧
          w.srcBit R.INTC_PEND 129 = true) ∧
        (∀ p, b.gen = gen → failed = false → b.problem.optimise s.maxIter = some p → w.gsol.nodes = takePoses p s.gsol.nodes ∧
          w.reg R.GSOL_NOT_POSITIVE = s.reg R.GSOL_NOT_POSITIVE) ∧
        (let n := s.gsol.baWait + (if b.gen = gen then 0 else 1)
         (n = 0 ∨ s.gsolMayStart = false → w.gsol.ba = none ∧ w.gsol.baWait = n) ∧
         (n ≠ 0 → s.gsolMayStart = true → w.gsol.baWait = n - 1 ∧ ∃ b', w.gsol.ba = some b' ∧ b'.gen = gen)))) ∧
    (let may := s.gsolMayStart = true ∧ s.gsol.opt = none ∧ s.gsol.rewrite = none ∧ s.map.corrs = []
     (s.gsol.verdicts = [] ∨ ¬ may → exec (.optimisationStart t) s = .next still) ∧
     (∀ v rest, s.gsol.verdicts = v :: rest → may → ∃ u : State, exec (.optimisationStart t) s = .next u ∧ u.gsol.verdicts = rest ∧
       (s.findNode v.kfQuery = none ∨ s.findNode v.kfMatch = none → u.gsol = { s.gsol with verdicts := rest }) ∧
       ((s.findNode v.kfQuery).isSome = true → (s.findNode v.kfMatch).isSome = true →
         let t2 := s.cfgReg R.GSOL_WS_T2
         let t3 := s.cfgReg R.GSOL_WS_T3
         ∃ (w : State) (mib : Nat), w.place = s.place ∧ u.reg R.GSOL_LAST_FACTOR_MIB = min mib (2 ^ 32 - 1) ∧
           (∀ tier ids, (w.findWorkspace mib).1 = some (tier, ids) → (tier = 2 ∧ mib ≤ t2 ∨ tier = 3 ∧ mib ≤ t3) ∧
             (∃ o, u.gsol.opt = some o ∧ o.verdict = v ∧ o.start = t ∧ o.spilled = decide (tier = 3) ∧ o.ws = ids ∧ o.nodes = s.gsol.nodes ∧
               o.edges = s.gsol.edges ∧ o.loop.a = v.kfQuery ∧ o.loop.b = v.kfMatch ∧ o.loop.z = v.z ∧ o.loop.sigma = v.sigma) ∧
             u.gsol.nextEdge = s.gsol.nextEdge + 1 ∧ u.reg R.GSOL_SPILLS = if tier = 3 then up R.GSOL_SPILLS else s.reg R.GSOL_SPILLS) ∧
           (t2 < mib → t3 < mib → (w.findWorkspace mib).1 = none) ∧
           ((w.findWorkspace mib).1 = none → u.gsol.opt = none ∧ u.gsol.nodes = s.gsol.nodes ∧ u.gsol.edges = s.gsol.edges ∧
             u.reg R.GSOL_TOO_LARGE = up R.GSOL_TOO_LARGE ∧ u.srcBit R.INTC_PEND 129 = true)))) ∧
    (∀ failed : Bool, let c := Instr.optimisationEnd failed t;
      (s.gsol.opt = none → exec c s = .next still.reefSync) ∧
      (∀ o, s.gsol.opt = some o → let us := min ((t - o.start) / 1000) (2 ^ 32 - 1)
        let back := fun (w : State) => w.gsol.opt = none ∧ w.gsol.nodes = o.nodes ∧ w.gsol.edges = o.edges ∧ w.gsol.priors = o.priors ∧
          w.gsol.retired = o.retired ∧ w.reg R.GSOL_SOLVE_LAST_US = us ∧ w.reg R.GSOL_SOLVE_MAX_US = max us (s.reg R.GSOL_SOLVE_MAX_US) ∧
          exec c s = .next (w.joinWaiting.gsolRegs).reefSync
        (failed = true → ∃ w : State, back w ∧ w.reg R.GSOL_REJECT = s.reg R.GSOL_REJECT ∧ w.reg R.GSOL_NOT_POSITIVE = s.reg R.GSOL_NOT_POSITIVE) ∧
        (failed = false → o.problem.optimise s.maxIter = none → ∃ w : State, back w ∧ w.reg R.GSOL_NOT_POSITIVE = up R.GSOL_NOT_POSITIVE ∧
          w.srcBit R.INTC_PEND 129 = true) ∧
        (∀ p, failed = false → o.problem.optimise s.maxIter = some p →
          let high := f32Lt (s.cfgReg R.GSOL_ACCEPT_TH) (p.linear o.loop.con).cost = true
          (high → ∃ w : State, back w ∧ w.reg R.GSOL_REJECT = up R.GSOL_REJECT) ∧
          (¬ high → ∃ (w : State) (k : Corr), exec c s = .next w.reefSync ∧ w.gsol.opt = none ∧ w.gsol.nodes = takePoses p s.gsol.nodes ∧
            w.gsol.rewrite = some (k, o.loop) ∧ k.gen = nextGen gen ∧ k.prev = gen ∧ k.kfQuery = o.verdict.kfQuery ∧ k.kfMatch = o.verdict.kfMatch ∧
            k.tiles = tileTransforms (o.work.take s.gsol.nodes.length) (takePoses p (o.work.take s.gsol.nodes.length)) ∧
            w.reg R.GSOL_SOLVE_LAST_US = us ∧ w.reg R.GSOL_REJECT = s.reg R.GSOL_REJECT ∧
            w.reg R.GSOL_NOT_POSITIVE = s.reg R.GSOL_NOT_POSITIVE))))

/-- 10 R280, R281, R286, R290, R291, R295, R304; the Reef's registers, and what waits for the commit (`afterDurable`), follow. -/
def Obligations.MapJournal : Prop :=
  ∀ (t : Nat) (s : State), s.asleep = false →
    let still : State := { s with tb3 := max s.tb3 t }
    let m := s.map
    let up := fun (p : Nat) => min (s.reg p + 1) (2 ^ 32 - 1)
    (∀ r : MapRec, let x := exec (.recordSubmit r t) s
      let known := m.deferred.any fun d => sameObj d r
      (s.mapState ≠ 2 → x = .next still.reefSync) ∧
      (s.mapState = 2 → m.refuse = true → ∃ w : State, x = .next w.reefSync ∧ w.map = m ∧ w.reg R.MAP_PFAIL_LOST = up R.MAP_PFAIL_LOST) ∧
      (s.mapState = 2 → m.refuse = false → s.tileFull r = true → ∃ w : State, x = .next w.reefSync ∧ w.map = m ∧ w.reg R.MAP_TILE_FULL = up R.MAP_TILE_FULL) ∧
      (s.mapState = 2 → m.refuse = false → s.tileFull r = false → s.defers r.prio.toNat = true → ∃ w : State, x = .next w.reefSync ∧
        w.map = { m with deferred := if known then m.deferred.map (fun d => if sameObj d r then r else d) else m.deferred ++ [r] } ∧
        w.reg R.MAP_COALESCED = (if known then up R.MAP_COALESCED else s.reg R.MAP_COALESCED) ∧
        w.reg R.MAP_DEFERRED = if known then s.reg R.MAP_DEFERRED else up R.MAP_DEFERRED) ∧
      (s.mapState = 2 → m.refuse = false → s.tileFull r = false → s.defers r.prio.toNat = false → let c := m.cur.getD { id := m.nextId }
        m.buf.length + (recBytes r).length ≤ pageBytes → c.pages.length + 1 + b2n (decide (m.group ≠ [])) < 2000 → ∃ w : State, x = .next w.reefSync ∧
        w.map.buf = m.buf ++ recBytes r ∧ w.map.content = m.content.apply c.id r ∧ w.fld R.MAP_STATUS R.MAP_STATUS_sealed = 0 ∧
        w.map.nand = m.nand ∧ w.map.blocks = m.blocks ∧ w.map.flight = m.flight ∧ w.map.wait = m.wait ∧
        w.map.cur = some { c with records := c.records + 1, since := if c.records = 0 then max s.tb3 t else c.since, ms := if c.records = 0 then s.cfgFld R.MAP_CFG R.MAP_CFG_commit_ms else c.ms })) ∧
    (let due := fun (c : Commit) => 1 ≤ c.records ∧ c.since + c.ms * 1000000 ≤ t ∧ m.refuse = false
     ((∀ c, m.cur = some c → ¬ due c) → exec (.commitIntervalExpiry t) s = .next still) ∧
     (∀ c, m.cur = some c → due c → ∃ u : State, exec (.commitIntervalExpiry t) s = .next u ∧ u.map.cur = none ∧
       ∃ d, (u.map.flight = some d ∨ d ∈ u.map.wait) ∧ d.id = c.id)) ∧
    (∀ c0 c1 : Option Nat, let x := exec (.commitDurable t c0 c1) s
      let good := fun (r : Option Nat) => ∃ n, r = some n ∧ n ≤ s.cfgFld R.MAP_ECC_CFG R.MAP_ECC_CFG_commit_margin
      (m.flight = none ∨ m.geo = none → x = .next still) ∧
      (∀ c, m.flight = some c → c.copies = [] ∨ (∃ p ∈ c.copies, p.done = false) → x = .next still) ∧
      (∀ c a b, m.flight = some c → m.geo.isSome = true → c.copies = [a, b] → a.done = true → b.done = true →
        (good c0 → good c1 → ∃ w : State, x = .next (w.afterDurable c t) ∧ w.map.head = c.id ∧ w.map.headPage = a.page.data ∧
          w.reg64 R.MAP_HEAD_COMMIT_LO = c.id % 2 ^ 64 ∧ w.reg R.MAP_COMMITS = up R.MAP_COMMITS ∧ w.map.cur = m.cur ∧
          (bitOf c.flags 0 = true → c.dropped = false → w.map.ckpt = c.id ∧ w.reg R.MAP_CKPTS = up R.MAP_CKPTS) ∧
          (bitOf c.flags 0 = false → w.map.ckpt = m.ckpt ∧ w.reg R.MAP_CKPTS = s.reg R.MAP_CKPTS)) ∧
        (¬ (good c0 ∧ good c1) → ∃ (w : State) (d : Commit), x = .next w ∧ w.map.head = m.head ∧ w.map.flight = some d ∧ d.id = c.id ∧ d.pages = c.pages ∧
          d.copies.length = 2 ∧ (good c0 → d.copies[0]? = some a) ∧ (good c1 → d.copies[1]? = some b) ∧
          (∀ q ∈ d.copies, q = a ∨ q = b ∨ q.done = false) ∧ w.reg R.MAP_COMMITS = s.reg R.MAP_COMMITS)))

/-- 10 R273, R274, R291, R293, R298, R301–R306, 13 R365; the budget and the Reef's registers follow. -/
def Obligations.MapFlash : Prop :=
  ∀ s : State, s.asleep = false →
    let m := s.map
    let at_ := fun (t : Nat) => ({ s with tb3 := max s.tb3 t } : State)
    (let u := s.startOps;
      u = { s with map := { m with busy := u.map.busy } } ∧ (∀ o ∈ m.busy, o ∈ u.map.busy) ∧
      (∀ o ∈ u.map.busy, o ∈ m.busy ∨ o ∈ s.opsDue ∧ s.lunBusy o.lun = false) ∧
      (∀ g, m.geo = some g → ∀ c, let n := fun (l : List NOp) => (l.filter fun x => chanOf x.lun == c).length
        n u.map.busy ≤ max (n m.busy) g.busyMax)) ∧
    (∀ p : Nat, let o : NOp := { erase := false, key := p }
      let u := s.startOps
      (∀ pass, o ∉ u.map.busy → exec (.nandProgramDone p pass) s = .next u.reefSync) ∧
      (∀ pass, o ∈ u.map.busy → m.geo = none ∨ s.programming p = none → exec (.nandProgramDone p pass) s = .next ((u.endOp o).runFlash).reefSync) ∧
      (∀ g c x, o ∈ u.map.busy → m.geo = some g → s.programming p = some (c, x) → 1 ≤ g.ppw →
        (∃ w : State, exec (.nandProgramDone p true) s = .next w.reefSync ∧ w.npage p = some { x.page with spare := x.page.spareArea s.spareBytes } ∧
          (∀ i < g.ppw - 1, ∃ y, w.npage (p + 1 + i) = some y ∧ y.typ = 0x0A ∧ y.seq = x.page.seq + 1 + i) ∧
          (∀ k, k < p ∨ p + g.ppw ≤ k → w.npage k = s.npage k) ∧ w.islets = s.islets ∧ w.buoys = s.buoys ∧ w.mem = s.mem) ∧
        (∃ w : State, exec (.nandProgramDone p false) s = .next w.reefSync ∧ w.map.nand = m.nand ∧ w.islets = s.islets ∧ w.buoys = s.buoys))) ∧
    (∀ (b : Nat) (pass : Bool), let x := s.nblock b
      let o : NOp := { erase := true, key := b }
      (o ∉ s.startOps.map.busy → exec (.nandEraseDone b pass) s = .next s.startOps.reefSync) ∧
      (o ∈ s.startOps.map.busy → ∃ w : State, w.map.eraseTotal = m.eraseTotal + 1 ∧ w.map.credit = m.credit - 1 ∧ (w.nblock b).erases = x.erases + 1 ∧
        (pass = true → exec (.nandEraseDone b pass) s = .next (w.budgetRegs.staticWear.runFlash).reefSync ∧ (w.nblock b).state = .free ∧
          (w.nblock b).payload = x.payload ∧ (∀ k, blockOf k = b → w.npage k = none) ∧ (∀ k, blockOf k ≠ b → w.npage k = s.npage k) ∧
          b ∉ w.map.reclaim) ∧
        (pass = false → exec (.nandEraseDone b pass) s = .next (((w.retireBlock b).budgetRegs).staticWear.runFlash).reefSync ∧ w.map.nand = m.nand))) ∧
    (∀ (p : Nat) (r : ReadEnd) (fixed worst : Nat), let b := blockOf p
      let x := s.nblock b
      let s0 := s.setNblock b { x with reads := x.reads + 1 }
      let s1 := s0.takeRead p (decide (r ≠ .uncorrectable))
      let fresh := r ≠ .hard ∨ s.cfgFld R.MAP_ECC_CFG R.MAP_ECC_CFG_refresh_bits ≤ worst ∨
        s.cfgFld R.MAP_PATROL_CFG R.MAP_PATROL_CFG_disturb_k * 1000 ≤ x.reads + 1
      (s.readOf p = none → s1 = s0) ∧
      (∀ q, s.readOf p = some q → (∀ pr, q.who ≠ .move pr) → s1.csr = s.csr ∧ s1.map.blocks = s0.map.blocks ∧ s1.map.nand = m.nand ∧
        s1.map.reads.map (fun e => e.page) = (m.reads.erase q).map fun e => e.page) ∧
      (∀ q pr y, s.readOf p = some q → q.who = .move pr → s.npage p = some y → r ≠ .uncorrectable → m.refuse = false →
        s1 = ((({ s0 with map := { s0.map with reads := m.reads.erase q } }) : State).movePage pr (p, y)).runFlash) ∧
      ∃ w : State, w.map = s1.map ∧ w.mem = s1.mem ∧
        w.reg R.MAP_CE = min (s1.reg R.MAP_CE + fixed) (2 ^ 32 - 1) ∧
        w.reg R.MAP_PARITY_FIX = (if r = .parity then min (s1.reg R.MAP_PARITY_FIX + 1) (2 ^ 32 - 1) else s1.reg R.MAP_PARITY_FIX) ∧
        w.reg R.MAP_UNCORRECTABLE = (if r = .uncorrectable then min (s1.reg R.MAP_UNCORRECTABLE + 1) (2 ^ 32 - 1) else s1.reg R.MAP_UNCORRECTABLE) ∧
        (r = .uncorrectable → w.srcBit R.INTC_PEND 164 = true ∧ exec (.nandReadDone p r fixed worst) s = .next (w.retireBlock b).reefSync) ∧
        (r ≠ .uncorrectable → fresh → exec (.nandReadDone p r fixed worst) s = .next (w.refreshBlock b).reefSync) ∧
        (r ≠ .uncorrectable → ¬ fresh → exec (.nandReadDone p r fixed worst) s = .next w.reefSync)) ∧
    (∀ p t : Nat, let l := s.lateReads p t
      let ask := fun (q : NRead) => (q.page, q.cls, q.who)
      let may := s.running = true ∧ (s.mapState = 2 ∨ s.mapState = 3) ∧ m.refuse = false ∧ m.holdTo = none ∧ (s.npage p).isSome = true ∧
        (s.nblock (blockOf p)).state ≠ .super
      (∀ q, q ∈ l ↔ q ∈ m.reads ∧ q.page = p ∧ ∃ u, q.issued = some u ∧ u + s.cfgReg R.MAP_READ_TMO * 1000 ≤ t) ∧
      (l = [] → exec (.nandReadTimeout p t) s = .next (at_ t)) ∧
      (l ≠ [] → ∃ w : State, exec (.nandReadTimeout p t) s = .next (l.foldl (fun (u : State) q => u.readFailed q t) w) ∧
        w.map.reads.map ask = (m.reads.filter fun q => !l.contains q).map ask ∧
        w.reg R.MAP_READ_TIMEOUT = min (s.reg R.MAP_READ_TIMEOUT + l.length) (2 ^ 32 - 1)) ∧
      (¬ may → exec (.patrolRead p t) s = .next (at_ t)) ∧
      (may → ∃ u : State, exec (.patrolRead p t) s = .next u ∧ u.csr = s.csr ∧ u.map.reads.map ask = m.reads.map ask ++ [(p, 14, .patrol)] ∧
        ∀ c, u.readsIn c ≤ max 16 (s.readsIn c))) ∧
    (let able := s.mapState = 2 ∧ m.refuse = false ∧ m.holdTo = none
     (∀ v, ¬ able → exec (.reclaimStart v) s = .next s.reefSync) ∧
     (able → s.poolGood ≤ s.poolFree * 200 → exec (.reclaimStart none) s = .next s.reefSync) ∧
     (able → s.poolFree * 200 < s.poolGood → exec (.reclaimStart none) s = .next (s.setMapState 3).reefSync ∧ (s.setMapState 3).mapState = 3 ∧
       (s.setMapState 3).srcBit R.INTC_LEVEL 165 = true) ∧
     (∀ b : Nat, let low := s.poolFree * 100 < 2 * s.poolGood
       let pr : BitVec 2 := if low then 0 else 2
       let takes := able ∧ (s.nblock b).state = .full ∧ b ∉ m.reclaim ∧ s.defers pr.toNat = false
       (able → ¬ takes → exec (.reclaimStart (some b)) s = .next s.reefSync) ∧
       (takes → ∃ w : State, exec (.reclaimStart (some b)) s = .next (w.moveBlock pr b).reefSync ∧ w.map = { m with reclaim := m.reclaim ++ [b] } ∧
         w.csr = s.csr))) ∧
    (∀ t : Nat, let f := m.creditFrac + (t - m.creditAt) * s.eDay
      ∃ w : State, exec (.eraseCreditAccrue t) s = .next w.budgetRegs.reefSync ∧ w.csr = s.csr ∧ w.map.creditFrac = f % 86400000000000 ∧
        w.map.credit = min (m.credit + (f / 86400000000000 : Nat)) (7 * s.eDay) ∧ w.map.creditAt = max t m.creditAt) ∧
    (∀ (plans : List UnitPlan) (bad : List Nat) (t : Nat), let x := exec (.mount plans bad t) s
      let waits := m.refuse = true ∨ m.holdTo.isSome = true ∨ s.dev.halting = true
      let w6 := { (at_ t).doLoad plans bad with dev := { ((at_ t).doLoad plans bad).dev with recoverStep := 7 } }
      (waits ∨ s.dev.state ∈ [.boot, .train, .enum, .mount, .watch] → x = .next (at_ t)) ∧
      (¬ waits → s.dev.state = .load → x = .next ((((at_ t).doLoad plans bad).enter .mount).doMount bad false t)) ∧
      (¬ waits → s.dev.state = .recover → s.dev.recoverStep ≠ 6 → x = .next (at_ t)) ∧
      (¬ waits → s.dev.state = .recover → s.dev.recoverStep = 6 → x = .next (w6.doMount bad s.wantsFormat t)) ∧
      (¬ waits → s.dev.state ∈ [.run, .degraded, .safe, .test, .halt] → x = .next (if s.mapState = 1 ∧ m.mountAt = none then (at_ t).doMount bad false t else at_ t)) ∧
      ((s.npage (chanPage 0)) = none → (s.npage (chanPage 8)) = none → s.cfgBit R.MAP_CFG R.MAP_CFG_format_blank = false →
        (s.mountMap bad).1 = false ∧ (s.mountMap bad).2.mapState = 5 ∧ (s.mountMap bad).2.map.nand = m.nand ∧
        (s.mountMap bad).2.fld R.MAP_CHANNELS R.MAP_CHANNELS_present = 0))

/-- 11 R314–R319, R328, R329; the events of the results (`placeEvents`) follow. -/
def Obligations.ReefUpdates : Prop :=
  ∀ s : State, s.asleep = false →
    let x := s.reef
    let at_ := fun (t : Nat) => ({ s with tb3 := max s.tb3 t } : State)
    let up := fun (p : Nat) => min (s.reg p + 1) (2 ^ 32 - 1)
    let able := s.reefState = 1 ∧ s.reefPaused = false ∧ s.reefHeld = false ∧ s.map.refuse = false
    let ready := able ∧ s.bufUsed < 4096
    let full := able ∧ 4096 ≤ s.bufUsed
    let pauses := fun (c : Instr) => ∃ u : State, exec c s = .next u ∧ u.reefPaused = true ∧ u.srcBit R.INTC_LEVEL 195 = true ∧ u.reef = x
    (¬ able → exec .reefInsert s = .next s ∧ (∀ n, exec (.reefDelete n) s = .next s) ∧ ∀ r t, exec (.compactPage ⟨r, t⟩) s = .next (at_ t)) ∧
    (full → pauses .reefInsert ∧ (∀ n, pauses (.reefDelete n)) ∧ ∀ r t, pauses (.compactPage ⟨r, t⟩)) ∧
    (ready → x.reqs = [] → exec .reefInsert s = .next s ∧ ∀ n, exec (.reefDelete n) s = .next s) ∧
    (∀ n rest, ready → x.reqs = .delete n :: rest → exec .reefInsert s = .next s ∧ ∀ k : BitVec 32, k.toNat ≠ n → exec (.reefDelete k) s = .next s) ∧
    (∀ kf sk d tx ty se tk rest, ready → x.reqs = .insert kf sk d tx ty se tk :: rest → (∀ n, exec (.reefDelete n) s = .next s) ∧
      let id := match x.freeIds with | n :: _ => some n | [] => if x.high < 2 ^ 32 then some x.high else none
      (id = none → ∃ u : State, exec .reefInsert s = .next u ∧ u.reef = { x with reqs := rest } ∧ u.reg R.REEF_INS_FAIL = up R.REEF_INS_FAIL ∧
        u.srcBit R.INTC_PEND 196 = true) ∧
      (∀ n, id = some n → ∃ u : State, exec .reefInsert s = .next u ∧ u.reef.reqs = rest ∧ n ∉ u.reef.freeIds ∧ u.reef.high = max x.high (n + 1) ∧
        u.reg R.REEF_INSERTS = up R.REEF_INSERTS ∧ let y := u.reef.newest.node n
        y.state = 1 ∧ y.gen = ((x.newest.node n).gen + 1) % 65536 ∧ y.keyframe = kf ∧ y.sketch = sk ∧ y.desc = d ∧ y.tileX = tx ∧ y.tileY = ty ∧
        y.sensor = se ∧ y.tKf = tk)) ∧
    (∀ (n : BitVec 32) rest, ready → x.reqs = .delete n.toNat :: rest → ∃ u : State, exec (.reefDelete n) s = .next u ∧ u.reef.reqs = rest ∧
      let v := x.newest.node n.toNat
      (v.state ≠ 1 → u.reef = { x with reqs := rest } ∧ u.csr = s.csr) ∧
      (v.state = 1 → u.reg R.REEF_DELETES = up R.REEF_DELETES ∧ u.reef.newest.node n.toNat = { v with state := 2, gen := (v.gen + 1) % 65536, entry := false })) ∧
    (∀ (r : Bool) (t : Nat), ready →
      let late := x.swept.filter fun u => decide (t < u + 1000000000)
      let off := s.cfgBit R.REEF_CFG R.REEF_CFG_compact_en = false ∨ s.cfgFld R.REEF_COMPACT_CFG R.REEF_COMPACT_CFG_pages_per_s ≤ late.length
      let l := s.reg R.REEF_SWEEP_PAGE
      let ask := fun (q : NRead) => (q.page, q.cls, q.who)
      let queued := ∃ q ∈ s.map.reads, q.who = .sweep l
      let waits := s.readWaits (.sweep l) = true
      let ok := r || !s.sweepReads l
      (off → exec (.compactPage ⟨r, t⟩) s = .next (at_ t)) ∧
      (¬ off → s.sweepReads l = true → waits → exec (.compactPage ⟨r, t⟩) s = .next { at_ t with reef := { x with swept := late } }) ∧
      (¬ off → s.sweepReads l = true → ¬ queued → ∃ u : State, exec (.compactPage ⟨r, t⟩) s = .next u ∧ u.reef = { x with swept := late } ∧ u.csr = s.csr ∧
        u.map.reads.map ask = s.map.reads.map ask ++ [(SMap.get (fun _ => 0) s.map.content.index l / 2 ^ 28, 14, .sweep l)]) ∧
      (¬ off → s.sweepReads l = false ∨ queued ∧ ¬ waits → ∃ u : State, exec (.compactPage ⟨r, t⟩) s = .next u ∧ u.reef.high = x.high ∧ u.reef.reqs = x.reqs ∧
        u.reef.swept = late ++ [t] ∧
        u.reg R.REEF_SWEEP_PAGE = (if x.high ≤ 64 * (l + 1) then 0 else (l + 1) % 2 ^ 32) ∧
        u.reg R.REEF_SWEEPS = (if x.high ≤ 64 * (l + 1) then up R.REEF_SWEEPS else s.reg R.REEF_SWEEPS) ∧
        (ok = false → u.reg R.REEF_READ_ERR = up R.REEF_READ_ERR ∧ u.srcBit R.INTC_PEND 194 = true) ∧
        (ok = false → 64 * (l + 1) < x.high → u.reef = { x with swept := late ++ [t], sweepBad := x.sweepBad ++ [l], sweepBegan := if l = 0 then x.newest.tombs else x.sweepBegan }))) ∧
    (∃ u : State, exec .updaterResume s = .next u ∧ (u.reefPaused = true ↔ s.reefPaused = true ∧ 4096 ≤ s.trimBuf.bufUsed) ∧ u.reef = s.trimBuf.reef ∧
      (s.reefPaused = true → s.trimBuf.bufUsed < 4096 → u.srcBit R.INTC_LEVEL 195 = false)) ∧
    (∀ (e : Fin 16) (w v : Nat) (ok : Bool) (t : Nat), let hit := x.ctxs.filter fun c => c.engine == e.val && c.version == v && c.cws.contains w
      let cached := fun (z : ReefSt) => SMap.get (fun _ => ([] : List (Nat × Nat))) z.caches e.val
      let waits := s.readWaits (.codeword e.val w v) = true
      (waits → exec (.codewordReadDone e w v ok t) s = .next ((at_ t).placeEvents t)) ∧
      (¬ waits → hit = [] → ok = false → exec (.codewordReadDone e w v ok t) s = .next (((at_ t).endReads (.codeword e.val w v)).reefRegs.placeEvents t)) ∧
      (¬ waits → hit = [] → ok = true → ∃ u : State, exec (.codewordReadDone e w v ok t) s = .next (u.placeEvents t) ∧ cached u.reef = ((w, v) :: cached x).take 256 ∧
        u.reef.ctxs = x.ctxs ∧ u.reg R.REEF_READ_ERR = s.reg R.REEF_READ_ERR) ∧
      (∀ c, ¬ waits → hit = [c] → c.cws.filter (fun k => k != w) ≠ [] → ∃ u : State, exec (.codewordReadDone e w v ok t) s = .next (u.placeEvents t) ∧
        u.reef.ctxs = x.ctxs.map (fun d => if d = c then { c with cws := c.cws.filter (fun k => k != w), badCws := if ok then c.badCws else c.badCws ++ [w] } else d) ∧
        u.reg R.REEF_READ_ERR = (if ok then s.reg R.REEF_READ_ERR else up R.REEF_READ_ERR) ∧ (ok = false → u.srcBit R.INTC_PEND 194 = true))) ∧
    (∀ k t : Nat, let due := ∃ c, x.ctxs[k]? = some c ∧ c.since + s.cfgReg R.REEF_QUERY_TMO * 1000000 ≤ t
      (¬ due → exec (.reefQueryTimeout k t) s = .next ((at_ t).placeEvents t)) ∧
      (due → ∃ w : State, exec (.reefQueryTimeout k t) s = .next (w.reefSync.placeEvents t) ∧ w.reef.ctxs = x.ctxs.eraseIdx k ∧
        w.reg R.REEF_TIMEOUT = up R.REEF_TIMEOUT ∧
        ∀ c, x.ctxs[k]? = some c → w.reg R.REEF_STALE_EDGES = min (s.reg R.REEF_STALE_EDGES + c.stale) (2 ^ 32 - 1)))

/-- 01 R19, R21, 00 R12, 12 R340, R354, 13 R365, R369, R372, 16 R424, R425, R429, R432–R434, 18 R449, R450. -/
def Obligations.Power : Prop :=
  ∀ (t : Nat) (s : State),
    let at_ := fun (x : State) => ({ x with tb3 := max x.tb3 t } : State)
    let still := at_ s
    let up := fun (p : Nat) => min (s.reg p + 1) (2 ^ 32 - 1)
    let holds := s.pwr.pfailLow = true ∨ s.map.holdTo.isSome = true
    let keeps := fun (u : State) => u.map.nand = s.map.nand ∧ u.cfg.nor = s.cfg.nor ∧ u.sec.rows = s.sec.rows ∧ u.sec.seed = s.sec.seed ∧
      u.sec.integratorHash = s.sec.integratorHash ∧ u.sec.vendorDisable = s.sec.vendorDisable ∧ u.islets = [] ∧ u.mem = [] ∧ u.place.list = [] ∧ u.units = []
    let with_ := fun (x : State) (p : Pwr) => ({ x with pwr := p } : State)
    let dev_ := fun (x : State) (d : Dev) => ({ x with dev := d } : State)
    (∃ u : State, exec .porAssert s = .next u ∧ u.dev.poweredOff = true ∧ u.dev.state = .off ∧ u.tb3 = 0 ∧ u.csr = [] ∧ keeps u) ∧
    (∀ (head : Bool) (b : BootIn), ∃ u : State, exec (.coldStart false head none b t) s = .next u ∧ u.dev.state = .boot ∧ u.asleep = true ∧
      u.tb3 = 0 ∧ u.dev.epoch = 0 ∧ u.isHead = head ∧ keeps u ∧ ∃ v : State, exec (.coldStart true head none b t) s = .next (v.boot b t) ∧
      v.tb3 = t ∧ v.dev.epoch = t / 250000 ∧ v.isHead = head ∧ v.dev.state = .boot ∧ v.asleep = false ∧ keeps v) ∧
    (∀ b : BootIn, ((s.setState .boot).startKey.secRegs.domains).bootImage.1 = none → (s.boot b t).dev.state = .boot ∧
      (s.boot b t).dev.bootFailed = true ∧ (s.boot b t).ep.configOpen = true) ∧
    (let spared := s.dev.state = .sleep ∨ s.dev.poweredOff = true;
      (spared → exec (.pwrOkLoss t) s = .next (dev_ still { s.dev with pwrOk := false })) ∧
      (¬ spared → ∃ u : State, exec (.pwrOkLoss t) s = .next u ∧ u.asleep = true ∧ u.dev.state = .boot ∧ u.isHead = s.isHead ∧ keeps u)) ∧
    (∀ w : WakeIn, let x := .pwrOkRise w t
      let ok := dev_ s { s.dev with pwrOk := true }
      let off := s.dev.poweredOff = false ∧ s.dev.pwrOk = false
      (¬ off → exec x s = .next s) ∧
      (off → s.dev.state = .sleep → s.pwr.latched = 0 ∨ holds → exec x s = .next ok) ∧
      (off → s.dev.state = .sleep → s.pwr.latched ≠ 0 → ¬ holds → exec x s = .next ((at_ ok).wakeGo w t)) ∧
      (off → s.dev.state ≠ .sleep → ∃ (v : State) (n : Nat), exec x s = .next (v.boot w.boot n) ∧ v.dev.pwrOk = true ∧ v.csr = s.csr ∧
        (s.dev.tStart = none → v.tb3 = 0 ∧ v.dev.epoch = 0 ∧ n = 0) ∧ (s.dev.tStart ≠ none → v.tb3 = max s.tb3 t ∧ v.dev.epoch = max s.dev.epoch (max s.tb3 t / 250000) ∧ n = max s.tb3 t))) ∧
    (∀ w : WakeIn,
      let acts := fun (c : Instr) (k : Nat) =>
        let on := bitOf (s.cfgReg R.PWR_WAKE_CFG) k = true ∧ s.dev.poweredOff = false ∧
          (s.dev.state = .sleep ∨ s.dev.state = .watch ∧ s.dev.safeStopLow = false ∧ s.pwr.wakePending = false)
        let latched := with_ still { s.pwr with latched := s.pwr.latched ||| 2 ^ k }
        (¬ on → exec c s = .next still) ∧
        (on → holds ∨ s.dev.state = .sleep ∧ s.dev.pwrOk = false → exec c s = .next latched) ∧
        (on → ¬ holds → s.dev.state = .watch → ∃ u : State, exec c s = .next u ∧ u.pwr.wakePending = true ∧ u.pwr.latched = 0 ∧ u.dev = s.dev ∧
          u.reg R.PWR_WAKES = up R.PWR_WAKES ∧ bitOf (u.reg R.PWR_WAKE_CAUSE) k = true ∧ u.srcBit R.INTC_PEND 291 = true) ∧
        (on → ¬ holds → s.dev.state = .sleep → s.dev.pwrOk = true → exec c s = .next (latched.wakeGo w t))
      let due := s.cfgReg R.PWR_ALARM_LO + 2 ^ 32 * s.cfgReg R.PWR_ALARM_HI ≤ max s.tb3 t
      (∀ j : Fin 4, acts (.wakeNPin j w t) j.val ∧ acts (.canWake j w t) (4 + j.val)) ∧ (due → acts (.tb3Alarm w t) 8) ∧
      (¬ due → exec (.tb3Alarm w t) s = .next still) ∧
      let edge := still.crystalWake
      let header := leAt s.pwr.psram 0 4 = 0x4B52534D ∧ leAt s.pwr.psram 4 2 = 1
      let fail := if w.fail.val = 0 ∧ ¬ header then 1 else w.fail.val
      max s.tb3 t ≤ edge.tb3 ∧
      (∀ t0 o, s.time.sleepAt = some (t0, o) →
        (edge.tb3 * 65536 + edge.time.tb3Frac) % crystalPeriod = (t0 * 65536 + s.time.tb3Frac) % crystalPeriod) ∧
      (fail = 0 → s.wakeGo w t = edge.resume w.restOk w.plans s.satisfiedNow edge.tb3) ∧
      (fail ≠ 0 → ∃ v : State, s.wakeGo w t = v.boot w.boot edge.tb3 ∧ v.tb3 = edge.tb3 ∧ v.dev.epoch = s.dev.epoch ∧ v.isHead = s.isHead ∧ keeps v ∧
        v.fld R.HOST_START_STATUS R.HOST_START_STATUS_resume_fail = fail)) ∧
    (s.pwr.pfailLow = true → ∀ us, exec (.pfailAssert us t) s = .next still) ∧
    (s.pwr.pfailLow = false → s.asleep = true → ∀ us, exec (.pfailAssert us t) s = .next { with_ still { s.pwr with pfailLow := true, pfailSince := t } with map := { s.map with refuse := true, holdTo := none } }) ∧
    (s.pwr.pfailLow = false → s.asleep = false → ∀ us, ∃ w : State, exec (.pfailAssert us t) s = .next (w.reefSync.jobSync t) ∧ w.pwr.pfailLow = true ∧
      w.map.refuse = true ∧ (s.dev.state ∉ [.watch, .boot] → w.pwr.shed = true ∧ w.pwr.selfRefresh = true)) ∧
    (s.pwr.pfailLow = false → exec (.pfailRelease t) s = .next still) ∧
    (s.pwr.pfailLow = true → ∃ u : State, exec (.pfailRelease t) s = .next u ∧ u.pwr.pfailLow = false ∧ u.map.refuse = false ∧
      u.map.holdTo = some (t + 10000000) ∧ u.fld R.PWR_STATUS R.PWR_STATUS_pfail = 0 ∧ u.srcBit R.INTC_LEVEL 290 = false ∧
      let wakes := s.cfgBit R.PWR_WAKE_CFG R.PWR_WAKE_CFG_pfail_en = true ∧ s.dev.poweredOff = false ∧
        (s.dev.state = .sleep ∨ s.dev.state = .watch ∧ s.dev.safeStopLow = false ∧ s.pwr.wakePending = false)
      (wakes → u.pwr.latched = s.pwr.latched ||| 2 ^ 9) ∧ (¬ wakes → u.pwr.latched = s.pwr.latched)) ∧
    (∀ w : WakeIn, let over_ := s.pwr.pfailLow = false ∧ ∃ h, s.map.holdTo = some h ∧ h ≤ t
      let v := (with_ still { s.pwr with shed := false, selfRefresh := false }).mapHoldEnd
      let y := dev_ v { v.dev with pfailHeld := false }
      (¬ over_ → exec (.pfailHoldEnd w t) s = .next still) ∧
      (over_ → s.pwr.shed = false → v.dev.pfailHeld = false → v.pwr.latched = 0 → exec (.pfailHoldEnd w t) s = .next y) ∧
      (over_ → s.pwr.shed = false → v.dev.pfailHeld = true → v.dev.state = .boot → exec (.pfailHoldEnd w t) s = .next (y.trainAll w.boot t)) ∧
      (over_ → s.pwr.shed = false → v.dev.pfailHeld = true → v.dev.state = .enum → exec (.pfailHoldEnd w t) s = .next y.enterLoad) ∧
      (over_ → s.pwr.shed = false → v.dev.pfailHeld = false → v.pwr.latched ≠ 0 → v.dev.state = .sleep → v.dev.pwrOk = true →
        exec (.pfailHoldEnd w t) s = .next (y.wakeGo w t))) ∧
    (let safe := fun (c : Instr) (low : Bool) => let x := dev_ s { s.dev with safeStopLow := low };
      (s.dev.state ∈ [.off, .sleep, .boot, .train] → exec c s = .next x) ∧
      (s.dev.state ∉ [.off, .sleep, .boot, .train] → ∃ u : State, exec c s = .next u ∧ u.srcBit R.INTC_LEVEL 4 = low ∧ u.dev = x.dev ∧ u.islets = s.islets ∧
        u.mem = s.mem);
      safe .safeStopAssert true ∧ safe .safeStopRelease false) ∧
    (s.asleep = false →
      (s.dev.state ∈ [.boot, .train, .halt] → exec (.thermalTrip t) s = .next still) ∧
      (s.dev.state ∉ [.boot, .train, .halt] → ∃ u : State, exec (.thermalTrip t) s = .next u ∧
        (u.dev.state = .halt ∨ u.dev.halting = true) ∧ ∀ j ∈ u.dev.jobs, j.2.resources % 4 = 0) ∧
      ∀ a : Fin 6, exec (.atollRelockDone a t) s = .next ((with_ still { s.pwr with relock := SMap.del s.pwr.relock a.val }).retryAll fun i => decide (i / 512 = a.val))) ∧
    (∀ x : EpochIn, let e := s.dev.epoch + 1
      let begun := fun (n : Nat) => ({ dev_ s { s.dev with epoch := n } with tb3 := max s.tb3 (n * 250000) } : State)
      (s.dev.poweredOff = true ∨ s.dev.pwrOk = false ∧ s.dev.state ≠ .sleep ∧ s.dev.tStart = none → exec (.epochBoundary x) s = .next s) ∧
      (s.dev.poweredOff = false → s.dev.state = .sleep ∨ s.dev.pwrOk = false ∧ s.dev.tStart ≠ none → exec (.epochBoundary x) s = .next (begun e)) ∧
      (s.asleep = false → ∃ w : State, exec (.epochBoundary x) s = .next ((w.slotClose (e * 250000)).afterSlot x e (e * 250000)) ∧ w.dev.epoch = e ∧
        w.act = s.csr ∧ w.csr = s.csr ∧ w.islets = s.islets))

/-- 13 R377–R380. -/
def Obligations.Enumeration : Prop :=
  ∀ (t : Nat) (s : State), s.asleep = false →
    let still : State := { s with tb3 := max s.tb3 t }
    let up := fun (p : Nat) => min (s.reg p + 1) (2 ^ 32 - 1)
    let st := s.chain.stage
    let heard := fun (p : Nat) => still.incWrap (R.CHAIN_RX_MSG + 0x20 * p)
    let holds := s.pwr.pfailLow = true ∨ s.map.holdTo.isSome = true
    let left := fun (u : State) (n k : Nat) => u.fld R.CHAIN_STATUS R.CHAIN_STATUS_count = n % 32 ∧ u.fld R.CHAIN_STATUS R.CHAIN_STATUS_state = k ∧
      u.chain.stage = .idle ∧ u.srcBit R.INTC_PEND 225 = true ∧ (s.dev.state = .enum → holds → u.dev = { s.dev with pfailHeld := true }) ∧
      (s.dev.state = .enum → ¬ holds → u.dev.state = .load) ∧ (s.dev.state = .recover → u.dev = { s.dev with recoverStep := 6 }) ∧
      (s.dev.state ∉ [.enum, .recover] → u.dev = s.dev)
    let closes := fun (u : State) => (s.isHead = true → sendsCtrl u 1 3 1 ∧ left u 1 2) ∧
      (s.isHead = false → sendsCtrl u 0 2 (s.ownAddr + 1) ∧ u.chain.stage = .waitCommit ∧ u.chain.stageSince = t)
    (∀ (p : Fin 2) (v : Byte), s.portUp p.val = false → exec (.enumReady p t) s = .next still ∧ exec (.enumMsg p v t) s = .next still ∧
      exec (.enumEnd p v t) s = .next still ∧ exec (.enumCommit p v t) s = .next still) ∧
    (∀ p : Fin 2, s.portUp p.val = true → p.val = 0 ∨ st = .idle → exec (.enumReady p t) s = .next ((heard p.val).drainAll t)) ∧
    (s.portUp 1 = true → st ∈ [.headWait, .waitReady] → ∃ u : State, exec (.enumReady 1 t) s = .next (u.drainAll t) ∧ u.chain.stage = .waitEnd ∧
      u.chain.stageSince = t ∧ u.chain.readyDown = true ∧ sendsCtrl u 1 1 (s.ownAddr + 1)) ∧
    (s.portUp 1 = true → st ∈ [.waitEnum, .waitEnd, .waitCommit] → ∃ u : State, exec (.enumReady 1 t) s = .next (u.drainAll t) ∧
      u.chain = { s.chain with readyDown := true } ∧ u.out = s.out) ∧
    (∀ (p : Fin 2) (v : Byte), s.portUp p.val = true →
      let waits := p.val = 0 ∧ st = .waitEnum ∧ s.isHead = false
      (¬ waits → ∃ u : State, exec (.enumMsg p v t) s = .next (u.drainAll t) ∧ u.reg R.CHAIN_ENUM_IGNORED = up R.CHAIN_ENUM_IGNORED ∧ u.chain = s.chain) ∧
      (waits → ∃ u : State, exec (.enumMsg p v t) s = .next (u.drainAll t) ∧ u.ownAddr = v.toNat % 16 ∧ u.dev = s.dev ∧
        let onward := s.portUp 1 = true ∧ v.toNat < 15
        (onward → s.chain.readyDown = true → u.chain.stage = .waitEnd ∧ u.chain.stageSince = t ∧ sendsCtrl u 1 1 (v.toNat + 1)) ∧
        (onward → s.chain.readyDown = false → u.chain = { s.chain with stage := .waitReady, stageSince := t }) ∧
        (¬ onward → u.chain.stage = .waitCommit ∧ u.chain.stageSince = t ∧ sendsCtrl u 0 2 (v.toNat % 16 + 1)))) ∧
    (∀ (p : Fin 2) (v : Byte), s.portUp p.val = true →
      let takes := p.val = 1 ∧ (st = .waitEnd ∨ st = .waitCommit ∧ s.isHead = false)
      (¬ takes → exec (.enumEnd p v t) s = .next ((heard p.val).drainAll t)) ∧
      (takes → ∃ u : State, exec (.enumEnd p v t) s = .next (u.drainAll t) ∧ (s.isHead = true → sendsCtrl u 1 3 v.toNat ∧ left u v.toNat 2) ∧
        (s.isHead = false → sendsCtrl u 0 2 v.toNat ∧ u.chain.stage = .waitCommit ∧ u.chain.stageSince = t))) ∧
    (∀ (p : Fin 2) (v : Byte), s.portUp p.val = true →
      let takes := p.val = 0 ∧ s.isHead = false ∧ st ∈ [.waitCommit, .waitEnd]
      (¬ takes → exec (.enumCommit p v t) s = .next ((heard p.val).drainAll t)) ∧
      (takes → ∃ u : State, exec (.enumCommit p v t) s = .next (u.drainAll t) ∧ left u v.toNat 2 ∧ (s.portUp 1 = true → sendsCtrl u 1 3 v.toNat))) ∧
    (let again := st = .waitEnum ∧ s.isHead = false ∧ s.portUp 0 = true;
      (¬ again → exec (.readyRepeat t) s = .next still) ∧
      (again → ∃ u : State, exec (.readyRepeat t) s = .next u ∧ sendsCtrl u 0 4 0 ∧ u.chain.readySent = some (s.chain.readySent.getD t) ∧ u.chain.stage = st)) ∧
    (let tmo := s.cfgFld R.CHAIN_CFG R.CHAIN_CFG_enum_tmo_ms * 1000000;
      let late := fun (b : Nat) => b + tmo ≤ t
      let since := s.chain.stageSince
      (st = .headWait → late since → ∃ u : State, exec (.enumTimeout t) s = .next u ∧ left u 1 2) ∧
      (st = .waitReady → late since → ∃ u : State, exec (.enumTimeout t) s = .next u ∧ closes u) ∧
      (∀ b, st = .waitEnum → s.chain.readySent = some b ∨ s.chain.readySent = none ∧ s.portUp 0 = false ∧ b = since → late b →
        ∃ u : State, exec (.enumTimeout t) s = .next u ∧ u.ownAddr = 0 ∧ left u 1 3) ∧
      (st = .idle → s.chain.remote ≠ [] → since + 100000000 ≤ t → exec (.enumTimeout t) s = .next (still.enumStart t)) ∧
      (st ∈ [.headWait, .waitReady] → ¬ late since → exec (.enumTimeout t) s = .next still) ∧
      (∀ b, st = .waitEnum → s.chain.readySent = some b → ¬ late b → exec (.enumTimeout t) s = .next still) ∧
      (st = .idle → s.chain.remote = [] → exec (.enumTimeout t) s = .next still) ∧
      (st ∈ [.waitEnd, .waitCommit] → exec (.enumTimeout t) s = .next still)) ∧
    (let due := st = .waitEnd ∧ s.chain.stageSince + 10000000 ≤ t;
      (¬ due → exec (.enumEndTimeout t) s = .next still) ∧ (due → ∃ u : State, exec (.enumEndTimeout t) s = .next u ∧ closes u))

/-- 13 R374–R377, R388–R390. -/
def Obligations.Links : Prop :=
  ∀ (p : Fin 2) (t : Nat) (s : State), s.asleep = false →
    let still : State := { s with tb3 := max s.tb3 t }
    let q := 0x20 * p.val
    let c := s.cport p.val
    let up := fun (o : Nat) => min (s.reg o + 1) (2 ^ 32 - 1)
    let live := s.portUp p.val = true
    let ctl := fun (typ ack : Nat) => Out.frame p.val ⟨c.txSeq, typ, ack, 0, false, []⟩
    let sum := fun (l : List Nat) => (upTo 3).map fun v => min (nthD 0 c.credits v + nthD 0 l v) (nthD 0 [32, 256, 256] v)
    (∀ b : List Byte, let h := leAt b 0 2
      let g := leAt b 2 2
      let bad := b.length ≠ 264 ∨ leAt b 260 4 ≠ crc32c (b.take 260) ∨ h / 4096 = 1 ∧ h % 4096 ≠ c.rxSeq
      let kept := dropAcked (g % 4096) c.replay
      (¬ live → exec (.linkFrameRx p b t) s = .next (still.drainAll t)) ∧
      (live → bad → ∃ u : State, exec (.linkFrameRx p b t) s = .next (u.drainAll t) ∧ u.reg (R.CHAIN_CRC_ERR + q) = up (R.CHAIN_CRC_ERR + q) ∧
        u.chain = s.chain ∧ u.out = s.out ++ [ctl 3 ((c.rxSeq + 4095) % 4096)]) ∧
      (live → ¬ bad → h / 4096 = 1 → let vc := g / 4096 % 4 % 3
        let whole := nthD [] c.part vc ++ (b.drop 4).take 256
        let n := nthD 0 c.freed vc + 1
        let freed := setAt c.freed vc n
        ∃ u : State, exec (.linkFrameRx p b t) s = .next (u.drainAll t) ∧ u.csr = s.csr ∧
        u.chain.rxq = (if bitOf g 14 then s.chain.rxq ++ [(p.val, Msg.ofBytes whole)] else s.chain.rxq) ∧
        (n < 64 → u.out = s.out ++ [ctl 2 c.rxSeq] ∧ u.cport p.val = { c with replay := kept, rxSeq := (c.rxSeq + 1) % 4096, part := setAt c.part vc (if bitOf g 14 then [] else whole), freed := freed }) ∧
        (64 ≤ n → c.freed.length = 3 → (u.cport p.val).freed = [0, 0, 0] ∧
          ∃ f : LFrame, u.out = s.out ++ [ctl 2 c.rxSeq, .frame p.val f] ∧ f.typ = 4 ∧ f.data = freed.flatMap fun n => leBytes 2 n)) ∧
      (live → ¬ bad → h / 4096 ≠ 1 → ∃ u : State, u.cport p.val = { c with replay := kept } ∧ u.csr = s.csr ∧ u.out = s.out ∧
        (h / 4096 = 3 → exec (.linkFrameRx p b t) s = .next ((u.nak p.val (g % 4096)).drainAll t)) ∧
        (h / 4096 = 4 → exec (.linkFrameRx p b t) s = .next ((u.addCredits p.val ((upTo 3).map fun v => leAt b (4 + 2 * v) 2)).drainAll t)) ∧
        (h / 4096 ≠ 3 → h / 4096 ≠ 4 → exec (.linkFrameRx p b t) s = .next (u.drainAll t)))) ∧
    (∀ ack : BitVec 12, let again := (dropAcked ack.toNat c.replay).map fun e => (e.1, e.2 + 1)
      (¬ live → exec (.linkNak p ack) s = .next s) ∧
      (live → again = [] → exec (.linkNak p ack) s = .next (s.setCport p.val { c with replay := [] })) ∧
      (live → again ≠ [] → (∀ e ∈ again, e.2 < 8) → ∃ u : State, exec (.linkNak p ack) s = .next u ∧ u.cport p.val = { c with replay := again } ∧
        u.reg (R.CHAIN_REPLAY + q) = up (R.CHAIN_REPLAY + q) ∧ u.portState p.val = 2 ∧ u.out = s.out ++ again.map fun e => .frame p.val e.1) ∧
      (live → (∃ e ∈ again, 8 ≤ e.2) → ∃ u : State, exec (.linkNak p ack) s = .next u ∧ u.portState p.val = 3 ∧
        u.reg (R.CHAIN_REPLAY + q) = up (R.CHAIN_REPLAY + q) ∧ u.reg (R.CHAIN_RETRAIN + q) = up (R.CHAIN_RETRAIN + q) ∧ u.srcBit R.INTC_PEND 224 = true)) ∧
    (∀ c0 c1 c2 : BitVec 16, let cs := sum [c0.toNat, c1.toNat, c2.toNat]
      (¬ live → exec (.linkCredit p c0 c1 c2) s = .next s) ∧
      (live → c.wait = [] → exec (.linkCredit p c0 c1 c2) s = .next (s.setCport p.val { c with credits := cs })) ∧
      (∀ m, live → c.wait = [m] → m.frames ≤ nthD 0 cs (vcOf m.cls) → ∃ u : State, exec (.linkCredit p c0 c1 c2) s = .next u ∧
        .msg p.val m ∈ u.out ∧ (u.cport p.val).wait = [] ∧ nthD 0 (u.cport p.val).credits (vcOf m.cls) = nthD 0 cs (vcOf m.cls) - m.frames)) ∧
    (s.portState p.val ≠ 2 → exec (.linkRetrain p t) s = .next still) ∧
    (s.portState p.val = 2 → ∃ u : State, exec (.linkRetrain p t) s = .next u ∧ u.portState p.val = 3 ∧ u.srcBit R.INTC_PEND 224 = true ∧
      u.reg (R.CHAIN_RETRAIN + q) = up (R.CHAIN_RETRAIN + q)) ∧
    (∀ lanes : BitVec 4, let x := s.portState p.val
      let none_ := laneWidth lanes.toNat = 0
      ∃ y : State, (∃ z : State, z = (if p.val = 0 ∧ y.chain.readySent = none then y.readyAgain t else y) ∧
        exec (.linkRetrainDone p lanes t) s = .next (z.drainAll t)) ∧
      (x ≠ 1 → x ≠ 3 → y = still) ∧
      ((x = 1 ∨ x = 3) → none_ → (x = 1 ∨ 2 ≤ c.fails) → y.portState p.val = 4 ∧ y.srcBit R.INTC_PEND 224 = true ∧
        y.chain.rxq = s.chain.rxq ++ c.wait.map fun m => (2, m)) ∧
      (x = 3 → none_ → c.fails < 2 → y.portState p.val = 3 ∧ (y.cport p.val).fails = c.fails + 1 ∧
        y.reg (R.CHAIN_RETRAIN + q) = up (R.CHAIN_RETRAIN + q)) ∧
      ((x = 1 ∨ x = 3) → ¬ none_ → y.portState p.val = 2 ∧ y.srcBit R.INTC_PEND 224 = true ∧
        y.fld (R.CHAIN_PORT_STATUS + 4 * p.val) R.CHAIN_PORT_STATUS_width = laneWidth lanes.toNat ∧ (y.cport p.val).fails = 0 ∧
        y.fld (R.CHAIN_PORT_STATUS + 4 * p.val) R.CHAIN_PORT_STATUS_lanes_good = lanes.toNat ∧
        ∃ l, y.out = s.out ++ c.replay.map (fun e => Out.frame p.val e.1) ++ l)) ∧
    (s.portState p.val ≠ 4 → exec (.linkRetryTimer p t) s = .next still) ∧
    (s.portState p.val = 4 → ∃ u : State, exec (.linkRetryTimer p t) s = .next u ∧ u.portState p.val = 1) ∧
    (¬ live ∨ (∀ n ∈ c.freed, n = 0) → exec (.creditReturnTimer p t) s = .next still) ∧
    (live → (∃ n ∈ c.freed, n ≠ 0) → ∃ u : State, exec (.creditReturnTimer p t) s = .next u ∧ u.cport p.val = { c with freed := [0, 0, 0] } ∧
      ∃ f : LFrame, u.out = s.out ++ [.frame p.val f] ∧ f.typ = 4 ∧ f.data = c.freed.flatMap fun n => leBytes 2 n) ∧
    (let writes := fun (cmd : Instr) (k : Nat) => ∃ u : State, exec cmd s = .next u ∧ u.fld R.CHAIN_TEST R.CHAIN_TEST_mode = k ∧
        u.fld R.CHAIN_TEST R.CHAIN_TEST_port = p.val ∧ u.dev = s.dev ∧
        (∀ r : Fin 2, s.portTest r.val = true → (k = 0 ∨ r ≠ p) → u.portState r.val = 3 ∧ u.reg (R.CHAIN_RETRAIN + 0x20 * r.val) = up (R.CHAIN_RETRAIN + 0x20 * r.val)) ∧
        (∀ r : Fin 2, s.portTest r.val = false ∨ (k ≠ 0 ∧ r = p) → u.portState r.val = s.portState r.val ∧
          u.reg (R.CHAIN_RETRAIN + 0x20 * r.val) = s.reg (R.CHAIN_RETRAIN + 0x20 * r.val));
      writes (.nearLoopback p) 1 ∧ writes (.farLoopback p) 2 ∧ writes (.chainTestOff p) 0 ∧
      ∀ e0 e1 e2 e3 : Word32, writes (.prbs31 p e0 e1 e2 e3) 3 ∧ ∃ u : State, exec (.prbs31 p e0 e1 e2 e3) s = .next u ∧
        ∀ j : Fin 4, let o := R.CHAIN_PRBS_ERR + 4 * (4 * p.val + j.val)
          u.reg o = if s.dev.state = .test then min (s.reg o + (nthD 0 [e0, e1, e2, e3] j.val).toNat) (2 ^ 32 - 1) else s.reg o)

/-- 13 R377, R381–R383, R392, R393, 15 R418. -/
def Obligations.PeerMessages : Prop :=
  ∀ s : State, s.asleep = false →
    let at_ := fun (t : Nat) => ({ s with tb3 := max s.tb3 t } : State)
    let up := fun (o : Nat) => min (s.reg o + 1) (2 ^ 32 - 1)
    let heard := fun (p t : Nat) => (at_ t).incWrap (R.CHAIN_RX_MSG + 0x20 * p)
    let answered := fun (u : State) (m : Msg) (status : Nat) (data : List Byte) =>
      (s.reachable m.src = true → handedTo u (s.portTo m.src) { dest := m.src, src := s.ownAddr, cls := if m.cls = 3 then 5 else 4, flags := status, seq := m.seq, epoch := s.dev.epoch, tag := if status = 0 then m.tag else m.tag ||| 2 ^ 11, payload := data }) ∧
      (s.reachable m.src = false → u.reg R.CHAIN_UNROUTABLE = up R.CHAIN_UNROUTABLE)
    (∀ (c : Instr) (p : Fin 2) (m : Msg) (t : Nat), PeerRow c p m t →
      let live := s.portUp p.val = true
      let away := m.dest ≠ 0xFE ∧ m.dest ≠ s.ownAddr
      let mine := live ∧ m.dest = s.ownAddr
      (¬ live → exec c s = .next (at_ t)) ∧
      (live → m.dest = 0xFE → ∃ u : State, exec c s = .next (u.drainAll t) ∧ u.reg R.CHAIN_UNROUTABLE = up R.CHAIN_UNROUTABLE ∧ u.chain = s.chain) ∧
      (live → away → s.reachable m.dest = true → ∃ u : State, exec c s = .next (u.drainAll t) ∧ handedTo u (s.portTo m.dest) m ∧ u.mem = s.mem) ∧
      (live → away → s.reachable m.dest = false → m.cls ∈ [1, 4, 5] → ∃ u : State, exec c s = .next (u.drainAll t) ∧ u.chain = s.chain ∧
        u.reg R.CHAIN_UNROUTABLE = up R.CHAIN_UNROUTABLE) ∧
      (live → away → s.reachable m.dest = false → m.cls ∈ [2, 3] → m.src ≠ s.ownAddr → ∃ u : State, exec c s = .next (u.drainAll t) ∧ answered u m 3 []) ∧
      (mine → m.cls = 1 → ∃ u : State, exec c s = .next (u.drainAll t) ∧ u.srcBit R.INTC_PEND (448 + m.src % 16) = true ∧
        u.reg (R.INTC_COUNT + 4 * (448 + m.src % 16)) = min (s.reg (R.INTC_COUNT + 4 * (448 + m.src % 16)) + 1) 255 ∧
        u.reg (R.INTC_PEER_SRC + 4 * (m.src % 16)) = leAt m.payload 2 1 * 2 ^ 24 + leAt m.payload 3 1 % 4 * 2 ^ 16 + leAt m.payload 0 2 % 2 ^ 9) ∧
      (mine → m.cls ∈ [2, 3] → let a := m.address
        let n := if m.cls = 3 then m.payload.length else leAt m.payload 0 4
        let ends := fun (status : Nat) (data : List Byte) => ∃ u : State, exec c s = .next (u.drainAll t) ∧ answered u m status data ∧ u.mem = s.mem
        let sized := n ≠ 0 ∧ n % 4 = 0 ∧ n ≤ 4096
        let open_ := m.src = 0 ∧ p.val = 0
        let direct := 0x10000000 ≤ a ∧ (a + n ≤ 0x1C000000 ∨ inDirect a = true ∧ inDirect (a + n - 1) = true ∧ s.dev.state = .test)
        (¬ sized → ends 3 []) ∧ (sized → a < 0x10000000 → ¬ open_ → ends 2 []) ∧
        (sized → a < 0x10000000 → open_ → csrAligned a n = false → ends 0 (if m.cls = 3 then [] else List.replicate n 0)) ∧
        (sized → a < 0x10000000 → open_ → csrAligned a n = true → m.cls = 3 →
          exec c s = .next ((((heard p.val t).csrWrite .chain a (leAt m.payload 0 4)).respond m true 0 []).drainAll t)) ∧
        (sized → a < 0x10000000 → open_ → csrAligned a n = true → m.cls = 2 → let r := (heard p.val t).csrRead .chain a
          exec c s = .next ((r.2.respond m false 0 (leBytes 4 r.1)).drainAll t)) ∧
        (sized → 0x1C000000 < a + n → inDirect a = true → inDirect (a + n - 1) = true → s.dev.state ≠ .test → ends 2 []) ∧
        (sized → 0x1C000000 < a + n → 0x10000000 ≤ a → ¬ (inDirect a = true ∧ inDirect (a + n - 1) = true) → inPlaced a = false → ends 1 []) ∧
        (∀ r, sized → inPlaced a = true → r = (heard p.val t).serve m.src a n m.tag p.val (if m.cls = 3 then some m.payload else none) →
          (r.1.isWait = false → exec c s = .next ((r.2.respond m (decide (m.cls = 3)) r.1.status r.1.data).drainAll t)) ∧
          (r.1.isWait = true → ∃ (u : State) (k : Nat), exec c s = .next (u.drainAll t) ∧ u.chain = { r.2.chain with stalled := r.2.chain.stalled ++ [(k, p.val, m)] } ∧
            u.mem = r.2.mem)) ∧
        (sized → direct → m.cls = 2 → s.poisoned a n = false → ends 0 (s.bytes a n)) ∧ (sized → direct → m.cls = 2 → s.poisoned a n = true → ends 3 []) ∧
        (sized → direct → m.cls = 3 → ∃ u : State, exec c s = .next (u.drainAll t) ∧ answered u m 0 [] ∧ u.bytes a n = m.payload ∧
          ∀ b, b < a ∨ a + n ≤ b → u.byte b = s.byte b)) ∧
      (mine → m.cls ∈ [4, 5] → s.findReq m.src m.seq (decide (m.cls = 5)) = none → exec c s = .next ((heard p.val t).drainAll t)) ∧
      (∀ r, mine → m.cls ∈ [4, 5] → s.findReq m.src m.seq (decide (m.cls = 5)) = some r →
        exec c s = .next (((heard p.val t).endReq r (m.flags % 4) m.payload).drainAll t))) ∧
    (∀ (r : PeerReq) (status : Nat) (data : List Byte), status ≤ 4 → let u := s.endReq r status data
      let err := status = 2 ∨ status = 3
      r.who = .relay →
      u.fld R.HOST_RELAY_CTL R.HOST_RELAY_CTL_busy = 0 ∧ u.fld R.HOST_RELAY_CTL R.HOST_RELAY_CTL_result = status ∧
      u.reg R.HOST_RELAY_DATA = (if status = 0 ∧ r.isWrite = false then leAt data 0 4 else s.reg R.HOST_RELAY_DATA) ∧
      u.reg R.CHAIN_REMOTE_ERR = (if err then up R.CHAIN_REMOTE_ERR else s.reg R.CHAIN_REMOTE_ERR) ∧
      u.reg R.CHAIN_TIMEOUT = (if status = 4 then up R.CHAIN_TIMEOUT else s.reg R.CHAIN_TIMEOUT) ∧
      (err ∨ status = 4 → u.srcBit R.INTC_PEND 226 = true) ∧ u.chain.reqs = s.chain.reqs.filter fun q => decide (q.seq ≠ r.seq ∨ q.dest ≠ r.dest)) ∧
    (∀ k t : Nat, let due := fun (r : PeerReq) => s.chain.reqs[k]? = some r ∧ r.since + s.cfgFld R.CHAIN_CFG R.CHAIN_CFG_req_tmo_us * 1000 ≤ t
      ((∀ r, ¬ due r) → exec (.peerRequestTimeout k t) s = .next (at_ t)) ∧
      (∀ r, due r → exec (.peerRequestTimeout k t) s = .next (((at_ t).endReq r 4 []).drainAll t))) ∧
    (∀ t : Nat, let relays := fun (c : Instr) (wr : Bool) =>
        let busy := s.fld R.HOST_RELAY_CTL R.HOST_RELAY_CTL_busy = 1
        let a := s.reg R.HOST_RELAY_ADDR_LO + 2 ^ 32 * (s.reg R.HOST_RELAY_ADDR_HI % 2 ^ 16)
        let d := (a - 0x100000000000) / 0x40000000000
        let window := 0x100000000000 ≤ a ∧ a < 0x500000000000 ∧ d ≠ s.ownAddr ∧ d < s.unitCount
        (busy → exec c s = .next ((at_ t).drainAll t)) ∧
        (¬ busy → ¬ window → ∃ u : State, exec c s = .next (u.drainAll t) ∧ u.fld R.HOST_RELAY_CTL R.HOST_RELAY_CTL_result = 1 ∧
          u.fld R.HOST_RELAY_CTL R.HOST_RELAY_CTL_busy = 0 ∧ u.chain = s.chain) ∧
        (¬ busy → window → ∃ u : State, exec c s = .next (u.drainAll t) ∧ u.fld R.HOST_RELAY_CTL R.HOST_RELAY_CTL_busy = 1 ∧
          u.chain.reqs = s.chain.reqs ++ [{ seq := s.nextSeq d, dest := d, isWrite := wr, len := 4, since := max s.tb3 t, who := .relay }] ∧
          (s.reachable d = true → handedTo u (s.portTo d) { dest := d, src := s.ownAddr, cls := if wr then 3 else 2, address := (a - 0x100000000000) % 0x40000000000, seq := s.nextSeq d, epoch := s.dev.epoch, tag := tagOf 0 0 1 0 0xFE, payload := if wr then leBytes 4 (s.reg R.HOST_RELAY_DATA) else record 8 [(0, 4, 4)] }) ∧
          (s.reachable d = false → ∃ m : Msg, u.chain.rxq = s.chain.rxq ++ [(2, m)] ∧ m.dest = d ∧ m.seq = s.nextSeq d));
      relays (.hostRelayRead t) false ∧ relays (.hostRelayWrite t) true)

/-- 12 R341, R342, R347, 13 R368, R384, R387, R392, 14 R398, R406, R408, 15 R417, 18 R446, R447. -/
def Obligations.HostOtpTap : Prop :=
  ∀ s : State,
    let up := fun (o : Nat) => min (s.reg o + 1) (2 ^ 32 - 1)
    let link := R.HOST_LINK_STATUS
    let hostUp := s.fld link R.HOST_LINK_STATUS_link_up = 1
    let downed := fun (u : State) => u.reg link = 0 ∧ u.reg R.HOST_LINK_DOWN = up R.HOST_LINK_DOWN ∧ u.ep.msixEnable = false ∧ u.ep.funcMask = false ∧
      (s.intcRuns = true → u.srcBit R.INTC_PEND 232 = true) ∧
      ∀ c, s.dev.host.cmd = some c → u.dev.host.cmd = some (if c.arg = .reading then { c with arg := .failed } else c)
    (∀ high refclk : Bool, let levels := { s.ep with perst := high, refclk := refclk }
      let on := high = true ∧ refclk = true
      (on ∨ ¬ hostUp → exec (.perst high refclk) s = .next { s with ep := levels }) ∧
      (¬ on → hostUp → ∃ u : State, exec (.perst high refclk) s = .next u ∧ downed u ∧ u.ep.perst = high ∧ u.ep.refclk = refclk)) ∧
    (s.asleep = false →
      (¬ hostUp → exec .pcieLinkDown s = .next s) ∧ (hostUp → ∃ u : State, exec .pcieLinkDown s = .next u ∧ downed u ∧ u.islets = s.islets ∧ u.mem = s.mem) ∧
      (∀ speed width : BitVec 4,
        let can := s.ep.perst = true ∧ s.ep.refclk = true ∧ ¬ hostUp ∧ 1 ≤ speed.toNat ∧ speed.toNat ≤ 5 ∧ width.toNat ∈ [1, 2, 4, 8]
        (¬ can → exec (.pcieLinkUp speed width) s = .next s) ∧
        (can → ∃ u : State, exec (.pcieLinkUp speed width) s = .next u ∧ u.reg link = speed.toNat * 2 ^ 12 + width.toNat * 2 ^ 4 + 1 ∧
          u.srcBit R.INTC_PEND 232 = true ∧ u.ep = s.ep)) ∧
      (∃ u : State, exec .functionLevelReset s = .next u ∧ u.reg R.HOST_FLR = up R.HOST_FLR ∧ u.srcBit R.INTC_PEND 233 = true ∧ u.ep.msixEnable = false ∧
        u.ep.funcMask = false ∧ u.fld link R.HOST_LINK_STATUS_bme = 0 ∧ u.fld link R.HOST_LINK_STATUS_link_up = s.fld link R.HOST_LINK_STATUS_link_up ∧
        (∀ o ∈ [R.HOST_BAR2_CFG, R.HOST_BAR2_BASE, R.HOST_RELAY_CTL, R.HOST_RELAY_ADDR_LO, R.HOST_RELAY_ADDR_HI, R.HOST_RELAY_DATA],
          u.reg o = (csrReset o).toNat) ∧ (∀ k < 0x400, u.reg (R.MSIX + k) = (csrReset (R.MSIX + k)).toNat) ∧
        (u.dev.host.argLo = 0 ∧ u.dev.host.argHi = 0 ∧ u.dev.host.status = 0) ∧
        (∀ c, s.dev.host.cmd = some c → u.dev.host.cmd = some { c with arg := if c.arg = .reading then .failed else c.arg, hidden := true }) ∧
        (∀ r ∈ u.chain.reqs, r.who ≠ .relay) ∧ u.dev.state = s.dev.state ∧ u.dev.jobs = s.dev.jobs ∧ u.dev.chain = s.dev.chain ∧ u.mem = s.mem) ∧
      (∀ (msix mask bme : Option Bool) (rd : Option ConfigId), let c := Instr.configurationRequest msix mask ⟨bme, rd⟩
        (s.ep.configOpen = false → exec c s = .next { s with out := s.out ++ [.configRetry] }) ∧
        (s.ep.configOpen = true → ∃ u : State, exec c s = .next u ∧ (∀ k, rd = some k → s.out ++ [.value (configValue k)] <+: u.out) ∧ u.ep = { s.ep with msixEnable := msix.getD s.ep.msixEnable, funcMask := mask.getD s.ep.funcMask } ∧
          u.fld link R.HOST_LINK_STATUS_bme = (match bme with | some b => b2n b | none => s.fld link R.HOST_LINK_STATUS_bme))) ∧
      (let sec := s.sec
        let data := (upTo 16).flatMap fun n => leBytes 4 (s.reg (R.SEC_OTP_DATA + 4 * n))
        let result := fun (u : State) => u.fld R.SEC_OTP_PROG R.SEC_OTP_PROG_result
        let denied := fun (c : Instr) => ∃ u : State, exec c s = .next u ∧ result u = 2 ∧ u.sec = sec ∧ u.reg R.SEC_DENIED = up R.SEC_DENIED
        let test := s.dev.state = .test
        let mayV := test ∧ sec.vendorDisable = false ∧ sec.integratorHash.isSome = true ∧ ∃ i, s.cfg.active = some i ∧ i.keyIndex ≠ 0
        (∀ ok, ¬ (test ∧ sec.integratorHash = none) → denied (.integratorKeyHash ok)) ∧ (¬ mayV → denied .vendorDisable) ∧
        (∀ ok : Bool, test → sec.integratorHash = none → ∃ u : State, exec (.integratorKeyHash ok) s = .next u ∧ result u = (if ok then 1 else 3) ∧
          u.sec = { sec with integratorHash := some (if ok then data else []) } ∧ u.fld R.SEC_STATUS R.SEC_STATUS_integrator_key_set = 1 ∧
          u.reg R.SEC_DENIED = s.reg R.SEC_DENIED) ∧
        (mayV → ∃ u : State, exec .vendorDisable s = .next u ∧ result u = 1 ∧ u.sec = { sec with vendorDisable := true } ∧
          u.fld R.SEC_STATUS R.SEC_STATUS_vendor_disable = 1 ∧ u.reg R.SEC_DENIED = s.reg R.SEC_DENIED)) ∧
      (∀ (ok : Bool) (t : Nat), let c := Instr.norProgramDone ok t
        let still : State := { s with tb3 := max s.tb3 t }
        (s.cfg.calJob = none → exec c s = .next still) ∧
        (∀ j, s.cfg.calJob = some j → let base := calBase j.sector
          let ended := fun (w : State) => exec c s = .next (w.jobSync t) ∧ w.cfg.calJob = none ∧ w.fld R.CFG_CAL_STATUS R.CFG_CAL_STATUS_committing = 0
          (ok = true → j.step = 0 → exec c s = .next { still with cfg := { s.cfg with calJob := some { j with step := 1 }, nor := SMap.clearRange s.cfg.nor base 0x10000 } }) ∧
          (ok = true → j.step = 1 → ∃ u : State, exec c s = .next u ∧ u.cfg.calJob = some { j with step := 2 } ∧ u.norBytes base j.record.length = j.record ∧
            u.csr = s.csr) ∧
          (ok = true → j.step = 2 → s.cfg.calSector.isSome = true → exec c s = .next { still with cfg := { s.cfg with calJob := some { j with step := 3 } } }) ∧
          (ok = false → j.step ≤ 2 → ∃ w : State, ended w ∧ w.cfg.nor = s.cfg.nor ∧ w.cfg.calSector = s.cfg.calSector) ∧
          (j.step = 2 ∧ ok = true ∧ s.cfg.calSector = none ∨ 3 ≤ j.step → ∃ w : State, ended w ∧ w.cfg.calSector = some j.sector ∧
            w.reg R.CFG_CAL_GEN = (s.reg R.CFG_CAL_GEN + 1) % 2 ^ 32 ∧ w.reg R.CFG_CAL_UPDATES = 0))) ∧
      (∀ (image : Option (List Byte)) (data : List (Option (List Byte))) (norOk : Bool) (plans : List UnitPlan) (t : Nat),
        let c := Instr.shadowVerifyEnd image data norOk plans t
        let still : State := { s with tb3 := max s.tb3 t }
        ((∀ g, s.cfg.staging = some g → g.image.isSome = true) → exec c s = .next still) ∧
        (∀ g, s.cfg.staging = some g → g.image = none →
          (g.source ≠ 0 → s.canMaster = false ∨ image = none → exec c s = .next (still.stageFail g.master g.slot 0xB)) ∧
          (∀ (b : List Byte) (room : Nat), let n := leAt g.block 0x10 4
            (g.source = 0 ∧ b = s.slotImage g.slot ∧ room = slotSize ∨
              g.source ≠ 0 ∧ s.canMaster = true ∧ room = n ∧ ∃ d, image = some d ∧ b = padTo n (d.take n)) →
            let v := still.verifyImage b room
            (v.1 ≠ 0 → exec c s = .next (v.2.stageFail g.master g.slot v.1)) ∧
            (v.1 = 0 → v.2.nandAgrees (parseImage b).nand = true → stagePayloads g.block = [] → ∃ w : State, exec c s = .next w.stageFinish ∧
              w.cfg.staging = some { g with image := some b, plans := plans, commit := 0, norOk := norOk } ∧ w.csr = s.csr)))) ∧
      ∀ (m : Master) (slot reason : Nat), let u := s.stageFail m slot reason
        u.cfg.staging = none ∧ u.cfg.shadow = none ∧ u.reg R.CFG_SHADOW_STATUS = (reason * 2 ^ 16 + slot * 2 ^ 8 + 3) % 2 ^ 32 ∧
        u.reg R.SEC_DENIED = (if reason = 1 ∨ reason = 2 then up R.SEC_DENIED else s.reg R.SEC_DENIED)) ∧
    (let held := s.tap.inReset = true
      let scans := s.dev.state = .test ∨ s.dev.bootFailed = true
      let shifts := fun (x : Tap) (n v : Nat) => ({ s with tap := x, out := s.out ++ [.tdo n v] } : State)
      let bypassed := fun (tdi : List Bool) => shifts { s.tap with ir := 1, bypassBit := tdi.getLast?.getD false, drive := none } tdi.length (ofBits ((false :: tdi).take tdi.length))
      (held → exec .idcode s = .next s) ∧
      (¬ held → exec .idcode s = .next (shifts { s.tap with ir := 0, drive := none } 32 0xA9600C2B)) ∧
      (∀ tdi pins : List Bool, let levels := if tdi = [] then s.tap.scan else tdi
        (held → exec (.bypass tdi) s = .next s ∧ exec (.samplePreload pins tdi) s = .next s ∧ exec (.extest pins tdi) s = .next s) ∧
        (¬ held → exec (.bypass tdi) s = .next (bypassed tdi)) ∧
        (¬ held → ¬ scans → exec (.samplePreload pins tdi) s = .next (bypassed tdi) ∧ exec (.extest pins tdi) s = .next (bypassed tdi)) ∧
        (¬ held → scans → exec (.samplePreload pins tdi) s = .next (shifts { s.tap with ir := 2, scan := tdi, drive := none } pins.length (ofBits pins)) ∧
          exec (.extest pins tdi) s = .next (shifts { s.tap with ir := 3, scan := levels, drive := some levels } pins.length (ofBits pins)))) ∧
      exec (.trst true) s = .next { s with tap := { s.tap with inReset := true, ir := 0, drive := none } } ∧
      exec (.trst false) s = .next { s with tap := { s.tap with inReset := false } })
end

