-- ==== Sys2Proof/Laws/Table.lean ====
section
/-! SUPPORT. The laws of the sparse tables: what is read after a write, and that every operation keeps the canonical form. -/
namespace Sys2Proof.Machine

variable {α : Type}

/-- Every key of the table lies above `k`. -/
def SMap.above (k : Nat) (m : SMap α) : Prop := ∀ p ∈ m, k < p.1

theorem SMap.rising_cons (p : Nat × α) (m : SMap α) :
    SMap.rising (p :: m) = true ↔ SMap.above p.1 m ∧ SMap.rising m = true := by
  induction m generalizing p with
  | nil => simp [SMap.rising, SMap.above]
  | cons q r ih =>
    have hq := ih q
    simp only [SMap.rising, Bool.and_eq_true, decide_eq_true_eq, SMap.above, List.mem_cons, forall_eq_or_imp] at *
    constructor
    · rintro ⟨h1, h2⟩
      exact ⟨⟨h1, fun a ha => Nat.lt_trans h1 ((hq.1 h2).1 a ha)⟩, h2⟩
    · rintro ⟨⟨h1, -⟩, h2⟩
      exact ⟨h1, h2⟩

theorem SMap.get_above (d : Nat → α) (m : SMap α) (k : Nat) (h : SMap.above k m) : SMap.get d m k = d k := by
  induction m with
  | nil => rfl
  | cons p r ih =>
    have hp := h p (by simp)
    rw [SMap.get, if_neg (by omega)]
    exact ih fun q hq => h q (by simp [hq])

theorem SMap.above_put (m : SMap α) (k j : Nat) (v : α) (hj : j < k) (h : SMap.above j m) : SMap.above j (SMap.put m k v) := by
  induction m with
  | nil => simpa [SMap.put, SMap.above] using hj
  | cons p r ih =>
    have hp := h p (by simp)
    have hr : SMap.above j r := fun q hq => h q (by simp [hq])
    intro q hq
    rw [SMap.put] at hq
    split at hq
    · simp only [List.mem_cons] at hq
      rcases hq with rfl | rfl | hq
      · exact hj
      · exact hp
      · exact hr q hq
    · split at hq
      · simp only [List.mem_cons] at hq
        rcases hq with rfl | hq
        · exact hj
        · exact hr q hq
      · simp only [List.mem_cons] at hq
        rcases hq with rfl | hq
        · exact hp
        · exact ih hr q hq

theorem SMap.mem_del {m : SMap α} {k : Nat} {p : Nat × α} (h : p ∈ SMap.del m k) : p ∈ m := by
  induction m with
  | nil => simp [SMap.del] at h
  | cons q r ih =>
    rw [SMap.del] at h
    split at h
    · exact List.mem_cons_of_mem _ (ih h)
    · rcases List.mem_cons.1 h with rfl | h
      · simp
      · exact List.mem_cons_of_mem _ (ih h)

theorem SMap.mem_put {m : SMap α} {k : Nat} {v : α} {p : Nat × α} (h : p ∈ SMap.put m k v) : p = (k, v) ∨ p ∈ m := by
  induction m with
  | nil => simpa [SMap.put] using h
  | cons q r ih =>
    rw [SMap.put] at h
    split at h
    · simp only [List.mem_cons] at h ⊢
      exact h
    · split at h <;> simp only [List.mem_cons] at h ⊢
      · rcases h with h | h
        · exact .inl h
        · exact .inr (.inr h)
      · rcases h with h | h
        · exact .inr (.inl h)
        · rcases ih h with h | h
          · exact .inl h
          · exact .inr (.inr h)

theorem SMap.rising_del (m : SMap α) (k : Nat) (h : SMap.rising m = true) : SMap.rising (SMap.del m k) = true := by
  induction m with
  | nil => rfl
  | cons p r ih =>
    rw [SMap.rising_cons] at h
    rw [SMap.del]
    split
    · exact ih h.2
    · rw [SMap.rising_cons]
      exact ⟨fun q hq => h.1 q (SMap.mem_del hq), ih h.2⟩

theorem SMap.rising_put (m : SMap α) (k : Nat) (v : α) (h : SMap.rising m = true) : SMap.rising (SMap.put m k v) = true := by
  induction m with
  | nil => rfl
  | cons p r ih =>
    have h' := h
    rw [SMap.rising_cons] at h
    rw [SMap.put]
    split
    · next hk =>
      rw [SMap.rising_cons]
      refine ⟨fun q hq => ?_, h'⟩
      rcases List.mem_cons.1 hq with rfl | hq
      · exact hk
      · exact Nat.lt_trans hk (h.1 q hq)
    · split
      · next hk =>
        rw [SMap.rising_cons]
        exact ⟨fun q hq => hk ▸ h.1 q hq, h.2⟩
      · rw [SMap.rising_cons]
        exact ⟨SMap.above_put r k p.1 v (by omega) h.1, ih h.2⟩

theorem SMap.get_put (d : Nat → α) (m : SMap α) (k j : Nat) (v : α) :
    SMap.get d (SMap.put m k v) j = if j = k then v else SMap.get d m j := by
  induction m with
  | nil => rfl
  | cons p r ih =>
    rw [SMap.put]
    split
    · rw [SMap.get]
    · split
      · next hk => subst hk; rw [SMap.get, SMap.get]; split <;> rfl
      · next hk =>
        rw [SMap.get, SMap.get, ih]
        by_cases h1 : j = p.1
        · have : j ≠ k := by omega
          rw [if_pos h1, if_neg this, if_pos h1]
        · rw [if_neg h1, if_neg h1]

theorem SMap.get_del (d : Nat → α) (m : SMap α) (k j : Nat) :
    SMap.get d (SMap.del m k) j = if j = k then d k else SMap.get d m j := by
  induction m with
  | nil => simp only [SMap.del, SMap.get]; split <;> simp_all
  | cons p r ih =>
    rw [SMap.del]
    split
    · next hk =>
      rw [ih, SMap.get]
      by_cases h1 : j = k
      · rw [if_pos h1, if_pos h1]
      · rw [if_neg h1, if_neg h1, if_neg (by omega)]
    · next hk =>
      rw [SMap.get, SMap.get, ih]
      by_cases h1 : j = p.1
      · have : j ≠ k := by omega
        rw [if_pos h1, if_neg this, if_pos h1]
      · rw [if_neg h1, if_neg h1]

section
variable [DecidableEq α] (d : Nat → α) (m : SMap α)

theorem SMap.wf_iff : SMap.wf d m = true ↔ SMap.rising m = true ∧ ∀ p ∈ m, p.2 ≠ d p.1 := by
  simp [SMap.wf, SMap.lean]

@[simp] theorem SMap.wf_nil : SMap.wf d [] = true := rfl

/-- Writing keeps the canonical form. -/
theorem SMap.wf_set (k : Nat) (v : α) (h : SMap.wf d m = true) : SMap.wf d (SMap.set d m k v) = true := by
  rw [SMap.wf_iff] at h ⊢
  rw [SMap.set]
  split
  · exact ⟨SMap.rising_del m k h.1, fun p hp => h.2 p (SMap.mem_del hp)⟩
  · next hv =>
    refine ⟨SMap.rising_put m k v h.1, fun p hp => ?_⟩
    rcases SMap.mem_put hp with rfl | hp
    · exact hv
    · exact h.2 p hp

/-- Taking entries out keeps the canonical form. -/
theorem SMap.wf_filter (f : Nat × α → Bool) (h : SMap.wf d m = true) : SMap.wf d (m.filter f) = true := by
  rw [SMap.wf_iff] at h ⊢
  refine ⟨?_, fun p hp => h.2 p (List.mem_filter.1 hp).1⟩
  have h1 := h.1
  clear h
  induction m with
  | nil => rfl
  | cons p r ih =>
    rw [SMap.rising_cons] at h1
    rw [List.filter]
    split
    · rw [SMap.rising_cons]
      exact ⟨fun q hq => h1.1 q (List.mem_filter.1 hq).1, ih h1.2⟩
    · exact ih h1.2

theorem SMap.wf_clearRange (lo n : Nat) (h : SMap.wf d m = true) : SMap.wf d (SMap.clearRange m lo n) = true :=
  SMap.wf_filter d m _ h

/-- What is read after a write: the value written at its key, what stood there before at every other. -/
theorem SMap.get_set (k j : Nat) (v : α) : SMap.get d (SMap.set d m k v) j = if j = k then v else SMap.get d m j := by
  rw [SMap.set]
  split
  · next hv => rw [SMap.get_del d m k j, hv]
  · exact SMap.get_put d m k j v

@[simp] theorem SMap.get_set_same (k : Nat) (v : α) : SMap.get d (SMap.set d m k v) k = v := by
  rw [SMap.get_set, if_pos rfl]

/-- A write leaves every other key alone. -/
theorem SMap.get_set_ne (k j : Nat) (v : α) (h : j ≠ k) : SMap.get d (SMap.set d m k v) j = SMap.get d m j := by
  rw [SMap.get_set, if_neg h]

end
end Sys2Proof.Machine
end

