-- ==== Sys2Proof/Laws/State.lean ====
section
/-! SUPPORT. What the updates of the state leave alone: one lemma for each field and update; and what is read after a write. -/
namespace Sys2Proof.Machine

variable (s : State)

@[simp] theorem State.setReg_pending (o v : Nat) : (s.setReg o v).pending = s.pending := rfl
@[simp] theorem State.setReg_freeCount (o v : Nat) : (s.setReg o v).freeCount = s.freeCount := rfl
@[simp] theorem State.setReg_tb3 (o v : Nat) : (s.setReg o v).tb3 = s.tb3 := rfl
@[simp] theorem State.setReg_act (o v : Nat) : (s.setReg o v).act = s.act := rfl
@[simp] theorem State.setReg_mem (o v : Nat) : (s.setReg o v).mem = s.mem := rfl
@[simp] theorem State.setReg_out (o v : Nat) : (s.setReg o v).out = s.out := rfl
@[simp] theorem State.setReg_islets (o v : Nat) : (s.setReg o v).islets = s.islets := rfl
@[simp] theorem State.setReg_buoys (o v : Nat) : (s.setReg o v).buoys = s.buoys := rfl
@[simp] theorem State.setReg_place (o v : Nat) : (s.setReg o v).place = s.place := rfl
@[simp] theorem State.setReg_units (o v : Nat) : (s.setReg o v).units = s.units := rfl
@[simp] theorem State.setReg_chain (o v : Nat) : (s.setReg o v).chain = s.chain := rfl
@[simp] theorem State.setReg_ep (o v : Nat) : (s.setReg o v).ep = s.ep := rfl
@[simp] theorem State.setReg_time (o v : Nat) : (s.setReg o v).time = s.time := rfl
@[simp] theorem State.setReg_cond (o v : Nat) : (s.setReg o v).cond = s.cond := rfl
@[simp] theorem State.setReg_shore (o v : Nat) : (s.setReg o v).shore = s.shore := rfl
@[simp] theorem State.setReg_fuse (o v : Nat) : (s.setReg o v).fuse = s.fuse := rfl
@[simp] theorem State.setReg_gsol (o v : Nat) : (s.setReg o v).gsol = s.gsol := rfl
@[simp] theorem State.setReg_map (o v : Nat) : (s.setReg o v).map = s.map := rfl
@[simp] theorem State.setReg_reef (o v : Nat) : (s.setReg o v).reef = s.reef := rfl
@[simp] theorem State.setReg_dev (o v : Nat) : (s.setReg o v).dev = s.dev := rfl
@[simp] theorem State.setReg_cfg (o v : Nat) : (s.setReg o v).cfg = s.cfg := rfl
@[simp] theorem State.setReg_sec (o v : Nat) : (s.setReg o v).sec = s.sec := rfl
@[simp] theorem State.setReg_pwr (o v : Nat) : (s.setReg o v).pwr = s.pwr := rfl
@[simp] theorem State.setReg_tap (o v : Nat) : (s.setReg o v).tap = s.tap := rfl

@[simp] theorem State.setFld_pending (o : Nat) (b : Bits) (v : Nat) : (s.setFld o b v).pending = s.pending := rfl
@[simp] theorem State.setFld_freeCount (o : Nat) (b : Bits) (v : Nat) : (s.setFld o b v).freeCount = s.freeCount := rfl
@[simp] theorem State.setFld_tb3 (o : Nat) (b : Bits) (v : Nat) : (s.setFld o b v).tb3 = s.tb3 := rfl
@[simp] theorem State.setFld_act (o : Nat) (b : Bits) (v : Nat) : (s.setFld o b v).act = s.act := rfl
@[simp] theorem State.setFld_mem (o : Nat) (b : Bits) (v : Nat) : (s.setFld o b v).mem = s.mem := rfl
@[simp] theorem State.setFld_out (o : Nat) (b : Bits) (v : Nat) : (s.setFld o b v).out = s.out := rfl
@[simp] theorem State.setFld_islets (o : Nat) (b : Bits) (v : Nat) : (s.setFld o b v).islets = s.islets := rfl
@[simp] theorem State.setFld_buoys (o : Nat) (b : Bits) (v : Nat) : (s.setFld o b v).buoys = s.buoys := rfl
@[simp] theorem State.setFld_place (o : Nat) (b : Bits) (v : Nat) : (s.setFld o b v).place = s.place := rfl
@[simp] theorem State.setFld_units (o : Nat) (b : Bits) (v : Nat) : (s.setFld o b v).units = s.units := rfl
@[simp] theorem State.setFld_chain (o : Nat) (b : Bits) (v : Nat) : (s.setFld o b v).chain = s.chain := rfl
@[simp] theorem State.setFld_ep (o : Nat) (b : Bits) (v : Nat) : (s.setFld o b v).ep = s.ep := rfl
@[simp] theorem State.setFld_time (o : Nat) (b : Bits) (v : Nat) : (s.setFld o b v).time = s.time := rfl
@[simp] theorem State.setFld_cond (o : Nat) (b : Bits) (v : Nat) : (s.setFld o b v).cond = s.cond := rfl
@[simp] theorem State.setFld_shore (o : Nat) (b : Bits) (v : Nat) : (s.setFld o b v).shore = s.shore := rfl
@[simp] theorem State.setFld_fuse (o : Nat) (b : Bits) (v : Nat) : (s.setFld o b v).fuse = s.fuse := rfl
@[simp] theorem State.setFld_gsol (o : Nat) (b : Bits) (v : Nat) : (s.setFld o b v).gsol = s.gsol := rfl
@[simp] theorem State.setFld_map (o : Nat) (b : Bits) (v : Nat) : (s.setFld o b v).map = s.map := rfl
@[simp] theorem State.setFld_reef (o : Nat) (b : Bits) (v : Nat) : (s.setFld o b v).reef = s.reef := rfl
@[simp] theorem State.setFld_dev (o : Nat) (b : Bits) (v : Nat) : (s.setFld o b v).dev = s.dev := rfl
@[simp] theorem State.setFld_cfg (o : Nat) (b : Bits) (v : Nat) : (s.setFld o b v).cfg = s.cfg := rfl
@[simp] theorem State.setFld_sec (o : Nat) (b : Bits) (v : Nat) : (s.setFld o b v).sec = s.sec := rfl
@[simp] theorem State.setFld_pwr (o : Nat) (b : Bits) (v : Nat) : (s.setFld o b v).pwr = s.pwr := rfl
@[simp] theorem State.setFld_tap (o : Nat) (b : Bits) (v : Nat) : (s.setFld o b v).tap = s.tap := rfl

@[simp] theorem State.inc_pending (o : Nat) : (s.inc o).pending = s.pending := rfl
@[simp] theorem State.inc_freeCount (o : Nat) : (s.inc o).freeCount = s.freeCount := rfl
@[simp] theorem State.inc_tb3 (o : Nat) : (s.inc o).tb3 = s.tb3 := rfl
@[simp] theorem State.inc_act (o : Nat) : (s.inc o).act = s.act := rfl
@[simp] theorem State.inc_mem (o : Nat) : (s.inc o).mem = s.mem := rfl
@[simp] theorem State.inc_out (o : Nat) : (s.inc o).out = s.out := rfl
@[simp] theorem State.inc_islets (o : Nat) : (s.inc o).islets = s.islets := rfl
@[simp] theorem State.inc_buoys (o : Nat) : (s.inc o).buoys = s.buoys := rfl
@[simp] theorem State.inc_place (o : Nat) : (s.inc o).place = s.place := rfl
@[simp] theorem State.inc_units (o : Nat) : (s.inc o).units = s.units := rfl
@[simp] theorem State.inc_chain (o : Nat) : (s.inc o).chain = s.chain := rfl
@[simp] theorem State.inc_ep (o : Nat) : (s.inc o).ep = s.ep := rfl
@[simp] theorem State.inc_time (o : Nat) : (s.inc o).time = s.time := rfl
@[simp] theorem State.inc_cond (o : Nat) : (s.inc o).cond = s.cond := rfl
@[simp] theorem State.inc_shore (o : Nat) : (s.inc o).shore = s.shore := rfl
@[simp] theorem State.inc_fuse (o : Nat) : (s.inc o).fuse = s.fuse := rfl
@[simp] theorem State.inc_gsol (o : Nat) : (s.inc o).gsol = s.gsol := rfl
@[simp] theorem State.inc_map (o : Nat) : (s.inc o).map = s.map := rfl
@[simp] theorem State.inc_reef (o : Nat) : (s.inc o).reef = s.reef := rfl
@[simp] theorem State.inc_dev (o : Nat) : (s.inc o).dev = s.dev := rfl
@[simp] theorem State.inc_cfg (o : Nat) : (s.inc o).cfg = s.cfg := rfl
@[simp] theorem State.inc_sec (o : Nat) : (s.inc o).sec = s.sec := rfl
@[simp] theorem State.inc_pwr (o : Nat) : (s.inc o).pwr = s.pwr := rfl
@[simp] theorem State.inc_tap (o : Nat) : (s.inc o).tap = s.tap := rfl

@[simp] theorem State.addTo_pending (o n : Nat) : (s.addTo o n).pending = s.pending := rfl
@[simp] theorem State.addTo_freeCount (o n : Nat) : (s.addTo o n).freeCount = s.freeCount := rfl
@[simp] theorem State.addTo_tb3 (o n : Nat) : (s.addTo o n).tb3 = s.tb3 := rfl
@[simp] theorem State.addTo_act (o n : Nat) : (s.addTo o n).act = s.act := rfl
@[simp] theorem State.addTo_mem (o n : Nat) : (s.addTo o n).mem = s.mem := rfl
@[simp] theorem State.addTo_out (o n : Nat) : (s.addTo o n).out = s.out := rfl
@[simp] theorem State.addTo_islets (o n : Nat) : (s.addTo o n).islets = s.islets := rfl
@[simp] theorem State.addTo_buoys (o n : Nat) : (s.addTo o n).buoys = s.buoys := rfl
@[simp] theorem State.addTo_place (o n : Nat) : (s.addTo o n).place = s.place := rfl
@[simp] theorem State.addTo_units (o n : Nat) : (s.addTo o n).units = s.units := rfl
@[simp] theorem State.addTo_chain (o n : Nat) : (s.addTo o n).chain = s.chain := rfl
@[simp] theorem State.addTo_ep (o n : Nat) : (s.addTo o n).ep = s.ep := rfl
@[simp] theorem State.addTo_time (o n : Nat) : (s.addTo o n).time = s.time := rfl
@[simp] theorem State.addTo_cond (o n : Nat) : (s.addTo o n).cond = s.cond := rfl
@[simp] theorem State.addTo_shore (o n : Nat) : (s.addTo o n).shore = s.shore := rfl
@[simp] theorem State.addTo_fuse (o n : Nat) : (s.addTo o n).fuse = s.fuse := rfl
@[simp] theorem State.addTo_gsol (o n : Nat) : (s.addTo o n).gsol = s.gsol := rfl
@[simp] theorem State.addTo_map (o n : Nat) : (s.addTo o n).map = s.map := rfl
@[simp] theorem State.addTo_reef (o n : Nat) : (s.addTo o n).reef = s.reef := rfl
@[simp] theorem State.addTo_dev (o n : Nat) : (s.addTo o n).dev = s.dev := rfl
@[simp] theorem State.addTo_cfg (o n : Nat) : (s.addTo o n).cfg = s.cfg := rfl
@[simp] theorem State.addTo_sec (o n : Nat) : (s.addTo o n).sec = s.sec := rfl
@[simp] theorem State.addTo_pwr (o n : Nat) : (s.addTo o n).pwr = s.pwr := rfl
@[simp] theorem State.addTo_tap (o n : Nat) : (s.addTo o n).tap = s.tap := rfl

@[simp] theorem State.incWrap_pending (o : Nat) : (s.incWrap o).pending = s.pending := rfl
@[simp] theorem State.incWrap_freeCount (o : Nat) : (s.incWrap o).freeCount = s.freeCount := rfl
@[simp] theorem State.incWrap_tb3 (o : Nat) : (s.incWrap o).tb3 = s.tb3 := rfl
@[simp] theorem State.incWrap_act (o : Nat) : (s.incWrap o).act = s.act := rfl
@[simp] theorem State.incWrap_mem (o : Nat) : (s.incWrap o).mem = s.mem := rfl
@[simp] theorem State.incWrap_out (o : Nat) : (s.incWrap o).out = s.out := rfl
@[simp] theorem State.incWrap_islets (o : Nat) : (s.incWrap o).islets = s.islets := rfl
@[simp] theorem State.incWrap_buoys (o : Nat) : (s.incWrap o).buoys = s.buoys := rfl
@[simp] theorem State.incWrap_place (o : Nat) : (s.incWrap o).place = s.place := rfl
@[simp] theorem State.incWrap_units (o : Nat) : (s.incWrap o).units = s.units := rfl
@[simp] theorem State.incWrap_chain (o : Nat) : (s.incWrap o).chain = s.chain := rfl
@[simp] theorem State.incWrap_ep (o : Nat) : (s.incWrap o).ep = s.ep := rfl
@[simp] theorem State.incWrap_time (o : Nat) : (s.incWrap o).time = s.time := rfl
@[simp] theorem State.incWrap_cond (o : Nat) : (s.incWrap o).cond = s.cond := rfl
@[simp] theorem State.incWrap_shore (o : Nat) : (s.incWrap o).shore = s.shore := rfl
@[simp] theorem State.incWrap_fuse (o : Nat) : (s.incWrap o).fuse = s.fuse := rfl
@[simp] theorem State.incWrap_gsol (o : Nat) : (s.incWrap o).gsol = s.gsol := rfl
@[simp] theorem State.incWrap_map (o : Nat) : (s.incWrap o).map = s.map := rfl
@[simp] theorem State.incWrap_reef (o : Nat) : (s.incWrap o).reef = s.reef := rfl
@[simp] theorem State.incWrap_dev (o : Nat) : (s.incWrap o).dev = s.dev := rfl
@[simp] theorem State.incWrap_cfg (o : Nat) : (s.incWrap o).cfg = s.cfg := rfl
@[simp] theorem State.incWrap_sec (o : Nat) : (s.incWrap o).sec = s.sec := rfl
@[simp] theorem State.incWrap_pwr (o : Nat) : (s.incWrap o).pwr = s.pwr := rfl
@[simp] theorem State.incWrap_tap (o : Nat) : (s.incWrap o).tap = s.tap := rfl

@[simp] theorem State.setReg64_pending (o v : Nat) : (s.setReg64 o v).pending = s.pending := rfl
@[simp] theorem State.setReg64_freeCount (o v : Nat) : (s.setReg64 o v).freeCount = s.freeCount := rfl
@[simp] theorem State.setReg64_tb3 (o v : Nat) : (s.setReg64 o v).tb3 = s.tb3 := rfl
@[simp] theorem State.setReg64_act (o v : Nat) : (s.setReg64 o v).act = s.act := rfl
@[simp] theorem State.setReg64_mem (o v : Nat) : (s.setReg64 o v).mem = s.mem := rfl
@[simp] theorem State.setReg64_out (o v : Nat) : (s.setReg64 o v).out = s.out := rfl
@[simp] theorem State.setReg64_islets (o v : Nat) : (s.setReg64 o v).islets = s.islets := rfl
@[simp] theorem State.setReg64_buoys (o v : Nat) : (s.setReg64 o v).buoys = s.buoys := rfl
@[simp] theorem State.setReg64_place (o v : Nat) : (s.setReg64 o v).place = s.place := rfl
@[simp] theorem State.setReg64_units (o v : Nat) : (s.setReg64 o v).units = s.units := rfl
@[simp] theorem State.setReg64_chain (o v : Nat) : (s.setReg64 o v).chain = s.chain := rfl
@[simp] theorem State.setReg64_ep (o v : Nat) : (s.setReg64 o v).ep = s.ep := rfl
@[simp] theorem State.setReg64_time (o v : Nat) : (s.setReg64 o v).time = s.time := rfl
@[simp] theorem State.setReg64_cond (o v : Nat) : (s.setReg64 o v).cond = s.cond := rfl
@[simp] theorem State.setReg64_shore (o v : Nat) : (s.setReg64 o v).shore = s.shore := rfl
@[simp] theorem State.setReg64_fuse (o v : Nat) : (s.setReg64 o v).fuse = s.fuse := rfl
@[simp] theorem State.setReg64_gsol (o v : Nat) : (s.setReg64 o v).gsol = s.gsol := rfl
@[simp] theorem State.setReg64_map (o v : Nat) : (s.setReg64 o v).map = s.map := rfl
@[simp] theorem State.setReg64_reef (o v : Nat) : (s.setReg64 o v).reef = s.reef := rfl
@[simp] theorem State.setReg64_dev (o v : Nat) : (s.setReg64 o v).dev = s.dev := rfl
@[simp] theorem State.setReg64_cfg (o v : Nat) : (s.setReg64 o v).cfg = s.cfg := rfl
@[simp] theorem State.setReg64_sec (o v : Nat) : (s.setReg64 o v).sec = s.sec := rfl
@[simp] theorem State.setReg64_pwr (o v : Nat) : (s.setReg64 o v).pwr = s.pwr := rfl
@[simp] theorem State.setReg64_tap (o v : Nat) : (s.setReg64 o v).tap = s.tap := rfl

@[simp] theorem State.setByte_pending (a : Nat) (v : Byte) : (s.setByte a v).pending = s.pending := rfl
@[simp] theorem State.setByte_freeCount (a : Nat) (v : Byte) : (s.setByte a v).freeCount = s.freeCount := rfl
@[simp] theorem State.setByte_tb3 (a : Nat) (v : Byte) : (s.setByte a v).tb3 = s.tb3 := rfl
@[simp] theorem State.setByte_csr (a : Nat) (v : Byte) : (s.setByte a v).csr = s.csr := rfl
@[simp] theorem State.setByte_act (a : Nat) (v : Byte) : (s.setByte a v).act = s.act := rfl
@[simp] theorem State.setByte_out (a : Nat) (v : Byte) : (s.setByte a v).out = s.out := rfl
@[simp] theorem State.setByte_islets (a : Nat) (v : Byte) : (s.setByte a v).islets = s.islets := rfl
@[simp] theorem State.setByte_buoys (a : Nat) (v : Byte) : (s.setByte a v).buoys = s.buoys := rfl
@[simp] theorem State.setByte_place (a : Nat) (v : Byte) : (s.setByte a v).place = s.place := rfl
@[simp] theorem State.setByte_units (a : Nat) (v : Byte) : (s.setByte a v).units = s.units := rfl
@[simp] theorem State.setByte_chain (a : Nat) (v : Byte) : (s.setByte a v).chain = s.chain := rfl
@[simp] theorem State.setByte_ep (a : Nat) (v : Byte) : (s.setByte a v).ep = s.ep := rfl
@[simp] theorem State.setByte_time (a : Nat) (v : Byte) : (s.setByte a v).time = s.time := rfl
@[simp] theorem State.setByte_cond (a : Nat) (v : Byte) : (s.setByte a v).cond = s.cond := rfl
@[simp] theorem State.setByte_shore (a : Nat) (v : Byte) : (s.setByte a v).shore = s.shore := rfl
@[simp] theorem State.setByte_fuse (a : Nat) (v : Byte) : (s.setByte a v).fuse = s.fuse := rfl
@[simp] theorem State.setByte_gsol (a : Nat) (v : Byte) : (s.setByte a v).gsol = s.gsol := rfl
@[simp] theorem State.setByte_map (a : Nat) (v : Byte) : (s.setByte a v).map = s.map := rfl
@[simp] theorem State.setByte_reef (a : Nat) (v : Byte) : (s.setByte a v).reef = s.reef := rfl
@[simp] theorem State.setByte_dev (a : Nat) (v : Byte) : (s.setByte a v).dev = s.dev := rfl
@[simp] theorem State.setByte_cfg (a : Nat) (v : Byte) : (s.setByte a v).cfg = s.cfg := rfl
@[simp] theorem State.setByte_sec (a : Nat) (v : Byte) : (s.setByte a v).sec = s.sec := rfl
@[simp] theorem State.setByte_pwr (a : Nat) (v : Byte) : (s.setByte a v).pwr = s.pwr := rfl
@[simp] theorem State.setByte_tap (a : Nat) (v : Byte) : (s.setByte a v).tap = s.tap := rfl

@[simp] theorem State.zero_pending (a n : Nat) : (s.zero a n).pending = s.pending := rfl
@[simp] theorem State.zero_freeCount (a n : Nat) : (s.zero a n).freeCount = s.freeCount := rfl
@[simp] theorem State.zero_tb3 (a n : Nat) : (s.zero a n).tb3 = s.tb3 := rfl
@[simp] theorem State.zero_csr (a n : Nat) : (s.zero a n).csr = s.csr := rfl
@[simp] theorem State.zero_act (a n : Nat) : (s.zero a n).act = s.act := rfl
@[simp] theorem State.zero_out (a n : Nat) : (s.zero a n).out = s.out := rfl
@[simp] theorem State.zero_islets (a n : Nat) : (s.zero a n).islets = s.islets := rfl
@[simp] theorem State.zero_buoys (a n : Nat) : (s.zero a n).buoys = s.buoys := rfl
@[simp] theorem State.zero_place (a n : Nat) : (s.zero a n).place = s.place := rfl
@[simp] theorem State.zero_units (a n : Nat) : (s.zero a n).units = s.units := rfl
@[simp] theorem State.zero_chain (a n : Nat) : (s.zero a n).chain = s.chain := rfl
@[simp] theorem State.zero_ep (a n : Nat) : (s.zero a n).ep = s.ep := rfl
@[simp] theorem State.zero_time (a n : Nat) : (s.zero a n).time = s.time := rfl
@[simp] theorem State.zero_cond (a n : Nat) : (s.zero a n).cond = s.cond := rfl
@[simp] theorem State.zero_shore (a n : Nat) : (s.zero a n).shore = s.shore := rfl
@[simp] theorem State.zero_fuse (a n : Nat) : (s.zero a n).fuse = s.fuse := rfl
@[simp] theorem State.zero_gsol (a n : Nat) : (s.zero a n).gsol = s.gsol := rfl
@[simp] theorem State.zero_map (a n : Nat) : (s.zero a n).map = s.map := rfl
@[simp] theorem State.zero_reef (a n : Nat) : (s.zero a n).reef = s.reef := rfl
@[simp] theorem State.zero_dev (a n : Nat) : (s.zero a n).dev = s.dev := rfl
@[simp] theorem State.zero_cfg (a n : Nat) : (s.zero a n).cfg = s.cfg := rfl
@[simp] theorem State.zero_sec (a n : Nat) : (s.zero a n).sec = s.sec := rfl
@[simp] theorem State.zero_pwr (a n : Nat) : (s.zero a n).pwr = s.pwr := rfl
@[simp] theorem State.zero_tap (a n : Nat) : (s.zero a n).tap = s.tap := rfl

@[simp] theorem State.tick_pending  : (s.tick).pending = s.pending := rfl
@[simp] theorem State.tick_tb3  : (s.tick).tb3 = s.tb3 := rfl
@[simp] theorem State.tick_csr  : (s.tick).csr = s.csr := rfl
@[simp] theorem State.tick_act  : (s.tick).act = s.act := rfl
@[simp] theorem State.tick_mem  : (s.tick).mem = s.mem := rfl
@[simp] theorem State.tick_out  : (s.tick).out = s.out := rfl
@[simp] theorem State.tick_islets  : (s.tick).islets = s.islets := rfl
@[simp] theorem State.tick_buoys  : (s.tick).buoys = s.buoys := rfl
@[simp] theorem State.tick_place  : (s.tick).place = s.place := rfl
@[simp] theorem State.tick_units  : (s.tick).units = s.units := rfl
@[simp] theorem State.tick_chain  : (s.tick).chain = s.chain := rfl
@[simp] theorem State.tick_ep  : (s.tick).ep = s.ep := rfl
@[simp] theorem State.tick_time  : (s.tick).time = s.time := rfl
@[simp] theorem State.tick_cond  : (s.tick).cond = s.cond := rfl
@[simp] theorem State.tick_shore  : (s.tick).shore = s.shore := rfl
@[simp] theorem State.tick_fuse  : (s.tick).fuse = s.fuse := rfl
@[simp] theorem State.tick_gsol  : (s.tick).gsol = s.gsol := rfl
@[simp] theorem State.tick_map  : (s.tick).map = s.map := rfl
@[simp] theorem State.tick_reef  : (s.tick).reef = s.reef := rfl
@[simp] theorem State.tick_dev  : (s.tick).dev = s.dev := rfl
@[simp] theorem State.tick_cfg  : (s.tick).cfg = s.cfg := rfl
@[simp] theorem State.tick_sec  : (s.tick).sec = s.sec := rfl
@[simp] theorem State.tick_pwr  : (s.tick).pwr = s.pwr := rfl
@[simp] theorem State.tick_tap  : (s.tick).tap = s.tap := rfl

@[simp] theorem State.emit_pending (x : Out) : (s.emit x).pending = s.pending := rfl
@[simp] theorem State.emit_freeCount (x : Out) : (s.emit x).freeCount = s.freeCount := rfl
@[simp] theorem State.emit_tb3 (x : Out) : (s.emit x).tb3 = s.tb3 := rfl
@[simp] theorem State.emit_csr (x : Out) : (s.emit x).csr = s.csr := rfl
@[simp] theorem State.emit_act (x : Out) : (s.emit x).act = s.act := rfl
@[simp] theorem State.emit_mem (x : Out) : (s.emit x).mem = s.mem := rfl
@[simp] theorem State.emit_islets (x : Out) : (s.emit x).islets = s.islets := rfl
@[simp] theorem State.emit_buoys (x : Out) : (s.emit x).buoys = s.buoys := rfl
@[simp] theorem State.emit_place (x : Out) : (s.emit x).place = s.place := rfl
@[simp] theorem State.emit_units (x : Out) : (s.emit x).units = s.units := rfl
@[simp] theorem State.emit_chain (x : Out) : (s.emit x).chain = s.chain := rfl
@[simp] theorem State.emit_ep (x : Out) : (s.emit x).ep = s.ep := rfl
@[simp] theorem State.emit_time (x : Out) : (s.emit x).time = s.time := rfl
@[simp] theorem State.emit_cond (x : Out) : (s.emit x).cond = s.cond := rfl
@[simp] theorem State.emit_shore (x : Out) : (s.emit x).shore = s.shore := rfl
@[simp] theorem State.emit_fuse (x : Out) : (s.emit x).fuse = s.fuse := rfl
@[simp] theorem State.emit_gsol (x : Out) : (s.emit x).gsol = s.gsol := rfl
@[simp] theorem State.emit_map (x : Out) : (s.emit x).map = s.map := rfl
@[simp] theorem State.emit_reef (x : Out) : (s.emit x).reef = s.reef := rfl
@[simp] theorem State.emit_dev (x : Out) : (s.emit x).dev = s.dev := rfl
@[simp] theorem State.emit_cfg (x : Out) : (s.emit x).cfg = s.cfg := rfl
@[simp] theorem State.emit_sec (x : Out) : (s.emit x).sec = s.sec := rfl
@[simp] theorem State.emit_pwr (x : Out) : (s.emit x).pwr = s.pwr := rfl
@[simp] theorem State.emit_tap (x : Out) : (s.emit x).tap = s.tap := rfl

@[simp] theorem State.at_pending (t : Nat) : (s.at t).pending = s.pending := rfl
@[simp] theorem State.at_freeCount (t : Nat) : (s.at t).freeCount = s.freeCount := rfl
@[simp] theorem State.at_csr (t : Nat) : (s.at t).csr = s.csr := rfl
@[simp] theorem State.at_act (t : Nat) : (s.at t).act = s.act := rfl
@[simp] theorem State.at_mem (t : Nat) : (s.at t).mem = s.mem := rfl
@[simp] theorem State.at_out (t : Nat) : (s.at t).out = s.out := rfl
@[simp] theorem State.at_islets (t : Nat) : (s.at t).islets = s.islets := rfl
@[simp] theorem State.at_buoys (t : Nat) : (s.at t).buoys = s.buoys := rfl
@[simp] theorem State.at_place (t : Nat) : (s.at t).place = s.place := rfl
@[simp] theorem State.at_units (t : Nat) : (s.at t).units = s.units := rfl
@[simp] theorem State.at_chain (t : Nat) : (s.at t).chain = s.chain := rfl
@[simp] theorem State.at_ep (t : Nat) : (s.at t).ep = s.ep := rfl
@[simp] theorem State.at_time (t : Nat) : (s.at t).time = s.time := rfl
@[simp] theorem State.at_cond (t : Nat) : (s.at t).cond = s.cond := rfl
@[simp] theorem State.at_shore (t : Nat) : (s.at t).shore = s.shore := rfl
@[simp] theorem State.at_fuse (t : Nat) : (s.at t).fuse = s.fuse := rfl
@[simp] theorem State.at_gsol (t : Nat) : (s.at t).gsol = s.gsol := rfl
@[simp] theorem State.at_map (t : Nat) : (s.at t).map = s.map := rfl
@[simp] theorem State.at_reef (t : Nat) : (s.at t).reef = s.reef := rfl
@[simp] theorem State.at_dev (t : Nat) : (s.at t).dev = s.dev := rfl
@[simp] theorem State.at_cfg (t : Nat) : (s.at t).cfg = s.cfg := rfl
@[simp] theorem State.at_sec (t : Nat) : (s.at t).sec = s.sec := rfl
@[simp] theorem State.at_pwr (t : Nat) : (s.at t).pwr = s.pwr := rfl
@[simp] theorem State.at_tap (t : Nat) : (s.at t).tap = s.tap := rfl

@[simp] theorem State.store_pending (a : Nat) (b : List Byte) : (s.store a b).pending = s.pending := by
  induction b generalizing s a with
  | nil => rfl
  | cons x r ih => exact ih _ _
@[simp] theorem State.store_freeCount (a : Nat) (b : List Byte) : (s.store a b).freeCount = s.freeCount := by
  induction b generalizing s a with
  | nil => rfl
  | cons x r ih => exact ih _ _
@[simp] theorem State.store_tb3 (a : Nat) (b : List Byte) : (s.store a b).tb3 = s.tb3 := by
  induction b generalizing s a with
  | nil => rfl
  | cons x r ih => exact ih _ _
@[simp] theorem State.store_csr (a : Nat) (b : List Byte) : (s.store a b).csr = s.csr := by
  induction b generalizing s a with
  | nil => rfl
  | cons x r ih => exact ih _ _
@[simp] theorem State.store_act (a : Nat) (b : List Byte) : (s.store a b).act = s.act := by
  induction b generalizing s a with
  | nil => rfl
  | cons x r ih => exact ih _ _
@[simp] theorem State.store_out (a : Nat) (b : List Byte) : (s.store a b).out = s.out := by
  induction b generalizing s a with
  | nil => rfl
  | cons x r ih => exact ih _ _
@[simp] theorem State.store_islets (a : Nat) (b : List Byte) : (s.store a b).islets = s.islets := by
  induction b generalizing s a with
  | nil => rfl
  | cons x r ih => exact ih _ _
@[simp] theorem State.store_buoys (a : Nat) (b : List Byte) : (s.store a b).buoys = s.buoys := by
  induction b generalizing s a with
  | nil => rfl
  | cons x r ih => exact ih _ _
@[simp] theorem State.store_place (a : Nat) (b : List Byte) : (s.store a b).place = s.place := by
  induction b generalizing s a with
  | nil => rfl
  | cons x r ih => exact ih _ _
@[simp] theorem State.store_units (a : Nat) (b : List Byte) : (s.store a b).units = s.units := by
  induction b generalizing s a with
  | nil => rfl
  | cons x r ih => exact ih _ _
@[simp] theorem State.store_chain (a : Nat) (b : List Byte) : (s.store a b).chain = s.chain := by
  induction b generalizing s a with
  | nil => rfl
  | cons x r ih => exact ih _ _
@[simp] theorem State.store_ep (a : Nat) (b : List Byte) : (s.store a b).ep = s.ep := by
  induction b generalizing s a with
  | nil => rfl
  | cons x r ih => exact ih _ _
@[simp] theorem State.store_time (a : Nat) (b : List Byte) : (s.store a b).time = s.time := by
  induction b generalizing s a with
  | nil => rfl
  | cons x r ih => exact ih _ _
@[simp] theorem State.store_cond (a : Nat) (b : List Byte) : (s.store a b).cond = s.cond := by
  induction b generalizing s a with
  | nil => rfl
  | cons x r ih => exact ih _ _
@[simp] theorem State.store_shore (a : Nat) (b : List Byte) : (s.store a b).shore = s.shore := by
  induction b generalizing s a with
  | nil => rfl
  | cons x r ih => exact ih _ _
@[simp] theorem State.store_fuse (a : Nat) (b : List Byte) : (s.store a b).fuse = s.fuse := by
  induction b generalizing s a with
  | nil => rfl
  | cons x r ih => exact ih _ _
@[simp] theorem State.store_gsol (a : Nat) (b : List Byte) : (s.store a b).gsol = s.gsol := by
  induction b generalizing s a with
  | nil => rfl
  | cons x r ih => exact ih _ _
@[simp] theorem State.store_map (a : Nat) (b : List Byte) : (s.store a b).map = s.map := by
  induction b generalizing s a with
  | nil => rfl
  | cons x r ih => exact ih _ _
@[simp] theorem State.store_reef (a : Nat) (b : List Byte) : (s.store a b).reef = s.reef := by
  induction b generalizing s a with
  | nil => rfl
  | cons x r ih => exact ih _ _
@[simp] theorem State.store_dev (a : Nat) (b : List Byte) : (s.store a b).dev = s.dev := by
  induction b generalizing s a with
  | nil => rfl
  | cons x r ih => exact ih _ _
@[simp] theorem State.store_cfg (a : Nat) (b : List Byte) : (s.store a b).cfg = s.cfg := by
  induction b generalizing s a with
  | nil => rfl
  | cons x r ih => exact ih _ _
@[simp] theorem State.store_sec (a : Nat) (b : List Byte) : (s.store a b).sec = s.sec := by
  induction b generalizing s a with
  | nil => rfl
  | cons x r ih => exact ih _ _
@[simp] theorem State.store_pwr (a : Nat) (b : List Byte) : (s.store a b).pwr = s.pwr := by
  induction b generalizing s a with
  | nil => rfl
  | cons x r ih => exact ih _ _
@[simp] theorem State.store_tap (a : Nat) (b : List Byte) : (s.store a b).tap = s.tap := by
  induction b generalizing s a with
  | nil => rfl
  | cons x r ih => exact ih _ _

@[simp] theorem State.tick_freeCount : s.tick.freeCount = s.freeCount + 1 := rfl
@[simp] theorem State.emit_out (x : Out) : (s.emit x).out = s.out ++ [x] := rfl
@[simp] theorem State.at_tb3 (t : Nat) : (s.at t).tb3 = max s.tb3 t := rfl

/-- A register holds what is written to it. -/
theorem State.reg_setReg (o v : Nat) : (s.setReg o v).reg o = v % 2 ^ 32 := by
  show (SMap.get csrReset (SMap.set csrReset s.csr o _) o).toNat = _
  rw [SMap.get_set csrReset s.csr o o _, if_pos rfl]
  rfl

/-- A write of one register leaves every other alone. -/
theorem State.reg_setReg_ne (o p v : Nat) (h : p ≠ o) : (s.setReg o v).reg p = s.reg p := by
  show (SMap.get csrReset (SMap.set csrReset s.csr o _) p).toNat = _
  rw [SMap.get_set_ne csrReset s.csr o p _ h]
  rfl

/-- A byte of memory holds what is written to it. -/
theorem State.byte_setByte (a : Nat) (v : Byte) : (s.setByte a v).byte a = v := by
  show SMap.get memDefault (SMap.set memDefault s.mem a v) a = v
  rw [SMap.get_set memDefault s.mem a a v, if_pos rfl]

/-- A write of one byte leaves every other alone. -/
theorem State.byte_setByte_ne (a b : Nat) (v : Byte) (h : b ≠ a) : (s.setByte a v).byte b = s.byte b :=
  SMap.get_set_ne memDefault s.mem a b v h

/-- Storing bytes leaves every byte outside them alone. -/
theorem State.byte_store (a b : Nat) (l : List Byte) (h : b < a ∨ a + l.length ≤ b) : (s.store a l).byte b = s.byte b := by
  induction l generalizing s a with
  | nil => rfl
  | cons x r ih =>
    simp only [List.length_cons] at h
    rw [State.store, ih _ _ (by omega), State.byte_setByte_ne _ _ _ _ (by omega)]

/-- One byte of memory written: the memory keeps its canonical form. -/
theorem State.setByte_memWf (a : Nat) (v : Byte) (h : memWf s.mem = true) : memWf (s.setByte a v).mem = true :=
  SMap.wf_set memDefault s.mem a v h

/-- Bytes stored: the memory keeps its canonical form. -/
theorem State.store_memWf (a : Nat) (l : List Byte) (h : memWf s.mem = true) : memWf (s.store a l).mem = true := by
  induction l generalizing s a with
  | nil => exact h
  | cons x r ih => exact ih _ _ (State.setByte_memWf s a x h)

/-- Bytes cleared: the memory keeps its canonical form. -/
theorem State.zero_memWf (a n : Nat) (h : memWf s.mem = true) : memWf (s.zero a n).mem = true :=
  SMap.wf_clearRange memDefault s.mem a n h

end Sys2Proof.Machine
end

