-- ==== Sys2Proof/Laws/Apart.lean ====
section
/-! SUPPORT. What leaves the memory, the Islets and the buoys alone (`Apart`), as rules that go through the shapes a meaning is built from. -/
namespace Sys2Proof

open Machine

theorem Apart.refl (s : State) : Apart s s := ⟨rfl, rfl, rfl⟩

theorem Apart.trans {a b c : State} (h : Apart a b) (k : Apart b c) : Apart a c := ⟨k.1.trans h.1, k.2.1.trans h.2.1, k.2.2.trans h.2.2⟩

/-- An update of other fields. -/
theorem Apart.upd {a x : State} {f0 : List Instr} {f1 : Nat} {f2 : Nat} {f3 : SMap Word32} {f4 : SMap Word32} {f6 : List Out} {f9 : Place} {f10 :
    SMap NSlot} {f11 : Chain} {f12 : Endpoint} {f13 : TimeSt} {f14 : CondSt} {f15 : ShoreSt} {f16 : FuseSt} {f17 : GsolSt} {f18 : MapSt} {f19 :
    ReefSt} {f20 : Dev} {f21 : Cfg} {f22 : Sec} {f23 : Pwr} {f24 : Tap} :
Apart a ⟨f0, f1, f2, f3, f4, x.mem, f6, x.islets, x.buoys, f9, f10, f11, f12, f13, f14, f15, f16, f17, f18, f19, f20, f21, f22, f23, f24⟩ ↔ Apart
    a x := Iff.rfl

theorem Apart.ite {a x y : State} {c : Prop} [Decidable c] (h : Apart a x) (k : Apart a y) : Apart a (if c then x else y) := by
  split <;> assumption

theorem Apart.foldl {α : Type} {a : State} {f : State → α → State} {l : List α} {x : State} (h : Apart a x)
    (hf : ∀ y e, Apart a y → Apart a (f y e)) : Apart a (l.foldl f x) := by
  induction l generalizing x with
  | nil => exact h
  | cons e r ih => exact ih (hf x e h)

theorem Apart.foldlFst {α β : Type} {a : State} {f : State × β → α → State × β} {l : List α} {x : State × β} (h : Apart a x.1)
    (hf : ∀ y e, Apart a y.1 → Apart a (f y e).1) : Apart a (l.foldl f x).1 := by
  induction l generalizing x with
  | nil => exact h
  | cons e r ih => exact ih (hf x e h)

theorem Apart.foldlSnd {α β : Type} {a : State} {f : β × State → α → β × State} {l : List α} {x : β × State} (h : Apart a x.2)
    (hf : ∀ y e, Apart a y.2 → Apart a (f y e).2) : Apart a (l.foldl f x).2 := by
  induction l generalizing x with
  | nil => exact h
  | cons e r ih => exact ih (hf x e h)

theorem Apart.iteFst {β : Type} {a : State} {x y : State × β} {c : Prop} [Decidable c] (h : Apart a x.1) (k : Apart a y.1) :
    Apart a (if c then x else y).1 := by split <;> assumption

theorem Apart.iteSnd {β : Type} {a : State} {x y : β × State} {c : Prop} [Decidable c] (h : Apart a x.2) (k : Apart a y.2) :
    Apart a (if c then x else y).2 := by split <;> assumption

/-- The state of a pair that a match has taken apart. -/
theorem Apart.ofSnd {β : Type} {a t : State} {p : β × State} {x : β} (e : p = (x, t)) (h : Apart a p.2) : Apart a t := by
  rw [e] at h; exact h

theorem Apart.ofFst {β : Type} {a t : State} {p : State × β} {x : β} (e : p = (t, x)) (h : Apart a p.1) : Apart a t := by
  rw [e] at h; exact h

end Sys2Proof

namespace Sys2Proof.Machine

theorem apart_setReg {org s : State} (hz : Apart org s) (o v : Nat) : Apart org (s.setReg o v) := hz
theorem apart_tick {org s : State} (hz : Apart org s) : Apart org s.tick := hz
theorem apart_emit {org s : State} (hz : Apart org s) (o : Out) : Apart org (s.emit o) := hz

theorem apart_whenAwake {org s : State} (hz : Apart org s) (f : State → State) (hf : ∀ x, Apart org x → Apart org (f x)) : Apart org (s.whenAwake f) := by
  unfold State.whenAwake
  exact Apart.ite hz (hf _ hz)

end Sys2Proof.Machine
end

