-- ==== Sys2Proof/Laws/ApartOps.lean ====
section
/-! SUPPORT. Definitions of Machine/Ops.lean that leave the memory, the Islets and the buoys alone (`Apart`). -/
namespace Sys2Proof.Machine

theorem apart_setFld {org s : State} (hz : Apart org s) (o : Nat) (b : Bits) (v : Nat) : Apart org (State.setFld s o b v) := by
  unfold State.setFld
  try dsimp only
  repeat' first
    | with_reducible assumption | intro _ | with_reducible apply apart_setReg | with_reducible apply Apart.ite | with_reducible apply Apart.foldl
    | with_reducible apply Apart.iteFst | with_reducible apply Apart.iteSnd | split | simp only [Apart.upd]

theorem apart_inc {org s : State} (hz : Apart org s) (o : Nat) : Apart org (State.inc s o) := by
  unfold State.inc
  try dsimp only
  repeat' first
    | with_reducible assumption | intro _ | with_reducible apply apart_setReg | with_reducible apply Apart.ite | with_reducible apply Apart.foldl
    | split | simp only [Apart.upd]

theorem apart_addTo {org s : State} (hz : Apart org s) (o : Nat) (n : Nat) : Apart org (State.addTo s o n) := by
  unfold State.addTo
  try dsimp only
  repeat' first
    | with_reducible assumption | intro _ | with_reducible apply apart_setReg | with_reducible apply Apart.ite | with_reducible apply Apart.foldl
    | split | simp only [Apart.upd]

theorem apart_incWrap {org s : State} (hz : Apart org s) (o : Nat) : Apart org (State.incWrap s o) := by
  unfold State.incWrap
  try dsimp only
  repeat' first
    | with_reducible assumption | intro _ | with_reducible apply apart_setReg | with_reducible apply Apart.ite | with_reducible apply Apart.foldl
    | split | simp only [Apart.upd]

theorem apart_setReg64 {org s : State} (hz : Apart org s) (o : Nat) (v : Nat) : Apart org (State.setReg64 s o v) := by
  unfold State.setReg64
  try dsimp only
  repeat' first
    | with_reducible assumption | intro _ | with_reducible apply apart_setReg | with_reducible apply Apart.ite | with_reducible apply Apart.foldl
    | split | simp only [Apart.upd]

theorem apart_at {org s : State} (hz : Apart org s) (t : Nat) : Apart org (State.at s t) := by
  unfold State.at
  try dsimp only
  repeat' first
    | with_reducible assumption | intro _ | with_reducible apply Apart.ite | with_reducible apply Apart.foldl | split | simp only [Apart.upd]

theorem apart_convStale {org s : State} (hz : Apart org s) (t : Int) : Apart org (State.convStale s t) := by
  unfold State.convStale
  try dsimp only
  repeat' first
    | with_reducible assumption | intro _ | with_reducible apply apart_inc | with_reducible apply Apart.ite | with_reducible apply Apart.foldl
    | with_reducible apply Apart.iteFst | with_reducible apply Apart.iteSnd | split | simp only [Apart.upd]

theorem apart_invStale {org s : State} (hz : Apart org s) (b : Nat) (x : Int) : Apart org (State.invStale s b x) := by
  unfold State.invStale
  try dsimp only
  repeat' first
    | with_reducible assumption | intro _ | with_reducible apply apart_inc | with_reducible apply Apart.ite | with_reducible apply Apart.foldl
    | with_reducible apply Apart.iteFst | with_reducible apply Apart.iteSnd | split | simp only [Apart.upd]

end Sys2Proof.Machine
end

