-- ==== Sys2Proof/Laws/ApartLink.lean ====
section
/-! SUPPORT. Definitions of Machine/Link.lean that leave the memory, the Islets and the buoys alone (`Apart`). -/
namespace Sys2Proof.Machine

theorem apart_setCport {org s : State} (hz : Apart org s) (p : Nat) (c : CPort) : Apart org (State.setCport s p c) := by
  unfold State.setCport
  try dsimp only
  repeat' first
    | with_reducible assumption | intro _ | with_reducible apply Apart.ite | with_reducible apply Apart.foldl | split | simp only [Apart.upd]

theorem apart_sendFrame {org s : State} (hz : Apart org s) (p : Nat) (typ : Nat) (vc : Nat) (last : Bool) (data : List Byte) : Apart org (State.sendFrame s p typ vc last data) := by
  unfold State.sendFrame
  try dsimp only
  repeat' first
    | with_reducible assumption | intro _ | with_reducible apply apart_setCport | with_reducible apply apart_emit | with_reducible apply Apart.ite
    | with_reducible apply Apart.foldl | split | simp only [Apart.upd]

theorem apart_sendChunks {org s : State} (hz : Apart org s) (p vc : Nat) (l : List (List Byte)) : Apart org (s.sendChunks p vc l) := by
  induction l generalizing s with
  | nil => exact hz
  | cons d r ih =>
    cases r with
    | nil => exact apart_sendFrame hz _ _ _ _ _
    | cons e r => exact ih (apart_sendFrame hz _ _ _ _ _)

theorem apart_transmit {org s : State} (hz : Apart org s) (p : Nat) (m : Msg) : Apart org (State.transmit s p m) := by
  unfold State.transmit
  try dsimp only
  repeat' first
    | with_reducible assumption | intro _ | with_reducible apply apart_setCport | with_reducible apply apart_sendChunks
    | with_reducible apply apart_incWrap | with_reducible apply apart_emit | with_reducible apply Apart.ite | with_reducible apply Apart.foldl | split
    | simp only [Apart.upd]

theorem apart_sendOn {org s : State} (hz : Apart org s) (p : Nat) (m : Msg) : Apart org (State.sendOn s p m) := by
  unfold State.sendOn
  try dsimp only
  repeat' first
    | with_reducible assumption | intro _ | with_reducible apply apart_transmit | with_reducible apply apart_setCport | with_reducible apply apart_inc
    | with_reducible apply Apart.ite | with_reducible apply Apart.foldl | split | simp only [Apart.upd]

theorem apart_drainVc {org s : State} (hz : Apart org s) (p : Nat) (vc : Nat) (xs0 : Nat) : Apart org (State.drainVc s p vc xs0) := by
  induction xs0 generalizing s p vc with
  | zero =>
    unfold State.drainVc
    try dsimp only
    repeat' first
      | with_reducible assumption | intro _ | with_reducible apply apart_setCport | with_reducible apply apart_transmit
      | with_reducible apply Apart.ite | with_reducible apply Apart.foldl | with_reducible refine Apart.ofSnd (by assumption) ?_
      | with_reducible refine Apart.ofFst (by assumption) ?_ | split | simp only [Apart.upd]
  | succ n ih =>
    unfold State.drainVc
    try dsimp only
    repeat' first
      | with_reducible assumption | intro _ | with_reducible apply ih | with_reducible apply apart_setCport | with_reducible apply apart_transmit
      | with_reducible apply Apart.ite | with_reducible apply Apart.foldl | with_reducible refine Apart.ofSnd (by assumption) ?_
      | with_reducible refine Apart.ofFst (by assumption) ?_ | split | simp only [Apart.upd]

theorem apart_drain {org s : State} (hz : Apart org s) (p : Nat) : Apart org (State.drain s p) := by
  unfold State.drain
  try dsimp only
  repeat' first
    | with_reducible assumption | intro _ | with_reducible apply apart_drainVc | with_reducible apply Apart.ite | with_reducible apply Apart.foldl
    | split | simp only [Apart.upd]

theorem apart_useSeq {org s : State} (hz : Apart org s) (d : Nat) : Apart org (State.useSeq s d) := by
  unfold State.useSeq
  try dsimp only
  repeat' first
    | with_reducible assumption | intro _ | with_reducible apply Apart.ite | with_reducible apply Apart.foldl | split | simp only [Apart.upd]

theorem apart_sendMsg {org s : State} (hz : Apart org s) (d : Nat) (cls : Nat) (tag : Nat) (payload : List Byte) : Apart org (State.sendMsg s d cls tag payload) := by
  unfold State.sendMsg
  try dsimp only
  repeat' first
    | with_reducible assumption | intro _ | with_reducible apply apart_useSeq | with_reducible apply apart_sendOn | with_reducible apply apart_inc
    | with_reducible apply Apart.ite | with_reducible apply Apart.foldl | split | simp only [Apart.upd]

theorem apart_sendCtrl {org s : State} (hz : Apart org s) (p : Nat) (subtype : Nat) (value : Nat) : Apart org (State.sendCtrl s p subtype value) := by
  unfold State.sendCtrl
  try dsimp only
  repeat' first
    | with_reducible assumption | intro _ | with_reducible apply apart_useSeq | with_reducible apply apart_sendOn | with_reducible apply apart_inc
    | with_reducible apply Apart.ite | with_reducible apply Apart.foldl | split | simp only [Apart.upd]

end Sys2Proof.Machine
end

