-- ==== Sys2Proof/Laws/ApartIntc.lean ====
section
/-! SUPPORT. Definitions of Machine/Intc.lean that leave the memory, the Islets and the buoys alone (`Apart`). -/
namespace Sys2Proof.Machine

theorem apart_setSrcBit {org s : State} (hz : Apart org s) (base : Nat) (n : Nat) (v : Bool) : Apart org (State.setSrcBit s base n v) := by
  unfold State.setSrcBit
  try dsimp only
  repeat' first
    | with_reducible assumption | intro _ | with_reducible apply apart_setReg | with_reducible apply Apart.ite | with_reducible apply Apart.foldl
    | split | simp only [Apart.upd]

theorem apart_msixWrite {org s : State} (hz : Apart org s) (v : Nat) : Apart org (State.msixWrite s v) := by
  unfold State.msixWrite
  try dsimp only
  repeat' first
    | with_reducible assumption | intro _ | with_reducible apply apart_setReg | with_reducible apply apart_emit | with_reducible apply apart_inc
    | with_reducible apply Apart.ite | with_reducible apply Apart.foldl | split | simp only [Apart.upd]

theorem apart_eventMsg {org s : State} (hz : Apart org s) (n : Nat) (d : Nat) : Apart org (State.eventMsg s n d) := by
  unfold State.eventMsg
  try dsimp only
  repeat' first
    | with_reducible assumption | intro _ | with_reducible apply apart_inc | with_reducible apply apart_sendMsg | with_reducible apply Apart.ite
    | with_reducible apply Apart.foldl | split | simp only [Apart.upd]

theorem apart_deliver {org s : State} (hz : Apart org s) (n : Nat) : Apart org (State.deliver s n) := by
  unfold State.deliver
  try dsimp only
  repeat' first
    | with_reducible assumption | intro _ | with_reducible apply apart_msixWrite | with_reducible apply apart_eventMsg
    | with_reducible apply Apart.ite | with_reducible apply Apart.foldl | split | simp only [Apart.upd]

theorem apart_raise {org s : State} (hz : Apart org s) (n : Nat) : Apart org (State.raise s n) := by
  unfold State.raise
  try dsimp only
  repeat' first
    | with_reducible assumption | intro _ | with_reducible apply apart_setReg | with_reducible apply apart_setSrcBit
    | with_reducible apply apart_deliver | with_reducible apply Apart.ite | with_reducible apply Apart.foldl | split | simp only [Apart.upd]

theorem apart_setLevel {org s : State} (hz : Apart org s) (n : Nat) (high : Bool) : Apart org (State.setLevel s n high) := by
  unfold State.setLevel
  try dsimp only
  repeat' first
    | with_reducible assumption | intro _ | with_reducible apply apart_setSrcBit | with_reducible apply apart_raise | with_reducible apply Apart.ite
    | with_reducible apply Apart.foldl | split | simp only [Apart.upd]

theorem apart_raiseAll {org s : State} (hz : Apart org s) (l : List Nat) : Apart org (State.raiseAll s l) := by
  unfold State.raiseAll
  try dsimp only
  repeat' first
    | with_reducible assumption | intro _ | with_reducible apply apart_raise | with_reducible apply Apart.ite | with_reducible apply Apart.foldl
    | split | simp only [Apart.upd]

theorem apart_pendWrite {org s : State} (hz : Apart org s) (k : Nat) (v : Word32) (meets : List Nat) : Apart org (State.pendWrite s k v meets) := by
  unfold State.pendWrite
  try dsimp only
  repeat' first
    | with_reducible assumption | intro _ | with_reducible apply apart_setReg | with_reducible apply apart_raiseAll | with_reducible apply Apart.ite
    | with_reducible apply Apart.foldl | split | simp only [Apart.upd]

theorem apart_maskWrite {org s : State} (hz : Apart org s) (k : Nat) (v : Word32) (meets : List Nat) : Apart org (State.maskWrite s k v meets) := by
  unfold State.maskWrite
  try dsimp only
  repeat' first
    | with_reducible assumption | intro _ | with_reducible apply apart_setReg | with_reducible apply apart_deliver
    | with_reducible apply apart_raiseAll | with_reducible apply Apart.ite | with_reducible apply Apart.foldl | split | simp only [Apart.upd]

theorem apart_countWrite {org s : State} (hz : Apart org s) (n : Nat) (v : Word32) (meets : Bool) : Apart org (State.countWrite s n v meets) := by
  unfold State.countWrite
  try dsimp only
  repeat' first
    | with_reducible assumption | intro _ | with_reducible apply apart_setReg | with_reducible apply apart_raise | with_reducible apply Apart.ite
    | with_reducible apply Apart.foldl | split | simp only [Apart.upd]

theorem apart_softWrite {org s : State} (hz : Apart org s) (v : Word32) : Apart org (State.softWrite s v) := by
  unfold State.softWrite
  try dsimp only
  repeat' first
    | with_reducible assumption | intro _ | with_reducible apply apart_raise | with_reducible apply Apart.ite | with_reducible apply Apart.foldl
    | split | simp only [Apart.upd]

theorem apart_execIntcPendWrite {org s : State} (hz : Apart org s) (k : Fin 16) (v : Word32) (meets : List (Fin 32)) : ∃ u, execIntcPendWrite k v meets s = .next u ∧ Apart org u := by
  unfold execIntcPendWrite
  refine ⟨_, rfl, ?_⟩
  try dsimp only
  repeat' first
    | with_reducible assumption | intro _ | with_reducible apply apart_whenAwake | with_reducible apply apart_pendWrite
    | with_reducible apply Apart.ite | with_reducible apply Apart.foldl | split | simp only [Apart.upd]

theorem apart_execIntcMaskWrite {org s : State} (hz : Apart org s) (k : Fin 16) (v : Word32) (meets : List (Fin 32)) : ∃ u, execIntcMaskWrite k v meets s = .next u ∧ Apart org u := by
  unfold execIntcMaskWrite
  refine ⟨_, rfl, ?_⟩
  try dsimp only
  repeat' first
    | with_reducible assumption | intro _ | with_reducible apply apart_whenAwake | with_reducible apply apart_maskWrite
    | with_reducible apply Apart.ite | with_reducible apply Apart.foldl | split | simp only [Apart.upd]

theorem apart_execIntcCountWrite {org s : State} (hz : Apart org s) (n : Fin 512) (v : Word32) (meets : Bool) : ∃ u, execIntcCountWrite n v meets s = .next u ∧ Apart org u := by
  unfold execIntcCountWrite
  refine ⟨_, rfl, ?_⟩
  try dsimp only
  repeat' first
    | with_reducible assumption | intro _ | with_reducible apply apart_whenAwake | with_reducible apply apart_countWrite
    | with_reducible apply Apart.ite | with_reducible apply Apart.foldl | split | simp only [Apart.upd]

theorem apart_execIntcSoft {org s : State} (hz : Apart org s) (v : Word32) : ∃ u, execIntcSoft v s = .next u ∧ Apart org u := by
  unfold execIntcSoft
  refine ⟨_, rfl, ?_⟩
  try dsimp only
  repeat' first
    | with_reducible assumption | intro _ | with_reducible apply apart_whenAwake | with_reducible apply apart_softWrite
    | with_reducible apply Apart.ite | with_reducible apply Apart.foldl | split | simp only [Apart.upd]

theorem apart_execLevelDeassert {org s : State} (hz : Apart org s) (n : Fin 512) : ∃ u, execLevelDeassert n s = .next u ∧ Apart org u := by
  unfold execLevelDeassert
  refine ⟨_, rfl, ?_⟩
  try dsimp only
  repeat' first
    | with_reducible assumption | intro _ | with_reducible apply apart_whenAwake | with_reducible apply apart_setLevel
    | with_reducible apply Apart.ite | with_reducible apply Apart.foldl | split | simp only [Apart.upd]

end Sys2Proof.Machine
end

