-- ==== Sys2Proof/Laws/ApartRings.lean ====
section
/-! SUPPORT. Definitions of Machine/Rings.lean that leave the memory, the Islets and the buoys alone (`Apart`). -/
namespace Sys2Proof.Machine

theorem apart_ringWrite {org s : State} (hz : Apart org s) (r : Nat) (n : Nat) (fields : List (Nat × Nat × Nat)) (src : Option Nat) : Apart org (State.ringWrite s r n fields src) := by
  unfold State.ringWrite
  try dsimp only
  repeat' first
    | with_reducible assumption | intro _ | with_reducible apply apart_setReg64 | with_reducible apply apart_emit | with_reducible apply apart_raise
    | with_reducible apply apart_inc | with_reducible apply Apart.ite | with_reducible apply Apart.foldl
    | with_reducible refine Apart.ofSnd (by assumption) ?_ | with_reducible refine Apart.ofFst (by assumption) ?_ | split | simp only [Apart.upd]

theorem apart_eventEntry {org s : State} (hz : Apart org s) (kind : Nat) (a : Nat) (b : Nat) (c : Nat) (d : Nat) : Apart org (State.eventEntry s kind a b c d) := by
  unfold State.eventEntry
  try dsimp only
  repeat' first
    | with_reducible assumption | intro _ | with_reducible apply apart_ringWrite | with_reducible apply Apart.ite | with_reducible apply Apart.foldl
    | split | simp only [Apart.upd]

theorem apart_setState {org s : State} (hz : Apart org s) (x : DState) : Apart org (State.setState s x) := by
  unfold State.setState
  try dsimp only
  repeat' first
    | with_reducible assumption | intro _ | with_reducible apply Apart.ite | with_reducible apply Apart.foldl | split | simp only [Apart.upd]

theorem apart_enter {org s : State} (hz : Apart org s) (x : DState) : Apart org (State.enter s x) := by
  unfold State.enter
  try dsimp only
  repeat' first
    | with_reducible assumption | intro _ | with_reducible apply apart_setState | with_reducible apply apart_eventEntry
    | with_reducible apply apart_raise | with_reducible apply Apart.ite | with_reducible apply Apart.foldl | split | simp only [Apart.upd]

theorem apart_setCause {org s : State} (hz : Apart org s) (b : Bits) (v : Bool) : Apart org (State.setCause s b v) := by
  unfold State.setCause
  try dsimp only
  repeat' first
    | with_reducible assumption | intro _ | with_reducible apply apart_setFld | with_reducible apply apart_setLevel | with_reducible apply apart_enter
    | with_reducible apply Apart.ite | with_reducible apply Apart.foldl | split | simp only [Apart.upd]

end Sys2Proof.Machine
end

