-- ==== Sys2Proof/Laws/ApartReads.lean ====
section
/-! SUPPORT. Definitions of Machine/Reads.lean that leave the memory, the Islets and the buoys alone (`Apart`). -/
namespace Sys2Proof.Machine

theorem apart_issueReads {org s : State} (hz : Apart org s) (xs0 : Nat) : Apart org (State.issueReads s xs0) := by
  induction xs0 generalizing s with
  | zero =>
    unfold State.issueReads
    try dsimp only
    repeat' first
      | with_reducible assumption | intro _ | with_reducible apply Apart.ite | with_reducible apply Apart.foldl | with_reducible apply Apart.iteFst
      | with_reducible apply Apart.iteSnd | with_reducible refine Apart.ofSnd (by assumption) ?_
      | with_reducible refine Apart.ofFst (by assumption) ?_ | split | simp only [Apart.upd]
  | succ n ih =>
    unfold State.issueReads
    try dsimp only
    repeat' first
      | with_reducible assumption | intro _ | with_reducible apply ih | with_reducible apply Apart.ite | with_reducible apply Apart.foldl
      | with_reducible apply Apart.iteFst | with_reducible apply Apart.iteSnd | with_reducible refine Apart.ofSnd (by assumption) ?_
      | with_reducible refine Apart.ofFst (by assumption) ?_ | split | simp only [Apart.upd]

theorem apart_runReads {org s : State} (hz : Apart org s) : Apart org (State.runReads s) := by
  unfold State.runReads
  try dsimp only
  repeat' first
    | with_reducible assumption | intro _ | with_reducible apply apart_issueReads | with_reducible apply Apart.ite | with_reducible apply Apart.foldl
    | split | simp only [Apart.upd]

theorem apart_askRead {org s : State} (hz : Apart org s) (page : Nat) (cls : Nat) (who : ReadFor) : Apart org (State.askRead s page cls who) := by
  unfold State.askRead
  try dsimp only
  repeat' first
    | with_reducible assumption | intro _ | with_reducible apply apart_runReads | with_reducible apply Apart.ite | with_reducible apply Apart.foldl
    | split | simp only [Apart.upd]

theorem apart_readPayload {org s : State} (hz : Apart org s) (id : Nat) (cls : Nat) (digest : List Byte) : Apart org (State.readPayload s id cls digest) := by
  unfold State.readPayload
  try dsimp only
  repeat' first
    | with_reducible assumption | intro _ | with_reducible apply apart_askRead | with_reducible apply Apart.ite | with_reducible apply Apart.foldl
    | with_reducible apply Apart.iteFst | with_reducible apply Apart.iteSnd | with_reducible refine Apart.ofSnd (by assumption) ?_
    | with_reducible refine Apart.ofFst (by assumption) ?_ | split | simp only [Apart.upd]

end Sys2Proof.Machine
end

