-- ==== Sys2Proof/Laws/ApartPlace.lean ====
section
/-! SUPPORT. Definitions of Machine/Place.lean that leave the memory, the Islets and the buoys alone (`Apart`). -/
namespace Sys2Proof.Machine

theorem apart_setObj {org s : State} (hz : Apart org s) (id : Nat) (o : Option Obj) : Apart org (State.setObj s id o) := by
  unfold State.setObj
  try dsimp only
  repeat' first
    | with_reducible assumption | intro _ | with_reducible apply Apart.ite | with_reducible apply Apart.foldl | split | simp only [Apart.upd]

theorem apart_tierRegs {org s : State} (hz : Apart org s) (t : Nat) : Apart org (State.tierRegs s t) := by
  unfold State.tierRegs
  try dsimp only
  repeat' first
    | with_reducible assumption | intro _ | with_reducible apply apart_setReg | with_reducible apply Apart.ite | with_reducible apply Apart.foldl
    | with_reducible apply Apart.iteFst | with_reducible apply Apart.iteSnd | split | simp only [Apart.upd]

theorem apart_placeRegs {org s : State} (hz : Apart org s) : Apart org (State.placeRegs s) := by
  unfold State.placeRegs
  try dsimp only
  repeat' first
    | with_reducible assumption | intro _ | with_reducible apply apart_tierRegs | with_reducible apply apart_setFld | with_reducible apply Apart.ite
    | with_reducible apply Apart.foldl | split | simp only [Apart.upd]

theorem apart_countCode {org s : State} (hz : Apart org s) (t : Nat) (code : Nat) : Apart org (State.countCode s t code) := by
  unfold State.countCode
  try dsimp only
  repeat' first
    | with_reducible assumption | intro _ | with_reducible apply apart_inc | with_reducible apply Apart.ite | with_reducible apply Apart.foldl | split
    | simp only [Apart.upd]

theorem apart_writeDecision {org s : State} (hz : Apart org s) (d : Decision) : Apart org (State.writeDecision s d) := by
  unfold State.writeDecision
  try dsimp only
  repeat' first
    | with_reducible assumption | intro _ | with_reducible apply apart_inc | with_reducible apply apart_ringWrite | with_reducible apply Apart.ite
    | with_reducible apply Apart.foldl | split | simp only [Apart.upd]

theorem apart_noteDecision {org s : State} (hz : Apart org s) (d : Decision) : Apart org (State.noteDecision s d) := by
  unfold State.noteDecision
  try dsimp only
  repeat' first
    | with_reducible assumption | intro _ | with_reducible apply apart_writeDecision | with_reducible apply Apart.ite
    | with_reducible apply Apart.foldl | split | simp only [Apart.upd]

theorem apart_openDec {org s : State} (hz : Apart org s) (d : Decision) : Apart org (State.openDec s d).2 := by
  unfold State.openDec
  try dsimp only
  repeat' first
    | with_reducible assumption | intro _ | with_reducible apply Apart.ite | with_reducible apply Apart.foldl | with_reducible apply Apart.iteFst
    | with_reducible apply Apart.iteSnd | split | simp only [Apart.upd]

theorem apart_allocId {org s : State} (hz : Apart org s) (id : Nat) (o : Obj) : Apart org (State.allocId s id o) := by
  unfold State.allocId
  try dsimp only
  repeat' first
    | with_reducible assumption | intro _ | with_reducible apply apart_setObj | with_reducible apply apart_placeRegs | with_reducible apply Apart.ite
    | with_reducible apply Apart.foldl | split | simp only [Apart.upd]

theorem apart_allocIds {org s : State} (hz : Apart org s) (id : Nat) (xs0 : List Obj) : Apart org (State.allocIds s id xs0) := by
  induction xs0 generalizing s id with
  | nil =>
    unfold State.allocIds
    try dsimp only
    repeat' first
      | with_reducible assumption | intro _ | with_reducible apply apart_allocId | with_reducible apply Apart.ite | with_reducible apply Apart.foldl
      | split | simp only [Apart.upd]
  | cons e l ih =>
    unfold State.allocIds
    try dsimp only
    repeat' first
      | with_reducible assumption | intro _ | with_reducible apply ih | with_reducible apply apart_allocId | with_reducible apply Apart.ite
      | with_reducible apply Apart.foldl | split | simp only [Apart.upd]

theorem apart_allocRun {org s : State} (hz : Apart org s) (os : List Obj) : Apart org (State.allocRun s os).2 := by
  unfold State.allocRun
  try dsimp only
  repeat' first
    | with_reducible assumption | intro _ | with_reducible apply apart_allocIds | with_reducible apply Apart.ite | with_reducible apply Apart.foldl
    | with_reducible apply Apart.iteFst | with_reducible apply Apart.iteSnd | split | simp only [Apart.upd]

theorem apart_credAdd {org s : State} (hz : Apart org s) (ps : List Nat) (give : Bool) : Apart org (State.credAdd s ps give) := by
  unfold State.credAdd
  try dsimp only
  repeat' first
    | with_reducible assumption | intro _ | with_reducible apply Apart.ite | with_reducible apply Apart.foldl | split | simp only [Apart.upd]

theorem apart_waitCredit {org s : State} (hz : Apart org s) (w : Waiter) (ps : List Nat) : Apart org (State.waitCredit s w ps) := by
  unfold State.waitCredit
  try dsimp only
  repeat' first
    | with_reducible assumption | intro _ | with_reducible apply apart_inc | with_reducible apply Apart.ite | with_reducible apply Apart.foldl | split
    | simp only [Apart.upd]

theorem apart_creditMove {org s : State} (hz : Apart org s) (id : Nat) : Apart org (State.creditMove s id) := by
  unfold State.creditMove
  try dsimp only
  repeat' first
    | with_reducible assumption | intro _ | with_reducible apply apart_credAdd | with_reducible apply apart_setObj
    | with_reducible apply apart_waitCredit | with_reducible apply Apart.ite | with_reducible apply Apart.foldl
    | with_reducible refine Apart.ofSnd (by assumption) ?_ | with_reducible refine Apart.ofFst (by assumption) ?_ | split | simp only [Apart.upd]

theorem apart_evictOne {org : State} (dec c owner : Nat) {e : Evicted} (hz : Apart org e.st) (v : Nat × Obj) : Apart org (evictOne dec c owner e v).st := by
  unfold evictOne
  dsimp only
  repeat' first
    | with_reducible assumption | with_reducible apply apart_inc | with_reducible apply apart_creditMove | with_reducible apply apart_setObj | split

theorem apart_evictList {org : State} (dec c owner need : Nat) {e : Evicted} (hz : Apart org e.st) (l : List (Nat × Obj)) :
    Apart org (evictList dec c owner need e l).st := by
  induction l generalizing e with
  | nil => exact hz
  | cons v r ih =>
    unfold evictList
    split
    · exact hz
    · exact ih (apart_evictOne _ _ _ hz _)

theorem apart_makeRoom {org s : State} (hz : Apart org s) (t i c owner n : Nat) : Apart org (s.makeRoom t i c owner n).2 := by
  unfold State.makeRoom
  dsimp only
  have h := fun d k => apart_evictList (org := org) d c owner k (e := { st := s }) hz (s.victims t i c)
  repeat' first
    | with_reducible assumption | with_reducible apply h | with_reducible apply apart_placeRegs | with_reducible apply apart_noteDecision
    | with_reducible apply apart_openDec | with_reducible apply Apart.iteSnd | split

theorem apart_findRoomFrom {org s : State} (hz : Apart org s) (isle : Nat) (c : Nat) (owner : Nat) (n : Nat) (xs0 : List Nat) : Apart org (State.findRoomFrom s isle c owner n xs0).2 := by
  induction xs0 generalizing s isle c owner n with
  | nil =>
    unfold State.findRoomFrom
    try dsimp only
    repeat' first
      | with_reducible assumption | intro _ | with_reducible apply apart_makeRoom | with_reducible apply Apart.ite | with_reducible apply Apart.foldl
      | with_reducible apply Apart.iteFst | with_reducible apply Apart.iteSnd | split | simp only [Apart.upd]
  | cons e l ih =>
    unfold State.findRoomFrom
    try dsimp only
    repeat' first
      | with_reducible assumption | intro _ | with_reducible apply ih | with_reducible apply apart_makeRoom | with_reducible apply Apart.ite
      | with_reducible apply Apart.foldl | with_reducible apply Apart.iteFst | with_reducible apply Apart.iteSnd | split | simp only [Apart.upd]

theorem apart_findRoom {org s : State} (hz : Apart org s) (t : Nat) (isle : Nat) (c : Nat) (owner : Nat) (n : Nat) (immutable : Bool) : Apart org (State.findRoom s t isle c owner n immutable).2 := by
  unfold State.findRoom
  try dsimp only
  repeat' first
    | with_reducible assumption | intro _ | with_reducible apply apart_findRoomFrom | with_reducible apply apart_countCode
    | with_reducible apply Apart.ite | with_reducible apply Apart.foldl | with_reducible apply Apart.iteFst | with_reducible apply Apart.iteSnd
    | with_reducible refine Apart.ofSnd (by assumption) ?_ | with_reducible refine Apart.ofFst (by assumption) ?_ | split | simp only [Apart.upd]

theorem apart_touch {org s : State} (hz : Apart org s) (id : Nat) (n : Nat) (paths : List Nat) : Apart org (State.touch s id n paths) := by
  unfold State.touch
  try dsimp only
  repeat' first
    | with_reducible assumption | intro _ | with_reducible apply apart_setObj | with_reducible apply Apart.ite | with_reducible apply Apart.foldl
    | with_reducible refine Apart.ofSnd (by assumption) ?_ | with_reducible refine Apart.ofFst (by assumption) ?_ | split | simp only [Apart.upd]

theorem apart_progress {org s : State} (hz : Apart org s) (id : Nat) : Apart org (State.progress s id) := by
  unfold State.progress
  try dsimp only
  repeat' first
    | with_reducible assumption | intro _ | with_reducible apply apart_tick | with_reducible apply apart_setObj | with_reducible apply Apart.ite
    | with_reducible apply Apart.foldl | with_reducible refine Apart.ofSnd (by assumption) ?_ | with_reducible refine Apart.ofFst (by assumption) ?_
    | split | simp only [Apart.upd]

theorem apart_startLoad {org s : State} (hz : Apart org s) (id cls owner reason metric : Nat) : Apart org (s.startLoad id cls owner reason metric) := by
  unfold State.startLoad
  split
  · exact hz
  · refine Apart.ite ?_ hz
    have h := fun a b c d e => apart_findRoom hz 3 a b c d e
    split
    · next heq =>
      exact apart_readPayload (apart_placeRegs (apart_creditMove (apart_setObj (apart_openDec (Apart.ofSnd heq (h _ _ _ _ _)) _) _ _) _)) _ _ _
    · next heq => exact Apart.ofSnd heq (h _ _ _ _ _)

end Sys2Proof.Machine
end

