-- ==== Sys2Proof/Laws/ApartIssue.lean ====
section
/-! SUPPORT. Definitions of Machine/Issue.lean that leave the memory, the Islets and the buoys alone (`Apart`). -/
namespace Sys2Proof.Machine

theorem apart_sendRequest {org s : State} (hz : Apart org s) (dest : Nat) (address : Nat) (isWrite : Bool) (data : List Byte) (len : Nat) (tag : Nat) (who : PeerWho) : Apart org (State.sendRequest s dest address isWrite data len tag who) := by
  unfold State.sendRequest
  try dsimp only
  repeat' first
    | with_reducible assumption | intro _ | with_reducible apply apart_useSeq | with_reducible apply apart_sendOn | with_reducible apply Apart.ite
    | with_reducible apply Apart.foldl | split | simp only [Apart.upd]

theorem apart_forget {org s : State} (hz : Apart org s) (who : PeerWho) : Apart org (State.forget s who) := by
  unfold State.forget
  try dsimp only
  repeat' first
    | with_reducible assumption | intro _ | with_reducible apply Apart.ite | with_reducible apply Apart.foldl | split | simp only [Apart.upd]

theorem apart_askHead {org s : State} (hz : Apart org s) (a : Nat) (n : Nat) (who : PeerWho) : Apart org (State.askHead s a n who) := by
  unfold State.askHead
  try dsimp only
  repeat' first
    | with_reducible assumption | intro _ | with_reducible apply apart_sendRequest | with_reducible apply Apart.ite | with_reducible apply Apart.foldl
    | split | simp only [Apart.upd]

theorem apart_sendTow {org s : State} (hz : Apart org s) (i : Nat) (slot : Nat) (t : Tow) (u : Nat) (x : Nat) (tag : Nat) : Apart org (State.sendTow s i slot t u x tag) := by
  unfold State.sendTow
  try dsimp only
  repeat' first
    | with_reducible assumption | intro _ | with_reducible apply apart_sendRequest | with_reducible apply Apart.ite | with_reducible apply Apart.foldl
    | with_reducible apply Apart.iteFst | with_reducible apply Apart.iteSnd | split | simp only [Apart.upd]

theorem apart_noteAccess {org s : State} (hz : Apart org s) (i : Nat) (a : Nat) (n : Nat) (paths : List Nat) : Apart org (State.noteAccess s i a n paths) := by
  unfold State.noteAccess
  try dsimp only
  repeat' first
    | with_reducible assumption | intro _ | with_reducible apply apart_credAdd | with_reducible apply apart_touch
    | with_reducible apply apart_startLoad | with_reducible apply apart_progress | with_reducible apply Apart.ite | with_reducible apply Apart.foldl
    | with_reducible refine Apart.ofSnd (by assumption) ?_ | with_reducible refine Apart.ofFst (by assumption) ?_ | split | simp only [Apart.upd]

end Sys2Proof.Machine
end

