-- ==== Sys2Proof/Laws/ApartTime.lean ====
section
/-! SUPPORT. Definitions of Machine/Time.lean that leave the memory, the Islets and the buoys alone (`Apart`). -/
namespace Sys2Proof.Machine

theorem apart_setBase {org s : State} (hz : Apart org s) (b : Nat) (x : Base) : Apart org (State.setBase s b x) := by
  unfold State.setBase
  try dsimp only
  repeat' first
    | with_reducible assumption | intro _ | with_reducible apply Apart.ite | with_reducible apply Apart.foldl | split | simp only [Apart.upd]

theorem apart_newSeg {org s : State} (hz : Apart org s) (t : Nat) : Apart org (State.newSeg s t) := by
  unfold State.newSeg
  try dsimp only
  repeat' first
    | with_reducible assumption | intro _ | with_reducible apply Apart.ite | with_reducible apply Apart.foldl | split | simp only [Apart.upd]

theorem apart_setRate {org s : State} (hz : Apart org s) (b : Nat) (t : Nat) (r : Int) : Apart org (State.setRate s b t r) := by
  unfold State.setRate
  try dsimp only
  repeat' first
    | with_reducible assumption | intro _ | with_reducible apply apart_newSeg | with_reducible apply apart_setReg | with_reducible apply Apart.ite
    | with_reducible apply Apart.foldl | split | simp only [Apart.upd]

theorem apart_stepBase {org s : State} (hz : Apart org s) (b : Nat) (t : Nat) (d : Int) : Apart org (State.stepBase s b t d) := by
  unfold State.stepBase
  try dsimp only
  repeat' first
    | with_reducible assumption | intro _ | with_reducible apply apart_newSeg | with_reducible apply apart_inc | with_reducible apply apart_setReg
    | with_reducible apply apart_raise | with_reducible apply Apart.ite | with_reducible apply Apart.foldl | split | simp only [Apart.upd]

theorem apart_setTb {org s : State} (hz : Apart org s) (b : Nat) (st : Nat) (good : Nat) (expired : Bool) : Apart org (State.setTb s b st good expired) := by
  unfold State.setTb
  try dsimp only
  repeat' first
    | with_reducible assumption | intro _ | with_reducible apply apart_setReg | with_reducible apply Apart.ite | with_reducible apply Apart.foldl
    | split | simp only [Apart.upd]

theorem apart_servo {org s : State} (hz : Apart org s) (b : Nat) (t : Nat) (o : Int) : Apart org (State.servo s b t o) := by
  unfold State.servo
  try dsimp only
  repeat' first
    | with_reducible assumption | intro _ | with_reducible apply apart_setBase | with_reducible apply apart_stepBase
    | with_reducible apply apart_setRate | with_reducible apply apart_setTb | with_reducible apply apart_raise | with_reducible apply Apart.ite
    | with_reducible apply Apart.foldl | split | simp only [Apart.upd]

theorem apart_holdover {org s : State} (hz : Apart org s) (b : Nat) (start : Nat) : Apart org (State.holdover s b start) := by
  unfold State.holdover
  try dsimp only
  repeat' first
    | with_reducible assumption | intro _ | with_reducible apply apart_setTb | with_reducible apply apart_setReg64 | with_reducible apply apart_raise
    | with_reducible apply Apart.ite | with_reducible apply Apart.foldl | split | simp only [Apart.upd]

theorem apart_loseSource {org s : State} (hz : Apart org s) (b : Nat) (t : Nat) : Apart org (State.loseSource s b t) := by
  unfold State.loseSource
  try dsimp only
  repeat' first
    | with_reducible assumption | intro _ | with_reducible apply apart_holdover | with_reducible apply Apart.ite | with_reducible apply Apart.foldl
    | split | simp only [Apart.upd]

theorem apart_holdExpired {org s : State} (hz : Apart org s) (b : Nat) (t : Nat) : Apart org (State.holdExpired s b t) := by
  unfold State.holdExpired
  try dsimp only
  repeat' first
    | with_reducible assumption | intro _ | with_reducible apply apart_setFld | with_reducible apply apart_raise | with_reducible apply Apart.ite
    | with_reducible apply Apart.foldl | split | simp only [Apart.upd]

theorem apart_latchTb {org s : State} (hz : Apart org s) (b : Nat) : Apart org (State.latchTb s b).2 := by
  unfold State.latchTb
  try dsimp only
  repeat' first
    | with_reducible assumption | intro _ | with_reducible apply apart_setReg | with_reducible apply Apart.ite | with_reducible apply Apart.foldl
    | with_reducible apply Apart.iteFst | with_reducible apply Apart.iteSnd | split | simp only [Apart.upd]

theorem apart_snap {org s : State} (hz : Apart org s) : Apart org (State.snap s) := by
  unfold State.snap
  try dsimp only
  repeat' first
    | with_reducible assumption | intro _ | with_reducible apply apart_setReg64 | with_reducible apply Apart.ite | with_reducible apply Apart.foldl
    | split | simp only [Apart.upd]

theorem apart_writeAdj {org s : State} (hz : Apart org s) (b : Nat) (v : Nat) : Apart org (State.writeAdj s b v) := by
  unfold State.writeAdj
  try dsimp only
  repeat' first
    | with_reducible assumption | intro _ | with_reducible apply apart_stepBase | with_reducible apply Apart.ite | with_reducible apply Apart.foldl
    | split | simp only [Apart.upd]

theorem apart_writeRateLo {org s : State} (hz : Apart org s) (b : Nat) (v : Nat) : Apart org (State.writeRateLo s b v) := by
  unfold State.writeRateLo
  try dsimp only
  repeat' first
    | with_reducible assumption | intro _ | with_reducible apply apart_setBase | with_reducible apply Apart.ite | with_reducible apply Apart.foldl
    | split | simp only [Apart.upd]

theorem apart_writeRateHi {org s : State} (hz : Apart org s) (b : Nat) (v : Nat) : Apart org (State.writeRateHi s b v) := by
  unfold State.writeRateHi
  try dsimp only
  repeat' first
    | with_reducible assumption | intro _ | with_reducible apply apart_setBase | with_reducible apply apart_setRate | with_reducible apply Apart.ite
    | with_reducible apply Apart.foldl | with_reducible refine Apart.ofSnd (by assumption) ?_ | with_reducible refine Apart.ofFst (by assumption) ?_
    | split | simp only [Apart.upd]

theorem apart_selectMaster {org s : State} (hz : Apart org s) (b : Nat) (t : Nat) : Apart org (State.selectMaster s b t) := by
  unfold State.selectMaster
  try dsimp only
  repeat' first
    | with_reducible assumption | intro _ | with_reducible apply apart_setBase | with_reducible apply apart_loseSource
    | with_reducible apply Apart.ite | with_reducible apply Apart.foldl | with_reducible refine Apart.ofSnd (by assumption) ?_
    | with_reducible refine Apart.ofFst (by assumption) ?_ | split | simp only [Apart.upd]

theorem apart_hearAnnounce {org s : State} (hz : Apart org s) (p : Nat) (d : Nat) (a : Announce) (t : Nat) : Apart org (State.hearAnnounce s p d a t) := by
  unfold State.hearAnnounce
  try dsimp only
  repeat' first
    | with_reducible assumption | intro _ | with_reducible apply apart_setBase | with_reducible apply apart_selectMaster
    | with_reducible apply Apart.ite | with_reducible apply Apart.foldl | with_reducible refine Apart.ofSnd (by assumption) ?_
    | with_reducible refine Apart.ofFst (by assumption) ?_ | split | simp only [Apart.upd]

theorem apart_syncSample {org s : State} (hz : Apart org s) (b : Nat) (p : Nat) (t : Nat) (origin : Nat) (corr : Int) (ingress : Int) : Apart org (State.syncSample s b p t origin corr ingress) := by
  unfold State.syncSample
  try dsimp only
  repeat' first
    | with_reducible assumption | intro _ | with_reducible apply apart_convStale | with_reducible apply apart_servo | with_reducible apply Apart.ite
    | with_reducible apply Apart.foldl | split | simp only [Apart.upd]

theorem apart_gptpSync {org s : State} (hz : Apart org s) (p : Nat) (d : Nat) (seqId : Nat) (twoStep : Bool) (origin : Nat) (corr : Int) (t : Nat) : Apart org (State.gptpSync s p d seqId twoStep origin corr t) := by
  unfold State.gptpSync
  try dsimp only
  repeat' first
    | with_reducible assumption | intro _ | with_reducible apply apart_setBase | with_reducible apply apart_syncSample
    | with_reducible apply Apart.ite | with_reducible apply Apart.foldl | with_reducible refine Apart.ofSnd (by assumption) ?_
    | with_reducible refine Apart.ofFst (by assumption) ?_ | split | simp only [Apart.upd]

theorem apart_gptpFollowUp {org s : State} (hz : Apart org s) (p : Nat) (d : Nat) (seqId : Nat) (origin : Nat) (corr : Int) (t : Nat) : Apart org (State.gptpFollowUp s p d seqId origin corr t) := by
  unfold State.gptpFollowUp
  try dsimp only
  repeat' first
    | with_reducible assumption | intro _ | with_reducible apply apart_setBase | with_reducible apply apart_syncSample
    | with_reducible apply Apart.ite | with_reducible apply Apart.foldl | with_reducible refine Apart.ofSnd (by assumption) ?_
    | with_reducible refine Apart.ofFst (by assumption) ?_ | split | simp only [Apart.upd]

theorem apart_syncTimeout {org s : State} (hz : Apart org s) (b : Nat) (t : Nat) : Apart org (State.syncTimeout s b t) := by
  unfold State.syncTimeout
  try dsimp only
  repeat' first
    | with_reducible assumption | intro _ | with_reducible apply apart_loseSource | with_reducible apply Apart.ite | with_reducible apply Apart.foldl
    | with_reducible refine Apart.ofSnd (by assumption) ?_ | with_reducible refine Apart.ofFst (by assumption) ?_ | split | simp only [Apart.upd]

theorem apart_setGport {org s : State} (hz : Apart org s) (p : Nat) (x : GPort) : Apart org (State.setGport s p x) := by
  unfold State.setGport
  try dsimp only
  repeat' first
    | with_reducible assumption | intro _ | with_reducible apply Apart.ite | with_reducible apply Apart.foldl | split | simp only [Apart.upd]

theorem apart_txOverflow {org s : State} (hz : Apart org s) (p : Nat) : Apart org (State.txOverflow s p) := by
  unfold State.txOverflow
  try dsimp only
  repeat' first
    | with_reducible assumption | intro _ | with_reducible apply apart_inc | with_reducible apply apart_raise | with_reducible apply Apart.ite
    | with_reducible apply Apart.foldl | split | simp only [Apart.upd]

theorem apart_pdelayTimer {org s : State} (hz : Apart org s) (p : Nat) (t : Nat) : Apart org (State.pdelayTimer s p t) := by
  unfold State.pdelayTimer
  try dsimp only
  repeat' first
    | with_reducible assumption | intro _ | with_reducible apply apart_emit | with_reducible apply apart_setReg | with_reducible apply apart_setGport
    | with_reducible apply apart_txOverflow | with_reducible apply Apart.ite | with_reducible apply Apart.foldl | split | simp only [Apart.upd]

theorem apart_pdelayReq {org s : State} (hz : Apart org s) (p : Nat) (seqId : Nat) (rx : Nat) (tx : Nat) : Apart org (State.pdelayReq s p seqId rx tx) := by
  unfold State.pdelayReq
  try dsimp only
  repeat' first
    | with_reducible assumption | intro _ | with_reducible apply apart_emit | with_reducible apply apart_txOverflow | with_reducible apply Apart.ite
    | with_reducible apply Apart.foldl | split | simp only [Apart.upd]

theorem apart_pdelayResp {org s : State} (hz : Apart org s) (p : Nat) (seqId : Nat) (t2 : Int) (t3 : Int) (rx : Nat) : Apart org (State.pdelayResp s p seqId t2 t3 rx) := by
  unfold State.pdelayResp
  try dsimp only
  repeat' first
    | with_reducible assumption | intro _ | with_reducible apply apart_setGport | with_reducible apply apart_setReg | with_reducible apply Apart.ite
    | with_reducible apply Apart.foldl | with_reducible refine Apart.ofSnd (by assumption) ?_ | with_reducible refine Apart.ofFst (by assumption) ?_
    | split | simp only [Apart.upd]

theorem apart_pairSensorSkew {org s : State} (hz : Apart org s) (p : Nat) : Apart org (State.pairSensorSkew s p) := by
  unfold State.pairSensorSkew
  try dsimp only
  repeat' first
    | with_reducible assumption | intro _ | with_reducible apply apart_setFld | with_reducible apply Apart.ite | with_reducible apply Apart.foldl
    | split | simp only [Apart.upd]

theorem apart_setTracker {org s : State} (hz : Apart org s) (i : Nat) (x : Tracker) : Apart org (State.setTracker s i x) := by
  unfold State.setTracker
  try dsimp only
  repeat' first
    | with_reducible assumption | intro _ | with_reducible apply apart_setReg | with_reducible apply apart_pairSensorSkew
    | with_reducible apply Apart.ite | with_reducible apply Apart.foldl | split | simp only [Apart.upd]

theorem apart_noteSkew {org s : State} (hz : Apart org s) (i : Nat) (x : Tracker) (skew : Int) (selfAnchored : Bool) : Apart org (State.noteSkew s i x skew selfAnchored) := by
  unfold State.noteSkew
  try dsimp only
  repeat' first
    | with_reducible assumption | intro _ | with_reducible apply apart_setTracker | with_reducible apply apart_setReg | with_reducible apply apart_inc
    | with_reducible apply apart_raise | with_reducible apply Apart.ite | with_reducible apply Apart.foldl | with_reducible apply Apart.iteFst
    | with_reducible apply Apart.iteSnd | split | simp only [Apart.upd]

theorem apart_observe {org s : State} (hz : Apart org s) (i : Nat) (a : Int) (t : Int) : Apart org (State.observe s i a t) := by
  unfold State.observe
  try dsimp only
  repeat' first
    | with_reducible assumption | intro _ | with_reducible apply apart_noteSkew | with_reducible apply apart_tick | with_reducible apply Apart.ite
    | with_reducible apply Apart.foldl | split | simp only [Apart.upd]

theorem apart_observeNominal {org s : State} (hz : Apart org s) (i : Nat) (a : Int) : Apart org (State.observeNominal s i a) := by
  unfold State.observeNominal
  try dsimp only
  repeat' first
    | with_reducible assumption | intro _ | with_reducible apply apart_setTracker | with_reducible apply apart_observe
    | with_reducible apply Apart.ite | with_reducible apply Apart.foldl | split | simp only [Apart.upd]

theorem apart_observeTriggered {org s : State} (hz : Apart org s) (i : Nat) (starts : List Nat) (a : Int) : Apart org (State.observeTriggered s i starts a) := by
  unfold State.observeTriggered
  try dsimp only
  repeat' first
    | with_reducible assumption | intro _ | with_reducible apply apart_noteSkew | with_reducible apply Apart.ite | with_reducible apply Apart.foldl
    | split | simp only [Apart.upd]

theorem apart_ppsEdge {org s : State} (hz : Apart org s) (falling : Bool) (t : Nat) : Apart org (State.ppsEdge s falling t) := by
  unfold State.ppsEdge
  try dsimp only
  repeat' first
    | with_reducible assumption | intro _ | with_reducible apply apart_inc | with_reducible apply Apart.ite | with_reducible apply Apart.foldl
    | with_reducible refine Apart.ofSnd (by assumption) ?_ | with_reducible refine Apart.ofFst (by assumption) ?_ | split | simp only [Apart.upd]

theorem apart_labelEdge {org s : State} (hz : Apart org s) (label : Nat) (t : Nat) (e : Nat) : Apart org (State.labelEdge s label t e) := by
  unfold State.labelEdge
  try dsimp only
  repeat' first
    | with_reducible assumption | intro _ | with_reducible apply apart_invStale | with_reducible apply apart_observe
    | with_reducible apply apart_convStale | with_reducible apply apart_servo | with_reducible apply Apart.ite | with_reducible apply Apart.foldl
    | split | simp only [Apart.upd]

theorem apart_ppsLabel {org s : State} (hz : Apart org s) (label : Nat) (t : Nat) : Apart org (State.ppsLabel s label t) := by
  unfold State.ppsLabel
  try dsimp only
  repeat' first
    | with_reducible assumption | intro _ | with_reducible apply apart_labelEdge | with_reducible apply Apart.ite | with_reducible apply Apart.foldl
    | split | simp only [Apart.upd]

theorem apart_gnssSentence {org s : State} (hz : Apart org s) (n : Nmea) (t : Nat) : Apart org (State.gnssSentence s n t) := by
  unfold State.gnssSentence
  try dsimp only
  repeat' first
    | with_reducible assumption | intro _ | with_reducible apply apart_ppsLabel | with_reducible apply Apart.ite | with_reducible apply Apart.foldl
    | with_reducible refine Apart.ofSnd (by assumption) ?_ | with_reducible refine Apart.ofFst (by assumption) ?_ | split | simp only [Apart.upd]

theorem apart_labelTimeout {org s : State} (hz : Apart org s) (t : Nat) : Apart org (State.labelTimeout s t) := by
  unfold State.labelTimeout
  try dsimp only
  repeat' first
    | with_reducible assumption | intro _ | with_reducible apply apart_addTo | with_reducible apply Apart.ite | with_reducible apply Apart.foldl
    | split | simp only [Apart.upd]

theorem apart_ppsTimeout {org s : State} (hz : Apart org s) (t : Nat) : Apart org (State.ppsTimeout s t) := by
  unfold State.ppsTimeout
  try dsimp only
  repeat' first
    | with_reducible assumption | intro _ | with_reducible apply apart_loseSource | with_reducible apply Apart.ite | with_reducible apply Apart.foldl
    | split | simp only [Apart.upd]

theorem apart_uartTimeout {org s : State} (hz : Apart org s) (t : Nat) : Apart org (State.uartTimeout s t) := by
  unfold State.uartTimeout
  try dsimp only
  repeat' first
    | with_reducible assumption | intro _ | with_reducible apply Apart.ite | with_reducible apply Apart.foldl | split | simp only [Apart.upd]

theorem apart_execGptpSync {org s : State} (hz : Apart org s) (p : Fin 4) (d : Byte) (seqId : BitVec 16) (twoStep : Bool) (origin : Word64) (corr : Word64) (t : Nat) : ∃ u, execGptpSync p d seqId twoStep origin corr t s = .next u ∧ Apart org u := by
  unfold execGptpSync
  refine ⟨_, rfl, ?_⟩
  try dsimp only
  repeat' first
    | with_reducible assumption | intro _ | with_reducible apply apart_whenAwake | with_reducible apply apart_at | with_reducible apply apart_gptpSync
    | with_reducible apply Apart.ite | with_reducible apply Apart.foldl | split | simp only [Apart.upd]

theorem apart_execGptpFollowUp {org s : State} (hz : Apart org s) (p : Fin 4) (d : Byte) (seqId : BitVec 16) (origin : Word64) (corr : Word64) (t : Nat) : ∃ u, execGptpFollowUp p d seqId origin corr t s = .next u ∧ Apart org u := by
  unfold execGptpFollowUp
  refine ⟨_, rfl, ?_⟩
  try dsimp only
  repeat' first
    | with_reducible assumption | intro _ | with_reducible apply apart_whenAwake | with_reducible apply apart_at
    | with_reducible apply apart_gptpFollowUp | with_reducible apply Apart.ite | with_reducible apply Apart.foldl | split | simp only [Apart.upd]

theorem apart_execGptpAnnounce {org s : State} (hz : Apart org s) (p : Fin 4) (d : Byte) (a : Announce) (t : Nat) : ∃ u, execGptpAnnounce p d a t s = .next u ∧ Apart org u := by
  unfold execGptpAnnounce
  refine ⟨_, rfl, ?_⟩
  try dsimp only
  repeat' first
    | with_reducible assumption | intro _ | with_reducible apply apart_whenAwake | with_reducible apply apart_at
    | with_reducible apply apart_hearAnnounce | with_reducible apply Apart.ite | with_reducible apply Apart.foldl | split | simp only [Apart.upd]

theorem apart_execPdelayReq {org s : State} (hz : Apart org s) (p : Fin 4) (seqId : BitVec 16) (rx : Nat) (tx : Nat) : ∃ u, execPdelayReq p seqId rx tx s = .next u ∧ Apart org u := by
  unfold execPdelayReq
  refine ⟨_, rfl, ?_⟩
  try dsimp only
  repeat' first
    | with_reducible assumption | intro _ | with_reducible apply apart_whenAwake | with_reducible apply apart_at
    | with_reducible apply apart_pdelayReq | with_reducible apply Apart.ite | with_reducible apply Apart.foldl | split | simp only [Apart.upd]

theorem apart_execPdelayResp {org s : State} (hz : Apart org s) (p : Fin 4) (seqId : BitVec 16) (t2 : Word64) (t3 : Word64) (rx : Nat) : ∃ u, execPdelayResp p seqId t2 t3 rx s = .next u ∧ Apart org u := by
  unfold execPdelayResp
  refine ⟨_, rfl, ?_⟩
  try dsimp only
  repeat' first
    | with_reducible assumption | intro _ | with_reducible apply apart_whenAwake | with_reducible apply apart_at
    | with_reducible apply apart_pdelayResp | with_reducible apply Apart.ite | with_reducible apply Apart.foldl | split | simp only [Apart.upd]

theorem apart_execPdelayTimer {org s : State} (hz : Apart org s) (p : Fin 4) (t : Nat) : ∃ u, execPdelayTimer p t s = .next u ∧ Apart org u := by
  unfold execPdelayTimer
  refine ⟨_, rfl, ?_⟩
  try dsimp only
  repeat' first
    | with_reducible assumption | intro _ | with_reducible apply apart_whenAwake | with_reducible apply apart_at
    | with_reducible apply apart_pdelayTimer | with_reducible apply Apart.ite | with_reducible apply Apart.foldl | split | simp only [Apart.upd]

theorem apart_execSyncTimeout {org s : State} (hz : Apart org s) (b : Fin 2) (t : Nat) : ∃ u, execSyncTimeout b t s = .next u ∧ Apart org u := by
  unfold execSyncTimeout
  refine ⟨_, rfl, ?_⟩
  try dsimp only
  repeat' first
    | with_reducible assumption | intro _ | with_reducible apply apart_whenAwake | with_reducible apply apart_at
    | with_reducible apply apart_syncTimeout | with_reducible apply Apart.ite | with_reducible apply Apart.foldl | split | simp only [Apart.upd]

theorem apart_execHoldoverExpired {org s : State} (hz : Apart org s) (b : Fin 3) (t : Nat) : ∃ u, execHoldoverExpired b t s = .next u ∧ Apart org u := by
  unfold execHoldoverExpired
  refine ⟨_, rfl, ?_⟩
  try dsimp only
  repeat' first
    | with_reducible assumption | intro _ | with_reducible apply apart_whenAwake | with_reducible apply apart_at
    | with_reducible apply apart_holdExpired | with_reducible apply Apart.ite | with_reducible apply Apart.foldl | split | simp only [Apart.upd]

theorem apart_execPpsLabelTimeout {org s : State} (hz : Apart org s) (t : Nat) : ∃ u, execPpsLabelTimeout t s = .next u ∧ Apart org u := by
  unfold execPpsLabelTimeout
  refine ⟨_, rfl, ?_⟩
  try dsimp only
  repeat' first
    | with_reducible assumption | intro _ | with_reducible apply apart_whenAwake | with_reducible apply apart_at
    | with_reducible apply apart_labelTimeout | with_reducible apply Apart.ite | with_reducible apply Apart.foldl | split | simp only [Apart.upd]

theorem apart_execPpsTimeout {org s : State} (hz : Apart org s) (t : Nat) : ∃ u, execPpsTimeout t s = .next u ∧ Apart org u := by
  unfold execPpsTimeout
  refine ⟨_, rfl, ?_⟩
  try dsimp only
  repeat' first
    | with_reducible assumption | intro _ | with_reducible apply apart_whenAwake | with_reducible apply apart_at
    | with_reducible apply apart_ppsTimeout | with_reducible apply Apart.ite | with_reducible apply Apart.foldl | split | simp only [Apart.upd]

theorem apart_execUartRateTimeout {org s : State} (hz : Apart org s) (t : Nat) : ∃ u, execUartRateTimeout t s = .next u ∧ Apart org u := by
  unfold execUartRateTimeout
  refine ⟨_, rfl, ?_⟩
  try dsimp only
  repeat' first
    | with_reducible assumption | intro _ | with_reducible apply apart_whenAwake | with_reducible apply apart_at
    | with_reducible apply apart_uartTimeout | with_reducible apply Apart.ite | with_reducible apply Apart.foldl | split | simp only [Apart.upd]

theorem apart_execTimeSnap {org s : State} (hz : Apart org s) (v : Word32) (t : Nat) : ∃ u, execTimeSnap v t s = .next u ∧ Apart org u := by
  unfold execTimeSnap
  refine ⟨_, rfl, ?_⟩
  try dsimp only
  repeat' first
    | with_reducible assumption | intro _ | with_reducible apply apart_whenAwake | with_reducible apply apart_at | with_reducible apply apart_snap
    | with_reducible apply Apart.ite | with_reducible apply Apart.foldl | split | simp only [Apart.upd]

theorem apart_readTb {org s : State} (hz : Apart org s) (b : Nat) : Apart org (State.readTb s b) := by
  unfold State.readTb
  try dsimp only
  repeat' first
    | with_reducible assumption | intro _ | with_reducible apply apart_latchTb | with_reducible apply apart_emit | with_reducible apply Apart.ite
    | with_reducible apply Apart.foldl | with_reducible apply Apart.iteFst | with_reducible apply Apart.iteSnd | split | simp only [Apart.upd]

theorem apart_execTbNsLoRead {org s : State} (hz : Apart org s) (b : Fin 4) (t : Nat) : ∃ u, execTbNsLoRead b t s = .next u ∧ Apart org u := by
  unfold execTbNsLoRead
  refine ⟨_, rfl, ?_⟩
  try dsimp only
  repeat' first
    | with_reducible assumption | intro _ | with_reducible apply apart_whenAwake | with_reducible apply apart_at | with_reducible apply apart_readTb
    | with_reducible apply Apart.ite | with_reducible apply Apart.foldl | split | simp only [Apart.upd]

theorem apart_execTbAdjWrite {org s : State} (hz : Apart org s) (b : Fin 4) (v : Word32) (t : Nat) : ∃ u, execTbAdjWrite b v t s = .next u ∧ Apart org u := by
  unfold execTbAdjWrite
  refine ⟨_, rfl, ?_⟩
  try dsimp only
  repeat' first
    | with_reducible assumption | intro _ | with_reducible apply apart_whenAwake | with_reducible apply apart_at | with_reducible apply apart_writeAdj
    | with_reducible apply Apart.ite | with_reducible apply Apart.foldl | split | simp only [Apart.upd]

theorem apart_execTbRateLoWrite {org s : State} (hz : Apart org s) (b : Fin 4) (v : Word32) (t : Nat) : ∃ u, execTbRateLoWrite b v t s = .next u ∧ Apart org u := by
  unfold execTbRateLoWrite
  refine ⟨_, rfl, ?_⟩
  try dsimp only
  repeat' first
    | with_reducible assumption | intro _ | with_reducible apply apart_whenAwake | with_reducible apply apart_at
    | with_reducible apply apart_writeRateLo | with_reducible apply Apart.ite | with_reducible apply Apart.foldl | split | simp only [Apart.upd]

theorem apart_execTbRateHiWrite {org s : State} (hz : Apart org s) (b : Fin 4) (v : Word32) (t : Nat) : ∃ u, execTbRateHiWrite b v t s = .next u ∧ Apart org u := by
  unfold execTbRateHiWrite
  refine ⟨_, rfl, ?_⟩
  try dsimp only
  repeat' first
    | with_reducible assumption | intro _ | with_reducible apply apart_whenAwake | with_reducible apply apart_at
    | with_reducible apply apart_writeRateHi | with_reducible apply Apart.ite | with_reducible apply Apart.foldl | split | simp only [Apart.upd]

end Sys2Proof.Machine
end

