-- ==== Sys2Proof/Laws/ApartCond.lean ====
section
/-! SUPPORT. Definitions of Machine/Cond.lean that leave the memory, the Islets and the buoys alone (`Apart`). -/
namespace Sys2Proof.Machine

theorem apart_setChan {org s : State} (hz : Apart org s) (c : Nat) (x : Chan) : Apart org (State.setChan s c x) := by
  unfold State.setChan
  try dsimp only
  repeat' first
    | with_reducible assumption | intro _ | with_reducible apply Apart.ite | with_reducible apply Apart.foldl | split | simp only [Apart.upd]

theorem apart_fireDet {org s : State} (hz : Apart org s) (reg : Nat) (src : Nat) (c : Nat) (fired : Bool) : Apart org (State.fireDet s reg src c fired) := by
  unfold State.fireDet
  try dsimp only
  repeat' first
    | with_reducible assumption | intro _ | with_reducible apply apart_setReg | with_reducible apply apart_raise | with_reducible apply Apart.ite
    | with_reducible apply Apart.foldl | split | simp only [Apart.upd]

theorem apart_detect {org s : State} (hz : Apart org s) (c : Nat) (y : Nat) : Apart org (State.detect s c y) := by
  unfold State.detect
  try dsimp only
  repeat' first
    | with_reducible assumption | intro _ | with_reducible apply apart_setChan | with_reducible apply apart_setReg
    | with_reducible apply apart_fireDet | with_reducible apply Apart.ite | with_reducible apply Apart.foldl | with_reducible apply Apart.iteFst
    | with_reducible apply Apart.iteSnd | split | simp only [Apart.upd]

theorem apart_feed {org s : State} (hz : Apart org s) (c : Nat) (v : Int) (t : Int) : Apart org (State.feed s c v t).2 := by
  unfold State.feed
  try dsimp only
  repeat' first
    | with_reducible assumption | intro _ | with_reducible apply apart_setChan | with_reducible apply apart_setFld | with_reducible apply apart_detect
    | with_reducible apply Apart.ite | with_reducible apply Apart.foldl | with_reducible apply Apart.iteFst | with_reducible apply Apart.iteSnd
    | with_reducible refine Apart.ofSnd (by assumption) ?_ | with_reducible refine Apart.ofFst (by assumption) ?_ | split | simp only [Apart.upd]

theorem apart_feedAll {org s : State} (hz : Apart org s) (xs0 : List (Nat × Int)) (xs1 : Int) : Apart org (State.feedAll s xs0 xs1).2 := by
  induction xs0 generalizing s xs1 with
  | nil =>
    unfold State.feedAll
    try dsimp only
    repeat' first
      | with_reducible assumption | intro _ | with_reducible apply apart_feed | with_reducible apply Apart.ite | with_reducible apply Apart.foldl
      | with_reducible apply Apart.iteFst | with_reducible apply Apart.iteSnd | with_reducible refine Apart.ofSnd (by assumption) ?_
      | with_reducible refine Apart.ofFst (by assumption) ?_ | split | simp only [Apart.upd]
  | cons e l ih =>
    unfold State.feedAll
    try dsimp only
    repeat' first
      | with_reducible assumption | intro _ | with_reducible apply ih | with_reducible apply apart_feed | with_reducible apply Apart.ite
      | with_reducible apply Apart.foldl | with_reducible apply Apart.iteFst | with_reducible apply Apart.iteSnd
      | with_reducible refine Apart.ofSnd (by assumption) ?_ | with_reducible refine Apart.ofFst (by assumption) ?_ | split | simp only [Apart.upd]

theorem apart_setImu {org s : State} (hz : Apart org s) (i : Nat) (x : Imu) : Apart org (State.setImu s i x) := by
  unfold State.setImu
  try dsimp only
  repeat' first
    | with_reducible assumption | intro _ | with_reducible apply Apart.ite | with_reducible apply Apart.foldl | split | simp only [Apart.upd]

theorem apart_imuDrdy {org s : State} (hz : Apart org s) (i : Nat) (t : Nat) : Apart org (State.imuDrdy s i t) := by
  unfold State.imuDrdy
  try dsimp only
  repeat' first
    | with_reducible assumption | intro _ | with_reducible apply apart_emit | with_reducible apply apart_setImu
    | with_reducible apply apart_observeNominal | with_reducible apply Apart.ite | with_reducible apply Apart.foldl | split | simp only [Apart.upd]

theorem apart_imuBurst {org s : State} (hz : Apart org s) (i : Nat) (reply : List Byte) : Apart org (State.imuBurst s i reply).2 := by
  unfold State.imuBurst
  try dsimp only
  repeat' first
    | with_reducible assumption | intro _ | with_reducible apply apart_setImu | with_reducible apply apart_incWrap
    | with_reducible apply apart_feedAll | with_reducible apply Apart.ite | with_reducible apply Apart.foldl | with_reducible apply Apart.iteFst
    | with_reducible apply Apart.iteSnd | with_reducible refine Apart.ofSnd (by assumption) ?_ | with_reducible refine Apart.ofFst (by assumption) ?_
    | split | simp only [Apart.upd]

theorem apart_imuLost {org s : State} (hz : Apart org s) (i : Nat) (t : Nat) : Apart org (State.imuLost s i t) := by
  unfold State.imuLost
  try dsimp only
  repeat' first
    | with_reducible assumption | intro _ | with_reducible apply apart_setImu | with_reducible apply apart_inc | with_reducible apply apart_raise
    | with_reducible apply Apart.ite | with_reducible apply Apart.foldl | with_reducible refine Apart.ofSnd (by assumption) ?_
    | with_reducible refine Apart.ofFst (by assumption) ?_ | split | simp only [Apart.upd]

theorem apart_wheelEdge {org s : State} (hz : Apart org s) (k : Nat) (rising : Bool) (held : Nat) (t : Nat) : Apart org (State.wheelEdge s k rising held t) := by
  unfold State.wheelEdge
  try dsimp only
  repeat' first
    | with_reducible assumption | intro _ | with_reducible apply apart_incWrap | with_reducible apply Apart.ite | with_reducible apply Apart.foldl
    | split | simp only [Apart.upd]

theorem apart_wheelValue {org s : State} (hz : Apart org s) (k : Nat) (t : Nat) : Apart org (State.wheelValue s k t).2 := by
  unfold State.wheelValue
  try dsimp only
  repeat' first
    | with_reducible assumption | intro _ | with_reducible apply apart_tick | with_reducible apply Apart.ite | with_reducible apply Apart.foldl
    | with_reducible apply Apart.iteFst | with_reducible apply Apart.iteSnd | with_reducible refine Apart.ofSnd (by assumption) ?_
    | with_reducible refine Apart.ofFst (by assumption) ?_ | split | simp only [Apart.upd]

theorem apart_wheelSample {org s : State} (hz : Apart org s) (t : Nat) : Apart org (s.wheelSample t).2 := by
  unfold State.wheelSample
  refine Apart.iteSnd hz ?_
  extract_lets en a b
  have h : Apart org a.2 := Apart.foldlSnd hz fun y e h => apart_feedAll (apart_wheelValue h _ _) _ _
  exact apart_feedAll h _ _

theorem apart_canSignal {org s : State} (hz : Apart org s) (e : List Byte) (data : List Byte) (t : Nat) : Apart org (State.canSignal s e data t) := by
  unfold State.canSignal
  try dsimp only
  repeat' first
    | with_reducible assumption | intro _ | with_reducible apply Apart.ite | with_reducible apply Apart.foldl | split | simp only [Apart.upd]

theorem apart_canSend {org s : State} (hz : Apart org s) (j : Nat) (o : Out) : Apart org (State.canSend s j o) := by
  unfold State.canSend
  try dsimp only
  repeat' first
    | with_reducible assumption | intro _ | with_reducible apply apart_emit | with_reducible apply Apart.ite | with_reducible apply Apart.foldl
    | split | simp only [Apart.upd]

theorem apart_canFrame {org s : State} (hz : Apart org s) (j : Nat) (id : Nat) (ext : Bool) (good : Bool) (data : List Byte) (t : Nat) : Apart org (State.canFrame s j id ext good data t).2 := by
  unfold State.canFrame
  try dsimp only
  repeat' first
    | with_reducible assumption | intro _ | with_reducible apply apart_canSend | with_reducible apply apart_inc | with_reducible apply apart_canSignal
    | with_reducible apply apart_incWrap | with_reducible apply apart_observeNominal | with_reducible apply Apart.ite
    | with_reducible apply Apart.foldl | with_reducible apply Apart.iteFst | with_reducible apply Apart.iteSnd | split | simp only [Apart.upd]

theorem apart_syncChan {org s : State} (hz : Apart org s) (c : Nat) : Apart org (State.syncChan s c) := by
  unfold State.syncChan
  try dsimp only
  repeat' first
    | with_reducible assumption | intro _ | with_reducible apply apart_setChan | with_reducible apply apart_setFld | with_reducible apply Apart.ite
    | with_reducible apply Apart.foldl | split | simp only [Apart.upd]

theorem apart_condSync {org s : State} (hz : Apart org s) (ts : Nat) : Apart org (State.condSync s ts) := by
  unfold State.condSync
  try dsimp only
  repeat' first
    | with_reducible assumption | intro _ | with_reducible apply apart_syncChan | with_reducible apply apart_inc | with_reducible apply apart_setReg64
    | with_reducible apply Apart.ite | with_reducible apply Apart.foldl | split | simp only [Apart.upd]

theorem apart_syncIn {org s : State} (hz : Apart org s) (rising : Bool) (t : Nat) : Apart org (State.syncIn s rising t) := by
  unfold State.syncIn
  try dsimp only
  repeat' first
    | with_reducible assumption | intro _ | with_reducible apply apart_condSync | with_reducible apply Apart.ite | with_reducible apply Apart.foldl
    | split | simp only [Apart.upd]

theorem apart_execImuLostTimeout {org s : State} (hz : Apart org s) (i : Fin 2) (t : Nat) : ∃ u, execImuLostTimeout i t s = .next u ∧ Apart org u := by
  unfold execImuLostTimeout
  refine ⟨_, rfl, ?_⟩
  try dsimp only
  repeat' first
    | with_reducible assumption | intro _ | with_reducible apply apart_whenAwake | with_reducible apply apart_at | with_reducible apply apart_imuLost
    | with_reducible apply Apart.ite | with_reducible apply Apart.foldl | split | simp only [Apart.upd]

theorem apart_execSyncInEdge {org s : State} (hz : Apart org s) (rising : Bool) (t : Nat) : ∃ u, execSyncInEdge rising t s = .next u ∧ Apart org u := by
  unfold execSyncInEdge
  refine ⟨_, rfl, ?_⟩
  try dsimp only
  repeat' first
    | with_reducible assumption | intro _ | with_reducible apply apart_whenAwake | with_reducible apply apart_at | with_reducible apply apart_syncIn
    | with_reducible apply Apart.ite | with_reducible apply Apart.foldl | split | simp only [Apart.upd]

end Sys2Proof.Machine
end

