-- ==== Sys2Proof/Laws/ApartMotion.lean ====
section
/-! SUPPORT. Definitions of Machine/Motion.lean that leave the memory, the Islets and the buoys alone (`Apart`). -/
namespace Sys2Proof.Machine

theorem apart_noteOut {org s : State} (hz : Apart org s) (c : Nat) (o : AxisOut) : Apart org (State.noteOut s c o) := by
  unfold State.noteOut
  try dsimp only
  repeat' first
    | with_reducible assumption | intro _ | with_reducible apply Apart.ite | with_reducible apply Apart.foldl | split | simp only [Apart.upd]

end Sys2Proof.Machine
end

