-- ==== Sys2Proof/Laws/ApartShore.lean ====
section
/-! SUPPORT. Definitions of Machine/Shore.lean that leave the memory, the Islets and the buoys alone (`Apart`). -/
namespace Sys2Proof.Machine

theorem apart_setSport {org s : State} (hz : Apart org s) (n : Nat) (x : SPort) : Apart org (State.setSport s n x) := by
  unfold State.setSport
  try dsimp only
  repeat' first
    | with_reducible assumption | intro _ | with_reducible apply Apart.ite | with_reducible apply Apart.foldl | split | simp only [Apart.upd]

theorem apart_setSpin {org s : State} (hz : Apart org s) (k : Nat) (x : SPin) : Apart org (State.setSpin s k x) := by
  unfold State.setSpin
  try dsimp only
  repeat' first
    | with_reducible assumption | intro _ | with_reducible apply Apart.ite | with_reducible apply Apart.foldl | split | simp only [Apart.upd]

theorem apart_setPortSt {org s : State} (hz : Apart org s) (n : Nat) (v : Nat) : Apart org (State.setPortSt s n v) := by
  unfold State.setPortSt
  try dsimp only
  repeat' first
    | with_reducible assumption | intro _ | with_reducible apply apart_setFld | with_reducible apply Apart.ite | with_reducible apply Apart.foldl
    | split | simp only [Apart.upd]

theorem apart_setShed {org s : State} (hz : Apart org s) (n : Nat) (on : Bool) : Apart org (State.setShed s n on) := by
  unfold State.setShed
  try dsimp only
  repeat' first
    | with_reducible assumption | intro _ | with_reducible apply apart_setFld | with_reducible apply apart_setSport | with_reducible apply Apart.ite
    | with_reducible apply Apart.foldl | split | simp only [Apart.upd]

theorem apart_observeFrame {org s : State} (hz : Apart org s) (n : Nat) (f : Frame) (a : Int) : Apart org (State.observeFrame s n f a) := by
  unfold State.observeFrame
  try dsimp only
  repeat' first
    | with_reducible assumption | intro _ | with_reducible apply apart_observeTriggered | with_reducible apply apart_observe
    | with_reducible apply apart_setSport | with_reducible apply Apart.ite | with_reducible apply Apart.foldl | split | simp only [Apart.upd]

theorem apart_longPacket {org s : State} (hz : Apart org s) (n : Nat) (vc : Nat) (dtype : Nat) (headerOk : Bool) (crcOk : Bool) (payload : List Byte) (t : Nat) : Apart org (State.longPacket s n vc dtype headerOk crcOk payload t) := by
  unfold State.longPacket
  try dsimp only
  repeat' first
    | with_reducible assumption | intro _ | with_reducible apply apart_inc | with_reducible apply apart_raise | with_reducible apply apart_setSport
    | with_reducible apply apart_observeFrame | with_reducible apply Apart.ite | with_reducible apply Apart.foldl
    | with_reducible refine Apart.ofSnd (by assumption) ?_ | with_reducible refine Apart.ofFst (by assumption) ?_ | split | simp only [Apart.upd]

theorem apart_abandonFrame {org s : State} (hz : Apart org s) (n : Nat) : Apart org (State.abandonFrame s n) := by
  unfold State.abandonFrame
  try dsimp only
  repeat' first
    | with_reducible assumption | intro _ | with_reducible apply apart_setSport | with_reducible apply apart_inc | with_reducible apply apart_raise
    | with_reducible apply apart_setShed | with_reducible apply Apart.ite | with_reducible apply Apart.foldl
    | with_reducible refine Apart.ofSnd (by assumption) ?_ | with_reducible refine Apart.ofFst (by assumption) ?_ | split | simp only [Apart.upd]

theorem apart_queueFull {org s : State} (hz : Apart org s) (i : Nat) (fills : List Nat) (xs0 : Nat) : Apart org (State.queueFull s i fills xs0) := by
  induction xs0 generalizing s i fills with
  | zero =>
    unfold State.queueFull
    try dsimp only
    repeat' first
      | with_reducible assumption | intro _ | with_reducible apply apart_abandonFrame | with_reducible apply apart_setFld
      | with_reducible apply Apart.ite | with_reducible apply Apart.foldl | with_reducible refine Apart.ofSnd (by assumption) ?_
      | with_reducible refine Apart.ofFst (by assumption) ?_ | split | simp only [Apart.upd]
  | succ n ih =>
    unfold State.queueFull
    try dsimp only
    repeat' first
      | with_reducible assumption | intro _ | with_reducible apply ih | with_reducible apply apart_abandonFrame | with_reducible apply apart_setFld
      | with_reducible apply Apart.ite | with_reducible apply Apart.foldl | with_reducible refine Apart.ofSnd (by assumption) ?_
      | with_reducible refine Apart.ofFst (by assumption) ?_ | split | simp only [Apart.upd]

theorem apart_portLost {org s : State} (hz : Apart org s) (n : Nat) (t : Nat) : Apart org (State.portLost s n t) := by
  unfold State.portLost
  try dsimp only
  repeat' first
    | with_reducible assumption | intro _ | with_reducible apply apart_setPortSt | with_reducible apply apart_raise | with_reducible apply Apart.ite
    | with_reducible apply Apart.foldl | with_reducible refine Apart.ofSnd (by assumption) ?_ | with_reducible refine Apart.ofFst (by assumption) ?_
    | split | simp only [Apart.upd]

theorem apart_deskew {org s : State} (hz : Apart org s) (n : Nat) (passes : Nat) : Apart org (State.deskew s n passes) := by
  unfold State.deskew
  try dsimp only
  repeat' first
    | with_reducible assumption | intro _ | with_reducible apply apart_setFld | with_reducible apply Apart.ite | with_reducible apply Apart.foldl
    | split | simp only [Apart.upd]

theorem apart_fsyncPulse {org s : State} (hz : Apart org s) (k : Nat) (t : Nat) : Apart org (State.fsyncPulse s k t) := by
  unfold State.fsyncPulse
  try dsimp only
  repeat' first
    | with_reducible assumption | intro _ | with_reducible apply apart_incWrap | with_reducible apply apart_setSpin | with_reducible apply apart_emit
    | with_reducible apply Apart.ite | with_reducible apply Apart.foldl | with_reducible refine Apart.ofSnd (by assumption) ?_
    | with_reducible refine Apart.ofFst (by assumption) ?_ | split | simp only [Apart.upd]

theorem apart_projStart {org s : State} (hz : Apart org s) (n : Nat) (t : Nat) : Apart org (State.projStart s n t) := by
  unfold State.projStart
  try dsimp only
  repeat' first
    | with_reducible assumption | intro _ | with_reducible apply apart_setSport | with_reducible apply Apart.ite | with_reducible apply Apart.foldl
    | with_reducible apply Apart.iteFst | with_reducible apply Apart.iteSnd | with_reducible refine Apart.ofSnd (by assumption) ?_
    | with_reducible refine Apart.ofFst (by assumption) ?_ | split | simp only [Apart.upd]

theorem apart_execWriteQueueFull {org s : State} (hz : Apart org s) (i : Fin 2) (fills : List (Fin 129)) (t : Nat) : ∃ u, execWriteQueueFull i fills t s = .next u ∧ Apart org u := by
  unfold execWriteQueueFull
  refine ⟨_, rfl, ?_⟩
  try dsimp only
  repeat' first
    | with_reducible assumption | intro _ | with_reducible apply apart_whenAwake | with_reducible apply apart_at | with_reducible apply apart_setFld
    | with_reducible apply apart_queueFull | with_reducible apply Apart.ite | with_reducible apply Apart.foldl | split | simp only [Apart.upd]

theorem apart_execPortLostTimeout {org s : State} (hz : Apart org s) (n : Fin 16) (t : Nat) : ∃ u, execPortLostTimeout n t s = .next u ∧ Apart org u := by
  unfold execPortLostTimeout
  refine ⟨_, rfl, ?_⟩
  try dsimp only
  repeat' first
    | with_reducible assumption | intro _ | with_reducible apply apart_whenAwake | with_reducible apply apart_at | with_reducible apply apart_portLost
    | with_reducible apply Apart.ite | with_reducible apply Apart.foldl | split | simp only [Apart.upd]

theorem apart_execFsyncPulse {org s : State} (hz : Apart org s) (k : Fin 8) (t : Nat) : ∃ u, execFsyncPulse k t s = .next u ∧ Apart org u := by
  unfold execFsyncPulse
  refine ⟨_, rfl, ?_⟩
  try dsimp only
  repeat' first
    | with_reducible assumption | intro _ | with_reducible apply apart_whenAwake | with_reducible apply apart_at
    | with_reducible apply apart_fsyncPulse | with_reducible apply Apart.ite | with_reducible apply Apart.foldl | split | simp only [Apart.upd]

theorem apart_execDeskewSequence {org s : State} (hz : Apart org s) (n : Fin 16) (passes : Fin 16) (t : Nat) : ∃ u, execDeskewSequence n passes t s = .next u ∧ Apart org u := by
  unfold execDeskewSequence
  refine ⟨_, rfl, ?_⟩
  try dsimp only
  repeat' first
    | with_reducible assumption | intro _ | with_reducible apply apart_whenAwake | with_reducible apply apart_at | with_reducible apply apart_deskew
    | with_reducible apply Apart.ite | with_reducible apply Apart.foldl | split | simp only [Apart.upd]

theorem apart_execProjectionStart {org s : State} (hz : Apart org s) (n : Fin 16) (t : Nat) : ∃ u, execProjectionStart n t s = .next u ∧ Apart org u := by
  unfold execProjectionStart
  refine ⟨_, rfl, ?_⟩
  try dsimp only
  repeat' first
    | with_reducible assumption | intro _ | with_reducible apply apart_whenAwake | with_reducible apply apart_at
    | with_reducible apply apart_projStart | with_reducible apply Apart.ite | with_reducible apply Apart.foldl | split | simp only [Apart.upd]

end Sys2Proof.Machine
end

