-- ==== Sys2Proof/Laws/ApartMask.lean ====
section
/-! SUPPORT. Definitions of Machine/Mask.lean that leave the memory, the Islets and the buoys alone (`Apart`). -/
namespace Sys2Proof.Machine

theorem apart_setSource {org s : State} (hz : Apart org s) (b : Nat) (x : Source) : Apart org (State.setSource s b x) := by
  unfold State.setSource
  try dsimp only
  repeat' first
    | with_reducible assumption | intro _ | with_reducible apply Apart.ite | with_reducible apply Apart.foldl | split | simp only [Apart.upd]

theorem apart_freeze {org s : State} (hz : Apart org s) : Apart org (State.freeze s) := by
  unfold State.freeze
  try dsimp only
  repeat' first
    | with_reducible assumption | intro _ | with_reducible apply Apart.ite | with_reducible apply Apart.foldl
    | with_reducible refine Apart.ofSnd (by assumption) ?_ | with_reducible refine Apart.ofFst (by assumption) ?_ | split | simp only [Apart.upd]

theorem apart_setEstState {org s : State} (hz : Apart org s) (v : Nat) : Apart org (State.setEstState s v) := by
  unfold State.setEstState
  try dsimp only
  repeat' first
    | with_reducible assumption | intro _ | with_reducible apply apart_setFld | with_reducible apply apart_raise | with_reducible apply Apart.ite
    | with_reducible apply Apart.foldl | split | simp only [Apart.upd]

theorem apart_refreshMask {org s00 : State} (hz : Apart org s00) : Apart org (State.refreshMask s00) := by
  unfold State.refreshMask
  try dsimp only
  repeat' first
    | with_reducible assumption | intro _ | with_reducible apply apart_freeze | with_reducible apply apart_setReg | with_reducible apply apart_setFld
    | with_reducible apply apart_raise | with_reducible apply apart_setEstState | with_reducible apply Apart.ite | with_reducible apply Apart.foldl
    | with_reducible apply Apart.iteFst | with_reducible apply Apart.iteSnd | with_reducible refine Apart.ofSnd (by assumption) ?_
    | with_reducible refine Apart.ofFst (by assumption) ?_ | split | simp only [Apart.upd]

end Sys2Proof.Machine
end

