-- ==== Sys2Proof/Laws/ApartFuse.lean ====
section
/-! SUPPORT. Definitions of Machine/Fuse.lean that leave the memory, the Islets and the buoys alone (`Apart`). -/
namespace Sys2Proof.Machine

theorem apart_delivered {org s : State} (hz : Apart org s) (b : Nat) : Apart org (State.delivered s b) := by
  unfold State.delivered
  try dsimp only
  repeat' first
    | with_reducible assumption | intro _ | with_reducible apply apart_setSource | with_reducible apply apart_refreshMask
    | with_reducible apply Apart.ite | with_reducible apply Apart.foldl | split | simp only [Apart.upd]

theorem apart_gate {org s : State} (hz : Apart org s) (e : Est) (i : Item) : Apart org (State.gate s e i).2 := by
  unfold State.gate
  try dsimp only
  repeat' first
    | with_reducible assumption | intro _ | with_reducible apply apart_inc | with_reducible apply apart_setSource
    | with_reducible apply apart_refreshMask | with_reducible apply Apart.ite | with_reducible apply Apart.foldl | with_reducible apply Apart.iteFst
    | with_reducible apply Apart.iteSnd | split | simp only [Apart.upd]

theorem apart_noteApplied {org s : State} (hz : Apart org s) (i : Item) : Apart org (State.noteApplied s i) := by
  unfold State.noteApplied
  try dsimp only
  repeat' first
    | with_reducible assumption | intro _ | with_reducible apply Apart.ite | with_reducible apply Apart.foldl | split | simp only [Apart.upd]

theorem apart_run {org : State} (l : List Item) {x : Applied} (hz : Apart org x.st) : Apart org (x.run l).st := by
  induction l generalizing x with
  | nil => exact hz
  | cons i r ih =>
    unfold Applied.run
    extract_lets s e g y
    apply ih
    show Apart org y.st
    have hg := apart_gate hz e i
    unfold y
    split
    · split
      · exact apart_noteApplied hg _
      · exact hg
    · exact hz

theorem apart_propagateTo {org s0 : State} (hz : Apart org s0) (t : Int) : Apart org (s0.propagateTo t) := by
  unfold State.propagateTo
  extract_lets s due x s1 e
  have h1 : Apart org s1 := apart_run _ (apart_freeze hz)
  exact Apart.upd.2 h1

theorem apart_align {org s : State} (hz : Apart org s) (pos : List Word64) (yaw : Option Quat) (fixes : List (BitVec 64)) : Apart org (State.align s pos yaw fixes) := by
  unfold State.align
  try dsimp only
  repeat' first
    | with_reducible assumption | intro _ | with_reducible apply apart_setEstState | with_reducible apply Apart.ite | with_reducible apply Apart.foldl
    | with_reducible refine Apart.ofSnd (by assumption) ?_ | with_reducible refine Apart.ofFst (by assumption) ?_ | split | simp only [Apart.upd]

theorem apart_tryAlign {org s : State} (hz : Apart org s) : Apart org (State.tryAlign s) := by
  unfold State.tryAlign
  try dsimp only
  repeat' first
    | with_reducible assumption | intro _ | with_reducible apply apart_align | with_reducible apply Apart.ite | with_reducible apply Apart.foldl
    | with_reducible refine Apart.ofSnd (by assumption) ?_ | with_reducible refine Apart.ofFst (by assumption) ?_ | split | simp only [Apart.upd]

theorem apart_takeLate {org s : State} (hz : Apart org s) (t : Int) : Apart org (State.takeLate s t).2 := by
  unfold State.takeLate
  try dsimp only
  repeat' first
    | with_reducible assumption | intro _ | with_reducible apply apart_inc | with_reducible apply apart_raise | with_reducible apply Apart.ite
    | with_reducible apply Apart.foldl | with_reducible apply Apart.iteFst | with_reducible apply Apart.iteSnd | split | simp only [Apart.upd]

theorem apart_intoWindow {org s : State} (hz : Apart org s) (i : Item) : Apart org (State.intoWindow s i) := by
  unfold State.intoWindow
  try dsimp only
  repeat' first
    | with_reducible assumption | intro _ | with_reducible apply apart_inc | with_reducible apply Apart.ite | with_reducible apply Apart.foldl | split
    | simp only [Apart.upd]

theorem apart_alignItem {org s : State} (hz : Apart org s) (i : Item) : Apart org (State.alignItem s i) := by
  unfold State.alignItem
  try dsimp only
  repeat' first
    | with_reducible assumption | intro _ | with_reducible apply apart_tryAlign | with_reducible apply Apart.ite | with_reducible apply Apart.foldl
    | with_reducible refine Apart.ofSnd (by assumption) ?_ | with_reducible refine Apart.ofFst (by assumption) ?_ | split | simp only [Apart.upd]

theorem apart_takeItem {org s : State} (hz : Apart org s) (i : Item) : Apart org (State.takeItem s i) := by
  unfold State.takeItem
  try dsimp only
  repeat' first
    | with_reducible assumption | intro _ | with_reducible apply apart_takeLate | with_reducible apply apart_alignItem
    | with_reducible apply apart_intoWindow | with_reducible apply Apart.ite | with_reducible apply Apart.foldl | with_reducible apply Apart.iteFst
    | with_reducible apply Apart.iteSnd | split | simp only [Apart.upd]

theorem apart_arrive {org s : State} (hz : Apart org s) (delivers : Bool) (src : Nat) (kind : Nat) (elems : Nat) (mapped : Bool) (t : Int) (words : List Word64) : Apart org (State.arrive s delivers src kind elems mapped t words) := by
  unfold State.arrive
  try dsimp only
  repeat' first
    | with_reducible assumption | intro _ | with_reducible apply apart_delivered | with_reducible apply apart_freeze
    | with_reducible apply apart_takeItem | with_reducible apply Apart.ite | with_reducible apply Apart.foldl | split | simp only [Apart.upd]

theorem apart_bufferSample {org s : State} (hz : Apart org s) (x : ImuSample) : Apart org (State.bufferSample s x) := by
  unfold State.bufferSample
  try dsimp only
  repeat' first
    | with_reducible assumption | intro _ | with_reducible apply Apart.ite | with_reducible apply Apart.foldl | split | simp only [Apart.upd]

theorem apart_noteStill {org s : State} (hz : Apart org s) (axes : List Nat) (t : Int) : Apart org (State.noteStill s axes t) := by
  unfold State.noteStill
  try dsimp only
  repeat' first
    | with_reducible assumption | intro _ | with_reducible apply Apart.ite | with_reducible apply Apart.foldl | with_reducible apply Apart.iteFst
    | with_reducible apply Apart.iteSnd | with_reducible refine Apart.ofSnd (by assumption) ?_ | with_reducible refine Apart.ofFst (by assumption) ?_
    | split | simp only [Apart.upd]

theorem apart_imuSample {org s0 : State} (hz : Apart org s0) (x : ImuSample) : Apart org (State.imuSample s0 x) := by
  unfold State.imuSample
  try dsimp only
  repeat' first
    | with_reducible assumption | intro _ | with_reducible apply apart_freeze | with_reducible apply apart_takeLate
    | with_reducible apply apart_bufferSample | with_reducible apply apart_propagateTo | with_reducible apply apart_noteStill
    | with_reducible apply apart_tryAlign | with_reducible apply Apart.ite | with_reducible apply Apart.foldl | with_reducible apply Apart.iteFst
    | with_reducible apply Apart.iteSnd | split | simp only [Apart.upd]

theorem apart_propagateWithout {org s : State} (hz : Apart org s) (t : Int) : Apart org (State.propagateWithout s t) := by
  unfold State.propagateWithout
  try dsimp only
  repeat' first
    | with_reducible assumption | intro _ | with_reducible apply apart_propagateTo | with_reducible apply apart_noteStill
    | with_reducible apply Apart.ite | with_reducible apply Apart.foldl | split | simp only [Apart.upd]

theorem apart_condOut {org s : State} (hz : Apart org s) (o : CondOut) : Apart org (State.condOut s o) := by
  unfold State.condOut
  try dsimp only
  repeat' first
    | with_reducible assumption | intro _ | with_reducible apply apart_noteOut | with_reducible apply apart_delivered
    | with_reducible apply apart_imuSample | with_reducible apply apart_arrive | with_reducible apply apart_propagateWithout
    | with_reducible apply Apart.ite | with_reducible apply Apart.foldl | with_reducible apply Apart.iteFst | with_reducible apply Apart.iteSnd
    | split | simp only [Apart.upd]

theorem apart_condOuts {org s : State} (hz : Apart org s) (l : List CondOut) : Apart org (State.condOuts s l) := by
  unfold State.condOuts
  try dsimp only
  repeat' first
    | with_reducible assumption | intro _ | with_reducible apply apart_condOut | with_reducible apply Apart.ite | with_reducible apply Apart.foldl
    | split | simp only [Apart.upd]

theorem apart_vehicleSignals {org s : State} (hz : Apart org s) (hits : List (List Byte)) (t : Nat) : Apart org (State.vehicleSignals s hits t) := by
  unfold State.vehicleSignals
  try dsimp only
  repeat' first
    | with_reducible assumption | intro _ | with_reducible apply apart_delivered | with_reducible apply apart_noteOut
    | with_reducible apply apart_arrive | with_reducible apply apart_propagateWithout | with_reducible apply Apart.ite
    | with_reducible apply Apart.foldl | with_reducible refine Apart.ofSnd (by assumption) ?_ | with_reducible refine Apart.ofFst (by assumption) ?_
    | split | simp only [Apart.upd]

theorem apart_gnssJoin {org s : State} (hz : Apart org s) (sec : Nat) : Apart org (State.gnssJoin s sec) := by
  unfold State.gnssJoin
  try dsimp only
  repeat' first
    | with_reducible assumption | intro _ | with_reducible apply apart_arrive | with_reducible apply Apart.ite | with_reducible apply Apart.foldl
    | with_reducible refine Apart.ofSnd (by assumption) ?_ | with_reducible refine Apart.ofFst (by assumption) ?_ | split | simp only [Apart.upd]

theorem apart_gnssPart {org s : State} (hz : Apart org s) (sec : Nat) (p : Option (List Word64)) (a : Option (List Word32)) : Apart org (State.gnssPart s sec p a) := by
  unfold State.gnssPart
  try dsimp only
  repeat' first
    | with_reducible assumption | intro _ | with_reducible apply apart_gnssJoin | with_reducible apply Apart.ite | with_reducible apply Apart.foldl
    | with_reducible apply Apart.iteFst | with_reducible apply Apart.iteSnd | with_reducible refine Apart.ofSnd (by assumption) ?_
    | with_reducible refine Apart.ofFst (by assumption) ?_ | split | simp only [Apart.upd]

theorem apart_gnssItem {org s : State} (hz : Apart org s) (n : Nmea) : Apart org (State.gnssItem s n) := by
  unfold State.gnssItem
  try dsimp only
  repeat' first
    | with_reducible assumption | intro _ | with_reducible apply apart_gnssPart | with_reducible apply apart_gnssJoin | with_reducible apply Apart.ite
    | with_reducible apply Apart.foldl | with_reducible refine Apart.ofSnd (by assumption) ?_ | with_reducible refine Apart.ofFst (by assumption) ?_
    | split | simp only [Apart.upd]

theorem apart_passStart {org s : State} (hz : Apart org s) (t : Nat) : Apart org (State.passStart s t) := by
  unfold State.passStart
  try dsimp only
  repeat' first
    | with_reducible assumption | intro _ | with_reducible apply Apart.ite | with_reducible apply Apart.foldl | split | simp only [Apart.upd]

theorem apart_refineCal {org s : State} (hz : Apart org s) (e : Est) : Apart org (State.refineCal s e) := by
  unfold State.refineCal
  try dsimp only
  repeat' first
    | with_reducible assumption | intro _ | with_reducible apply apart_inc | with_reducible apply Apart.ite | with_reducible apply Apart.foldl
    | with_reducible refine Apart.ofSnd (by assumption) ?_ | with_reducible refine Apart.ofFst (by assumption) ?_ | split | simp only [Apart.upd]

theorem apart_gateAll {org : State} (l : List Item) {x : Applied} (hz : Apart org x.st) : Apart org (x.gateAll l).1.st := by
  induction l generalizing x with
  | nil => exact hz
  | cons i r ih =>
    unfold Applied.gateAll
    dsimp only
    split
    · exact ih hz
    · split
      · have hg := apart_gate hz (x.st.estAt i.t) i
        split
        · exact ih (apart_noteApplied hg _)
        · exact ih hg
      · exact ih hz

theorem apart_passEnd {org s0 : State} (hz : Apart org s0) (t : Nat) : Apart org (s0.passEnd t) := by
  unfold State.passEnd
  have h := apart_freeze hz
  dsimp only
  split
  · exact h
  · next p _ =>
    refine Apart.ite (Apart.upd.2 h) ?_
    exact apart_refineCal (Apart.upd.2 (apart_gateAll p.items (x := { est := p.est, at_ := p.now, st := s0.freeze }) h)) _

end Sys2Proof.Machine
end

