-- ==== Sys2Proof/Laws/ApartJournal.lean ====
section
/-! SUPPORT. Definitions of Machine/Journal.lean that leave the memory, the Islets and the buoys alone (`Apart`). -/
namespace Sys2Proof.Machine

theorem apart_mapPfailRelease {org s : State} (hz : Apart org s) (t : Nat) : Apart org (State.mapPfailRelease s t) := by
  unfold State.mapPfailRelease
  try dsimp only
  repeat' first
    | with_reducible assumption | intro _ | with_reducible apply Apart.ite | with_reducible apply Apart.foldl | split | simp only [Apart.upd]

end Sys2Proof.Machine
end

