-- ==== Sys2Proof/Laws/ApartChainPort.lean ====
section
/-! SUPPORT. Definitions of Machine/ChainPort.lean that leave the memory, the Islets and the buoys alone (`Apart`). -/
namespace Sys2Proof.Machine

theorem apart_linkWidth {org s : State} (hz : Apart org s) : Apart org (State.linkWidth s) := by
  unfold State.linkWidth
  try dsimp only
  repeat' first
    | with_reducible assumption | intro _ | with_reducible apply apart_setCause | with_reducible apply Apart.ite | with_reducible apply Apart.foldl
    | split | simp only [Apart.upd]

theorem apart_setPort {org s : State} (hz : Apart org s) (p : Nat) (st : Nat) (lanes : Nat) : Apart org (State.setPort s p st lanes) := by
  unfold State.setPort
  try dsimp only
  repeat' first
    | with_reducible assumption | intro _ | with_reducible apply apart_setReg | with_reducible apply apart_linkWidth
    | with_reducible apply apart_raise | with_reducible apply Apart.ite | with_reducible apply Apart.foldl | split | simp only [Apart.upd]

theorem apart_retrain {org s : State} (hz : Apart org s) (p : Nat) : Apart org (State.retrain s p) := by
  unfold State.retrain
  try dsimp only
  repeat' first
    | with_reducible assumption | intro _ | with_reducible apply apart_setPort | with_reducible apply apart_inc | with_reducible apply Apart.ite
    | with_reducible apply Apart.foldl | split | simp only [Apart.upd]

theorem apart_resend {org s : State} (hz : Apart org s) (p : Nat) : Apart org (State.resend s p) := by
  unfold State.resend
  try dsimp only
  repeat' first
    | with_reducible assumption | intro _ | with_reducible apply apart_emit | with_reducible apply Apart.ite | with_reducible apply Apart.foldl
    | split | simp only [Apart.upd]

theorem apart_nak {org s : State} (hz : Apart org s) (p : Nat) (ack : Nat) : Apart org (State.nak s p ack) := by
  unfold State.nak
  try dsimp only
  repeat' first
    | with_reducible assumption | intro _ | with_reducible apply apart_setCport | with_reducible apply apart_inc | with_reducible apply apart_retrain
    | with_reducible apply apart_resend | with_reducible apply Apart.ite | with_reducible apply Apart.foldl | with_reducible apply Apart.iteFst
    | with_reducible apply Apart.iteSnd | split | simp only [Apart.upd]

theorem apart_addCredits {org s : State} (hz : Apart org s) (p : Nat) (n : List Nat) : Apart org (State.addCredits s p n) := by
  unfold State.addCredits
  try dsimp only
  repeat' first
    | with_reducible assumption | intro _ | with_reducible apply apart_setCport | with_reducible apply apart_drain | with_reducible apply Apart.ite
    | with_reducible apply Apart.foldl | split | simp only [Apart.upd]

theorem apart_lockLost {org s : State} (hz : Apart org s) (p : Nat) : Apart org (State.lockLost s p) := by
  unfold State.lockLost
  try dsimp only
  repeat' first
    | with_reducible assumption | intro _ | with_reducible apply apart_retrain | with_reducible apply Apart.ite | with_reducible apply Apart.foldl
    | split | simp only [Apart.upd]

theorem apart_retryPort {org s : State} (hz : Apart org s) (p : Nat) : Apart org (State.retryPort s p) := by
  unfold State.retryPort
  try dsimp only
  repeat' first
    | with_reducible assumption | intro _ | with_reducible apply apart_setPort | with_reducible apply Apart.ite | with_reducible apply Apart.foldl
    | split | simp only [Apart.upd]

theorem apart_enterLoad {org s : State} (hz : Apart org s) : Apart org (State.enterLoad s) := by
  unfold State.enterLoad
  try dsimp only
  repeat' first
    | with_reducible assumption | intro _ | with_reducible apply apart_setFld | with_reducible apply apart_enter | with_reducible apply Apart.ite
    | with_reducible apply Apart.foldl | with_reducible refine Apart.ofSnd (by assumption) ?_ | with_reducible refine Apart.ofFst (by assumption) ?_
    | split | simp only [Apart.upd]

theorem apart_leaveEnum {org s : State} (hz : Apart org s) (count : Nat) (st : Nat) : Apart org (State.leaveEnum s count st) := by
  unfold State.leaveEnum
  try dsimp only
  repeat' first
    | with_reducible assumption | intro _ | with_reducible apply apart_setFld | with_reducible apply apart_raise
    | with_reducible apply apart_enterLoad | with_reducible apply Apart.ite | with_reducible apply Apart.foldl
    | with_reducible refine Apart.ofSnd (by assumption) ?_ | with_reducible refine Apart.ofFst (by assumption) ?_ | split | simp only [Apart.upd]

theorem apart_stage {org s : State} (hz : Apart org s) (x : EnumStage) (t : Nat) : Apart org (State.stage s x t) := by
  unfold State.stage
  try dsimp only
  repeat' first
    | with_reducible assumption | intro _ | with_reducible apply Apart.ite | with_reducible apply Apart.foldl | split | simp only [Apart.upd]

theorem apart_sendReady {org s : State} (hz : Apart org s) (t : Nat) : Apart org (State.sendReady s t) := by
  unfold State.sendReady
  try dsimp only
  repeat' first
    | with_reducible assumption | intro _ | with_reducible apply apart_sendCtrl | with_reducible apply Apart.ite | with_reducible apply Apart.foldl
    | split | simp only [Apart.upd]

theorem apart_enumStart {org s : State} (hz : Apart org s) (t : Nat) : Apart org (State.enumStart s t) := by
  unfold State.enumStart
  try dsimp only
  repeat' first
    | with_reducible assumption | intro _ | with_reducible apply apart_setFld | with_reducible apply apart_stage
    | with_reducible apply apart_leaveEnum | with_reducible apply apart_sendReady | with_reducible apply Apart.ite | with_reducible apply Apart.foldl
    | split | simp only [Apart.upd]

theorem apart_closeChain {org s : State} (hz : Apart org s) (t : Nat) : Apart org (State.closeChain s t) := by
  unfold State.closeChain
  try dsimp only
  repeat' first
    | with_reducible assumption | intro _ | with_reducible apply apart_sendCtrl | with_reducible apply apart_leaveEnum
    | with_reducible apply apart_stage | with_reducible apply Apart.ite | with_reducible apply Apart.foldl | split | simp only [Apart.upd]

theorem apart_readyAgain {org s : State} (hz : Apart org s) (t : Nat) : Apart org (State.readyAgain s t) := by
  unfold State.readyAgain
  try dsimp only
  repeat' first
    | with_reducible assumption | intro _ | with_reducible apply apart_stage | with_reducible apply apart_sendReady | with_reducible apply Apart.ite
    | with_reducible apply Apart.foldl | split | simp only [Apart.upd]

theorem apart_enumTimeout {org s : State} (hz : Apart org s) (t : Nat) : Apart org (State.enumTimeout s t) := by
  unfold State.enumTimeout
  try dsimp only
  repeat' first
    | with_reducible assumption | intro _ | with_reducible apply apart_stage | with_reducible apply apart_leaveEnum
    | with_reducible apply apart_closeChain | with_reducible apply apart_setFld | with_reducible apply apart_enumStart
    | with_reducible apply Apart.ite | with_reducible apply Apart.foldl | with_reducible refine Apart.ofSnd (by assumption) ?_
    | with_reducible refine Apart.ofFst (by assumption) ?_ | split | simp only [Apart.upd]

theorem apart_enumEndTimeout {org s : State} (hz : Apart org s) (t : Nat) : Apart org (State.enumEndTimeout s t) := by
  unfold State.enumEndTimeout
  try dsimp only
  repeat' first
    | with_reducible assumption | intro _ | with_reducible apply apart_stage | with_reducible apply apart_closeChain | with_reducible apply Apart.ite
    | with_reducible apply Apart.foldl | split | simp only [Apart.upd]

end Sys2Proof.Machine
end

