-- ==== Sys2Proof/Laws/ApartBank.lean ====
section
/-! SUPPORT. Definitions of Machine/Bank.lean that leave the memory, the Islets and the buoys alone (`Apart`). -/
namespace Sys2Proof.Machine

theorem apart_setBank {org s : State} (hz : Apart org s) (m : Master) (b : Bank) : Apart org (State.setBank s m b) := by
  unfold State.setBank
  try dsimp only
  repeat' first
    | with_reducible assumption | intro _ | with_reducible apply Apart.ite | with_reducible apply Apart.foldl
    | with_reducible refine Apart.ofSnd (by assumption) ?_ | with_reducible refine Apart.ofFst (by assumption) ?_ | split | simp only [Apart.upd]

theorem apart_setStatus {org s : State} (hz : Apart org s) (m : Master) (c : Cmd) (pending : Bool) (st : CStatus) : Apart org (State.setStatus s m c pending st) := by
  unfold State.setStatus
  try dsimp only
  repeat' first
    | with_reducible assumption | intro _ | with_reducible apply apart_setBank | with_reducible apply Apart.ite | with_reducible apply Apart.foldl
    | split | simp only [Apart.upd]

theorem apart_completionEvent {org s : State} (hz : Apart org s) (m : Master) (c : Cmd) (st : CStatus) : Apart org (State.completionEvent s m c st) := by
  unfold State.completionEvent
  try dsimp only
  repeat' first
    | with_reducible assumption | intro _ | with_reducible apply apart_eventEntry | with_reducible apply apart_raise | with_reducible apply Apart.ite
    | with_reducible apply Apart.foldl | with_reducible refine Apart.ofSnd (by assumption) ?_ | with_reducible refine Apart.ofFst (by assumption) ?_
    | split | simp only [Apart.upd]

end Sys2Proof.Machine
end

