-- ==== Sys2Proof/Laws/ApartFlash.lean ====
section
/-! SUPPORT. Definitions of Machine/Flash.lean that leave the memory, the Islets and the buoys alone (`Apart`). -/
namespace Sys2Proof.Machine

theorem apart_patrol {org s : State} (hz : Apart org s) (p : Nat) : Apart org (State.patrol s p) := by
  unfold State.patrol
  try dsimp only
  repeat' first
    | with_reducible assumption | intro _ | with_reducible apply apart_askRead | with_reducible apply Apart.ite | with_reducible apply Apart.foldl
    | split | simp only [Apart.upd]

end Sys2Proof.Machine
end

