-- ==== Sys2Proof/Laws/ApartReef.lean ====
section
/-! SUPPORT. Definitions of Machine/Reef.lean that leave the memory, the Islets and the buoys alone (`Apart`). -/
namespace Sys2Proof.Machine

theorem apart_trimBuf {org s : State} (hz : Apart org s) : Apart org (State.trimBuf s) := by
  unfold State.trimBuf
  try dsimp only
  repeat' first
    | with_reducible assumption | intro _ | with_reducible apply Apart.ite | with_reducible apply Apart.foldl | with_reducible apply Apart.iteFst
    | with_reducible apply Apart.iteSnd | split | simp only [Apart.upd]

theorem apart_updaterResume {org s : State} (hz : Apart org s) : Apart org (State.updaterResume s) := by
  unfold State.updaterResume
  try dsimp only
  repeat' first
    | with_reducible assumption | intro _ | with_reducible apply apart_trimBuf | with_reducible apply apart_setFld
    | with_reducible apply apart_setLevel | with_reducible apply Apart.ite | with_reducible apply Apart.foldl | split | simp only [Apart.upd]

end Sys2Proof.Machine
end

