-- ==== Sys2Proof/Laws/ApartGsol.lean ====
section
/-! SUPPORT. Definitions of Machine/Gsol.lean that leave the memory, the Islets and the buoys alone (`Apart`). -/
namespace Sys2Proof.Machine

theorem apart_gsolRegs {org s : State} (hz : Apart org s) : Apart org (State.gsolRegs s) := by
  unfold State.gsolRegs
  try dsimp only
  repeat' first
    | with_reducible assumption | intro _ | with_reducible apply apart_setFld | with_reducible apply apart_setReg | with_reducible apply Apart.ite
    | with_reducible apply Apart.foldl | split | simp only [Apart.upd]

theorem apart_retireOldest {org s : State} (hz : Apart org s) : Apart org (State.retireOldest s) := by
  unfold State.retireOldest
  try dsimp only
  repeat' first
    | with_reducible assumption | intro _ | with_reducible apply apart_inc | with_reducible apply Apart.ite | with_reducible apply Apart.foldl
    | with_reducible refine Apart.ofSnd (by assumption) ?_ | with_reducible refine Apart.ofFst (by assumption) ?_ | split | simp only [Apart.upd]

theorem apart_fitGraph {org s : State} (hz : Apart org s) (kfs : List Nat) (de : Nat) (xs0 : Nat) : Apart org (State.fitGraph s kfs de xs0) := by
  induction xs0 generalizing s kfs de with
  | zero =>
    unfold State.fitGraph
    try dsimp only
    repeat' first
      | with_reducible assumption | intro _ | with_reducible apply apart_retireOldest | with_reducible apply Apart.ite
      | with_reducible apply Apart.foldl | split | simp only [Apart.upd]
  | succ n ih =>
    unfold State.fitGraph
    try dsimp only
    repeat' first
      | with_reducible assumption | intro _ | with_reducible apply ih | with_reducible apply apart_retireOldest | with_reducible apply Apart.ite
      | with_reducible apply Apart.foldl | split | simp only [Apart.upd]

theorem apart_bringBack {org s : State} (hz : Apart org s) (kf : Nat) : Apart org (State.bringBack s kf) := by
  unfold State.bringBack
  try dsimp only
  repeat' first
    | with_reducible assumption | intro _ | with_reducible apply Apart.ite | with_reducible apply Apart.foldl
    | with_reducible refine Apart.ofSnd (by assumption) ?_ | with_reducible refine Apart.ofFst (by assumption) ?_ | split | simp only [Apart.upd]

theorem apart_placeWorkspace {org s : State} (hz : Apart org s) (mib : Nat) (tier : Nat) : Apart org (State.placeWorkspace s mib tier).2 := by
  unfold State.placeWorkspace
  try dsimp only
  repeat' first
    | with_reducible assumption | intro _ | with_reducible apply apart_makeRoom | with_reducible apply apart_allocRun | with_reducible apply Apart.ite
    | with_reducible apply Apart.foldl | with_reducible apply Apart.iteFst | with_reducible apply Apart.iteSnd | split | simp only [Apart.upd]

theorem apart_findWorkspace {org s : State} (hz : Apart org s) (mib : Nat) : Apart org (State.findWorkspace s mib).2 := by
  unfold State.findWorkspace
  try dsimp only
  repeat' first
    | with_reducible assumption | intro _ | with_reducible apply apart_placeWorkspace | with_reducible apply Apart.ite
    | with_reducible apply Apart.foldl | with_reducible apply Apart.iteFst | with_reducible apply Apart.iteSnd
    | with_reducible refine Apart.ofSnd (by assumption) ?_ | with_reducible refine Apart.ofFst (by assumption) ?_ | split | simp only [Apart.upd]

theorem apart_startOpt {org s : State} (hz : Apart org s) (t : Nat) : Apart org (State.startOpt s t) := by
  unfold State.startOpt
  try dsimp only
  repeat' first
    | with_reducible assumption | intro _ | with_reducible apply apart_gsolRegs | with_reducible apply apart_fitGraph
    | with_reducible apply apart_bringBack | with_reducible apply apart_setReg | with_reducible apply apart_findWorkspace
    | with_reducible apply apart_setFld | with_reducible apply apart_inc | with_reducible apply apart_writeDecision | with_reducible apply apart_raise
    | with_reducible apply Apart.ite | with_reducible apply Apart.foldl | with_reducible apply Apart.iteFst | with_reducible apply Apart.iteSnd
    | with_reducible refine Apart.ofSnd (by assumption) ?_ | with_reducible refine Apart.ofFst (by assumption) ?_ | split | simp only [Apart.upd]

end Sys2Proof.Machine
end

