-- ==== Sys2Proof/Laws/ApartSec.lean ====
section
/-! SUPPORT. Definitions of Machine/Sec.lean that leave the memory, the Islets and the buoys alone (`Apart`). -/
namespace Sys2Proof.Machine

theorem apart_secRegs {org s : State} (hz : Apart org s) : Apart org (State.secRegs s) := by
  unfold State.secRegs
  try dsimp only
  repeat' first
    | with_reducible assumption | intro _ | with_reducible apply apart_setFld | with_reducible apply apart_setReg64
    | with_reducible apply apart_setReg | with_reducible apply Apart.ite | with_reducible apply Apart.foldl | with_reducible apply Apart.foldlFst
    | with_reducible apply Apart.foldlSnd | with_reducible apply Apart.iteFst | with_reducible apply Apart.iteSnd
    | with_reducible refine Apart.ofSnd (by assumption) ?_ | with_reducible refine Apart.ofFst (by assumption) ?_ | split | simp only [Apart.upd]

theorem apart_otpResult {org s : State} (hz : Apart org s) (v : Nat) : Apart org (State.otpResult s v) := by
  unfold State.otpResult
  try dsimp only
  repeat' first
    | with_reducible assumption | intro _ | with_reducible apply apart_setFld | with_reducible apply Apart.ite | with_reducible apply Apart.foldl
    | split | simp only [Apart.upd]

theorem apart_otpDenied {org s : State} (hz : Apart org s) : Apart org (State.otpDenied s) := by
  unfold State.otpDenied
  try dsimp only
  repeat' first
    | with_reducible assumption | intro _ | with_reducible apply apart_otpResult | with_reducible apply apart_inc | with_reducible apply Apart.ite
    | with_reducible apply Apart.foldl | split | simp only [Apart.upd]

theorem apart_otpHash {org s : State} (hz : Apart org s) (ok : Bool) : Apart org (State.otpHash s ok) := by
  unfold State.otpHash
  try dsimp only
  repeat' first
    | with_reducible assumption | intro _ | with_reducible apply apart_otpDenied | with_reducible apply apart_otpResult
    | with_reducible apply apart_secRegs | with_reducible apply Apart.ite | with_reducible apply Apart.foldl | split | simp only [Apart.upd]
    | simp only [Apart.updSec]

theorem apart_otpVendor {org s : State} (hz : Apart org s) : Apart org (State.otpVendor s) := by
  unfold State.otpVendor
  try dsimp only
  repeat' first
    | with_reducible assumption | intro _ | with_reducible apply apart_otpDenied | with_reducible apply apart_otpResult
    | with_reducible apply apart_secRegs | with_reducible apply Apart.ite | with_reducible apply Apart.foldl
    | with_reducible refine Apart.ofSnd (by assumption) ?_ | with_reducible refine Apart.ofFst (by assumption) ?_ | split | simp only [Apart.upd]
    | simp only [Apart.updSec]

end Sys2Proof.Machine
end

