-- ==== Sys2Proof/Laws/ApartCommand.lean ====
section
/-! SUPPORT. Definitions of Machine/Command.lean that leave the memory, the Islets and the buoys alone (`Apart`). -/
namespace Sys2Proof.Machine

theorem apart_issueCmd {org s : State} (hz : Apart org s) (m : Master) (token : Nat) (op : Nat) : Apart org (State.issueCmd s m token op) := by
  unfold State.issueCmd
  try dsimp only
  repeat' first
    | with_reducible assumption | intro _ | with_reducible apply apart_setStatus | with_reducible apply apart_completionEvent
    | with_reducible apply apart_setBank | with_reducible apply apart_emit | with_reducible apply apart_forget | with_reducible apply apart_askHead
    | with_reducible apply Apart.ite | with_reducible apply Apart.foldl | with_reducible refine Apart.ofSnd (by assumption) ?_
    | with_reducible refine Apart.ofFst (by assumption) ?_ | split | simp only [Apart.upd]

theorem apart_argRead {org s : State} (hz : Apart org s) (m : Master) (t : Nat) (block : Option (List Byte)) : Apart org (State.argRead s m t block) := by
  unfold State.argRead
  try dsimp only
  repeat' first
    | with_reducible assumption | intro _ | with_reducible apply apart_setBank | with_reducible apply Apart.ite | with_reducible apply Apart.foldl
    | with_reducible refine Apart.ofSnd (by assumption) ?_ | with_reducible refine Apart.ofFst (by assumption) ?_ | split | simp only [Apart.upd]

theorem apart_execCmdNop {org s : State} (hz : Apart org s) (m : Master) (token : Byte) (t : Nat) : ∃ u, execCmdNop m token t s = .next u ∧ Apart org u := by
  unfold execCmdNop
  refine ⟨_, rfl, ?_⟩
  try dsimp only
  repeat' first
    | with_reducible assumption | intro _ | with_reducible apply apart_whenAwake | with_reducible apply apart_at | with_reducible apply apart_issueCmd
    | with_reducible apply Apart.ite | with_reducible apply Apart.foldl | split | simp only [Apart.upd]

theorem apart_execWake {org s : State} (hz : Apart org s) (m : Master) (token : Byte) (t : Nat) : ∃ u, execWake m token t s = .next u ∧ Apart org u := by
  unfold execWake
  refine ⟨_, rfl, ?_⟩
  try dsimp only
  repeat' first
    | with_reducible assumption | intro _ | with_reducible apply apart_whenAwake | with_reducible apply apart_at | with_reducible apply apart_issueCmd
    | with_reducible apply Apart.ite | with_reducible apply Apart.foldl | split | simp only [Apart.upd]

theorem apart_execPark {org s : State} (hz : Apart org s) (m : Master) (token : Byte) (t : Nat) : ∃ u, execPark m token t s = .next u ∧ Apart org u := by
  unfold execPark
  refine ⟨_, rfl, ?_⟩
  try dsimp only
  repeat' first
    | with_reducible assumption | intro _ | with_reducible apply apart_whenAwake | with_reducible apply apart_at | with_reducible apply apart_issueCmd
    | with_reducible apply Apart.ite | with_reducible apply Apart.foldl | split | simp only [Apart.upd]

theorem apart_execSleep {org s : State} (hz : Apart org s) (m : Master) (token : Byte) (t : Nat) : ∃ u, execSleep m token t s = .next u ∧ Apart org u := by
  unfold execSleep
  refine ⟨_, rfl, ?_⟩
  try dsimp only
  repeat' first
    | with_reducible assumption | intro _ | with_reducible apply apart_whenAwake | with_reducible apply apart_at | with_reducible apply apart_issueCmd
    | with_reducible apply Apart.ite | with_reducible apply Apart.foldl | split | simp only [Apart.upd]

theorem apart_execStageShadow {org s : State} (hz : Apart org s) (m : Master) (token : Byte) (t : Nat) : ∃ u, execStageShadow m token t s = .next u ∧ Apart org u := by
  unfold execStageShadow
  refine ⟨_, rfl, ?_⟩
  try dsimp only
  repeat' first
    | with_reducible assumption | intro _ | with_reducible apply apart_whenAwake | with_reducible apply apart_at | with_reducible apply apart_issueCmd
    | with_reducible apply Apart.ite | with_reducible apply Apart.foldl | split | simp only [Apart.upd]

theorem apart_execSwapConfig {org s : State} (hz : Apart org s) (m : Master) (token : Byte) (t : Nat) : ∃ u, execSwapConfig m token t s = .next u ∧ Apart org u := by
  unfold execSwapConfig
  refine ⟨_, rfl, ?_⟩
  try dsimp only
  repeat' first
    | with_reducible assumption | intro _ | with_reducible apply apart_whenAwake | with_reducible apply apart_at | with_reducible apply apart_issueCmd
    | with_reducible apply Apart.ite | with_reducible apply Apart.foldl | split | simp only [Apart.upd]

theorem apart_execCalCommit {org s : State} (hz : Apart org s) (m : Master) (token : Byte) (t : Nat) : ∃ u, execCalCommit m token t s = .next u ∧ Apart org u := by
  unfold execCalCommit
  refine ⟨_, rfl, ?_⟩
  try dsimp only
  repeat' first
    | with_reducible assumption | intro _ | with_reducible apply apart_whenAwake | with_reducible apply apart_at | with_reducible apply apart_issueCmd
    | with_reducible apply Apart.ite | with_reducible apply Apart.foldl | split | simp only [Apart.upd]

theorem apart_execMapSeal {org s : State} (hz : Apart org s) (m : Master) (token : Byte) (t : Nat) : ∃ u, execMapSeal m token t s = .next u ∧ Apart org u := by
  unfold execMapSeal
  refine ⟨_, rfl, ?_⟩
  try dsimp only
  repeat' first
    | with_reducible assumption | intro _ | with_reducible apply apart_whenAwake | with_reducible apply apart_at | with_reducible apply apart_issueCmd
    | with_reducible apply Apart.ite | with_reducible apply Apart.foldl | split | simp only [Apart.upd]

theorem apart_execMapExport {org s : State} (hz : Apart org s) (m : Master) (token : Byte) (t : Nat) : ∃ u, execMapExport m token t s = .next u ∧ Apart org u := by
  unfold execMapExport
  refine ⟨_, rfl, ?_⟩
  try dsimp only
  repeat' first
    | with_reducible assumption | intro _ | with_reducible apply apart_whenAwake | with_reducible apply apart_at | with_reducible apply apart_issueCmd
    | with_reducible apply Apart.ite | with_reducible apply Apart.foldl | split | simp only [Apart.upd]

theorem apart_execPlaceQuery {org s : State} (hz : Apart org s) (m : Master) (token : Byte) (t : Nat) : ∃ u, execPlaceQuery m token t s = .next u ∧ Apart org u := by
  unfold execPlaceQuery
  refine ⟨_, rfl, ?_⟩
  try dsimp only
  repeat' first
    | with_reducible assumption | intro _ | with_reducible apply apart_whenAwake | with_reducible apply apart_at | with_reducible apply apart_issueCmd
    | with_reducible apply Apart.ite | with_reducible apply Apart.foldl | split | simp only [Apart.upd]

theorem apart_execRecover {org s : State} (hz : Apart org s) (m : Master) (token : Byte) (t : Nat) : ∃ u, execRecover m token t s = .next u ∧ Apart org u := by
  unfold execRecover
  refine ⟨_, rfl, ?_⟩
  try dsimp only
  repeat' first
    | with_reducible assumption | intro _ | with_reducible apply apart_whenAwake | with_reducible apply apart_at | with_reducible apply apart_issueCmd
    | with_reducible apply Apart.ite | with_reducible apply Apart.foldl | split | simp only [Apart.upd]

theorem apart_execTestEnter {org s : State} (hz : Apart org s) (m : Master) (token : Byte) (t : Nat) : ∃ u, execTestEnter m token t s = .next u ∧ Apart org u := by
  unfold execTestEnter
  refine ⟨_, rfl, ?_⟩
  try dsimp only
  repeat' first
    | with_reducible assumption | intro _ | with_reducible apply apart_whenAwake | with_reducible apply apart_at | with_reducible apply apart_issueCmd
    | with_reducible apply Apart.ite | with_reducible apply Apart.foldl | split | simp only [Apart.upd]

theorem apart_execTestExit {org s : State} (hz : Apart org s) (m : Master) (token : Byte) (t : Nat) : ∃ u, execTestExit m token t s = .next u ∧ Apart org u := by
  unfold execTestExit
  refine ⟨_, rfl, ?_⟩
  try dsimp only
  repeat' first
    | with_reducible assumption | intro _ | with_reducible apply apart_whenAwake | with_reducible apply apart_at | with_reducible apply apart_issueCmd
    | with_reducible apply Apart.ite | with_reducible apply Apart.foldl | split | simp only [Apart.upd]

theorem apart_execHalt {org s : State} (hz : Apart org s) (m : Master) (token : Byte) (t : Nat) : ∃ u, execHalt m token t s = .next u ∧ Apart org u := by
  unfold execHalt
  refine ⟨_, rfl, ?_⟩
  try dsimp only
  repeat' first
    | with_reducible assumption | intro _ | with_reducible apply apart_whenAwake | with_reducible apply apart_at | with_reducible apply apart_issueCmd
    | with_reducible apply Apart.ite | with_reducible apply Apart.foldl | split | simp only [Apart.upd]

theorem apart_execCondSync {org s : State} (hz : Apart org s) (m : Master) (token : Byte) (t : Nat) : ∃ u, execCondSync m token t s = .next u ∧ Apart org u := by
  unfold execCondSync
  refine ⟨_, rfl, ?_⟩
  try dsimp only
  repeat' first
    | with_reducible assumption | intro _ | with_reducible apply apart_whenAwake | with_reducible apply apart_at | with_reducible apply apart_issueCmd
    | with_reducible apply Apart.ite | with_reducible apply Apart.foldl | split | simp only [Apart.upd]

theorem apart_issueAttest {org s : State} (hz : Apart org s) (m : Master) (token : Nat) (kind : Nat) (dest : Nat) (destBytes : Nat) (nonce : List Byte) (t : Nat) : Apart org (State.issueAttest s m token kind dest destBytes nonce t) := by
  unfold State.issueAttest
  try dsimp only
  repeat' first
    | with_reducible assumption | intro _ | with_reducible apply apart_issueCmd | with_reducible apply apart_argRead | with_reducible apply Apart.ite
    | with_reducible apply Apart.foldl | with_reducible refine Apart.ofSnd (by assumption) ?_ | with_reducible refine Apart.ofFst (by assumption) ?_
    | split | simp only [Apart.upd]

theorem apart_execAttestReport {org s : State} (hz : Apart org s) (m : Master) (token : Byte) (dest : Word64) (n : Word32) (nonce : List Byte) (t : Nat) : ∃ u, execAttestReport m token dest n nonce t s = .next u ∧ Apart org u := by
  unfold execAttestReport
  refine ⟨_, rfl, ?_⟩
  try dsimp only
  repeat' first
    | with_reducible assumption | intro _ | with_reducible apply apart_whenAwake | with_reducible apply apart_at
    | with_reducible apply apart_issueAttest | with_reducible apply Apart.ite | with_reducible apply Apart.foldl | split | simp only [Apart.upd]

theorem apart_execAttestEnrol {org s : State} (hz : Apart org s) (m : Master) (token : Byte) (dest : Word64) (n : Word32) (nonce : List Byte) (t : Nat) : ∃ u, execAttestEnrol m token dest n nonce t s = .next u ∧ Apart org u := by
  unfold execAttestEnrol
  refine ⟨_, rfl, ?_⟩
  try dsimp only
  repeat' first
    | with_reducible assumption | intro _ | with_reducible apply apart_whenAwake | with_reducible apply apart_at
    | with_reducible apply apart_issueAttest | with_reducible apply Apart.ite | with_reducible apply Apart.foldl | split | simp only [Apart.upd]

theorem apart_execCmdArgReadDone {org s : State} (hz : Apart org s) (m : Master) (block : List Byte) (t : Nat) : ∃ u, execCmdArgReadDone m block t s = .next u ∧ Apart org u := by
  unfold execCmdArgReadDone
  refine ⟨_, rfl, ?_⟩
  try dsimp only
  repeat' first
    | with_reducible assumption | intro _ | with_reducible apply apart_whenAwake | with_reducible apply apart_at | with_reducible apply apart_argRead
    | with_reducible apply Apart.ite | with_reducible apply Apart.foldl | split | simp only [Apart.upd]

theorem apart_execCmdArgReadTimeout {org s : State} (hz : Apart org s) (m : Master) (t : Nat) : ∃ u, execCmdArgReadTimeout m t s = .next u ∧ Apart org u := by
  unfold execCmdArgReadTimeout
  refine ⟨_, rfl, ?_⟩
  try dsimp only
  repeat' first
    | with_reducible assumption | intro _ | with_reducible apply apart_whenAwake | with_reducible apply apart_at | with_reducible apply apart_argRead
    | with_reducible apply Apart.ite | with_reducible apply Apart.foldl | split | simp only [Apart.upd]

end Sys2Proof.Machine
end

