-- ==== Sys2Proof/Laws/ApartCsr.lean ====
section
/-! SUPPORT. Definitions of Machine/Csr.lean that leave the memory, the Islets and the buoys alone (`Apart`). -/
namespace Sys2Proof.Machine

theorem apart_csrRead {org s : State} (hz : Apart org s) (m : Master) (o : Nat) : Apart org (State.csrRead s m o).2 := by
  unfold State.csrRead
  try dsimp only
  repeat' first
    | with_reducible assumption | intro _ | with_reducible apply apart_setReg | with_reducible apply apart_latchTb | with_reducible apply Apart.ite
    | with_reducible apply Apart.foldl | with_reducible apply Apart.iteFst | with_reducible apply Apart.iteSnd | split | simp only [Apart.upd]

theorem apart_relayEnd {org s : State} (hz : Apart org s) (result : Nat) : Apart org (State.relayEnd s result) := by
  unfold State.relayEnd
  try dsimp only
  repeat' first
    | with_reducible assumption | intro _ | with_reducible apply apart_setFld | with_reducible apply Apart.ite | with_reducible apply Apart.foldl
    | split | simp only [Apart.upd]

theorem apart_relay {org s : State} (hz : Apart org s) (isWrite : Bool) : Apart org (State.relay s isWrite) := by
  unfold State.relay
  try dsimp only
  repeat' first
    | with_reducible assumption | intro _ | with_reducible apply apart_relayEnd | with_reducible apply apart_setFld
    | with_reducible apply apart_sendRequest | with_reducible apply Apart.ite | with_reducible apply Apart.foldl | split | simp only [Apart.upd]

theorem apart_chainTest {org s : State} (hz : Apart org s) (v : Nat) : Apart org (State.chainTest s v) := by
  unfold State.chainTest
  try dsimp only
  repeat' first
    | with_reducible assumption | intro _ | with_reducible apply apart_setReg | with_reducible apply apart_retrain | with_reducible apply Apart.ite
    | with_reducible apply Apart.foldl | split | simp only [Apart.upd]

theorem apart_otpProg {org s : State} (hz : Apart org s) (target : Nat) (ok : Bool) : Apart org (State.otpProg s target ok) := by
  unfold State.otpProg
  try dsimp only
  repeat' first
    | with_reducible assumption | intro _ | with_reducible apply apart_otpHash | with_reducible apply apart_otpVendor | with_reducible apply Apart.ite
    | with_reducible apply Apart.foldl | split | simp only [Apart.upd]

theorem apart_pbaFlush {org s : State} (hz : Apart org s) : Apart org (State.pbaFlush s) := by
  unfold State.pbaFlush
  try dsimp only
  repeat' first
    | with_reducible assumption | intro _ | with_reducible apply apart_setReg | with_reducible apply apart_msixWrite | with_reducible apply Apart.ite
    | with_reducible apply Apart.foldl | split | simp only [Apart.upd]

theorem apart_execCsrOddAccess {org s : State} (hz : Apart org s) (isRead : Bool) : ∃ u, execCsrOddAccess isRead s = .next u ∧ Apart org u := by
  unfold execCsrOddAccess
  refine ⟨_, rfl, ?_⟩
  try dsimp only
  repeat' first
    | with_reducible assumption | intro _ | with_reducible apply apart_whenAwake | with_reducible apply apart_emit | with_reducible apply Apart.ite
    | with_reducible apply Apart.foldl | split | simp only [Apart.upd]

theorem apart_csrAnswer {org s : State} (hz : Apart org s) (m : Master) (o : Nat) : Apart org (State.csrAnswer s m o) := by
  unfold State.csrAnswer
  try dsimp only
  repeat' first
    | with_reducible assumption | intro _ | with_reducible apply apart_csrRead | with_reducible apply apart_emit | with_reducible apply Apart.ite
    | with_reducible apply Apart.foldl | with_reducible apply Apart.iteFst | with_reducible apply Apart.iteSnd | split | simp only [Apart.upd]

theorem apart_execGlbEpochLoRead {org s : State} (hz : Apart org s) (m : Master) : ∃ u, execGlbEpochLoRead m s = .next u ∧ Apart org u := by
  unfold execGlbEpochLoRead
  refine ⟨_, rfl, ?_⟩
  try dsimp only
  repeat' first
    | with_reducible assumption | intro _ | with_reducible apply apart_whenAwake | with_reducible apply apart_csrAnswer
    | with_reducible apply Apart.ite | with_reducible apply Apart.foldl | split | simp only [Apart.upd]

theorem apart_execIntegratorKeyHash {org s : State} (hz : Apart org s) (ok : Bool) : ∃ u, execIntegratorKeyHash ok s = .next u ∧ Apart org u := by
  unfold execIntegratorKeyHash
  refine ⟨_, rfl, ?_⟩
  try dsimp only
  repeat' first
    | with_reducible assumption | intro _ | with_reducible apply apart_whenAwake | with_reducible apply apart_otpProg | with_reducible apply Apart.ite
    | with_reducible apply Apart.foldl | split | simp only [Apart.upd]

theorem apart_execVendorDisable {org s : State} (hz : Apart org s) : ∃ u, execVendorDisable s = .next u ∧ Apart org u := by
  unfold execVendorDisable
  refine ⟨_, rfl, ?_⟩
  try dsimp only
  repeat' first
    | with_reducible assumption | intro _ | with_reducible apply apart_whenAwake | with_reducible apply apart_otpProg | with_reducible apply Apart.ite
    | with_reducible apply Apart.foldl | split | simp only [Apart.upd]

theorem apart_execNearLoopback {org s : State} (hz : Apart org s) (p : Fin 2) : ∃ u, execNearLoopback p s = .next u ∧ Apart org u := by
  unfold execNearLoopback
  refine ⟨_, rfl, ?_⟩
  try dsimp only
  repeat' first
    | with_reducible assumption | intro _ | with_reducible apply apart_whenAwake | with_reducible apply apart_chainTest
    | with_reducible apply Apart.ite | with_reducible apply Apart.foldl | split | simp only [Apart.upd]

theorem apart_execFarLoopback {org s : State} (hz : Apart org s) (p : Fin 2) : ∃ u, execFarLoopback p s = .next u ∧ Apart org u := by
  unfold execFarLoopback
  refine ⟨_, rfl, ?_⟩
  try dsimp only
  repeat' first
    | with_reducible assumption | intro _ | with_reducible apply apart_whenAwake | with_reducible apply apart_chainTest
    | with_reducible apply Apart.ite | with_reducible apply Apart.foldl | split | simp only [Apart.upd]

theorem apart_prbs {org s : State} (hz : Apart org s) (p : Nat) (errs : List Word32) : Apart org (State.prbs s p errs) := by
  unfold State.prbs
  try dsimp only
  repeat' first
    | with_reducible assumption | intro _ | with_reducible apply apart_chainTest | with_reducible apply apart_addTo | with_reducible apply Apart.ite
    | with_reducible apply Apart.foldl | with_reducible apply Apart.iteFst | with_reducible apply Apart.iteSnd | split | simp only [Apart.upd]

theorem apart_execPrbs31 {org s : State} (hz : Apart org s) (p : Fin 2) (e0 : Word32) (e1 : Word32) (e2 : Word32) (e3 : Word32) : ∃ u, execPrbs31 p e0 e1 e2 e3 s = .next u ∧ Apart org u := by
  unfold execPrbs31
  refine ⟨_, rfl, ?_⟩
  try dsimp only
  repeat' first
    | with_reducible assumption | intro _ | with_reducible apply apart_whenAwake | with_reducible apply apart_prbs | with_reducible apply Apart.ite
    | with_reducible apply Apart.foldl | split | simp only [Apart.upd]

theorem apart_execChainTestOff {org s : State} (hz : Apart org s) (p : Fin 2) : ∃ u, execChainTestOff p s = .next u ∧ Apart org u := by
  unfold execChainTestOff
  refine ⟨_, rfl, ?_⟩
  try dsimp only
  repeat' first
    | with_reducible assumption | intro _ | with_reducible apply apart_whenAwake | with_reducible apply apart_chainTest
    | with_reducible apply Apart.ite | with_reducible apply Apart.foldl | split | simp only [Apart.upd]

end Sys2Proof.Machine
end

