-- ==== Sys2Proof/Laws/ApartPeer.lean ====
section
/-! SUPPORT. Definitions of Machine/Peer.lean that leave the memory, the Islets and the buoys alone (`Apart`). -/
namespace Sys2Proof.Machine

theorem apart_execReadyRepeat {org s : State} (hz : Apart org s) (t : Nat) : ∃ u, execReadyRepeat t s = .next u ∧ Apart org u := by
  unfold execReadyRepeat
  refine ⟨_, rfl, ?_⟩
  try dsimp only
  repeat' first
    | with_reducible assumption | intro _ | with_reducible apply apart_whenAwake | with_reducible apply apart_at
    | with_reducible apply apart_readyAgain | with_reducible apply Apart.ite | with_reducible apply Apart.foldl | split | simp only [Apart.upd]

theorem apart_execEnumTimeout {org s : State} (hz : Apart org s) (t : Nat) : ∃ u, execEnumTimeout t s = .next u ∧ Apart org u := by
  unfold execEnumTimeout
  refine ⟨_, rfl, ?_⟩
  try dsimp only
  repeat' first
    | with_reducible assumption | intro _ | with_reducible apply apart_whenAwake | with_reducible apply apart_at
    | with_reducible apply apart_enumTimeout | with_reducible apply Apart.ite | with_reducible apply Apart.foldl | split | simp only [Apart.upd]

theorem apart_execEnumEndTimeout {org s : State} (hz : Apart org s) (t : Nat) : ∃ u, execEnumEndTimeout t s = .next u ∧ Apart org u := by
  unfold execEnumEndTimeout
  refine ⟨_, rfl, ?_⟩
  try dsimp only
  repeat' first
    | with_reducible assumption | intro _ | with_reducible apply apart_whenAwake | with_reducible apply apart_at
    | with_reducible apply apart_enumEndTimeout | with_reducible apply Apart.ite | with_reducible apply Apart.foldl | split | simp only [Apart.upd]

theorem apart_execLinkNak {org s : State} (hz : Apart org s) (p : Fin 2) (ack : BitVec 12) : ∃ u, execLinkNak p ack s = .next u ∧ Apart org u := by
  unfold execLinkNak
  refine ⟨_, rfl, ?_⟩
  try dsimp only
  repeat' first
    | with_reducible assumption | intro _ | with_reducible apply apart_whenAwake | with_reducible apply apart_nak | with_reducible apply Apart.ite
    | with_reducible apply Apart.foldl | split | simp only [Apart.upd]

theorem apart_execLinkCredit {org s : State} (hz : Apart org s) (p : Fin 2) (c0 : BitVec 16) (c1 : BitVec 16) (c2 : BitVec 16) : ∃ u, execLinkCredit p c0 c1 c2 s = .next u ∧ Apart org u := by
  unfold execLinkCredit
  refine ⟨_, rfl, ?_⟩
  try dsimp only
  repeat' first
    | with_reducible assumption | intro _ | with_reducible apply apart_whenAwake | with_reducible apply apart_addCredits
    | with_reducible apply Apart.ite | with_reducible apply Apart.foldl | split | simp only [Apart.upd]

theorem apart_execLinkRetrain {org s : State} (hz : Apart org s) (p : Fin 2) (t : Nat) : ∃ u, execLinkRetrain p t s = .next u ∧ Apart org u := by
  unfold execLinkRetrain
  refine ⟨_, rfl, ?_⟩
  try dsimp only
  repeat' first
    | with_reducible assumption | intro _ | with_reducible apply apart_whenAwake | with_reducible apply apart_at | with_reducible apply apart_lockLost
    | with_reducible apply Apart.ite | with_reducible apply Apart.foldl | split | simp only [Apart.upd]

theorem apart_execLinkRetryTimer {org s : State} (hz : Apart org s) (p : Fin 2) (t : Nat) : ∃ u, execLinkRetryTimer p t s = .next u ∧ Apart org u := by
  unfold execLinkRetryTimer
  refine ⟨_, rfl, ?_⟩
  try dsimp only
  repeat' first
    | with_reducible assumption | intro _ | with_reducible apply apart_whenAwake | with_reducible apply apart_at
    | with_reducible apply apart_retryPort | with_reducible apply Apart.ite | with_reducible apply Apart.foldl | split | simp only [Apart.upd]

end Sys2Proof.Machine
end

