-- ==== Sys2Proof/Laws/ApartHostLink.lean ====
section
/-! SUPPORT. Definitions of Machine/HostLink.lean that leave the memory, the Islets and the buoys alone (`Apart`). -/
namespace Sys2Proof.Machine

theorem apart_mastersStop {org s : State} (hz : Apart org s) : Apart org (State.mastersStop s) := by
  unfold State.mastersStop
  try dsimp only
  repeat' first
    | with_reducible assumption | intro _ | with_reducible apply apart_setBank | with_reducible apply Apart.ite | with_reducible apply Apart.foldl
    | with_reducible refine Apart.ofSnd (by assumption) ?_ | with_reducible refine Apart.ofFst (by assumption) ?_ | split | simp only [Apart.upd]

theorem apart_configClear {org s : State} (hz : Apart org s) : Apart org (State.configClear s) := by
  unfold State.configClear
  try dsimp only
  repeat' first
    | with_reducible assumption | intro _ | with_reducible apply apart_setFld | with_reducible apply apart_mastersStop
    | with_reducible apply Apart.ite | with_reducible apply Apart.foldl | split | simp only [Apart.upd]

theorem apart_hostDown {org s : State} (hz : Apart org s) : Apart org (State.hostDown s) := by
  unfold State.hostDown
  try dsimp only
  repeat' first
    | with_reducible assumption | intro _ | with_reducible apply apart_configClear | with_reducible apply apart_setReg
    | with_reducible apply apart_linkWidth | with_reducible apply apart_inc | with_reducible apply apart_raise | with_reducible apply Apart.ite
    | with_reducible apply Apart.foldl | split | simp only [Apart.upd]

theorem apart_hostLinkUp {org s : State} (hz : Apart org s) (speed : Nat) (width : Nat) : Apart org (State.hostLinkUp s speed width) := by
  unfold State.hostLinkUp
  try dsimp only
  repeat' first
    | with_reducible assumption | intro _ | with_reducible apply apart_setReg | with_reducible apply apart_linkWidth
    | with_reducible apply apart_raise | with_reducible apply Apart.ite | with_reducible apply Apart.foldl | split | simp only [Apart.upd]

theorem apart_perst {org s : State} (hz : Apart org s) (high : Bool) (refclk : Bool) : Apart org (State.perst s high refclk) := by
  unfold State.perst
  try dsimp only
  repeat' first
    | with_reducible assumption | intro _ | with_reducible apply apart_hostDown | with_reducible apply Apart.ite | with_reducible apply Apart.foldl
    | split | simp only [Apart.upd]

theorem apart_configRequest {org s0 : State} (hz : Apart org s0) (msix : Option Bool) (mask : Option Bool) (bme : Option Bool) (rd : Option ConfigId) : Apart org (State.configRequest s0 msix mask bme rd) := by
  unfold State.configRequest
  try dsimp only
  repeat' first
    | with_reducible assumption | intro _ | with_reducible apply apart_emit | with_reducible apply apart_setFld
    | with_reducible apply apart_mastersStop | with_reducible apply apart_pbaFlush | with_reducible apply Apart.ite | with_reducible apply Apart.foldl
    | with_reducible refine Apart.ofSnd (by assumption) ?_ | with_reducible refine Apart.ofFst (by assumption) ?_ | split | simp only [Apart.upd]

theorem apart_regDefault {org s : State} (hz : Apart org s) (o : Nat) : Apart org (State.regDefault s o) := by
  unfold State.regDefault
  try dsimp only
  repeat' first
    | with_reducible assumption | intro _ | with_reducible apply apart_setReg | with_reducible apply Apart.ite | with_reducible apply Apart.foldl
    | split | simp only [Apart.upd]

theorem apart_flr {org s : State} (hz : Apart org s) : Apart org (State.flr s) := by
  unfold State.flr
  try dsimp only
  repeat' first
    | with_reducible assumption | intro _ | with_reducible apply apart_configClear | with_reducible apply apart_forget
    | with_reducible apply apart_relay | with_reducible apply apart_regDefault | with_reducible apply apart_setBank | with_reducible apply apart_inc
    | with_reducible apply apart_raise | with_reducible apply Apart.ite | with_reducible apply Apart.foldl | split | simp only [Apart.upd]

theorem apart_execPerst {org s : State} (hz : Apart org s) (high : Bool) (refclk : Bool) : ∃ u, execPerst high refclk s = .next u ∧ Apart org u := by
  unfold execPerst
  refine ⟨_, rfl, ?_⟩
  try dsimp only
  repeat' first
    | with_reducible assumption | intro _ | with_reducible apply apart_perst | with_reducible apply Apart.ite | with_reducible apply Apart.foldl
    | split | simp only [Apart.upd]

theorem apart_execPcieLinkDown {org s : State} (hz : Apart org s) : ∃ u, execPcieLinkDown s = .next u ∧ Apart org u := by
  unfold execPcieLinkDown
  refine ⟨_, rfl, ?_⟩
  try dsimp only
  repeat' first
    | with_reducible assumption | intro _ | with_reducible apply apart_whenAwake | with_reducible apply apart_hostDown
    | with_reducible apply Apart.ite | with_reducible apply Apart.foldl | split | simp only [Apart.upd]

theorem apart_execPcieLinkUp {org s : State} (hz : Apart org s) (speed : BitVec 4) (width : BitVec 4) : ∃ u, execPcieLinkUp speed width s = .next u ∧ Apart org u := by
  unfold execPcieLinkUp
  refine ⟨_, rfl, ?_⟩
  try dsimp only
  repeat' first
    | with_reducible assumption | intro _ | with_reducible apply apart_whenAwake | with_reducible apply apart_hostLinkUp
    | with_reducible apply Apart.ite | with_reducible apply Apart.foldl | split | simp only [Apart.upd]

theorem apart_execFunctionLevelReset {org s : State} (hz : Apart org s) : ∃ u, execFunctionLevelReset s = .next u ∧ Apart org u := by
  unfold execFunctionLevelReset
  refine ⟨_, rfl, ?_⟩
  try dsimp only
  repeat' first
    | with_reducible assumption | intro _ | with_reducible apply apart_whenAwake | with_reducible apply apart_flr | with_reducible apply Apart.ite
    | with_reducible apply Apart.foldl | split | simp only [Apart.upd]

theorem apart_execConfigurationRequest {org s : State} (hz : Apart org s) (msix : Option Bool) (mask : Option Bool) (header : HeaderAccess) : ∃ u, execConfigurationRequest msix mask header s = .next u ∧ Apart org u := by
  unfold execConfigurationRequest
  refine ⟨_, rfl, ?_⟩
  try dsimp only
  repeat' first
    | with_reducible assumption | intro _ | with_reducible apply apart_whenAwake | with_reducible apply apart_configRequest
    | with_reducible apply Apart.ite | with_reducible apply Apart.foldl | split | simp only [Apart.upd]

end Sys2Proof.Machine
end

