-- ==== Sys2Proof/Laws/ApartStart.lean ====
section
/-! SUPPORT. Definitions of Machine/Start.lean that leave the memory, the Islets and the buoys alone (`Apart`). -/
namespace Sys2Proof.Machine

theorem apart_pfailRelease {org s : State} (hz : Apart org s) (t : Nat) : Apart org (State.pfailRelease s t) := by
  unfold State.pfailRelease
  try dsimp only
  repeat' first
    | with_reducible assumption | intro _ | with_reducible apply apart_setFld | with_reducible apply apart_setLevel
    | with_reducible apply apart_mapPfailRelease | with_reducible apply Apart.ite | with_reducible apply Apart.foldl | split | simp only [Apart.upd]

theorem apart_execPfailRelease {org s : State} (hz : Apart org s) (t : Nat) : ∃ u, execPfailRelease t s = .next u ∧ Apart org u := by
  unfold execPfailRelease
  refine ⟨_, rfl, ?_⟩
  try dsimp only
  repeat' first
    | with_reducible assumption | intro _ | with_reducible apply apart_at | with_reducible apply apart_pfailRelease | with_reducible apply Apart.ite
    | with_reducible apply Apart.foldl | split | simp only [Apart.upd]

end Sys2Proof.Machine
end

