-- ==== Sys2Proof/Laws/ApartBoundary.lean ====
section
/-! SUPPORT. Definitions of Machine/Boundary.lean that leave the memory, the Islets and the buoys alone (`Apart`). -/
namespace Sys2Proof.Machine

theorem apart_causes {org s : State} (hz : Apart org s) : Apart org (State.causes s) := by
  unfold State.causes
  try dsimp only
  repeat' first
    | with_reducible assumption | intro _ | with_reducible apply apart_eventEntry | with_reducible apply apart_enter | with_reducible apply Apart.ite
    | with_reducible apply Apart.foldl | split | simp only [Apart.upd]

end Sys2Proof.Machine
end

