-- ==== Sys2Proof/Laws/ApartFuseEvents.lean ====
section
/-! SUPPORT. Definitions of Machine/FuseEvents.lean that leave the memory, the Islets and the buoys alone (`Apart`). -/
namespace Sys2Proof.Machine

theorem apart_execSmootherPassStart {org s : State} (hz : Apart org s) (t : Nat) : ∃ u, execSmootherPassStart t s = .next u ∧ Apart org u := by
  unfold execSmootherPassStart
  refine ⟨_, rfl, ?_⟩
  try dsimp only
  repeat' first
    | with_reducible assumption | intro _ | with_reducible apply apart_whenAwake | with_reducible apply apart_at
    | with_reducible apply apart_passStart | with_reducible apply Apart.ite | with_reducible apply Apart.foldl | split | simp only [Apart.upd]

theorem apart_execSmootherPassEnd {org s : State} (hz : Apart org s) (t : Nat) : ∃ u, execSmootherPassEnd t s = .next u ∧ Apart org u := by
  unfold execSmootherPassEnd
  refine ⟨_, rfl, ?_⟩
  try dsimp only
  repeat' first
    | with_reducible assumption | intro _ | with_reducible apply apart_whenAwake | with_reducible apply apart_at | with_reducible apply apart_passEnd
    | with_reducible apply Apart.ite | with_reducible apply Apart.foldl | split | simp only [Apart.upd]

theorem apart_dropout {org s : State} (hz : Apart org s) (b : Nat) : Apart org (State.dropout s b) := by
  unfold State.dropout
  try dsimp only
  repeat' first
    | with_reducible assumption | intro _ | with_reducible apply apart_refreshMask | with_reducible apply Apart.ite | with_reducible apply Apart.foldl
    | split | simp only [Apart.upd]

theorem apart_execSourceDropout {org s : State} (hz : Apart org s) (b : Fin 28) (t : Nat) : ∃ u, execSourceDropout b t s = .next u ∧ Apart org u := by
  unfold execSourceDropout
  refine ⟨_, rfl, ?_⟩
  try dsimp only
  repeat' first
    | with_reducible assumption | intro _ | with_reducible apply apart_whenAwake | with_reducible apply apart_at | with_reducible apply apart_dropout
    | with_reducible apply Apart.ite | with_reducible apply Apart.foldl | split | simp only [Apart.upd]

theorem apart_execOptimisationStart {org s : State} (hz : Apart org s) (t : Nat) : ∃ u, execOptimisationStart t s = .next u ∧ Apart org u := by
  unfold execOptimisationStart
  refine ⟨_, rfl, ?_⟩
  try dsimp only
  repeat' first
    | with_reducible assumption | intro _ | with_reducible apply apart_whenAwake | with_reducible apply apart_at | with_reducible apply apart_startOpt
    | with_reducible apply Apart.ite | with_reducible apply Apart.foldl | split | simp only [Apart.upd]

end Sys2Proof.Machine
end

