-- ==== Sys2Proof/Laws/ApartMapEvents.lean ====
section
/-! SUPPORT. Definitions of Machine/MapEvents.lean that leave the memory, the Islets and the buoys alone (`Apart`). -/
namespace Sys2Proof.Machine

theorem apart_execPatrolRead {org s : State} (hz : Apart org s) (p : Nat) (t : Nat) : ∃ u, execPatrolRead p t s = .next u ∧ Apart org u := by
  unfold execPatrolRead
  refine ⟨_, rfl, ?_⟩
  try dsimp only
  repeat' first
    | with_reducible assumption | intro _ | with_reducible apply apart_whenAwake | with_reducible apply apart_at | with_reducible apply apart_patrol
    | with_reducible apply Apart.ite | with_reducible apply Apart.foldl | split | simp only [Apart.upd]

end Sys2Proof.Machine
end

