-- ==== Sys2Proof/Laws/ApartReefEvents.lean ====
section
/-! SUPPORT. Definitions of Machine/ReefEvents.lean that leave the memory, the Islets and the buoys alone (`Apart`). -/
namespace Sys2Proof.Machine

theorem apart_execUpdaterResume {org s : State} (hz : Apart org s) : ∃ u, execUpdaterResume s = .next u ∧ Apart org u := by
  unfold execUpdaterResume
  refine ⟨_, rfl, ?_⟩
  try dsimp only
  repeat' first
    | with_reducible assumption | intro _ | with_reducible apply apart_whenAwake | with_reducible apply apart_updaterResume
    | with_reducible apply Apart.ite | with_reducible apply Apart.foldl | split | simp only [Apart.upd]

end Sys2Proof.Machine
end

