-- ==== Sys2Proof/Laws/ApartSensorEvents.lean ====
section
/-! SUPPORT. Definitions of Machine/SensorEvents.lean that leave the memory, the Islets and the buoys alone (`Apart`). -/
namespace Sys2Proof.Machine

theorem apart_execLongPacket {org s : State} (hz : Apart org s) (n : Fin 16) (vc : Fin 4) (dtype : Byte) (headerOk : Bool) (crcOk : Bool) (payload : List Byte) (t : Nat) : ∃ u, execLongPacket n vc dtype headerOk crcOk payload t s = .next u ∧ Apart org u := by
  unfold execLongPacket
  refine ⟨_, rfl, ?_⟩
  try dsimp only
  repeat' first
    | with_reducible assumption | intro _ | with_reducible apply apart_whenAwake | with_reducible apply apart_at
    | with_reducible apply apart_longPacket | with_reducible apply apart_refreshMask | with_reducible apply Apart.ite
    | with_reducible apply Apart.foldl | split | simp only [Apart.upd]

theorem apart_execPpsEdge {org s : State} (hz : Apart org s) (falling : Bool) (t : Nat) : ∃ u, execPpsEdge falling t s = .next u ∧ Apart org u := by
  unfold execPpsEdge
  refine ⟨_, rfl, ?_⟩
  try dsimp only
  repeat' first
    | with_reducible assumption | intro _ | with_reducible apply apart_whenAwake | with_reducible apply apart_at | with_reducible apply apart_ppsEdge
    | with_reducible apply apart_refreshMask | with_reducible apply Apart.ite | with_reducible apply Apart.foldl | split | simp only [Apart.upd]

theorem apart_execNmeaSentence {org s : State} (hz : Apart org s) (n : Nmea) (t : Nat) : ∃ u, execNmeaSentence n t s = .next u ∧ Apart org u := by
  unfold execNmeaSentence
  refine ⟨_, rfl, ?_⟩
  try dsimp only
  repeat' first
    | with_reducible assumption | intro _ | with_reducible apply apart_whenAwake | with_reducible apply apart_at
    | with_reducible apply apart_gnssSentence | with_reducible apply apart_gnssItem | with_reducible apply apart_refreshMask
    | with_reducible apply Apart.ite | with_reducible apply Apart.foldl | split | simp only [Apart.upd]

theorem apart_execImuDrdy {org s : State} (hz : Apart org s) (i : Fin 2) (t : Nat) : ∃ u, execImuDrdy i t s = .next u ∧ Apart org u := by
  unfold execImuDrdy
  refine ⟨_, rfl, ?_⟩
  try dsimp only
  repeat' first
    | with_reducible assumption | intro _ | with_reducible apply apart_whenAwake | with_reducible apply apart_at | with_reducible apply apart_imuDrdy
    | with_reducible apply apart_refreshMask | with_reducible apply Apart.ite | with_reducible apply Apart.foldl | split | simp only [Apart.upd]

theorem apart_burstDone {org s : State} (hz : Apart org s) (i : Nat) (reply : List Byte) : Apart org (State.burstDone s i reply) := by
  unfold State.burstDone
  try dsimp only
  repeat' first
    | with_reducible assumption | intro _ | with_reducible apply apart_imuBurst | with_reducible apply apart_condOuts | with_reducible apply Apart.ite
    | with_reducible apply Apart.foldl | with_reducible apply Apart.iteFst | with_reducible apply Apart.iteSnd | split | simp only [Apart.upd]

theorem apart_execImuBurstDone {org s : State} (hz : Apart org s) (i : Fin 2) (reply : List Byte) (t : Nat) : ∃ u, execImuBurstDone i reply t s = .next u ∧ Apart org u := by
  unfold execImuBurstDone
  refine ⟨_, rfl, ?_⟩
  try dsimp only
  repeat' first
    | with_reducible assumption | intro _ | with_reducible apply apart_whenAwake | with_reducible apply apart_at
    | with_reducible apply apart_burstDone | with_reducible apply Apart.ite | with_reducible apply Apart.foldl | split | simp only [Apart.upd]

theorem apart_execWheelEdge {org s : State} (hz : Apart org s) (k : Fin 8) (level : WheelLevel) (t : Nat) : ∃ u, execWheelEdge k level t s = .next u ∧ Apart org u := by
  unfold execWheelEdge
  refine ⟨_, rfl, ?_⟩
  try dsimp only
  repeat' first
    | with_reducible assumption | intro _ | with_reducible apply apart_whenAwake | with_reducible apply apart_at
    | with_reducible apply apart_wheelEdge | with_reducible apply Apart.ite | with_reducible apply Apart.foldl | split | simp only [Apart.upd]

theorem apart_wheelTick {org s : State} (hz : Apart org s) (t : Nat) : Apart org (State.wheelTick s t) := by
  unfold State.wheelTick
  try dsimp only
  repeat' first
    | with_reducible assumption | intro _ | with_reducible apply apart_wheelSample | with_reducible apply apart_condOuts
    | with_reducible apply Apart.ite | with_reducible apply Apart.foldl | with_reducible apply Apart.iteFst | with_reducible apply Apart.iteSnd
    | split | simp only [Apart.upd]

theorem apart_execWheelSample {org s : State} (hz : Apart org s) (t : Nat) : ∃ u, execWheelSample t s = .next u ∧ Apart org u := by
  unfold execWheelSample
  refine ⟨_, rfl, ?_⟩
  try dsimp only
  repeat' first
    | with_reducible assumption | intro _ | with_reducible apply apart_whenAwake | with_reducible apply apart_at
    | with_reducible apply apart_wheelTick | with_reducible apply Apart.ite | with_reducible apply Apart.foldl | split | simp only [Apart.upd]

theorem apart_canRx {org s : State} (hz : Apart org s) (j : Nat) (id : Nat) (ext : Bool) (good : Bool) (data : List Byte) (t : Nat) : Apart org (State.canRx s j id ext good data t) := by
  unfold State.canRx
  try dsimp only
  repeat' first
    | with_reducible assumption | intro _ | with_reducible apply apart_canFrame | with_reducible apply apart_vehicleSignals
    | with_reducible apply apart_refreshMask | with_reducible apply Apart.ite | with_reducible apply Apart.foldl | with_reducible apply Apart.iteFst
    | with_reducible apply Apart.iteSnd | split | simp only [Apart.upd]

theorem apart_execCanFrame {org s : State} (hz : Apart org s) (j : Fin 4) (id : BitVec 29) (ext : Bool) (body : CanPayload) (t : Nat) : ∃ u, execCanFrame j id ext body t s = .next u ∧ Apart org u := by
  unfold execCanFrame
  refine ⟨_, rfl, ?_⟩
  try dsimp only
  repeat' first
    | with_reducible assumption | intro _ | with_reducible apply apart_whenAwake | with_reducible apply apart_at | with_reducible apply apart_canRx
    | with_reducible apply Apart.ite | with_reducible apply Apart.foldl | split | simp only [Apart.upd]

end Sys2Proof.Machine
end

