-- ==== Sys2Proof/Laws/ApartTapOps.lean ====
section
/-! SUPPORT. Definitions of Machine/TapOps.lean that leave the memory, the Islets and the buoys alone (`Apart`). -/
namespace Sys2Proof.Machine

theorem apart_setTap {org s : State} (hz : Apart org s) (x : Tap) : Apart org (State.setTap s x) := by
  unfold State.setTap
  try dsimp only
  repeat' first
    | with_reducible assumption | intro _ | with_reducible apply Apart.ite | with_reducible apply Apart.foldl | split | simp only [Apart.upd]

theorem apart_bypass {org s : State} (hz : Apart org s) (tdi : List Bool) : Apart org (State.bypass s tdi) := by
  unfold State.bypass
  try dsimp only
  repeat' first
    | with_reducible assumption | intro _ | with_reducible apply apart_setTap | with_reducible apply apart_emit | with_reducible apply Apart.ite
    | with_reducible apply Apart.foldl | split | simp only [Apart.upd]

theorem apart_trst {org s : State} (hz : Apart org s) (low : Bool) : Apart org (State.trst s low) := by
  unfold State.trst
  try dsimp only
  repeat' first
    | with_reducible assumption | intro _ | with_reducible apply apart_setTap | with_reducible apply Apart.ite | with_reducible apply Apart.foldl
    | split | simp only [Apart.upd]

theorem apart_execIdcode {org s : State} (hz : Apart org s) : ∃ u, execIdcode s = .next u ∧ Apart org u := by
  unfold execIdcode
  refine ⟨_, rfl, ?_⟩
  try dsimp only
  repeat' first
    | with_reducible assumption | intro _ | with_reducible apply apart_setTap | with_reducible apply apart_emit | with_reducible apply Apart.ite
    | with_reducible apply Apart.foldl | split | simp only [Apart.upd]

theorem apart_execBypass {org s : State} (hz : Apart org s) (tdi : List Bool) : ∃ u, execBypass tdi s = .next u ∧ Apart org u := by
  unfold execBypass
  refine ⟨_, rfl, ?_⟩
  try dsimp only
  repeat' first
    | with_reducible assumption | intro _ | with_reducible apply apart_bypass | with_reducible apply Apart.ite | with_reducible apply Apart.foldl
    | split | simp only [Apart.upd]

theorem apart_execSamplePreload {org s : State} (hz : Apart org s) (pins : List Bool) (tdi : List Bool) : ∃ u, execSamplePreload pins tdi s = .next u ∧ Apart org u := by
  unfold execSamplePreload
  refine ⟨_, rfl, ?_⟩
  try dsimp only
  repeat' first
    | with_reducible assumption | intro _ | with_reducible apply apart_setTap | with_reducible apply apart_emit | with_reducible apply apart_bypass
    | with_reducible apply Apart.ite | with_reducible apply Apart.foldl | split | simp only [Apart.upd]

theorem apart_execExtest {org s : State} (hz : Apart org s) (pins : List Bool) (tdi : List Bool) : ∃ u, execExtest pins tdi s = .next u ∧ Apart org u := by
  unfold execExtest
  refine ⟨_, rfl, ?_⟩
  try dsimp only
  repeat' first
    | with_reducible assumption | intro _ | with_reducible apply apart_setTap | with_reducible apply apart_emit | with_reducible apply apart_bypass
    | with_reducible apply Apart.ite | with_reducible apply Apart.foldl | split | simp only [Apart.upd]

theorem apart_execTrst {org s : State} (hz : Apart org s) (low : Bool) : ∃ u, execTrst low s = .next u ∧ Apart org u := by
  unfold execTrst
  refine ⟨_, rfl, ?_⟩
  try dsimp only
  repeat' first
    | with_reducible assumption | intro _ | with_reducible apply apart_trst | with_reducible apply Apart.ite | with_reducible apply Apart.foldl
    | split | simp only [Apart.upd]

end Sys2Proof.Machine
end

