-- ==== Sys2Proof/Laws/Bundle.lean ====
section
/-! SUPPORT. What issuing a bundle does: when nothing keeps it, it completes; which registers each slot leaves alone; what the completed
bundle leaves in its destinations (02 R31–R38, R40, R47–R49, R56). -/
namespace Sys2Proof.Machine

variable {s : State} {i : Nat} {b : Bundle}

@[simp] theorem State.islet_setIslet (s : State) (i : Nat) (x : Islet) : (s.setIslet i x).islet i = x := by
  simp [State.islet, State.setIslet]

theorem State.islet_setIslet_ne (s : State) (i j : Nat) (x : Islet) (h : j ≠ i) : (s.setIslet i x).islet j = s.islet j := by
  simp [State.islet, State.setIslet, SMap.get_set_ne _ _ _ _ _ h]

@[simp] theorem State.buoy_setBuoy (s : State) (n : Nat) (y : Buoy) : (s.setBuoy n y).buoy n = y := by
  simp [State.buoy, State.setBuoy]

theorem State.buoy_setBuoy_ne (s : State) (n m : Nat) (y : Buoy) (h : m ≠ n) : (s.setBuoy n y).buoy m = s.buoy m := by
  simp [State.buoy, State.setBuoy, SMap.get_set_ne _ _ _ _ _ h]

@[simp] theorem State.buoy_setIslet (s : State) (i n : Nat) (x : Islet) : (s.setIslet i x).buoy n = s.buoy n := rfl
@[simp] theorem State.islet_setBuoy (s : State) (i n : Nat) (y : Buoy) : (s.setBuoy n y).islet i = s.islet i := rfl

/-- A bundle that nothing keeps completes (R32). -/
theorem tryBundle_ready (h : Ready s i b) : s.tryBundle i (newHeld s i b) = (issued s i b, buoyHit s i b) := by
  have hm := h.met
  have hw := h.unwatched
  unfold State.tryBundle
  simp only [newHeld, h.legal, h.alone, h.preds, h.regs, h.quiet, h.clean, h.drained, Bool.false_eq_true, if_false, Option.isSome_none,
    Bool.not_false, Bool.true_and, Bool.or_false, List.foldl_nil]
  rw [if_neg (by simpa using h.room), if_neg (by simpa using h.credit), if_neg]
  · simp only [newHeld] at hm
    rw [hm]
    rfl
  · intro hc
    simp only [Bool.and_eq_true, Bool.not_eq_true'] at hc
    exact absurd (hw hc.2) (by simp [hc.1])

@[simp] theorem State.touch_islets (s : State) (id n : Nat) (l : List Nat) : (s.touch id n l).islets = s.islets := by
  unfold State.touch
  split <;> rfl

/-- A fetch changes nothing of its Islet but the instruction cache (R64). -/
theorem fetched_islet (s : State) (i : Nat) : ∃ f ic bad, (fetched s i).islet i = { s.islet i with fetching := f, icache := ic, icacheBad := bad } := by
  unfold fetched State.fetch
  dsimp only
  split
  · exact ⟨_, _, _, rfl⟩
  · split
    · exact ⟨_, _, _, by rw [State.islet, State.touch_islets]; exact State.islet_setIslet ..⟩
    · exact ⟨_, _, _, State.islet_setIslet ..⟩

/-- A fetch changes nothing beside its Islet but what the touch of the object changes (R64). -/
theorem fetched_rest (s : State) (i : Nat) : (fetched s i).asleep = s.asleep ∧ (fetched s i).pwr = s.pwr ∧ (fetched s i).dev.state = s.dev.state := by
  unfold fetched State.fetch
  dsimp only
  split
  · exact ⟨rfl, rfl, rfl⟩
  · unfold State.touch
    split
    · split <;> exact ⟨rfl, rfl, rfl⟩
    · exact ⟨rfl, rfl, rfl⟩

/-- Issuing it (R32, R56, R64). -/
theorem issue_ready (o : Option Bundle) (hf : Fetches s i) (ho : b = o.getD (decodeRest (splitBundle (s.fetch i).1)))
    (h : Ready (fetched s i) i b) : s.issue i o = wakeOf (issued (fetched s i) i b, buoyHit (fetched s i) i b) := by
  obtain ⟨f, ic, bad, hx⟩ := fetched_islet s i
  obtain ⟨ha, hp, hd⟩ := fetched_rest s i
  have hm : s.canIssue i = true := by
    have := h.may
    simp only [State.canIssue, hx, ha, hp, hd] at this ⊢
    exact this
  have hs : (s.islet i).held = none := by have := h.single; rwa [hx] at this
  have hb : (s.islet i).atBreak = true → (s.islet i).passBp = true := by have := h.noBreak; rwa [hx] at this
  have hc : (s.islet i).cycle = ((fetched s i).islet i).cycle := by rw [hx]
  unfold State.issue
  dsimp only
  rw [if_pos ⟨hm, by simp [hs]⟩, if_neg, if_neg (by simp [hf.1]), hf.2, hc, ← ho]
  · exact congrArg wakeOf (tryBundle_ready h)
  · intro hk
    exact absurd (hb hk.1) (by simpa using hk.2)


/-! Reads after writes of the register files. -/

theorem Islet.gr_setG (x : Islet) (n m : Nat) (v : Word64) :
    (x.setG n v).gr m = if m = 0 then 0 else if m = n then v else x.gr m := by
  unfold Islet.gr Islet.setG
  by_cases hm : m = 0
  · simp [hm]
  · by_cases hn : n = 0
    · simp [hm, hn]
    · simp only [hm, hn, if_false, SMap.get_set]

theorem Islet.pr_setP (x : Islet) (n m : Nat) (v : Word64) :
    (x.setP n v).pr m = if m = 0 then BitVec.allOnes 64 else if m = n then v else x.pr m := by
  unfold Islet.pr Islet.setP
  by_cases hm : m = 0
  · simp [hm]
  · by_cases hn : n = 0
    · simp [hm, hn]
    · simp only [hm, hn, if_false, SMap.get_set]

theorem Islet.gr_setG_self (x : Islet) (n : Nat) (v : Word64) (h : n ≠ 0) : (x.setG n v).gr n = v := by
  rw [Islet.gr_setG, if_neg h, if_pos rfl]

theorem Islet.pr_setP_self (x : Islet) (n : Nat) (v : Word64) (h : n ≠ 0) : (x.setP n v).pr n = v := by
  rw [Islet.pr_setP, if_neg h, if_pos rfl]

theorem Islet.vr_setV (x : Islet) (n m : Nat) (v : VReg) : (x.setV n v).vr m = if m = n then v else x.vr m := by
  simp [Islet.vr, Islet.setV, SMap.get_set]

theorem Islet.tr_setT (x : Islet) (n m : Nat) (v : Acc) : (x.setT n v).tr m = if m = n then v else x.tr m := by
  simp [Islet.tr, Islet.setT, SMap.get_set]

theorem Islet.setG_v (x : Islet) (n : Nat) (w : Word64) : (x.setG n w).v = x.v := by unfold Islet.setG; split <;> rfl
theorem Islet.setG_t (x : Islet) (n : Nat) (w : Word64) : (x.setG n w).t = x.t := by unfold Islet.setG; split <;> rfl
theorem Islet.setG_p (x : Islet) (n : Nat) (w : Word64) : (x.setG n w).p = x.p := by unfold Islet.setG; split <;> rfl
theorem Islet.setP_g (x : Islet) (n : Nat) (w : Word64) : (x.setP n w).g = x.g := by unfold Islet.setP; split <;> rfl
theorem Islet.setP_v (x : Islet) (n : Nat) (w : Word64) : (x.setP n w).v = x.v := by unfold Islet.setP; split <;> rfl
theorem Islet.setP_t (x : Islet) (n : Nat) (w : Word64) : (x.setP n w).t = x.t := by unfold Islet.setP; split <;> rfl

/-- The four register files of an Islet agree away from the registers of `l` (keys of R33). -/
def FilesKept (l : List Nat) (x y : Islet) : Prop :=
  (∀ n, n < 32 → keyG n ∉ l ∨ n = 0 → y.gr n = x.gr n) ∧ (∀ n, n < 32 → keyV n ∉ l → y.vr n = x.vr n) ∧
  (∀ n, n < 8 → keyT n ∉ l → y.tr n = x.tr n) ∧ (∀ n, n < 8 → keyP n ∉ l ∨ n = 0 → y.pr n = x.pr n)

theorem FilesKept.of_eq {l : List Nat} {x y : Islet} (hg : y.g = x.g) (hv : y.v = x.v) (ht : y.t = x.t) (hp : y.p = x.p) : FilesKept l x y := by
  simp [FilesKept, Islet.gr, Islet.vr, Islet.tr, Islet.pr, hg, hv, ht, hp]

theorem FilesKept.refl (l : List Nat) (x : Islet) : FilesKept l x x := .of_eq rfl rfl rfl rfl

theorem FilesKept.trans {l m : List Nat} {x y z : Islet} (h : FilesKept l x y) (k : FilesKept m y z) : FilesKept (l ++ m) x z := by
  obtain ⟨h1, h2, h3, h4⟩ := h
  obtain ⟨k1, k2, k3, k4⟩ := k
  simp only [FilesKept, List.mem_append, not_or]
  refine ⟨fun n hn hl => ?_, fun n hn hl => (k2 n hn hl.2).trans (h2 n hn hl.1), fun n hn hl => (k3 n hn hl.2).trans (h3 n hn hl.1), fun n hn hl => ?_⟩
  · rw [k1 n hn (hl.imp And.right id), h1 n hn (hl.imp And.left id)]
  · rw [k4 n hn (hl.imp And.right id), h4 n hn (hl.imp And.left id)]

theorem FilesKept.setG (x : Islet) (n : Nat) (w : Word64) : FilesKept [keyG n] x (x.setG n w) := by
  refine ⟨fun m _ hl => ?_, fun m _ _ => ?_, fun m _ _ => ?_, fun m _ _ => ?_⟩
  · rw [Islet.gr_setG]
    rcases hl with hl | rfl
    · simp only [keyG, List.mem_singleton] at hl
      by_cases h0 : m = 0
      · simp [h0, Islet.gr]
      · simp [h0, hl]
    · simp [Islet.gr]
  · simp [Islet.vr, Islet.setG_v]
  · simp [Islet.tr, Islet.setG_t]
  · simp [Islet.pr, Islet.setG_p]

theorem FilesKept.setP (x : Islet) (n : Nat) (w : Word64) : FilesKept [keyP n] x (x.setP n w) := by
  refine ⟨fun m _ _ => ?_, fun m _ _ => ?_, fun m _ _ => ?_, fun m _ hl => ?_⟩
  · simp [Islet.gr, Islet.setP_g]
  · simp [Islet.vr, Islet.setP_v]
  · simp [Islet.tr, Islet.setP_t]
  · rw [Islet.pr_setP]
    rcases hl with hl | rfl
    · simp only [keyP, List.mem_singleton] at hl
      by_cases h0 : m = 0
      · simp [h0, Islet.pr]
      · rw [if_neg h0, if_neg (by omega)]
    · simp [Islet.pr]

theorem FilesKept.setV (x : Islet) (n : Nat) (w : VReg) : FilesKept [keyV n] x (x.setV n w) := by
  refine ⟨fun m _ _ => rfl, fun m _ hl => ?_, fun m _ _ => rfl, fun m _ _ => rfl⟩
  simp only [keyV, List.mem_singleton] at hl
  rw [Islet.vr_setV, if_neg (by omega)]

theorem FilesKept.setT (x : Islet) (n : Nat) (w : Acc) : FilesKept [keyT n] x (x.setT n w) := by
  refine ⟨fun m _ _ => rfl, fun m _ _ => rfl, fun m _ hl => ?_, fun m _ _ => rfl⟩
  simp only [keyT, List.mem_singleton] at hl
  rw [Islet.tr_setT, if_neg (by omega)]

theorem FilesKept.mono {l m : List Nat} {x y : Islet} (h : FilesKept l x y) (hs : l ⊆ m) : FilesKept m x y := by
  obtain ⟨h1, h2, h3, h4⟩ := h
  exact ⟨fun n hn hl => h1 n hn (hl.imp (fun k q => k (hs q)) id), fun n hn hl => h2 n hn fun q => hl (hs q),
    fun n hn hl => h3 n hn fun q => hl (hs q), fun n hn hl => h4 n hn (hl.imp (fun k q => k (hs q)) id)⟩

/-- Further fields of the Islet may differ. -/
theorem FilesKept.upd {l : List Nat} {x y : Islet} {f4 : SMap Word64} {f5 : Bool} {f6 : Bool} {f7 : Nat} {f8 : Nat} {f9 : Nat} {f10 : SMap Nat} {f11 : Nat} {f12 : Nat} {f13 : Bool} {f14 : Bool} {f15 : Nat} {f16 : Bool} {f17 : Bool} {f18 : Bool} {f19 : SMap Word32} {f20 : List QLoad} {f21 : List QStore} {f22 : SMap Tow} {f23 : SMap DErr} {f24 : List DErr} {f25 : Nat} {f26 : Option Held} {f27 : List (Nat × BitVec 256)} {f28 : Option Nat} {f29 : List Nat} {f30 : Option Nat} {f31 : Bool} {f32 : Option Assign} {f33 : Nat}
    (h : FilesKept l x y) : FilesKept l x ⟨y.g, y.v, y.t, y.p, f4, f5, f6, f7, f8, f9, f10, f11, f12, f13, f14, f15, f16, f17, f18, f19, f20, f21, f22, f23, f24, f25, f26, f27, f28, f29, f30, f31, f32, f33⟩ := h

theorem Islet.writeLoad_files (x : Islet) (op : MOp) (n k raw : Nat) : FilesKept [op.destKey k] x (x.writeLoad op n k raw) := by
  cases op
  case ld => exact .setG _ _ _
  case ldu => exact .setG _ _ _
  all_goals exact .setV _ _ _

theorem Islet.setC_files (x : Islet) (l : List Nat) (n : Nat) (w : Word64) : FilesKept l x (x.setC n w) := by
  unfold Islet.setC Islet.setCraw
  split
  · exact .refl _ _
  · split <;> exact .of_eq rfl rfl rfl rfl

/-- A scalar slot writes its destination only (R37). -/
theorem doS_files (x0 x : Islet) (i e c : Nat) (sl : SIns) (hl : sl.legal = true) : FilesKept sl.dests x (doS x0 x i e c sl) := by
  obtain ⟨op, a⟩ := sl
  have hp : op.writesPred = true → a.rd.toNat % 8 = a.rd.toNat := by
    intro h
    simp only [SIns.legal, h, Bool.not_true, Bool.false_or, lowReg, Bool.and_eq_true, decide_eq_true_eq] at hl
    exact Nat.mod_eq_of_lt hl.1.2
  unfold doS
  cases op <;> dsimp only <;>
    first
    | exact FilesKept.setG x a.rd.toNat _
    | exact .of_eq rfl rfl rfl rfl
    | exact Islet.setC_files x _ _ _
    | (have h := hp rfl
       exact FilesKept.mono (FilesKept.setP x (a.rd.toNat % 8) _) (by rw [h]; exact fun _ => id))

/-- The load/store slot writes its destination only (R40, R43). -/
theorem doM_files (s : State) (x0 x : Islet) (i c : Nat) (m : MIns) : FilesKept m.dests x (s.doM i x0 x m c).2 := by
  obtain ⟨op, a⟩ := m
  cases op
  case twait => exact FilesKept.setG x a.rd.toNat _
  case tstat => exact FilesKept.setG x a.rd.toNat _
  case ld | ldu | vld | vlds =>
    simp only [State.doM, MOp.isTow, MOp.isLoad, Bool.false_eq_true, if_false, if_true]
    split
    · refine FilesKept.upd (Islet.writeLoad_files x _ a.size.toNat a.rd.toNat _ |>.mono ?_)
      exact fun _ => id
    · exact .of_eq rfl rfl rfl rfl
  case st | vst =>
    simp only [State.doM, MOp.isTow, MOp.isLoad, MOp.isStore, Bool.false_eq_true, if_false, if_true]
    split <;> exact .of_eq rfl rfl rfl rfl
  all_goals exact .of_eq rfl rfl rfl rfl

/-- The vector slot writes its destination only (R47). -/
theorem doV_files (x0 x : Islet) (c : Nat) (v : VIns) : FilesKept v.dests x (doV x0 x v c).1 := by
  obtain ⟨op, a⟩ := v
  unfold doV
  split
  · next op' t hop _ =>
    subst hop
    cases op'
    case vext =>
      exact FilesKept.upd (FilesKept.setG x a.vd.toNat _)
    case vnop => exact .refl _ _
    case vcmpeq | vcmplt | vcmple => exact FilesKept.upd (FilesKept.setP x (a.vd.toNat % 8) _)
    case vmtt => exact FilesKept.upd (FilesKept.setT x (a.vd.toNat % 8) _)
    all_goals exact FilesKept.upd (FilesKept.setV x a.vd.toNat _)
  · exact .refl _ _

/-- The tensor slot writes its destination only (R48, R56). -/
theorem doT_files (s : State) (x0 x : Islet) (i c : Nat) (t : TIns) (got : Word64) : FilesKept t.dests x (s.doT i x0 x t c got).2.1 := by
  obtain ⟨op, a, b⟩ := t
  cases op
  case tmma =>
    simp only [State.doT]
    split
    · exact .refl _ _
    · exact FilesKept.setT x a.td.toNat _
  case tfill => exact FilesKept.setT x a.td.toNat _
  case barv => exact FilesKept.setG x b.rd.toNat _
  case bpoll => exact FilesKept.setG x b.rd.toNat _
  case bwait => exact FilesKept.setG x b.rd.toNat _
  case barr => exact FilesKept.setG x b.rd.toNat _
  all_goals exact .refl _ _

/-- A store in the slot's Islet keeps the register files. -/
theorem FilesKept.setCraw (x : Islet) (n : Nat) (w : Word64) : FilesKept [] x (x.setCraw n w) := .of_eq rfl rfl rfl rfl

theorem advance_files (x0 x : Islet) (p : Option Nat) : FilesKept [] x (advance x0 x p) := by
  unfold advance
  split
  · exact .of_eq rfl rfl rfl rfl
  · split
    · split <;> exact .of_eq rfl rfl rfl rfl
    · exact .of_eq rfl rfl rfl rfl

/-- A halt that is reported changes the unit's record and the two registers that show halts (04 R125). -/
theorem reportHalt_cases (s : State) (i k : Nat) :
    s.reportHalt i k = s ∨ ∃ v us, s.reportHalt i k = { (s.inc R.NET_ISLET_HALTS).setReg R.NET_LAST_FAULT v with units := us } := by
  unfold State.reportHalt
  split
  · exact .inl rfl
  · dsimp only
    split
    · exact .inl rfl
    · exact .inr ⟨_, _, rfl⟩

@[simp] theorem State.reportHalt_islets (s : State) (i k : Nat) : (s.reportHalt i k).islets = s.islets := by
  rcases reportHalt_cases s i k with h | ⟨v, us, h⟩
  · rw [h]
  · rw [h, State.setReg_islets, State.inc_islets]

@[simp] theorem State.islet_reportHalt (s : State) (i j k : Nat) : (s.reportHalt i k).islet j = s.islet j := by simp [State.islet]
@[simp] theorem State.islet_tick (s : State) (j : Nat) : s.tick.islet j = s.islet j := rfl

/-- An exception leaves the register files alone (R34, R61). -/
theorem takeExn_files (s : State) (i p : Nat) (e : Exn) : FilesKept [] (s.islet i) ((s.takeExn i p e).islet i) := by
  unfold State.takeExn
  dsimp only
  split
  · simp only [State.islet_reportHalt, State.islet_setIslet]
    exact .of_eq rfl rfl rfl rfl
  · split
    · simp only [State.islet_reportHalt, State.islet_setIslet]
      exact .of_eq rfl rfl rfl rfl
    · simp only [State.islet_setIslet]
      split <;> exact .of_eq rfl rfl rfl rfl

/-- The end of a bundle leaves the register files alone. -/
theorem finish_files (x : Islet) (b : Bundle) (a : Active) (c : Nat) (f : FpFlags) (t : Bool) : FilesKept [] x (x.finish b a c f t) := by
  unfold Islet.finish Islet.setCraw Islet.ended
  dsimp only
  split <;> split <;> split <;> exact .of_eq rfl rfl rfl rfl

/-- What a completed bundle leaves of the register files is what its slots left. -/
theorem complete_files (s : State) (i : Nat) (b : Bundle) (a : Active) (c : Nat) (got : Word64) :
    FilesKept [] (s.afterT i b a c got).2.1 ((s.complete i b a c got).1.islet i) := by
  unfold State.complete
  dsimp only
  split
  · have h := takeExn_files ((s.afterT i b a c got).1.setIslet i ((s.afterT i b a c got).2.1.finish b a c
      ((s.afterV i b a c).2.2 ||| (s.afterT i b a c got).2.2.1) (takenBy (s.islet i) b a).isSome)) i
    simp only [State.islet_setIslet] at h
    exact (finish_files _ b a c _ _).trans (h _ _)
  · simp only [State.islet_setIslet]
    exact finish_files _ b a c _ _

theorem ite_files {l : List Nat} {x y : Islet} {c : Bool} (h : c = true → FilesKept l x y) : FilesKept (if c then l else []) x (if c then y else x) := by
  cases c
  · exact .refl _ _
  · exact h rfl

theorem afterS0_files (x : Islet) (i e : Nat) (b : Bundle) (a : Active) (c : Nat) (h : b.s0.legal = true) :
    FilesKept (if a.s0 then b.s0.dests else []) x (afterS0 x i e b a c) :=
  (advance_files x x _).trans (ite_files fun _ => doS_files _ _ _ _ _ _ h)

theorem afterS1_files (x : Islet) (i e : Nat) (b : Bundle) (a : Active) (c : Nat) (h : b.s1.legal = true) :
    FilesKept (if a.s1 then b.s1.dests else []) (afterS0 x i e b a c) (afterS1 x i e b a c) :=
  ite_files fun _ => doS_files _ _ _ _ _ _ h

theorem afterM_files (s : State) (i : Nat) (b : Bundle) (a : Active) (c : Nat) :
    FilesKept (if a.m then b.m.dests else []) (afterS1 (s.islet i) i s.dev.epoch b a c) (s.afterM i b a c).2 := by
  have h := ite_files (c := a.m) fun _ => doM_files s (s.islet i) (afterS1 (s.islet i) i s.dev.epoch b a c) i c b.m
  unfold State.afterM
  split <;> simp_all

theorem afterV_files (s : State) (i : Nat) (b : Bundle) (a : Active) (c : Nat) :
    FilesKept (if a.v then b.v.dests else []) (s.afterM i b a c).2 (s.afterV i b a c).2.1 := by
  have h := ite_files (c := a.v) fun _ => doV_files (s.islet i) (s.afterM i b a c).2 c b.v
  unfold State.afterV
  split <;> simp_all

theorem afterT_files (s : State) (i : Nat) (b : Bundle) (a : Active) (c : Nat) (got : Word64) :
    FilesKept (if a.t then b.t.dests else []) (s.afterV i b a c).2.1 (s.afterT i b a c got).2.1 := by
  have h := ite_files (c := a.t) fun _ => doT_files (s.afterV i b a c).1 (s.islet i) (s.afterV i b a c).2.1 i c b.t got
  unfold State.afterT
  split <;> simp_all

theorem legal_slots (h : b.illegal = none) :
    b.s0.legal = true ∧ b.s1.legal = true ∧ b.m.legal = true ∧ b.v.legal = true ∧ b.t.legal = true := by
  unfold Bundle.illegal at h
  split at h
  · cases h
  · split at h
    · cases h
    · split at h
      · cases h
      · split at h
        · cases h
        · split at h
          · cases h
          · simp_all

/-- A completed legal bundle leaves the registers that no running slot names alone (R33, R34). -/
theorem complete_frame (s : State) (i : Nat) (b : Bundle) (a : Active) (c : Nat) (got : Word64) (h : b.illegal = none) :
    FilesKept (b.dests a) (s.islet i) ((s.complete i b a c got).1.islet i) := by
  have hl := legal_slots h
  have := (((((afterS0_files (s.islet i) i s.dev.epoch b a c hl.1).trans (afterS1_files (s.islet i) i s.dev.epoch b a c hl.2.1)).trans
    (afterM_files s i b a c)).trans (afterV_files s i b a c)).trans (afterT_files s i b a c got)).trans (complete_files s i b a c got)
  simpa [Bundle.dests] using this

theorem firstConflict_cons {n : Nat} {seen d : List Nat} {r : List (List Nat)} (h : firstConflict n seen (d :: r) = none) :
    meets d seen = false ∧ (∀ e ∈ r, meets d e = false) ∧ firstConflict (n + 1) (d ++ seen) r = none := by
  unfold firstConflict at h
  split at h
  · cases h
  · simp_all

/-- A counted register of one slot is none of another's (R33). -/
theorem meets_counted {d e : List Nat} (h : meets (counted d) (counted e) = false) {k : Nat} (hd : k ∈ d) (h0 : k ≠ keyG 0) (h1 : k ≠ keyP 0) :
    k ∉ e := by
  intro he
  have : ∀ x ∈ counted d, (counted e).contains x = false := by simpa [meets] using h
  have hk := this k (by simp [counted, hd, h0, h1])
  simp [counted, he, h0, h1] at hk

theorem meets_comm {d e : List Nat} (h : meets d e = false) : meets e d = false := by
  simp only [meets, List.any_eq_false, List.contains_iff_mem] at h ⊢
  exact fun x hx hd => h x hd hx

/-- No register that counts stands in two slots of a legal bundle (R33). -/
theorem alone_slots (h : b.conflict = none) :
    (∀ k ∈ b.s0.dests, k ≠ keyG 0 → k ≠ keyP 0 → k ∉ b.s1.dests ∧ k ∉ b.m.dests ∧ k ∉ b.v.dests ∧ k ∉ b.t.dests) ∧
    (∀ k ∈ b.s1.dests, k ≠ keyG 0 → k ≠ keyP 0 → k ∉ b.s0.dests ∧ k ∉ b.m.dests ∧ k ∉ b.v.dests ∧ k ∉ b.t.dests) ∧
    (∀ k ∈ b.m.dests, k ≠ keyG 0 → k ≠ keyP 0 → k ∉ b.s0.dests ∧ k ∉ b.s1.dests ∧ k ∉ b.v.dests ∧ k ∉ b.t.dests) ∧
    (∀ k ∈ b.v.dests, k ≠ keyG 0 → k ≠ keyP 0 → k ∉ b.s0.dests ∧ k ∉ b.s1.dests ∧ k ∉ b.m.dests ∧ k ∉ b.t.dests) ∧
    (∀ k ∈ b.t.dests, k ≠ keyG 0 → k ≠ keyP 0 → k ∉ b.s0.dests ∧ k ∉ b.s1.dests ∧ k ∉ b.m.dests ∧ k ∉ b.v.dests) := by
  obtain ⟨-, h0, h⟩ := firstConflict_cons h
  obtain ⟨-, h1, h⟩ := firstConflict_cons h
  obtain ⟨-, h2, h⟩ := firstConflict_cons h
  obtain ⟨-, h3, -⟩ := firstConflict_cons h
  simp only [List.mem_cons, List.not_mem_nil, or_false, forall_eq_or_imp, forall_eq] at h0 h1 h2 h3
  obtain ⟨a1, a2, a3, a4⟩ := h0
  obtain ⟨b2, b3, b4⟩ := h1
  obtain ⟨c3, c4⟩ := h2
  have c := @meets_counted
  have m := @meets_comm
  refine ⟨fun k hk p q => ⟨c a1 hk p q, c a2 hk p q, c a3 hk p q, c a4 hk p q⟩,
    fun k hk p q => ⟨c (m a1) hk p q, c b2 hk p q, c b3 hk p q, c b4 hk p q⟩,
    fun k hk p q => ⟨c (m a2) hk p q, c (m b2) hk p q, c c3 hk p q, c c4 hk p q⟩,
    fun k hk p q => ⟨c (m a3) hk p q, c (m b3) hk p q, c (m c3) hk p q, c h3 hk p q⟩,
    fun k hk p q => ⟨c (m a4) hk p q, c (m b4) hk p q, c (m c4) hk p q, c (m h3) hk p q⟩⟩

/-- What follows each slot leaves alone whatever the slots after it do not name. -/
theorem complete_after (s : State) (i : Nat) (b : Bundle) (a : Active) (c : Nat) (got : Word64) (h : b.illegal = none) :
    FilesKept (b.s1.dests ++ b.m.dests ++ b.v.dests ++ b.t.dests) (afterS0 (s.islet i) i s.dev.epoch b a c) ((s.complete i b a c got).1.islet i) ∧
    FilesKept (b.m.dests ++ b.v.dests ++ b.t.dests) (afterS1 (s.islet i) i s.dev.epoch b a c) ((s.complete i b a c got).1.islet i) ∧
    FilesKept (b.v.dests ++ b.t.dests) (s.afterM i b a c).2 ((s.complete i b a c got).1.islet i) ∧
    FilesKept b.t.dests (s.afterV i b a c).2.1 ((s.complete i b a c got).1.islet i) := by
  have hl := legal_slots h
  have h1 := (afterS1_files (s.islet i) i s.dev.epoch b a c hl.2.1).mono (m := b.s1.dests) (by split <;> simp)
  have h2 := (afterM_files s i b a c).mono (m := b.m.dests) (by split <;> simp)
  have h3 := (afterV_files s i b a c).mono (m := b.v.dests) (by split <;> simp)
  have h4 := ((afterT_files s i b a c got).trans (complete_files s i b a c got)).mono (m := b.t.dests) (by split <;> simp)
  exact ⟨((h1.trans h2).trans h3).trans h4, (h2.trans h3).trans h4, h3.trans h4, h4⟩

theorem State.buoyWait_islet (s : State) (i j : Nat) (b : Bundle) (a : Active) (h : Held) : (s.buoyWait i b a h).2.2.1.islet j = s.islet j := by
  unfold State.buoyWait State.addWaiter
  dsimp only
  split
  · rfl
  · split
    · split
      · rfl
      · dsimp only; split <;> rfl
    · split
      · split
        · split <;> rfl
        · split
          · rfl
          · dsimp only; split <;> rfl
      · rfl

theorem State.buoyWait_dev (s : State) (i : Nat) (b : Bundle) (a : Active) (h : Held) : (s.buoyWait i b a h).2.2.1.dev = s.dev := by
  unfold State.buoyWait State.addWaiter
  dsimp only
  split
  · rfl
  · split
    · split
      · rfl
      · dsimp only; split <;> rfl
    · split
      · split
        · split <;> rfl
        · split
          · rfl
          · dsimp only; split <;> rfl
      · rfl

/-- The value a scalar operation that writes g[rd] writes (R37). -/
def scalarValue (x : Islet) (i e c : Nat) (sl : SIns) : Word64 :=
  match sl.op with
  | .call | .callr => BitVec.ofNat 64 (x.pc + 32)
  | .mfc => { x with cycle := c }.cr i e (sl.a.imm.toNat % 16)
  | op => aluResult op (x.gr sl.a.rs1.toNat) (x.gr sl.a.rs2.toNat) (sImm64 sl.a)

theorem doS_gr (x0 x : Islet) (i e c : Nat) (sl : SIns) (h : sl.op.writesG = true) (h0 : sl.a.rd.toNat ≠ 0) :
    (doS x0 x i e c sl).gr sl.a.rd.toNat = scalarValue x0 i e c sl := by
  obtain ⟨op, a⟩ := sl
  cases op <;>
    first
    | (cases h; done)
    | exact Islet.gr_setG_self _ _ _ h0

theorem doS_pr (x0 x : Islet) (i e c : Nat) (sl : SIns) (h : sl.op.writesPred = true) (h0 : sl.a.rd.toNat % 8 ≠ 0) :
    (doS x0 x i e c sl).pr (sl.a.rd.toNat % 8) =
      predResult sl.op (x0.gr sl.a.rs1.toNat) (x0.gr sl.a.rs2.toNat) (x0.pr (sl.a.rs1.toNat % 8)) (x0.pr (sl.a.rs2.toNat % 8)) := by
  obtain ⟨op, a⟩ := sl
  cases op <;>
    first
    | (cases h; done)
    | exact Islet.pr_setP_self _ _ _ h0

theorem keyG_ne {n : Nat} (h : n < 32) (h0 : n ≠ 0) : keyG n ≠ keyG 0 ∧ keyG n ≠ keyP 0 := ⟨h0, by simp only [keyG, keyP]; omega⟩

@[simp] theorem ahead_islet (s : State) (i j : Nat) (b : Bundle) : (ahead s i b).islet j = s.islet j := State.buoyWait_islet ..
@[simp] theorem ahead_dev (s : State) (i : Nat) (b : Bundle) : (ahead s i b).dev = s.dev := State.buoyWait_dev ..

/-- The completed bundle, slot by slot: what each slot left stays, but for what the slots after it name. -/
theorem issued_after (hr : Ready s i b) :
    FilesKept (b.s1.dests ++ b.m.dests ++ b.v.dests ++ b.t.dests)
      (afterS0 (s.islet i) i s.dev.epoch b ((s.islet i).active b) (cycleOf s i b)) ((issued s i b).islet i) ∧
    FilesKept (b.m.dests ++ b.v.dests ++ b.t.dests)
      (afterS1 (s.islet i) i s.dev.epoch b ((s.islet i).active b) (cycleOf s i b)) ((issued s i b).islet i) ∧
    FilesKept (b.v.dests ++ b.t.dests) ((ahead s i b).afterM i b ((s.islet i).active b) (cycleOf s i b)).2 ((issued s i b).islet i) ∧
    FilesKept b.t.dests ((ahead s i b).afterV i b ((s.islet i).active b) (cycleOf s i b)).2.1 ((issued s i b).islet i) ∧
    FilesKept [] ((ahead s i b).afterT i b ((s.islet i).active b) (cycleOf s i b) (observed s i b)).2.1 ((issued s i b).islet i) := by
  have hf := complete_after (ahead s i b) i b ((s.islet i).active b) (cycleOf s i b) (observed s i b) hr.legal
  rw [ahead_islet, ahead_dev] at hf
  exact ⟨hf.1, hf.2.1, hf.2.2.1, hf.2.2.2, complete_files ..⟩

/-- The registers that no running slot names stay (R33, R34). -/
theorem issued_frame (hr : Ready s i b) : FilesKept (b.dests ((s.islet i).active b)) (s.islet i) ((issued s i b).islet i) := by
  have h := complete_frame (ahead s i b) i b ((s.islet i).active b) (cycleOf s i b) (observed s i b) hr.legal
  rwa [ahead_islet] at h

/-- What a scalar slot writes to a g register stands there when the bundle has completed (R32, R33, R37). -/
theorem issued_scalar (hr : Ready s i b) (sl : SIns) (hs : (sl = b.s0 ∧ ((s.islet i).active b).s0 = true) ∨ (sl = b.s1 ∧ ((s.islet i).active b).s1 = true))
    (hw : sl.op.writesG = true) :
    ((issued s i b).islet i).gr sl.a.rd.toNat =
      if sl.a.rd.toNat = 0 then 0 else scalarValue (s.islet i) i s.dev.epoch (cycleOf s i b) sl := by
  by_cases h0 : sl.a.rd.toNat = 0
  · rw [if_pos h0, h0]; rfl
  rw [if_neg h0]
  have hn : sl.a.rd.toNat < 32 := sl.a.rd.isLt
  have hk := keyG_ne hn h0
  have hd : keyG sl.a.rd.toNat ∈ sl.dests := by simp [SIns.dests, hw]
  have hal := alone_slots hr.alone
  have hf := issued_after hr
  rcases hs with ⟨rfl, ha⟩ | ⟨rfl, ha⟩
  · have hne := hal.1 _ hd hk.1 hk.2
    rw [hf.1.1 _ hn (.inl (by simp [hne])), afterS0, if_pos ha]
    exact doS_gr _ _ _ _ _ _ hw h0
  · have hne := hal.2.1 _ hd hk.1 hk.2
    rw [hf.2.1.1 _ hn (.inl (by simp [hne])), afterS1, if_pos ha]
    exact doS_gr _ _ _ _ _ _ hw h0

/-- What slot S0 writes to a predicate stands there when the bundle has completed (R33, R37). -/
theorem issued_predicate (hr : Ready s i b) (ha : ((s.islet i).active b).s0 = true) (hw : b.s0.op.writesPred = true) :
    ((issued s i b).islet i).pr b.s0.a.rd.toNat =
      if b.s0.a.rd.toNat = 0 then BitVec.allOnes 64
      else predResult b.s0.op ((s.islet i).gr b.s0.a.rs1.toNat) ((s.islet i).gr b.s0.a.rs2.toNat) ((s.islet i).pr (b.s0.a.rs1.toNat % 8))
        ((s.islet i).pr (b.s0.a.rs2.toNat % 8)) := by
  have hl := (legal_slots hr.legal).1
  have hn : b.s0.a.rd.toNat < 8 := by
    simp only [SIns.legal, hw, Bool.not_true, Bool.false_or, lowReg, Bool.and_eq_true, decide_eq_true_eq] at hl
    exact hl.1.2
  by_cases h0 : b.s0.a.rd.toNat = 0
  · rw [if_pos h0, h0]; rfl
  rw [if_neg h0]
  have hg : b.s0.op.writesG = false := by
    revert hw
    cases b.s0.op <;> simp [SOp.writesPred, SOp.writesG]
  have hd : keyP b.s0.a.rd.toNat ∈ b.s0.dests := by simp [SIns.dests, hw, hg]
  have hne := (alone_slots hr.alone).1 _ hd (by simp only [keyP, keyG]; omega) (by simp only [keyP]; omega)
  rw [(issued_after hr).1.2.2.2 _ hn (.inl (by simp [hne])), afterS0, if_pos ha]
  have := doS_pr (s.islet i) (advance (s.islet i) (s.islet i) (takenBy (s.islet i) b ((s.islet i).active b))) i s.dev.epoch (cycleOf s i b) b.s0 hw
    (by rwa [Nat.mod_eq_of_lt hn])
  rwa [Nat.mod_eq_of_lt hn] at this

/-! Reading a register of an Islet whose readiness and poison have been noted: stated over a variable, so that no value is computed. -/

theorem Islet.gr_noted (y : Islet) (r : SMap Nat) (k : Nat) (p : SMap DErr) (n : Nat) :
    ({ y with ready := r, vNext := k, poison := p } : Islet).gr n = y.gr n := rfl
theorem Islet.vr_noted (y : Islet) (r : SMap Nat) (k : Nat) (p : SMap DErr) (n : Nat) :
    ({ y with ready := r, vNext := k, poison := p } : Islet).vr n = y.vr n := rfl
theorem Islet.tr_noted (y : Islet) (r : SMap Nat) (k : Nat) (p : SMap DErr) (n : Nat) :
    ({ y with ready := r, vNext := k, poison := p } : Islet).tr n = y.tr n := rfl

theorem doV_vr (x0 x : Islet) (v : VIns) (c : Nat) (op : VOp) (t : EType) (ho : v.op = some op) (ht : EType.ofCode v.a.etype.toNat = some t)
    (hl : laneOp op = true) : (doV x0 x v c).1.vr v.a.vd.toNat = (vexec op t v.a.sat v.a.imm.toNat (x0.vsrc v)).1 := by
  unfold doV
  rw [ho, ht]
  dsimp only
  split <;>
    first
    | (cases hl; done)
    | exact (Islet.vr_setV _ _ _ _).trans (if_pos rfl)

/-- A V slot with an element enabled is active (R35). -/
theorem active_v {op : VOp} {t : EType} (ho : b.v.op = some op) (ht : EType.ofCode b.v.a.etype.toNat = some t)
    (he : vEnabled op t b.v.a.imm.toNat ((s.islet i).predReg b.v.a.pred) = true) : ((s.islet i).active b).v = true := by
  simp only [Islet.active, ho, ht, he]

/-- What slot V of a completed bundle writes to v[vd] stands there (R33, R47). -/
theorem issued_vector (hr : Ready s i b) (op : VOp) (t : EType) (ho : b.v.op = some op) (ht : EType.ofCode b.v.a.etype.toNat = some t)
    (hl : laneOp op = true) (he : vEnabled op t b.v.a.imm.toNat ((s.islet i).predReg b.v.a.pred) = true) :
    ((issued s i b).islet i).vr b.v.a.vd.toNat = (vexec op t b.v.a.sat b.v.a.imm.toNat ((s.islet i).vsrc b.v)).1 := by
  have hd : keyV b.v.a.vd.toNat ∈ b.v.dests := by
    unfold VIns.dests
    rw [ho]
    cases op <;> first | (cases hl; done) | exact List.mem_singleton.2 rfl
  have hv : ((s.islet i).active b).v = true := active_v ho ht he
  have hne := (alone_slots hr.alone).2.2.2.1 _ hd (by simp only [keyV, keyG]; omega) (by simp only [keyV, keyP]; omega)
  rw [(issued_after hr).2.2.2.1.2.1 _ b.v.a.vd.isLt hne.2.2.2, State.afterV, if_pos hv, ahead_islet]
  exact doV_vr _ _ _ _ op t ho ht hl

/-- A comparison's predicate (R47). -/
theorem doV_pr (x0 x : Islet) (v : VIns) (c : Nat) (op : VOp) (t : EType) (ho : v.op = some op) (ht : EType.ofCode v.a.etype.toNat = some t)
    (hl : op = .vcmpeq ∨ op = .vcmplt ∨ op = .vcmple) (h0 : v.a.vd.toNat % 8 ≠ 0) :
    (doV x0 x v c).1.pr (v.a.vd.toNat % 8) = vcmp op t (x0.vsrc v) := by
  unfold doV
  rw [ho, ht]
  rcases hl with rfl | rfl | rfl <;> exact Islet.pr_setP_self _ _ _ h0

theorem issued_compare (hr : Ready s i b) (op : VOp) (t : EType) (ho : b.v.op = some op) (ht : EType.ofCode b.v.a.etype.toNat = some t)
    (hl : op = .vcmpeq ∨ op = .vcmplt ∨ op = .vcmple) (he : vEnabled op t b.v.a.imm.toNat ((s.islet i).predReg b.v.a.pred) = true) :
    ((issued s i b).islet i).pr (b.v.a.vd.toNat % 8) =
      if b.v.a.vd.toNat % 8 = 0 then BitVec.allOnes 64 else vcmp op t ((s.islet i).vsrc b.v) := by
  by_cases h0 : b.v.a.vd.toNat % 8 = 0
  · rw [if_pos h0, h0]; rfl
  rw [if_neg h0]
  have hd : keyP (b.v.a.vd.toNat % 8) ∈ b.v.dests := by
    unfold VIns.dests
    rw [ho]
    rcases hl with rfl | rfl | rfl <;> exact List.mem_singleton.2 rfl
  have hv : ((s.islet i).active b).v = true := active_v ho ht he
  have hne := (alone_slots hr.alone).2.2.2.1 _ hd (by simp only [keyP, keyG]; omega) (by simp only [keyP]; omega)
  rw [(issued_after hr).2.2.2.1.2.2.2 _ (Nat.mod_lt _ (by decide)) (.inl hne.2.2.2), State.afterV, if_pos hv, ahead_islet]
  exact doV_pr _ _ _ _ op t ho ht hl h0

/-- VEXT's g register for a lane of the type (R47; log entry 9 for the others). -/
theorem issued_vext (hr : Ready s i b) (t : EType) (ho : b.v.op = some .vext) (ht : EType.ofCode b.v.a.etype.toNat = some t)
    (hl : b.v.a.imm.toNat % 64 < laneCount t) (he : vEnabled .vext t b.v.a.imm.toNat ((s.islet i).predReg b.v.a.pred) = true) :
    ((issued s i b).islet i).gr b.v.a.vd.toNat =
      if b.v.a.vd.toNat = 0 then 0 else vext t b.v.a.imm.toNat ((s.islet i).vsrc b.v) := by
  by_cases h0 : b.v.a.vd.toNat = 0
  · rw [if_pos h0, h0]; rfl
  rw [if_neg h0]
  have hd : keyG b.v.a.vd.toNat ∈ b.v.dests := by simp [VIns.dests, ho]
  have hv : ((s.islet i).active b).v = true := active_v ho ht he
  have hk := keyG_ne b.v.a.vd.isLt h0
  have hne := (alone_slots hr.alone).2.2.2.1 _ hd hk.1 hk.2
  rw [(issued_after hr).2.2.2.1.1 _ b.v.a.vd.isLt (.inl hne.2.2.2), State.afterV, if_pos hv, ahead_islet]
  unfold doV
  rw [ho, ht]
  dsimp only
  rw [if_pos hl]
  exact (Islet.gr_noted _ _ _ _ _).trans (Islet.gr_setG_self _ _ _ h0)

/-- VMFT: a quarter of an accumulator (R47). -/
theorem issued_vmft (hr : Ready s i b) (t : EType) (ho : b.v.op = some .vmft) (ht : EType.ofCode b.v.a.etype.toNat = some t)
    (he : vEnabled .vmft t b.v.a.imm.toNat ((s.islet i).predReg b.v.a.pred) = true) :
    ((issued s i b).islet i).vr b.v.a.vd.toNat = 
      vmftResult ((s.islet i).vsrc b.v) (accQuarter ((s.islet i).tr (b.v.a.va.toNat % 8)) (b.v.a.imm.toNat % 4)) := by
  have hd : keyV b.v.a.vd.toNat ∈ b.v.dests := by simp [VIns.dests, ho]
  have hv : ((s.islet i).active b).v = true := active_v ho ht he
  have hne := (alone_slots hr.alone).2.2.2.1 _ hd (by simp only [keyV, keyG]; omega) (by simp only [keyV, keyP]; omega)
  rw [(issued_after hr).2.2.2.1.2.1 _ b.v.a.vd.isLt hne.2.2.2, State.afterV, if_pos hv, ahead_islet]
  unfold doV
  rw [ho, ht]
  exact (Islet.vr_noted _ _ _ _ _).trans ((Islet.vr_setV _ _ _ _).trans (if_pos rfl))

/-- VMTT: a quarter of an accumulator written (R47). -/
theorem issued_vmtt (hr : Ready s i b) (t : EType) (ho : b.v.op = some .vmtt) (ht : EType.ofCode b.v.a.etype.toNat = some t)
    (he : vEnabled .vmtt t b.v.a.imm.toNat ((s.islet i).predReg b.v.a.pred) = true) :
    ((issued s i b).islet i).tr (b.v.a.vd.toNat % 8) = accSetQuarter ((s.islet i).tr (b.v.a.vd.toNat % 8)) (b.v.a.imm.toNat % 4)
      ((s.islet i).vr b.v.a.va.toNat) ((s.islet i).predReg b.v.a.pred) := by
  have hd : keyT (b.v.a.vd.toNat % 8) ∈ b.v.dests := by simp [VIns.dests, ho]
  have hv : ((s.islet i).active b).v = true := active_v ho ht he
  have hlt : b.v.a.vd.toNat % 8 < 8 := Nat.mod_lt _ (by decide)
  have hne := (alone_slots hr.alone).2.2.2.1 _ hd (by simp only [keyT, keyG]; omega) (by simp only [keyT, keyP]; omega)
  rw [(issued_after hr).2.2.2.1.2.2.1 _ hlt hne.2.2.2, State.afterV, if_pos hv, ahead_islet]
  unfold doV
  rw [ho, ht]
  exact (Islet.tr_noted _ _ _ _ _).trans ((Islet.tr_setT _ _ _ _).trans (if_pos rfl))

/-! The state around the Islet. -/

/-- Slots V and T change nothing but the Islet, a buoy and the count of free values. -/
def SlotsKept (s t : State) : Prop := ∃ bs fc, t = { s with buoys := bs, freeCount := fc }

theorem SlotsKept.refl (s : State) : SlotsKept s s := ⟨_, _, rfl⟩

theorem SlotsKept.trans {s t u : State} (h : SlotsKept s t) (k : SlotsKept t u) : SlotsKept s u := by
  obtain ⟨b, f, rfl⟩ := h
  obtain ⟨c, g, rfl⟩ := k
  exact ⟨c, g, rfl⟩

theorem doT_state (s : State) (x0 x : Islet) (i c : Nat) (t : TIns) (got : Word64) : SlotsKept s (s.doT i x0 x t c got).1 := by
  obtain ⟨op, a, b⟩ := t
  cases op
  case tmma =>
    simp only [State.doT]
    split <;> exact .refl s
  all_goals exact ⟨_, _, rfl⟩

theorem ahead_state (s : State) (i : Nat) (b : Bundle) : SlotsKept s (ahead s i b) := by
  unfold ahead State.buoyWait State.addWaiter
  dsimp only
  split
  · exact .refl s
  · split
    · split
      · exact .refl s
      · dsimp only; split <;> exact ⟨_, _, rfl⟩
    · split
      · split
        · split <;> exact ⟨_, _, rfl⟩
        · split
          · exact ⟨_, _, rfl⟩
          · dsimp only; split <;> exact ⟨_, _, rfl⟩
      · exact .refl s

theorem afterT_state (s : State) (i : Nat) (b : Bundle) (a : Active) (c : Nat) (got : Word64) : SlotsKept (s.afterM i b a c).1 (s.afterT i b a c got).1 := by
  have hv : SlotsKept (s.afterM i b a c).1 (s.afterV i b a c).1 := by
    unfold State.afterV
    split <;> exact .refl _
  refine hv.trans ?_
  unfold State.afterT
  split
  · exact doT_state ..
  · exact .refl _

/-- The registers that a reported halt changes (04 R125). -/
def haltRegs (o : Nat) : Prop := o = R.NET_ISLET_HALTS ∨ o = R.NET_LAST_FAULT

theorem reportHalt_state (s : State) (i k : Nat) : ∃ us cs, s.reportHalt i k = { s with units := us, csr := cs } ∧
    ∀ o, ¬ haltRegs o → (s.reportHalt i k).reg o = s.reg o := by
  rcases reportHalt_cases s i k with h | ⟨v, us, h⟩
  · exact ⟨_, _, h, fun _ _ => by rw [h]⟩
  · refine ⟨us, _, h, fun o ho => ?_⟩
    rw [h]
    have h1 := State.reg_setReg_ne (s := s.inc R.NET_ISLET_HALTS) R.NET_LAST_FAULT o v fun e => ho (.inr e)
    have h2 := State.reg_setReg_ne (s := s) R.NET_ISLET_HALTS o (satInc (BitVec.ofNat 32 (s.reg R.NET_ISLET_HALTS))).toNat fun e => ho (.inl e)
    exact h1.trans h2

/-- An exception changes its Islet, the count of free values and, where it halts the Islet, its unit's record and the registers of a halt. -/
theorem takeExn_state (s : State) (i p : Nat) (e : Exn) : ∃ is fc us cs,
    s.takeExn i p e = { s with islets := is, freeCount := fc, units := us, csr := cs } ∧ ∀ o, ¬ haltRegs o → (s.takeExn i p e).reg o = s.reg o := by
  have key : ∀ (t : State) (k : Nat), (∃ is fc, t = { s with islets := is, freeCount := fc }) → ∃ is fc us cs,
      t.reportHalt i k = { s with islets := is, freeCount := fc, units := us, csr := cs } ∧ ∀ o, ¬ haltRegs o → (t.reportHalt i k).reg o = s.reg o := by
    rintro t k ⟨is, fc, rfl⟩
    obtain ⟨us, cs, h, hr⟩ := reportHalt_state { s with islets := is, freeCount := fc } i k
    exact ⟨is, fc, us, cs, h, fun o ho => (hr o ho).trans rfl⟩
  unfold State.takeExn
  dsimp only
  split
  · exact key _ _ (by cases e.addr <;> exact ⟨_, _, rfl⟩)
  · split
    · exact key _ _ (by cases e.addr <;> exact ⟨_, _, rfl⟩)
    · cases e.addr <;> exact ⟨_, _, _, _, rfl, fun _ _ => rfl⟩

/-- Beside its own Islet a completed bundle changes what slot M does, buoys, the count of free values and, by a TRAP that halts the
Islet, its unit's record and the registers of a halt. -/
theorem complete_state (s : State) (i : Nat) (b : Bundle) (a : Active) (c : Nat) (got : Word64) :
    ∃ (is : SMap Islet) (bs : SMap Buoy) (fc : Nat) (us : SMap NSlot) (cs : SMap Word32),
      (s.complete i b a c got).1 = { (s.afterM i b a c).1 with islets := is, buoys := bs, freeCount := fc, units := us, csr := cs } ∧
      (¬ (a.s0 = true ∧ b.s0.op = .trap) → us = (s.afterM i b a c).1.units ∧ cs = (s.afterM i b a c).1.csr) ∧
      ∀ o, ¬ haltRegs o → (s.complete i b a c got).1.reg o = (s.afterM i b a c).1.reg o := by
  obtain ⟨bs, fc, h⟩ := afterT_state s i b a c got
  unfold State.complete
  dsimp only
  rw [h]
  split
  · next ht =>
    obtain ⟨is, fc', us, cs, hu, hr⟩ := takeExn_state (State.setIslet { (s.afterM i b a c).1 with buoys := bs, freeCount := fc } i
      ((s.afterT i b a c got).2.1.finish b a c ((s.afterV i b a c).2.2 ||| (s.afterT i b a c got).2.2.1) (takenBy (s.islet i) b a).isSome)) i
      (advance (s.islet i) (s.islet i) (takenBy (s.islet i) b a)).pc ⟨0xA, some (s.islet i).pc, (sImm64 b.s0.a).toNat⟩
    exact ⟨is, bs, fc', us, cs, hu, fun hn => absurd ht hn, fun o ho => hr o ho⟩
  · exact ⟨_, _, _, _, _, rfl, fun _ => ⟨rfl, rfl⟩, fun _ _ => rfl⟩

/-- The state in which slot M runs reads as the one the bundle was issued in. -/
theorem ahead_target (s : State) (i j a : Nat) (b : Bundle) : (ahead s i b).target j a = s.target j a := by
  obtain ⟨bs, fc, h⟩ := ahead_state s i b
  rw [h]; rfl

theorem ahead_load (s : State) (i a n : Nat) (b : Bundle) : (ahead s i b).load a n = s.load a n := by
  obtain ⟨bs, fc, h⟩ := ahead_state s i b
  rw [h]
  induction n generalizing a with
  | zero => rfl
  | succ n ih => simp only [State.load, ih]; rfl

theorem ahead_byte (s : State) (i a : Nat) (b : Bundle) : (ahead s i b).byte a = s.byte a := by
  obtain ⟨bs, fc, h⟩ := ahead_state s i b
  rw [h]; rfl

theorem Islet.gr_ready (y : Islet) (r : SMap Nat) (p : SMap DErr) (n : Nat) : ({ y with ready := r, poison := p } : Islet).gr n = y.gr n := rfl
theorem Islet.vr_ready (y : Islet) (r : SMap Nat) (p : SMap DErr) (n : Nat) : ({ y with ready := r, poison := p } : Islet).vr n = y.vr n := rfl
theorem Islet.tr_ready (y : Islet) (r : SMap Nat) (p : SMap DErr) (n : Nat) : ({ y with ready := r, poison := p } : Islet).tr n = y.tr n := rfl

/-- A load from the own sliver store writes its g register (R40, R42). -/
theorem doM_own_gr (s : State) (i : Nat) (x0 x : Islet) (m : MIns) (c off : Nat) (ho : m.op = .ld ∨ m.op = .ldu)
    (ht : s.target i (x0.ea m) = .own off) (h0 : m.a.rd.toNat ≠ 0) :
    (s.doM i x0 x m c).2.gr m.a.rd.toNat = loadG m.op m.a.size.toNat (s.load (sliverBase i + off) (2 ^ m.log2w)) := by
  obtain ⟨op, a⟩ := m
  rcases ho with h | h <;> cases h <;>
    (simp only [State.doM, MOp.isTow, MOp.isLoad, Bool.false_eq_true, if_false, if_true]
     rw [ht]
     exact (Islet.gr_ready _ _ _ _).trans (Islet.gr_setG_self _ _ _ h0))

/-- The same for a vector register. -/
theorem doM_own_vr (s : State) (i : Nat) (x0 x : Islet) (m : MIns) (c off : Nat) (ho : m.op = .vld ∨ m.op = .vlds)
    (ht : s.target i (x0.ea m) = .own off) :
    (s.doM i x0 x m c).2.vr m.a.rd.toNat = loadV m.op m.a.size.toNat (s.load (sliverBase i + off) (2 ^ m.log2w)) := by
  obtain ⟨op, a⟩ := m
  rcases ho with h | h <;> cases h <;>
    (simp only [State.doM, MOp.isTow, MOp.isLoad, Bool.false_eq_true, if_false, if_true]
     rw [ht]
     exact (Islet.vr_ready _ _ _ _).trans ((Islet.vr_setV _ _ _ _).trans (if_pos rfl)))

/-- A load from the own sliver store changes nothing but its register. -/
theorem doM_own_state (s : State) (i : Nat) (x0 x : Islet) (m : MIns) (c off : Nat) (ho : m.op.isLoad = true) (ht : s.target i (x0.ea m) = .own off) :
    (s.doM i x0 x m c).1 = s := by
  obtain ⟨op, a⟩ := m
  cases op <;>
    first
    | (cases ho; done)
    | (simp only [State.doM, MOp.isTow, MOp.isLoad, Bool.false_eq_true, if_false, if_true]
       rw [ht])

/-- A store to the own sliver store writes its bytes there (R40, R42). -/
theorem doM_store_state (s : State) (i : Nat) (x0 x : Islet) (m : MIns) (c off : Nat) (ho : m.op.isStore = true) (ht : s.target i (x0.ea m) = .own off) :
    (s.doM i x0 x m c).1 = (s.store (sliverBase i + off)
      (if m.op = .st then leBytes (2 ^ m.log2w) (x0.gr m.a.rd.toNat).toNat else leBytes 64 (x0.vr m.a.rd.toNat).toNat)).unpoison
        (sliverBase i + off) (2 ^ m.log2w) := by
  obtain ⟨op, a⟩ := m
  cases op <;>
    first
    | (cases ho; done)
    | (simp only [State.doM, MOp.isTow, MOp.isLoad, MOp.isStore, Bool.false_eq_true, if_false, if_true]
       rw [ht])

theorem issued_load_g (hr : Ready s i b) (ho : b.m.op = .ld ∨ b.m.op = .ldu) (ha : (s.islet i).predOn b.m.a.pred = true) (off : Nat)
    (ht : s.target i ((s.islet i).ea b.m) = .own off) :
    ((issued s i b).islet i).gr b.m.a.rd.toNat =
      if b.m.a.rd.toNat = 0 then 0 else loadG b.m.op b.m.a.size.toNat (s.load (sliverBase i + off) (2 ^ b.m.log2w)) := by
  by_cases h0 : b.m.a.rd.toNat = 0
  · rw [if_pos h0, h0]; rfl
  rw [if_neg h0]
  have hd : keyG b.m.a.rd.toNat ∈ b.m.dests := by rcases ho with h | h <;> simp [MIns.dests, h]
  have hm : ((s.islet i).active b).m = true := by rcases ho with h | h <;> simp [Islet.active, h, ha]
  have hk := keyG_ne b.m.a.rd.isLt h0
  have hne := (alone_slots hr.alone).2.2.1 _ hd hk.1 hk.2
  rw [(issued_after hr).2.2.1.1 _ b.m.a.rd.isLt (.inl (by simp [hne])), State.afterM, if_pos hm, ahead_islet,
    doM_own_gr _ _ _ _ _ _ off ho (by rw [ahead_target, ht]) h0, ahead_load]

theorem issued_load_v (hr : Ready s i b) (ho : b.m.op = .vld ∨ b.m.op = .vlds) (ha : (s.islet i).predOn b.m.a.pred = true) (off : Nat)
    (ht : s.target i ((s.islet i).ea b.m) = .own off) :
    ((issued s i b).islet i).vr b.m.a.rd.toNat = loadV b.m.op b.m.a.size.toNat (s.load (sliverBase i + off) (2 ^ b.m.log2w)) := by
  have hd : keyV b.m.a.rd.toNat ∈ b.m.dests := by rcases ho with h | h <;> simp [MIns.dests, h]
  have hm : ((s.islet i).active b).m = true := by rcases ho with h | h <;> simp [Islet.active, h, ha]
  have hne := (alone_slots hr.alone).2.2.1 _ hd (by simp only [keyV, keyG]; omega) (by simp only [keyV, keyP]; omega)
  rw [(issued_after hr).2.2.1.2.1 _ b.m.a.rd.isLt (by simp [hne]), State.afterM, if_pos hm, ahead_islet,
    doM_own_vr _ _ _ _ _ _ off ho (by rw [ahead_target, ht]), ahead_load]

/-- The bytes of memory after a completed bundle are those slot M left. -/
theorem issued_byte (s : State) (i : Nat) (b : Bundle) (a : Nat) :
    (issued s i b).byte a = ((ahead s i b).afterM i b ((s.islet i).active b) (cycleOf s i b)).1.byte a := by
  obtain ⟨is, bs, fc, us, cs, h, -⟩ := complete_state (ahead s i b) i b ((s.islet i).active b) (cycleOf s i b) (observed s i b)
  unfold issued
  rw [h]; rfl

/-- But for a store to the own sliver store, slot M leaves memory, Islets and buoys alone: an access beyond it is queued, a tow moves its
data when it ends (R43, R44). -/
theorem doM_apart (s : State) (i : Nat) (x0 x : Islet) (m : MIns) (c : Nat) (h : m.op.isStore = true → ∀ off, s.target i (x0.ea m) ≠ .own off) :
    Apart s (s.doM i x0 x m c).1 := by
  obtain ⟨op, a⟩ := m
  cases op
  case st | vst =>
    simp only [State.doM, MOp.isTow, MOp.isLoad, MOp.isStore, Bool.false_eq_true, if_false, if_true]
    split
    · next off ht => exact absurd ht (h rfl off)
    · dsimp only
      split
      · exact apart_sendRequest (apart_noteAccess (Apart.refl s) ..) ..
      · exact apart_noteAccess (Apart.refl s) ..
  case ld | ldu | vld | vlds =>
    simp only [State.doM, MOp.isTow, MOp.isLoad, Bool.false_eq_true, if_false, if_true]
    split
    · exact Apart.refl s
    · dsimp only
      split
      · exact apart_sendRequest (apart_noteAccess (Apart.refl s) ..) ..
      · exact apart_noteAccess (Apart.refl s) ..
  case towin | towout =>
    simp only [State.doM, MOp.isTow, if_true]
    split
    · exact apart_sendTow (apart_noteAccess (Apart.refl s) ..) ..
    · exact apart_noteAccess (Apart.refl s) ..
  all_goals exact Apart.refl s

theorem afterM_apart (s : State) (i : Nat) (b : Bundle) (h : ¬ OwnStore s i b) (c : Nat) :
    Apart (ahead s i b) ((ahead s i b).afterM i b ((s.islet i).active b) c).1 := by
  unfold State.afterM
  split
  · next hm =>
    refine doM_apart _ _ _ _ _ _ fun ho off ht => h ⟨hm, ho, off, ?_⟩
    rwa [ahead_islet, ahead_target] at ht
  · exact Apart.refl _

/-- A bundle that does not store to its own sliver store leaves every byte of memory (R34, R43, R44). -/
theorem issued_byte_kept (s : State) (i : Nat) (b : Bundle) (a : Nat) (h : ¬ OwnStore s i b) : (issued s i b).byte a = s.byte a := by
  rw [issued_byte, ← ahead_byte s i a b]
  unfold State.byte
  rw [(afterM_apart s i b h _).1]

/-- A byte after a store to the own sliver store. -/
theorem issued_byte_store (s : State) (i : Nat) (b : Bundle) (a off : Nat) (ho : b.m.op.isStore = true)
    (ha : (s.islet i).predOn b.m.a.pred = true) (ht : s.target i ((s.islet i).ea b.m) = .own off) :
    (issued s i b).byte a = (s.store (sliverBase i + off)
      (if b.m.op = .st then leBytes (2 ^ b.m.log2w) ((s.islet i).gr b.m.a.rd.toNat).toNat
        else leBytes 64 ((s.islet i).vr b.m.a.rd.toNat).toNat)).byte a := by
  have hm : ((s.islet i).active b).m = true := by
    have : b.m.op ≠ .nop := by intro h; simp [h, MOp.isStore] at ho
    simp [Islet.active, this, ha]
  rw [issued_byte, State.afterM, if_pos hm, ahead_islet, doM_store_state _ _ _ _ _ _ off ho (by rw [ahead_target, ht])]
  obtain ⟨bs, fc, h⟩ := ahead_state s i b
  rw [h]
  generalize (if b.m.op = .st then _ else _ : List Byte) = l
  have : ∀ (l : List Byte) (t : State) (p : Nat), (State.store { t with buoys := bs, freeCount := fc } p l).mem = (t.store p l).mem := by
    intro l
    induction l with
    | nil => intro t p; rfl
    | cons x r ih => intro t p; exact ih (t.setByte p x) (p + 1)
  simp only [State.byte, State.unpoison, this]

/-! Slot T. -/

theorem issued_fill (hr : Ready s i b) (ho : b.t.op = .tfill) (ha : (s.islet i).predOn b.t.t.pred = true) :
    ((issued s i b).islet i).tr b.t.t.td.toNat = List.replicate 64 (wrapTo 32 (sext 26 b.t.t.imm.toNat)) := by
  have ht : ((s.islet i).active b).t = true := by simp [Islet.active, ho, ha]
  rw [(issued_after hr).2.2.2.2.2.2.1 _ b.t.t.td.isLt List.not_mem_nil, State.afterT, if_pos ht]
  simp only [State.doT, ho]
  exact (Islet.tr_setT _ _ _ _).trans (if_pos rfl)

theorem issued_tmma (hr : Ready s i b) (ho : b.t.op = .tmma) (ha : (s.islet i).predOn b.t.t.pred = true) (ty : EType)
    (hty : EType.ofCode b.t.t.etype.toNat = some ty) :
    ((issued s i b).islet i).tr b.t.t.td.toNat = (tmma ty b.t.t.sat (b.t.t.acc == 1) ((s.islet i).tr b.t.t.td.toNat)
      ((s.islet i).vr b.t.t.va.toNat) ((s.islet i).vr b.t.t.vb.toNat)).1 := by
  have ht : ((s.islet i).active b).t = true := by simp [Islet.active, ho, ha]
  rw [(issued_after hr).2.2.2.2.2.2.1 _ b.t.t.td.isLt List.not_mem_nil, State.afterT, if_pos ht]
  simp only [State.doT, ho, hty, ahead_islet]
  exact (Islet.tr_setT _ _ _ _).trans (if_pos rfl)

@[simp] theorem State.reportHalt_buoys (s : State) (i k : Nat) : (s.reportHalt i k).buoys = s.buoys := by
  rcases reportHalt_cases s i k with h | ⟨v, us, h⟩
  · rw [h]
  · rw [h, State.setReg_buoys, State.inc_buoys]

theorem takeExn_buoys (s : State) (i p : Nat) (e : Exn) : (s.takeExn i p e).buoys = s.buoys := by
  unfold State.takeExn
  dsimp only
  split
  · rw [State.reportHalt_buoys]; cases e.addr <;> rfl
  · split
    · rw [State.reportHalt_buoys]; cases e.addr <;> rfl
    · cases e.addr <;> rfl

theorem doM_buoys (s : State) (i : Nat) (x0 x : Islet) (m : MIns) (c : Nat) : (s.doM i x0 x m c).1.buoys = s.buoys := by
  by_cases h : m.op.isStore = true ∧ ∃ off, s.target i (x0.ea m) = .own off
  · obtain ⟨ho, off, ht⟩ := h
    rw [doM_store_state _ _ _ _ _ _ off ho ht]
    exact State.store_buoys ..
  · exact (doM_apart s i x0 x m c fun ho off ht => h ⟨ho, off, ht⟩).2.2

/-- Buoys are changed by slot T only (R56). -/
theorem issued_buoys (s : State) (i : Nat) (b : Bundle) :
    ∃ (s2 : State) (y : Islet), s2.buoys = (ahead s i b).buoys ∧ (issued s i b).buoys =
      (if ((s.islet i).active b).t then (s2.doT i (s.islet i) y b.t (cycleOf s i b) (observed s i b)).1 else s2).buoys := by
  refine ⟨((ahead s i b).afterV i b ((s.islet i).active b) (cycleOf s i b)).1,
    ((ahead s i b).afterV i b ((s.islet i).active b) (cycleOf s i b)).2.1, ?_, ?_⟩
  · have hm : ((ahead s i b).afterM i b ((s.islet i).active b) (cycleOf s i b)).1.buoys = (ahead s i b).buoys := by
      unfold State.afterM
      split
      · exact doM_buoys ..
      · rfl
    rw [← hm]
    unfold State.afterV
    split <;> rfl
  · have ht : ((ahead s i b).afterT i b ((s.islet i).active b) (cycleOf s i b) (observed s i b)).1 =
        if ((s.islet i).active b).t then (((ahead s i b).afterV i b ((s.islet i).active b) (cycleOf s i b)).1.doT i (s.islet i)
          ((ahead s i b).afterV i b ((s.islet i).active b) (cycleOf s i b)).2.1 b.t (cycleOf s i b) (observed s i b)).1
        else ((ahead s i b).afterV i b ((s.islet i).active b) (cycleOf s i b)).1 := by
      unfold State.afterT
      rw [ahead_islet]
      split <;> rfl
    rw [← ht]
    unfold issued State.complete
    dsimp only
    split
    · exact takeExn_buoys ..
    · rfl

/-- A bundle with no BARR or BWAIT to wait for completes in the state it was issued in, and has observed nothing. -/
theorem ahead_plain (s : State) (i : Nat) (b : Bundle) (h : b.t.op ≠ .bwait) (h' : b.t.op ≠ .barr) : ahead s i b = s ∧ observed s i b = 0 := by
  simp [ahead, observed, State.buoyWait, newHeld, h, h']

/-- A BWAIT that is met (R56). -/
theorem ahead_bwait (hr : Ready s i b) (ho : b.t.op = .bwait) (ha : (s.islet i).predOn b.t.t.pred = true) :
    (s.buoy ((s.islet i).buoyOf b.t)).reached ((s.islet i).gr b.t.b.rs.toNat).toNat = true ∧ ahead s i b = s ∧
      observed s i b = BitVec.ofNat 64 (s.buoy ((s.islet i).buoyOf b.t)).value := by
  have ht : ((s.islet i).active b).t = true := by simp [Islet.active, ho, ha]
  have hm := hr.met
  by_cases hc : (s.buoy ((s.islet i).buoyOf b.t)).reached ((s.islet i).gr b.t.b.rs.toNat).toNat = true
  · simp [ahead, observed, State.buoyWait, newHeld, ho, ht, hc]
  · simp [State.buoyWait, newHeld, ho, ht, hc] at hm

/-- A BARR that is the last arrival of its phase (R56). -/
theorem ahead_barr (hr : Ready s i b) (ho : b.t.op = .barr) (ha : (s.islet i).predOn b.t.t.pred = true) :
    ((s.buoy ((s.islet i).buoyOf b.t)).arrive i).value ≠ (s.buoy ((s.islet i).buoyOf b.t)).value ∧
      ahead s i b = s.setBuoy ((s.islet i).buoyOf b.t) ((s.buoy ((s.islet i).buoyOf b.t)).arrive i) ∧
      observed s i b = BitVec.ofNat 64 ((s.buoy ((s.islet i).buoyOf b.t)).arrive i).value := by
  have ht : ((s.islet i).active b).t = true := by simp [Islet.active, ho, ha]
  have hm := hr.met
  by_cases hc : ((s.buoy ((s.islet i).buoyOf b.t)).arrive i).value = (s.buoy ((s.islet i).buoyOf b.t)).value
  · simp [State.buoyWait, newHeld, ho, ht, hc] at hm
  · simp [ahead, observed, State.buoyWait, newHeld, ho, ht, hc]

/-- The g register of a buoy operation (R56). -/
theorem issued_buoy_reg (hr : Ready s i b) (ho : b.t.op = .bwait ∨ b.t.op = .barr ∨ b.t.op = .barv ∨ b.t.op = .bpoll)
    (ha : (s.islet i).predOn b.t.t.pred = true) :
    ((issued s i b).islet i).gr b.t.b.rd.toNat = if b.t.b.rd.toNat = 0 then 0
      else if b.t.op = .barr then BitVec.ofNat 64 ((s.buoy ((s.islet i).buoyOf b.t)).arrive i).value
      else BitVec.ofNat 64 (s.buoy ((s.islet i).buoyOf b.t)).value := by
  by_cases h0 : b.t.b.rd.toNat = 0
  · rw [if_pos h0, h0]; rfl
  rw [if_neg h0]
  have ht : ((s.islet i).active b).t = true := by rcases ho with h | h | h | h <;> simp [Islet.active, h, ha]
  have key : ∀ (t : State) (x : Islet), t.buoys = (ahead s i b).buoys →
      (t.doT i (s.islet i) x b.t (cycleOf s i b) (observed s i b)).2.1.gr b.t.b.rd.toNat =
        if b.t.op = .bwait ∨ b.t.op = .barr then observed s i b else BitVec.ofNat 64 ((ahead s i b).buoy ((s.islet i).buoyOf b.t)).value := by
    intro t x hb
    have hb' : t.buoy ((s.islet i).buoyOf b.t) = (ahead s i b).buoy ((s.islet i).buoyOf b.t) := by simp [State.buoy, hb]
    rcases ho with h | h | h | h <;>
      (simp [State.doT, h, hb']
       exact (Islet.gr_ready _ _ _ _).trans (Islet.gr_setG_self _ _ _ h0))
  have hv : ((ahead s i b).afterV i b ((s.islet i).active b) (cycleOf s i b)).1.buoys = (ahead s i b).buoys := by
    have hm : ((ahead s i b).afterM i b ((s.islet i).active b) (cycleOf s i b)).1.buoys = (ahead s i b).buoys := by
      unfold State.afterM
      split
      · exact doM_buoys ..
      · rfl
    rw [← hm]
    unfold State.afterV
    split <;> rfl
  rw [(issued_after hr).2.2.2.2.1 _ b.t.b.rd.isLt (.inl List.not_mem_nil), State.afterT, if_pos ht, ahead_islet, key _ _ hv]
  rcases ho with h | h | h | h
  · simp [h, (ahead_bwait hr h ha).2.2]
  · simp [h, (ahead_barr hr h ha).2.2]
  · simp [h, (ahead_plain s i b (by simp [h]) (by simp [h])).1]
  · simp [h, (ahead_plain s i b (by simp [h]) (by simp [h])).1]

/-- The buoy a completed bundle leaves (R56). -/
theorem issued_buoy (hr : Ready s i b) (ha : (s.islet i).predOn b.t.t.pred = true) :
    (b.t.op = .bsig → (issued s i b).buoy ((s.islet i).buoyOf b.t) =
      (s.buoy ((s.islet i).buoyOf b.t)).signal (((s.islet i).gr b.t.b.rs.toNat).toNat % 2 ^ 32) i) ∧
    (b.t.op = .bset → (issued s i b).buoy ((s.islet i).buoyOf b.t) =
      { s.buoy ((s.islet i).buoyOf b.t) with value := ((s.islet i).gr b.t.b.rs.toNat).toNat % 2 ^ 32, lastSignaller := i }) ∧
    (b.t.op = .barv → (issued s i b).buoy ((s.islet i).buoyOf b.t) = (s.buoy ((s.islet i).buoyOf b.t)).arrive i) ∧
    (b.t.op = .barr → (issued s i b).buoy ((s.islet i).buoyOf b.t) = ((s.buoy ((s.islet i).buoyOf b.t)).arrive i).unwait i) ∧
    (b.t.op = .bwait → (issued s i b).buoy ((s.islet i).buoyOf b.t) = (s.buoy ((s.islet i).buoyOf b.t)).unwait i) ∧
    (b.t.op = .bpoll → (issued s i b).buoy ((s.islet i).buoyOf b.t) = s.buoy ((s.islet i).buoyOf b.t)) ∧
    (∀ n, n ≠ (s.islet i).buoyOf b.t → (issued s i b).buoy n = s.buoy n) := by
  obtain ⟨s2, y, h2, hb⟩ := issued_buoys s i b
  have hbu : ∀ n, (issued s i b).buoy n =
      (if ((s.islet i).active b).t then (s2.doT i (s.islet i) y b.t (cycleOf s i b) (observed s i b)).1 else s2).buoy n := by
    intro n; simp [State.buoy, hb]
  have hs2 : ∀ n, s2.buoy n = (ahead s i b).buoy n := by intro n; simp [State.buoy, h2]
  refine ⟨fun h => ?_, fun h => ?_, fun h => ?_, fun h => ?_, fun h => ?_, fun h => ?_, fun n hn => ?_⟩
  · rw [hbu, if_pos (by simp [Islet.active, h, ha])]
    simp [State.doT, h, hs2, (ahead_plain s i b (by simp [h]) (by simp [h])).1]
  · rw [hbu, if_pos (by simp [Islet.active, h, ha])]
    simp [State.doT, h, hs2, (ahead_plain s i b (by simp [h]) (by simp [h])).1]
  · rw [hbu, if_pos (by simp [Islet.active, h, ha])]
    simp [State.doT, h, hs2, (ahead_plain s i b (by simp [h]) (by simp [h])).1]
  · rw [hbu, if_pos (by simp [Islet.active, h, ha])]
    simp [State.doT, h, hs2, (ahead_barr hr h ha).2.1]
  · rw [hbu, if_pos (by simp [Islet.active, h, ha])]
    simp [State.doT, h, hs2, (ahead_bwait hr h ha).2.1]
  · rw [hbu, if_pos (by simp [Islet.active, h, ha])]
    simp [State.doT, h, hs2, (ahead_plain s i b (by simp [h]) (by simp [h])).1]
  · have ha' : (ahead s i b).buoy n = s.buoy n := by
      unfold ahead State.buoyWait State.addWaiter
      dsimp only
      split
      · rfl
      · split
        · split
          · rfl
          · dsimp only; split
            · rfl
            · rw [State.buoy_setBuoy_ne _ _ _ _ hn]
        · split
          · split
            · rename_i heq; simp [newHeld] at heq
            · split
              · rw [State.buoy_setBuoy_ne _ _ _ _ hn]
              · dsimp only
                split
                · rw [State.buoy_setBuoy_ne _ _ _ _ hn]
                · rw [State.buoy_setBuoy_ne _ _ _ _ hn, State.buoy_setBuoy_ne _ _ _ _ hn]
          · rfl
    rw [hbu, ← ha', ← hs2]
    split
    · cases h : b.t.op <;>
        simp only [State.doT, h] <;>
        first
        | rfl
        | exact State.buoy_setBuoy_ne _ _ _ _ hn
        | (split <;> rfl)
    · rfl

/-! Control: the pc, the control registers, the loop, the handler, the assignment. -/

/-- The control state of an Islet is as it was. -/
def CtlKept (x y : Islet) : Prop :=
  y.pc = x.pc ∧ y.c = x.c ∧ y.inHandler = x.inHandler ∧ y.loopActive = x.loopActive ∧ y.idle = x.idle ∧ y.halted = x.halted ∧
  y.stepping = x.stepping ∧ y.haltReq = x.haltReq ∧ y.retired = x.retired

theorem CtlKept.refl (x : Islet) : CtlKept x x := ⟨rfl, rfl, rfl, rfl, rfl, rfl, rfl, rfl, rfl⟩

theorem CtlKept.trans {x y z : Islet} (h : CtlKept x y) (k : CtlKept y z) : CtlKept x z := by
  obtain ⟨h1, h2, h3, h4, h5, h6, h7, h8, h9⟩ := h
  obtain ⟨k1, k2, k3, k4, k5, k6, k7, k8, k9⟩ := k
  exact ⟨k1.trans h1, k2.trans h2, k3.trans h3, k4.trans h4, k5.trans h5, k6.trans h6, k7.trans h7, k8.trans h8, k9.trans h9⟩

theorem CtlKept.setG (x : Islet) (n : Nat) (w : Word64) : CtlKept x (x.setG n w) := by
  unfold Islet.setG; split <;> exact .refl x
theorem CtlKept.setP (x : Islet) (n : Nat) (w : Word64) : CtlKept x (x.setP n w) := by
  unfold Islet.setP; split <;> exact .refl x
theorem CtlKept.setV (x : Islet) (n : Nat) (w : VReg) : CtlKept x (x.setV n w) := .refl x
theorem CtlKept.setT (x : Islet) (n : Nat) (w : Acc) : CtlKept x (x.setT n w) := .refl x

theorem CtlKept.writeLoad (x : Islet) (op : MOp) (n k raw : Nat) : CtlKept x (x.writeLoad op n k raw) := by
  cases op <;> first | exact .setG .. | exact .refl x

/-- Further fields of the Islet may differ. -/
theorem CtlKept.upd {x y : Islet} {f0 : SMap Word64} {f1 : SMap VReg} {f2 : SMap Acc} {f3 : SMap Word64} {f8 : Nat} {f10 : SMap Nat} {f11 : Nat}
    {f12 : Nat} {f15 : Nat} {f18 : Bool} {f19 : SMap Word32} {f20 : List QLoad} {f21 : List QStore} {f22 : SMap Tow} {f23 : SMap DErr} {f24 :
    List DErr} {f25 : Nat} {f26 : Option Held} {f27 : List (Nat × BitVec 256)} {f28 : Option Nat} {f29 : List Nat} {f30 : Option Nat} {f31 : Bool} {f32 : Option Assign} {f33 : Nat}
(h : CtlKept x y) : CtlKept x ⟨f0, f1, f2, f3, y.c, y.inHandler, y.loopActive, y.pc, f8, y.retired, f10, f11, f12, y.idle, y.halted, f15,
    y.haltReq, y.stepping, f18, f19, f20, f21, f22, f23, f24, f25, f26, f27, f28, f29, f30, f31, f32, f33⟩ := h

/-- A scalar slot changes no control state but by MTC, LOOP and ERET. -/
theorem doS_ctl (x0 x : Islet) (i e c : Nat) (sl : SIns) (h1 : sl.op ≠ .mtc) (h2 : sl.op ≠ .loop) (h3 : sl.op ≠ .eret) : CtlKept x (doS x0 x i e c sl) := by
  obtain ⟨op, a⟩ := sl
  cases op <;>
    first
    | exact absurd rfl h1
    | exact absurd rfl h2
    | exact absurd rfl h3
    | exact .refl x
    | exact CtlKept.setG x a.rd.toNat _
    | exact CtlKept.setP x (a.rd.toNat % 8) _

theorem doM_ctl (s : State) (x0 x : Islet) (i c : Nat) (m : MIns) : CtlKept x (s.doM i x0 x m c).2 := by
  obtain ⟨op, a⟩ := m
  cases op
  case twait => exact CtlKept.setG x a.rd.toNat _
  case tstat => exact CtlKept.setG x a.rd.toNat _
  case ld | ldu | vld | vlds =>
    simp only [State.doM, MOp.isTow, MOp.isLoad, Bool.false_eq_true, if_false, if_true]
    split
    · exact CtlKept.upd (CtlKept.writeLoad x _ a.size.toNat a.rd.toNat _)
    · exact .refl x
  case st | vst =>
    simp only [State.doM, MOp.isTow, MOp.isLoad, MOp.isStore, Bool.false_eq_true, if_false, if_true]
    split <;> exact .refl x
  all_goals exact .refl x

theorem doV_ctl (x0 x : Islet) (c : Nat) (v : VIns) : CtlKept x (doV x0 x v c).1 := by
  unfold doV
  split
  · dsimp only
    split <;>
      first
      | with_reducible exact .refl x
      | exact CtlKept.upd (CtlKept.setP x _ _)
      | exact CtlKept.upd (CtlKept.setV x _ _)
      | exact CtlKept.upd (CtlKept.setT x _ _)
      | exact CtlKept.upd (CtlKept.setG x _ _)
  · exact .refl x

theorem doT_ctl (s : State) (x0 x : Islet) (i c : Nat) (t : TIns) (got : Word64) : CtlKept x (s.doT i x0 x t c got).2.1 := by
  obtain ⟨op, a, b⟩ := t
  cases op
  case tmma =>
    simp only [State.doT]
    split <;> exact .refl x
  case barv | bpoll | bwait | barr => exact CtlKept.setG x b.rd.toNat _
  all_goals exact .refl x

theorem afterT_ctl (s : State) (i : Nat) (b : Bundle) (a : Active) (c : Nat) (got : Word64) (h : b.s1.legal = true) :
    (a.s1 = true → b.s1.a.slot = .s1) → CtlKept (afterS0 (s.islet i) i s.dev.epoch b a c) (s.afterT i b a c got).2.1 := by
  intro hs
  have h1 : CtlKept (afterS0 (s.islet i) i s.dev.epoch b a c) (afterS1 (s.islet i) i s.dev.epoch b a c) := by
    unfold afterS1
    split
    · next ha =>
      have hl : b.s1.op.s0Only = false := by
        simp only [SIns.legal, hs ha, Bool.and_eq_true, Bool.or_eq_true, Bool.not_eq_true'] at h
        rcases h.1.1.2 with h | h
        · cases h
        · exact h
      exact doS_ctl _ _ _ _ _ _ (by rintro e; rw [e] at hl; cases hl) (by rintro e; rw [e] at hl; cases hl) (by rintro e; rw [e] at hl; cases hl)
    · exact .refl _
  have h2 : CtlKept (afterS1 (s.islet i) i s.dev.epoch b a c) (s.afterM i b a c).2 := by
    unfold State.afterM
    split
    · exact doM_ctl ..
    · exact .refl _
  have h3 : CtlKept (s.afterM i b a c).2 (s.afterV i b a c).2.1 := by
    unfold State.afterV
    split
    · exact doV_ctl _ _ _ _
    · exact .refl _
  refine ((h1.trans h2).trans h3).trans ?_
  unfold State.afterT
  split
  · exact doT_ctl ..
  · exact .refl _

theorem finish_ctl (x : Islet) (b : Bundle) (a : Active) (c : Nat) (f : FpFlags) (t : Bool) :
    (x.finish b a c f t).pc = x.pc ∧ (∀ k, k ≠ 10 → (x.finish b a c f t).craw k = x.craw k) ∧
    (x.finish b a c f t).craw 10 = (x.craw 10 ||| f.setWidth 64) ∧
    (x.finish b a c f t).inHandler = x.inHandler ∧ (x.finish b a c f t).loopActive = x.loopActive ∧
    (x.finish b a c f t).idle = (x.idle || (a.s0 && decide (b.s0.op = .endA))) ∧
    (x.finish b a c f t).retired = x.retired + 1 ∧ (x.finish b a c f t).cycle = c + 1 + b2n t ∧ (x.finish b a c f t).held = none := by
  have hc : ∀ k, (x.finish b a c f t).craw k = (x.setCraw 10 (x.craw 10 ||| f.setWidth 64)).craw k := by
    intro k
    unfold Islet.finish Islet.ended
    dsimp only
    split <;> split <;> split <;> rfl
  refine ⟨?_, fun k hk => ?_, ?_, ?_, ?_, ?_, ?_, ?_, ?_⟩
  case refine_2 => rw [hc]; simp [Islet.craw, Islet.setCraw, SMap.get_set_ne _ _ _ _ _ hk]
  case refine_3 => rw [hc]; simp [Islet.craw, Islet.setCraw]
  case refine_6 =>
    unfold Islet.finish Islet.ended Islet.setCraw
    dsimp only
    by_cases h : a.s0 = true ∧ b.s0.op = .endA
    · rw [if_pos h]; simp [h.1, h.2]
    · rw [if_neg h]
      have : (a.s0 && decide (b.s0.op = .endA)) = false := by
        cases h0 : a.s0 <;> simp_all
      rw [this, Bool.or_false]
      split <;> split <;> rfl
  all_goals
    unfold Islet.finish Islet.ended Islet.setCraw
    dsimp only
    split <;> split <;> split <;> rfl

/-- The control state after a completed bundle without a running TRAP: what slot S0 leaves, the flags, the end of an assignment (R30, R37, R38). -/
theorem issued_ctl (hr : Ready s i b) (hs : b.s1.a.slot = .s1) (hn : ¬ (((s.islet i).active b).s0 = true ∧ b.s0.op = .trap)) :
    ∃ z f, z = afterS0 (s.islet i) i s.dev.epoch b ((s.islet i).active b) (cycleOf s i b) ∧
      f = (((ahead s i b).afterV i b ((s.islet i).active b) (cycleOf s i b)).2.2 |||
        ((ahead s i b).afterT i b ((s.islet i).active b) (cycleOf s i b) (observed s i b)).2.2.1) ∧
      ((issued s i b).islet i).pc = z.pc ∧ (∀ k, k ≠ 10 → ((issued s i b).islet i).craw k = z.craw k) ∧
      ((issued s i b).islet i).craw 10 = (z.craw 10 ||| f.setWidth 64) ∧
      ((issued s i b).islet i).inHandler = z.inHandler ∧ ((issued s i b).islet i).loopActive = z.loopActive ∧
      ((issued s i b).islet i).idle = (z.idle || (((s.islet i).active b).s0 && decide (b.s0.op = .endA))) ∧
      ((issued s i b).islet i).retired = z.retired + 1 ∧
      ((issued s i b).islet i).cycle = cycleOf s i b + 1 + b2n (takenBy (s.islet i) b ((s.islet i).active b)).isSome ∧
      ((issued s i b).islet i).held = none := by
  refine ⟨_, _, rfl, rfl, ?_⟩
  have hc := afterT_ctl (ahead s i b) i b ((s.islet i).active b) (cycleOf s i b) (observed s i b) (legal_slots hr.legal).2.1 (fun _ => hs)
  rw [ahead_islet, ahead_dev] at hc
  obtain ⟨h1, h2, h3, h4, h5, -, -, -, h9⟩ := hc
  have hi : (issued s i b).islet i = ((ahead s i b).afterT i b ((s.islet i).active b) (cycleOf s i b) (observed s i b)).2.1.finish b
      ((s.islet i).active b) (cycleOf s i b) (((ahead s i b).afterV i b ((s.islet i).active b) (cycleOf s i b)).2.2 |||
        ((ahead s i b).afterT i b ((s.islet i).active b) (cycleOf s i b) (observed s i b)).2.2.1)
      (takenBy (s.islet i) b ((s.islet i).active b)).isSome := by
    unfold issued State.complete
    dsimp only
    rw [if_neg hn, ahead_islet, State.islet_setIslet]
  obtain ⟨k1, k2, k3, k4, k5, k6, k7, k8, k9⟩ := finish_ctl ((ahead s i b).afterT i b ((s.islet i).active b) (cycleOf s i b) (observed s i b)).2.1 b
    ((s.islet i).active b) (cycleOf s i b) (((ahead s i b).afterV i b ((s.islet i).active b) (cycleOf s i b)).2.2 |||
        ((ahead s i b).afterT i b ((s.islet i).active b) (cycleOf s i b) (observed s i b)).2.2.1)
      (takenBy (s.islet i) b ((s.islet i).active b)).isSome
  have hcr : ∀ k, ((ahead s i b).afterT i b ((s.islet i).active b) (cycleOf s i b) (observed s i b)).2.1.craw k =
      (afterS0 (s.islet i) i s.dev.epoch b ((s.islet i).active b) (cycleOf s i b)).craw k := by
    intro k; unfold Islet.craw; rw [h2]
  rw [hi]
  exact ⟨k1.trans h1, fun k hk => (k2 k hk).trans (hcr k), by rw [k3, hcr], k4.trans h3, k5.trans h4, by rw [k6, h5], by rw [k7, h9], k8, k9⟩

end Sys2Proof.Machine
end

