-- ==== Sys2Proof/Laws/Frame.lean ====
section
/-! SUPPORT. Link frames (spec 13 R375): a frame as it is sent is 264 bytes long and carries the CRC of what comes before it. -/
namespace Sys2Proof.Machine

theorem crcBits_lt (n c : Nat) (h : c < 2 ^ 32) : crcBits n c < 2 ^ 32 := by
  induction n generalizing c with
  | zero => exact h
  | succ n ih =>
    have h2 : c / 2 < 2 ^ 32 := by omega
    unfold crcBits
    split
    · exact ih _ (Nat.xor_lt_two_pow h2 (by decide))
    · exact ih _ h2

theorem crcFold_lt (b : List Byte) (c : Nat) (h : c < 2 ^ 32) : b.foldl (fun c x => crcBits 8 (c ^^^ x.toNat)) c < 2 ^ 32 := by
  induction b generalizing c with
  | nil => exact h
  | cons x r ih => exact ih _ (crcBits_lt _ _ (Nat.xor_lt_two_pow h (by have := x.isLt; omega)))

theorem crc32c_lt (b : List Byte) : crc32c b < 2 ^ 32 := Nat.xor_lt_two_pow (crcFold_lt b _ (by decide)) (by decide)

@[simp] theorem leBytes_length (n v : Nat) : (leBytes n v).length = n := by
  induction n generalizing v with
  | zero => rfl
  | succ n ih => simp [leBytes, ih]

theorem ofLe_leBytes (n v : Nat) : ofLe (leBytes n v) = v % 2 ^ (8 * n) := by
  induction n generalizing v with
  | zero => simp [leBytes, ofLe, Nat.mod_one]
  | succ n ih =>
    simp only [leBytes, ofLe, ih, BitVec.toNat_ofNat]
    rw [show 8 * (n + 1) = 8 + 8 * n by omega, Nat.pow_add]
    exact (Nat.mod_mul (x := v) (a := 2 ^ 8) (b := 2 ^ (8 * n))).symm

/-- The bytes of any frame: 264 of them, the last four the CRC-32C of the first 260. -/
theorem frame_bytes_whole (f : LFrame) : f.bytes.length = 264 ∧ leAt f.bytes 260 4 = crc32c (f.bytes.take 260) := by
  let h := leBytes 2 (f.fseq % 4096 + f.typ * 4096) ++ leBytes 2 (f.ack % 4096 + (f.vc % 4) * 4096 + b2n f.last * 2 ^ 14) ++
    (f.data ++ List.replicate 256 0).take 256
  have hl : h.length = 260 := by
    simp only [h, List.length_append, List.length_take, List.length_replicate, leBytes_length]; omega
  have hb : f.bytes = h ++ leBytes 4 (crc32c h) := rfl
  refine ⟨by rw [hb, List.length_append, hl, leBytes_length], ?_⟩
  have ht : f.bytes.take 260 = h := by rw [hb, ← hl]; exact List.take_left ..
  have hd : f.bytes.drop 260 = leBytes 4 (crc32c h) := by rw [hb, ← hl]; exact List.drop_left ..
  rw [ht, leAt, hd, List.take_of_length_le (by simp), ofLe_leBytes, Nat.mod_eq_of_lt (crc32c_lt h)]

end Sys2Proof.Machine
end

