-- ==== Sys2Proof/Laws/Keeps.lean ====
section
/-! SUPPORT. What an update keeps (`Keeps`), as rules that go through the shapes a meaning is built from: a record update, a choice, a fold. -/
namespace Sys2Proof

open Machine

theorem Keeps.refl (s : State) : Keeps s s :=
  ⟨⟨rfl, id, List.prefix_refl _, Nat.le_refl _⟩, rfl, rfl, fun _ => id, id, id⟩

theorem Keeps.trans {a b c : State} (h : Keeps a b) (k : Keeps b c) : Keeps a c := by
  obtain ⟨⟨p1, c1, o1, f1⟩, u1, v1, i1, d1, e1⟩ := h
  obtain ⟨⟨p2, c2, o2, f2⟩, u2, v2, i2, d2, e2⟩ := k
  exact ⟨⟨p2.trans p1, c2 ∘ c1, o1.trans o2, Nat.le_trans f1 f2⟩, u2.trans u1, v2.trans v1, fun h => i2 h ∘ i1 h, d2 ∘ d1, e2 ∘ e1⟩

/-- The general case of an update whose fields under `Keeps` are related as it says. -/
theorem Keeps.of {a x y : State} (h : Keeps a x) (hp : y.pending = x.pending) (hc : canonical x = true → canonical y = true) (ho : x.out <+: y.out)
    (hf : x.freeCount ≤ y.freeCount) (hs : OtpKept x y) : Keeps a y := h.trans ⟨⟨hp, hc, ho, hf⟩, hs⟩

/-- An update of fields that `Keeps` does not speak of. -/
theorem Keeps.upd {a x : State} {t : Nat} {i : SMap Islet} {b : SMap Buoy} {pl : Place} {u : SMap NSlot} {ch : Chain} {ep : Endpoint}
    {ti : TimeSt} {co : CondSt} {sh : ShoreSt} {fu : FuseSt} {gs : GsolSt} {ma : MapSt} {re : ReefSt} {de : Dev} {cf : Cfg} {pw : Pwr} {ta : Tap} :
    Keeps a ⟨x.pending, x.freeCount, t, x.csr, x.act, x.mem, x.out, i, b, pl, u, ch, ep, ti, co, sh, fu, gs, ma, re, de, cf, x.sec, pw, ta⟩ ↔ Keeps a x := Iff.rfl

/-- The same with a security block whose OTP stands. -/
theorem Keeps.updSec {a x : State} {t : Nat} {i : SMap Islet} {b : SMap Buoy} {pl : Place} {u : SMap NSlot} {ch : Chain} {ep : Endpoint}
    {ti : TimeSt} {co : CondSt} {sh : ShoreSt} {fu : FuseSt} {gs : GsolSt} {ma : MapSt} {re : ReefSt} {de : Dev} {cf : Cfg} {pw : Pwr} {ta : Tap}
    {sd : Option (List Byte)} {rw : SMap OtpRow} {nr : Nat} {ar : Bool} {ip : List Byte} :
    Keeps a ⟨x.pending, x.freeCount, t, x.csr, x.act, x.mem, x.out, i, b, pl, u, ch, ep, ti, co, sh, fu, gs, ma, re, de, cf,
      ⟨x.sec.uid, x.sec.vendorHash, x.sec.integratorHash, x.sec.vendorDisable, sd, x.sec.enrolDone, rw, nr, ar, ip⟩, pw, ta⟩ ↔ Keeps a x := Iff.rfl

theorem Keeps.ite {a x y : State} {c : Prop} [Decidable c] (h : Keeps a x) (k : Keeps a y) : Keeps a (if c then x else y) := by
  split <;> assumption

theorem Keeps.foldl {α : Type} {a : State} {f : State → α → State} {l : List α} {x : State} (h : Keeps a x)
    (hf : ∀ y e, Keeps a y → Keeps a (f y e)) : Keeps a (l.foldl f x) := by
  induction l generalizing x with
  | nil => exact h
  | cons e r ih => exact ih (hf x e h)

theorem Keeps.foldlFst {α β : Type} {a : State} {f : State × β → α → State × β} {l : List α} {x : State × β} (h : Keeps a x.1)
    (hf : ∀ y e, Keeps a y.1 → Keeps a (f y e).1) : Keeps a (l.foldl f x).1 := by
  induction l generalizing x with
  | nil => exact h
  | cons e r ih => exact ih (hf x e h)

theorem Keeps.foldlSnd {α β : Type} {a : State} {f : β × State → α → β × State} {l : List α} {x : β × State} (h : Keeps a x.2)
    (hf : ∀ y e, Keeps a y.2 → Keeps a (f y e).2) : Keeps a (l.foldl f x).2 := by
  induction l generalizing x with
  | nil => exact h
  | cons e r ih => exact ih (hf x e h)

theorem Keeps.iteFst {β : Type} {a : State} {x y : State × β} {c : Prop} [Decidable c] (h : Keeps a x.1) (k : Keeps a y.1) :
    Keeps a (if c then x else y).1 := by split <;> assumption

theorem Keeps.iteSnd {β : Type} {a : State} {x y : β × State} {c : Prop} [Decidable c] (h : Keeps a x.2) (k : Keeps a y.2) :
    Keeps a (if c then x else y).2 := by split <;> assumption

/-- The state of a pair that a match has taken apart. -/
theorem Keeps.ofSnd {β : Type} {a t : State} {p : β × State} {x : β} (e : p = (x, t)) (h : Keeps a p.2) : Keeps a t := by
  rw [e] at h; exact h

theorem Keeps.ofFst {β : Type} {a t : State} {p : State × β} {x : β} (e : p = (t, x)) (h : Keeps a p.1) : Keeps a t := by
  rw [e] at h; exact h

theorem canonical_iff (s : State) :
    canonical s = true ↔ memWf s.mem = true ∧ SMap.wf csrReset s.csr = true ∧ SMap.wf csrReset s.act = true := by
  simp [canonical, and_assoc]

end Sys2Proof

namespace Sys2Proof.Machine

variable {base s : State}

theorem keeps_setReg (hz : Keeps base s) (o v : Nat) : Keeps base (s.setReg o v) :=
  hz.of rfl (by simp only [canonical_iff]; rintro ⟨h1, h2, h3⟩; exact ⟨h1, SMap.wf_set _ _ _ _ h2, h3⟩) (List.prefix_refl _) (Nat.le_refl _)
    ⟨rfl, rfl, fun _ => id, id, id⟩

theorem keeps_setByte (hz : Keeps base s) (a : Nat) (v : Byte) : Keeps base (s.setByte a v) :=
  hz.of rfl (by simp only [canonical_iff]; rintro ⟨h1, h2, h3⟩; exact ⟨SMap.wf_set _ _ _ _ h1, h2, h3⟩) (List.prefix_refl _) (Nat.le_refl _)
    ⟨rfl, rfl, fun _ => id, id, id⟩

theorem keeps_store (hz : Keeps base s) (a : Nat) (l : List Byte) : Keeps base (s.store a l) := by
  induction l generalizing s a with
  | nil => exact hz
  | cons b r ih => exact ih (keeps_setByte hz a b) _

theorem keeps_zero (hz : Keeps base s) (a n : Nat) : Keeps base (s.zero a n) :=
  hz.of rfl (by simp only [canonical_iff]; rintro ⟨h1, h2, h3⟩; exact ⟨SMap.wf_clearRange _ _ _ _ h1, h2, h3⟩) (List.prefix_refl _) (Nat.le_refl _)
    ⟨rfl, rfl, fun _ => id, id, id⟩

theorem keeps_tick (hz : Keeps base s) : Keeps base s.tick :=
  hz.of rfl id (List.prefix_refl _) (Nat.le_succ _) ⟨rfl, rfl, fun _ => id, id, id⟩

theorem keeps_emit (hz : Keeps base s) (o : Out) : Keeps base (s.emit o) :=
  hz.of rfl id (List.prefix_append _ _) (Nat.le_refl _) ⟨rfl, rfl, fun _ => id, id, id⟩

theorem keeps_actCsr (hz : Keeps base s) : Keeps base { s with act := s.csr } :=
  hz.of rfl (by simp only [canonical_iff]; rintro ⟨h1, h2, h3⟩; exact ⟨h1, h2, h2⟩) (List.prefix_refl _) (Nat.le_refl _) ⟨rfl, rfl, fun _ => id, id, id⟩

/-- Entries are taken out of the registers. -/
theorem keeps_csrFilter (hz : Keeps base s) (f : Nat × Word32 → Bool) : Keeps base { s with csr := s.csr.filter f } :=
  hz.of rfl (by simp only [canonical_iff]; rintro ⟨h1, h2, h3⟩; exact ⟨h1, SMap.wf_filter _ _ _ h2, h3⟩) (List.prefix_refl _) (Nat.le_refl _)
    ⟨rfl, rfl, fun _ => id, id, id⟩

/-- The memory is emptied. -/
theorem keeps_memNil (hz : Keeps base s) : Keeps base { s with mem := [] } :=
  hz.of rfl (by simp only [canonical_iff]; rintro ⟨h1, h2, h3⟩; exact ⟨rfl, h2, h3⟩) (List.prefix_refl _) (Nat.le_refl _)
    ⟨rfl, rfl, fun _ => id, id, id⟩

theorem keeps_whenAwake (hz : Keeps base s) (f : State → State) (hf : ∀ x, Keeps base x → Keeps base (f x)) : Keeps base (s.whenAwake f) := by
  unfold State.whenAwake
  exact Keeps.ite hz (hf _ hz)

end Sys2Proof.Machine
end

