-- ==== Sys2Proof/Laws/KeepsOps.lean ====
section
/-! SUPPORT. What the definitions of Machine/Ops.lean keep: the queue, the canonical form of the tables, what has left the device, the free
values taken, the OTP (`Keeps`). -/
namespace Sys2Proof.Machine

theorem keeps_setFld {org s : State} (hz : Keeps org s) (o : Nat) (b : Bits) (v : Nat) : Keeps org (State.setFld s o b v) := by
  unfold State.setFld
  try dsimp only
  repeat' first
    | with_reducible assumption | intro _ | with_reducible apply keeps_setReg | with_reducible apply Keeps.ite | with_reducible apply Keeps.foldl
    | with_reducible apply Keeps.iteFst | with_reducible apply Keeps.iteSnd | split | simp only [Keeps.upd]

theorem keeps_inc {org s : State} (hz : Keeps org s) (o : Nat) : Keeps org (State.inc s o) := by
  unfold State.inc
  try dsimp only
  repeat' first
    | with_reducible assumption | intro _ | with_reducible apply keeps_setReg | with_reducible apply Keeps.ite | with_reducible apply Keeps.foldl
    | split | simp only [Keeps.upd]

theorem keeps_addTo {org s : State} (hz : Keeps org s) (o : Nat) (n : Nat) : Keeps org (State.addTo s o n) := by
  unfold State.addTo
  try dsimp only
  repeat' first
    | with_reducible assumption | intro _ | with_reducible apply keeps_setReg | with_reducible apply Keeps.ite | with_reducible apply Keeps.foldl
    | split | simp only [Keeps.upd]

theorem keeps_incWrap {org s : State} (hz : Keeps org s) (o : Nat) : Keeps org (State.incWrap s o) := by
  unfold State.incWrap
  try dsimp only
  repeat' first
    | with_reducible assumption | intro _ | with_reducible apply keeps_setReg | with_reducible apply Keeps.ite | with_reducible apply Keeps.foldl
    | split | simp only [Keeps.upd]

theorem keeps_setReg64 {org s : State} (hz : Keeps org s) (o : Nat) (v : Nat) : Keeps org (State.setReg64 s o v) := by
  unfold State.setReg64
  try dsimp only
  repeat' first
    | with_reducible assumption | intro _ | with_reducible apply keeps_setReg | with_reducible apply Keeps.ite | with_reducible apply Keeps.foldl
    | split | simp only [Keeps.upd]

theorem keeps_at {org s : State} (hz : Keeps org s) (t : Nat) : Keeps org (State.at s t) := by
  unfold State.at
  try dsimp only
  repeat' first
    | with_reducible assumption | intro _ | with_reducible apply Keeps.ite | with_reducible apply Keeps.foldl | split | simp only [Keeps.upd]

theorem keeps_convStale {org s : State} (hz : Keeps org s) (t : Int) : Keeps org (State.convStale s t) := by
  unfold State.convStale
  try dsimp only
  repeat' first
    | with_reducible assumption | intro _ | with_reducible apply keeps_inc | with_reducible apply Keeps.ite | with_reducible apply Keeps.foldl
    | with_reducible apply Keeps.iteFst | with_reducible apply Keeps.iteSnd | split | simp only [Keeps.upd]

theorem keeps_invStale {org s : State} (hz : Keeps org s) (b : Nat) (x : Int) : Keeps org (State.invStale s b x) := by
  unfold State.invStale
  try dsimp only
  repeat' first
    | with_reducible assumption | intro _ | with_reducible apply keeps_inc | with_reducible apply Keeps.ite | with_reducible apply Keeps.foldl
    | with_reducible apply Keeps.iteFst | with_reducible apply Keeps.iteSnd | split | simp only [Keeps.upd]

end Sys2Proof.Machine
end

