-- ==== Sys2Proof/Laws/KeepsLink.lean ====
section
/-! SUPPORT. What the definitions of Machine/Link.lean keep: the queue, the canonical form of the tables, what has left the device, the free
values taken, the OTP (`Keeps`). -/
namespace Sys2Proof.Machine

theorem keeps_setCport {org s : State} (hz : Keeps org s) (p : Nat) (c : CPort) : Keeps org (State.setCport s p c) := by
  unfold State.setCport
  try dsimp only
  repeat' first
    | with_reducible assumption | intro _ | with_reducible apply Keeps.ite | with_reducible apply Keeps.foldl | split | simp only [Keeps.upd]

theorem keeps_sendFrame {org s : State} (hz : Keeps org s) (p : Nat) (typ : Nat) (vc : Nat) (last : Bool) (data : List Byte) : Keeps org (State.sendFrame s p typ vc last data) := by
  unfold State.sendFrame
  try dsimp only
  repeat' first
    | with_reducible assumption | intro _ | with_reducible apply keeps_setCport | with_reducible apply keeps_emit | with_reducible apply Keeps.ite
    | with_reducible apply Keeps.foldl | split | simp only [Keeps.upd]

theorem keeps_sendCtl {org s : State} (hz : Keeps org s) (p : Nat) (typ : Nat) (ack : Nat) (vc : Nat) (data : List Byte) : Keeps org (State.sendCtl s p typ ack vc data) := by
  unfold State.sendCtl
  try dsimp only
  repeat' first
    | with_reducible assumption | intro _ | with_reducible apply keeps_emit | with_reducible apply Keeps.ite | with_reducible apply Keeps.foldl
    | split | simp only [Keeps.upd]

theorem keeps_sendChunks {org s : State} (hz : Keeps org s) (p vc : Nat) (l : List (List Byte)) : Keeps org (s.sendChunks p vc l) := by
  induction l generalizing s with
  | nil => exact hz
  | cons d r ih =>
    cases r with
    | nil => exact keeps_sendFrame hz _ _ _ _ _
    | cons e r => exact ih (keeps_sendFrame hz _ _ _ _ _)

theorem keeps_transmit {org s : State} (hz : Keeps org s) (p : Nat) (m : Msg) : Keeps org (State.transmit s p m) := by
  unfold State.transmit
  try dsimp only
  repeat' first
    | with_reducible assumption | intro _ | with_reducible apply keeps_setCport | with_reducible apply keeps_sendChunks
    | with_reducible apply keeps_incWrap | with_reducible apply keeps_emit | with_reducible apply Keeps.ite | with_reducible apply Keeps.foldl | split
    | simp only [Keeps.upd]

theorem keeps_sendOn {org s : State} (hz : Keeps org s) (p : Nat) (m : Msg) : Keeps org (State.sendOn s p m) := by
  unfold State.sendOn
  try dsimp only
  repeat' first
    | with_reducible assumption | intro _ | with_reducible apply keeps_transmit | with_reducible apply keeps_setCport | with_reducible apply keeps_inc
    | with_reducible apply Keeps.ite | with_reducible apply Keeps.foldl | split | simp only [Keeps.upd]

theorem keeps_drainVc {org s : State} (hz : Keeps org s) (p : Nat) (vc : Nat) (xs0 : Nat) : Keeps org (State.drainVc s p vc xs0) := by
  induction xs0 generalizing s p vc with
  | zero =>
    unfold State.drainVc
    try dsimp only
    repeat' first
      | with_reducible assumption | intro _ | with_reducible apply keeps_setCport | with_reducible apply keeps_transmit
      | with_reducible apply Keeps.ite | with_reducible apply Keeps.foldl | with_reducible refine Keeps.ofSnd (by assumption) ?_
      | with_reducible refine Keeps.ofFst (by assumption) ?_ | split | simp only [Keeps.upd]
  | succ n ih =>
    unfold State.drainVc
    try dsimp only
    repeat' first
      | with_reducible assumption | intro _ | with_reducible apply ih | with_reducible apply keeps_setCport | with_reducible apply keeps_transmit
      | with_reducible apply Keeps.ite | with_reducible apply Keeps.foldl | with_reducible refine Keeps.ofSnd (by assumption) ?_
      | with_reducible refine Keeps.ofFst (by assumption) ?_ | split | simp only [Keeps.upd]

theorem keeps_drain {org s : State} (hz : Keeps org s) (p : Nat) : Keeps org (State.drain s p) := by
  unfold State.drain
  try dsimp only
  repeat' first
    | with_reducible assumption | intro _ | with_reducible apply keeps_drainVc | with_reducible apply Keeps.ite | with_reducible apply Keeps.foldl
    | split | simp only [Keeps.upd]

theorem keeps_useSeq {org s : State} (hz : Keeps org s) (d : Nat) : Keeps org (State.useSeq s d) := by
  unfold State.useSeq
  try dsimp only
  repeat' first
    | with_reducible assumption | intro _ | with_reducible apply Keeps.ite | with_reducible apply Keeps.foldl | split | simp only [Keeps.upd]

theorem keeps_sendMsg {org s : State} (hz : Keeps org s) (d : Nat) (cls : Nat) (tag : Nat) (payload : List Byte) : Keeps org (State.sendMsg s d cls tag payload) := by
  unfold State.sendMsg
  try dsimp only
  repeat' first
    | with_reducible assumption | intro _ | with_reducible apply keeps_useSeq | with_reducible apply keeps_sendOn | with_reducible apply keeps_inc
    | with_reducible apply Keeps.ite | with_reducible apply Keeps.foldl | split | simp only [Keeps.upd]

theorem keeps_sendCtrl {org s : State} (hz : Keeps org s) (p : Nat) (subtype : Nat) (value : Nat) : Keeps org (State.sendCtrl s p subtype value) := by
  unfold State.sendCtrl
  try dsimp only
  repeat' first
    | with_reducible assumption | intro _ | with_reducible apply keeps_useSeq | with_reducible apply keeps_sendOn | with_reducible apply keeps_inc
    | with_reducible apply Keeps.ite | with_reducible apply Keeps.foldl | split | simp only [Keeps.upd]

end Sys2Proof.Machine
end

