-- ==== Sys2Proof/Laws/KeepsIntc.lean ====
section
/-! SUPPORT. What the definitions of Machine/Intc.lean keep: the queue, the canonical form of the tables, what has left the device, the free
values taken, the OTP (`Keeps`). -/
namespace Sys2Proof.Machine

theorem keeps_setSrcBit {org s : State} (hz : Keeps org s) (base : Nat) (n : Nat) (v : Bool) : Keeps org (State.setSrcBit s base n v) := by
  unfold State.setSrcBit
  try dsimp only
  repeat' first
    | with_reducible assumption | intro _ | with_reducible apply keeps_setReg | with_reducible apply Keeps.ite | with_reducible apply Keeps.foldl
    | split | simp only [Keeps.upd]

theorem keeps_msixWrite {org s : State} (hz : Keeps org s) (v : Nat) : Keeps org (State.msixWrite s v) := by
  unfold State.msixWrite
  try dsimp only
  repeat' first
    | with_reducible assumption | intro _ | with_reducible apply keeps_setReg | with_reducible apply keeps_emit | with_reducible apply keeps_inc
    | with_reducible apply Keeps.ite | with_reducible apply Keeps.foldl | split | simp only [Keeps.upd]

theorem keeps_eventMsg {org s : State} (hz : Keeps org s) (n : Nat) (d : Nat) : Keeps org (State.eventMsg s n d) := by
  unfold State.eventMsg
  try dsimp only
  repeat' first
    | with_reducible assumption | intro _ | with_reducible apply keeps_inc | with_reducible apply keeps_sendMsg | with_reducible apply Keeps.ite
    | with_reducible apply Keeps.foldl | split | simp only [Keeps.upd]

theorem keeps_deliver {org s : State} (hz : Keeps org s) (n : Nat) : Keeps org (State.deliver s n) := by
  unfold State.deliver
  try dsimp only
  repeat' first
    | with_reducible assumption | intro _ | with_reducible apply keeps_msixWrite | with_reducible apply keeps_eventMsg
    | with_reducible apply Keeps.ite | with_reducible apply Keeps.foldl | split | simp only [Keeps.upd]

theorem keeps_raise {org s : State} (hz : Keeps org s) (n : Nat) : Keeps org (State.raise s n) := by
  unfold State.raise
  try dsimp only
  repeat' first
    | with_reducible assumption | intro _ | with_reducible apply keeps_setReg | with_reducible apply keeps_setSrcBit
    | with_reducible apply keeps_deliver | with_reducible apply Keeps.ite | with_reducible apply Keeps.foldl | split | simp only [Keeps.upd]

theorem keeps_setLevel {org s : State} (hz : Keeps org s) (n : Nat) (high : Bool) : Keeps org (State.setLevel s n high) := by
  unfold State.setLevel
  try dsimp only
  repeat' first
    | with_reducible assumption | intro _ | with_reducible apply keeps_setSrcBit | with_reducible apply keeps_raise | with_reducible apply Keeps.ite
    | with_reducible apply Keeps.foldl | split | simp only [Keeps.upd]

theorem keeps_raiseAll {org s : State} (hz : Keeps org s) (l : List Nat) : Keeps org (State.raiseAll s l) := by
  unfold State.raiseAll
  try dsimp only
  repeat' first
    | with_reducible assumption | intro _ | with_reducible apply keeps_raise | with_reducible apply Keeps.ite | with_reducible apply Keeps.foldl
    | split | simp only [Keeps.upd]

theorem keeps_pendWrite {org s : State} (hz : Keeps org s) (k : Nat) (v : Word32) (meets : List Nat) : Keeps org (State.pendWrite s k v meets) := by
  unfold State.pendWrite
  try dsimp only
  repeat' first
    | with_reducible assumption | intro _ | with_reducible apply keeps_setReg | with_reducible apply keeps_raiseAll | with_reducible apply Keeps.ite
    | with_reducible apply Keeps.foldl | split | simp only [Keeps.upd]

theorem keeps_maskWrite {org s : State} (hz : Keeps org s) (k : Nat) (v : Word32) (meets : List Nat) : Keeps org (State.maskWrite s k v meets) := by
  unfold State.maskWrite
  try dsimp only
  repeat' first
    | with_reducible assumption | intro _ | with_reducible apply keeps_setReg | with_reducible apply keeps_deliver
    | with_reducible apply keeps_raiseAll | with_reducible apply Keeps.ite | with_reducible apply Keeps.foldl | split | simp only [Keeps.upd]

theorem keeps_countWrite {org s : State} (hz : Keeps org s) (n : Nat) (v : Word32) (meets : Bool) : Keeps org (State.countWrite s n v meets) := by
  unfold State.countWrite
  try dsimp only
  repeat' first
    | with_reducible assumption | intro _ | with_reducible apply keeps_setReg | with_reducible apply keeps_raise | with_reducible apply Keeps.ite
    | with_reducible apply Keeps.foldl | split | simp only [Keeps.upd]

theorem keeps_softWrite {org s : State} (hz : Keeps org s) (v : Word32) : Keeps org (State.softWrite s v) := by
  unfold State.softWrite
  try dsimp only
  repeat' first
    | with_reducible assumption | intro _ | with_reducible apply keeps_raise | with_reducible apply Keeps.ite | with_reducible apply Keeps.foldl
    | split | simp only [Keeps.upd]

theorem keeps_execIntcPendWrite {org s : State} (hz : Keeps org s) (k : Fin 16) (v : Word32) (meets : List (Fin 32)) : ∃ u, execIntcPendWrite k v meets s = .next u ∧ Keeps org u := by
  unfold execIntcPendWrite
  refine ⟨_, rfl, ?_⟩
  try dsimp only
  repeat' first
    | with_reducible assumption | intro _ | with_reducible apply keeps_whenAwake | with_reducible apply keeps_pendWrite
    | with_reducible apply Keeps.ite | with_reducible apply Keeps.foldl | split | simp only [Keeps.upd]

theorem keeps_execIntcMaskWrite {org s : State} (hz : Keeps org s) (k : Fin 16) (v : Word32) (meets : List (Fin 32)) : ∃ u, execIntcMaskWrite k v meets s = .next u ∧ Keeps org u := by
  unfold execIntcMaskWrite
  refine ⟨_, rfl, ?_⟩
  try dsimp only
  repeat' first
    | with_reducible assumption | intro _ | with_reducible apply keeps_whenAwake | with_reducible apply keeps_maskWrite
    | with_reducible apply Keeps.ite | with_reducible apply Keeps.foldl | split | simp only [Keeps.upd]

theorem keeps_execIntcCountWrite {org s : State} (hz : Keeps org s) (n : Fin 512) (v : Word32) (meets : Bool) : ∃ u, execIntcCountWrite n v meets s = .next u ∧ Keeps org u := by
  unfold execIntcCountWrite
  refine ⟨_, rfl, ?_⟩
  try dsimp only
  repeat' first
    | with_reducible assumption | intro _ | with_reducible apply keeps_whenAwake | with_reducible apply keeps_countWrite
    | with_reducible apply Keeps.ite | with_reducible apply Keeps.foldl | split | simp only [Keeps.upd]

theorem keeps_execIntcSoft {org s : State} (hz : Keeps org s) (v : Word32) : ∃ u, execIntcSoft v s = .next u ∧ Keeps org u := by
  unfold execIntcSoft
  refine ⟨_, rfl, ?_⟩
  try dsimp only
  repeat' first
    | with_reducible assumption | intro _ | with_reducible apply keeps_whenAwake | with_reducible apply keeps_softWrite
    | with_reducible apply Keeps.ite | with_reducible apply Keeps.foldl | split | simp only [Keeps.upd]

theorem keeps_execLevelDeassert {org s : State} (hz : Keeps org s) (n : Fin 512) : ∃ u, execLevelDeassert n s = .next u ∧ Keeps org u := by
  unfold execLevelDeassert
  refine ⟨_, rfl, ?_⟩
  try dsimp only
  repeat' first
    | with_reducible assumption | intro _ | with_reducible apply keeps_whenAwake | with_reducible apply keeps_setLevel
    | with_reducible apply Keeps.ite | with_reducible apply Keeps.foldl | split | simp only [Keeps.upd]

end Sys2Proof.Machine
end

