-- ==== Sys2Proof/Laws/KeepsRings.lean ====
section
/-! SUPPORT. What the definitions of Machine/Rings.lean keep: the queue, the canonical form of the tables, what has left the device, the free
values taken, the OTP (`Keeps`). -/
namespace Sys2Proof.Machine

theorem keeps_ringWrite {org s : State} (hz : Keeps org s) (r : Nat) (n : Nat) (fields : List (Nat × Nat × Nat)) (src : Option Nat) : Keeps org (State.ringWrite s r n fields src) := by
  unfold State.ringWrite
  try dsimp only
  repeat' first
    | with_reducible assumption | intro _ | with_reducible apply keeps_setReg64 | with_reducible apply keeps_emit | with_reducible apply keeps_raise
    | with_reducible apply keeps_inc | with_reducible apply Keeps.ite | with_reducible apply Keeps.foldl
    | with_reducible refine Keeps.ofSnd (by assumption) ?_ | with_reducible refine Keeps.ofFst (by assumption) ?_ | split | simp only [Keeps.upd]

theorem keeps_eventEntry {org s : State} (hz : Keeps org s) (kind : Nat) (a : Nat) (b : Nat) (c : Nat) (d : Nat) : Keeps org (State.eventEntry s kind a b c d) := by
  unfold State.eventEntry
  try dsimp only
  repeat' first
    | with_reducible assumption | intro _ | with_reducible apply keeps_ringWrite | with_reducible apply Keeps.ite | with_reducible apply Keeps.foldl
    | split | simp only [Keeps.upd]

theorem keeps_setState {org s : State} (hz : Keeps org s) (x : DState) : Keeps org (State.setState s x) := by
  unfold State.setState
  try dsimp only
  repeat' first
    | with_reducible assumption | intro _ | with_reducible apply Keeps.ite | with_reducible apply Keeps.foldl | split | simp only [Keeps.upd]

theorem keeps_enter {org s : State} (hz : Keeps org s) (x : DState) : Keeps org (State.enter s x) := by
  unfold State.enter
  try dsimp only
  repeat' first
    | with_reducible assumption | intro _ | with_reducible apply keeps_setState | with_reducible apply keeps_eventEntry
    | with_reducible apply keeps_raise | with_reducible apply Keeps.ite | with_reducible apply Keeps.foldl | split | simp only [Keeps.upd]

theorem keeps_setCause {org s : State} (hz : Keeps org s) (b : Bits) (v : Bool) : Keeps org (State.setCause s b v) := by
  unfold State.setCause
  try dsimp only
  repeat' first
    | with_reducible assumption | intro _ | with_reducible apply keeps_setFld | with_reducible apply keeps_setLevel | with_reducible apply keeps_enter
    | with_reducible apply Keeps.ite | with_reducible apply Keeps.foldl | split | simp only [Keeps.upd]

theorem keeps_setNetDegraded {org s : State} (hz : Keeps org s) (v : Nat) : Keeps org (State.setNetDegraded s v) := by
  unfold State.setNetDegraded
  try dsimp only
  repeat' first
    | with_reducible assumption | intro _ | with_reducible apply keeps_setReg | with_reducible apply keeps_setLevel
    | with_reducible apply keeps_setCause | with_reducible apply Keeps.ite | with_reducible apply Keeps.foldl | split | simp only [Keeps.upd]

theorem keeps_setNetDegradedBit {org s : State} (hz : Keeps org s) (n : Nat) (v : Bool) : Keeps org (State.setNetDegradedBit s n v) := by
  unfold State.setNetDegradedBit
  try dsimp only
  repeat' first
    | with_reducible assumption | intro _ | with_reducible apply keeps_setNetDegraded | with_reducible apply Keeps.ite
    | with_reducible apply Keeps.foldl | split | simp only [Keeps.upd]

end Sys2Proof.Machine
end

