-- ==== Sys2Proof/Laws/KeepsReads.lean ====
section
/-! SUPPORT. What the definitions of Machine/Reads.lean keep: the queue, the canonical form of the tables, what has left the device, the free
values taken, the OTP (`Keeps`). -/
namespace Sys2Proof.Machine

theorem keeps_issueReads {org s : State} (hz : Keeps org s) (xs0 : Nat) : Keeps org (State.issueReads s xs0) := by
  induction xs0 generalizing s with
  | zero =>
    unfold State.issueReads
    try dsimp only
    repeat' first
      | with_reducible assumption | intro _ | with_reducible apply Keeps.ite | with_reducible apply Keeps.foldl | with_reducible apply Keeps.iteFst
      | with_reducible apply Keeps.iteSnd | with_reducible refine Keeps.ofSnd (by assumption) ?_
      | with_reducible refine Keeps.ofFst (by assumption) ?_ | split | simp only [Keeps.upd]
  | succ n ih =>
    unfold State.issueReads
    try dsimp only
    repeat' first
      | with_reducible assumption | intro _ | with_reducible apply ih | with_reducible apply Keeps.ite | with_reducible apply Keeps.foldl
      | with_reducible apply Keeps.iteFst | with_reducible apply Keeps.iteSnd | with_reducible refine Keeps.ofSnd (by assumption) ?_
      | with_reducible refine Keeps.ofFst (by assumption) ?_ | split | simp only [Keeps.upd]

theorem keeps_runReads {org s : State} (hz : Keeps org s) : Keeps org (State.runReads s) := by
  unfold State.runReads
  try dsimp only
  repeat' first
    | with_reducible assumption | intro _ | with_reducible apply keeps_issueReads | with_reducible apply Keeps.ite | with_reducible apply Keeps.foldl
    | split | simp only [Keeps.upd]

theorem keeps_askRead {org s : State} (hz : Keeps org s) (page : Nat) (cls : Nat) (who : ReadFor) : Keeps org (State.askRead s page cls who) := by
  unfold State.askRead
  try dsimp only
  repeat' first
    | with_reducible assumption | intro _ | with_reducible apply keeps_runReads | with_reducible apply Keeps.ite | with_reducible apply Keeps.foldl
    | split | simp only [Keeps.upd]

theorem keeps_endReads {org s : State} (hz : Keeps org s) (who : ReadFor) : Keeps org (State.endReads s who) := by
  unfold State.endReads
  try dsimp only
  repeat' first
    | with_reducible assumption | intro _ | with_reducible apply keeps_runReads | with_reducible apply Keeps.ite | with_reducible apply Keeps.foldl
    | split | simp only [Keeps.upd]

theorem keeps_readPayload {org s : State} (hz : Keeps org s) (id : Nat) (cls : Nat) (digest : List Byte) : Keeps org (State.readPayload s id cls digest) := by
  unfold State.readPayload
  try dsimp only
  repeat' first
    | with_reducible assumption | intro _ | with_reducible apply keeps_askRead | with_reducible apply Keeps.ite | with_reducible apply Keeps.foldl
    | with_reducible apply Keeps.iteFst | with_reducible apply Keeps.iteSnd | with_reducible refine Keeps.ofSnd (by assumption) ?_
    | with_reducible refine Keeps.ofFst (by assumption) ?_ | split | simp only [Keeps.upd]

end Sys2Proof.Machine
end

