-- ==== Sys2Proof/Laws/KeepsPlace.lean ====
section
/-! SUPPORT. What the definitions of Machine/Place.lean keep: the queue, the canonical form of the tables, what has left the device, the free
values taken, the OTP (`Keeps`). -/
namespace Sys2Proof.Machine

theorem keeps_setObj {org s : State} (hz : Keeps org s) (id : Nat) (o : Option Obj) : Keeps org (State.setObj s id o) := by
  unfold State.setObj
  try dsimp only
  repeat' first
    | with_reducible assumption | intro _ | with_reducible apply Keeps.ite | with_reducible apply Keeps.foldl | split | simp only [Keeps.upd]

theorem keeps_tierRegs {org s : State} (hz : Keeps org s) (t : Nat) : Keeps org (State.tierRegs s t) := by
  unfold State.tierRegs
  try dsimp only
  repeat' first
    | with_reducible assumption | intro _ | with_reducible apply keeps_setReg | with_reducible apply Keeps.ite | with_reducible apply Keeps.foldl
    | with_reducible apply Keeps.iteFst | with_reducible apply Keeps.iteSnd | split | simp only [Keeps.upd]

theorem keeps_placeRegs {org s : State} (hz : Keeps org s) : Keeps org (State.placeRegs s) := by
  unfold State.placeRegs
  try dsimp only
  repeat' first
    | with_reducible assumption | intro _ | with_reducible apply keeps_tierRegs | with_reducible apply keeps_setFld | with_reducible apply Keeps.ite
    | with_reducible apply Keeps.foldl | split | simp only [Keeps.upd]

theorem keeps_countCode {org s : State} (hz : Keeps org s) (t : Nat) (code : Nat) : Keeps org (State.countCode s t code) := by
  unfold State.countCode
  try dsimp only
  repeat' first
    | with_reducible assumption | intro _ | with_reducible apply keeps_inc | with_reducible apply Keeps.ite | with_reducible apply Keeps.foldl | split
    | simp only [Keeps.upd]

theorem keeps_writeDecision {org s : State} (hz : Keeps org s) (d : Decision) : Keeps org (State.writeDecision s d) := by
  unfold State.writeDecision
  try dsimp only
  repeat' first
    | with_reducible assumption | intro _ | with_reducible apply keeps_inc | with_reducible apply keeps_ringWrite | with_reducible apply Keeps.ite
    | with_reducible apply Keeps.foldl | split | simp only [Keeps.upd]

theorem keeps_noteDecision {org s : State} (hz : Keeps org s) (d : Decision) : Keeps org (State.noteDecision s d) := by
  unfold State.noteDecision
  try dsimp only
  repeat' first
    | with_reducible assumption | intro _ | with_reducible apply keeps_writeDecision | with_reducible apply Keeps.ite
    | with_reducible apply Keeps.foldl | split | simp only [Keeps.upd]

theorem keeps_openDec {org s : State} (hz : Keeps org s) (d : Decision) : Keeps org (State.openDec s d).2 := by
  unfold State.openDec
  try dsimp only
  repeat' first
    | with_reducible assumption | intro _ | with_reducible apply Keeps.ite | with_reducible apply Keeps.foldl | with_reducible apply Keeps.iteFst
    | with_reducible apply Keeps.iteSnd | split | simp only [Keeps.upd]

theorem keeps_closeDec {org s : State} (hz : Keeps org s) (n : Nat) (code : Nat) (dst : Nat) (tag : Nat) (began : Bool) : Keeps org (State.closeDec s n code dst tag began) := by
  unfold State.closeDec
  try dsimp only
  repeat' first
    | with_reducible assumption | intro _ | with_reducible apply keeps_noteDecision | with_reducible apply Keeps.ite
    | with_reducible apply Keeps.foldl | with_reducible refine Keeps.ofSnd (by assumption) ?_ | with_reducible refine Keeps.ofFst (by assumption) ?_
    | split | simp only [Keeps.upd]

theorem keeps_allocId {org s : State} (hz : Keeps org s) (id : Nat) (o : Obj) : Keeps org (State.allocId s id o) := by
  unfold State.allocId
  try dsimp only
  repeat' first
    | with_reducible assumption | intro _ | with_reducible apply keeps_setObj | with_reducible apply keeps_placeRegs | with_reducible apply Keeps.ite
    | with_reducible apply Keeps.foldl | split | simp only [Keeps.upd]

theorem keeps_newGen {org s : State} (hz : Keeps org s) (id : Nat) : Keeps org (State.newGen s id) := by
  unfold State.newGen
  try dsimp only
  repeat' first
    | with_reducible assumption | intro _ | with_reducible apply Keeps.ite | with_reducible apply Keeps.foldl
    | with_reducible refine Keeps.ofSnd (by assumption) ?_ | with_reducible refine Keeps.ofFst (by assumption) ?_ | split | simp only [Keeps.upd]

theorem keeps_alloc {org s : State} (hz : Keeps org s) (o : Obj) : Keeps org (State.alloc s o).2 := by
  unfold State.alloc
  try dsimp only
  repeat' first
    | with_reducible assumption | intro _ | with_reducible apply keeps_allocId | with_reducible apply Keeps.ite | with_reducible apply Keeps.foldl
    | with_reducible apply Keeps.iteFst | with_reducible apply Keeps.iteSnd | split | simp only [Keeps.upd]

theorem keeps_allocIds {org s : State} (hz : Keeps org s) (id : Nat) (xs0 : List Obj) : Keeps org (State.allocIds s id xs0) := by
  induction xs0 generalizing s id with
  | nil =>
    unfold State.allocIds
    try dsimp only
    repeat' first
      | with_reducible assumption | intro _ | with_reducible apply keeps_allocId | with_reducible apply Keeps.ite | with_reducible apply Keeps.foldl
      | split | simp only [Keeps.upd]
  | cons e l ih =>
    unfold State.allocIds
    try dsimp only
    repeat' first
      | with_reducible assumption | intro _ | with_reducible apply ih | with_reducible apply keeps_allocId | with_reducible apply Keeps.ite
      | with_reducible apply Keeps.foldl | split | simp only [Keeps.upd]

theorem keeps_allocRun {org s : State} (hz : Keeps org s) (os : List Obj) : Keeps org (State.allocRun s os).2 := by
  unfold State.allocRun
  try dsimp only
  repeat' first
    | with_reducible assumption | intro _ | with_reducible apply keeps_allocIds | with_reducible apply Keeps.ite | with_reducible apply Keeps.foldl
    | with_reducible apply Keeps.iteFst | with_reducible apply Keeps.iteSnd | split | simp only [Keeps.upd]

theorem keeps_clearMarks {org s : State} (hz : Keeps org s) (id : Nat) (size : Nat) : Keeps org (State.clearMarks s id size) := by
  unfold State.clearMarks
  try dsimp only
  repeat' first
    | with_reducible assumption | intro _ | with_reducible apply Keeps.ite | with_reducible apply Keeps.foldl | split | simp only [Keeps.upd]

theorem keeps_closeMove {org s : State} (hz : Keeps org s) (id : Nat) (m : Move) (code : Nat) (began : Bool) : Keeps org (State.closeMove s id m code began) := by
  unfold State.closeMove
  try dsimp only
  repeat' first
    | with_reducible assumption | intro _ | with_reducible apply keeps_closeDec | with_reducible apply Keeps.ite | with_reducible apply Keeps.foldl
    | with_reducible refine Keeps.ofSnd (by assumption) ?_ | with_reducible refine Keeps.ofFst (by assumption) ?_ | split | simp only [Keeps.upd]

theorem keeps_mapDec {org s : State} (hz : Keeps org s) (m : Move) (f : Decision → Decision) : Keeps org (State.mapDec s m f) := by
  unfold State.mapDec
  try dsimp only
  repeat' first
    | with_reducible assumption | intro _ | with_reducible apply Keeps.ite | with_reducible apply Keeps.foldl
    | with_reducible refine Keeps.ofSnd (by assumption) ?_ | with_reducible refine Keeps.ofFst (by assumption) ?_ | split | simp only [Keeps.upd]

theorem keeps_freeObj {org s : State} (hz : Keeps org s) (id : Nat) : Keeps org (s.freeObj id) := by
  unfold State.freeObj
  split
  · exact hz
  · dsimp only
    split
    · exact keeps_setObj hz _ _
    · next o _ _ =>
      have h : Keeps org (match o.promo with
          | some m => s.closeMove id m ccCancelled false
          | none => s) := by
        split
        · exact keeps_closeMove hz _ _ _ _
        · exact hz
      exact keeps_placeRegs (Keeps.upd.2 (keeps_zero (keeps_setObj (keeps_clearMarks h _ _) _ _) _ _))

theorem keeps_credAdd {org s : State} (hz : Keeps org s) (ps : List Nat) (give : Bool) : Keeps org (State.credAdd s ps give) := by
  unfold State.credAdd
  try dsimp only
  repeat' first
    | with_reducible assumption | intro _ | with_reducible apply Keeps.ite | with_reducible apply Keeps.foldl | split | simp only [Keeps.upd]

theorem keeps_waitCredit {org s : State} (hz : Keeps org s) (w : Waiter) (ps : List Nat) : Keeps org (State.waitCredit s w ps) := by
  unfold State.waitCredit
  try dsimp only
  repeat' first
    | with_reducible assumption | intro _ | with_reducible apply keeps_inc | with_reducible apply Keeps.ite | with_reducible apply Keeps.foldl | split
    | simp only [Keeps.upd]

theorem keeps_creditMove {org s : State} (hz : Keeps org s) (id : Nat) : Keeps org (State.creditMove s id) := by
  unfold State.creditMove
  try dsimp only
  repeat' first
    | with_reducible assumption | intro _ | with_reducible apply keeps_credAdd | with_reducible apply keeps_setObj
    | with_reducible apply keeps_waitCredit | with_reducible apply Keeps.ite | with_reducible apply Keeps.foldl
    | with_reducible refine Keeps.ofSnd (by assumption) ?_ | with_reducible refine Keeps.ofFst (by assumption) ?_ | split | simp only [Keeps.upd]

theorem keeps_evictOne {org : State} (dec c owner : Nat) {e : Evicted} (hz : Keeps org e.st) (v : Nat × Obj) : Keeps org (evictOne dec c owner e v).st := by
  unfold evictOne
  dsimp only
  repeat' first
    | with_reducible assumption | with_reducible apply keeps_inc | with_reducible apply keeps_creditMove | with_reducible apply keeps_setObj | split

theorem keeps_evictList {org : State} (dec c owner need : Nat) {e : Evicted} (hz : Keeps org e.st) (l : List (Nat × Obj)) :
    Keeps org (evictList dec c owner need e l).st := by
  induction l generalizing e with
  | nil => exact hz
  | cons v r ih =>
    unfold evictList
    split
    · exact hz
    · exact ih (keeps_evictOne _ _ _ hz _)

theorem keeps_makeRoom {org s : State} (hz : Keeps org s) (t i c owner n : Nat) : Keeps org (s.makeRoom t i c owner n).2 := by
  unfold State.makeRoom
  dsimp only
  have h := fun d k => keeps_evictList (org := org) d c owner k (e := { st := s }) hz (s.victims t i c)
  repeat' first
    | with_reducible assumption | with_reducible apply h | with_reducible apply keeps_placeRegs | with_reducible apply keeps_noteDecision
    | with_reducible apply keeps_openDec | with_reducible apply Keeps.iteSnd | split

theorem keeps_findRoomFrom {org s : State} (hz : Keeps org s) (isle : Nat) (c : Nat) (owner : Nat) (n : Nat) (xs0 : List Nat) : Keeps org (State.findRoomFrom s isle c owner n xs0).2 := by
  induction xs0 generalizing s isle c owner n with
  | nil =>
    unfold State.findRoomFrom
    try dsimp only
    repeat' first
      | with_reducible assumption | intro _ | with_reducible apply keeps_makeRoom | with_reducible apply Keeps.ite | with_reducible apply Keeps.foldl
      | with_reducible apply Keeps.iteFst | with_reducible apply Keeps.iteSnd | split | simp only [Keeps.upd]
  | cons e l ih =>
    unfold State.findRoomFrom
    try dsimp only
    repeat' first
      | with_reducible assumption | intro _ | with_reducible apply ih | with_reducible apply keeps_makeRoom | with_reducible apply Keeps.ite
      | with_reducible apply Keeps.foldl | with_reducible apply Keeps.iteFst | with_reducible apply Keeps.iteSnd | split | simp only [Keeps.upd]

theorem keeps_findRoom {org s : State} (hz : Keeps org s) (t : Nat) (isle : Nat) (c : Nat) (owner : Nat) (n : Nat) (immutable : Bool) : Keeps org (State.findRoom s t isle c owner n immutable).2 := by
  unfold State.findRoom
  try dsimp only
  repeat' first
    | with_reducible assumption | intro _ | with_reducible apply keeps_findRoomFrom | with_reducible apply keeps_countCode
    | with_reducible apply Keeps.ite | with_reducible apply Keeps.foldl | with_reducible apply Keeps.iteFst | with_reducible apply Keeps.iteSnd
    | with_reducible refine Keeps.ofSnd (by assumption) ?_ | with_reducible refine Keeps.ofFst (by assumption) ?_ | split | simp only [Keeps.upd]

theorem keeps_allocSystem {org s : State} (hz : Keeps org s) (size : Nat) (owner : Nat) (tier : Nat) (isle : Nat) : Keeps org (State.allocSystem s size owner tier isle).2 := by
  unfold State.allocSystem
  try dsimp only
  repeat' first
    | with_reducible assumption | intro _ | with_reducible apply keeps_findRoom | with_reducible apply keeps_alloc | with_reducible apply Keeps.ite
    | with_reducible apply Keeps.foldl | with_reducible apply Keeps.iteFst | with_reducible apply Keeps.iteSnd
    | with_reducible refine Keeps.ofSnd (by assumption) ?_ | with_reducible refine Keeps.ofFst (by assumption) ?_ | split | simp only [Keeps.upd]

theorem keeps_touch {org s : State} (hz : Keeps org s) (id : Nat) (n : Nat) (paths : List Nat) : Keeps org (State.touch s id n paths) := by
  unfold State.touch
  try dsimp only
  repeat' first
    | with_reducible assumption | intro _ | with_reducible apply keeps_setObj | with_reducible apply Keeps.ite | with_reducible apply Keeps.foldl
    | with_reducible refine Keeps.ofSnd (by assumption) ?_ | with_reducible refine Keeps.ofFst (by assumption) ?_ | split | simp only [Keeps.upd]

theorem keeps_unpoison {org s : State} (hz : Keeps org s) (a : Nat) (n : Nat) : Keeps org (State.unpoison s a n) := by
  unfold State.unpoison
  try dsimp only
  repeat' first
    | with_reducible assumption | intro _ | with_reducible apply Keeps.ite | with_reducible apply Keeps.foldl | split | simp only [Keeps.upd]

theorem keeps_progress {org s : State} (hz : Keeps org s) (id : Nat) : Keeps org (State.progress s id) := by
  unfold State.progress
  try dsimp only
  repeat' first
    | with_reducible assumption | intro _ | with_reducible apply keeps_tick | with_reducible apply keeps_setObj | with_reducible apply Keeps.ite
    | with_reducible apply Keeps.foldl | with_reducible refine Keeps.ofSnd (by assumption) ?_ | with_reducible refine Keeps.ofFst (by assumption) ?_
    | split | simp only [Keeps.upd]

theorem keeps_noteMovedStore {org s : State} (hz : Keeps org s) (a : Nat) : Keeps org (State.noteMovedStore s a) := by
  unfold State.noteMovedStore
  try dsimp only
  repeat' first
    | with_reducible assumption | intro _ | with_reducible apply keeps_setObj | with_reducible apply Keeps.ite | with_reducible apply Keeps.foldl
    | with_reducible refine Keeps.ofSnd (by assumption) ?_ | with_reducible refine Keeps.ofFst (by assumption) ?_ | split | simp only [Keeps.upd]

theorem keeps_noteT4 {org s : State} (hz : Keeps org s) (t : Nat) (ok : Bool) : Keeps org (State.noteT4 s t ok) := by
  unfold State.noteT4
  try dsimp only
  repeat' first
    | with_reducible assumption | intro _ | with_reducible apply Keeps.ite | with_reducible apply Keeps.foldl | split | simp only [Keeps.upd]

theorem keeps_startLoad {org s : State} (hz : Keeps org s) (id cls owner reason metric : Nat) : Keeps org (s.startLoad id cls owner reason metric) := by
  unfold State.startLoad
  split
  · exact hz
  · refine Keeps.ite ?_ hz
    have h := fun a b c d e => keeps_findRoom hz 3 a b c d e
    split
    · next heq =>
      exact keeps_readPayload (keeps_placeRegs (keeps_creditMove (keeps_setObj (keeps_openDec (Keeps.ofSnd heq (h _ _ _ _ _)) _) _ _) _)) _ _ _
    · next heq => exact Keeps.ofSnd heq (h _ _ _ _ _)

theorem keeps_launchRoom {org s : State} (hz : Keeps org s) (o : Obj) (m : Move) : Keeps org (State.launchRoom s o m).2 := by
  unfold State.launchRoom
  try dsimp only
  repeat' first
    | with_reducible assumption | intro _ | with_reducible apply keeps_makeRoom | with_reducible apply keeps_findRoomFrom
    | with_reducible apply Keeps.ite | with_reducible apply Keeps.foldl | with_reducible apply Keeps.iteFst | with_reducible apply Keeps.iteSnd
    | with_reducible refine Keeps.ofSnd (by assumption) ?_ | with_reducible refine Keeps.ofFst (by assumption) ?_ | split | simp only [Keeps.upd]

theorem keeps_launch {org s : State} (hz : Keeps org s) (id : Nat) : Keeps org (State.launch s id) := by
  unfold State.launch
  try dsimp only
  repeat' first
    | with_reducible assumption | intro _ | with_reducible apply keeps_setObj | with_reducible apply keeps_launchRoom
    | with_reducible apply keeps_creditMove | with_reducible apply keeps_placeRegs | with_reducible apply keeps_closeMove
    | with_reducible apply keeps_countCode | with_reducible apply Keeps.ite | with_reducible apply Keeps.foldl
    | with_reducible refine Keeps.ofSnd (by assumption) ?_ | with_reducible refine Keeps.ofFst (by assumption) ?_ | split | simp only [Keeps.upd]

theorem keeps_tryLaunch {org s : State} (hz : Keeps org s) (id : Nat) : Keeps org (State.tryLaunch s id) := by
  unfold State.tryLaunch
  try dsimp only
  repeat' first
    | with_reducible assumption | intro _ | with_reducible apply keeps_launch | with_reducible apply Keeps.ite | with_reducible apply Keeps.foldl
    | with_reducible refine Keeps.ofSnd (by assumption) ?_ | with_reducible refine Keeps.ofFst (by assumption) ?_ | split | simp only [Keeps.upd]

theorem keeps_requestMove {org s : State} (hz : Keeps org s) (id : Nat) (t : Nat) (i : Nat) (cls : Nat) (owner : Nat) (reason : Nat) (metric : Nat) (target : Nat) (rebal : Bool) : Keeps org (State.requestMove s id t i cls owner reason metric target rebal) := by
  unfold State.requestMove
  try dsimp only
  repeat' first
    | with_reducible assumption | intro _ | with_reducible apply keeps_openDec | with_reducible apply keeps_inc | with_reducible apply keeps_setObj
    | with_reducible apply keeps_tryLaunch | with_reducible apply keeps_waitCredit | with_reducible apply Keeps.ite | with_reducible apply Keeps.foldl
    | with_reducible apply Keeps.iteFst | with_reducible apply Keeps.iteSnd | with_reducible refine Keeps.ofSnd (by assumption) ?_
    | with_reducible refine Keeps.ofFst (by assumption) ?_ | split | simp only [Keeps.upd]

theorem keeps_grantMove {org s : State} (hz : Keeps org s) (id : Nat) : Keeps org (State.grantMove s id) := by
  unfold State.grantMove
  try dsimp only
  repeat' first
    | with_reducible assumption | intro _ | with_reducible apply keeps_creditMove | with_reducible apply keeps_tryLaunch
    | with_reducible apply Keeps.ite | with_reducible apply Keeps.foldl | with_reducible refine Keeps.ofSnd (by assumption) ?_
    | with_reducible refine Keeps.ofFst (by assumption) ?_ | split | simp only [Keeps.upd]

theorem keeps_countMoved {org s : State} (hz : Keeps org s) (paths : List Nat) (n : Nat) : Keeps org (State.countMoved s paths n) := by
  unfold State.countMoved
  try dsimp only
  repeat' first
    | with_reducible assumption | intro _ | with_reducible apply Keeps.ite | with_reducible apply Keeps.foldl | split | simp only [Keeps.upd]

theorem keeps_retirePage {org s : State} (hz : Keeps org s) (r : Reloc) (id : Nat) (bytes : Nat) : Keeps org (State.retirePage s r id bytes) := by
  unfold State.retirePage
  try dsimp only
  repeat' first
    | with_reducible assumption | intro _ | with_reducible apply keeps_inc | with_reducible apply keeps_placeRegs
    | with_reducible apply keeps_noteDecision | with_reducible apply Keeps.ite | with_reducible apply Keeps.foldl | split | simp only [Keeps.upd]

theorem keeps_relocate {org s : State} (hz : Keeps org s) (r : Reloc) (id : Nat) : Keeps org (State.relocate s r id) := by
  unfold State.relocate
  try dsimp only
  repeat' first
    | with_reducible assumption | intro _ | with_reducible apply keeps_retirePage | with_reducible apply keeps_setObj
    | with_reducible apply keeps_startLoad | with_reducible apply keeps_makeRoom | with_reducible apply keeps_creditMove
    | with_reducible apply keeps_placeRegs | with_reducible apply keeps_countCode | with_reducible apply Keeps.ite | with_reducible apply Keeps.foldl
    | with_reducible refine Keeps.ofSnd (by assumption) ?_ | with_reducible refine Keeps.ofFst (by assumption) ?_ | split | simp only [Keeps.upd]

theorem keeps_nextRetire {org s : State} (hz : Keeps org s) (id : Nat) : Keeps org (State.nextRetire s id) := by
  unfold State.nextRetire
  try dsimp only
  repeat' first
    | with_reducible assumption | intro _ | with_reducible apply keeps_relocate | with_reducible apply keeps_setObj | with_reducible apply Keeps.ite
    | with_reducible apply Keeps.foldl | with_reducible refine Keeps.ofSnd (by assumption) ?_ | with_reducible refine Keeps.ofFst (by assumption) ?_
    | split | simp only [Keeps.upd]

theorem keeps_endMove {org s : State} (hz : Keeps org s) (id : Nat) (code : Nat) (atDest : Bool) : Keeps org (State.endMove s id code atDest) := by
  unfold State.endMove
  try dsimp only
  repeat' first
    | with_reducible assumption | intro _ | with_reducible apply keeps_credAdd | with_reducible apply keeps_countMoved
    | with_reducible apply keeps_countCode | with_reducible apply keeps_noteT4 | with_reducible apply keeps_setObj
    | with_reducible apply keeps_closeMove | with_reducible apply keeps_relocate | with_reducible apply keeps_freeObj
    | with_reducible apply keeps_clearMarks | with_reducible apply keeps_retirePage | with_reducible apply keeps_placeRegs
    | with_reducible apply keeps_nextRetire | with_reducible apply keeps_tryLaunch | with_reducible apply keeps_waitCredit
    | with_reducible apply Keeps.ite | with_reducible apply Keeps.foldl | with_reducible refine Keeps.ofSnd (by assumption) ?_
    | with_reducible refine Keeps.ofFst (by assumption) ?_ | split | simp only [Keeps.upd]

end Sys2Proof.Machine
end

