-- ==== Sys2Proof/Laws/KeepsIsletRegs.lean ====
section
/-! SUPPORT. What the definitions of Machine/IsletRegs.lean keep: the queue, the canonical form of the tables, what has left the device, the free
values taken, the OTP (`Keeps`). -/
namespace Sys2Proof.Machine

theorem keeps_setIslet {org s : State} (hz : Keeps org s) (i : Nat) (x : Islet) : Keeps org (State.setIslet s i x) := by
  unfold State.setIslet
  try dsimp only
  repeat' first
    | with_reducible assumption | intro _ | with_reducible apply Keeps.ite | with_reducible apply Keeps.foldl | split | simp only [Keeps.upd]

end Sys2Proof.Machine
end

