-- ==== Sys2Proof/Laws/KeepsBuoy.lean ====
section
/-! SUPPORT. What the definitions of Machine/Buoy.lean keep: the queue, the canonical form of the tables, what has left the device, the free
values taken, the OTP (`Keeps`). -/
namespace Sys2Proof.Machine

theorem keeps_setBuoy {org s : State} (hz : Keeps org s) (n : Nat) (b : Buoy) : Keeps org (State.setBuoy s n b) := by
  unfold State.setBuoy
  try dsimp only
  repeat' first
    | with_reducible assumption | intro _ | with_reducible apply Keeps.ite | with_reducible apply Keeps.foldl | split | simp only [Keeps.upd]

end Sys2Proof.Machine
end

