-- ==== Sys2Proof/Laws/KeepsIssue.lean ====
section
/-! SUPPORT. What the definitions of Machine/Issue.lean keep: the queue, the canonical form of the tables, what has left the device, the free
values taken, the OTP (`Keeps`). -/
namespace Sys2Proof.Machine

theorem keeps_reportHalt {org s : State} (hz : Keeps org s) (i : Nat) (cause : Nat) : Keeps org (State.reportHalt s i cause) := by
  unfold State.reportHalt
  try dsimp only
  repeat' first
    | with_reducible assumption | intro _ | with_reducible apply keeps_inc | with_reducible apply keeps_setReg | with_reducible apply Keeps.ite
    | with_reducible apply Keeps.foldl | with_reducible refine Keeps.ofSnd (by assumption) ?_ | with_reducible refine Keeps.ofFst (by assumption) ?_
    | split | simp only [Keeps.upd]

theorem keeps_takeExn {org s0 : State} (hz : Keeps org s0) (i : Nat) (epc : Nat) (e : Exn) : Keeps org (State.takeExn s0 i epc e) := by
  unfold State.takeExn
  try dsimp only
  repeat' first
    | with_reducible assumption | intro _ | with_reducible apply keeps_tick | with_reducible apply keeps_setIslet
    | with_reducible apply keeps_reportHalt | with_reducible apply Keeps.ite | with_reducible apply Keeps.foldl
    | with_reducible refine Keeps.ofSnd (by assumption) ?_ | with_reducible refine Keeps.ofFst (by assumption) ?_ | split | simp only [Keeps.upd]

theorem keeps_sendRequest {org s : State} (hz : Keeps org s) (dest : Nat) (address : Nat) (isWrite : Bool) (data : List Byte) (len : Nat) (tag : Nat) (who : PeerWho) : Keeps org (State.sendRequest s dest address isWrite data len tag who) := by
  unfold State.sendRequest
  try dsimp only
  repeat' first
    | with_reducible assumption | intro _ | with_reducible apply keeps_useSeq | with_reducible apply keeps_sendOn | with_reducible apply Keeps.ite
    | with_reducible apply Keeps.foldl | split | simp only [Keeps.upd]

theorem keeps_forget {org s : State} (hz : Keeps org s) (who : PeerWho) : Keeps org (State.forget s who) := by
  unfold State.forget
  try dsimp only
  repeat' first
    | with_reducible assumption | intro _ | with_reducible apply Keeps.ite | with_reducible apply Keeps.foldl | split | simp only [Keeps.upd]

theorem keeps_askHead {org s : State} (hz : Keeps org s) (a : Nat) (n : Nat) (who : PeerWho) : Keeps org (State.askHead s a n who) := by
  unfold State.askHead
  try dsimp only
  repeat' first
    | with_reducible assumption | intro _ | with_reducible apply keeps_sendRequest | with_reducible apply Keeps.ite | with_reducible apply Keeps.foldl
    | split | simp only [Keeps.upd]

theorem keeps_sendTow {org s : State} (hz : Keeps org s) (i : Nat) (slot : Nat) (t : Tow) (u : Nat) (x : Nat) (tag : Nat) : Keeps org (State.sendTow s i slot t u x tag) := by
  unfold State.sendTow
  try dsimp only
  repeat' first
    | with_reducible assumption | intro _ | with_reducible apply keeps_sendRequest | with_reducible apply Keeps.ite | with_reducible apply Keeps.foldl
    | with_reducible apply Keeps.iteFst | with_reducible apply Keeps.iteSnd | split | simp only [Keeps.upd]

theorem keeps_noteAccess {org s : State} (hz : Keeps org s) (i : Nat) (a : Nat) (n : Nat) (paths : List Nat) : Keeps org (State.noteAccess s i a n paths) := by
  unfold State.noteAccess
  try dsimp only
  repeat' first
    | with_reducible assumption | intro _ | with_reducible apply keeps_credAdd | with_reducible apply keeps_touch
    | with_reducible apply keeps_startLoad | with_reducible apply keeps_progress | with_reducible apply Keeps.ite | with_reducible apply Keeps.foldl
    | with_reducible refine Keeps.ofSnd (by assumption) ?_ | with_reducible refine Keeps.ofFst (by assumption) ?_ | split | simp only [Keeps.upd]

theorem keeps_doM {org s : State} (hz : Keeps org s) (i : Nat) (x0 : Islet) (x : Islet) (m : MIns) (c : Nat) : Keeps org (State.doM s i x0 x m c).1 := by
  unfold State.doM
  try dsimp only
  repeat' first
    | with_reducible assumption | intro _ | with_reducible apply keeps_noteAccess | with_reducible apply keeps_sendTow
    | with_reducible apply keeps_sendRequest | with_reducible apply keeps_store | with_reducible apply keeps_unpoison | with_reducible apply Keeps.ite
    | with_reducible apply Keeps.foldl | with_reducible apply Keeps.iteFst | with_reducible apply Keeps.iteSnd
    | with_reducible refine Keeps.ofSnd (by assumption) ?_ | with_reducible refine Keeps.ofFst (by assumption) ?_ | split | simp only [Keeps.upd]

theorem keeps_doT {org s : State} (hz : Keeps org s) (i : Nat) (x0 : Islet) (x : Islet) (t : TIns) (c : Nat) (got : Word64) : Keeps org (State.doT s i x0 x t c got).1 := by
  unfold State.doT
  try dsimp only
  repeat' first
    | with_reducible assumption | intro _ | with_reducible apply keeps_setBuoy | with_reducible apply Keeps.ite | with_reducible apply Keeps.foldl
    | with_reducible apply Keeps.iteFst | with_reducible apply Keeps.iteSnd | with_reducible refine Keeps.ofSnd (by assumption) ?_
    | with_reducible refine Keeps.ofFst (by assumption) ?_ | split | simp only [Keeps.upd]

theorem keeps_afterM {org s : State} (hz : Keeps org s) (i : Nat) (b : Bundle) (a : Active) (c : Nat) : Keeps org (State.afterM s i b a c).1 := by
  unfold State.afterM
  try dsimp only
  repeat' first
    | with_reducible assumption | intro _ | with_reducible apply keeps_doM | with_reducible apply Keeps.ite | with_reducible apply Keeps.foldl
    | with_reducible apply Keeps.iteFst | with_reducible apply Keeps.iteSnd | split | simp only [Keeps.upd]

theorem keeps_afterV {org s : State} (hz : Keeps org s) (i : Nat) (b : Bundle) (a : Active) (c : Nat) : Keeps org (State.afterV s i b a c).1 := by
  unfold State.afterV
  try dsimp only
  repeat' first
    | with_reducible assumption | intro _ | with_reducible apply keeps_afterM | with_reducible apply Keeps.ite | with_reducible apply Keeps.foldl
    | with_reducible apply Keeps.iteFst | with_reducible apply Keeps.iteSnd | split | simp only [Keeps.upd]

theorem keeps_afterT {org s : State} (hz : Keeps org s) (i : Nat) (b : Bundle) (a : Active) (c : Nat) (got : Word64) : Keeps org (State.afterT s i b a c got).1 := by
  unfold State.afterT
  try dsimp only
  repeat' first
    | with_reducible assumption | intro _ | with_reducible apply keeps_afterV | with_reducible apply keeps_doT | with_reducible apply Keeps.ite
    | with_reducible apply Keeps.foldl | with_reducible apply Keeps.iteFst | with_reducible apply Keeps.iteSnd | split | simp only [Keeps.upd]

theorem keeps_complete {org s : State} (hz : Keeps org s) (i : Nat) (b : Bundle) (a : Active) (c : Nat) (got : Word64) :
    Keeps org (s.complete i b a c got).1 := by
  unfold State.complete
  have h := keeps_afterT hz i b a c got
  dsimp only
  split
  · exact keeps_takeExn (keeps_setIslet h _ _) _ _ _
  · exact keeps_setIslet h _ _

theorem keeps_hold {org s : State} (hz : Keeps org s) (i : Nat) (h : Held) : Keeps org (State.hold s i h) := by
  unfold State.hold
  try dsimp only
  repeat' first
    | with_reducible assumption | intro _ | with_reducible apply keeps_setIslet | with_reducible apply Keeps.ite | with_reducible apply Keeps.foldl
    | split | simp only [Keeps.upd]

theorem keeps_awaitCredit {org s : State} (hz : Keeps org s) (i : Nat) (h : Held) : Keeps org (State.awaitCredit s i h) := by
  unfold State.awaitCredit
  try dsimp only
  repeat' first
    | with_reducible assumption | intro _ | with_reducible apply keeps_waitCredit | with_reducible apply keeps_hold | with_reducible apply Keeps.ite
    | with_reducible apply Keeps.foldl | split | simp only [Keeps.upd]

theorem keeps_addWaiter {org s : State} (hz : Keeps org s) (n : Nat) (i : Nat) : Keeps org (State.addWaiter s n i) := by
  unfold State.addWaiter
  try dsimp only
  repeat' first
    | with_reducible assumption | intro _ | with_reducible apply keeps_setBuoy | with_reducible apply Keeps.ite | with_reducible apply Keeps.foldl
    | split | simp only [Keeps.upd]

theorem keeps_buoyWait {org s : State} (hz : Keeps org s) (i : Nat) (b : Bundle) (a : Active) (h : Held) : Keeps org (State.buoyWait s i b a h).2.2.1 := by
  unfold State.buoyWait
  try dsimp only
  repeat' first
    | with_reducible assumption | intro _ | with_reducible apply keeps_addWaiter | with_reducible apply keeps_setBuoy | with_reducible apply Keeps.ite
    | with_reducible apply Keeps.foldl | with_reducible apply Keeps.iteFst | with_reducible apply Keeps.iteSnd
    | with_reducible refine Keeps.ofSnd (by assumption) ?_ | with_reducible refine Keeps.ofFst (by assumption) ?_ | split | simp only [Keeps.upd]

theorem keeps_tryBundle {org s : State} (hz : Keeps org s) (i : Nat) (h : Held) : Keeps org (s.tryBundle i h).1 := by
  unfold State.tryBundle
  dsimp only
  have hw := fun a => keeps_buoyWait hz i h.bundle a h
  repeat' first
    | with_reducible assumption | with_reducible apply hw | with_reducible apply keeps_takeExn | with_reducible apply keeps_hold
    | with_reducible apply keeps_awaitCredit | with_reducible apply keeps_complete | with_reducible apply keeps_setIslet
    | with_reducible apply Keeps.iteFst | split

theorem keeps_retry {org s : State} (hz : Keeps org s) (i : Nat) (late : Nat) : Keeps org (State.retry s i late).1 := by
  unfold State.retry
  try dsimp only
  repeat' first
    | with_reducible assumption | intro _ | with_reducible apply keeps_setIslet | with_reducible apply keeps_tryBundle
    | with_reducible apply Keeps.ite | with_reducible apply Keeps.foldl | with_reducible apply Keeps.iteFst | with_reducible apply Keeps.iteSnd
    | with_reducible refine Keeps.ofSnd (by assumption) ?_ | with_reducible refine Keeps.ofFst (by assumption) ?_ | split | simp only [Keeps.upd]

theorem keeps_wakeBuoy {org s : State} (hz : Keeps org s) (n : Nat) : Keeps org (State.wakeBuoy s n) := by
  unfold State.wakeBuoy
  try dsimp only
  repeat' first
    | with_reducible assumption | intro _ | with_reducible apply keeps_tick | with_reducible apply keeps_retry | with_reducible apply Keeps.ite
    | with_reducible apply Keeps.foldl | split | simp only [Keeps.upd]

theorem keeps_wakeOf {org : State} (r : State × Option Nat) (hz : Keeps org r.1) : Keeps org (wakeOf r) := by
  unfold wakeOf
  try dsimp only
  repeat' first
    | with_reducible assumption | intro _ | with_reducible apply keeps_wakeBuoy | with_reducible apply Keeps.ite | with_reducible apply Keeps.foldl
    | with_reducible apply Keeps.iteFst | with_reducible apply Keeps.iteSnd | with_reducible refine Keeps.ofSnd (by assumption) ?_
    | with_reducible refine Keeps.ofFst (by assumption) ?_ | split | simp only [Keeps.upd]

theorem keeps_retryAll {org s : State} (hz : Keeps org s) (may : Nat → Bool) : Keeps org (State.retryAll s may) := by
  unfold State.retryAll
  try dsimp only
  repeat' first
    | with_reducible assumption | intro _ | with_reducible apply keeps_wakeOf | with_reducible apply keeps_tick | with_reducible apply keeps_retry
    | with_reducible apply Keeps.ite | with_reducible apply Keeps.foldl | split | simp only [Keeps.upd]

theorem keeps_dropWaiter {org s : State} (hz : Keeps org s) (i : Nat) : Keeps org (State.dropWaiter s i) := by
  unfold State.dropWaiter
  try dsimp only
  repeat' first
    | with_reducible assumption | intro _ | with_reducible apply Keeps.ite | with_reducible apply Keeps.foldl | split | simp only [Keeps.upd]

theorem keeps_grantOutside {org s : State} (hz : Keeps org s) (k : Nat) : Keeps org (State.grantOutside s k) := by
  unfold State.grantOutside
  try dsimp only
  repeat' first
    | with_reducible assumption | intro _ | with_reducible apply keeps_credAdd | with_reducible apply Keeps.ite | with_reducible apply Keeps.foldl
    | with_reducible apply Keeps.iteFst | with_reducible apply Keeps.iteSnd | split | simp only [Keeps.upd]

theorem keeps_serveWaiter {org s : State} (hz : Keeps org s) (w : Waiter) : Keeps org (State.serveWaiter s w) := by
  unfold State.serveWaiter
  try dsimp only
  repeat' first
    | with_reducible assumption | intro _ | with_reducible apply keeps_wakeOf | with_reducible apply keeps_dropWaiter
    | with_reducible apply keeps_tick | with_reducible apply keeps_retry | with_reducible apply keeps_grantMove
    | with_reducible apply keeps_grantOutside | with_reducible apply Keeps.ite | with_reducible apply Keeps.foldl
    | with_reducible refine Keeps.ofSnd (by assumption) ?_ | with_reducible refine Keeps.ofFst (by assumption) ?_ | split | simp only [Keeps.upd]

theorem keeps_serveWaiters {org s : State} (hz : Keeps org s) : Keeps org (State.serveWaiters s) := by
  unfold State.serveWaiters
  try dsimp only
  repeat' first
    | with_reducible assumption | intro _ | with_reducible apply keeps_serveWaiter | with_reducible apply Keeps.ite | with_reducible apply Keeps.foldl
    | split | simp only [Keeps.upd]

theorem keeps_freed {org s : State} (hz : Keeps org s) (i : Nat) : Keeps org (State.freed s i) := by
  unfold State.freed
  try dsimp only
  repeat' first
    | with_reducible assumption | intro _ | with_reducible apply keeps_wakeOf | with_reducible apply keeps_serveWaiters
    | with_reducible apply keeps_retry | with_reducible apply Keeps.ite | with_reducible apply Keeps.foldl | split | simp only [Keeps.upd]

theorem keeps_signalBuoy {org s : State} (hz : Keeps org s) (n : Nat) (v : Nat) : Keeps org (State.signalBuoy s n v) := by
  unfold State.signalBuoy
  try dsimp only
  repeat' first
    | with_reducible assumption | intro _ | with_reducible apply keeps_setBuoy | with_reducible apply keeps_wakeBuoy | with_reducible apply Keeps.ite
    | with_reducible apply Keeps.foldl | split | simp only [Keeps.upd]

theorem keeps_isletAt {org s : State} (hz : Keeps org s) (i : Nat) (cyc : Nat) : Keeps org (State.isletAt s i cyc) := by
  unfold State.isletAt
  try dsimp only
  repeat' first
    | with_reducible assumption | intro _ | with_reducible apply keeps_setIslet | with_reducible apply Keeps.ite | with_reducible apply Keeps.foldl
    | split | simp only [Keeps.upd]

theorem keeps_requestDone {org s : State} (hz : Keeps org s) (a : Nat) (code : Nat) : Keeps org (State.requestDone s a code) := by
  unfold State.requestDone
  try dsimp only
  repeat' first
    | with_reducible assumption | intro _ | with_reducible apply keeps_noteT4 | with_reducible apply keeps_countCode | with_reducible apply Keeps.ite
    | with_reducible apply Keeps.foldl | split | simp only [Keeps.upd]

theorem keeps_endLoad {org s : State} (hz : Keeps org s) (i : Nat) (l : QLoad) (code : Nat) (data : Option (List Byte)) : Keeps org (State.endLoad s i l code data) := by
  unfold State.endLoad
  try dsimp only
  repeat' first
    | with_reducible assumption | intro _ | with_reducible apply keeps_credAdd | with_reducible apply keeps_setIslet
    | with_reducible apply keeps_requestDone | with_reducible apply keeps_freed | with_reducible apply Keeps.ite | with_reducible apply Keeps.foldl
    | split | simp only [Keeps.upd]

theorem keeps_fetch {org s : State} (hz : Keeps org s) (i : Nat) : Keeps org (State.fetch s i).2 := by
  unfold State.fetch
  try dsimp only
  repeat' first
    | with_reducible assumption | intro _ | with_reducible apply keeps_setIslet | with_reducible apply keeps_touch | with_reducible apply Keeps.ite
    | with_reducible apply Keeps.foldl | with_reducible apply Keeps.iteFst | with_reducible apply Keeps.iteSnd
    | with_reducible refine Keeps.ofSnd (by assumption) ?_ | with_reducible refine Keeps.ofFst (by assumption) ?_ | split | simp only [Keeps.upd]

theorem keeps_fetchLoad {org s : State} (hz : Keeps org s) (i : Nat) : Keeps org (State.fetchLoad s i) := by
  unfold State.fetchLoad
  try dsimp only
  repeat' first
    | with_reducible assumption | intro _ | with_reducible apply keeps_startLoad | with_reducible apply keeps_setIslet
    | with_reducible apply Keeps.ite | with_reducible apply Keeps.foldl | with_reducible refine Keeps.ofSnd (by assumption) ?_
    | with_reducible refine Keeps.ofFst (by assumption) ?_ | split | simp only [Keeps.upd]

theorem keeps_fetchFails {org s : State} (hz : Keeps org s) (i : Nat) (e : Exn) : Keeps org (State.fetchFails s i e) := by
  unfold State.fetchFails
  try dsimp only
  repeat' first
    | with_reducible assumption | intro _ | with_reducible apply keeps_requestDone | with_reducible apply keeps_setIslet
    | with_reducible apply keeps_takeExn | with_reducible apply Keeps.ite | with_reducible apply Keeps.foldl | split | simp only [Keeps.upd]

theorem keeps_issue {org s : State} (hz : Keeps org s) (i : Nat) (b : Option Bundle) : Keeps org (State.issue s i b) := by
  unfold State.issue
  try dsimp only
  repeat' first
    | with_reducible assumption | intro _ | with_reducible apply keeps_setIslet | with_reducible apply keeps_fetchLoad
    | with_reducible apply keeps_fetchFails | with_reducible apply keeps_wakeOf | with_reducible apply keeps_fetch
    | with_reducible apply keeps_tryBundle | with_reducible apply Keeps.ite | with_reducible apply Keeps.foldl | with_reducible apply Keeps.iteFst
    | with_reducible apply Keeps.iteSnd | with_reducible refine Keeps.ofSnd (by assumption) ?_ | with_reducible refine Keeps.ofFst (by assumption) ?_
    | split | simp only [Keeps.upd]

theorem keeps_loadReturn {org s : State} (hz : Keeps org s) (i : Nat) (k : Nat) (cyc : Nat) (err : Option Nat) (data : Option (List Byte)) : Keeps org (State.loadReturn s i k cyc err data) := by
  unfold State.loadReturn
  try dsimp only
  repeat' first
    | with_reducible assumption | intro _ | with_reducible apply keeps_isletAt | with_reducible apply keeps_endLoad | with_reducible apply Keeps.ite
    | with_reducible apply Keeps.foldl | with_reducible refine Keeps.ofSnd (by assumption) ?_ | with_reducible refine Keeps.ofFst (by assumption) ?_
    | split | simp only [Keeps.upd]

theorem keeps_endStore {org s : State} (hz : Keeps org s) (i : Nat) (q : QStore) (code : Nat) : Keeps org (State.endStore s i q code) := by
  unfold State.endStore
  try dsimp only
  repeat' first
    | with_reducible assumption | intro _ | with_reducible apply keeps_credAdd | with_reducible apply keeps_setIslet | with_reducible apply keeps_emit
    | with_reducible apply keeps_store | with_reducible apply keeps_unpoison | with_reducible apply keeps_requestDone
    | with_reducible apply keeps_freed | with_reducible apply Keeps.ite | with_reducible apply Keeps.foldl
    | with_reducible refine Keeps.ofSnd (by assumption) ?_ | with_reducible refine Keeps.ofFst (by assumption) ?_ | split | simp only [Keeps.upd]

theorem keeps_moveOn {org s : State} (hz : Keeps org s) (a : Nat) : Keeps org (State.moveOn s a) := by
  unfold State.moveOn
  try dsimp only
  repeat' first
    | with_reducible assumption | intro _ | with_reducible apply keeps_progress | with_reducible apply Keeps.ite | with_reducible apply Keeps.foldl
    | with_reducible refine Keeps.ofSnd (by assumption) ?_ | with_reducible refine Keeps.ofFst (by assumption) ?_ | split | simp only [Keeps.upd]

theorem keeps_storePerformed {org s : State} (hz : Keeps org s) (i : Nat) (k : Nat) (cyc : Nat) (err : Option Nat) : Keeps org (State.storePerformed s i k cyc err) := by
  unfold State.storePerformed
  try dsimp only
  repeat' first
    | with_reducible assumption | intro _ | with_reducible apply keeps_isletAt | with_reducible apply keeps_endStore
    | with_reducible apply keeps_moveOn | with_reducible apply keeps_noteMovedStore | with_reducible apply Keeps.ite
    | with_reducible apply Keeps.foldl | with_reducible refine Keeps.ofSnd (by assumption) ?_ | with_reducible refine Keeps.ofFst (by assumption) ?_
    | split | simp only [Keeps.upd]

theorem keeps_endTow {org s : State} (hz : Keeps org s) (i : Nat) (k : Nat) (code : Nat) (data : Option (List Byte)) : Keeps org (State.endTow s i k code data) := by
  unfold State.endTow
  try dsimp only
  repeat' first
    | with_reducible assumption | intro _ | with_reducible apply keeps_credAdd | with_reducible apply keeps_store
    | with_reducible apply keeps_unpoison | with_reducible apply keeps_emit | with_reducible apply keeps_setIslet
    | with_reducible apply keeps_requestDone | with_reducible apply keeps_freed | with_reducible apply Keeps.ite | with_reducible apply Keeps.foldl
    | with_reducible refine Keeps.ofSnd (by assumption) ?_ | with_reducible refine Keeps.ofFst (by assumption) ?_ | split | simp only [Keeps.upd]

theorem keeps_towComplete {org s : State} (hz : Keeps org s) (i : Nat) (k : Nat) (cyc : Nat) (err : Option Nat) (data : Option (List Byte)) : Keeps org (State.towComplete s i k cyc err data) := by
  unfold State.towComplete
  try dsimp only
  repeat' first
    | with_reducible assumption | intro _ | with_reducible apply keeps_isletAt | with_reducible apply keeps_endTow | with_reducible apply keeps_moveOn
    | with_reducible apply keeps_noteMovedStore | with_reducible apply Keeps.ite | with_reducible apply Keeps.foldl
    | with_reducible refine Keeps.ofSnd (by assumption) ?_ | with_reducible refine Keeps.ofFst (by assumption) ?_ | split | simp only [Keeps.upd]

theorem keeps_buoyTimeout {org s : State} (hz : Keeps org s) (i : Nat) : Keeps org (State.buoyTimeout s i) := by
  unfold State.buoyTimeout
  try dsimp only
  repeat' first
    | with_reducible assumption | intro _ | with_reducible apply keeps_wakeOf | with_reducible apply keeps_setIslet
    | with_reducible apply keeps_tryBundle | with_reducible apply Keeps.ite | with_reducible apply Keeps.foldl
    | with_reducible refine Keeps.ofSnd (by assumption) ?_ | with_reducible refine Keeps.ofFst (by assumption) ?_ | split | simp only [Keeps.upd]

end Sys2Proof.Machine
end

