-- ==== Sys2Proof/Laws/KeepsTime.lean ====
section
/-! SUPPORT. What the definitions of Machine/Time.lean keep: the queue, the canonical form of the tables, what has left the device, the free
values taken, the OTP (`Keeps`). -/
namespace Sys2Proof.Machine

theorem keeps_setBase {org s : State} (hz : Keeps org s) (b : Nat) (x : Base) : Keeps org (State.setBase s b x) := by
  unfold State.setBase
  try dsimp only
  repeat' first
    | with_reducible assumption | intro _ | with_reducible apply Keeps.ite | with_reducible apply Keeps.foldl | split | simp only [Keeps.upd]

theorem keeps_newSeg {org s : State} (hz : Keeps org s) (t : Nat) : Keeps org (State.newSeg s t) := by
  unfold State.newSeg
  try dsimp only
  repeat' first
    | with_reducible assumption | intro _ | with_reducible apply Keeps.ite | with_reducible apply Keeps.foldl | split | simp only [Keeps.upd]

theorem keeps_setRate {org s : State} (hz : Keeps org s) (b : Nat) (t : Nat) (r : Int) : Keeps org (State.setRate s b t r) := by
  unfold State.setRate
  try dsimp only
  repeat' first
    | with_reducible assumption | intro _ | with_reducible apply keeps_newSeg | with_reducible apply keeps_setReg | with_reducible apply Keeps.ite
    | with_reducible apply Keeps.foldl | split | simp only [Keeps.upd]

theorem keeps_stepBase {org s : State} (hz : Keeps org s) (b : Nat) (t : Nat) (d : Int) : Keeps org (State.stepBase s b t d) := by
  unfold State.stepBase
  try dsimp only
  repeat' first
    | with_reducible assumption | intro _ | with_reducible apply keeps_newSeg | with_reducible apply keeps_inc | with_reducible apply keeps_setReg
    | with_reducible apply keeps_raise | with_reducible apply Keeps.ite | with_reducible apply Keeps.foldl | split | simp only [Keeps.upd]

theorem keeps_setTb {org s : State} (hz : Keeps org s) (b : Nat) (st : Nat) (good : Nat) (expired : Bool) : Keeps org (State.setTb s b st good expired) := by
  unfold State.setTb
  try dsimp only
  repeat' first
    | with_reducible assumption | intro _ | with_reducible apply keeps_setReg | with_reducible apply Keeps.ite | with_reducible apply Keeps.foldl
    | split | simp only [Keeps.upd]

theorem keeps_servo {org s : State} (hz : Keeps org s) (b : Nat) (t : Nat) (o : Int) : Keeps org (State.servo s b t o) := by
  unfold State.servo
  try dsimp only
  repeat' first
    | with_reducible assumption | intro _ | with_reducible apply keeps_setBase | with_reducible apply keeps_stepBase
    | with_reducible apply keeps_setRate | with_reducible apply keeps_setTb | with_reducible apply keeps_raise | with_reducible apply Keeps.ite
    | with_reducible apply Keeps.foldl | split | simp only [Keeps.upd]

theorem keeps_holdover {org s : State} (hz : Keeps org s) (b : Nat) (start : Nat) : Keeps org (State.holdover s b start) := by
  unfold State.holdover
  try dsimp only
  repeat' first
    | with_reducible assumption | intro _ | with_reducible apply keeps_setTb | with_reducible apply keeps_setReg64 | with_reducible apply keeps_raise
    | with_reducible apply Keeps.ite | with_reducible apply Keeps.foldl | split | simp only [Keeps.upd]

theorem keeps_loseSource {org s : State} (hz : Keeps org s) (b : Nat) (t : Nat) : Keeps org (State.loseSource s b t) := by
  unfold State.loseSource
  try dsimp only
  repeat' first
    | with_reducible assumption | intro _ | with_reducible apply keeps_holdover | with_reducible apply Keeps.ite | with_reducible apply Keeps.foldl
    | split | simp only [Keeps.upd]

theorem keeps_holdExpired {org s : State} (hz : Keeps org s) (b : Nat) (t : Nat) : Keeps org (State.holdExpired s b t) := by
  unfold State.holdExpired
  try dsimp only
  repeat' first
    | with_reducible assumption | intro _ | with_reducible apply keeps_setFld | with_reducible apply keeps_raise | with_reducible apply Keeps.ite
    | with_reducible apply Keeps.foldl | split | simp only [Keeps.upd]

theorem keeps_servoSource {org s : State} (hz : Keeps org s) (b : Nat) : Keeps org (State.servoSource s b) := by
  unfold State.servoSource
  try dsimp only
  repeat' first
    | with_reducible assumption | intro _ | with_reducible apply keeps_setBase | with_reducible apply keeps_setTb | with_reducible apply Keeps.ite
    | with_reducible apply Keeps.foldl | split | simp only [Keeps.upd]

theorem keeps_latchTb {org s : State} (hz : Keeps org s) (b : Nat) : Keeps org (State.latchTb s b).2 := by
  unfold State.latchTb
  try dsimp only
  repeat' first
    | with_reducible assumption | intro _ | with_reducible apply keeps_setReg | with_reducible apply Keeps.ite | with_reducible apply Keeps.foldl
    | with_reducible apply Keeps.iteFst | with_reducible apply Keeps.iteSnd | split | simp only [Keeps.upd]

theorem keeps_snap {org s : State} (hz : Keeps org s) : Keeps org (State.snap s) := by
  unfold State.snap
  try dsimp only
  repeat' first
    | with_reducible assumption | intro _ | with_reducible apply keeps_setReg64 | with_reducible apply Keeps.ite | with_reducible apply Keeps.foldl
    | split | simp only [Keeps.upd]

theorem keeps_writeAdj {org s : State} (hz : Keeps org s) (b : Nat) (v : Nat) : Keeps org (State.writeAdj s b v) := by
  unfold State.writeAdj
  try dsimp only
  repeat' first
    | with_reducible assumption | intro _ | with_reducible apply keeps_stepBase | with_reducible apply Keeps.ite | with_reducible apply Keeps.foldl
    | split | simp only [Keeps.upd]

theorem keeps_writeAdjLo {org s : State} (hz : Keeps org s) (b : Nat) (v : Nat) : Keeps org (State.writeAdjLo s b v) := by
  unfold State.writeAdjLo
  try dsimp only
  repeat' first
    | with_reducible assumption | intro _ | with_reducible apply keeps_setBase | with_reducible apply Keeps.ite | with_reducible apply Keeps.foldl
    | split | simp only [Keeps.upd]

theorem keeps_writeRateLo {org s : State} (hz : Keeps org s) (b : Nat) (v : Nat) : Keeps org (State.writeRateLo s b v) := by
  unfold State.writeRateLo
  try dsimp only
  repeat' first
    | with_reducible assumption | intro _ | with_reducible apply keeps_setBase | with_reducible apply Keeps.ite | with_reducible apply Keeps.foldl
    | split | simp only [Keeps.upd]

theorem keeps_writeRateHi {org s : State} (hz : Keeps org s) (b : Nat) (v : Nat) : Keeps org (State.writeRateHi s b v) := by
  unfold State.writeRateHi
  try dsimp only
  repeat' first
    | with_reducible assumption | intro _ | with_reducible apply keeps_setBase | with_reducible apply keeps_setRate | with_reducible apply Keeps.ite
    | with_reducible apply Keeps.foldl | with_reducible refine Keeps.ofSnd (by assumption) ?_ | with_reducible refine Keeps.ofFst (by assumption) ?_
    | split | simp only [Keeps.upd]

theorem keeps_selectMaster {org s : State} (hz : Keeps org s) (b : Nat) (t : Nat) : Keeps org (State.selectMaster s b t) := by
  unfold State.selectMaster
  try dsimp only
  repeat' first
    | with_reducible assumption | intro _ | with_reducible apply keeps_setBase | with_reducible apply keeps_loseSource
    | with_reducible apply Keeps.ite | with_reducible apply Keeps.foldl | with_reducible refine Keeps.ofSnd (by assumption) ?_
    | with_reducible refine Keeps.ofFst (by assumption) ?_ | split | simp only [Keeps.upd]

theorem keeps_hearAnnounce {org s : State} (hz : Keeps org s) (p : Nat) (d : Nat) (a : Announce) (t : Nat) : Keeps org (State.hearAnnounce s p d a t) := by
  unfold State.hearAnnounce
  try dsimp only
  repeat' first
    | with_reducible assumption | intro _ | with_reducible apply keeps_setBase | with_reducible apply keeps_selectMaster
    | with_reducible apply Keeps.ite | with_reducible apply Keeps.foldl | with_reducible refine Keeps.ofSnd (by assumption) ?_
    | with_reducible refine Keeps.ofFst (by assumption) ?_ | split | simp only [Keeps.upd]

theorem keeps_syncSample {org s : State} (hz : Keeps org s) (b : Nat) (p : Nat) (t : Nat) (origin : Nat) (corr : Int) (ingress : Int) : Keeps org (State.syncSample s b p t origin corr ingress) := by
  unfold State.syncSample
  try dsimp only
  repeat' first
    | with_reducible assumption | intro _ | with_reducible apply keeps_convStale | with_reducible apply keeps_servo | with_reducible apply Keeps.ite
    | with_reducible apply Keeps.foldl | split | simp only [Keeps.upd]

theorem keeps_gptpSync {org s : State} (hz : Keeps org s) (p : Nat) (d : Nat) (seqId : Nat) (twoStep : Bool) (origin : Nat) (corr : Int) (t : Nat) : Keeps org (State.gptpSync s p d seqId twoStep origin corr t) := by
  unfold State.gptpSync
  try dsimp only
  repeat' first
    | with_reducible assumption | intro _ | with_reducible apply keeps_setBase | with_reducible apply keeps_syncSample
    | with_reducible apply Keeps.ite | with_reducible apply Keeps.foldl | with_reducible refine Keeps.ofSnd (by assumption) ?_
    | with_reducible refine Keeps.ofFst (by assumption) ?_ | split | simp only [Keeps.upd]

theorem keeps_gptpFollowUp {org s : State} (hz : Keeps org s) (p : Nat) (d : Nat) (seqId : Nat) (origin : Nat) (corr : Int) (t : Nat) : Keeps org (State.gptpFollowUp s p d seqId origin corr t) := by
  unfold State.gptpFollowUp
  try dsimp only
  repeat' first
    | with_reducible assumption | intro _ | with_reducible apply keeps_setBase | with_reducible apply keeps_syncSample
    | with_reducible apply Keeps.ite | with_reducible apply Keeps.foldl | with_reducible refine Keeps.ofSnd (by assumption) ?_
    | with_reducible refine Keeps.ofFst (by assumption) ?_ | split | simp only [Keeps.upd]

theorem keeps_syncTimeout {org s : State} (hz : Keeps org s) (b : Nat) (t : Nat) : Keeps org (State.syncTimeout s b t) := by
  unfold State.syncTimeout
  try dsimp only
  repeat' first
    | with_reducible assumption | intro _ | with_reducible apply keeps_loseSource | with_reducible apply Keeps.ite | with_reducible apply Keeps.foldl
    | with_reducible refine Keeps.ofSnd (by assumption) ?_ | with_reducible refine Keeps.ofFst (by assumption) ?_ | split | simp only [Keeps.upd]

theorem keeps_setGport {org s : State} (hz : Keeps org s) (p : Nat) (x : GPort) : Keeps org (State.setGport s p x) := by
  unfold State.setGport
  try dsimp only
  repeat' first
    | with_reducible assumption | intro _ | with_reducible apply Keeps.ite | with_reducible apply Keeps.foldl | split | simp only [Keeps.upd]

theorem keeps_txOverflow {org s : State} (hz : Keeps org s) (p : Nat) : Keeps org (State.txOverflow s p) := by
  unfold State.txOverflow
  try dsimp only
  repeat' first
    | with_reducible assumption | intro _ | with_reducible apply keeps_inc | with_reducible apply keeps_raise | with_reducible apply Keeps.ite
    | with_reducible apply Keeps.foldl | split | simp only [Keeps.upd]

theorem keeps_pdelayTimer {org s : State} (hz : Keeps org s) (p : Nat) (t : Nat) : Keeps org (State.pdelayTimer s p t) := by
  unfold State.pdelayTimer
  try dsimp only
  repeat' first
    | with_reducible assumption | intro _ | with_reducible apply keeps_emit | with_reducible apply keeps_setReg | with_reducible apply keeps_setGport
    | with_reducible apply keeps_txOverflow | with_reducible apply Keeps.ite | with_reducible apply Keeps.foldl | split | simp only [Keeps.upd]

theorem keeps_pdelayReq {org s : State} (hz : Keeps org s) (p : Nat) (seqId : Nat) (rx : Nat) (tx : Nat) : Keeps org (State.pdelayReq s p seqId rx tx) := by
  unfold State.pdelayReq
  try dsimp only
  repeat' first
    | with_reducible assumption | intro _ | with_reducible apply keeps_emit | with_reducible apply keeps_txOverflow | with_reducible apply Keeps.ite
    | with_reducible apply Keeps.foldl | split | simp only [Keeps.upd]

theorem keeps_pdelayResp {org s : State} (hz : Keeps org s) (p : Nat) (seqId : Nat) (t2 : Int) (t3 : Int) (rx : Nat) : Keeps org (State.pdelayResp s p seqId t2 t3 rx) := by
  unfold State.pdelayResp
  try dsimp only
  repeat' first
    | with_reducible assumption | intro _ | with_reducible apply keeps_setGport | with_reducible apply keeps_setReg | with_reducible apply Keeps.ite
    | with_reducible apply Keeps.foldl | with_reducible refine Keeps.ofSnd (by assumption) ?_ | with_reducible refine Keeps.ofFst (by assumption) ?_
    | split | simp only [Keeps.upd]

theorem keeps_pairSensorSkew {org s : State} (hz : Keeps org s) (p : Nat) : Keeps org (State.pairSensorSkew s p) := by
  unfold State.pairSensorSkew
  try dsimp only
  repeat' first
    | with_reducible assumption | intro _ | with_reducible apply keeps_setFld | with_reducible apply Keeps.ite | with_reducible apply Keeps.foldl
    | split | simp only [Keeps.upd]

theorem keeps_setTracker {org s : State} (hz : Keeps org s) (i : Nat) (x : Tracker) : Keeps org (State.setTracker s i x) := by
  unfold State.setTracker
  try dsimp only
  repeat' first
    | with_reducible assumption | intro _ | with_reducible apply keeps_setReg | with_reducible apply keeps_pairSensorSkew
    | with_reducible apply Keeps.ite | with_reducible apply Keeps.foldl | split | simp only [Keeps.upd]

theorem keeps_trkShow {org s : State} (hz : Keeps org s) (i : Nat) : Keeps org (State.trkShow s i) := by
  unfold State.trkShow
  try dsimp only
  repeat' first
    | with_reducible assumption | intro _ | with_reducible apply keeps_setFld | with_reducible apply keeps_setReg | with_reducible apply Keeps.ite
    | with_reducible apply Keeps.foldl | split | simp only [Keeps.upd]

theorem keeps_trkConfig {org s : State} (hz : Keeps org s) (i : Nat) : Keeps org (State.trkConfig s i) := by
  unfold State.trkConfig
  try dsimp only
  repeat' first
    | with_reducible assumption | intro _ | with_reducible apply keeps_trkShow | with_reducible apply keeps_setTracker
    | with_reducible apply Keeps.ite | with_reducible apply Keeps.foldl | split | simp only [Keeps.upd]

theorem keeps_noteSkew {org s : State} (hz : Keeps org s) (i : Nat) (x : Tracker) (skew : Int) (selfAnchored : Bool) : Keeps org (State.noteSkew s i x skew selfAnchored) := by
  unfold State.noteSkew
  try dsimp only
  repeat' first
    | with_reducible assumption | intro _ | with_reducible apply keeps_setTracker | with_reducible apply keeps_setReg | with_reducible apply keeps_inc
    | with_reducible apply keeps_raise | with_reducible apply Keeps.ite | with_reducible apply Keeps.foldl | with_reducible apply Keeps.iteFst
    | with_reducible apply Keeps.iteSnd | split | simp only [Keeps.upd]

theorem keeps_observe {org s : State} (hz : Keeps org s) (i : Nat) (a : Int) (t : Int) : Keeps org (State.observe s i a t) := by
  unfold State.observe
  try dsimp only
  repeat' first
    | with_reducible assumption | intro _ | with_reducible apply keeps_noteSkew | with_reducible apply keeps_tick | with_reducible apply Keeps.ite
    | with_reducible apply Keeps.foldl | split | simp only [Keeps.upd]

theorem keeps_observeNominal {org s : State} (hz : Keeps org s) (i : Nat) (a : Int) : Keeps org (State.observeNominal s i a) := by
  unfold State.observeNominal
  try dsimp only
  repeat' first
    | with_reducible assumption | intro _ | with_reducible apply keeps_setTracker | with_reducible apply keeps_observe
    | with_reducible apply Keeps.ite | with_reducible apply Keeps.foldl | split | simp only [Keeps.upd]

theorem keeps_observeTriggered {org s : State} (hz : Keeps org s) (i : Nat) (starts : List Nat) (a : Int) : Keeps org (State.observeTriggered s i starts a) := by
  unfold State.observeTriggered
  try dsimp only
  repeat' first
    | with_reducible assumption | intro _ | with_reducible apply keeps_noteSkew | with_reducible apply Keeps.ite | with_reducible apply Keeps.foldl
    | split | simp only [Keeps.upd]

theorem keeps_ppsEdge {org s : State} (hz : Keeps org s) (falling : Bool) (t : Nat) : Keeps org (State.ppsEdge s falling t) := by
  unfold State.ppsEdge
  try dsimp only
  repeat' first
    | with_reducible assumption | intro _ | with_reducible apply keeps_inc | with_reducible apply Keeps.ite | with_reducible apply Keeps.foldl
    | with_reducible refine Keeps.ofSnd (by assumption) ?_ | with_reducible refine Keeps.ofFst (by assumption) ?_ | split | simp only [Keeps.upd]

theorem keeps_labelEdge {org s : State} (hz : Keeps org s) (label : Nat) (t : Nat) (e : Nat) : Keeps org (State.labelEdge s label t e) := by
  unfold State.labelEdge
  try dsimp only
  repeat' first
    | with_reducible assumption | intro _ | with_reducible apply keeps_invStale | with_reducible apply keeps_observe
    | with_reducible apply keeps_convStale | with_reducible apply keeps_servo | with_reducible apply Keeps.ite | with_reducible apply Keeps.foldl
    | split | simp only [Keeps.upd]

theorem keeps_ppsLabel {org s : State} (hz : Keeps org s) (label : Nat) (t : Nat) : Keeps org (State.ppsLabel s label t) := by
  unfold State.ppsLabel
  try dsimp only
  repeat' first
    | with_reducible assumption | intro _ | with_reducible apply keeps_labelEdge | with_reducible apply Keeps.ite | with_reducible apply Keeps.foldl
    | split | simp only [Keeps.upd]

theorem keeps_gnssSentence {org s : State} (hz : Keeps org s) (n : Nmea) (t : Nat) : Keeps org (State.gnssSentence s n t) := by
  unfold State.gnssSentence
  try dsimp only
  repeat' first
    | with_reducible assumption | intro _ | with_reducible apply keeps_ppsLabel | with_reducible apply Keeps.ite | with_reducible apply Keeps.foldl
    | with_reducible refine Keeps.ofSnd (by assumption) ?_ | with_reducible refine Keeps.ofFst (by assumption) ?_ | split | simp only [Keeps.upd]

theorem keeps_labelTimeout {org s : State} (hz : Keeps org s) (t : Nat) : Keeps org (State.labelTimeout s t) := by
  unfold State.labelTimeout
  try dsimp only
  repeat' first
    | with_reducible assumption | intro _ | with_reducible apply keeps_addTo | with_reducible apply Keeps.ite | with_reducible apply Keeps.foldl
    | split | simp only [Keeps.upd]

theorem keeps_ppsTimeout {org s : State} (hz : Keeps org s) (t : Nat) : Keeps org (State.ppsTimeout s t) := by
  unfold State.ppsTimeout
  try dsimp only
  repeat' first
    | with_reducible assumption | intro _ | with_reducible apply keeps_loseSource | with_reducible apply Keeps.ite | with_reducible apply Keeps.foldl
    | split | simp only [Keeps.upd]

theorem keeps_uartTimeout {org s : State} (hz : Keeps org s) (t : Nat) : Keeps org (State.uartTimeout s t) := by
  unfold State.uartTimeout
  try dsimp only
  repeat' first
    | with_reducible assumption | intro _ | with_reducible apply Keeps.ite | with_reducible apply Keeps.foldl | split | simp only [Keeps.upd]

theorem keeps_timeSleep {org s : State} (hz : Keeps org s) : Keeps org (State.timeSleep s) := by
  unfold State.timeSleep
  try dsimp only
  repeat' first
    | with_reducible assumption | intro _ | with_reducible apply Keeps.ite | with_reducible apply Keeps.foldl | split | simp only [Keeps.upd]

theorem keeps_crystalWake {org s : State} (hz : Keeps org s) : Keeps org (State.crystalWake s) := by
  unfold State.crystalWake
  try dsimp only
  repeat' first
    | with_reducible assumption | intro _ | with_reducible apply Keeps.ite | with_reducible apply Keeps.foldl
    | with_reducible refine Keeps.ofSnd (by assumption) ?_ | with_reducible refine Keeps.ofFst (by assumption) ?_ | split | simp only [Keeps.upd]

theorem keeps_wakeBase {org s : State} (hz : Keeps org s) (b : Nat) (start : Nat) (off : Int) : Keeps org (State.wakeBase s b start off) := by
  unfold State.wakeBase
  try dsimp only
  repeat' first
    | with_reducible assumption | intro _ | with_reducible apply keeps_loseSource | with_reducible apply Keeps.ite | with_reducible apply Keeps.foldl
    | split | simp only [Keeps.upd]

theorem keeps_timeWake {org s : State} (hz : Keeps org s) : Keeps org (State.timeWake s) := by
  unfold State.timeWake
  try dsimp only
  repeat' first
    | with_reducible assumption | intro _ | with_reducible apply keeps_newSeg | with_reducible apply keeps_wakeBase | with_reducible apply Keeps.ite
    | with_reducible apply Keeps.foldl | with_reducible refine Keeps.ofSnd (by assumption) ?_ | with_reducible refine Keeps.ofFst (by assumption) ?_
    | split | simp only [Keeps.upd]

theorem keeps_timeBoundary {org s : State} (hz : Keeps org s) (t : Nat) : Keeps org (State.timeBoundary s t) := by
  unfold State.timeBoundary
  try dsimp only
  repeat' first
    | with_reducible assumption | intro _ | with_reducible apply keeps_newSeg | with_reducible apply keeps_servoSource
    | with_reducible apply keeps_selectMaster | with_reducible apply keeps_trkConfig | with_reducible apply Keeps.ite
    | with_reducible apply Keeps.foldl | split | simp only [Keeps.upd]

theorem keeps_execGptpSync {org s : State} (hz : Keeps org s) (p : Fin 4) (d : Byte) (seqId : BitVec 16) (twoStep : Bool) (origin : Word64) (corr : Word64) (t : Nat) : ∃ u, execGptpSync p d seqId twoStep origin corr t s = .next u ∧ Keeps org u := by
  unfold execGptpSync
  refine ⟨_, rfl, ?_⟩
  try dsimp only
  repeat' first
    | with_reducible assumption | intro _ | with_reducible apply keeps_whenAwake | with_reducible apply keeps_at | with_reducible apply keeps_gptpSync
    | with_reducible apply Keeps.ite | with_reducible apply Keeps.foldl | split | simp only [Keeps.upd]

theorem keeps_execGptpFollowUp {org s : State} (hz : Keeps org s) (p : Fin 4) (d : Byte) (seqId : BitVec 16) (origin : Word64) (corr : Word64) (t : Nat) : ∃ u, execGptpFollowUp p d seqId origin corr t s = .next u ∧ Keeps org u := by
  unfold execGptpFollowUp
  refine ⟨_, rfl, ?_⟩
  try dsimp only
  repeat' first
    | with_reducible assumption | intro _ | with_reducible apply keeps_whenAwake | with_reducible apply keeps_at
    | with_reducible apply keeps_gptpFollowUp | with_reducible apply Keeps.ite | with_reducible apply Keeps.foldl | split | simp only [Keeps.upd]

theorem keeps_execGptpAnnounce {org s : State} (hz : Keeps org s) (p : Fin 4) (d : Byte) (a : Announce) (t : Nat) : ∃ u, execGptpAnnounce p d a t s = .next u ∧ Keeps org u := by
  unfold execGptpAnnounce
  refine ⟨_, rfl, ?_⟩
  try dsimp only
  repeat' first
    | with_reducible assumption | intro _ | with_reducible apply keeps_whenAwake | with_reducible apply keeps_at
    | with_reducible apply keeps_hearAnnounce | with_reducible apply Keeps.ite | with_reducible apply Keeps.foldl | split | simp only [Keeps.upd]

theorem keeps_execPdelayReq {org s : State} (hz : Keeps org s) (p : Fin 4) (seqId : BitVec 16) (rx : Nat) (tx : Nat) : ∃ u, execPdelayReq p seqId rx tx s = .next u ∧ Keeps org u := by
  unfold execPdelayReq
  refine ⟨_, rfl, ?_⟩
  try dsimp only
  repeat' first
    | with_reducible assumption | intro _ | with_reducible apply keeps_whenAwake | with_reducible apply keeps_at
    | with_reducible apply keeps_pdelayReq | with_reducible apply Keeps.ite | with_reducible apply Keeps.foldl | split | simp only [Keeps.upd]

theorem keeps_execPdelayResp {org s : State} (hz : Keeps org s) (p : Fin 4) (seqId : BitVec 16) (t2 : Word64) (t3 : Word64) (rx : Nat) : ∃ u, execPdelayResp p seqId t2 t3 rx s = .next u ∧ Keeps org u := by
  unfold execPdelayResp
  refine ⟨_, rfl, ?_⟩
  try dsimp only
  repeat' first
    | with_reducible assumption | intro _ | with_reducible apply keeps_whenAwake | with_reducible apply keeps_at
    | with_reducible apply keeps_pdelayResp | with_reducible apply Keeps.ite | with_reducible apply Keeps.foldl | split | simp only [Keeps.upd]

theorem keeps_execPdelayTimer {org s : State} (hz : Keeps org s) (p : Fin 4) (t : Nat) : ∃ u, execPdelayTimer p t s = .next u ∧ Keeps org u := by
  unfold execPdelayTimer
  refine ⟨_, rfl, ?_⟩
  try dsimp only
  repeat' first
    | with_reducible assumption | intro _ | with_reducible apply keeps_whenAwake | with_reducible apply keeps_at
    | with_reducible apply keeps_pdelayTimer | with_reducible apply Keeps.ite | with_reducible apply Keeps.foldl | split | simp only [Keeps.upd]

theorem keeps_execSyncTimeout {org s : State} (hz : Keeps org s) (b : Fin 2) (t : Nat) : ∃ u, execSyncTimeout b t s = .next u ∧ Keeps org u := by
  unfold execSyncTimeout
  refine ⟨_, rfl, ?_⟩
  try dsimp only
  repeat' first
    | with_reducible assumption | intro _ | with_reducible apply keeps_whenAwake | with_reducible apply keeps_at
    | with_reducible apply keeps_syncTimeout | with_reducible apply Keeps.ite | with_reducible apply Keeps.foldl | split | simp only [Keeps.upd]

theorem keeps_execHoldoverExpired {org s : State} (hz : Keeps org s) (b : Fin 3) (t : Nat) : ∃ u, execHoldoverExpired b t s = .next u ∧ Keeps org u := by
  unfold execHoldoverExpired
  refine ⟨_, rfl, ?_⟩
  try dsimp only
  repeat' first
    | with_reducible assumption | intro _ | with_reducible apply keeps_whenAwake | with_reducible apply keeps_at
    | with_reducible apply keeps_holdExpired | with_reducible apply Keeps.ite | with_reducible apply Keeps.foldl | split | simp only [Keeps.upd]

theorem keeps_execPpsLabelTimeout {org s : State} (hz : Keeps org s) (t : Nat) : ∃ u, execPpsLabelTimeout t s = .next u ∧ Keeps org u := by
  unfold execPpsLabelTimeout
  refine ⟨_, rfl, ?_⟩
  try dsimp only
  repeat' first
    | with_reducible assumption | intro _ | with_reducible apply keeps_whenAwake | with_reducible apply keeps_at
    | with_reducible apply keeps_labelTimeout | with_reducible apply Keeps.ite | with_reducible apply Keeps.foldl | split | simp only [Keeps.upd]

theorem keeps_execPpsTimeout {org s : State} (hz : Keeps org s) (t : Nat) : ∃ u, execPpsTimeout t s = .next u ∧ Keeps org u := by
  unfold execPpsTimeout
  refine ⟨_, rfl, ?_⟩
  try dsimp only
  repeat' first
    | with_reducible assumption | intro _ | with_reducible apply keeps_whenAwake | with_reducible apply keeps_at
    | with_reducible apply keeps_ppsTimeout | with_reducible apply Keeps.ite | with_reducible apply Keeps.foldl | split | simp only [Keeps.upd]

theorem keeps_execUartRateTimeout {org s : State} (hz : Keeps org s) (t : Nat) : ∃ u, execUartRateTimeout t s = .next u ∧ Keeps org u := by
  unfold execUartRateTimeout
  refine ⟨_, rfl, ?_⟩
  try dsimp only
  repeat' first
    | with_reducible assumption | intro _ | with_reducible apply keeps_whenAwake | with_reducible apply keeps_at
    | with_reducible apply keeps_uartTimeout | with_reducible apply Keeps.ite | with_reducible apply Keeps.foldl | split | simp only [Keeps.upd]

theorem keeps_execTimeSnap {org s : State} (hz : Keeps org s) (v : Word32) (t : Nat) : ∃ u, execTimeSnap v t s = .next u ∧ Keeps org u := by
  unfold execTimeSnap
  refine ⟨_, rfl, ?_⟩
  try dsimp only
  repeat' first
    | with_reducible assumption | intro _ | with_reducible apply keeps_whenAwake | with_reducible apply keeps_at | with_reducible apply keeps_snap
    | with_reducible apply Keeps.ite | with_reducible apply Keeps.foldl | split | simp only [Keeps.upd]

theorem keeps_readTb {org s : State} (hz : Keeps org s) (b : Nat) : Keeps org (State.readTb s b) := by
  unfold State.readTb
  try dsimp only
  repeat' first
    | with_reducible assumption | intro _ | with_reducible apply keeps_latchTb | with_reducible apply keeps_emit | with_reducible apply Keeps.ite
    | with_reducible apply Keeps.foldl | with_reducible apply Keeps.iteFst | with_reducible apply Keeps.iteSnd | split | simp only [Keeps.upd]

theorem keeps_execTbNsLoRead {org s : State} (hz : Keeps org s) (b : Fin 4) (t : Nat) : ∃ u, execTbNsLoRead b t s = .next u ∧ Keeps org u := by
  unfold execTbNsLoRead
  refine ⟨_, rfl, ?_⟩
  try dsimp only
  repeat' first
    | with_reducible assumption | intro _ | with_reducible apply keeps_whenAwake | with_reducible apply keeps_at | with_reducible apply keeps_readTb
    | with_reducible apply Keeps.ite | with_reducible apply Keeps.foldl | split | simp only [Keeps.upd]

theorem keeps_execTbAdjWrite {org s : State} (hz : Keeps org s) (b : Fin 4) (v : Word32) (t : Nat) : ∃ u, execTbAdjWrite b v t s = .next u ∧ Keeps org u := by
  unfold execTbAdjWrite
  refine ⟨_, rfl, ?_⟩
  try dsimp only
  repeat' first
    | with_reducible assumption | intro _ | with_reducible apply keeps_whenAwake | with_reducible apply keeps_at | with_reducible apply keeps_writeAdj
    | with_reducible apply Keeps.ite | with_reducible apply Keeps.foldl | split | simp only [Keeps.upd]

theorem keeps_execTbRateLoWrite {org s : State} (hz : Keeps org s) (b : Fin 4) (v : Word32) (t : Nat) : ∃ u, execTbRateLoWrite b v t s = .next u ∧ Keeps org u := by
  unfold execTbRateLoWrite
  refine ⟨_, rfl, ?_⟩
  try dsimp only
  repeat' first
    | with_reducible assumption | intro _ | with_reducible apply keeps_whenAwake | with_reducible apply keeps_at
    | with_reducible apply keeps_writeRateLo | with_reducible apply Keeps.ite | with_reducible apply Keeps.foldl | split | simp only [Keeps.upd]

theorem keeps_execTbRateHiWrite {org s : State} (hz : Keeps org s) (b : Fin 4) (v : Word32) (t : Nat) : ∃ u, execTbRateHiWrite b v t s = .next u ∧ Keeps org u := by
  unfold execTbRateHiWrite
  refine ⟨_, rfl, ?_⟩
  try dsimp only
  repeat' first
    | with_reducible assumption | intro _ | with_reducible apply keeps_whenAwake | with_reducible apply keeps_at
    | with_reducible apply keeps_writeRateHi | with_reducible apply Keeps.ite | with_reducible apply Keeps.foldl | split | simp only [Keeps.upd]

end Sys2Proof.Machine
end

