-- ==== Sys2Proof/Laws/KeepsCond.lean ====
section
/-! SUPPORT. What the definitions of Machine/Cond.lean keep: the queue, the canonical form of the tables, what has left the device, the free
values taken, the OTP (`Keeps`). -/
namespace Sys2Proof.Machine

theorem keeps_setChan {org s : State} (hz : Keeps org s) (c : Nat) (x : Chan) : Keeps org (State.setChan s c x) := by
  unfold State.setChan
  try dsimp only
  repeat' first
    | with_reducible assumption | intro _ | with_reducible apply Keeps.ite | with_reducible apply Keeps.foldl | split | simp only [Keeps.upd]

theorem keeps_chConfig {org s : State} (hz : Keeps org s) (c : Nat) : Keeps org (State.chConfig s c) := by
  unfold State.chConfig
  try dsimp only
  repeat' first
    | with_reducible assumption | intro _ | with_reducible apply keeps_setReg | with_reducible apply keeps_setFld | with_reducible apply Keeps.ite
    | with_reducible apply Keeps.foldl | with_reducible apply Keeps.iteFst | with_reducible apply Keeps.iteSnd | split | simp only [Keeps.upd]

theorem keeps_fireDet {org s : State} (hz : Keeps org s) (reg : Nat) (src : Nat) (c : Nat) (fired : Bool) : Keeps org (State.fireDet s reg src c fired) := by
  unfold State.fireDet
  try dsimp only
  repeat' first
    | with_reducible assumption | intro _ | with_reducible apply keeps_setReg | with_reducible apply keeps_raise | with_reducible apply Keeps.ite
    | with_reducible apply Keeps.foldl | split | simp only [Keeps.upd]

theorem keeps_detect {org s : State} (hz : Keeps org s) (c : Nat) (y : Nat) : Keeps org (State.detect s c y) := by
  unfold State.detect
  try dsimp only
  repeat' first
    | with_reducible assumption | intro _ | with_reducible apply keeps_setChan | with_reducible apply keeps_setReg
    | with_reducible apply keeps_fireDet | with_reducible apply Keeps.ite | with_reducible apply Keeps.foldl | with_reducible apply Keeps.iteFst
    | with_reducible apply Keeps.iteSnd | split | simp only [Keeps.upd]

theorem keeps_feed {org s : State} (hz : Keeps org s) (c : Nat) (v : Int) (t : Int) : Keeps org (State.feed s c v t).2 := by
  unfold State.feed
  try dsimp only
  repeat' first
    | with_reducible assumption | intro _ | with_reducible apply keeps_setChan | with_reducible apply keeps_setFld | with_reducible apply keeps_detect
    | with_reducible apply Keeps.ite | with_reducible apply Keeps.foldl | with_reducible apply Keeps.iteFst | with_reducible apply Keeps.iteSnd
    | with_reducible refine Keeps.ofSnd (by assumption) ?_ | with_reducible refine Keeps.ofFst (by assumption) ?_ | split | simp only [Keeps.upd]

theorem keeps_feedAll {org s : State} (hz : Keeps org s) (xs0 : List (Nat × Int)) (xs1 : Int) : Keeps org (State.feedAll s xs0 xs1).2 := by
  induction xs0 generalizing s xs1 with
  | nil =>
    unfold State.feedAll
    try dsimp only
    repeat' first
      | with_reducible assumption | intro _ | with_reducible apply keeps_feed | with_reducible apply Keeps.ite | with_reducible apply Keeps.foldl
      | with_reducible apply Keeps.iteFst | with_reducible apply Keeps.iteSnd | with_reducible refine Keeps.ofSnd (by assumption) ?_
      | with_reducible refine Keeps.ofFst (by assumption) ?_ | split | simp only [Keeps.upd]
  | cons e l ih =>
    unfold State.feedAll
    try dsimp only
    repeat' first
      | with_reducible assumption | intro _ | with_reducible apply ih | with_reducible apply keeps_feed | with_reducible apply Keeps.ite
      | with_reducible apply Keeps.foldl | with_reducible apply Keeps.iteFst | with_reducible apply Keeps.iteSnd
      | with_reducible refine Keeps.ofSnd (by assumption) ?_ | with_reducible refine Keeps.ofFst (by assumption) ?_ | split | simp only [Keeps.upd]

theorem keeps_setImu {org s : State} (hz : Keeps org s) (i : Nat) (x : Imu) : Keeps org (State.setImu s i x) := by
  unfold State.setImu
  try dsimp only
  repeat' first
    | with_reducible assumption | intro _ | with_reducible apply Keeps.ite | with_reducible apply Keeps.foldl | split | simp only [Keeps.upd]

theorem keeps_imuDrdy {org s : State} (hz : Keeps org s) (i : Nat) (t : Nat) : Keeps org (State.imuDrdy s i t) := by
  unfold State.imuDrdy
  try dsimp only
  repeat' first
    | with_reducible assumption | intro _ | with_reducible apply keeps_emit | with_reducible apply keeps_setImu
    | with_reducible apply keeps_observeNominal | with_reducible apply Keeps.ite | with_reducible apply Keeps.foldl | split | simp only [Keeps.upd]

theorem keeps_imuBurst {org s : State} (hz : Keeps org s) (i : Nat) (reply : List Byte) : Keeps org (State.imuBurst s i reply).2 := by
  unfold State.imuBurst
  try dsimp only
  repeat' first
    | with_reducible assumption | intro _ | with_reducible apply keeps_setImu | with_reducible apply keeps_incWrap
    | with_reducible apply keeps_feedAll | with_reducible apply Keeps.ite | with_reducible apply Keeps.foldl | with_reducible apply Keeps.iteFst
    | with_reducible apply Keeps.iteSnd | with_reducible refine Keeps.ofSnd (by assumption) ?_ | with_reducible refine Keeps.ofFst (by assumption) ?_
    | split | simp only [Keeps.upd]

theorem keeps_imuLost {org s : State} (hz : Keeps org s) (i : Nat) (t : Nat) : Keeps org (State.imuLost s i t) := by
  unfold State.imuLost
  try dsimp only
  repeat' first
    | with_reducible assumption | intro _ | with_reducible apply keeps_setImu | with_reducible apply keeps_inc | with_reducible apply keeps_raise
    | with_reducible apply Keeps.ite | with_reducible apply Keeps.foldl | with_reducible refine Keeps.ofSnd (by assumption) ?_
    | with_reducible refine Keeps.ofFst (by assumption) ?_ | split | simp only [Keeps.upd]

theorem keeps_wheelEdge {org s : State} (hz : Keeps org s) (k : Nat) (rising : Bool) (held : Nat) (t : Nat) : Keeps org (State.wheelEdge s k rising held t) := by
  unfold State.wheelEdge
  try dsimp only
  repeat' first
    | with_reducible assumption | intro _ | with_reducible apply keeps_incWrap | with_reducible apply Keeps.ite | with_reducible apply Keeps.foldl
    | split | simp only [Keeps.upd]

theorem keeps_wheelValue {org s : State} (hz : Keeps org s) (k : Nat) (t : Nat) : Keeps org (State.wheelValue s k t).2 := by
  unfold State.wheelValue
  try dsimp only
  repeat' first
    | with_reducible assumption | intro _ | with_reducible apply keeps_tick | with_reducible apply Keeps.ite | with_reducible apply Keeps.foldl
    | with_reducible apply Keeps.iteFst | with_reducible apply Keeps.iteSnd | with_reducible refine Keeps.ofSnd (by assumption) ?_
    | with_reducible refine Keeps.ofFst (by assumption) ?_ | split | simp only [Keeps.upd]

theorem keeps_wheelSample {org s : State} (hz : Keeps org s) (t : Nat) : Keeps org (s.wheelSample t).2 := by
  unfold State.wheelSample
  refine Keeps.iteSnd hz ?_
  extract_lets en a b
  have h : Keeps org a.2 := Keeps.foldlSnd hz fun y e h => keeps_feedAll (keeps_wheelValue h _ _) _ _
  exact keeps_feedAll h _ _

theorem keeps_canSignal {org s : State} (hz : Keeps org s) (e : List Byte) (data : List Byte) (t : Nat) : Keeps org (State.canSignal s e data t) := by
  unfold State.canSignal
  try dsimp only
  repeat' first
    | with_reducible assumption | intro _ | with_reducible apply Keeps.ite | with_reducible apply Keeps.foldl | split | simp only [Keeps.upd]

theorem keeps_canSend {org s : State} (hz : Keeps org s) (j : Nat) (o : Out) : Keeps org (State.canSend s j o) := by
  unfold State.canSend
  try dsimp only
  repeat' first
    | with_reducible assumption | intro _ | with_reducible apply keeps_emit | with_reducible apply Keeps.ite | with_reducible apply Keeps.foldl
    | split | simp only [Keeps.upd]

theorem keeps_canFrame {org s : State} (hz : Keeps org s) (j : Nat) (id : Nat) (ext : Bool) (good : Bool) (data : List Byte) (t : Nat) : Keeps org (State.canFrame s j id ext good data t).2 := by
  unfold State.canFrame
  try dsimp only
  repeat' first
    | with_reducible assumption | intro _ | with_reducible apply keeps_canSend | with_reducible apply keeps_inc | with_reducible apply keeps_canSignal
    | with_reducible apply keeps_incWrap | with_reducible apply keeps_observeNominal | with_reducible apply Keeps.ite
    | with_reducible apply Keeps.foldl | with_reducible apply Keeps.iteFst | with_reducible apply Keeps.iteSnd | split | simp only [Keeps.upd]

theorem keeps_syncChan {org s : State} (hz : Keeps org s) (c : Nat) : Keeps org (State.syncChan s c) := by
  unfold State.syncChan
  try dsimp only
  repeat' first
    | with_reducible assumption | intro _ | with_reducible apply keeps_setChan | with_reducible apply keeps_setFld | with_reducible apply Keeps.ite
    | with_reducible apply Keeps.foldl | split | simp only [Keeps.upd]

theorem keeps_condSync {org s : State} (hz : Keeps org s) (ts : Nat) : Keeps org (State.condSync s ts) := by
  unfold State.condSync
  try dsimp only
  repeat' first
    | with_reducible assumption | intro _ | with_reducible apply keeps_syncChan | with_reducible apply keeps_inc | with_reducible apply keeps_setReg64
    | with_reducible apply Keeps.ite | with_reducible apply Keeps.foldl | split | simp only [Keeps.upd]

theorem keeps_syncIn {org s : State} (hz : Keeps org s) (rising : Bool) (t : Nat) : Keeps org (State.syncIn s rising t) := by
  unfold State.syncIn
  try dsimp only
  repeat' first
    | with_reducible assumption | intro _ | with_reducible apply keeps_condSync | with_reducible apply Keeps.ite | with_reducible apply Keeps.foldl
    | split | simp only [Keeps.upd]

theorem keeps_condBoundary {org s : State} (hz : Keeps org s) : Keeps org (State.condBoundary s) := by
  unfold State.condBoundary
  try dsimp only
  repeat' first
    | with_reducible assumption | intro _ | with_reducible apply keeps_chConfig | with_reducible apply Keeps.ite | with_reducible apply Keeps.foldl
    | split | simp only [Keeps.upd]

theorem keeps_execImuLostTimeout {org s : State} (hz : Keeps org s) (i : Fin 2) (t : Nat) : ∃ u, execImuLostTimeout i t s = .next u ∧ Keeps org u := by
  unfold execImuLostTimeout
  refine ⟨_, rfl, ?_⟩
  try dsimp only
  repeat' first
    | with_reducible assumption | intro _ | with_reducible apply keeps_whenAwake | with_reducible apply keeps_at | with_reducible apply keeps_imuLost
    | with_reducible apply Keeps.ite | with_reducible apply Keeps.foldl | split | simp only [Keeps.upd]

theorem keeps_execSyncInEdge {org s : State} (hz : Keeps org s) (rising : Bool) (t : Nat) : ∃ u, execSyncInEdge rising t s = .next u ∧ Keeps org u := by
  unfold execSyncInEdge
  refine ⟨_, rfl, ?_⟩
  try dsimp only
  repeat' first
    | with_reducible assumption | intro _ | with_reducible apply keeps_whenAwake | with_reducible apply keeps_at | with_reducible apply keeps_syncIn
    | with_reducible apply Keeps.ite | with_reducible apply Keeps.foldl | split | simp only [Keeps.upd]

end Sys2Proof.Machine
end

