-- ==== Sys2Proof/Laws/KeepsShore.lean ====
section
/-! SUPPORT. What the definitions of Machine/Shore.lean keep: the queue, the canonical form of the tables, what has left the device, the free
values taken, the OTP (`Keeps`). -/
namespace Sys2Proof.Machine

theorem keeps_setSport {org s : State} (hz : Keeps org s) (n : Nat) (x : SPort) : Keeps org (State.setSport s n x) := by
  unfold State.setSport
  try dsimp only
  repeat' first
    | with_reducible assumption | intro _ | with_reducible apply Keeps.ite | with_reducible apply Keeps.foldl | split | simp only [Keeps.upd]

theorem keeps_setSpair {org s : State} (hz : Keeps org s) (p : Nat) (x : SPair) : Keeps org (State.setSpair s p x) := by
  unfold State.setSpair
  try dsimp only
  repeat' first
    | with_reducible assumption | intro _ | with_reducible apply Keeps.ite | with_reducible apply Keeps.foldl | split | simp only [Keeps.upd]

theorem keeps_setSpin {org s : State} (hz : Keeps org s) (k : Nat) (x : SPin) : Keeps org (State.setSpin s k x) := by
  unfold State.setSpin
  try dsimp only
  repeat' first
    | with_reducible assumption | intro _ | with_reducible apply Keeps.ite | with_reducible apply Keeps.foldl | split | simp only [Keeps.upd]

theorem keeps_setStream {org s : State} (hz : Keeps org s) (k : Nat) (x : SStream) : Keeps org (State.setStream s k x) := by
  unfold State.setStream
  try dsimp only
  repeat' first
    | with_reducible assumption | intro _ | with_reducible apply Keeps.ite | with_reducible apply Keeps.foldl | split | simp only [Keeps.upd]

theorem keeps_setPortSt {org s : State} (hz : Keeps org s) (n : Nat) (v : Nat) : Keeps org (State.setPortSt s n v) := by
  unfold State.setPortSt
  try dsimp only
  repeat' first
    | with_reducible assumption | intro _ | with_reducible apply keeps_setFld | with_reducible apply Keeps.ite | with_reducible apply Keeps.foldl
    | split | simp only [Keeps.upd]

theorem keeps_setShed {org s : State} (hz : Keeps org s) (n : Nat) (on : Bool) : Keeps org (State.setShed s n on) := by
  unfold State.setShed
  try dsimp only
  repeat' first
    | with_reducible assumption | intro _ | with_reducible apply keeps_setFld | with_reducible apply keeps_setSport | with_reducible apply Keeps.ite
    | with_reducible apply Keeps.foldl | split | simp only [Keeps.upd]

theorem keeps_freeSlot {org s : State} (hz : Keeps org s) (x : SlotObjs) : Keeps org (State.freeSlot s x) := by
  unfold State.freeSlot
  try dsimp only
  repeat' first
    | with_reducible assumption | intro _ | with_reducible apply keeps_freeObj | with_reducible apply Keeps.ite | with_reducible apply Keeps.foldl
    | split | simp only [Keeps.upd]

theorem keeps_allocSystems {org s : State} (hz : Keeps org s) (l : List (Nat × Nat × Nat)) : Keeps org (s.allocSystems l).2 := by
  induction l generalizing s with
  | nil => exact hz
  | cons e r ih =>
    obtain ⟨size, owner, isle⟩ := e
    cases size with
    | zero => exact ih hz
    | succ n => exact ih (keeps_allocSystem hz _ _ _ _)

theorem keeps_allocSlot {org s : State} (hz : Keeps org s) (n : Nat) (c : FrameCfg) : Keeps org (State.allocSlot s n c).2 := by
  unfold State.allocSlot
  try dsimp only
  repeat' first
    | with_reducible assumption | intro _ | with_reducible apply keeps_allocSystems | with_reducible apply Keeps.ite
    | with_reducible apply Keeps.foldl | with_reducible apply Keeps.iteFst | with_reducible apply Keeps.iteSnd | split | simp only [Keeps.upd]

theorem keeps_allocSlots {org s : State} (hz : Keeps org s) (n : Nat) (c : FrameCfg) (xs0 : Nat) : Keeps org (State.allocSlots s n c xs0).2 := by
  induction xs0 generalizing s n c with
  | zero =>
    unfold State.allocSlots
    try dsimp only
    repeat' first
      | with_reducible assumption | intro _ | with_reducible apply keeps_allocSlot | with_reducible apply Keeps.ite | with_reducible apply Keeps.foldl
      | with_reducible apply Keeps.iteFst | with_reducible apply Keeps.iteSnd | split | simp only [Keeps.upd]
  | succ n ih =>
    unfold State.allocSlots
    try dsimp only
    repeat' first
      | with_reducible assumption | intro _ | with_reducible apply ih | with_reducible apply keeps_allocSlot | with_reducible apply Keeps.ite
      | with_reducible apply Keeps.foldl | with_reducible apply Keeps.iteFst | with_reducible apply Keeps.iteSnd | split | simp only [Keeps.upd]

theorem keeps_portRings {org s : State} (hz : Keeps org s) (n : Nat) : Keeps org (State.portRings s n) := by
  unfold State.portRings
  try dsimp only
  repeat' first
    | with_reducible assumption | intro _ | with_reducible apply keeps_allocSystem | with_reducible apply keeps_setSport
    | with_reducible apply keeps_setReg64 | with_reducible apply Keeps.ite | with_reducible apply Keeps.foldl | with_reducible apply Keeps.iteFst
    | with_reducible apply Keeps.iteSnd | split | simp only [Keeps.upd]

theorem keeps_ensureSlots {org s : State} (hz : Keeps org s) (n : Nat) : Keeps org (State.ensureSlots s n) := by
  unfold State.ensureSlots
  try dsimp only
  repeat' first
    | with_reducible assumption | intro _ | with_reducible apply keeps_portRings | with_reducible apply keeps_allocSlots
    | with_reducible apply keeps_setSport | with_reducible apply keeps_freeSlot | with_reducible apply Keeps.ite | with_reducible apply Keeps.foldl
    | with_reducible apply Keeps.iteFst | with_reducible apply Keeps.iteSnd | split | simp only [Keeps.upd]

theorem keeps_dropOldSlots {org s : State} (hz : Keeps org s) (n : Nat) : Keeps org (State.dropOldSlots s n) := by
  unfold State.dropOldSlots
  try dsimp only
  repeat' first
    | with_reducible assumption | intro _ | with_reducible apply keeps_freeSlot | with_reducible apply keeps_setSport | with_reducible apply Keeps.ite
    | with_reducible apply Keeps.foldl | split | simp only [Keeps.upd]

theorem keeps_checkPort {org s : State} (hz : Keeps org s) (n : Nat) : Keeps org (State.checkPort s n) := by
  unfold State.checkPort
  try dsimp only
  repeat' first
    | with_reducible assumption | intro _ | with_reducible apply keeps_setSport | with_reducible apply keeps_setPortSt
    | with_reducible apply keeps_setShed | with_reducible apply keeps_setFld | with_reducible apply keeps_ensureSlots | with_reducible apply Keeps.ite
    | with_reducible apply Keeps.foldl | split | simp only [Keeps.upd]

theorem keeps_pairRing {org s : State} (hz : Keeps org s) (p : Nat) : Keeps org (State.pairRing s p) := by
  unfold State.pairRing
  try dsimp only
  repeat' first
    | with_reducible assumption | intro _ | with_reducible apply keeps_allocSystem | with_reducible apply keeps_setSpair
    | with_reducible apply keeps_setReg64 | with_reducible apply Keeps.ite | with_reducible apply Keeps.foldl
    | with_reducible refine Keeps.ofSnd (by assumption) ?_ | with_reducible refine Keeps.ofFst (by assumption) ?_ | split | simp only [Keeps.upd]

theorem keeps_pairBuffer {org s : State} (hz : Keeps org s) (p w : Nat) : Keeps org (s.pairBuffer p w) := by
  unfold State.pairBuffer
  refine Keeps.ite hz ?_
  have h : Keeps org (if (s.spair p).buffer = 0 then s else s.freeObj (s.spair p).buffer) := Keeps.ite hz (keeps_freeObj hz _)
  split
  next heq => exact keeps_setSpair (keeps_noteDecision (Keeps.ofSnd heq (keeps_allocSystem h _ _ _ _)) _) _ _

theorem keeps_pairMaps {org s : State} (hz : Keeps org s) (p : Nat) (bytes : Nat) (n : Nat) : Keeps org (State.pairMaps s p bytes n) := by
  unfold State.pairMaps
  try dsimp only
  repeat' first
    | with_reducible assumption | intro _ | with_reducible apply keeps_freeObj | with_reducible apply keeps_allocSystems
    | with_reducible apply keeps_setSpair | with_reducible apply Keeps.ite | with_reducible apply Keeps.foldl
    | with_reducible refine Keeps.ofSnd (by assumption) ?_ | with_reducible refine Keeps.ofFst (by assumption) ?_ | split | simp only [Keeps.upd]

theorem keeps_ensurePair {org s : State} (hz : Keeps org s) (p : Nat) : Keeps org (State.ensurePair s p) := by
  unfold State.ensurePair
  try dsimp only
  repeat' first
    | with_reducible assumption | intro _ | with_reducible apply keeps_pairRing | with_reducible apply keeps_pairBuffer
    | with_reducible apply keeps_pairMaps | with_reducible apply Keeps.ite | with_reducible apply Keeps.foldl | split | simp only [Keeps.upd]

theorem keeps_setPairStatus {org s : State} (hz : Keeps org s) (p : Nat) (st : Nat) (trial : Nat) (pairSkew : Bool) : Keeps org (State.setPairStatus s p st trial pairSkew) := by
  unfold State.setPairStatus
  try dsimp only
  repeat' first
    | with_reducible assumption | intro _ | with_reducible apply keeps_setReg | with_reducible apply keeps_pairSensorSkew
    | with_reducible apply Keeps.ite | with_reducible apply Keeps.foldl | split | simp only [Keeps.upd]

theorem keeps_checkPair {org s : State} (hz : Keeps org s) (p : Nat) : Keeps org (State.checkPair s p) := by
  unfold State.checkPair
  try dsimp only
  repeat' first
    | with_reducible assumption | intro _ | with_reducible apply keeps_setPairStatus | with_reducible apply keeps_setSpair
    | with_reducible apply keeps_ensurePair | with_reducible apply Keeps.ite | with_reducible apply Keeps.foldl | split | simp only [Keeps.upd]

theorem keeps_checkPin {org s : State} (hz : Keeps org s) (k : Nat) : Keeps org (State.checkPin s k) := by
  unfold State.checkPin
  try dsimp only
  repeat' first
    | with_reducible assumption | intro _ | with_reducible apply keeps_setSpin | with_reducible apply keeps_setReg | with_reducible apply Keeps.ite
    | with_reducible apply Keeps.foldl | split | simp only [Keeps.upd]

theorem keeps_ensureStream {org s : State} (hz : Keeps org s) (k : Nat) : Keeps org (State.ensureStream s k) := by
  unfold State.ensureStream
  try dsimp only
  repeat' first
    | with_reducible assumption | intro _ | with_reducible apply keeps_allocSystem | with_reducible apply keeps_setStream
    | with_reducible apply keeps_setReg64 | with_reducible apply Keeps.ite | with_reducible apply Keeps.foldl | with_reducible apply Keeps.iteFst
    | with_reducible apply Keeps.iteSnd | split | simp only [Keeps.upd]

theorem keeps_meshBoundary {org s : State} (hz : Keeps org s) (p : Nat) (t : Nat) : Keeps org (State.meshBoundary s p t) := by
  unfold State.meshBoundary
  try dsimp only
  repeat' first
    | with_reducible assumption | intro _ | with_reducible apply keeps_setSpair | with_reducible apply Keeps.ite | with_reducible apply Keeps.foldl
    | with_reducible apply Keeps.iteFst | with_reducible apply Keeps.iteSnd | with_reducible refine Keeps.ofSnd (by assumption) ?_
    | with_reducible refine Keeps.ofFst (by assumption) ?_ | split | simp only [Keeps.upd]

theorem keeps_shoreCheck {org s : State} (hz : Keeps org s) (t : Nat) : Keeps org (State.shoreCheck s t) := by
  unfold State.shoreCheck
  try dsimp only
  repeat' first
    | with_reducible assumption | intro _ | with_reducible apply keeps_checkPort | with_reducible apply keeps_checkPair
    | with_reducible apply keeps_checkPin | with_reducible apply keeps_ensureStream | with_reducible apply keeps_meshBoundary
    | with_reducible apply keeps_setCause | with_reducible apply Keeps.ite | with_reducible apply Keeps.foldl | split | simp only [Keeps.upd]

theorem keeps_shoreStop {org s : State} (hz : Keeps org s) : Keeps org (State.shoreStop s) := by
  unfold State.shoreStop
  try dsimp only
  repeat' first
    | with_reducible assumption | intro _ | with_reducible apply keeps_setSport | with_reducible apply keeps_checkPort
    | with_reducible apply keeps_checkPin | with_reducible apply keeps_checkPair | with_reducible apply Keeps.ite | with_reducible apply Keeps.foldl
    | split | simp only [Keeps.upd]

theorem keeps_shedDecision {org s : State} (hz : Keeps org s) (i : Nat) (fill : Nat) : Keeps org (State.shedDecision s i fill) := by
  unfold State.shedDecision
  try dsimp only
  repeat' first
    | with_reducible assumption | intro _ | with_reducible apply keeps_setFld | with_reducible apply keeps_setShed | with_reducible apply Keeps.ite
    | with_reducible apply Keeps.foldl | with_reducible refine Keeps.ofSnd (by assumption) ?_ | with_reducible refine Keeps.ofFst (by assumption) ?_
    | split | simp only [Keeps.upd]

theorem keeps_setFate {org s : State} (hz : Keeps org s) (n : Nat) (seq : Nat) (ok : Bool) : Keeps org (State.setFate s n seq ok) := by
  unfold State.setFate
  try dsimp only
  repeat' first
    | with_reducible assumption | intro _ | with_reducible apply keeps_setSport | with_reducible apply Keeps.ite | with_reducible apply Keeps.foldl
    | split | simp only [Keeps.upd]

theorem keeps_queueStereo {org s : State} (hz : Keeps org s) (n : Nat) (seq : Nat) : Keeps org (State.queueStereo s n seq) := by
  unfold State.queueStereo
  try dsimp only
  repeat' first
    | with_reducible assumption | intro _ | with_reducible apply keeps_setSpair | with_reducible apply Keeps.ite | with_reducible apply Keeps.foldl
    | with_reducible refine Keeps.ofSnd (by assumption) ?_ | with_reducible refine Keeps.ofFst (by assumption) ?_ | split | simp only [Keeps.upd]

theorem keeps_closeFrame {org s : State} (hz : Keeps org s) (n : Nat) (atEnd : Bool) : Keeps org (State.closeFrame s n atEnd) := by
  unfold State.closeFrame
  try dsimp only
  repeat' first
    | with_reducible assumption | intro _ | with_reducible apply keeps_setSport | with_reducible apply keeps_setFate
    | with_reducible apply keeps_store | with_reducible apply keeps_inc | with_reducible apply keeps_queueStereo | with_reducible apply keeps_raise
    | with_reducible apply Keeps.ite | with_reducible apply Keeps.foldl | with_reducible refine Keeps.ofSnd (by assumption) ?_
    | with_reducible refine Keeps.ofFst (by assumption) ?_ | split | simp only [Keeps.upd]

theorem keeps_takeSlot {org s : State} (hz : Keeps org s) (n : Nat) : Keeps org (State.takeSlot s n).2 := by
  unfold State.takeSlot
  try dsimp only
  repeat' first
    | with_reducible assumption | intro _ | with_reducible apply keeps_newGen | with_reducible apply keeps_setSport | with_reducible apply Keeps.ite
    | with_reducible apply Keeps.foldl | with_reducible apply Keeps.iteFst | with_reducible apply Keeps.iteSnd | split | simp only [Keeps.upd]

theorem keeps_frameStart {org s : State} (hz : Keeps org s) (n : Nat) (vc : Nat) (fill : Nat) (t : Nat) : Keeps org (State.frameStart s n vc fill t) := by
  unfold State.frameStart
  try dsimp only
  repeat' first
    | with_reducible assumption | intro _ | with_reducible apply keeps_closeFrame | with_reducible apply keeps_setPortSt
    | with_reducible apply keeps_shedDecision | with_reducible apply keeps_setTracker | with_reducible apply keeps_ensureSlots
    | with_reducible apply keeps_setSport | with_reducible apply keeps_inc | with_reducible apply keeps_raise | with_reducible apply keeps_takeSlot
    | with_reducible apply Keeps.ite | with_reducible apply Keeps.foldl | with_reducible apply Keeps.iteFst | with_reducible apply Keeps.iteSnd
    | with_reducible refine Keeps.ofSnd (by assumption) ?_ | with_reducible refine Keeps.ofFst (by assumption) ?_ | split | simp only [Keeps.upd]

theorem keeps_observeFrame {org s : State} (hz : Keeps org s) (n : Nat) (f : Frame) (a : Int) : Keeps org (State.observeFrame s n f a) := by
  unfold State.observeFrame
  try dsimp only
  repeat' first
    | with_reducible assumption | intro _ | with_reducible apply keeps_observeTriggered | with_reducible apply keeps_observe
    | with_reducible apply keeps_setSport | with_reducible apply Keeps.ite | with_reducible apply Keeps.foldl | split | simp only [Keeps.upd]

theorem keeps_longPacket {org s : State} (hz : Keeps org s) (n : Nat) (vc : Nat) (dtype : Nat) (headerOk : Bool) (crcOk : Bool) (payload : List Byte) (t : Nat) : Keeps org (State.longPacket s n vc dtype headerOk crcOk payload t) := by
  unfold State.longPacket
  try dsimp only
  repeat' first
    | with_reducible assumption | intro _ | with_reducible apply keeps_inc | with_reducible apply keeps_raise | with_reducible apply keeps_setSport
    | with_reducible apply keeps_observeFrame | with_reducible apply Keeps.ite | with_reducible apply Keeps.foldl
    | with_reducible refine Keeps.ofSnd (by assumption) ?_ | with_reducible refine Keeps.ofFst (by assumption) ?_ | split | simp only [Keeps.upd]

theorem keeps_frameEnd {org s : State} (hz : Keeps org s) (n : Nat) (vc : Nat) : Keeps org (State.frameEnd s n vc) := by
  unfold State.frameEnd
  try dsimp only
  repeat' first
    | with_reducible assumption | intro _ | with_reducible apply keeps_closeFrame | with_reducible apply Keeps.ite | with_reducible apply Keeps.foldl
    | with_reducible refine Keeps.ofSnd (by assumption) ?_ | with_reducible refine Keeps.ofFst (by assumption) ?_ | split | simp only [Keeps.upd]

theorem keeps_abandonFrame {org s : State} (hz : Keeps org s) (n : Nat) : Keeps org (State.abandonFrame s n) := by
  unfold State.abandonFrame
  try dsimp only
  repeat' first
    | with_reducible assumption | intro _ | with_reducible apply keeps_setSport | with_reducible apply keeps_inc | with_reducible apply keeps_raise
    | with_reducible apply keeps_setShed | with_reducible apply Keeps.ite | with_reducible apply Keeps.foldl
    | with_reducible refine Keeps.ofSnd (by assumption) ?_ | with_reducible refine Keeps.ofFst (by assumption) ?_ | split | simp only [Keeps.upd]

theorem keeps_queueFull {org s : State} (hz : Keeps org s) (i : Nat) (fills : List Nat) (xs0 : Nat) : Keeps org (State.queueFull s i fills xs0) := by
  induction xs0 generalizing s i fills with
  | zero =>
    unfold State.queueFull
    try dsimp only
    repeat' first
      | with_reducible assumption | intro _ | with_reducible apply keeps_abandonFrame | with_reducible apply keeps_setFld
      | with_reducible apply Keeps.ite | with_reducible apply Keeps.foldl | with_reducible refine Keeps.ofSnd (by assumption) ?_
      | with_reducible refine Keeps.ofFst (by assumption) ?_ | split | simp only [Keeps.upd]
  | succ n ih =>
    unfold State.queueFull
    try dsimp only
    repeat' first
      | with_reducible assumption | intro _ | with_reducible apply ih | with_reducible apply keeps_abandonFrame | with_reducible apply keeps_setFld
      | with_reducible apply Keeps.ite | with_reducible apply Keeps.foldl | with_reducible refine Keeps.ofSnd (by assumption) ?_
      | with_reducible refine Keeps.ofFst (by assumption) ?_ | split | simp only [Keeps.upd]

theorem keeps_portLost {org s : State} (hz : Keeps org s) (n : Nat) (t : Nat) : Keeps org (State.portLost s n t) := by
  unfold State.portLost
  try dsimp only
  repeat' first
    | with_reducible assumption | intro _ | with_reducible apply keeps_setPortSt | with_reducible apply keeps_raise | with_reducible apply Keeps.ite
    | with_reducible apply Keeps.foldl | with_reducible refine Keeps.ofSnd (by assumption) ?_ | with_reducible refine Keeps.ofFst (by assumption) ?_
    | split | simp only [Keeps.upd]

theorem keeps_deskew {org s : State} (hz : Keeps org s) (n : Nat) (passes : Nat) : Keeps org (State.deskew s n passes) := by
  unfold State.deskew
  try dsimp only
  repeat' first
    | with_reducible assumption | intro _ | with_reducible apply keeps_setFld | with_reducible apply Keeps.ite | with_reducible apply Keeps.foldl
    | split | simp only [Keeps.upd]

theorem keeps_fsyncPulse {org s : State} (hz : Keeps org s) (k : Nat) (t : Nat) : Keeps org (State.fsyncPulse s k t) := by
  unfold State.fsyncPulse
  try dsimp only
  repeat' first
    | with_reducible assumption | intro _ | with_reducible apply keeps_incWrap | with_reducible apply keeps_setSpin | with_reducible apply keeps_emit
    | with_reducible apply Keeps.ite | with_reducible apply Keeps.foldl | with_reducible refine Keeps.ofSnd (by assumption) ?_
    | with_reducible refine Keeps.ofFst (by assumption) ?_ | split | simp only [Keeps.upd]

theorem keeps_frameRecord {org s : State} (hz : Keeps org s) (n : Nat) (t : Nat) : Keeps org (State.frameRecord s n t).2 := by
  unfold State.frameRecord
  try dsimp only
  repeat' first
    | with_reducible assumption | intro _ | with_reducible apply keeps_store | with_reducible apply keeps_convStale
    | with_reducible apply keeps_setSport | with_reducible apply Keeps.ite | with_reducible apply Keeps.foldl | with_reducible apply Keeps.iteFst
    | with_reducible apply Keeps.iteSnd | with_reducible refine Keeps.ofSnd (by assumption) ?_ | with_reducible refine Keeps.ofFst (by assumption) ?_
    | split | simp only [Keeps.upd]

theorem keeps_takeMap {org s : State} (hz : Keeps org s) (p : Nat) : Keeps org (State.takeMap s p).2 := by
  unfold State.takeMap
  try dsimp only
  repeat' first
    | with_reducible assumption | intro _ | with_reducible apply keeps_setSpair | with_reducible apply keeps_newGen | with_reducible apply Keeps.ite
    | with_reducible apply Keeps.foldl | with_reducible apply Keeps.iteFst | with_reducible apply Keeps.iteSnd | split | simp only [Keeps.upd]

theorem keeps_stereoRecord {org s : State} (hz : Keeps org s) (p : Nat) (f : FrameObs) (oo : Int) : Keeps org (State.stereoRecord s p f oo) := by
  unfold State.stereoRecord
  try dsimp only
  repeat' first
    | with_reducible assumption | intro _ | with_reducible apply keeps_raise | with_reducible apply keeps_inc
    | with_reducible apply keeps_setPairStatus | with_reducible apply keeps_setReg | with_reducible apply keeps_setSpair
    | with_reducible apply keeps_takeMap | with_reducible apply keeps_store | with_reducible apply Keeps.ite | with_reducible apply Keeps.foldl
    | with_reducible apply Keeps.iteFst | with_reducible apply Keeps.iteSnd | with_reducible refine Keeps.ofSnd (by assumption) ?_
    | with_reducible refine Keeps.ofFst (by assumption) ?_ | split | simp only [Keeps.upd]

theorem keeps_stereoWrite {org s : State} (hz : Keeps org s) (p : Nat) (t : Nat) : Keeps org (State.stereoWrite s p t) := by
  unfold State.stereoWrite
  try dsimp only
  repeat' first
    | with_reducible assumption | intro _ | with_reducible apply keeps_stereoRecord | with_reducible apply Keeps.ite
    | with_reducible apply Keeps.foldl | with_reducible refine Keeps.ofSnd (by assumption) ?_ | with_reducible refine Keeps.ofFst (by assumption) ?_
    | split | simp only [Keeps.upd]

theorem keeps_stereoTimeout {org s : State} (hz : Keeps org s) (p : Nat) (t : Nat) : Keeps org (State.stereoTimeout s p t) := by
  unfold State.stereoTimeout
  try dsimp only
  repeat' first
    | with_reducible assumption | intro _ | with_reducible apply keeps_stereoRecord | with_reducible apply Keeps.ite
    | with_reducible apply Keeps.foldl | with_reducible refine Keeps.ofSnd (by assumption) ?_ | with_reducible refine Keeps.ofFst (by assumption) ?_
    | split | simp only [Keeps.upd]

theorem keeps_lateForProj {org s : State} (hz : Keeps org s) (t : Int) : Keeps org (State.lateForProj s t) := by
  unfold State.lateForProj
  try dsimp only
  repeat' first
    | with_reducible assumption | intro _ | with_reducible apply keeps_addTo | with_reducible apply keeps_raise | with_reducible apply Keeps.ite
    | with_reducible apply Keeps.foldl | with_reducible apply Keeps.iteFst | with_reducible apply Keeps.iteSnd | split | simp only [Keeps.upd]

theorem keeps_lidarPoints {org s : State} (hz : Keeps org s) (k : Nat) (tmpl : Nat) (tm : List Byte) (payload : List Byte) (t : Int) : Keeps org (State.lidarPoints s k tmpl tm payload t) := by
  unfold State.lidarPoints
  try dsimp only
  repeat' first
    | with_reducible assumption | intro _ | with_reducible apply keeps_store | with_reducible apply keeps_setStream | with_reducible apply keeps_inc
    | with_reducible apply keeps_lateForProj | with_reducible apply Keeps.ite | with_reducible apply Keeps.foldl
    | with_reducible refine Keeps.ofSnd (by assumption) ?_ | with_reducible refine Keeps.ofFst (by assumption) ?_ | split | simp only [Keeps.upd]

theorem keeps_lidarDatagram {org s : State} (hz : Keeps org s) (p : Nat) (src : Nat) (dport : Nat) (fragmented : Bool) (payload : List Byte) (t : Nat) : Keeps org (State.lidarDatagram s p src dport fragmented payload t) := by
  unfold State.lidarDatagram
  try dsimp only
  repeat' first
    | with_reducible assumption | intro _ | with_reducible apply keeps_inc | with_reducible apply keeps_raise | with_reducible apply keeps_lidarPoints
    | with_reducible apply keeps_observe | with_reducible apply keeps_invStale | with_reducible apply Keeps.ite | with_reducible apply Keeps.foldl
    | with_reducible refine Keeps.ofSnd (by assumption) ?_ | with_reducible refine Keeps.ofFst (by assumption) ?_ | split | simp only [Keeps.upd]

theorem keeps_projStart {org s : State} (hz : Keeps org s) (n : Nat) (t : Nat) : Keeps org (State.projStart s n t) := by
  unfold State.projStart
  try dsimp only
  repeat' first
    | with_reducible assumption | intro _ | with_reducible apply keeps_setSport | with_reducible apply Keeps.ite | with_reducible apply Keeps.foldl
    | with_reducible apply Keeps.iteFst | with_reducible apply Keeps.iteSnd | with_reducible refine Keeps.ofSnd (by assumption) ?_
    | with_reducible refine Keeps.ofFst (by assumption) ?_ | split | simp only [Keeps.upd]

theorem keeps_depthHeader {org s : State} (hz : Keeps org s) (n : Nat) : Keeps org (State.depthHeader s n) := by
  unfold State.depthHeader
  try dsimp only
  repeat' first
    | with_reducible assumption | intro _ | with_reducible apply keeps_store | with_reducible apply keeps_addTo | with_reducible apply keeps_raise
    | with_reducible apply keeps_setSport | with_reducible apply Keeps.ite | with_reducible apply Keeps.foldl
    | with_reducible refine Keeps.ofSnd (by assumption) ?_ | with_reducible refine Keeps.ofFst (by assumption) ?_ | split | simp only [Keeps.upd]

theorem keeps_execFrameStart {org s : State} (hz : Keeps org s) (n : Fin 16) (vc : Fin 4) (fill : Fin 129) (t : Nat) : ∃ u, execFrameStart n vc fill t s = .next u ∧ Keeps org u := by
  unfold execFrameStart
  refine ⟨_, rfl, ?_⟩
  try dsimp only
  repeat' first
    | with_reducible assumption | intro _ | with_reducible apply keeps_whenAwake | with_reducible apply keeps_at
    | with_reducible apply keeps_frameStart | with_reducible apply Keeps.ite | with_reducible apply Keeps.foldl | split | simp only [Keeps.upd]

theorem keeps_execFrameEnd {org s : State} (hz : Keeps org s) (n : Fin 16) (vc : Fin 4) (t : Nat) : ∃ u, execFrameEnd n vc t s = .next u ∧ Keeps org u := by
  unfold execFrameEnd
  refine ⟨_, rfl, ?_⟩
  try dsimp only
  repeat' first
    | with_reducible assumption | intro _ | with_reducible apply keeps_whenAwake | with_reducible apply keeps_at | with_reducible apply keeps_frameEnd
    | with_reducible apply Keeps.ite | with_reducible apply Keeps.foldl | split | simp only [Keeps.upd]

theorem keeps_execWriteQueueFull {org s : State} (hz : Keeps org s) (i : Fin 2) (fills : List (Fin 129)) (t : Nat) : ∃ u, execWriteQueueFull i fills t s = .next u ∧ Keeps org u := by
  unfold execWriteQueueFull
  refine ⟨_, rfl, ?_⟩
  try dsimp only
  repeat' first
    | with_reducible assumption | intro _ | with_reducible apply keeps_whenAwake | with_reducible apply keeps_at | with_reducible apply keeps_setFld
    | with_reducible apply keeps_queueFull | with_reducible apply Keeps.ite | with_reducible apply Keeps.foldl | split | simp only [Keeps.upd]

theorem keeps_execPortLostTimeout {org s : State} (hz : Keeps org s) (n : Fin 16) (t : Nat) : ∃ u, execPortLostTimeout n t s = .next u ∧ Keeps org u := by
  unfold execPortLostTimeout
  refine ⟨_, rfl, ?_⟩
  try dsimp only
  repeat' first
    | with_reducible assumption | intro _ | with_reducible apply keeps_whenAwake | with_reducible apply keeps_at | with_reducible apply keeps_portLost
    | with_reducible apply Keeps.ite | with_reducible apply Keeps.foldl | split | simp only [Keeps.upd]

theorem keeps_execFsyncPulse {org s : State} (hz : Keeps org s) (k : Fin 8) (t : Nat) : ∃ u, execFsyncPulse k t s = .next u ∧ Keeps org u := by
  unfold execFsyncPulse
  refine ⟨_, rfl, ?_⟩
  try dsimp only
  repeat' first
    | with_reducible assumption | intro _ | with_reducible apply keeps_whenAwake | with_reducible apply keeps_at
    | with_reducible apply keeps_fsyncPulse | with_reducible apply Keeps.ite | with_reducible apply Keeps.foldl | split | simp only [Keeps.upd]

theorem keeps_execDeskewSequence {org s : State} (hz : Keeps org s) (n : Fin 16) (passes : Fin 16) (t : Nat) : ∃ u, execDeskewSequence n passes t s = .next u ∧ Keeps org u := by
  unfold execDeskewSequence
  refine ⟨_, rfl, ?_⟩
  try dsimp only
  repeat' first
    | with_reducible assumption | intro _ | with_reducible apply keeps_whenAwake | with_reducible apply keeps_at | with_reducible apply keeps_deskew
    | with_reducible apply Keeps.ite | with_reducible apply Keeps.foldl | split | simp only [Keeps.upd]

theorem keeps_execStereoRecordWrite {org s : State} (hz : Keeps org s) (p : Fin 8) (t : Nat) : ∃ u, execStereoRecordWrite p t s = .next u ∧ Keeps org u := by
  unfold execStereoRecordWrite
  refine ⟨_, rfl, ?_⟩
  try dsimp only
  repeat' first
    | with_reducible assumption | intro _ | with_reducible apply keeps_whenAwake | with_reducible apply keeps_at
    | with_reducible apply keeps_stereoWrite | with_reducible apply Keeps.ite | with_reducible apply Keeps.foldl | split | simp only [Keeps.upd]

theorem keeps_execStereoPartnerTimeout {org s : State} (hz : Keeps org s) (p : Fin 8) (t : Nat) : ∃ u, execStereoPartnerTimeout p t s = .next u ∧ Keeps org u := by
  unfold execStereoPartnerTimeout
  refine ⟨_, rfl, ?_⟩
  try dsimp only
  repeat' first
    | with_reducible assumption | intro _ | with_reducible apply keeps_whenAwake | with_reducible apply keeps_at
    | with_reducible apply keeps_stereoTimeout | with_reducible apply Keeps.ite | with_reducible apply Keeps.foldl | split | simp only [Keeps.upd]

theorem keeps_execProjectionStart {org s : State} (hz : Keeps org s) (n : Fin 16) (t : Nat) : ∃ u, execProjectionStart n t s = .next u ∧ Keeps org u := by
  unfold execProjectionStart
  refine ⟨_, rfl, ?_⟩
  try dsimp only
  repeat' first
    | with_reducible assumption | intro _ | with_reducible apply keeps_whenAwake | with_reducible apply keeps_at
    | with_reducible apply keeps_projStart | with_reducible apply Keeps.ite | with_reducible apply Keeps.foldl | split | simp only [Keeps.upd]

end Sys2Proof.Machine
end

