-- ==== Sys2Proof/Laws/KeepsMask.lean ====
section
/-! SUPPORT. What the definitions of Machine/Mask.lean keep: the queue, the canonical form of the tables, what has left the device, the free
values taken, the OTP (`Keeps`). -/
namespace Sys2Proof.Machine

theorem keeps_setSource {org s : State} (hz : Keeps org s) (b : Nat) (x : Source) : Keeps org (State.setSource s b x) := by
  unfold State.setSource
  try dsimp only
  repeat' first
    | with_reducible assumption | intro _ | with_reducible apply Keeps.ite | with_reducible apply Keeps.foldl | split | simp only [Keeps.upd]

theorem keeps_freeze {org s : State} (hz : Keeps org s) : Keeps org (State.freeze s) := by
  unfold State.freeze
  try dsimp only
  repeat' first
    | with_reducible assumption | intro _ | with_reducible apply Keeps.ite | with_reducible apply Keeps.foldl
    | with_reducible refine Keeps.ofSnd (by assumption) ?_ | with_reducible refine Keeps.ofFst (by assumption) ?_ | split | simp only [Keeps.upd]

theorem keeps_setEstState {org s : State} (hz : Keeps org s) (v : Nat) : Keeps org (State.setEstState s v) := by
  unfold State.setEstState
  try dsimp only
  repeat' first
    | with_reducible assumption | intro _ | with_reducible apply keeps_setFld | with_reducible apply keeps_raise | with_reducible apply Keeps.ite
    | with_reducible apply Keeps.foldl | split | simp only [Keeps.upd]

theorem keeps_refreshMask {org s00 : State} (hz : Keeps org s00) : Keeps org (State.refreshMask s00) := by
  unfold State.refreshMask
  try dsimp only
  repeat' first
    | with_reducible assumption | intro _ | with_reducible apply keeps_freeze | with_reducible apply keeps_setReg | with_reducible apply keeps_setFld
    | with_reducible apply keeps_raise | with_reducible apply keeps_setEstState | with_reducible apply Keeps.ite | with_reducible apply Keeps.foldl
    | with_reducible apply Keeps.iteFst | with_reducible apply Keeps.iteSnd | with_reducible refine Keeps.ofSnd (by assumption) ?_
    | with_reducible refine Keeps.ofFst (by assumption) ?_ | split | simp only [Keeps.upd]

end Sys2Proof.Machine
end

