-- ==== Sys2Proof/Laws/KeepsNet.lean ====
section
/-! SUPPORT. What the definitions of Machine/Net.lean keep: the queue, the canonical form of the tables, what has left the device, the free
values taken, the OTP (`Keeps`). -/
namespace Sys2Proof.Machine

theorem keeps_setNslot {org s : State} (hz : Keeps org s) (n : Nat) (x : NSlot) : Keeps org (State.setNslot s n x) := by
  unfold State.setNslot
  try dsimp only
  repeat' first
    | with_reducible assumption | intro _ | with_reducible apply Keeps.ite | with_reducible apply Keeps.foldl | split | simp only [Keeps.upd]

theorem keeps_mapInv {org s : State} (hz : Keeps org s) (n : Nat) (f : Invocation → Invocation) : Keeps org (State.mapInv s n f) := by
  unfold State.mapInv
  try dsimp only
  repeat' first
    | with_reducible assumption | intro _ | with_reducible apply keeps_setNslot | with_reducible apply Keeps.ite | with_reducible apply Keeps.foldl
    | with_reducible refine Keeps.ofSnd (by assumption) ?_ | with_reducible refine Keeps.ofFst (by assumption) ?_ | split | simp only [Keeps.upd]

theorem keeps_setUnitState {org s : State} (hz : Keeps org s) (n : Nat) (v : Nat) : Keeps org (State.setUnitState s n v) := by
  unfold State.setUnitState
  try dsimp only
  repeat' first
    | with_reducible assumption | intro _ | with_reducible apply keeps_setFld | with_reducible apply keeps_setReg
    | with_reducible apply keeps_setNetDegradedBit | with_reducible apply keeps_refreshMask | with_reducible apply Keeps.ite
    | with_reducible apply Keeps.foldl | split | simp only [Keeps.upd]

theorem keeps_setPlan {org s : State} (hz : Keeps org s) (n : Nat) (p : List (List Nat)) (d : Decision) : Keeps org (State.setPlan s n p d) := by
  unfold State.setPlan
  try dsimp only
  repeat' first
    | with_reducible assumption | intro _ | with_reducible apply keeps_setNslot | with_reducible apply keeps_noteDecision
    | with_reducible apply Keeps.ite | with_reducible apply Keeps.foldl | split | simp only [Keeps.upd]

theorem keeps_showPlan {org s : State} (hz : Keeps org s) (n : Nat) : Keeps org (State.showPlan s n) := by
  unfold State.showPlan
  try dsimp only
  repeat' first
    | with_reducible assumption | intro _ | with_reducible apply keeps_setReg | with_reducible apply Keeps.ite | with_reducible apply Keeps.foldl
    | split | simp only [Keeps.upd]

theorem keeps_initBuoys {org s : State} (hz : Keeps org s) (base : Nat) (owner : Nat) (layers : Nat) (tab : List (Bool × Nat)) : Keeps org (State.initBuoys s base owner layers tab) := by
  unfold State.initBuoys
  try dsimp only
  repeat' first
    | with_reducible assumption | intro _ | with_reducible apply keeps_setBuoy | with_reducible apply Keeps.ite | with_reducible apply Keeps.foldl
    | with_reducible apply Keeps.iteFst | with_reducible apply Keeps.iteSnd | split | simp only [Keeps.upd]

theorem keeps_useHold {org s : State} (hz : Keeps org s) (key : Nat) (n : Nat) : Keeps org (State.useHold s key n) := by
  unfold State.useHold
  try dsimp only
  repeat' first
    | with_reducible assumption | intro _ | with_reducible apply keeps_hold | with_reducible apply Keeps.ite | with_reducible apply Keeps.foldl
    | with_reducible apply Keeps.iteFst | with_reducible apply Keeps.iteSnd | split | simp only [Keeps.upd]

theorem keeps_placeObj {org s : State} (hz : Keeps org s) (o : Obj) (isle : Nat) (pin : Option Pin) : Keeps org (State.placeObj s o isle pin).2 := by
  unfold State.placeObj
  try dsimp only
  repeat' first
    | with_reducible assumption | intro _ | with_reducible apply keeps_findRoom | with_reducible apply keeps_useHold
    | with_reducible apply keeps_makeRoom | with_reducible apply Keeps.ite | with_reducible apply Keeps.foldl | with_reducible apply Keeps.iteFst
    | with_reducible apply Keeps.iteSnd | with_reducible refine Keeps.ofSnd (by assumption) ?_ | with_reducible refine Keeps.ofFst (by assumption) ?_
    | split | simp only [Keeps.upd]

theorem keeps_allocSeq {org s : State} (hz : Keeps org s) (isle id : Nat) (l : List (Obj × Option Pin)) : Keeps org (s.allocSeq isle id l) := by
  induction l generalizing s id with
  | nil => exact hz
  | cons e r ih =>
    unfold State.allocSeq
    have h := keeps_placeObj hz e.1 isle e.2
    dsimp only
    apply ih
    split
    · exact keeps_allocId h _ _
    · exact h

theorem keeps_newObjs {org s : State} (hz : Keeps org s) (isle : Nat) (os : List (Obj × Option Pin)) : Keeps org (State.newObjs s isle os).2 := by
  unfold State.newObjs
  try dsimp only
  repeat' first
    | with_reducible assumption | intro _ | with_reducible apply keeps_allocSeq | with_reducible apply Keeps.ite | with_reducible apply Keeps.foldl
    | with_reducible apply Keeps.iteFst | with_reducible apply Keeps.iteSnd | split | simp only [Keeps.upd]

theorem keeps_newObj {org s : State} (hz : Keeps org s) (o : Obj) (isle : Nat) (pin : Option Pin) : Keeps org (State.newObj s o isle pin).2 := by
  unfold State.newObj
  try dsimp only
  repeat' first
    | with_reducible assumption | intro _ | with_reducible apply keeps_newObjs | with_reducible apply Keeps.ite | with_reducible apply Keeps.foldl
    | with_reducible apply Keeps.iteFst | with_reducible apply Keeps.iteSnd | split | simp only [Keeps.upd]

theorem keeps_loadWeights {org s : State} (hz : Keeps org s) (n cls isle : Nat) (pins : List (List Byte)) (store : List (List Byte × List Byte)) (k : Nat)
    (l : List Weight) : Keeps org (s.loadWeights n cls isle pins store k l).2 := by
  induction l generalizing s k with
  | nil => exact hz
  | cons w r ih =>
    unfold State.loadWeights
    dsimp only
    apply ih
    repeat' first
      | with_reducible assumption | with_reducible apply keeps_store | with_reducible apply keeps_newObj | with_reducible apply keeps_setObj | split

theorem keeps_loadOutputs {org s : State} (hz : Keeps org s) (n : Nat) (cls : Nat) (isle : Nat) (ios : List IoEnt) : Keeps org (State.loadOutputs s n cls isle ios).2 := by
  unfold State.loadOutputs
  try dsimp only
  repeat' first
    | with_reducible assumption | intro _ | with_reducible apply keeps_newObjs | with_reducible apply Keeps.ite | with_reducible apply Keeps.foldl
    | with_reducible apply Keeps.foldlFst | with_reducible apply Keeps.foldlSnd | with_reducible apply Keeps.iteFst
    | with_reducible apply Keeps.iteSnd | split | simp only [Keeps.upd]

theorem keeps_resetState {org s : State} (hz : Keeps org s) (n : Nat) : Keeps org (State.resetState s n) := by
  unfold State.resetState
  try dsimp only
  repeat' first
    | with_reducible assumption | intro _ | with_reducible apply keeps_zero | with_reducible apply keeps_setNslot | with_reducible apply Keeps.ite
    | with_reducible apply Keeps.foldl | with_reducible refine Keeps.ofSnd (by assumption) ?_ | with_reducible refine Keeps.ofFst (by assumption) ?_
    | split | simp only [Keeps.upd]

theorem keeps_allocMutable {org s : State} (hz : Keeps org s) (n : Nat) (x : NUnit) (isle : Nat) (pins : List (List Byte)) : Keeps org (State.allocMutable s n x isle pins).2 := by
  unfold State.allocMutable
  try dsimp only
  repeat' first
    | with_reducible assumption | intro _ | with_reducible apply keeps_newObjs | with_reducible apply keeps_newObj
    | with_reducible apply keeps_loadOutputs | with_reducible apply Keeps.ite | with_reducible apply Keeps.foldl | with_reducible apply Keeps.iteFst
    | with_reducible apply Keeps.iteSnd | split | simp only [Keeps.upd]

theorem keeps_installUnit {org s : State} (hz : Keeps org s) (n : Nat) (x : NUnit) (bytes : List Byte) (store : List (List Byte × List Byte)) (pl : UnitPlan) (pins : List (List Byte)) (base : Nat) (st : Nat) : Keeps org (State.installUnit s n x bytes store pl pins base st) := by
  unfold State.installUnit
  try dsimp only
  repeat' first
    | with_reducible assumption | intro _ | with_reducible apply keeps_loadWeights | with_reducible apply keeps_store
    | with_reducible apply keeps_newObj | with_reducible apply keeps_allocMutable | with_reducible apply keeps_initBuoys
    | with_reducible apply keeps_setNslot | with_reducible apply keeps_setReg | with_reducible apply keeps_setReg64
    | with_reducible apply keeps_setUnitState | with_reducible apply keeps_setPlan | with_reducible apply Keeps.ite | with_reducible apply Keeps.foldl
    | with_reducible apply Keeps.iteFst | with_reducible apply Keeps.iteSnd | split | simp only [Keeps.upd]

theorem keeps_showAchievable {org s : State} (hz : Keeps org s) (n : Nat) (achievable : Nat) : Keeps org (State.showAchievable s n achievable) := by
  unfold State.showAchievable
  try dsimp only
  repeat' first
    | with_reducible assumption | intro _ | with_reducible apply keeps_setReg | with_reducible apply Keeps.ite | with_reducible apply Keeps.foldl
    | split | simp only [Keeps.upd]

theorem keeps_refuseUnit {org s : State} (hz : Keeps org s) (n : Nat) (code : Nat) (achievable : Nat) (period : Nat) (kind : Nat) (ent : List Byte) : Keeps org (State.refuseUnit s n code achievable period kind ent) := by
  unfold State.refuseUnit
  try dsimp only
  repeat' first
    | with_reducible assumption | intro _ | with_reducible apply keeps_setReg | with_reducible apply keeps_showAchievable
    | with_reducible apply keeps_setUnitState | with_reducible apply keeps_raise | with_reducible apply keeps_noteDecision
    | with_reducible apply Keeps.ite | with_reducible apply Keeps.foldl | split | simp only [Keeps.upd]

theorem keeps_loadUnit {org s : State} (hz : Keeps org s) (ent : List Byte) (store : List (List Byte × List Byte)) (pl : UnitPlan) (pins : List (List Byte)) (decided : Bool) : Keeps org (State.loadUnit s ent store pl pins decided).2 := by
  unfold State.loadUnit
  try dsimp only
  repeat' first
    | with_reducible assumption | intro _ | with_reducible apply keeps_store | with_reducible apply keeps_refuseUnit
    | with_reducible apply keeps_installUnit | with_reducible apply Keeps.ite | with_reducible apply Keeps.foldl | with_reducible apply Keeps.iteFst
    | with_reducible apply Keeps.iteSnd | with_reducible refine Keeps.ofSnd (by assumption) ?_ | with_reducible refine Keeps.ofFst (by assumption) ?_
    | split | simp only [Keeps.upd]

theorem keeps_freeUnit {org s : State} (hz : Keeps org s) (n : Nat) : Keeps org (State.freeUnit s n) := by
  unfold State.freeUnit
  try dsimp only
  repeat' first
    | with_reducible assumption | intro _ | with_reducible apply keeps_setObj | with_reducible apply keeps_freeObj
    | with_reducible apply keeps_setBuoy | with_reducible apply keeps_setNslot | with_reducible apply keeps_setUnitState
    | with_reducible apply Keeps.ite | with_reducible apply Keeps.foldl | with_reducible apply Keeps.iteFst | with_reducible apply Keeps.iteSnd
    | with_reducible refine Keeps.ofSnd (by assumption) ?_ | with_reducible refine Keeps.ofFst (by assumption) ?_ | split | simp only [Keeps.upd]

theorem keeps_assignIslet {org s : State} (hz : Keeps org s) (n : Nat) (x : NUnit) (k : Nat) (rank : Nat) (size : Nat) (i : Nat) (l : Layer) : Keeps org (State.assignIslet s n x k rank size i l) := by
  unfold State.assignIslet
  try dsimp only
  repeat' first
    | with_reducible assumption | intro _ | with_reducible apply keeps_credAdd | with_reducible apply keeps_dropWaiter
    | with_reducible apply keeps_zero | with_reducible apply keeps_tick | with_reducible apply keeps_setIslet | with_reducible apply Keeps.ite
    | with_reducible apply Keeps.foldl | with_reducible apply Keeps.iteFst | with_reducible apply Keeps.iteSnd | split | simp only [Keeps.upd]

theorem keeps_requestWeight {org s : State} (hz : Keeps org s) (n : Nat) (x : NUnit) (k : Nat) (us : Nat) : Keeps org (State.requestWeight s n x k us) := by
  unfold State.requestWeight
  try dsimp only
  repeat' first
    | with_reducible assumption | intro _ | with_reducible apply keeps_setObj | with_reducible apply keeps_startLoad
    | with_reducible apply keeps_requestMove | with_reducible apply Keeps.ite | with_reducible apply Keeps.foldl
    | with_reducible refine Keeps.ofSnd (by assumption) ?_ | with_reducible refine Keeps.ofFst (by assumption) ?_ | split | simp only [Keeps.upd]

theorem keeps_prefetch {org s : State} (hz : Keeps org s) (n : Nat) (k : Nat) : Keeps org (State.prefetch s n k) := by
  unfold State.prefetch
  try dsimp only
  repeat' first
    | with_reducible assumption | intro _ | with_reducible apply keeps_requestWeight | with_reducible apply Keeps.ite
    | with_reducible apply Keeps.foldl | with_reducible refine Keeps.ofSnd (by assumption) ?_ | with_reducible refine Keeps.ofFst (by assumption) ?_
    | split | simp only [Keeps.upd]

theorem keeps_loadedWant {org s : State} (hz : Keeps org s) (id : Nat) : Keeps org (State.loadedWant s id) := by
  unfold State.loadedWant
  try dsimp only
  repeat' first
    | with_reducible assumption | intro _ | with_reducible apply keeps_setObj | with_reducible apply keeps_requestMove
    | with_reducible apply Keeps.ite | with_reducible apply Keeps.foldl | with_reducible refine Keeps.ofSnd (by assumption) ?_
    | with_reducible refine Keeps.ofFst (by assumption) ?_ | split | simp only [Keeps.upd]

theorem keeps_weightSync {org s : State} (hz : Keeps org s) (n : Nat) : Keeps org (State.weightSync s n) := by
  unfold State.weightSync
  try dsimp only
  repeat' first
    | with_reducible assumption | intro _ | with_reducible apply keeps_requestWeight | with_reducible apply keeps_mapInv
    | with_reducible apply keeps_signalBuoy | with_reducible apply Keeps.ite | with_reducible apply Keeps.foldl
    | with_reducible refine Keeps.ofSnd (by assumption) ?_ | with_reducible refine Keeps.ofFst (by assumption) ?_ | split | simp only [Keeps.upd]

theorem keeps_weightSyncAll {org s : State} (hz : Keeps org s) : Keeps org (State.weightSyncAll s) := by
  unfold State.weightSyncAll
  try dsimp only
  repeat' first
    | with_reducible assumption | intro _ | with_reducible apply keeps_weightSync | with_reducible apply Keeps.ite | with_reducible apply Keeps.foldl
    | split | simp only [Keeps.upd]

theorem keeps_startLayer {org s : State} (hz : Keeps org s) (n : Nat) (k : Nat) : Keeps org (State.startLayer s n k) := by
  unfold State.startLayer
  try dsimp only
  repeat' first
    | with_reducible assumption | intro _ | with_reducible apply keeps_mapInv | with_reducible apply keeps_store | with_reducible apply keeps_setBuoy
    | with_reducible apply keeps_assignIslet | with_reducible apply keeps_prefetch | with_reducible apply keeps_weightSync
    | with_reducible apply Keeps.ite | with_reducible apply Keeps.foldl | with_reducible refine Keeps.ofSnd (by assumption) ?_
    | with_reducible refine Keeps.ofFst (by assumption) ?_ | split | simp only [Keeps.upd]

theorem keeps_writeDescs {org s : State} (hz : Keeps org s) (x : NUnit) (seq : Nat) (inputs : List (List Word64)) (aux : List Nat) : Keeps org (State.writeDescs s x seq inputs aux) := by
  unfold State.writeDescs
  try dsimp only
  repeat' first
    | with_reducible assumption | intro _ | with_reducible apply keeps_store | with_reducible apply Keeps.ite | with_reducible apply Keeps.foldl
    | with_reducible refine Keeps.ofSnd (by assumption) ?_ | with_reducible refine Keeps.ofFst (by assumption) ?_ | split | simp only [Keeps.upd]

theorem keeps_startInv {org s : State} (hz : Keeps org s) (n : Nat) (r : Release) : Keeps org (State.startInv s n r) := by
  unfold State.startInv
  try dsimp only
  repeat' first
    | with_reducible assumption | intro _ | with_reducible apply keeps_setNslot | with_reducible apply keeps_incWrap
    | with_reducible apply keeps_newGen | with_reducible apply keeps_writeDescs | with_reducible apply keeps_prefetch
    | with_reducible apply keeps_startLayer | with_reducible apply Keeps.ite | with_reducible apply Keeps.foldl
    | with_reducible refine Keeps.ofSnd (by assumption) ?_ | with_reducible refine Keeps.ofFst (by assumption) ?_ | split | simp only [Keeps.upd]

theorem keeps_release {org s : State} (hz : Keeps org s) (n : Nat) (r : Release) : Keeps org (State.release s n r) := by
  unfold State.release
  try dsimp only
  repeat' first
    | with_reducible assumption | intro _ | with_reducible apply keeps_setNslot | with_reducible apply keeps_startInv | with_reducible apply keeps_inc
    | with_reducible apply Keeps.ite | with_reducible apply Keeps.foldl | split | simp only [Keeps.upd]

theorem keeps_noteWait {org s : State} (hz : Keeps org s) (n : Nat) : Keeps org (State.noteWait s n) := by
  unfold State.noteWait
  try dsimp only
  repeat' first
    | with_reducible assumption | intro _ | with_reducible apply keeps_mapInv | with_reducible apply Keeps.ite | with_reducible apply Keeps.foldl
    | with_reducible refine Keeps.ofSnd (by assumption) ?_ | with_reducible refine Keeps.ofFst (by assumption) ?_ | split | simp only [Keeps.upd]

theorem keeps_settleUnit {org s : State} (hz : Keeps org s) (n : Nat) : Keeps org (State.settleUnit s n) := by
  unfold State.settleUnit
  try dsimp only
  repeat' first
    | with_reducible assumption | intro _ | with_reducible apply keeps_noteWait | with_reducible apply keeps_mapInv
    | with_reducible apply keeps_startLayer | with_reducible apply Keeps.ite | with_reducible apply Keeps.foldl
    | with_reducible refine Keeps.ofSnd (by assumption) ?_ | with_reducible refine Keeps.ofFst (by assumption) ?_ | split | simp only [Keeps.upd]

theorem keeps_settle {org s : State} (hz : Keeps org s) : Keeps org (State.settle s) := by
  unfold State.settle
  try dsimp only
  repeat' first
    | with_reducible assumption | intro _ | with_reducible apply keeps_serveWaiters | with_reducible apply keeps_settleUnit
    | with_reducible apply Keeps.ite | with_reducible apply Keeps.foldl | split | simp only [Keeps.upd]

theorem keeps_putInvRecord {org s : State} (hz : Keeps org s) (x : NUnit) (seq : Nat) (r : List Byte) : Keeps org (State.putInvRecord s x seq r) := by
  unfold State.putInvRecord
  try dsimp only
  repeat' first
    | with_reducible assumption | intro _ | with_reducible apply keeps_store | with_reducible apply Keeps.ite | with_reducible apply Keeps.foldl
    | split | simp only [Keeps.upd]

theorem keeps_markOutputs {org s : State} (hz : Keeps org s) (ids : List Nat) (late : Bool) (err : Bool) : Keeps org (State.markOutputs s ids late err) := by
  unfold State.markOutputs
  try dsimp only
  repeat' first
    | with_reducible assumption | intro _ | with_reducible apply keeps_setObj | with_reducible apply Keeps.ite | with_reducible apply Keeps.foldl
    | with_reducible refine Keeps.ofSnd (by assumption) ?_ | with_reducible refine Keeps.ofFst (by assumption) ?_ | split | simp only [Keeps.upd]

theorem keeps_afterInv {org s : State} (hz : Keeps org s) (n : Nat) : Keeps org (State.afterInv s n) := by
  unfold State.afterInv
  try dsimp only
  repeat' first
    | with_reducible assumption | intro _ | with_reducible apply keeps_setNslot | with_reducible apply keeps_startInv | with_reducible apply Keeps.ite
    | with_reducible apply Keeps.foldl | with_reducible refine Keeps.ofSnd (by assumption) ?_ | with_reducible refine Keeps.ofFst (by assumption) ?_
    | split | simp only [Keeps.upd]

theorem keeps_finishInv {org s : State} (hz : Keeps org s) (n : Nat) (t : Nat) : Keeps org (State.finishInv s n t) := by
  unfold State.finishInv
  try dsimp only
  repeat' first
    | with_reducible assumption | intro _ | with_reducible apply keeps_markOutputs | with_reducible apply keeps_setNslot
    | with_reducible apply keeps_setReg | with_reducible apply keeps_inc | with_reducible apply keeps_raise | with_reducible apply keeps_putInvRecord
    | with_reducible apply Keeps.ite | with_reducible apply Keeps.foldl | with_reducible refine Keeps.ofSnd (by assumption) ?_
    | with_reducible refine Keeps.ofFst (by assumption) ?_ | split | simp only [Keeps.upd]

theorem keeps_unwaitAll {org s : State} (hz : Keeps org s) (i : Nat) : Keeps org (State.unwaitAll s i) := by
  unfold State.unwaitAll
  try dsimp only
  repeat' first
    | with_reducible assumption | intro _ | with_reducible apply keeps_setBuoy | with_reducible apply Keeps.ite | with_reducible apply Keeps.foldl
    | with_reducible apply Keeps.iteFst | with_reducible apply Keeps.iteSnd | split | simp only [Keeps.upd]

theorem keeps_dropIslets {org s : State} (hz : Keeps org s) (is : List Nat) : Keeps org (State.dropIslets s is) := by
  unfold State.dropIslets
  try dsimp only
  repeat' first
    | with_reducible assumption | intro _ | with_reducible apply keeps_setIslet | with_reducible apply keeps_unwaitAll
    | with_reducible apply Keeps.ite | with_reducible apply Keeps.foldl | split | simp only [Keeps.upd]

theorem keeps_failInv {org s : State} (hz : Keeps org s) (n : Nat) (t : Nat) : Keeps org (State.failInv s n t) := by
  unfold State.failInv
  try dsimp only
  repeat' first
    | with_reducible assumption | intro _ | with_reducible apply keeps_dropIslets | with_reducible apply keeps_markOutputs
    | with_reducible apply keeps_setNslot | with_reducible apply keeps_inc | with_reducible apply keeps_raise
    | with_reducible apply keeps_putInvRecord | with_reducible apply keeps_setUnitState | with_reducible apply Keeps.ite
    | with_reducible apply Keeps.foldl | with_reducible refine Keeps.ofSnd (by assumption) ?_ | with_reducible refine Keeps.ofFst (by assumption) ?_
    | split | simp only [Keeps.upd]

theorem keeps_raiseWeights {org s : State} (hz : Keeps org s) (n : Nat) : Keeps org (State.raiseWeights s n) := by
  unfold State.raiseWeights
  try dsimp only
  repeat' first
    | with_reducible assumption | intro _ | with_reducible apply keeps_noteWait | with_reducible apply keeps_setObj
    | with_reducible apply keeps_mapDec | with_reducible apply Keeps.ite | with_reducible apply Keeps.foldl
    | with_reducible refine Keeps.ofSnd (by assumption) ?_ | with_reducible refine Keeps.ofFst (by assumption) ?_ | split | simp only [Keeps.upd]

end Sys2Proof.Machine
end

