-- ==== Sys2Proof/Laws/KeepsFuse.lean ====
section
/-! SUPPORT. What the definitions of Machine/Fuse.lean keep: the queue, the canonical form of the tables, what has left the device, the free
values taken, the OTP (`Keeps`). -/
namespace Sys2Proof.Machine

theorem keeps_delivered {org s : State} (hz : Keeps org s) (b : Nat) : Keeps org (State.delivered s b) := by
  unfold State.delivered
  try dsimp only
  repeat' first
    | with_reducible assumption | intro _ | with_reducible apply keeps_setSource | with_reducible apply keeps_refreshMask
    | with_reducible apply Keeps.ite | with_reducible apply Keeps.foldl | split | simp only [Keeps.upd]

theorem keeps_gate {org s : State} (hz : Keeps org s) (e : Est) (i : Item) : Keeps org (State.gate s e i).2 := by
  unfold State.gate
  try dsimp only
  repeat' first
    | with_reducible assumption | intro _ | with_reducible apply keeps_inc | with_reducible apply keeps_setSource
    | with_reducible apply keeps_refreshMask | with_reducible apply Keeps.ite | with_reducible apply Keeps.foldl | with_reducible apply Keeps.iteFst
    | with_reducible apply Keeps.iteSnd | split | simp only [Keeps.upd]

theorem keeps_noteApplied {org s : State} (hz : Keeps org s) (i : Item) : Keeps org (State.noteApplied s i) := by
  unfold State.noteApplied
  try dsimp only
  repeat' first
    | with_reducible assumption | intro _ | with_reducible apply Keeps.ite | with_reducible apply Keeps.foldl | split | simp only [Keeps.upd]

theorem keeps_run {org : State} (l : List Item) {x : Applied} (hz : Keeps org x.st) : Keeps org (x.run l).st := by
  induction l generalizing x with
  | nil => exact hz
  | cons i r ih =>
    unfold Applied.run
    extract_lets s e g y
    apply ih
    show Keeps org y.st
    have hg := keeps_gate hz e i
    unfold y
    split
    · split
      · exact keeps_noteApplied hg _
      · exact hg
    · exact hz

theorem keeps_propagateTo {org s0 : State} (hz : Keeps org s0) (t : Int) : Keeps org (s0.propagateTo t) := by
  unfold State.propagateTo
  extract_lets s due x s1 e
  have h1 : Keeps org s1 := keeps_run _ (keeps_freeze hz)
  exact Keeps.upd.2 h1

theorem keeps_align {org s : State} (hz : Keeps org s) (pos : List Word64) (yaw : Option Quat) (fixes : List (BitVec 64)) : Keeps org (State.align s pos yaw fixes) := by
  unfold State.align
  try dsimp only
  repeat' first
    | with_reducible assumption | intro _ | with_reducible apply keeps_setEstState | with_reducible apply Keeps.ite | with_reducible apply Keeps.foldl
    | with_reducible refine Keeps.ofSnd (by assumption) ?_ | with_reducible refine Keeps.ofFst (by assumption) ?_ | split | simp only [Keeps.upd]

theorem keeps_tryAlign {org s : State} (hz : Keeps org s) : Keeps org (State.tryAlign s) := by
  unfold State.tryAlign
  try dsimp only
  repeat' first
    | with_reducible assumption | intro _ | with_reducible apply keeps_align | with_reducible apply Keeps.ite | with_reducible apply Keeps.foldl
    | with_reducible refine Keeps.ofSnd (by assumption) ?_ | with_reducible refine Keeps.ofFst (by assumption) ?_ | split | simp only [Keeps.upd]

theorem keeps_takeLate {org s : State} (hz : Keeps org s) (t : Int) : Keeps org (State.takeLate s t).2 := by
  unfold State.takeLate
  try dsimp only
  repeat' first
    | with_reducible assumption | intro _ | with_reducible apply keeps_inc | with_reducible apply keeps_raise | with_reducible apply Keeps.ite
    | with_reducible apply Keeps.foldl | with_reducible apply Keeps.iteFst | with_reducible apply Keeps.iteSnd | split | simp only [Keeps.upd]

theorem keeps_intoWindow {org s : State} (hz : Keeps org s) (i : Item) : Keeps org (State.intoWindow s i) := by
  unfold State.intoWindow
  try dsimp only
  repeat' first
    | with_reducible assumption | intro _ | with_reducible apply keeps_inc | with_reducible apply Keeps.ite | with_reducible apply Keeps.foldl | split
    | simp only [Keeps.upd]

theorem keeps_alignItem {org s : State} (hz : Keeps org s) (i : Item) : Keeps org (State.alignItem s i) := by
  unfold State.alignItem
  try dsimp only
  repeat' first
    | with_reducible assumption | intro _ | with_reducible apply keeps_tryAlign | with_reducible apply Keeps.ite | with_reducible apply Keeps.foldl
    | with_reducible refine Keeps.ofSnd (by assumption) ?_ | with_reducible refine Keeps.ofFst (by assumption) ?_ | split | simp only [Keeps.upd]

theorem keeps_takeItem {org s : State} (hz : Keeps org s) (i : Item) : Keeps org (State.takeItem s i) := by
  unfold State.takeItem
  try dsimp only
  repeat' first
    | with_reducible assumption | intro _ | with_reducible apply keeps_takeLate | with_reducible apply keeps_alignItem
    | with_reducible apply keeps_intoWindow | with_reducible apply Keeps.ite | with_reducible apply Keeps.foldl | with_reducible apply Keeps.iteFst
    | with_reducible apply Keeps.iteSnd | split | simp only [Keeps.upd]

theorem keeps_arrive {org s : State} (hz : Keeps org s) (delivers : Bool) (src : Nat) (kind : Nat) (elems : Nat) (mapped : Bool) (t : Int) (words : List Word64) : Keeps org (State.arrive s delivers src kind elems mapped t words) := by
  unfold State.arrive
  try dsimp only
  repeat' first
    | with_reducible assumption | intro _ | with_reducible apply keeps_delivered | with_reducible apply keeps_freeze
    | with_reducible apply keeps_takeItem | with_reducible apply Keeps.ite | with_reducible apply Keeps.foldl | split | simp only [Keeps.upd]

theorem keeps_bufferSample {org s : State} (hz : Keeps org s) (x : ImuSample) : Keeps org (State.bufferSample s x) := by
  unfold State.bufferSample
  try dsimp only
  repeat' first
    | with_reducible assumption | intro _ | with_reducible apply Keeps.ite | with_reducible apply Keeps.foldl | split | simp only [Keeps.upd]

theorem keeps_noteStill {org s : State} (hz : Keeps org s) (axes : List Nat) (t : Int) : Keeps org (State.noteStill s axes t) := by
  unfold State.noteStill
  try dsimp only
  repeat' first
    | with_reducible assumption | intro _ | with_reducible apply Keeps.ite | with_reducible apply Keeps.foldl | with_reducible apply Keeps.iteFst
    | with_reducible apply Keeps.iteSnd | with_reducible refine Keeps.ofSnd (by assumption) ?_ | with_reducible refine Keeps.ofFst (by assumption) ?_
    | split | simp only [Keeps.upd]

theorem keeps_imuSample {org s0 : State} (hz : Keeps org s0) (x : ImuSample) : Keeps org (State.imuSample s0 x) := by
  unfold State.imuSample
  try dsimp only
  repeat' first
    | with_reducible assumption | intro _ | with_reducible apply keeps_freeze | with_reducible apply keeps_takeLate
    | with_reducible apply keeps_bufferSample | with_reducible apply keeps_propagateTo | with_reducible apply keeps_noteStill
    | with_reducible apply keeps_tryAlign | with_reducible apply Keeps.ite | with_reducible apply Keeps.foldl | with_reducible apply Keeps.iteFst
    | with_reducible apply Keeps.iteSnd | split | simp only [Keeps.upd]

theorem keeps_propagateWithout {org s : State} (hz : Keeps org s) (t : Int) : Keeps org (State.propagateWithout s t) := by
  unfold State.propagateWithout
  try dsimp only
  repeat' first
    | with_reducible assumption | intro _ | with_reducible apply keeps_propagateTo | with_reducible apply keeps_noteStill
    | with_reducible apply Keeps.ite | with_reducible apply Keeps.foldl | split | simp only [Keeps.upd]

theorem keeps_condOut {org s : State} (hz : Keeps org s) (o : CondOut) : Keeps org (State.condOut s o) := by
  unfold State.condOut
  try dsimp only
  repeat' first
    | with_reducible assumption | intro _ | with_reducible apply keeps_noteOut | with_reducible apply keeps_delivered
    | with_reducible apply keeps_imuSample | with_reducible apply keeps_arrive | with_reducible apply keeps_propagateWithout
    | with_reducible apply Keeps.ite | with_reducible apply Keeps.foldl | with_reducible apply Keeps.iteFst | with_reducible apply Keeps.iteSnd
    | split | simp only [Keeps.upd]

theorem keeps_condOuts {org s : State} (hz : Keeps org s) (l : List CondOut) : Keeps org (State.condOuts s l) := by
  unfold State.condOuts
  try dsimp only
  repeat' first
    | with_reducible assumption | intro _ | with_reducible apply keeps_condOut | with_reducible apply Keeps.ite | with_reducible apply Keeps.foldl
    | split | simp only [Keeps.upd]

theorem keeps_vehicleSignals {org s : State} (hz : Keeps org s) (hits : List (List Byte)) (t : Nat) : Keeps org (State.vehicleSignals s hits t) := by
  unfold State.vehicleSignals
  try dsimp only
  repeat' first
    | with_reducible assumption | intro _ | with_reducible apply keeps_delivered | with_reducible apply keeps_noteOut
    | with_reducible apply keeps_arrive | with_reducible apply keeps_propagateWithout | with_reducible apply Keeps.ite
    | with_reducible apply Keeps.foldl | with_reducible refine Keeps.ofSnd (by assumption) ?_ | with_reducible refine Keeps.ofFst (by assumption) ?_
    | split | simp only [Keeps.upd]

theorem keeps_gnssJoin {org s : State} (hz : Keeps org s) (sec : Nat) : Keeps org (State.gnssJoin s sec) := by
  unfold State.gnssJoin
  try dsimp only
  repeat' first
    | with_reducible assumption | intro _ | with_reducible apply keeps_arrive | with_reducible apply Keeps.ite | with_reducible apply Keeps.foldl
    | with_reducible refine Keeps.ofSnd (by assumption) ?_ | with_reducible refine Keeps.ofFst (by assumption) ?_ | split | simp only [Keeps.upd]

theorem keeps_gnssPart {org s : State} (hz : Keeps org s) (sec : Nat) (p : Option (List Word64)) (a : Option (List Word32)) : Keeps org (State.gnssPart s sec p a) := by
  unfold State.gnssPart
  try dsimp only
  repeat' first
    | with_reducible assumption | intro _ | with_reducible apply keeps_gnssJoin | with_reducible apply Keeps.ite | with_reducible apply Keeps.foldl
    | with_reducible apply Keeps.iteFst | with_reducible apply Keeps.iteSnd | with_reducible refine Keeps.ofSnd (by assumption) ?_
    | with_reducible refine Keeps.ofFst (by assumption) ?_ | split | simp only [Keeps.upd]

theorem keeps_gnssItem {org s : State} (hz : Keeps org s) (n : Nmea) : Keeps org (State.gnssItem s n) := by
  unfold State.gnssItem
  try dsimp only
  repeat' first
    | with_reducible assumption | intro _ | with_reducible apply keeps_gnssPart | with_reducible apply keeps_gnssJoin | with_reducible apply Keeps.ite
    | with_reducible apply Keeps.foldl | with_reducible refine Keeps.ofSnd (by assumption) ?_ | with_reducible refine Keeps.ofFst (by assumption) ?_
    | split | simp only [Keeps.upd]

theorem keeps_noteSight {org s : State} (hz : Keeps org s) (r : List Byte) : Keeps org (State.noteSight s r) := by
  unfold State.noteSight
  try dsimp only
  repeat' first
    | with_reducible assumption | intro _ | with_reducible apply Keeps.ite | with_reducible apply Keeps.foldl | with_reducible apply Keeps.iteFst
    | with_reducible apply Keeps.iteSnd | with_reducible refine Keeps.ofSnd (by assumption) ?_ | with_reducible refine Keeps.ofFst (by assumption) ?_
    | split | simp only [Keeps.upd]

theorem keeps_observation {org s : State} (hz : Keeps org s) (r : List Byte) : Keeps org (State.observation s r) := by
  unfold State.observation
  try dsimp only
  repeat' first
    | with_reducible assumption | intro _ | with_reducible apply keeps_inc | with_reducible apply keeps_noteSight | with_reducible apply keeps_arrive
    | with_reducible apply keeps_delivered | with_reducible apply Keeps.ite | with_reducible apply Keeps.foldl | split | simp only [Keeps.upd]

theorem keeps_observationBlock {org s : State} (hz : Keeps org s) (a : Nat) (size : Nat) (late : Bool) (err : Bool) (tRel : Nat) : Keeps org (State.observationBlock s a size late err tRel) := by
  unfold State.observationBlock
  try dsimp only
  repeat' first
    | with_reducible assumption | intro _ | with_reducible apply keeps_inc | with_reducible apply keeps_addTo | with_reducible apply keeps_observation
    | with_reducible apply Keeps.ite | with_reducible apply Keeps.foldl | split | simp only [Keeps.upd]

theorem keeps_passStart {org s : State} (hz : Keeps org s) (t : Nat) : Keeps org (State.passStart s t) := by
  unfold State.passStart
  try dsimp only
  repeat' first
    | with_reducible assumption | intro _ | with_reducible apply Keeps.ite | with_reducible apply Keeps.foldl | split | simp only [Keeps.upd]

theorem keeps_refineCal {org s : State} (hz : Keeps org s) (e : Est) : Keeps org (State.refineCal s e) := by
  unfold State.refineCal
  try dsimp only
  repeat' first
    | with_reducible assumption | intro _ | with_reducible apply keeps_inc | with_reducible apply Keeps.ite | with_reducible apply Keeps.foldl
    | with_reducible refine Keeps.ofSnd (by assumption) ?_ | with_reducible refine Keeps.ofFst (by assumption) ?_ | split | simp only [Keeps.upd]

theorem keeps_gateAll {org : State} (l : List Item) {x : Applied} (hz : Keeps org x.st) : Keeps org (x.gateAll l).1.st := by
  induction l generalizing x with
  | nil => exact hz
  | cons i r ih =>
    unfold Applied.gateAll
    dsimp only
    split
    · exact ih hz
    · split
      · have hg := keeps_gate hz (x.st.estAt i.t) i
        split
        · exact ih (keeps_noteApplied hg _)
        · exact ih hg
      · exact ih hz

theorem keeps_passEnd {org s0 : State} (hz : Keeps org s0) (t : Nat) : Keeps org (s0.passEnd t) := by
  unfold State.passEnd
  have h := keeps_freeze hz
  dsimp only
  split
  · exact h
  · next p _ =>
    refine Keeps.ite (Keeps.upd.2 h) ?_
    exact keeps_refineCal (Keeps.upd.2 (keeps_gateAll p.items (x := { est := p.est, at_ := p.now, st := s0.freeze }) h)) _

theorem keeps_estBoundary {org s : State} (hz : Keeps org s) : Keeps org (State.estBoundary s) := by
  unfold State.estBoundary
  try dsimp only
  repeat' first
    | with_reducible assumption | intro _ | with_reducible apply Keeps.ite | with_reducible apply Keeps.foldl | with_reducible apply Keeps.iteFst
    | with_reducible apply Keeps.iteSnd | split | simp only [Keeps.upd]

theorem keeps_resetEst {org s : State} (hz : Keeps org s) : Keeps org (State.resetEst s) := by
  unfold State.resetEst
  try dsimp only
  repeat' first
    | with_reducible assumption | intro _ | with_reducible apply keeps_setEstState | with_reducible apply Keeps.ite | with_reducible apply Keeps.foldl
    | with_reducible apply Keeps.iteFst | with_reducible apply Keeps.iteSnd | with_reducible refine Keeps.ofSnd (by assumption) ?_
    | with_reducible refine Keeps.ofFst (by assumption) ?_ | split | simp only [Keeps.upd]

end Sys2Proof.Machine
end

