-- ==== Sys2Proof/Laws/KeepsJournal.lean ====
section
/-! SUPPORT. What the definitions of Machine/Journal.lean keep: the queue, the canonical form of the tables, what has left the device, the free
values taken, the OTP (`Keeps`). -/
namespace Sys2Proof.Machine

theorem keeps_ldWrite {org s : State} (hz : Keeps org s) (i : Nat) (b : List Byte) : Keeps org (State.ldWrite s i b) := by
  unfold State.ldWrite
  try dsimp only
  repeat' first
    | with_reducible assumption | intro _ | with_reducible apply keeps_store | with_reducible apply Keeps.ite | with_reducible apply Keeps.foldl
    | split | simp only [Keeps.upd]

theorem keeps_setNpage {org s : State} (hz : Keeps org s) (p : Nat) (v : Option NPage) : Keeps org (State.setNpage s p v) := by
  unfold State.setNpage
  try dsimp only
  repeat' first
    | with_reducible assumption | intro _ | with_reducible apply Keeps.ite | with_reducible apply Keeps.foldl | split | simp only [Keeps.upd]

theorem keeps_setNblock {org s : State} (hz : Keeps org s) (b : Nat) (x : NBlock) : Keeps org (State.setNblock s b x) := by
  unfold State.setNblock
  try dsimp only
  repeat' first
    | with_reducible assumption | intro _ | with_reducible apply Keeps.ite | with_reducible apply Keeps.foldl | split | simp only [Keeps.upd]

theorem keeps_poolRegs {org s : State} (hz : Keeps org s) : Keeps org (State.poolRegs s) := by
  unfold State.poolRegs
  try dsimp only
  repeat' first
    | with_reducible assumption | intro _ | with_reducible apply keeps_setReg | with_reducible apply Keeps.ite | with_reducible apply Keeps.foldl
    | with_reducible apply Keeps.iteFst | with_reducible apply Keeps.iteSnd | split | simp only [Keeps.upd]

theorem keeps_setMapState {org s : State} (hz : Keeps org s) (v : Nat) : Keeps org (State.setMapState s v) := by
  unfold State.setMapState
  try dsimp only
  repeat' first
    | with_reducible assumption | intro _ | with_reducible apply keeps_setFld | with_reducible apply keeps_setLevel
    | with_reducible apply keeps_setCause | with_reducible apply Keeps.ite | with_reducible apply Keeps.foldl | split | simp only [Keeps.upd]

theorem keeps_openBlock {org s : State} (hz : Keeps org s) (g : Geo) (c : Nat) (pay : Bool) : Keeps org (State.openBlock s g c pay).2 := by
  unfold State.openBlock
  try dsimp only
  repeat' first
    | with_reducible assumption | intro _ | with_reducible apply keeps_setNblock | with_reducible apply Keeps.ite | with_reducible apply Keeps.foldl
    | with_reducible apply Keeps.iteFst | with_reducible apply Keeps.iteSnd | with_reducible refine Keeps.ofSnd (by assumption) ?_
    | with_reducible refine Keeps.ofFst (by assumption) ?_ | split | simp only [Keeps.upd]

theorem keeps_lineFrom {org s : State} (hz : Keeps org s) (g : Geo) (pay calm : Bool) (off : List Nat) (n c : Nat) : Keeps org (s.lineFrom g pay calm off n c).2 := by
  induction n generalizing s c with
  | zero => exact hz
  | succ n ih =>
    unfold State.lineFrom
    have h := keeps_openBlock hz g (c % 16) pay
    refine Keeps.iteSnd (ih hz _) ?_
    split
    · next heq =>
      rw [heq] at h
      exact Keeps.iteSnd (ih h _) (keeps_setNblock h _ _)
    · next heq => rw [heq] at h; exact ih h _

theorem keeps_lineOff {org s : State} (hz : Keeps org s) (g : Geo) (pay : Bool) (off : List Nat) (c : Nat) : Keeps org (State.lineOff s g pay off c).2 := by
  unfold State.lineOff
  try dsimp only
  repeat' first
    | with_reducible assumption | intro _ | with_reducible apply keeps_lineFrom | with_reducible apply Keeps.ite | with_reducible apply Keeps.foldl
    | with_reducible apply Keeps.iteFst | with_reducible apply Keeps.iteSnd | with_reducible refine Keeps.ofSnd (by assumption) ?_
    | with_reducible refine Keeps.ofFst (by assumption) ?_ | split | simp only [Keeps.upd]

theorem keeps_takeLine {org s : State} (hz : Keeps org s) (g : Geo) (pay : Bool) (off : List Nat) (c : Nat) : Keeps org (State.takeLine s g pay off c).2 := by
  unfold State.takeLine
  try dsimp only
  repeat' first
    | with_reducible assumption | intro _ | with_reducible apply keeps_lineOff | with_reducible apply Keeps.ite | with_reducible apply Keeps.foldl
    | with_reducible apply Keeps.iteFst | with_reducible apply Keeps.iteSnd | with_reducible refine Keeps.ofSnd (by assumption) ?_
    | with_reducible refine Keeps.ofFst (by assumption) ?_ | split | simp only [Keeps.upd]

theorem keeps_putPage {org s : State} (hz : Keeps org s) (typ : Nat) (group : Nat) (aux : Nat) (data : List Byte) : Keeps org (State.putPage s typ group aux data) := by
  unfold State.putPage
  try dsimp only
  repeat' first
    | with_reducible assumption | intro _ | with_reducible apply keeps_takeLine | with_reducible apply Keeps.ite | with_reducible apply Keeps.foldl
    | with_reducible apply Keeps.iteFst | with_reducible apply Keeps.iteSnd | with_reducible refine Keeps.ofSnd (by assumption) ?_
    | with_reducible refine Keeps.ofFst (by assumption) ?_ | split | simp only [Keeps.upd]

theorem keeps_putParity {org s : State} (hz : Keeps org s) : Keeps org (State.putParity s) := by
  unfold State.putParity
  try dsimp only
  repeat' first
    | with_reducible assumption | intro _ | with_reducible apply keeps_putPage | with_reducible apply Keeps.ite | with_reducible apply Keeps.foldl
    | split | simp only [Keeps.upd]

theorem keeps_putContent {org s : State} (hz : Keeps org s) (typ : Nat) (aux : Nat) (data : List Byte) : Keeps org (State.putContent s typ aux data) := by
  unfold State.putContent
  try dsimp only
  repeat' first
    | with_reducible assumption | intro _ | with_reducible apply keeps_putPage | with_reducible apply keeps_putParity | with_reducible apply Keeps.ite
    | with_reducible apply Keeps.foldl | split | simp only [Keeps.upd]

theorem keeps_noteRefs {org s : State} (hz : Keeps org s) (ids : List Nat) : Keeps org (State.noteRefs s ids) := by
  unfold State.noteRefs
  try dsimp only
  repeat' first
    | with_reducible assumption | intro _ | with_reducible apply keeps_ldWrite | with_reducible apply Keeps.ite | with_reducible apply Keeps.foldl
    | split | simp only [Keeps.upd]

theorem keeps_openCommit {org s : State} (hz : Keeps org s) : Keeps org (State.openCommit s) := by
  unfold State.openCommit
  try dsimp only
  repeat' first
    | with_reducible assumption | intro _ | with_reducible apply Keeps.ite | with_reducible apply Keeps.foldl
    | with_reducible refine Keeps.ofSnd (by assumption) ?_ | with_reducible refine Keeps.ofFst (by assumption) ?_ | split | simp only [Keeps.upd]

theorem keeps_flushBuf {org s : State} (hz : Keeps org s) : Keeps org (State.flushBuf s) := by
  unfold State.flushBuf
  try dsimp only
  repeat' first
    | with_reducible assumption | intro _ | with_reducible apply keeps_putContent | with_reducible apply keeps_noteRefs
    | with_reducible apply Keeps.ite | with_reducible apply Keeps.foldl | split | simp only [Keeps.upd]

theorem keeps_placeCopy {org s : State} (hz : Keeps org s) (g : Geo) (id : Nat) (ch : Nat) : Keeps org (State.placeCopy s g id ch).2 := by
  unfold State.placeCopy
  try dsimp only
  repeat' first
    | with_reducible assumption | intro _ | with_reducible apply keeps_takeLine | with_reducible apply Keeps.ite | with_reducible apply Keeps.foldl
    | with_reducible apply Keeps.iteFst | with_reducible apply Keeps.iteSnd | split | simp only [Keeps.upd]

theorem keeps_issueCopies {org s : State} (hz : Keeps org s) : Keeps org (State.issueCopies s) := by
  unfold State.issueCopies
  try dsimp only
  repeat' first
    | with_reducible assumption | intro _ | with_reducible apply keeps_placeCopy | with_reducible apply Keeps.ite | with_reducible apply Keeps.foldl
    | with_reducible apply Keeps.iteFst | with_reducible apply Keeps.iteSnd | with_reducible refine Keeps.ofSnd (by assumption) ?_
    | with_reducible refine Keeps.ofFst (by assumption) ?_ | split | simp only [Keeps.upd]

theorem keeps_nextFlight {org s : State} (hz : Keeps org s) : Keeps org (State.nextFlight s) := by
  unfold State.nextFlight
  try dsimp only
  repeat' first
    | with_reducible assumption | intro _ | with_reducible apply keeps_issueCopies | with_reducible apply Keeps.ite | with_reducible apply Keeps.foldl
    | with_reducible refine Keeps.ofSnd (by assumption) ?_ | with_reducible refine Keeps.ofFst (by assumption) ?_ | split | simp only [Keeps.upd]

theorem keeps_shutCommit {org s0 : State} (hz : Keeps org s0) (flags : Nat) : Keeps org (State.shutCommit s0 flags) := by
  unfold State.shutCommit
  try dsimp only
  repeat' first
    | with_reducible assumption | intro _ | with_reducible apply keeps_putParity | with_reducible apply keeps_nextFlight
    | with_reducible apply Keeps.ite | with_reducible apply Keeps.foldl | with_reducible refine Keeps.ofSnd (by assumption) ?_
    | with_reducible refine Keeps.ofFst (by assumption) ?_ | split | simp only [Keeps.upd]

theorem keeps_ckptRoom {org s : State} (hz : Keeps org s) (n : Nat) : Keeps org (State.ckptRoom s n) := by
  unfold State.ckptRoom
  try dsimp only
  repeat' first
    | with_reducible assumption | intro _ | with_reducible apply keeps_shutCommit | with_reducible apply keeps_openCommit
    | with_reducible apply Keeps.ite | with_reducible apply Keeps.foldl | with_reducible refine Keeps.ofSnd (by assumption) ?_
    | with_reducible refine Keeps.ofFst (by assumption) ?_ | split | simp only [Keeps.upd]

theorem keeps_putPages {org s : State} (hz : Keeps org s) (typ : Nat) (aux : Nat) (xs0 : List (List Byte)) : Keeps org (State.putPages s typ aux xs0).2 := by
  induction xs0 generalizing s typ aux with
  | nil =>
    unfold State.putPages
    try dsimp only
    repeat' first
      | with_reducible assumption | intro _ | with_reducible apply keeps_ckptRoom | with_reducible apply keeps_putContent
      | with_reducible apply Keeps.ite | with_reducible apply Keeps.foldl | with_reducible apply Keeps.iteFst | with_reducible apply Keeps.iteSnd
      | split | simp only [Keeps.upd]
  | cons e l ih =>
    unfold State.putPages
    try dsimp only
    repeat' first
      | with_reducible assumption | intro _ | with_reducible apply ih | with_reducible apply keeps_ckptRoom | with_reducible apply keeps_putContent
      | with_reducible apply Keeps.ite | with_reducible apply Keeps.foldl | with_reducible apply Keeps.iteFst | with_reducible apply Keeps.iteSnd
      | split | simp only [Keeps.upd]

theorem keeps_putSegment {org s : State} (hz : Keeps org s) (k : Nat) : Keeps org (State.putSegment s k) := by
  unfold State.putSegment
  try dsimp only
  repeat' first
    | with_reducible assumption | intro _ | with_reducible apply keeps_putPages | with_reducible apply keeps_noteRefs
    | with_reducible apply keeps_ckptRoom | with_reducible apply keeps_putContent | with_reducible apply Keeps.ite | with_reducible apply Keeps.foldl
    | with_reducible apply Keeps.iteFst | with_reducible apply Keeps.iteSnd | split | simp only [Keeps.upd]

theorem keeps_putTable {org s : State} (hz : Keeps org s) (k : Nat) : Keeps org (State.putTable s k).2 := by
  unfold State.putTable
  try dsimp only
  repeat' first
    | with_reducible assumption | intro _ | with_reducible apply keeps_ckptRoom | with_reducible apply keeps_putContent
    | with_reducible apply Keeps.ite | with_reducible apply Keeps.foldl | with_reducible apply Keeps.foldlFst | with_reducible apply Keeps.foldlSnd
    | with_reducible apply Keeps.iteFst | with_reducible apply Keeps.iteSnd | with_reducible refine Keeps.ofSnd (by assumption) ?_
    | with_reducible refine Keeps.ofFst (by assumption) ?_ | split | simp only [Keeps.upd]

theorem keeps_putCheckpoint {org s : State} (hz : Keeps org s) : Keeps org (State.putCheckpoint s) := by
  unfold State.putCheckpoint
  try dsimp only
  repeat' first
    | with_reducible assumption | intro _ | with_reducible apply keeps_putSegment | with_reducible apply keeps_putTable
    | with_reducible apply keeps_ckptRoom | with_reducible apply keeps_putPages | with_reducible apply Keeps.ite | with_reducible apply Keeps.foldl
    | with_reducible apply Keeps.foldlFst | with_reducible apply Keeps.foldlSnd | with_reducible apply Keeps.iteFst
    | with_reducible apply Keeps.iteSnd | with_reducible refine Keeps.ofSnd (by assumption) ?_ | with_reducible refine Keeps.ofFst (by assumption) ?_
    | split | simp only [Keeps.upd]

theorem keeps_freePayloads {org s : State} (hz : Keeps org s) : Keeps org (State.freePayloads s) := by
  unfold State.freePayloads
  try dsimp only
  repeat' first
    | with_reducible assumption | intro _ | with_reducible apply keeps_flushBuf | with_reducible apply Keeps.ite | with_reducible apply Keeps.foldl
    | split | simp only [Keeps.upd]

theorem keeps_closeCommit {org s : State} (hz : Keeps org s) (ckpt : Bool) (flags : Nat) : Keeps org (State.closeCommit s ckpt flags) := by
  unfold State.closeCommit
  try dsimp only
  repeat' first
    | with_reducible assumption | intro _ | with_reducible apply keeps_freePayloads | with_reducible apply keeps_flushBuf
    | with_reducible apply keeps_putCheckpoint | with_reducible apply keeps_shutCommit | with_reducible apply Keeps.ite
    | with_reducible apply Keeps.foldl | split | simp only [Keeps.upd]

theorem keeps_closeOpen {org s : State} (hz : Keeps org s) : Keeps org (State.closeOpen s) := by
  unfold State.closeOpen
  try dsimp only
  repeat' first
    | with_reducible assumption | intro _ | with_reducible apply keeps_closeCommit | with_reducible apply Keeps.ite | with_reducible apply Keeps.foldl
    | with_reducible refine Keeps.ofSnd (by assumption) ?_ | with_reducible refine Keeps.ofFst (by assumption) ?_ | split | simp only [Keeps.upd]

theorem keeps_acceptRec {org s : State} (hz : Keeps org s) (r : MapRec) : Keeps org (State.acceptRec s r) := by
  unfold State.acceptRec
  try dsimp only
  repeat' first
    | with_reducible assumption | intro _ | with_reducible apply keeps_openCommit | with_reducible apply keeps_flushBuf
    | with_reducible apply keeps_setFld | with_reducible apply keeps_closeOpen | with_reducible apply Keeps.ite | with_reducible apply Keeps.foldl
    | with_reducible refine Keeps.ofSnd (by assumption) ?_ | with_reducible refine Keeps.ofFst (by assumption) ?_ | split | simp only [Keeps.upd]

theorem keeps_acceptPage {org s : State} (hz : Keeps org s) (typ : Nat) (aux : Nat) (data : List Byte) : Keeps org (State.acceptPage s typ aux data).2 := by
  unfold State.acceptPage
  try dsimp only
  repeat' first
    | with_reducible assumption | intro _ | with_reducible apply keeps_openCommit | with_reducible apply keeps_putContent
    | with_reducible apply keeps_closeOpen | with_reducible apply Keeps.ite | with_reducible apply Keeps.foldl | with_reducible apply Keeps.iteFst
    | with_reducible apply Keeps.iteSnd | with_reducible refine Keeps.ofSnd (by assumption) ?_ | with_reducible refine Keeps.ofFst (by assumption) ?_
    | split | simp only [Keeps.upd]

theorem keeps_acceptMark {org s : State} (hz : Keeps org s) (r : MapRec) : Keeps org (State.acceptMark s r) := by
  unfold State.acceptMark
  try dsimp only
  repeat' first
    | with_reducible assumption | intro _ | with_reducible apply keeps_acceptRec | with_reducible apply keeps_acceptPage
    | with_reducible apply Keeps.ite | with_reducible apply Keeps.foldl | with_reducible apply Keeps.iteFst | with_reducible apply Keeps.iteSnd
    | split | simp only [Keeps.upd]

theorem keeps_submitRec {org s : State} (hz : Keeps org s) (r : MapRec) : Keeps org (State.submitRec s r) := by
  unfold State.submitRec
  try dsimp only
  repeat' first
    | with_reducible assumption | intro _ | with_reducible apply keeps_inc | with_reducible apply keeps_acceptRec | with_reducible apply Keeps.ite
    | with_reducible apply Keeps.foldl | split | simp only [Keeps.upd]

theorem keeps_submitRecs {org s : State} (hz : Keeps org s) (l : List MapRec) : Keeps org (State.submitRecs s l) := by
  unfold State.submitRecs
  try dsimp only
  repeat' first
    | with_reducible assumption | intro _ | with_reducible apply keeps_submitRec | with_reducible apply Keeps.ite | with_reducible apply Keeps.foldl
    | split | simp only [Keeps.upd]

theorem keeps_budgetRegs {org s : State} (hz : Keeps org s) : Keeps org (State.budgetRegs s) := by
  unfold State.budgetRegs
  try dsimp only
  repeat' first
    | with_reducible assumption | intro _ | with_reducible apply keeps_setReg | with_reducible apply keeps_setFld | with_reducible apply keeps_raise
    | with_reducible apply keeps_acceptMark | with_reducible apply Keeps.ite | with_reducible apply Keeps.foldl | split | simp only [Keeps.upd]

theorem keeps_seal {org s : State} (hz : Keeps org s) : Keeps org (State.seal s).2 := by
  unfold State.seal
  try dsimp only
  repeat' first
    | with_reducible assumption | intro _ | with_reducible apply keeps_acceptMark | with_reducible apply keeps_openCommit
    | with_reducible apply keeps_closeCommit | with_reducible apply Keeps.ite | with_reducible apply Keeps.foldl | with_reducible apply Keeps.iteFst
    | with_reducible apply Keeps.iteSnd | split | simp only [Keeps.upd]

theorem keeps_headRegs {org s : State} (hz : Keeps org s) (head : List Byte) : Keeps org (State.headRegs s head) := by
  unfold State.headRegs
  try dsimp only
  repeat' first
    | with_reducible assumption | intro _ | with_reducible apply keeps_setReg | with_reducible apply Keeps.ite | with_reducible apply Keeps.foldl
    | split | simp only [Keeps.upd]

theorem keeps_commitDurable {org s : State} (hz : Keeps org s) (c : Commit) : Keeps org (State.commitDurable s c) := by
  unfold State.commitDurable
  try dsimp only
  repeat' first
    | with_reducible assumption | intro _ | with_reducible apply keeps_setReg64 | with_reducible apply keeps_headRegs | with_reducible apply keeps_inc
    | with_reducible apply keeps_setReg | with_reducible apply keeps_setFld | with_reducible apply keeps_raise | with_reducible apply keeps_nextFlight
    | with_reducible apply Keeps.ite | with_reducible apply Keeps.foldl | with_reducible refine Keeps.ofSnd (by assumption) ?_
    | with_reducible refine Keeps.ofFst (by assumption) ?_ | split | simp only [Keeps.upd]

theorem keeps_readBack {org s : State} (hz : Keeps org s) (r0 : Option Nat) (r1 : Option Nat) : Keeps org (State.readBack s r0 r1).2 := by
  unfold State.readBack
  try dsimp only
  repeat' first
    | with_reducible assumption | intro _ | with_reducible apply keeps_commitDurable | with_reducible apply keeps_placeCopy
    | with_reducible apply keeps_inc | with_reducible apply Keeps.ite | with_reducible apply Keeps.foldl | with_reducible apply Keeps.foldlFst
    | with_reducible apply Keeps.foldlSnd | with_reducible apply Keeps.iteFst | with_reducible apply Keeps.iteSnd
    | with_reducible refine Keeps.ofSnd (by assumption) ?_ | with_reducible refine Keeps.ofFst (by assumption) ?_ | split | simp only [Keeps.upd]

theorem keeps_dropCheckpoint {org s : State} (hz : Keeps org s) (c : Commit) : Keeps org (State.dropCheckpoint s c).1 := by
  unfold State.dropCheckpoint
  try dsimp only
  repeat' first
    | with_reducible assumption | intro _ | with_reducible apply Keeps.ite | with_reducible apply Keeps.foldl | with_reducible apply Keeps.iteFst
    | with_reducible apply Keeps.iteSnd | split | simp only [Keeps.upd]

theorem keeps_mapPfail {org s : State} (hz : Keeps org s) : Keeps org (State.mapPfail s) := by
  unfold State.mapPfail
  try dsimp only
  repeat' first
    | with_reducible assumption | intro _ | with_reducible apply keeps_inc | with_reducible apply keeps_setFld | with_reducible apply keeps_raise
    | with_reducible apply keeps_addTo | with_reducible apply keeps_noteRefs | with_reducible apply keeps_dropCheckpoint
    | with_reducible apply keeps_issueCopies | with_reducible apply keeps_closeCommit | with_reducible apply Keeps.ite
    | with_reducible apply Keeps.foldl | with_reducible apply Keeps.iteFst | with_reducible apply Keeps.iteSnd
    | with_reducible refine Keeps.ofSnd (by assumption) ?_ | with_reducible refine Keeps.ofFst (by assumption) ?_ | split | simp only [Keeps.upd]

theorem keeps_mapPfailRelease {org s : State} (hz : Keeps org s) (t : Nat) : Keeps org (State.mapPfailRelease s t) := by
  unfold State.mapPfailRelease
  try dsimp only
  repeat' first
    | with_reducible assumption | intro _ | with_reducible apply Keeps.ite | with_reducible apply Keeps.foldl | split | simp only [Keeps.upd]

theorem keeps_mapHoldEnd {org s : State} (hz : Keeps org s) : Keeps org (State.mapHoldEnd s) := by
  unfold State.mapHoldEnd
  try dsimp only
  repeat' first
    | with_reducible assumption | intro _ | with_reducible apply keeps_openCommit | with_reducible apply keeps_closeCommit
    | with_reducible apply keeps_nextFlight | with_reducible apply keeps_issueCopies | with_reducible apply Keeps.ite
    | with_reducible apply Keeps.foldl | split | simp only [Keeps.upd]

end Sys2Proof.Machine
end

