-- ==== Sys2Proof/Laws/KeepsPose.lean ====
section
/-! SUPPORT. What the definitions of Machine/Pose.lean keep: the queue, the canonical form of the tables, what has left the device, the free
values taken, the OTP (`Keeps`). -/
namespace Sys2Proof.Machine

theorem keeps_applyCorrection {org s : State} (hz : Keeps org s) (c : Correction) : Keeps org (State.applyCorrection s c) := by
  unfold State.applyCorrection
  try dsimp only
  repeat' first
    | with_reducible assumption | intro _ | with_reducible apply keeps_setReg | with_reducible apply Keeps.ite | with_reducible apply Keeps.foldl
    | with_reducible apply Keeps.iteFst | with_reducible apply Keeps.iteSnd | with_reducible refine Keeps.ofSnd (by assumption) ?_
    | with_reducible refine Keeps.ofFst (by assumption) ?_ | split | simp only [Keeps.upd]

theorem keeps_atWaitEnd {org s : State} (hz : Keeps org s) : Keeps org (State.atWaitEnd s) := by
  unfold State.atWaitEnd
  try dsimp only
  repeat' first
    | with_reducible assumption | intro _ | with_reducible apply Keeps.ite | with_reducible apply Keeps.foldl
    | with_reducible refine Keeps.ofSnd (by assumption) ?_ | with_reducible refine Keeps.ofFst (by assumption) ?_ | split | simp only [Keeps.upd]

theorem keeps_sealPose {org s : State} (hz : Keeps org s) (t : Nat) : Keeps org (State.sealPose s t).2 := by
  unfold State.sealPose
  try dsimp only
  repeat' first
    | with_reducible assumption | intro _ | with_reducible apply keeps_applyCorrection | with_reducible apply keeps_atWaitEnd
    | with_reducible apply keeps_ringWrite | with_reducible apply keeps_incWrap | with_reducible apply keeps_setReg | with_reducible apply keeps_inc
    | with_reducible apply keeps_raise | with_reducible apply Keeps.ite | with_reducible apply Keeps.foldl | with_reducible apply Keeps.iteFst
    | with_reducible apply Keeps.iteSnd | with_reducible refine Keeps.ofSnd (by assumption) ?_ | with_reducible refine Keeps.ofFst (by assumption) ?_
    | split | simp only [Keeps.upd]

theorem keeps_writeSnapshot {org s : State} (hz : Keeps org s) (t : Int) : Keeps org (State.writeSnapshot s t) := by
  unfold State.writeSnapshot
  try dsimp only
  repeat' first
    | with_reducible assumption | intro _ | with_reducible apply keeps_tick | with_reducible apply keeps_store | with_reducible apply Keeps.ite
    | with_reducible apply Keeps.foldl | with_reducible apply Keeps.iteFst | with_reducible apply Keeps.iteSnd
    | with_reducible refine Keeps.ofSnd (by assumption) ?_ | with_reducible refine Keeps.ofFst (by assumption) ?_ | split | simp only [Keeps.upd]

end Sys2Proof.Machine
end

