-- ==== Sys2Proof/Laws/KeepsBind.lean ====
section
/-! SUPPORT. What the definitions of Machine/Bind.lean keep: the queue, the canonical form of the tables, what has left the device, the free
values taken, the OTP (`Keeps`). -/
namespace Sys2Proof.Machine

theorem keeps_trigger {org s : State} (hz : Keeps org s) (n : Nat) (t : Nat) (mask : Nat) (partialIn : Bool) (frames : List CamFrame) (ev : Event) : Keeps org (State.trigger s n t mask partialIn frames ev) := by
  unfold State.trigger
  try dsimp only
  repeat' first
    | with_reducible assumption | intro _ | with_reducible apply keeps_setNslot | with_reducible apply Keeps.ite | with_reducible apply Keeps.foldl
    | with_reducible apply Keeps.iteFst | with_reducible apply Keeps.iteSnd | with_reducible refine Keeps.ofSnd (by assumption) ?_
    | with_reducible refine Keeps.ofFst (by assumption) ?_ | split | simp only [Keeps.upd]

theorem keeps_event {org s : State} (hz : Keeps org s) (t : Nat) (ev : Event) : Keeps org (State.event s t ev) := by
  unfold State.event
  try dsimp only
  repeat' first
    | with_reducible assumption | intro _ | with_reducible apply keeps_trigger | with_reducible apply Keeps.ite | with_reducible apply Keeps.foldl
    | with_reducible refine Keeps.ofSnd (by assumption) ?_ | with_reducible refine Keeps.ofFst (by assumption) ?_ | split | simp only [Keeps.upd]

theorem keeps_epochTriggers {org s : State} (hz : Keeps org s) (e : Nat) (t : Nat) : Keeps org (State.epochTriggers s e t) := by
  unfold State.epochTriggers
  try dsimp only
  repeat' first
    | with_reducible assumption | intro _ | with_reducible apply keeps_trigger | with_reducible apply Keeps.ite | with_reducible apply Keeps.foldl
    | with_reducible refine Keeps.ofSnd (by assumption) ?_ | with_reducible refine Keeps.ofFst (by assumption) ?_ | split | simp only [Keeps.upd]

theorem keeps_placeEvents {org s : State} (hz : Keeps org s) (t : Nat) : Keeps org (State.placeEvents s t) := by
  unfold State.placeEvents
  try dsimp only
  repeat' first
    | with_reducible assumption | intro _ | with_reducible apply keeps_event | with_reducible apply Keeps.ite | with_reducible apply Keeps.foldl
    | split | simp only [Keeps.upd]

theorem keeps_releaseSet {org s : State} (hz : Keeps org s) (n : Nat) (t : Nat) (c : CamSet) (partialIn : Bool) : Keeps org (State.releaseSet s n t c partialIn) := by
  unfold State.releaseSet
  try dsimp only
  repeat' first
    | with_reducible assumption | intro _ | with_reducible apply keeps_setNslot | with_reducible apply keeps_snap
    | with_reducible apply keeps_writeSnapshot | with_reducible apply keeps_trigger | with_reducible apply Keeps.ite
    | with_reducible apply Keeps.foldl | with_reducible refine Keeps.ofSnd (by assumption) ?_ | with_reducible refine Keeps.ofFst (by assumption) ?_
    | split | simp only [Keeps.upd]

theorem keeps_deliverTo {org s : State} (hz : Keeps org s) (n : Nat) (p : Nat) (d : DoneFrame) (t : Nat) : Keeps org (State.deliverTo s n p d t) := by
  unfold State.deliverTo
  try dsimp only
  repeat' first
    | with_reducible assumption | intro _ | with_reducible apply keeps_setNslot | with_reducible apply keeps_releaseSet
    | with_reducible apply Keeps.ite | with_reducible apply Keeps.foldl | with_reducible refine Keeps.ofSnd (by assumption) ?_
    | with_reducible refine Keeps.ofFst (by assumption) ?_ | split | simp only [Keeps.upd]

theorem keeps_deliverFrame {org s : State} (hz : Keeps org s) (p : Nat) (stage : Nat) (d : DoneFrame) (t : Nat) : Keeps org (State.deliverFrame s p stage d t) := by
  unfold State.deliverFrame
  try dsimp only
  repeat' first
    | with_reducible assumption | intro _ | with_reducible apply keeps_deliverTo | with_reducible apply Keeps.ite | with_reducible apply Keeps.foldl
    | split | simp only [Keeps.upd]

theorem keeps_partialTimeout {org s : State} (hz : Keeps org s) (n : Nat) (t : Nat) : Keeps org (State.partialTimeout s n t) := by
  unfold State.partialTimeout
  try dsimp only
  repeat' first
    | with_reducible assumption | intro _ | with_reducible apply keeps_setNslot | with_reducible apply keeps_releaseSet
    | with_reducible apply Keeps.ite | with_reducible apply Keeps.foldl | with_reducible refine Keeps.ofSnd (by assumption) ?_
    | with_reducible refine Keeps.ofFst (by assumption) ?_ | split | simp only [Keeps.upd]

theorem keeps_takeRelease {org s : State} (hz : Keeps org s) (n : Nat) : Keeps org (State.takeRelease s n) := by
  unfold State.takeRelease
  try dsimp only
  repeat' first
    | with_reducible assumption | intro _ | with_reducible apply keeps_setNslot | with_reducible apply keeps_release | with_reducible apply Keeps.ite
    | with_reducible apply Keeps.foldl | with_reducible refine Keeps.ofSnd (by assumption) ?_ | with_reducible refine Keeps.ofFst (by assumption) ?_
    | split | simp only [Keeps.upd]

end Sys2Proof.Machine
end

