-- ==== Sys2Proof/Laws/KeepsChainPort.lean ====
section
/-! SUPPORT. What the definitions of Machine/ChainPort.lean keep: the queue, the canonical form of the tables, what has left the device, the free
values taken, the OTP (`Keeps`). -/
namespace Sys2Proof.Machine

theorem keeps_linkWidth {org s : State} (hz : Keeps org s) : Keeps org (State.linkWidth s) := by
  unfold State.linkWidth
  try dsimp only
  repeat' first
    | with_reducible assumption | intro _ | with_reducible apply keeps_setCause | with_reducible apply Keeps.ite | with_reducible apply Keeps.foldl
    | split | simp only [Keeps.upd]

theorem keeps_setPort {org s : State} (hz : Keeps org s) (p : Nat) (st : Nat) (lanes : Nat) : Keeps org (State.setPort s p st lanes) := by
  unfold State.setPort
  try dsimp only
  repeat' first
    | with_reducible assumption | intro _ | with_reducible apply keeps_setReg | with_reducible apply keeps_linkWidth
    | with_reducible apply keeps_raise | with_reducible apply Keeps.ite | with_reducible apply Keeps.foldl | split | simp only [Keeps.upd]

theorem keeps_retrain {org s : State} (hz : Keeps org s) (p : Nat) : Keeps org (State.retrain s p) := by
  unfold State.retrain
  try dsimp only
  repeat' first
    | with_reducible assumption | intro _ | with_reducible apply keeps_setPort | with_reducible apply keeps_inc | with_reducible apply Keeps.ite
    | with_reducible apply Keeps.foldl | split | simp only [Keeps.upd]

theorem keeps_resend {org s : State} (hz : Keeps org s) (p : Nat) : Keeps org (State.resend s p) := by
  unfold State.resend
  try dsimp only
  repeat' first
    | with_reducible assumption | intro _ | with_reducible apply keeps_emit | with_reducible apply Keeps.ite | with_reducible apply Keeps.foldl
    | split | simp only [Keeps.upd]

theorem keeps_nak {org s : State} (hz : Keeps org s) (p : Nat) (ack : Nat) : Keeps org (State.nak s p ack) := by
  unfold State.nak
  try dsimp only
  repeat' first
    | with_reducible assumption | intro _ | with_reducible apply keeps_setCport | with_reducible apply keeps_inc | with_reducible apply keeps_retrain
    | with_reducible apply keeps_resend | with_reducible apply Keeps.ite | with_reducible apply Keeps.foldl | with_reducible apply Keeps.iteFst
    | with_reducible apply Keeps.iteSnd | split | simp only [Keeps.upd]

theorem keeps_addCredits {org s : State} (hz : Keeps org s) (p : Nat) (n : List Nat) : Keeps org (State.addCredits s p n) := by
  unfold State.addCredits
  try dsimp only
  repeat' first
    | with_reducible assumption | intro _ | with_reducible apply keeps_setCport | with_reducible apply keeps_drain | with_reducible apply Keeps.ite
    | with_reducible apply Keeps.foldl | split | simp only [Keeps.upd]

theorem keeps_returnCredits {org s : State} (hz : Keeps org s) (p : Nat) : Keeps org (State.returnCredits s p) := by
  unfold State.returnCredits
  try dsimp only
  repeat' first
    | with_reducible assumption | intro _ | with_reducible apply keeps_freed | with_reducible apply keeps_setCport
    | with_reducible apply keeps_sendCtl | with_reducible apply Keeps.ite | with_reducible apply Keeps.foldl | split | simp only [Keeps.upd]

theorem keeps_takeData {org s : State} (hz : Keeps org s) (p : Nat) (vc : Nat) (last : Bool) (data : List Byte) : Keeps org (State.takeData s p vc last data) := by
  unfold State.takeData
  try dsimp only
  repeat' first
    | with_reducible assumption | intro _ | with_reducible apply keeps_freed | with_reducible apply keeps_setCport
    | with_reducible apply keeps_sendCtl | with_reducible apply keeps_returnCredits | with_reducible apply Keeps.ite
    | with_reducible apply Keeps.foldl | split | simp only [Keeps.upd]

theorem keeps_frameRx {org s : State} (hz : Keeps org s) (p : Nat) (b : List Byte) : Keeps org (State.frameRx s p b) := by
  unfold State.frameRx
  try dsimp only
  repeat' first
    | with_reducible assumption | intro _ | with_reducible apply keeps_inc | with_reducible apply keeps_sendCtl | with_reducible apply keeps_setCport
    | with_reducible apply keeps_takeData | with_reducible apply keeps_nak | with_reducible apply keeps_addCredits | with_reducible apply Keeps.ite
    | with_reducible apply Keeps.foldl | split | simp only [Keeps.upd]

theorem keeps_lockLost {org s : State} (hz : Keeps org s) (p : Nat) : Keeps org (State.lockLost s p) := by
  unfold State.lockLost
  try dsimp only
  repeat' first
    | with_reducible assumption | intro _ | with_reducible apply keeps_retrain | with_reducible apply Keeps.ite | with_reducible apply Keeps.foldl
    | split | simp only [Keeps.upd]

theorem keeps_failPort {org s : State} (hz : Keeps org s) (p : Nat) : Keeps org (State.failPort s p) := by
  unfold State.failPort
  try dsimp only
  repeat' first
    | with_reducible assumption | intro _ | with_reducible apply keeps_setCport | with_reducible apply keeps_setPort | with_reducible apply Keeps.ite
    | with_reducible apply Keeps.foldl | split | simp only [Keeps.upd]

theorem keeps_trainEnd {org s : State} (hz : Keeps org s) (p : Nat) (lanes : Nat) : Keeps org (State.trainEnd s p lanes) := by
  unfold State.trainEnd
  try dsimp only
  repeat' first
    | with_reducible assumption | intro _ | with_reducible apply keeps_setCport | with_reducible apply keeps_failPort
    | with_reducible apply keeps_retrain | with_reducible apply keeps_resend | with_reducible apply keeps_setPort | with_reducible apply keeps_drain
    | with_reducible apply Keeps.ite | with_reducible apply Keeps.foldl | split | simp only [Keeps.upd]

theorem keeps_retryPort {org s : State} (hz : Keeps org s) (p : Nat) : Keeps org (State.retryPort s p) := by
  unfold State.retryPort
  try dsimp only
  repeat' first
    | with_reducible assumption | intro _ | with_reducible apply keeps_setPort | with_reducible apply Keeps.ite | with_reducible apply Keeps.foldl
    | split | simp only [Keeps.upd]

theorem keeps_enterLoad {org s : State} (hz : Keeps org s) : Keeps org (State.enterLoad s) := by
  unfold State.enterLoad
  try dsimp only
  repeat' first
    | with_reducible assumption | intro _ | with_reducible apply keeps_setFld | with_reducible apply keeps_enter | with_reducible apply Keeps.ite
    | with_reducible apply Keeps.foldl | with_reducible refine Keeps.ofSnd (by assumption) ?_ | with_reducible refine Keeps.ofFst (by assumption) ?_
    | split | simp only [Keeps.upd]

theorem keeps_leaveEnum {org s : State} (hz : Keeps org s) (count : Nat) (st : Nat) : Keeps org (State.leaveEnum s count st) := by
  unfold State.leaveEnum
  try dsimp only
  repeat' first
    | with_reducible assumption | intro _ | with_reducible apply keeps_setFld | with_reducible apply keeps_raise
    | with_reducible apply keeps_enterLoad | with_reducible apply Keeps.ite | with_reducible apply Keeps.foldl
    | with_reducible refine Keeps.ofSnd (by assumption) ?_ | with_reducible refine Keeps.ofFst (by assumption) ?_ | split | simp only [Keeps.upd]

theorem keeps_stage {org s : State} (hz : Keeps org s) (x : EnumStage) (t : Nat) : Keeps org (State.stage s x t) := by
  unfold State.stage
  try dsimp only
  repeat' first
    | with_reducible assumption | intro _ | with_reducible apply Keeps.ite | with_reducible apply Keeps.foldl | split | simp only [Keeps.upd]

theorem keeps_sendReady {org s : State} (hz : Keeps org s) (t : Nat) : Keeps org (State.sendReady s t) := by
  unfold State.sendReady
  try dsimp only
  repeat' first
    | with_reducible assumption | intro _ | with_reducible apply keeps_sendCtrl | with_reducible apply Keeps.ite | with_reducible apply Keeps.foldl
    | split | simp only [Keeps.upd]

theorem keeps_enumStart {org s : State} (hz : Keeps org s) (t : Nat) : Keeps org (State.enumStart s t) := by
  unfold State.enumStart
  try dsimp only
  repeat' first
    | with_reducible assumption | intro _ | with_reducible apply keeps_setFld | with_reducible apply keeps_stage
    | with_reducible apply keeps_leaveEnum | with_reducible apply keeps_sendReady | with_reducible apply Keeps.ite | with_reducible apply Keeps.foldl
    | split | simp only [Keeps.upd]

theorem keeps_sendEnum {org s : State} (hz : Keeps org s) (t : Nat) : Keeps org (State.sendEnum s t) := by
  unfold State.sendEnum
  try dsimp only
  repeat' first
    | with_reducible assumption | intro _ | with_reducible apply keeps_sendCtrl | with_reducible apply keeps_stage | with_reducible apply Keeps.ite
    | with_reducible apply Keeps.foldl | split | simp only [Keeps.upd]

theorem keeps_closeChain {org s : State} (hz : Keeps org s) (t : Nat) : Keeps org (State.closeChain s t) := by
  unfold State.closeChain
  try dsimp only
  repeat' first
    | with_reducible assumption | intro _ | with_reducible apply keeps_sendCtrl | with_reducible apply keeps_leaveEnum
    | with_reducible apply keeps_stage | with_reducible apply Keeps.ite | with_reducible apply Keeps.foldl | split | simp only [Keeps.upd]

theorem keeps_onReady {org s : State} (hz : Keeps org s) (p : Nat) (t : Nat) : Keeps org (State.onReady s p t) := by
  unfold State.onReady
  try dsimp only
  repeat' first
    | with_reducible assumption | intro _ | with_reducible apply keeps_stage | with_reducible apply keeps_sendEnum | with_reducible apply Keeps.ite
    | with_reducible apply Keeps.foldl | split | simp only [Keeps.upd]

theorem keeps_readyAgain {org s : State} (hz : Keeps org s) (t : Nat) : Keeps org (State.readyAgain s t) := by
  unfold State.readyAgain
  try dsimp only
  repeat' first
    | with_reducible assumption | intro _ | with_reducible apply keeps_stage | with_reducible apply keeps_sendReady | with_reducible apply Keeps.ite
    | with_reducible apply Keeps.foldl | split | simp only [Keeps.upd]

theorem keeps_onEnum {org s : State} (hz : Keeps org s) (p : Nat) (v : Nat) (t : Nat) : Keeps org (State.onEnum s p v t) := by
  unfold State.onEnum
  try dsimp only
  repeat' first
    | with_reducible assumption | intro _ | with_reducible apply keeps_stage | with_reducible apply keeps_setFld | with_reducible apply keeps_sendEnum
    | with_reducible apply keeps_closeChain | with_reducible apply keeps_inc | with_reducible apply Keeps.ite | with_reducible apply Keeps.foldl
    | split | simp only [Keeps.upd]

theorem keeps_onEnumEnd {org s : State} (hz : Keeps org s) (p : Nat) (v : Nat) (t : Nat) : Keeps org (State.onEnumEnd s p v t) := by
  unfold State.onEnumEnd
  try dsimp only
  repeat' first
    | with_reducible assumption | intro _ | with_reducible apply keeps_stage | with_reducible apply keeps_sendCtrl
    | with_reducible apply keeps_leaveEnum | with_reducible apply Keeps.ite | with_reducible apply Keeps.foldl | split | simp only [Keeps.upd]

theorem keeps_onEnumCommit {org s : State} (hz : Keeps org s) (p : Nat) (v : Nat) : Keeps org (State.onEnumCommit s p v) := by
  unfold State.onEnumCommit
  try dsimp only
  repeat' first
    | with_reducible assumption | intro _ | with_reducible apply keeps_stage | with_reducible apply keeps_sendCtrl
    | with_reducible apply keeps_leaveEnum | with_reducible apply Keeps.ite | with_reducible apply Keeps.foldl | split | simp only [Keeps.upd]

theorem keeps_enumTimeout {org s : State} (hz : Keeps org s) (t : Nat) : Keeps org (State.enumTimeout s t) := by
  unfold State.enumTimeout
  try dsimp only
  repeat' first
    | with_reducible assumption | intro _ | with_reducible apply keeps_stage | with_reducible apply keeps_leaveEnum
    | with_reducible apply keeps_closeChain | with_reducible apply keeps_setFld | with_reducible apply keeps_enumStart
    | with_reducible apply Keeps.ite | with_reducible apply Keeps.foldl | with_reducible refine Keeps.ofSnd (by assumption) ?_
    | with_reducible refine Keeps.ofFst (by assumption) ?_ | split | simp only [Keeps.upd]

theorem keeps_enumEndTimeout {org s : State} (hz : Keeps org s) (t : Nat) : Keeps org (State.enumEndTimeout s t) := by
  unfold State.enumEndTimeout
  try dsimp only
  repeat' first
    | with_reducible assumption | intro _ | with_reducible apply keeps_stage | with_reducible apply keeps_closeChain | with_reducible apply Keeps.ite
    | with_reducible apply Keeps.foldl | split | simp only [Keeps.upd]

theorem keeps_onCtrl {org s : State} (hz : Keeps org s) (p : Nat) (m : Msg) (t : Nat) : Keeps org (State.onCtrl s p m t) := by
  unfold State.onCtrl
  try dsimp only
  repeat' first
    | with_reducible assumption | intro _ | with_reducible apply keeps_onEnum | with_reducible apply keeps_onEnumEnd
    | with_reducible apply keeps_onEnumCommit | with_reducible apply keeps_onReady | with_reducible apply Keeps.ite | with_reducible apply Keeps.foldl
    | with_reducible refine Keeps.ofSnd (by assumption) ?_ | with_reducible refine Keeps.ofFst (by assumption) ?_ | split | simp only [Keeps.upd]

end Sys2Proof.Machine
end

