-- ==== Sys2Proof/Laws/KeepsBank.lean ====
section
/-! SUPPORT. What the definitions of Machine/Bank.lean keep: the queue, the canonical form of the tables, what has left the device, the free
values taken, the OTP (`Keeps`). -/
namespace Sys2Proof.Machine

theorem keeps_setBank {org s : State} (hz : Keeps org s) (m : Master) (b : Bank) : Keeps org (State.setBank s m b) := by
  unfold State.setBank
  try dsimp only
  repeat' first
    | with_reducible assumption | intro _ | with_reducible apply Keeps.ite | with_reducible apply Keeps.foldl
    | with_reducible refine Keeps.ofSnd (by assumption) ?_ | with_reducible refine Keeps.ofFst (by assumption) ?_ | split | simp only [Keeps.upd]

theorem keeps_setStatus {org s : State} (hz : Keeps org s) (m : Master) (c : Cmd) (pending : Bool) (st : CStatus) : Keeps org (State.setStatus s m c pending st) := by
  unfold State.setStatus
  try dsimp only
  repeat' first
    | with_reducible assumption | intro _ | with_reducible apply keeps_setBank | with_reducible apply Keeps.ite | with_reducible apply Keeps.foldl
    | split | simp only [Keeps.upd]

theorem keeps_completionEvent {org s : State} (hz : Keeps org s) (m : Master) (c : Cmd) (st : CStatus) : Keeps org (State.completionEvent s m c st) := by
  unfold State.completionEvent
  try dsimp only
  repeat' first
    | with_reducible assumption | intro _ | with_reducible apply keeps_eventEntry | with_reducible apply keeps_raise | with_reducible apply Keeps.ite
    | with_reducible apply Keeps.foldl | with_reducible refine Keeps.ofSnd (by assumption) ?_ | with_reducible refine Keeps.ofFst (by assumption) ?_
    | split | simp only [Keeps.upd]

theorem keeps_countCompletion {org s : State} (hz : Keeps org s) (st : CStatus) : Keeps org (State.countCompletion s st) := by
  unfold State.countCompletion
  try dsimp only
  repeat' first
    | with_reducible assumption | intro _ | with_reducible apply keeps_inc | with_reducible apply Keeps.ite | with_reducible apply Keeps.foldl
    | with_reducible refine Keeps.ofSnd (by assumption) ?_ | with_reducible refine Keeps.ofFst (by assumption) ?_ | split | simp only [Keeps.upd]

theorem keeps_completeBank {org s : State} (hz : Keeps org s) (m : Master) (st : CStatus) : Keeps org (State.completeBank s m st) := by
  unfold State.completeBank
  try dsimp only
  repeat' first
    | with_reducible assumption | intro _ | with_reducible apply keeps_countCompletion | with_reducible apply keeps_setStatus
    | with_reducible apply keeps_setBank | with_reducible apply keeps_completionEvent | with_reducible apply Keeps.ite
    | with_reducible apply Keeps.foldl | with_reducible refine Keeps.ofSnd (by assumption) ?_ | with_reducible refine Keeps.ofFst (by assumption) ?_
    | split | simp only [Keeps.upd]

theorem keeps_finishCmd {org s : State} (hz : Keeps org s) (m : Master) (st : CStatus) : Keeps org (State.finishCmd s m st) := by
  unfold State.finishCmd
  try dsimp only
  repeat' first
    | with_reducible assumption | intro _ | with_reducible apply keeps_completeBank | with_reducible apply Keeps.ite
    | with_reducible apply Keeps.foldl | with_reducible refine Keeps.ofSnd (by assumption) ?_ | with_reducible refine Keeps.ofFst (by assumption) ?_
    | split | simp only [Keeps.upd]

end Sys2Proof.Machine
end

