-- ==== Sys2Proof/Laws/KeepsFlash.lean ====
section
/-! SUPPORT. What the definitions of Machine/Flash.lean keep: the queue, the canonical form of the tables, what has left the device, the free
values taken, the OTP (`Keeps`). -/
namespace Sys2Proof.Machine

theorem keeps_mapPages {org s : State} (hz : Keeps org s) (f : CPage → CPage) : Keeps org (State.mapPages s f) := by
  unfold State.mapPages
  try dsimp only
  repeat' first
    | with_reducible assumption | intro _ | with_reducible apply Keeps.ite | with_reducible apply Keeps.foldl | split | simp only [Keeps.upd]

theorem keeps_putPads {org s : State} (hz : Keeps org s) (p : Nat) (page : NPage) (n : Nat) : Keeps org (State.putPads s p page n) := by
  unfold State.putPads
  try dsimp only
  repeat' first
    | with_reducible assumption | intro _ | with_reducible apply keeps_setNpage | with_reducible apply Keeps.ite | with_reducible apply Keeps.foldl
    | split | simp only [Keeps.upd]

theorem keeps_roomInCommit {org s : State} (hz : Keeps org s) (n : Nat) : Keeps org (State.roomInCommit s n) := by
  unfold State.roomInCommit
  try dsimp only
  repeat' first
    | with_reducible assumption | intro _ | with_reducible apply keeps_closeOpen | with_reducible apply Keeps.ite | with_reducible apply Keeps.foldl
    | with_reducible refine Keeps.ofSnd (by assumption) ?_ | with_reducible refine Keeps.ofFst (by assumption) ?_ | split | simp only [Keeps.upd]

theorem keeps_submitPayload {org s : State} (hz : Keeps org s) (d : List Byte) (size : Nat) (ext : List (Nat × Nat)) : Keeps org (State.submitPayload s d size ext) := by
  unfold State.submitPayload
  try dsimp only
  repeat' first
    | with_reducible assumption | intro _ | with_reducible apply keeps_roomInCommit | with_reducible apply keeps_submitRecs
    | with_reducible apply Keeps.ite | with_reducible apply Keeps.foldl | with_reducible apply Keeps.iteFst | with_reducible apply Keeps.iteSnd
    | split | simp only [Keeps.upd]

theorem keeps_moveRecord {org s : State} (hz : Keeps org s) (r : MapRec) : Keeps org (State.moveRecord s r) := by
  unfold State.moveRecord
  try dsimp only
  repeat' first
    | with_reducible assumption | intro _ | with_reducible apply keeps_acceptRec | with_reducible apply keeps_submitRec
    | with_reducible apply Keeps.ite | with_reducible apply Keeps.foldl | split | simp only [Keeps.upd]

theorem keeps_movePage {org s : State} (hz : Keeps org s) (pr : BitVec 2) (e : Nat × NPage) : Keeps org (State.movePage s pr e) := by
  unfold State.movePage
  try dsimp only
  repeat' first
    | with_reducible assumption | intro _ | with_reducible apply keeps_moveRecord | with_reducible apply keeps_acceptPage
    | with_reducible apply keeps_submitPayload | with_reducible apply Keeps.ite | with_reducible apply Keeps.foldl | with_reducible apply Keeps.iteFst
    | with_reducible apply Keeps.iteSnd | with_reducible refine Keeps.ofSnd (by assumption) ?_ | with_reducible refine Keeps.ofFst (by assumption) ?_
    | split | simp only [Keeps.upd]

theorem keeps_moveBlock {org s : State} (hz : Keeps org s) (pr : BitVec 2) (b : Nat) : Keeps org (State.moveBlock s pr b) := by
  unfold State.moveBlock
  try dsimp only
  repeat' first
    | with_reducible assumption | intro _ | with_reducible apply keeps_askRead | with_reducible apply Keeps.ite | with_reducible apply Keeps.foldl
    | split | simp only [Keeps.upd]

theorem keeps_retireBlock {org s : State} (hz : Keeps org s) (b : Nat) : Keeps org (State.retireBlock s b) := by
  unfold State.retireBlock
  try dsimp only
  repeat' first
    | with_reducible assumption | intro _ | with_reducible apply keeps_setNblock | with_reducible apply keeps_moveBlock
    | with_reducible apply keeps_poolRegs | with_reducible apply keeps_raise | with_reducible apply keeps_budgetRegs | with_reducible apply Keeps.ite
    | with_reducible apply Keeps.foldl | with_reducible apply Keeps.iteFst | with_reducible apply Keeps.iteSnd | split | simp only [Keeps.upd]

theorem keeps_refreshBlock {org s : State} (hz : Keeps org s) (b : Nat) : Keeps org (State.refreshBlock s b) := by
  unfold State.refreshBlock
  try dsimp only
  repeat' first
    | with_reducible assumption | intro _ | with_reducible apply keeps_setNblock | with_reducible apply keeps_inc
    | with_reducible apply keeps_moveBlock | with_reducible apply Keeps.ite | with_reducible apply Keeps.foldl | with_reducible apply Keeps.iteFst
    | with_reducible apply Keeps.iteSnd | split | simp only [Keeps.upd]

theorem keeps_startOps {org s : State} (hz : Keeps org s) : Keeps org (State.startOps s) := by
  unfold State.startOps
  try dsimp only
  repeat' first
    | with_reducible assumption | intro _ | with_reducible apply Keeps.ite | with_reducible apply Keeps.foldl
    | with_reducible refine Keeps.ofSnd (by assumption) ?_ | with_reducible refine Keeps.ofFst (by assumption) ?_ | split | simp only [Keeps.upd]

theorem keeps_endOp {org s : State} (hz : Keeps org s) (o : NOp) : Keeps org (State.endOp s o) := by
  unfold State.endOp
  try dsimp only
  repeat' first
    | with_reducible assumption | intro _ | with_reducible apply Keeps.ite | with_reducible apply Keeps.foldl | split | simp only [Keeps.upd]

theorem keeps_runFlash {org s : State} (hz : Keeps org s) : Keeps org (State.runFlash s) := by
  unfold State.runFlash
  try dsimp only
  repeat' first
    | with_reducible assumption | intro _ | with_reducible apply keeps_startOps | with_reducible apply keeps_runReads | with_reducible apply Keeps.ite
    | with_reducible apply Keeps.foldl | split | simp only [Keeps.upd]

theorem keeps_programEnded {org s : State} (hz : Keeps org s) (p : Nat) (pass : Bool) : Keeps org (State.programEnded s p pass) := by
  unfold State.programEnded
  try dsimp only
  repeat' first
    | with_reducible assumption | intro _ | with_reducible apply keeps_setNpage | with_reducible apply keeps_putPads
    | with_reducible apply keeps_mapPages | with_reducible apply keeps_issueCopies | with_reducible apply keeps_retireBlock
    | with_reducible apply keeps_inc | with_reducible apply keeps_takeLine | with_reducible apply keeps_noteRefs | with_reducible apply Keeps.ite
    | with_reducible apply Keeps.foldl | with_reducible apply Keeps.iteFst | with_reducible apply Keeps.iteSnd
    | with_reducible refine Keeps.ofSnd (by assumption) ?_ | with_reducible refine Keeps.ofFst (by assumption) ?_ | split | simp only [Keeps.upd]

theorem keeps_programDone {org s0 : State} (hz : Keeps org s0) (p : Nat) (pass : Bool) : Keeps org (State.programDone s0 p pass) := by
  unfold State.programDone
  try dsimp only
  repeat' first
    | with_reducible assumption | intro _ | with_reducible apply keeps_startOps | with_reducible apply keeps_endOp
    | with_reducible apply keeps_programEnded | with_reducible apply keeps_runFlash | with_reducible apply Keeps.ite
    | with_reducible apply Keeps.foldl | split | simp only [Keeps.upd]

theorem keeps_eraseEnded {org s : State} (hz : Keeps org s) (b : Nat) (pass : Bool) : Keeps org (State.eraseEnded s b pass) := by
  unfold State.eraseEnded
  try dsimp only
  repeat' first
    | with_reducible assumption | intro _ | with_reducible apply keeps_setNblock | with_reducible apply keeps_poolRegs
    | with_reducible apply keeps_budgetRegs | with_reducible apply keeps_retireBlock | with_reducible apply Keeps.ite
    | with_reducible apply Keeps.foldl | split | simp only [Keeps.upd]

theorem keeps_staticWear {org s : State} (hz : Keeps org s) : Keeps org (State.staticWear s) := by
  unfold State.staticWear
  try dsimp only
  repeat' first
    | with_reducible assumption | intro _ | with_reducible apply keeps_moveBlock | with_reducible apply Keeps.ite | with_reducible apply Keeps.foldl
    | with_reducible refine Keeps.ofSnd (by assumption) ?_ | with_reducible refine Keeps.ofFst (by assumption) ?_ | split | simp only [Keeps.upd]

theorem keeps_eraseDone {org s0 : State} (hz : Keeps org s0) (b : Nat) (pass : Bool) : Keeps org (State.eraseDone s0 b pass) := by
  unfold State.eraseDone
  try dsimp only
  repeat' first
    | with_reducible assumption | intro _ | with_reducible apply keeps_startOps | with_reducible apply keeps_endOp
    | with_reducible apply keeps_eraseEnded | with_reducible apply keeps_staticWear | with_reducible apply keeps_runFlash
    | with_reducible apply Keeps.ite | with_reducible apply Keeps.foldl | split | simp only [Keeps.upd]

theorem keeps_takeRead {org s : State} (hz : Keeps org s) (p : Nat) (ok : Bool) : Keeps org (State.takeRead s p ok) := by
  unfold State.takeRead
  try dsimp only
  repeat' first
    | with_reducible assumption | intro _ | with_reducible apply keeps_askRead | with_reducible apply keeps_movePage
    | with_reducible apply keeps_runFlash | with_reducible apply Keeps.ite | with_reducible apply Keeps.foldl
    | with_reducible refine Keeps.ofSnd (by assumption) ?_ | with_reducible refine Keeps.ofFst (by assumption) ?_ | split | simp only [Keeps.upd]

theorem keeps_readDone {org s : State} (hz : Keeps org s) (p : Nat) (r : ReadEnd) (fixed : Nat) (worst : Nat) : Keeps org (State.readDone s p r fixed worst) := by
  unfold State.readDone
  try dsimp only
  repeat' first
    | with_reducible assumption | intro _ | with_reducible apply keeps_setNblock | with_reducible apply keeps_takeRead
    | with_reducible apply keeps_addTo | with_reducible apply keeps_inc | with_reducible apply keeps_raise | with_reducible apply keeps_retireBlock
    | with_reducible apply keeps_refreshBlock | with_reducible apply Keeps.ite | with_reducible apply Keeps.foldl | split | simp only [Keeps.upd]

theorem keeps_readTimeout {org s : State} (hz : Keeps org s) (p : Nat) (t : Nat) : Keeps org (State.readTimeout s p t) := by
  unfold State.readTimeout
  try dsimp only
  repeat' first
    | with_reducible assumption | intro _ | with_reducible apply keeps_addTo | with_reducible apply keeps_runReads | with_reducible apply Keeps.ite
    | with_reducible apply Keeps.foldl | split | simp only [Keeps.upd]

theorem keeps_patrol {org s : State} (hz : Keeps org s) (p : Nat) : Keeps org (State.patrol s p) := by
  unfold State.patrol
  try dsimp only
  repeat' first
    | with_reducible assumption | intro _ | with_reducible apply keeps_askRead | with_reducible apply Keeps.ite | with_reducible apply Keeps.foldl
    | split | simp only [Keeps.upd]

theorem keeps_reclaimStart {org s : State} (hz : Keeps org s) (victim : Option Nat) : Keeps org (State.reclaimStart s victim) := by
  unfold State.reclaimStart
  try dsimp only
  repeat' first
    | with_reducible assumption | intro _ | with_reducible apply keeps_setMapState | with_reducible apply keeps_moveBlock
    | with_reducible apply Keeps.ite | with_reducible apply Keeps.foldl | with_reducible refine Keeps.ofSnd (by assumption) ?_
    | with_reducible refine Keeps.ofFst (by assumption) ?_ | split | simp only [Keeps.upd]

theorem keeps_accrue {org s : State} (hz : Keeps org s) (t : Nat) : Keeps org (State.accrue s t) := by
  unfold State.accrue
  try dsimp only
  repeat' first
    | with_reducible assumption | intro _ | with_reducible apply keeps_budgetRegs | with_reducible apply Keeps.ite | with_reducible apply Keeps.foldl
    | split | simp only [Keeps.upd]

theorem keeps_writePayload {org s : State} (hz : Keeps org s) (digest : List Byte) (bytes : List Byte) : Keeps org (State.writePayload s digest bytes) := by
  unfold State.writePayload
  try dsimp only
  repeat' first
    | with_reducible assumption | intro _ | with_reducible apply keeps_acceptPage | with_reducible apply keeps_submitPayload
    | with_reducible apply Keeps.ite | with_reducible apply Keeps.foldl | with_reducible apply Keeps.foldlFst | with_reducible apply Keeps.foldlSnd
    | with_reducible apply Keeps.iteFst | with_reducible apply Keeps.iteSnd | split | simp only [Keeps.upd]

theorem keeps_mapOff {org s : State} (hz : Keeps org s) : Keeps org (State.mapOff s) := by
  unfold State.mapOff
  try dsimp only
  repeat' first
    | with_reducible assumption | intro _ | with_reducible apply keeps_setFld | with_reducible apply Keeps.ite | with_reducible apply Keeps.foldl
    | split | simp only [Keeps.upd]

theorem keeps_checkChannels {org s : State} (hz : Keeps org s) : Keeps org (State.checkChannels s) := by
  unfold State.checkChannels
  try dsimp only
  repeat' first
    | with_reducible assumption | intro _ | with_reducible apply keeps_setFld | with_reducible apply Keeps.ite | with_reducible apply Keeps.foldl
    | split | simp only [Keeps.upd]

theorem keeps_sortBlocks {org s : State} (hz : Keeps org s) (g : Geo) : Keeps org (State.sortBlocks s g) := by
  unfold State.sortBlocks
  try dsimp only
  repeat' first
    | with_reducible assumption | intro _ | with_reducible apply keeps_setNblock | with_reducible apply Keeps.ite | with_reducible apply Keeps.foldl
    | split | simp only [Keeps.upd]

theorem keeps_mountBlocks {org s : State} (hz : Keeps org s) (g : Geo) (tab : List Byte) : Keeps org (State.mountBlocks s g tab) := by
  unfold State.mountBlocks
  try dsimp only
  repeat' first
    | with_reducible assumption | intro _ | with_reducible apply keeps_sortBlocks | with_reducible apply keeps_setNblock
    | with_reducible apply Keeps.ite | with_reducible apply Keeps.foldl | with_reducible apply Keeps.iteFst | with_reducible apply Keeps.iteSnd
    | with_reducible refine Keeps.ofSnd (by assumption) ?_ | with_reducible refine Keeps.ofFst (by assumption) ?_ | split | simp only [Keeps.upd]

theorem keeps_endMount {org s : State} (hz : Keeps org s) (st : Nat) : Keeps org (State.endMount s st) := by
  unfold State.endMount
  try dsimp only
  repeat' first
    | with_reducible assumption | intro _ | with_reducible apply keeps_setReg | with_reducible apply keeps_setMapState
    | with_reducible apply keeps_raise | with_reducible apply Keeps.ite | with_reducible apply Keeps.foldl
    | with_reducible refine Keeps.ofSnd (by assumption) ?_ | with_reducible refine Keeps.ofFst (by assumption) ?_ | split | simp only [Keeps.upd]

theorem keeps_bareCommit {org s : State} (hz : Keeps org s) (flags : Nat) : Keeps org (State.bareCommit s flags) := by
  unfold State.bareCommit
  try dsimp only
  repeat' first
    | with_reducible assumption | intro _ | with_reducible apply keeps_openCommit | with_reducible apply keeps_closeCommit
    | with_reducible apply keeps_issueCopies | with_reducible apply Keeps.ite | with_reducible apply Keeps.foldl | split | simp only [Keeps.upd]

theorem keeps_format {org s : State} (hz : Keeps org s) (desc : List Byte) : Keeps org (State.format s desc) := by
  unfold State.format
  try dsimp only
  repeat' first
    | with_reducible assumption | intro _ | with_reducible apply keeps_tick | with_reducible apply keeps_setNblock
    | with_reducible apply keeps_setNpage | with_reducible apply keeps_sortBlocks | with_reducible apply keeps_setFld
    | with_reducible apply keeps_poolRegs | with_reducible apply keeps_budgetRegs | with_reducible apply keeps_setReg
    | with_reducible apply keeps_bareCommit | with_reducible apply Keeps.ite | with_reducible apply Keeps.foldl | with_reducible apply Keeps.iteFst
    | with_reducible apply Keeps.iteSnd | split | simp only [Keeps.upd]

theorem keeps_mountTake {org s : State} (hz : Keeps org s) (cps : List (Nat × NPage)) (k : Ckpt) (id : Nat) (head : List Byte) (cont : Content) (n : Nat) : Keeps org (State.mountTake s cps k id head cont n) := by
  unfold State.mountTake
  try dsimp only
  repeat' first
    | with_reducible assumption | intro _ | with_reducible apply keeps_mountBlocks | with_reducible apply keeps_setReg
    | with_reducible apply keeps_setFld | with_reducible apply keeps_setReg64 | with_reducible apply keeps_headRegs
    | with_reducible apply keeps_poolRegs | with_reducible apply keeps_budgetRegs | with_reducible apply Keeps.ite | with_reducible apply Keeps.foldl
    | with_reducible apply Keeps.iteFst | with_reducible apply Keeps.iteSnd | with_reducible refine Keeps.ofSnd (by assumption) ?_
    | with_reducible refine Keeps.ofFst (by assumption) ?_ | split | simp only [Keeps.upd]

theorem keeps_mountFrom {org s : State} (hz : Keeps org s) (bad : List Nat) (sb : List Byte) : Keeps org (State.mountFrom s bad sb).2 := by
  unfold State.mountFrom
  repeat' first
    | with_reducible assumption | intro _ | with_reducible apply keeps_setFld | with_reducible apply keeps_endMount
    | with_reducible apply keeps_mountTake | with_reducible apply keeps_bareCommit | with_reducible apply Keeps.ite | with_reducible apply Keeps.foldl
    | with_reducible apply Keeps.iteFst | with_reducible apply Keeps.iteSnd | with_reducible refine Keeps.ofSnd (by assumption) ?_
    | with_reducible refine Keeps.ofFst (by assumption) ?_ | split | simp only [Keeps.upd]

theorem keeps_mountMap {org s : State} (hz : Keeps org s) (bad : List Nat) : Keeps org (State.mountMap s bad).2 := by
  unfold State.mountMap
  repeat' first
    | with_reducible assumption | intro _ | with_reducible apply keeps_mapOff | with_reducible apply keeps_setFld | with_reducible apply keeps_setReg
    | with_reducible apply keeps_checkChannels | with_reducible apply keeps_format | with_reducible apply keeps_endMount
    | with_reducible apply keeps_mountFrom | with_reducible apply Keeps.ite | with_reducible apply Keeps.foldl | with_reducible apply Keeps.iteFst
    | with_reducible apply Keeps.iteSnd | with_reducible refine Keeps.ofSnd (by assumption) ?_ | with_reducible refine Keeps.ofFst (by assumption) ?_
    | split | simp only [Keeps.upd]

end Sys2Proof.Machine
end

