-- ==== Sys2Proof/Laws/KeepsReef.lean ====
section
/-! SUPPORT. What the definitions of Machine/Reef.lean keep: the queue, the canonical form of the tables, what has left the device, the free
values taken, the OTP (`Keeps`). -/
namespace Sys2Proof.Machine

theorem keeps_trimBuf {org s : State} (hz : Keeps org s) : Keeps org (State.trimBuf s) := by
  unfold State.trimBuf
  try dsimp only
  repeat' first
    | with_reducible assumption | intro _ | with_reducible apply Keeps.ite | with_reducible apply Keeps.foldl | with_reducible apply Keeps.iteFst
    | with_reducible apply Keeps.iteSnd | split | simp only [Keeps.upd]

theorem keeps_reefRegs {org s : State} (hz : Keeps org s) : Keeps org (State.reefRegs s) := by
  unfold State.reefRegs
  try dsimp only
  repeat' first
    | with_reducible assumption | intro _ | with_reducible apply keeps_setFld | with_reducible apply keeps_setReg | with_reducible apply Keeps.ite
    | with_reducible apply Keeps.foldl | with_reducible apply Keeps.iteFst | with_reducible apply Keeps.iteSnd | split | simp only [Keeps.upd]

theorem keeps_entryTable {org s : State} (hz : Keeps org s) : Keeps org (State.entryTable s) := by
  unfold State.entryTable
  try dsimp only
  repeat' first
    | with_reducible assumption | intro _ | with_reducible apply keeps_store | with_reducible apply Keeps.ite | with_reducible apply Keeps.foldl
    | split | simp only [Keeps.upd]

theorem keeps_reefVisible {org s : State} (hz : Keeps org s) (xs0 : Nat) : Keeps org (State.reefVisible s xs0) := by
  induction xs0 generalizing s with
  | zero =>
    unfold State.reefVisible
    try dsimp only
    repeat' first
      | with_reducible assumption | intro _ | with_reducible apply keeps_setReg64 | with_reducible apply keeps_entryTable
      | with_reducible apply Keeps.ite | with_reducible apply Keeps.foldl | with_reducible refine Keeps.ofSnd (by assumption) ?_
      | with_reducible refine Keeps.ofFst (by assumption) ?_ | split | simp only [Keeps.upd]
  | succ n ih =>
    unfold State.reefVisible
    try dsimp only
    repeat' first
      | with_reducible assumption | intro _ | with_reducible apply ih | with_reducible apply keeps_setReg64 | with_reducible apply keeps_entryTable
      | with_reducible apply Keeps.ite | with_reducible apply Keeps.foldl | with_reducible refine Keeps.ofSnd (by assumption) ?_
      | with_reducible refine Keeps.ofFst (by assumption) ?_ | split | simp only [Keeps.upd]

theorem keeps_reefSync {org s : State} (hz : Keeps org s) : Keeps org (State.reefSync s) := by
  unfold State.reefSync
  try dsimp only
  repeat' first
    | with_reducible assumption | intro _ | with_reducible apply keeps_reefVisible | with_reducible apply keeps_trimBuf
    | with_reducible apply keeps_reefRegs | with_reducible apply Keeps.ite | with_reducible apply Keeps.foldl | split | simp only [Keeps.upd]

theorem keeps_submitIndex {org s : State} (hz : Keeps org s) (ix : Index) (pr : BitVec 2) (l : Nat) : Keeps org (State.submitIndex s ix pr l) := by
  unfold State.submitIndex
  try dsimp only
  repeat' first
    | with_reducible assumption | intro _ | with_reducible apply keeps_submitRec | with_reducible apply keeps_acceptPage
    | with_reducible apply Keeps.ite | with_reducible apply Keeps.foldl | with_reducible apply Keeps.iteFst | with_reducible apply Keeps.iteSnd
    | split | simp only [Keeps.upd]

theorem keeps_applyUpdate {org s : State} (hz : Keeps org s) (ix : Index) (pr : BitVec 2) : Keeps org (State.applyUpdate s ix pr) := by
  unfold State.applyUpdate
  try dsimp only
  repeat' first
    | with_reducible assumption | intro _ | with_reducible apply keeps_submitIndex | with_reducible apply keeps_reefSync
    | with_reducible apply Keeps.ite | with_reducible apply Keeps.foldl | split | simp only [Keeps.upd]

theorem keeps_updaterReady {org s : State} (hz : Keeps org s) : Keeps org (State.updaterReady s).2 := by
  unfold State.updaterReady
  try dsimp only
  repeat' first
    | with_reducible assumption | intro _ | with_reducible apply keeps_setFld | with_reducible apply keeps_setLevel | with_reducible apply Keeps.ite
    | with_reducible apply Keeps.foldl | with_reducible apply Keeps.iteFst | with_reducible apply Keeps.iteSnd | split | simp only [Keeps.upd]

theorem keeps_reefInsert {org s : State} (hz : Keeps org s) (kf : Nat) (sketch : Nat) (desc : List Byte) (tx : BitVec 32) (ty : BitVec 32) (sensor : Nat) (tKf : Nat) : Keeps org (State.reefInsert s kf sketch desc tx ty sensor tKf) := by
  unfold State.reefInsert
  try dsimp only
  repeat' first
    | with_reducible assumption | intro _ | with_reducible apply keeps_inc | with_reducible apply keeps_raise | with_reducible apply keeps_applyUpdate
    | with_reducible apply Keeps.ite | with_reducible apply Keeps.foldl | with_reducible refine Keeps.ofSnd (by assumption) ?_
    | with_reducible refine Keeps.ofFst (by assumption) ?_ | split | simp only [Keeps.upd]

theorem keeps_reefDelete {org s : State} (hz : Keeps org s) (n : Nat) : Keeps org (State.reefDelete s n) := by
  unfold State.reefDelete
  try dsimp only
  repeat' first
    | with_reducible assumption | intro _ | with_reducible apply keeps_inc | with_reducible apply keeps_applyUpdate | with_reducible apply Keeps.ite
    | with_reducible apply Keeps.foldl | with_reducible apply Keeps.foldlFst | with_reducible apply Keeps.foldlSnd | with_reducible apply Keeps.iteFst
    | with_reducible apply Keeps.iteSnd | with_reducible refine Keeps.ofSnd (by assumption) ?_ | with_reducible refine Keeps.ofFst (by assumption) ?_
    | split | simp only [Keeps.upd]

theorem keeps_takeInsert {org s : State} (hz : Keeps org s) : Keeps org (State.takeInsert s) := by
  unfold State.takeInsert
  try dsimp only
  repeat' first
    | with_reducible assumption | intro _ | with_reducible apply keeps_updaterReady | with_reducible apply keeps_reefInsert
    | with_reducible apply Keeps.ite | with_reducible apply Keeps.foldl | with_reducible apply Keeps.iteFst | with_reducible apply Keeps.iteSnd
    | with_reducible refine Keeps.ofSnd (by assumption) ?_ | with_reducible refine Keeps.ofFst (by assumption) ?_ | split | simp only [Keeps.upd]

theorem keeps_takeDelete {org s : State} (hz : Keeps org s) (n : Nat) : Keeps org (State.takeDelete s n) := by
  unfold State.takeDelete
  try dsimp only
  repeat' first
    | with_reducible assumption | intro _ | with_reducible apply keeps_updaterReady | with_reducible apply keeps_reefDelete
    | with_reducible apply Keeps.ite | with_reducible apply Keeps.foldl | with_reducible apply Keeps.iteFst | with_reducible apply Keeps.iteSnd
    | with_reducible refine Keeps.ofSnd (by assumption) ?_ | with_reducible refine Keeps.ofFst (by assumption) ?_ | split | simp only [Keeps.upd]

theorem keeps_compactAt {org s : State} (hz : Keeps org s) (l : Nat) (readable : Bool) (t : Nat) : Keeps org (State.compactAt s l readable t) := by
  unfold State.compactAt
  try dsimp only
  repeat' first
    | with_reducible assumption | intro _ | with_reducible apply keeps_addTo | with_reducible apply keeps_applyUpdate | with_reducible apply keeps_inc
    | with_reducible apply keeps_raise | with_reducible apply keeps_setReg | with_reducible apply keeps_reefRegs | with_reducible apply Keeps.ite
    | with_reducible apply Keeps.foldl | with_reducible apply Keeps.foldlFst | with_reducible apply Keeps.foldlSnd | with_reducible apply Keeps.iteFst
    | with_reducible apply Keeps.iteSnd | split | simp only [Keeps.upd]

theorem keeps_compactPage {org s : State} (hz : Keeps org s) (readable : Bool) (t : Nat) : Keeps org (State.compactPage s readable t) := by
  unfold State.compactPage
  try dsimp only
  repeat' first
    | with_reducible assumption | intro _ | with_reducible apply keeps_updaterReady | with_reducible apply keeps_compactAt
    | with_reducible apply keeps_endReads | with_reducible apply keeps_askRead | with_reducible apply Keeps.ite | with_reducible apply Keeps.foldl
    | with_reducible apply Keeps.iteFst | with_reducible apply Keeps.iteSnd | split | simp only [Keeps.upd]

theorem keeps_updaterResume {org s : State} (hz : Keeps org s) : Keeps org (State.updaterResume s) := by
  unfold State.updaterResume
  try dsimp only
  repeat' first
    | with_reducible assumption | intro _ | with_reducible apply keeps_trimBuf | with_reducible apply keeps_setFld
    | with_reducible apply keeps_setLevel | with_reducible apply Keeps.ite | with_reducible apply Keeps.foldl | split | simp only [Keeps.upd]

theorem keeps_writeResult {org s : State} (hz : Keeps org s) (host : Bool) (r : Result) : Keeps org (State.writeResult s host r) := by
  unfold State.writeResult
  try dsimp only
  repeat' first
    | with_reducible assumption | intro _ | with_reducible apply keeps_ringWrite | with_reducible apply keeps_store | with_reducible apply Keeps.ite
    | with_reducible apply Keeps.foldl | split | simp only [Keeps.upd]

theorem keeps_queryEnded {org s : State} (hz : Keeps org s) (host : Option Nat) : Keeps org (State.queryEnded s host) := by
  unfold State.queryEnded
  try dsimp only
  repeat' first
    | with_reducible assumption | intro _ | with_reducible apply keeps_finishCmd | with_reducible apply Keeps.ite | with_reducible apply Keeps.foldl
    | with_reducible refine Keeps.ofSnd (by assumption) ?_ | with_reducible refine Keeps.ofFst (by assumption) ?_ | split | simp only [Keeps.upd]

theorem keeps_finishSearch {org s : State} (hz : Keeps org s) (c : Ctx) : Keeps org (State.finishSearch s c) := by
  unfold State.finishSearch
  try dsimp only
  repeat' first
    | with_reducible assumption | intro _ | with_reducible apply keeps_addTo | with_reducible apply keeps_inc | with_reducible apply keeps_writeResult
    | with_reducible apply keeps_queryEnded | with_reducible apply keeps_reefSync | with_reducible apply Keeps.ite | with_reducible apply Keeps.foldl
    | with_reducible apply Keeps.iteFst | with_reducible apply Keeps.iteSnd | split | simp only [Keeps.upd]

theorem keeps_needCodewords {org s : State} (hz : Keeps org s) (c : Ctx) (cws : List Nat) : Keeps org (State.needCodewords s c cws).1 := by
  unfold State.needCodewords
  try dsimp only
  repeat' first
    | with_reducible assumption | intro _ | with_reducible apply keeps_askRead | with_reducible apply keeps_setReg | with_reducible apply Keeps.ite
    | with_reducible apply Keeps.foldl | with_reducible apply Keeps.foldlFst | with_reducible apply Keeps.foldlSnd | with_reducible apply Keeps.iteFst
    | with_reducible apply Keeps.iteSnd | split | simp only [Keeps.upd]

theorem keeps_putCtx {org s : State} (hz : Keeps org s) (old : Ctx) (new : Ctx) : Keeps org (State.putCtx s old new) := by
  unfold State.putCtx
  try dsimp only
  repeat' first
    | with_reducible assumption | intro _ | with_reducible apply Keeps.ite | with_reducible apply Keeps.foldl | split | simp only [Keeps.upd]

theorem keeps_runCtx {org s : State} (hz : Keeps org s) (old : Ctx) (c : Ctx) (xs0 : Nat) : Keeps org (State.runCtx s old c xs0) := by
  induction xs0 generalizing s old c with
  | zero =>
    unfold State.runCtx
    try dsimp only
    repeat' first
      | with_reducible assumption | intro _ | with_reducible apply keeps_putCtx | with_reducible apply keeps_needCodewords
      | with_reducible apply keeps_finishSearch | with_reducible apply Keeps.ite | with_reducible apply Keeps.foldl
      | with_reducible apply Keeps.iteFst | with_reducible apply Keeps.iteSnd | with_reducible refine Keeps.ofSnd (by assumption) ?_
      | with_reducible refine Keeps.ofFst (by assumption) ?_ | split | simp only [Keeps.upd]
  | succ n ih =>
    unfold State.runCtx
    try dsimp only
    repeat' first
      | with_reducible assumption | intro _ | with_reducible apply ih | with_reducible apply keeps_putCtx | with_reducible apply keeps_needCodewords
      | with_reducible apply keeps_finishSearch | with_reducible apply Keeps.ite | with_reducible apply Keeps.foldl
      | with_reducible apply Keeps.iteFst | with_reducible apply Keeps.iteSnd | with_reducible refine Keeps.ofSnd (by assumption) ?_
      | with_reducible refine Keeps.ofFst (by assumption) ?_ | split | simp only [Keeps.upd]

theorem keeps_codewordDone {org s0 : State} (hz : Keeps org s0) (e : Nat) (w : Nat) (v : Nat) (ok : Bool) : Keeps org (State.codewordDone s0 e w v ok) := by
  unfold State.codewordDone
  try dsimp only
  repeat' first
    | with_reducible assumption | intro _ | with_reducible apply keeps_endReads | with_reducible apply keeps_inc | with_reducible apply keeps_raise
    | with_reducible apply keeps_runCtx | with_reducible apply keeps_putCtx | with_reducible apply keeps_reefRegs | with_reducible apply Keeps.ite
    | with_reducible apply Keeps.foldl | with_reducible apply Keeps.foldlFst | with_reducible apply Keeps.foldlSnd | split | simp only [Keeps.upd]

theorem keeps_codewordBack {org s : State} (hz : Keeps org s) (e : Nat) (w : Nat) (v : Nat) (ok : Bool) : Keeps org (State.codewordBack s e w v ok) := by
  unfold State.codewordBack
  try dsimp only
  repeat' first
    | with_reducible assumption | intro _ | with_reducible apply keeps_codewordDone | with_reducible apply Keeps.ite
    | with_reducible apply Keeps.foldl | split | simp only [Keeps.upd]

theorem keeps_resumeCtxs {org s : State} (hz : Keeps org s) : Keeps org (State.resumeCtxs s) := by
  unfold State.resumeCtxs
  try dsimp only
  repeat' first
    | with_reducible assumption | intro _ | with_reducible apply keeps_runCtx | with_reducible apply Keeps.ite | with_reducible apply Keeps.foldl
    | split | simp only [Keeps.upd]

theorem keeps_refuseQuery {org s : State} (hz : Keeps org s) (host : Bool) (q : Query) (status : Nat) : Keeps org (State.refuseQuery s host q status) := by
  unfold State.refuseQuery
  try dsimp only
  repeat' first
    | with_reducible assumption | intro _ | with_reducible apply keeps_writeResult | with_reducible apply keeps_inc | with_reducible apply keeps_raise
    | with_reducible apply Keeps.ite | with_reducible apply Keeps.foldl | split | simp only [Keeps.upd]

theorem keeps_admitQuery {org s : State} (hz : Keeps org s) (host : Option Nat) (q : Query) : Keeps org (State.admitQuery s host q) := by
  unfold State.admitQuery
  try dsimp only
  repeat' first
    | with_reducible assumption | intro _ | with_reducible apply keeps_incWrap | with_reducible apply keeps_inc | with_reducible apply keeps_reefRegs
    | with_reducible apply keeps_runCtx | with_reducible apply Keeps.ite | with_reducible apply Keeps.foldl
    | with_reducible refine Keeps.ofSnd (by assumption) ?_ | with_reducible refine Keeps.ofFst (by assumption) ?_ | split | simp only [Keeps.upd]

theorem keeps_sendQuery {org s : State} (hz : Keeps org s) (host : Option Nat) (q : Query) : Keeps org (State.sendQuery s host q).2 := by
  unfold State.sendQuery
  try dsimp only
  repeat' first
    | with_reducible assumption | intro _ | with_reducible apply keeps_refuseQuery | with_reducible apply keeps_admitQuery
    | with_reducible apply Keeps.ite | with_reducible apply Keeps.foldl | with_reducible apply Keeps.iteFst | with_reducible apply Keeps.iteSnd
    | with_reducible refine Keeps.ofSnd (by assumption) ?_ | with_reducible refine Keeps.ofFst (by assumption) ?_ | split | simp only [Keeps.upd]

theorem keeps_queryTimeout {org s : State} (hz : Keeps org s) (k : Nat) (t : Nat) : Keeps org (State.queryTimeout s k t) := by
  unfold State.queryTimeout
  try dsimp only
  repeat' first
    | with_reducible assumption | intro _ | with_reducible apply keeps_addTo | with_reducible apply keeps_inc | with_reducible apply keeps_writeResult
    | with_reducible apply keeps_queryEnded | with_reducible apply keeps_reefSync | with_reducible apply Keeps.ite | with_reducible apply Keeps.foldl
    | with_reducible refine Keeps.ofSnd (by assumption) ?_ | with_reducible refine Keeps.ofFst (by assumption) ?_ | split | simp only [Keeps.upd]

theorem keeps_placeQueries {org s : State} (hz : Keeps org s) (bank : Nat) (block : List Byte) : Keeps org (State.placeQueries s bank block).2.2 := by
  unfold State.placeQueries
  try dsimp only
  repeat' first
    | with_reducible assumption | intro _ | with_reducible apply keeps_sendQuery | with_reducible apply Keeps.ite | with_reducible apply Keeps.foldl
    | with_reducible apply Keeps.foldlFst | with_reducible apply Keeps.foldlSnd | with_reducible apply Keeps.iteFst
    | with_reducible apply Keeps.iteSnd | split | simp only [Keeps.upd]

theorem keeps_reefLoad {org s : State} (hz : Keeps org s) : Keeps org (State.reefLoad s) := by
  unfold State.reefLoad
  try dsimp only
  repeat' first
    | with_reducible assumption | intro _ | with_reducible apply keeps_allocSystem | with_reducible apply keeps_setReg64
    | with_reducible apply Keeps.ite | with_reducible apply Keeps.foldl | with_reducible apply Keeps.iteFst | with_reducible apply Keeps.iteSnd
    | split | simp only [Keeps.upd]

theorem keeps_reefMount {org s : State} (hz : Keeps org s) : Keeps org (State.reefMount s) := by
  unfold State.reefMount
  try dsimp only
  repeat' first
    | with_reducible assumption | intro _ | with_reducible apply keeps_tick | with_reducible apply keeps_setReg
    | with_reducible apply keeps_entryTable | with_reducible apply keeps_reefRegs | with_reducible apply Keeps.ite | with_reducible apply Keeps.foldl
    | with_reducible apply Keeps.iteFst | with_reducible apply Keeps.iteSnd | split | simp only [Keeps.upd]

end Sys2Proof.Machine
end

