-- ==== Sys2Proof/Laws/KeepsGsol.lean ====
section
/-! SUPPORT. What the definitions of Machine/Gsol.lean keep: the queue, the canonical form of the tables, what has left the device, the free
values taken, the OTP (`Keeps`). -/
namespace Sys2Proof.Machine

theorem keeps_gsolRegs {org s : State} (hz : Keeps org s) : Keeps org (State.gsolRegs s) := by
  unfold State.gsolRegs
  try dsimp only
  repeat' first
    | with_reducible assumption | intro _ | with_reducible apply keeps_setFld | with_reducible apply keeps_setReg | with_reducible apply Keeps.ite
    | with_reducible apply Keeps.foldl | split | simp only [Keeps.upd]

theorem keeps_newLandmark {org s : State} (hz : Keeps org s) (l : BaPoint) (pos : List Word64) (cov : Nat) : Keeps org (State.newLandmark s l pos cov) := by
  unfold State.newLandmark
  try dsimp only
  repeat' first
    | with_reducible assumption | intro _ | with_reducible apply keeps_inc | with_reducible apply keeps_raise | with_reducible apply keeps_ldWrite
    | with_reducible apply keeps_submitRec | with_reducible apply Keeps.ite | with_reducible apply Keeps.foldl
    | with_reducible refine Keeps.ofSnd (by assumption) ?_ | with_reducible refine Keeps.ofFst (by assumption) ?_ | split | simp only [Keeps.upd]

theorem keeps_refineLandmark {org s : State} (hz : Keeps org s) (i : Nat) (pos : List Word64) (cov : Nat) : Keeps org (State.refineLandmark s i pos cov) := by
  unfold State.refineLandmark
  try dsimp only
  repeat' first
    | with_reducible assumption | intro _ | with_reducible apply keeps_ldWrite | with_reducible apply keeps_submitRec | with_reducible apply Keeps.ite
    | with_reducible apply Keeps.foldl | split | simp only [Keeps.upd]

theorem keeps_countSights {org s : State} (hz : Keeps org s) : Keeps org (State.countSights s) := by
  unfold State.countSights
  try dsimp only
  repeat' first
    | with_reducible assumption | intro _ | with_reducible apply keeps_ldWrite | with_reducible apply Keeps.ite | with_reducible apply Keeps.foldl
    | split | simp only [Keeps.upd]

theorem keeps_leaveWindow {org s : State} (hz : Keeps org s) (i : Nat) : Keeps org (State.leaveWindow s i) := by
  unfold State.leaveWindow
  try dsimp only
  repeat' first
    | with_reducible assumption | intro _ | with_reducible apply keeps_ldWrite | with_reducible apply Keeps.ite | with_reducible apply Keeps.foldl
    | split | simp only [Keeps.upd]

theorem keeps_retireOldest {org s : State} (hz : Keeps org s) : Keeps org (State.retireOldest s) := by
  unfold State.retireOldest
  try dsimp only
  repeat' first
    | with_reducible assumption | intro _ | with_reducible apply keeps_inc | with_reducible apply Keeps.ite | with_reducible apply Keeps.foldl
    | with_reducible refine Keeps.ofSnd (by assumption) ?_ | with_reducible refine Keeps.ofFst (by assumption) ?_ | split | simp only [Keeps.upd]

theorem keeps_fitGraph {org s : State} (hz : Keeps org s) (kfs : List Nat) (de : Nat) (xs0 : Nat) : Keeps org (State.fitGraph s kfs de xs0) := by
  induction xs0 generalizing s kfs de with
  | zero =>
    unfold State.fitGraph
    try dsimp only
    repeat' first
      | with_reducible assumption | intro _ | with_reducible apply keeps_retireOldest | with_reducible apply Keeps.ite
      | with_reducible apply Keeps.foldl | split | simp only [Keeps.upd]
  | succ n ih =>
    unfold State.fitGraph
    try dsimp only
    repeat' first
      | with_reducible assumption | intro _ | with_reducible apply ih | with_reducible apply keeps_retireOldest | with_reducible apply Keeps.ite
      | with_reducible apply Keeps.foldl | split | simp only [Keeps.upd]

theorem keeps_startBa {org s0 : State} (hz : Keeps org s0) : Keeps org (State.startBa s0) := by
  unfold State.startBa
  try dsimp only
  repeat' first
    | with_reducible assumption | intro _ | with_reducible apply keeps_countSights | with_reducible apply Keeps.ite | with_reducible apply Keeps.foldl
    | with_reducible apply Keeps.iteFst | with_reducible apply Keeps.iteSnd | with_reducible refine Keeps.ofSnd (by assumption) ?_
    | with_reducible refine Keeps.ofFst (by assumption) ?_ | split | simp only [Keeps.upd]

theorem keeps_joinGraph {org s : State} (hz : Keeps org s) (n0 : PNode) : Keeps org (State.joinGraph s n0) := by
  unfold State.joinGraph
  try dsimp only
  repeat' first
    | with_reducible assumption | intro _ | with_reducible apply keeps_fitGraph | with_reducible apply keeps_submitRec
    | with_reducible apply keeps_startBa | with_reducible apply keeps_gsolRegs | with_reducible apply Keeps.ite | with_reducible apply Keeps.foldl
    | with_reducible refine Keeps.ofSnd (by assumption) ?_ | with_reducible refine Keeps.ofFst (by assumption) ?_ | split | simp only [Keeps.upd]

theorem keeps_joinWaiting {org s : State} (hz : Keeps org s) : Keeps org (State.joinWaiting s) := by
  unfold State.joinWaiting
  try dsimp only
  repeat' first
    | with_reducible assumption | intro _ | with_reducible apply keeps_joinGraph | with_reducible apply Keeps.ite | with_reducible apply Keeps.foldl
    | split | simp only [Keeps.upd]

theorem keeps_writeSubgraph {org s : State} (hz : Keeps org s) (n : PNode) : Keeps org (State.writeSubgraph s n) := by
  unfold State.writeSubgraph
  try dsimp only
  repeat' first
    | with_reducible assumption | intro _ | with_reducible apply keeps_newGen | with_reducible apply keeps_store | with_reducible apply Keeps.ite
    | with_reducible apply Keeps.foldl | with_reducible apply Keeps.iteFst | with_reducible apply Keeps.iteSnd | split | simp only [Keeps.upd]

theorem keeps_makeKeyframe {org s : State} (hz : Keeps org s) (p : PoseOut) (t : Nat) : Keeps org (State.makeKeyframe s p t) := by
  unfold State.makeKeyframe
  try dsimp only
  repeat' first
    | with_reducible assumption | intro _ | with_reducible apply keeps_joinGraph | with_reducible apply keeps_writeSubgraph
    | with_reducible apply keeps_event | with_reducible apply Keeps.ite | with_reducible apply Keeps.foldl | with_reducible apply Keeps.iteFst
    | with_reducible apply Keeps.iteSnd | split | simp only [Keeps.upd]

theorem keeps_sendSolver {org s : State} (hz : Keeps org s) (q : PQuery) (t : Nat) : Keeps org (State.sendSolver s q t) := by
  unfold State.sendSolver
  try dsimp only
  repeat' first
    | with_reducible assumption | intro _ | with_reducible apply keeps_tick | with_reducible apply keeps_sendQuery | with_reducible apply keeps_inc
    | with_reducible apply keeps_placeEvents | with_reducible apply Keeps.ite | with_reducible apply Keeps.foldl | with_reducible apply Keeps.iteFst
    | with_reducible apply Keeps.iteSnd | split | simp only [Keeps.upd]

theorem keeps_encoded {org s : State} (hz : Keeps org s) (kf : Nat) (out : Nat) (t : Nat) : Keeps org (State.encoded s kf out t) := by
  unfold State.encoded
  try dsimp only
  repeat' first
    | with_reducible assumption | intro _ | with_reducible apply keeps_submitRec | with_reducible apply keeps_sendSolver
    | with_reducible apply keeps_gsolRegs | with_reducible apply Keeps.ite | with_reducible apply Keeps.foldl
    | with_reducible refine Keeps.ofSnd (by assumption) ?_ | with_reducible refine Keeps.ofFst (by assumption) ?_ | split | simp only [Keeps.upd]

theorem keeps_takeVerdicts {org s : State} (hz : Keeps org s) (out : Nat) (err : Bool) : Keeps org (State.takeVerdicts s out err) := by
  unfold State.takeVerdicts
  try dsimp only
  repeat' first
    | with_reducible assumption | intro _ | with_reducible apply keeps_inc | with_reducible apply keeps_gsolRegs | with_reducible apply Keeps.ite
    | with_reducible apply Keeps.foldl | split | simp only [Keeps.upd]

theorem keeps_bringBack {org s : State} (hz : Keeps org s) (kf : Nat) : Keeps org (State.bringBack s kf) := by
  unfold State.bringBack
  try dsimp only
  repeat' first
    | with_reducible assumption | intro _ | with_reducible apply Keeps.ite | with_reducible apply Keeps.foldl
    | with_reducible refine Keeps.ofSnd (by assumption) ?_ | with_reducible refine Keeps.ofFst (by assumption) ?_ | split | simp only [Keeps.upd]

theorem keeps_placeWorkspace {org s : State} (hz : Keeps org s) (mib : Nat) (tier : Nat) : Keeps org (State.placeWorkspace s mib tier).2 := by
  unfold State.placeWorkspace
  try dsimp only
  repeat' first
    | with_reducible assumption | intro _ | with_reducible apply keeps_makeRoom | with_reducible apply keeps_allocRun | with_reducible apply Keeps.ite
    | with_reducible apply Keeps.foldl | with_reducible apply Keeps.iteFst | with_reducible apply Keeps.iteSnd | split | simp only [Keeps.upd]

theorem keeps_findWorkspace {org s : State} (hz : Keeps org s) (mib : Nat) : Keeps org (State.findWorkspace s mib).2 := by
  unfold State.findWorkspace
  try dsimp only
  repeat' first
    | with_reducible assumption | intro _ | with_reducible apply keeps_placeWorkspace | with_reducible apply Keeps.ite
    | with_reducible apply Keeps.foldl | with_reducible apply Keeps.iteFst | with_reducible apply Keeps.iteSnd
    | with_reducible refine Keeps.ofSnd (by assumption) ?_ | with_reducible refine Keeps.ofFst (by assumption) ?_ | split | simp only [Keeps.upd]

theorem keeps_startOpt {org s : State} (hz : Keeps org s) (t : Nat) : Keeps org (State.startOpt s t) := by
  unfold State.startOpt
  try dsimp only
  repeat' first
    | with_reducible assumption | intro _ | with_reducible apply keeps_gsolRegs | with_reducible apply keeps_fitGraph
    | with_reducible apply keeps_bringBack | with_reducible apply keeps_setReg | with_reducible apply keeps_findWorkspace
    | with_reducible apply keeps_setFld | with_reducible apply keeps_inc | with_reducible apply keeps_writeDecision | with_reducible apply keeps_raise
    | with_reducible apply Keeps.ite | with_reducible apply Keeps.foldl | with_reducible apply Keeps.iteFst | with_reducible apply Keeps.iteSnd
    | with_reducible refine Keeps.ofSnd (by assumption) ?_ | with_reducible refine Keeps.ofFst (by assumption) ?_ | split | simp only [Keeps.upd]

theorem keeps_rewriteEntry {org s : State} (hz : Keeps org s) (tiles : List (List Byte)) (gen : Nat) (i : Nat) : Keeps org (State.rewriteEntry s tiles gen i) := by
  unfold State.rewriteEntry
  try dsimp only
  repeat' first
    | with_reducible assumption | intro _ | with_reducible apply keeps_ldWrite | with_reducible apply Keeps.ite | with_reducible apply Keeps.foldl
    | with_reducible apply Keeps.iteFst | with_reducible apply Keeps.iteSnd | with_reducible refine Keeps.ofSnd (by assumption) ?_
    | with_reducible refine Keeps.ofFst (by assumption) ?_ | split | simp only [Keeps.upd]

theorem keeps_journalCorrection {org s : State} (hz : Keeps org s) (c : Corr) : Keeps org (State.journalCorrection s c) := by
  unfold State.journalCorrection
  try dsimp only
  repeat' first
    | with_reducible assumption | intro _ | with_reducible apply keeps_submitRecs | with_reducible apply keeps_closeOpen
    | with_reducible apply Keeps.ite | with_reducible apply Keeps.foldl | with_reducible refine Keeps.ofSnd (by assumption) ?_
    | with_reducible refine Keeps.ofFst (by assumption) ?_ | split | simp only [Keeps.upd]

theorem keeps_freeWorkspace {org s : State} (hz : Keeps org s) (o : Optim) : Keeps org (State.freeWorkspace s o) := by
  unfold State.freeWorkspace
  try dsimp only
  repeat' first
    | with_reducible assumption | intro _ | with_reducible apply keeps_freeObj | with_reducible apply Keeps.ite | with_reducible apply Keeps.foldl
    | split | simp only [Keeps.upd]

theorem keeps_endOpt {org s : State} (hz : Keeps org s) (failed : Bool) (t : Nat) : Keeps org (State.endOpt s failed t) := by
  unfold State.endOpt
  try dsimp only
  repeat' first
    | with_reducible assumption | intro _ | with_reducible apply keeps_freeWorkspace | with_reducible apply keeps_setReg
    | with_reducible apply keeps_joinWaiting | with_reducible apply keeps_gsolRegs | with_reducible apply keeps_inc | with_reducible apply keeps_raise
    | with_reducible apply keeps_rewriteEntry | with_reducible apply Keeps.ite | with_reducible apply Keeps.foldl
    | with_reducible refine Keeps.ofSnd (by assumption) ?_ | with_reducible refine Keeps.ofFst (by assumption) ?_ | split | simp only [Keeps.upd]

theorem keeps_endRewrite {org s : State} (hz : Keeps org s) : Keeps org (State.endRewrite s) := by
  unfold State.endRewrite
  try dsimp only
  repeat' first
    | with_reducible assumption | intro _ | with_reducible apply keeps_submitRec | with_reducible apply keeps_journalCorrection
    | with_reducible apply keeps_joinWaiting | with_reducible apply keeps_gsolRegs | with_reducible apply Keeps.ite | with_reducible apply Keeps.foldl
    | with_reducible refine Keeps.ofSnd (by assumption) ?_ | with_reducible refine Keeps.ofFst (by assumption) ?_ | split | simp only [Keeps.upd]

theorem keeps_publish {org s : State} (hz : Keeps org s) (t : Nat) (c : Corr) : Keeps org (State.publish s t c) := by
  unfold State.publish
  try dsimp only
  repeat' first
    | with_reducible assumption | intro _ | with_reducible apply keeps_freeObj | with_reducible apply keeps_allocSystem
    | with_reducible apply keeps_store | with_reducible apply keeps_setReg | with_reducible apply keeps_ringWrite | with_reducible apply keeps_inc
    | with_reducible apply keeps_raise | with_reducible apply Keeps.ite | with_reducible apply Keeps.foldl | with_reducible apply Keeps.iteFst
    | with_reducible apply Keeps.iteSnd | split | simp only [Keeps.upd]

theorem keeps_publishDurable {org s : State} (hz : Keeps org s) (t : Nat) (commit : Nat) : Keeps org (State.publishDurable s t commit) := by
  unfold State.publishDurable
  try dsimp only
  repeat' first
    | with_reducible assumption | intro _ | with_reducible apply keeps_publish | with_reducible apply keeps_joinWaiting
    | with_reducible apply keeps_gsolRegs | with_reducible apply Keeps.ite | with_reducible apply Keeps.foldl | split | simp only [Keeps.upd]

theorem keeps_takeBa {org s0 : State} (hz : Keeps org s0) (b : Ba) (p : Problem) (lost : List Nat) : Keeps org (State.takeBa s0 b p lost) := by
  unfold State.takeBa
  try dsimp only
  repeat' first
    | with_reducible assumption | intro _ | with_reducible apply keeps_leaveWindow | with_reducible apply keeps_refineLandmark
    | with_reducible apply keeps_newLandmark | with_reducible apply Keeps.ite | with_reducible apply Keeps.foldl
    | with_reducible refine Keeps.ofSnd (by assumption) ?_ | with_reducible refine Keeps.ofFst (by assumption) ?_ | split | simp only [Keeps.upd]

theorem keeps_endBa {org s : State} (hz : Keeps org s) (failed : Bool) (lost : List Nat) : Keeps org (State.endBa s failed lost) := by
  unfold State.endBa
  try dsimp only
  repeat' first
    | with_reducible assumption | intro _ | with_reducible apply keeps_inc | with_reducible apply keeps_raise | with_reducible apply keeps_takeBa
    | with_reducible apply keeps_startBa | with_reducible apply keeps_gsolRegs | with_reducible apply Keeps.ite | with_reducible apply Keeps.foldl
    | with_reducible refine Keeps.ofSnd (by assumption) ?_ | with_reducible refine Keeps.ofFst (by assumption) ?_ | split | simp only [Keeps.upd]

theorem keeps_gsolBoundary {org s : State} (hz : Keeps org s) (t : Nat) : Keeps org (State.gsolBoundary s t) := by
  unfold State.gsolBoundary
  try dsimp only
  repeat' first
    | with_reducible assumption | intro _ | with_reducible apply keeps_sendSolver | with_reducible apply keeps_endRewrite
    | with_reducible apply keeps_startBa | with_reducible apply keeps_gsolRegs | with_reducible apply Keeps.ite | with_reducible apply Keeps.foldl
    | split | simp only [Keeps.upd]

theorem keeps_gsolLoad {org s : State} (hz : Keeps org s) : Keeps org (State.gsolLoad s) := by
  unfold State.gsolLoad
  try dsimp only
  repeat' first
    | with_reducible assumption | intro _ | with_reducible apply keeps_allocRun | with_reducible apply keeps_setReg64 | with_reducible apply Keeps.ite
    | with_reducible apply Keeps.foldl | with_reducible apply Keeps.iteFst | with_reducible apply Keeps.iteSnd | split | simp only [Keeps.upd]

theorem keeps_gsolMount {org s : State} (hz : Keeps org s) : Keeps org (State.gsolMount s) := by
  unfold State.gsolMount
  try dsimp only
  repeat' first
    | with_reducible assumption | intro _ | with_reducible apply keeps_zero | with_reducible apply keeps_store | with_reducible apply keeps_noteRefs
    | with_reducible apply keeps_setReg | with_reducible apply keeps_gsolRegs | with_reducible apply keeps_setFld | with_reducible apply Keeps.ite
    | with_reducible apply Keeps.foldl | split | simp only [Keeps.upd]

end Sys2Proof.Machine
end

