-- ==== Sys2Proof/Laws/KeepsIsletEvents.lean ====
section
/-! SUPPORT. What the definitions of Machine/IsletEvents.lean keep: the queue, the canonical form of the tables, what has left the device, the free
values taken, the OTP (`Keeps`). -/
namespace Sys2Proof.Machine

theorem keeps_execBuoyWaitTimeout {org s : State} (hz : Keeps org s) (i : IsletId) : ∃ u, execBuoyWaitTimeout i s = .next u ∧ Keeps org u := by
  unfold execBuoyWaitTimeout
  refine ⟨_, rfl, ?_⟩
  try dsimp only
  repeat' first
    | with_reducible assumption | intro _ | with_reducible apply keeps_whenAwake | with_reducible apply keeps_buoyTimeout
    | with_reducible apply keeps_settle | with_reducible apply Keeps.ite | with_reducible apply Keeps.foldl | split | simp only [Keeps.upd]

theorem keeps_writeBuoyValue {org s : State} (hz : Keeps org s) (m : Master) (n : Nat) (v : Nat) : Keeps org (State.writeBuoyValue s m n v) := by
  unfold State.writeBuoyValue
  try dsimp only
  repeat' first
    | with_reducible assumption | intro _ | with_reducible apply keeps_setBuoy | with_reducible apply keeps_wakeBuoy | with_reducible apply Keeps.ite
    | with_reducible apply Keeps.foldl | split | simp only [Keeps.upd]

theorem keeps_writeBuoyBar {org s : State} (hz : Keeps org s) (m : Master) (n : Nat) (v : Nat) : Keeps org (State.writeBuoyBar s m n v) := by
  unfold State.writeBuoyBar
  try dsimp only
  repeat' first
    | with_reducible assumption | intro _ | with_reducible apply keeps_setBuoy | with_reducible apply keeps_wakeBuoy | with_reducible apply Keeps.ite
    | with_reducible apply Keeps.foldl | split | simp only [Keeps.upd]

theorem keeps_writeBuoyCtl {org s : State} (hz : Keeps org s) (m : Master) (n : Nat) (v : Nat) : Keeps org (State.writeBuoyCtl s m n v) := by
  unfold State.writeBuoyCtl
  try dsimp only
  repeat' first
    | with_reducible assumption | intro _ | with_reducible apply keeps_setBuoy | with_reducible apply Keeps.ite | with_reducible apply Keeps.foldl
    | split | simp only [Keeps.upd]

theorem keeps_execBuoyValueWrite {org s : State} (hz : Keeps org s) (m : Master) (n : Fin 65536) (v : Word32) : ∃ u, execBuoyValueWrite m n v s = .next u ∧ Keeps org u := by
  unfold execBuoyValueWrite
  refine ⟨_, rfl, ?_⟩
  try dsimp only
  repeat' first
    | with_reducible assumption | intro _ | with_reducible apply keeps_whenAwake | with_reducible apply keeps_writeBuoyValue
    | with_reducible apply keeps_settle | with_reducible apply Keeps.ite | with_reducible apply Keeps.foldl | split | simp only [Keeps.upd]

theorem keeps_execBuoyParticipantsWrite {org s : State} (hz : Keeps org s) (m : Master) (n : Fin 65536) (v : Word32) : ∃ u, execBuoyParticipantsWrite m n v s = .next u ∧ Keeps org u := by
  unfold execBuoyParticipantsWrite
  refine ⟨_, rfl, ?_⟩
  try dsimp only
  repeat' first
    | with_reducible assumption | intro _ | with_reducible apply keeps_whenAwake | with_reducible apply keeps_writeBuoyBar
    | with_reducible apply keeps_settle | with_reducible apply Keeps.ite | with_reducible apply Keeps.foldl | split | simp only [Keeps.upd]

theorem keeps_execBuoyCtlWrite {org s : State} (hz : Keeps org s) (m : Master) (n : Fin 65536) (v : Word32) : ∃ u, execBuoyCtlWrite m n v s = .next u ∧ Keeps org u := by
  unfold execBuoyCtlWrite
  refine ⟨_, rfl, ?_⟩
  try dsimp only
  repeat' first
    | with_reducible assumption | intro _ | with_reducible apply keeps_whenAwake | with_reducible apply keeps_writeBuoyCtl
    | with_reducible apply Keeps.ite | with_reducible apply Keeps.foldl | split | simp only [Keeps.upd]

theorem keeps_dbgHalt {org s : State} (hz : Keeps org s) (i : Nat) : Keeps org (State.dbgHalt s i) := by
  unfold State.dbgHalt
  try dsimp only
  repeat' first
    | with_reducible assumption | intro _ | with_reducible apply keeps_setIslet | with_reducible apply keeps_setBuoy | with_reducible apply Keeps.ite
    | with_reducible apply Keeps.foldl | with_reducible refine Keeps.ofSnd (by assumption) ?_ | with_reducible refine Keeps.ofFst (by assumption) ?_
    | split | simp only [Keeps.upd]

theorem keeps_dbgResume {org s : State} (hz : Keeps org s) (i : Nat) : Keeps org (State.dbgResume s i) := by
  unfold State.dbgResume
  try dsimp only
  repeat' first
    | with_reducible assumption | intro _ | with_reducible apply keeps_setIslet | with_reducible apply Keeps.ite | with_reducible apply Keeps.foldl
    | split | simp only [Keeps.upd]

theorem keeps_stepped {org s : State} (hz : Keeps org s) (i : Nat) : Keeps org (State.stepped s i) := by
  unfold State.stepped
  try dsimp only
  repeat' first
    | with_reducible assumption | intro _ | with_reducible apply keeps_setIslet | with_reducible apply Keeps.ite | with_reducible apply Keeps.foldl
    | split | simp only [Keeps.upd]

theorem keeps_dbgStep {org s : State} (hz : Keeps org s) (i : Nat) : Keeps org (State.dbgStep s i) := by
  unfold State.dbgStep
  try dsimp only
  repeat' first
    | with_reducible assumption | intro _ | with_reducible apply keeps_stepped | with_reducible apply keeps_issue | with_reducible apply Keeps.ite
    | with_reducible apply Keeps.foldl | split | simp only [Keeps.upd]

theorem keeps_dbgCtl {org s : State} (hz : Keeps org s) (i : Nat) (v : Nat) : Keeps org (State.dbgCtl s i v) := by
  unfold State.dbgCtl
  try dsimp only
  repeat' first
    | with_reducible assumption | intro _ | with_reducible apply keeps_dbgHalt | with_reducible apply keeps_dbgResume
    | with_reducible apply keeps_dbgStep | with_reducible apply Keeps.ite | with_reducible apply Keeps.foldl | split | simp only [Keeps.upd]

theorem keeps_execDbgHalt {org s : State} (hz : Keeps org s) (i : IsletId) : ∃ u, execDbgHalt i s = .next u ∧ Keeps org u := by
  unfold execDbgHalt
  refine ⟨_, rfl, ?_⟩
  try dsimp only
  repeat' first
    | with_reducible assumption | intro _ | with_reducible apply keeps_whenAwake | with_reducible apply keeps_dbgHalt | with_reducible apply Keeps.ite
    | with_reducible apply Keeps.foldl | split | simp only [Keeps.upd]

theorem keeps_execDbgResume {org s : State} (hz : Keeps org s) (i : IsletId) : ∃ u, execDbgResume i s = .next u ∧ Keeps org u := by
  unfold execDbgResume
  refine ⟨_, rfl, ?_⟩
  try dsimp only
  repeat' first
    | with_reducible assumption | intro _ | with_reducible apply keeps_whenAwake | with_reducible apply keeps_dbgResume
    | with_reducible apply Keeps.ite | with_reducible apply Keeps.foldl | split | simp only [Keeps.upd]

theorem keeps_execDbgStep {org s : State} (hz : Keeps org s) (i : IsletId) : ∃ u, execDbgStep i s = .next u ∧ Keeps org u := by
  unfold execDbgStep
  refine ⟨_, rfl, ?_⟩
  try dsimp only
  repeat' first
    | with_reducible assumption | intro _ | with_reducible apply keeps_whenAwake | with_reducible apply keeps_dbgStep
    | with_reducible apply keeps_settle | with_reducible apply Keeps.ite | with_reducible apply Keeps.foldl | split | simp only [Keeps.upd]

theorem keeps_writeDbg {org s : State} (hz : Keeps org s) (i : Nat) (o : Nat) (v : Nat) : Keeps org (State.writeDbg s i o v) := by
  unfold State.writeDbg
  try dsimp only
  repeat' first
    | with_reducible assumption | intro _ | with_reducible apply keeps_dbgCtl | with_reducible apply keeps_settle
    | with_reducible apply keeps_setIslet | with_reducible apply Keeps.ite | with_reducible apply Keeps.foldl | split | simp only [Keeps.upd]

end Sys2Proof.Machine
end

