-- ==== Sys2Proof/Laws/KeepsSec.lean ====
section
/-! SUPPORT. What the definitions of Machine/Sec.lean keep: the queue, the canonical form of the tables, what has left the device, the free
values taken, the OTP (`Keeps`). -/
namespace Sys2Proof.Machine

theorem keeps_secRegs {org s : State} (hz : Keeps org s) : Keeps org (State.secRegs s) := by
  unfold State.secRegs
  try dsimp only
  repeat' first
    | with_reducible assumption | intro _ | with_reducible apply keeps_setFld | with_reducible apply keeps_setReg64
    | with_reducible apply keeps_setReg | with_reducible apply Keeps.ite | with_reducible apply Keeps.foldl | with_reducible apply Keeps.foldlFst
    | with_reducible apply Keeps.foldlSnd | with_reducible apply Keeps.iteFst | with_reducible apply Keeps.iteSnd
    | with_reducible refine Keeps.ofSnd (by assumption) ?_ | with_reducible refine Keeps.ofFst (by assumption) ?_ | split | simp only [Keeps.upd]

theorem keeps_makeKey {org s : State} (hz : Keeps org s) (seed : List Byte) : Keeps org (State.makeKey s seed) := by
  unfold State.makeKey
  try dsimp only
  repeat' first
    | with_reducible assumption | intro _ | with_reducible apply keeps_setFld | with_reducible apply keeps_setReg | with_reducible apply Keeps.ite
    | with_reducible apply Keeps.foldl | split | simp only [Keeps.upd] | simp only [Keeps.updSec]

theorem keeps_freeBytes {org s : State} (hz : Keeps org s) (xs0 : Nat) : Keeps org (State.freeBytes s xs0).2 := by
  induction xs0 generalizing s with
  | zero =>
    unfold State.freeBytes
    try dsimp only
    repeat' first
      | with_reducible assumption | intro _ | with_reducible apply keeps_tick | with_reducible apply Keeps.ite | with_reducible apply Keeps.foldl
      | with_reducible apply Keeps.iteFst | with_reducible apply Keeps.iteSnd | split | simp only [Keeps.upd]
  | succ n ih =>
    unfold State.freeBytes
    try dsimp only
    repeat' first
      | with_reducible assumption | intro _ | with_reducible apply ih | with_reducible apply keeps_tick | with_reducible apply Keeps.ite
      | with_reducible apply Keeps.foldl | with_reducible apply Keeps.iteFst | with_reducible apply Keeps.iteSnd | split | simp only [Keeps.upd]

theorem keeps_startKey {org s : State} (hz : Keeps org s) : Keeps org (State.startKey s) := by
  unfold State.startKey
  try dsimp only
  repeat' first
    | with_reducible assumption | intro _ | with_reducible apply keeps_makeKey | with_reducible apply keeps_setFld | with_reducible apply Keeps.ite
    | with_reducible apply Keeps.foldl | with_reducible refine Keeps.ofSnd (by assumption) ?_ | with_reducible refine Keeps.ofFst (by assumption) ?_
    | split | simp only [Keeps.upd]

theorem keeps_drawSeed {org s : State} (hz : Keeps org s) (ok : Bool) : Keeps org (State.drawSeed s ok) := by
  unfold State.drawSeed
  try dsimp only
  repeat' first
    | with_reducible assumption | intro _ | with_reducible apply keeps_freeBytes | with_reducible apply keeps_makeKey
    | with_reducible apply keeps_setFld | with_reducible apply keeps_raise | with_reducible apply Keeps.ite | with_reducible apply Keeps.foldl
    | with_reducible apply Keeps.iteFst | with_reducible apply Keeps.iteSnd | split | simp only [Keeps.upd] | simp only [Keeps.updSec]

theorem keeps_norErase {org s : State} (hz : Keeps org s) (a : Nat) : Keeps org (State.norErase s a) := by
  unfold State.norErase
  try dsimp only
  repeat' first
    | with_reducible assumption | intro _ | with_reducible apply Keeps.ite | with_reducible apply Keeps.foldl | split | simp only [Keeps.upd]

theorem keeps_norProgram {org s : State} (hz : Keeps org s) (a : Nat) (b : List Byte) : Keeps org (State.norProgram s a b) := by
  unfold State.norProgram
  try dsimp only
  repeat' first
    | with_reducible assumption | intro _ | with_reducible apply Keeps.ite | with_reducible apply Keeps.foldl | with_reducible apply Keeps.iteFst
    | with_reducible apply Keeps.iteSnd | split | simp only [Keeps.upd]

theorem keeps_verifyImage {org s : State} (hz : Keeps org s) (b : List Byte) (room : Nat) : Keeps org (State.verifyImage s b room).2 := by
  unfold State.verifyImage
  try dsimp only
  repeat' first
    | with_reducible assumption | intro _ | with_reducible apply keeps_inc | with_reducible apply Keeps.ite | with_reducible apply Keeps.foldl
    | with_reducible apply Keeps.iteFst | with_reducible apply Keeps.iteSnd | split | simp only [Keeps.upd]

theorem keeps_bootImage {org s : State} (hz : Keeps org s) : Keeps org (State.bootImage s).2 := by
  unfold State.bootImage
  try dsimp only
  repeat' first
    | with_reducible assumption | intro _ | with_reducible apply keeps_verifyImage | with_reducible apply keeps_setFld
    | with_reducible apply Keeps.ite | with_reducible apply Keeps.foldl | with_reducible apply Keeps.iteFst | with_reducible apply Keeps.iteSnd
    | split | simp only [Keeps.upd]

theorem keeps_rollbackOccasion {org s : State} (hz : Keeps org s) (ok : Bool) : Keeps org (State.rollbackOccasion s ok) := by
  unfold State.rollbackOccasion
  try dsimp only
  repeat' first
    | with_reducible assumption | intro _ | with_reducible apply keeps_secRegs | with_reducible apply keeps_raise | with_reducible apply Keeps.ite
    | with_reducible apply Keeps.foldl | with_reducible refine Keeps.ofSnd (by assumption) ?_ | with_reducible refine Keeps.ofFst (by assumption) ?_
    | split | simp only [Keeps.upd] | simp only [Keeps.updSec]

theorem keeps_otpResult {org s : State} (hz : Keeps org s) (v : Nat) : Keeps org (State.otpResult s v) := by
  unfold State.otpResult
  try dsimp only
  repeat' first
    | with_reducible assumption | intro _ | with_reducible apply keeps_setFld | with_reducible apply Keeps.ite | with_reducible apply Keeps.foldl
    | split | simp only [Keeps.upd]

theorem keeps_otpDenied {org s : State} (hz : Keeps org s) : Keeps org (State.otpDenied s) := by
  unfold State.otpDenied
  try dsimp only
  repeat' first
    | with_reducible assumption | intro _ | with_reducible apply keeps_otpResult | with_reducible apply keeps_inc | with_reducible apply Keeps.ite
    | with_reducible apply Keeps.foldl | split | simp only [Keeps.upd]

theorem keeps_otpHash {org s : State} (hz : Keeps org s) (ok : Bool) : Keeps org (s.otpHash ok) := by
  unfold State.otpHash
  dsimp only
  split
  · exact keeps_otpDenied hz
  · next hn =>
    refine keeps_secRegs (keeps_otpResult ?_ _)
    refine hz.of rfl id (List.prefix_refl _) (Nat.le_refl _) ⟨rfl, rfl, fun h e => ?_, id, id⟩
    exact absurd (by rw [e]; rfl) (fun h' => hn (.inr h'))

theorem keeps_otpVendor {org s : State} (hz : Keeps org s) : Keeps org s.otpVendor := by
  unfold State.otpVendor
  dsimp only
  refine Keeps.ite (keeps_otpDenied hz) (keeps_secRegs (keeps_otpResult ?_ _))
  exact hz.of rfl id (List.prefix_refl _) (Nat.le_refl _) ⟨rfl, rfl, fun _ => id, fun _ => rfl, id⟩

theorem keeps_signed {org s : State} (hz : Keeps org s) (b : List Byte) : Keeps org (State.signed s b).2 := by
  unfold State.signed
  try dsimp only
  repeat' first
    | with_reducible assumption | intro _ | with_reducible apply keeps_tick | with_reducible apply Keeps.ite | with_reducible apply Keeps.foldl
    | with_reducible apply Keeps.iteFst | with_reducible apply Keeps.iteSnd | split | simp only [Keeps.upd]

theorem keeps_report {org s : State} (hz : Keeps org s) (nonce : List Byte) : Keeps org (State.report s nonce).2 := by
  unfold State.report
  try dsimp only
  repeat' first
    | with_reducible assumption | intro _ | with_reducible apply keeps_signed | with_reducible apply Keeps.ite | with_reducible apply Keeps.foldl
    | with_reducible apply Keeps.iteFst | with_reducible apply Keeps.iteSnd | with_reducible refine Keeps.ofSnd (by assumption) ?_
    | with_reducible refine Keeps.ofFst (by assumption) ?_ | split | simp only [Keeps.upd]

theorem keeps_enrolment {org s : State} (hz : Keeps org s) (nonce : List Byte) : Keeps org (State.enrolment s nonce).2 := by
  unfold State.enrolment
  try dsimp only
  repeat' first
    | with_reducible assumption | intro _ | with_reducible apply keeps_signed | with_reducible apply Keeps.ite | with_reducible apply Keeps.foldl
    | with_reducible apply Keeps.iteFst | with_reducible apply Keeps.iteSnd | split | simp only [Keeps.upd]

end Sys2Proof.Machine
end

