-- ==== Sys2Proof/Laws/KeepsRegWrite.lean ====
section
/-! SUPPORT. What the definitions of Machine/RegWrite.lean keep: the queue, the canonical form of the tables, what has left the device, the free
values taken, the OTP (`Keeps`). -/
namespace Sys2Proof.Machine

theorem keeps_fsyncWrite {org s : State} (hz : Keeps org s) (k : Nat) (j : Nat) (o : Nat) (v : Nat) : Keeps org (State.fsyncWrite s k j o v) := by
  unfold State.fsyncWrite
  try dsimp only
  repeat' first
    | with_reducible assumption | intro _ | with_reducible apply keeps_setReg | with_reducible apply Keeps.ite | with_reducible apply Keeps.foldl
    | split | simp only [Keeps.upd]

theorem keeps_fieldWrite {org s : State} (hz : Keeps org s) (o : Nat) (v : Nat) : Keeps org (State.fieldWrite s o v) := by
  unfold State.fieldWrite
  try dsimp only
  repeat' first
    | with_reducible assumption | intro _ | with_reducible apply keeps_maskWrite | with_reducible apply keeps_countWrite
    | with_reducible apply keeps_writeRateLo | with_reducible apply keeps_writeRateHi | with_reducible apply keeps_fsyncWrite
    | with_reducible apply keeps_setReg | with_reducible apply Keeps.ite | with_reducible apply Keeps.foldl
    | with_reducible refine Keeps.ofSnd (by assumption) ?_ | with_reducible refine Keeps.ofFst (by assumption) ?_ | split | simp only [Keeps.upd]

theorem keeps_windowWrite {org s : State} (hz : Keeps org s) (m : Master) (o : Nat) (v : Nat) : Keeps org (State.windowWrite s m o v) := by
  unfold State.windowWrite
  try dsimp only
  repeat' first
    | with_reducible assumption | intro _ | with_reducible apply keeps_fieldWrite | with_reducible apply keeps_writeBuoyValue
    | with_reducible apply keeps_settle | with_reducible apply keeps_writeBuoyBar | with_reducible apply keeps_writeBuoyCtl
    | with_reducible apply keeps_writeDbg | with_reducible apply Keeps.ite | with_reducible apply Keeps.foldl | split | simp only [Keeps.upd]

theorem keeps_applyRegs {org s : State} (hz : Keeps org s) (l : List (Nat × Nat)) : Keeps org (State.applyRegs s l) := by
  unfold State.applyRegs
  try dsimp only
  repeat' first
    | with_reducible assumption | intro _ | with_reducible apply keeps_windowWrite | with_reducible apply Keeps.ite | with_reducible apply Keeps.foldl
    | with_reducible apply Keeps.iteFst | with_reducible apply Keeps.iteSnd | split | simp only [Keeps.upd]

theorem keeps_inForce {org s : State} (hz : Keeps org s) : Keeps org s.inForce := keeps_actCsr hz

end Sys2Proof.Machine
end

