-- ==== Sys2Proof/Laws/KeepsCal.lean ====
section
/-! SUPPORT. What the definitions of Machine/Cal.lean keep: the queue, the canonical form of the tables, what has left the device, the free
values taken, the OTP (`Keeps`). -/
namespace Sys2Proof.Machine

theorem keeps_calRegs {org s : State} (hz : Keeps org s) (record : Nat) (gen : Nat) : Keeps org (State.calRegs s record gen) := by
  unfold State.calRegs
  try dsimp only
  repeat' first
    | with_reducible assumption | intro _ | with_reducible apply keeps_setFld | with_reducible apply keeps_setReg
    | with_reducible apply keeps_setCause | with_reducible apply Keeps.ite | with_reducible apply Keeps.foldl | split | simp only [Keeps.upd]

theorem keeps_readCal {org s : State} (hz : Keeps org s) : Keeps org (State.readCal s) := by
  unfold State.readCal
  try dsimp only
  repeat' first
    | with_reducible assumption | intro _ | with_reducible apply keeps_calRegs | with_reducible apply keeps_norErase | with_reducible apply Keeps.ite
    | with_reducible apply Keeps.foldl | with_reducible refine Keeps.ofSnd (by assumption) ?_ | with_reducible refine Keeps.ofFst (by assumption) ?_
    | split | simp only [Keeps.upd]

theorem keeps_setCal {org s : State} (hz : Keeps org s) (b : List Byte) : Keeps org (State.setCal s b) := by
  unfold State.setCal
  try dsimp only
  repeat' first
    | with_reducible assumption | intro _ | with_reducible apply keeps_store | with_reducible apply Keeps.ite | with_reducible apply Keeps.foldl
    | split | simp only [Keeps.upd]

theorem keeps_calBoundary {org s : State} (hz : Keeps org s) : Keeps org (State.calBoundary s) := by
  unfold State.calBoundary
  try dsimp only
  repeat' first
    | with_reducible assumption | intro _ | with_reducible apply keeps_setCal | with_reducible apply Keeps.ite | with_reducible apply Keeps.foldl
    | with_reducible refine Keeps.ofSnd (by assumption) ?_ | with_reducible refine Keeps.ofFst (by assumption) ?_ | split | simp only [Keeps.upd]

theorem keeps_calLoad {org s : State} (hz : Keeps org s) (live : List Byte) : Keeps org (State.calLoad s live) := by
  unfold State.calLoad
  try dsimp only
  repeat' first
    | with_reducible assumption | intro _ | with_reducible apply keeps_allocSystem | with_reducible apply keeps_setReg64
    | with_reducible apply keeps_setCal | with_reducible apply Keeps.ite | with_reducible apply Keeps.foldl | with_reducible apply Keeps.iteFst
    | with_reducible apply Keeps.iteSnd | split | simp only [Keeps.upd]

theorem keeps_calRecord {org s : State} (hz : Keeps org s) (live : List Byte) (supplied : Bool) : Keeps org (State.calRecord s live supplied).2 := by
  unfold State.calRecord
  try dsimp only
  repeat' first
    | with_reducible assumption | intro _ | with_reducible apply keeps_tick | with_reducible apply Keeps.ite | with_reducible apply Keeps.foldl
    | with_reducible apply Keeps.iteFst | with_reducible apply Keeps.iteSnd | split | simp only [Keeps.upd]

theorem keeps_calStart {org s : State} (hz : Keeps org s) (block : Option (List Byte)) : Keeps org (State.calStart s block) := by
  unfold State.calStart
  try dsimp only
  repeat' first
    | with_reducible assumption | intro _ | with_reducible apply keeps_setCal | with_reducible apply keeps_calRecord
    | with_reducible apply keeps_setFld | with_reducible apply Keeps.ite | with_reducible apply Keeps.foldl | with_reducible apply Keeps.iteFst
    | with_reducible apply Keeps.iteSnd | with_reducible refine Keeps.ofSnd (by assumption) ?_ | with_reducible refine Keeps.ofFst (by assumption) ?_
    | split | simp only [Keeps.upd]

theorem keeps_calStop {org s : State} (hz : Keeps org s) : Keeps org (State.calStop s) := by
  unfold State.calStop
  try dsimp only
  repeat' first
    | with_reducible assumption | intro _ | with_reducible apply keeps_setFld | with_reducible apply Keeps.ite | with_reducible apply Keeps.foldl
    | split | simp only [Keeps.upd]

theorem keeps_calEnd {org s : State} (hz : Keeps org s) (sector : Nat) : Keeps org (State.calEnd s sector) := by
  unfold State.calEnd
  try dsimp only
  repeat' first
    | with_reducible assumption | intro _ | with_reducible apply keeps_calRegs | with_reducible apply keeps_setReg
    | with_reducible apply keeps_calStop | with_reducible apply keeps_eventEntry | with_reducible apply Keeps.ite | with_reducible apply Keeps.foldl
    | split | simp only [Keeps.upd]

theorem keeps_calStep {org s : State} (hz : Keeps org s) (ok : Bool) : Keeps org (State.calStep s ok).2 := by
  unfold State.calStep
  try dsimp only
  repeat' first
    | with_reducible assumption | intro _ | with_reducible apply keeps_norErase | with_reducible apply keeps_calStop
    | with_reducible apply keeps_norProgram | with_reducible apply keeps_calEnd | with_reducible apply Keeps.ite | with_reducible apply Keeps.foldl
    | with_reducible apply Keeps.iteFst | with_reducible apply Keeps.iteSnd | with_reducible refine Keeps.ofSnd (by assumption) ?_
    | with_reducible refine Keeps.ofFst (by assumption) ?_ | split | simp only [Keeps.upd]

theorem keeps_calPfail {org s : State} (hz : Keeps org s) : Keeps org (State.calPfail s).2 := by
  unfold State.calPfail
  try dsimp only
  repeat' first
    | with_reducible assumption | intro _ | with_reducible apply keeps_calStop | with_reducible apply Keeps.ite | with_reducible apply Keeps.foldl
    | with_reducible apply Keeps.iteFst | with_reducible apply Keeps.iteSnd | with_reducible refine Keeps.ofSnd (by assumption) ?_
    | with_reducible refine Keeps.ofFst (by assumption) ?_ | split | simp only [Keeps.upd]

end Sys2Proof.Machine
end

