-- ==== Sys2Proof/Laws/KeepsNetEvents.lean ====
section
/-! SUPPORT. What the definitions of Machine/NetEvents.lean keep: the queue, the canonical form of the tables, what has left the device, the free
values taken, the OTP (`Keeps`). -/
namespace Sys2Proof.Machine

theorem keeps_consumeOutput {org s : State} (hz : Keeps org s) (n : Nat) (t : Nat) (x : NUnit) (v : Invocation) (err : Bool) : Keeps org (State.consumeOutput s n t x v err) := by
  unfold State.consumeOutput
  try dsimp only
  repeat' first
    | with_reducible assumption | intro _ | with_reducible apply keeps_observationBlock | with_reducible apply keeps_encoded
    | with_reducible apply keeps_takeVerdicts | with_reducible apply keeps_event | with_reducible apply Keeps.ite | with_reducible apply Keeps.foldl
    | with_reducible refine Keeps.ofSnd (by assumption) ?_ | with_reducible refine Keeps.ofFst (by assumption) ?_ | split | simp only [Keeps.upd]

theorem keeps_succeed {org s : State} (hz : Keeps org s) (n : Nat) : Keeps org (State.succeed s n) := by
  unfold State.succeed
  try dsimp only
  repeat' first
    | with_reducible assumption | intro _ | with_reducible apply keeps_afterInv | with_reducible apply keeps_freeUnit
    | with_reducible apply keeps_loadUnit | with_reducible apply Keeps.ite | with_reducible apply Keeps.foldl | with_reducible apply Keeps.iteFst
    | with_reducible apply Keeps.iteSnd | with_reducible refine Keeps.ofSnd (by assumption) ?_ | with_reducible refine Keeps.ofFst (by assumption) ?_
    | split | simp only [Keeps.upd]

theorem keeps_invDone {org s : State} (hz : Keeps org s) (n : Nat) (t : Nat) : Keeps org (State.invDone s n t) := by
  unfold State.invDone
  try dsimp only
  repeat' first
    | with_reducible assumption | intro _ | with_reducible apply keeps_finishInv | with_reducible apply keeps_consumeOutput
    | with_reducible apply keeps_succeed | with_reducible apply keeps_settle | with_reducible apply Keeps.ite | with_reducible apply Keeps.foldl
    | with_reducible refine Keeps.ofSnd (by assumption) ?_ | with_reducible refine Keeps.ofFst (by assumption) ?_ | split | simp only [Keeps.upd]

theorem keeps_invFails {org s : State} (hz : Keeps org s) (n : Nat) (t : Nat) : Keeps org (State.invFails s n t) := by
  unfold State.invFails
  try dsimp only
  repeat' first
    | with_reducible assumption | intro _ | with_reducible apply keeps_failInv | with_reducible apply keeps_consumeOutput
    | with_reducible apply keeps_succeed | with_reducible apply keeps_settle | with_reducible apply Keeps.ite | with_reducible apply Keeps.foldl
    | with_reducible refine Keeps.ofSnd (by assumption) ?_ | with_reducible refine Keeps.ofFst (by assumption) ?_ | split | simp only [Keeps.upd]

theorem keeps_failWaiting {org s : State} (hz : Keeps org s) (id : Nat) (n : Nat) (code : Nat) : Keeps org (State.failWaiting s id n code) := by
  unfold State.failWaiting
  try dsimp only
  repeat' first
    | with_reducible assumption | intro _ | with_reducible apply Keeps.ite | with_reducible apply Keeps.foldl | with_reducible apply Keeps.iteFst
    | with_reducible apply Keeps.iteSnd | split | simp only [Keeps.upd]

theorem keeps_transferFailed {org s : State} (hz : Keeps org s) (id : Nat) (code : Nat) : Keeps org (State.transferFailed s id code) := by
  unfold State.transferFailed
  try dsimp only
  repeat' first
    | with_reducible assumption | intro _ | with_reducible apply keeps_setObj | with_reducible apply keeps_startLoad
    | with_reducible apply keeps_failWaiting | with_reducible apply keeps_mapInv | with_reducible apply Keeps.ite | with_reducible apply Keeps.foldl
    | with_reducible refine Keeps.ofSnd (by assumption) ?_ | with_reducible refine Keeps.ofFst (by assumption) ?_ | split | simp only [Keeps.upd]

theorem keeps_moveEnded {org s : State} (hz : Keeps org s) (id : Nat) (code : Nat) (atDest : Bool) : Keeps org (State.moveEnded s id code atDest) := by
  unfold State.moveEnded
  try dsimp only
  repeat' first
    | with_reducible assumption | intro _ | with_reducible apply keeps_endReads | with_reducible apply keeps_endMove
    | with_reducible apply keeps_transferFailed | with_reducible apply keeps_loadedWant | with_reducible apply keeps_weightSyncAll
    | with_reducible apply keeps_settle | with_reducible apply Keeps.ite | with_reducible apply Keeps.foldl | split | simp only [Keeps.upd]

theorem keeps_execInvocationRelease {org s : State} (hz : Keeps org s) (n : Fin 32) (t : Nat) : ∃ u, execInvocationRelease n t s = .next u ∧ Keeps org u := by
  unfold execInvocationRelease
  refine ⟨_, rfl, ?_⟩
  try dsimp only
  repeat' first
    | with_reducible assumption | intro _ | with_reducible apply keeps_whenAwake | with_reducible apply keeps_at
    | with_reducible apply keeps_takeRelease | with_reducible apply keeps_settle | with_reducible apply Keeps.ite | with_reducible apply Keeps.foldl
    | split | simp only [Keeps.upd]

theorem keeps_execPartialInputTimeout {org s : State} (hz : Keeps org s) (n : Fin 32) (t : Nat) : ∃ u, execPartialInputTimeout n t s = .next u ∧ Keeps org u := by
  unfold execPartialInputTimeout
  refine ⟨_, rfl, ?_⟩
  try dsimp only
  repeat' first
    | with_reducible assumption | intro _ | with_reducible apply keeps_whenAwake | with_reducible apply keeps_at
    | with_reducible apply keeps_partialTimeout | with_reducible apply Keeps.ite | with_reducible apply Keeps.foldl | split | simp only [Keeps.upd]

theorem keeps_execWeightPrefetch {org s : State} (hz : Keeps org s) (n : Fin 32) (k : Fin 4096) : ∃ u, execWeightPrefetch n k s = .next u ∧ Keeps org u := by
  unfold execWeightPrefetch
  refine ⟨_, rfl, ?_⟩
  try dsimp only
  repeat' first
    | with_reducible assumption | intro _ | with_reducible apply keeps_whenAwake | with_reducible apply keeps_prefetch
    | with_reducible apply keeps_settle | with_reducible apply Keeps.ite | with_reducible apply Keeps.foldl | split | simp only [Keeps.upd]

theorem keeps_execWeightRaise {org s : State} (hz : Keeps org s) (n : Fin 32) (t : Nat) : ∃ u, execWeightRaise n t s = .next u ∧ Keeps org u := by
  unfold execWeightRaise
  refine ⟨_, rfl, ?_⟩
  try dsimp only
  repeat' first
    | with_reducible assumption | intro _ | with_reducible apply keeps_whenAwake | with_reducible apply keeps_at
    | with_reducible apply keeps_raiseWeights | with_reducible apply keeps_settle | with_reducible apply Keeps.ite | with_reducible apply Keeps.foldl
    | split | simp only [Keeps.upd]

theorem keeps_execInvocationDone {org s : State} (hz : Keeps org s) (n : Fin 32) (t : Nat) : ∃ u, execInvocationDone n t s = .next u ∧ Keeps org u := by
  unfold execInvocationDone
  refine ⟨_, rfl, ?_⟩
  try dsimp only
  repeat' first
    | with_reducible assumption | intro _ | with_reducible apply keeps_whenAwake | with_reducible apply keeps_at | with_reducible apply keeps_invDone
    | with_reducible apply Keeps.ite | with_reducible apply Keeps.foldl | split | simp only [Keeps.upd]

theorem keeps_execInvocationFail {org s : State} (hz : Keeps org s) (n : Fin 32) (t : Nat) : ∃ u, execInvocationFail n t s = .next u ∧ Keeps org u := by
  unfold execInvocationFail
  refine ⟨_, rfl, ?_⟩
  try dsimp only
  repeat' first
    | with_reducible assumption | intro _ | with_reducible apply keeps_whenAwake | with_reducible apply keeps_at | with_reducible apply keeps_invFails
    | with_reducible apply Keeps.ite | with_reducible apply Keeps.foldl | split | simp only [Keeps.upd]

end Sys2Proof.Machine
end

