-- ==== Sys2Proof/Laws/KeepsCfgOps.lean ====
section
/-! SUPPORT. What the definitions of Machine/CfgOps.lean keep: the queue, the canonical form of the tables, what has left the device, the free
values taken, the OTP (`Keeps`). -/
namespace Sys2Proof.Machine

theorem keeps_holdPins {org s : State} (hz : Keeps org s) (net : List (List Byte)) (store : List (List Byte × List Byte)) (pins : List (List Byte)) : Keeps org (State.holdPins s net store pins) := by
  unfold State.holdPins
  try dsimp only
  repeat' first
    | with_reducible assumption | intro _ | with_reducible apply keeps_hold | with_reducible apply keeps_store | with_reducible apply Keeps.ite
    | with_reducible apply Keeps.foldl | with_reducible apply Keeps.foldlFst | with_reducible apply Keeps.foldlSnd | with_reducible apply Keeps.iteFst
    | with_reducible apply Keeps.iteSnd | split | simp only [Keeps.upd]

theorem keeps_dropPin {org s : State} (hz : Keeps org s) (net : List (List Byte)) (store : List (List Byte × List Byte)) (p : List Byte) : Keeps org (State.dropPin s net store p) := by
  unfold State.dropPin
  try dsimp only
  repeat' first
    | with_reducible assumption | intro _ | with_reducible apply keeps_store | with_reducible apply keeps_noteDecision
    | with_reducible apply Keeps.ite | with_reducible apply Keeps.foldl | with_reducible refine Keeps.ofSnd (by assumption) ?_
    | with_reducible refine Keeps.ofFst (by assumption) ?_ | split | simp only [Keeps.upd]

theorem keeps_pinSubsystem {org s : State} (hz : Keeps org s) (p : List Byte) : Keeps org (State.pinSubsystem s p) := by
  unfold State.pinSubsystem
  try dsimp only
  repeat' first
    | with_reducible assumption | intro _ | with_reducible apply keeps_setObj | with_reducible apply keeps_placeRegs | with_reducible apply Keeps.ite
    | with_reducible apply Keeps.foldl | with_reducible refine Keeps.ofSnd (by assumption) ?_ | with_reducible refine Keeps.ofFst (by assumption) ?_
    | split | simp only [Keeps.upd]

theorem keeps_unplace {org s : State} (hz : Keeps org s) : Keeps org (State.unplace s) := by
  unfold State.unplace
  try dsimp only
  repeat' first
    | with_reducible assumption | intro _ | with_reducible apply keeps_freeUnit | with_reducible apply keeps_freeObj
    | with_reducible apply keeps_setSport | with_reducible apply keeps_setSpair | with_reducible apply keeps_setStream
    | with_reducible apply keeps_setUnitState | with_reducible apply Keeps.ite | with_reducible apply Keeps.foldl | with_reducible apply Keeps.iteFst
    | with_reducible apply Keeps.iteSnd | with_reducible refine Keeps.ofSnd (by assumption) ?_ | with_reducible refine Keeps.ofFst (by assumption) ?_
    | split | simp only [Keeps.upd]

theorem keeps_shoreLoad {org s : State} (hz : Keeps org s) : Keeps org (State.shoreLoad s) := by
  unfold State.shoreLoad
  try dsimp only
  repeat' first
    | with_reducible assumption | intro _ | with_reducible apply keeps_ensureSlots | with_reducible apply keeps_ensurePair
    | with_reducible apply keeps_ensureStream | with_reducible apply Keeps.ite | with_reducible apply Keeps.foldl | split | simp only [Keeps.upd]

theorem keeps_loadUnits {org s : State} (hz : Keeps org s) (net : List (List Byte)) (store : List (List Byte × List Byte)) (pins : List (List Byte)) (plans : List UnitPlan) (decided : Bool) : Keeps org (State.loadUnits s net store pins plans decided) := by
  unfold State.loadUnits
  try dsimp only
  repeat' first
    | with_reducible assumption | intro _ | with_reducible apply keeps_loadUnit | with_reducible apply keeps_store
    | with_reducible apply keeps_holdPins | with_reducible apply keeps_hold | with_reducible apply keeps_setCause | with_reducible apply Keeps.ite
    | with_reducible apply Keeps.foldl | with_reducible apply Keeps.iteFst | with_reducible apply Keeps.iteSnd | split | simp only [Keeps.upd]

theorem keeps_loadAll {org s : State} (hz : Keeps org s) (store : List (List Byte × List Byte)) (plans : List UnitPlan) (live : List Byte) : Keeps org (State.loadAll s store plans live) := by
  unfold State.loadAll
  try dsimp only
  repeat' first
    | with_reducible assumption | intro _ | with_reducible apply keeps_unplace | with_reducible apply keeps_calLoad
    | with_reducible apply keeps_shoreLoad | with_reducible apply keeps_gsolLoad | with_reducible apply keeps_reefLoad
    | with_reducible apply keeps_allocSystem | with_reducible apply keeps_store | with_reducible apply keeps_pinSubsystem
    | with_reducible apply keeps_dropPin | with_reducible apply keeps_setCause | with_reducible apply keeps_loadUnits
    | with_reducible apply keeps_settle | with_reducible apply Keeps.ite | with_reducible apply Keeps.foldl | with_reducible apply Keeps.foldlFst
    | with_reducible apply Keeps.foldlSnd | with_reducible apply Keeps.iteFst | with_reducible apply Keeps.iteSnd
    | with_reducible refine Keeps.ofSnd (by assumption) ?_ | with_reducible refine Keeps.ofFst (by assumption) ?_ | split | simp only [Keeps.upd]

theorem keeps_activate {org s : State} (hz : Keeps org s) (i : Image) (slot : Nat) : Keeps org (State.activate s i slot) := by
  unfold State.activate
  try dsimp only
  repeat' first
    | with_reducible assumption | intro _ | with_reducible apply keeps_setReg | with_reducible apply keeps_setFld | with_reducible apply keeps_secRegs
    | with_reducible apply keeps_applyRegs | with_reducible apply keeps_inForce | with_reducible apply Keeps.ite | with_reducible apply Keeps.foldl
    | split | simp only [Keeps.upd]

theorem keeps_shadowRegs {org s : State} (hz : Keeps org s) (st : Nat) (reason : Nat) (slot : Nat) (seq : Nat) : Keeps org (State.shadowRegs s st reason slot seq) := by
  unfold State.shadowRegs
  try dsimp only
  repeat' first
    | with_reducible assumption | intro _ | with_reducible apply keeps_setReg | with_reducible apply Keeps.ite | with_reducible apply Keeps.foldl
    | split | simp only [Keeps.upd]

theorem keeps_dropShadow {org s : State} (hz : Keeps org s) : Keeps org (State.dropShadow s) := by
  unfold State.dropShadow
  try dsimp only
  repeat' first
    | with_reducible assumption | intro _ | with_reducible apply keeps_shadowRegs | with_reducible apply Keeps.ite | with_reducible apply Keeps.foldl
    | split | simp only [Keeps.upd]

theorem keeps_stageAsk {org s : State} (hz : Keeps org s) : Keeps org (State.stageAsk s) := by
  unfold State.stageAsk
  try dsimp only
  repeat' first
    | with_reducible assumption | intro _ | with_reducible apply keeps_askHead | with_reducible apply keeps_stage | with_reducible apply Keeps.ite
    | with_reducible apply Keeps.foldl | with_reducible refine Keeps.ofSnd (by assumption) ?_ | with_reducible refine Keeps.ofFst (by assumption) ?_
    | split | simp only [Keeps.upd]

theorem keeps_stagePart {org s : State} (hz : Keeps org s) (r : Option (List Byte)) : Keeps org (State.stagePart s r) := by
  unfold State.stagePart
  try dsimp only
  repeat' first
    | with_reducible assumption | intro _ | with_reducible apply keeps_stageAsk | with_reducible apply Keeps.ite | with_reducible apply Keeps.foldl
    | split | simp only [Keeps.upd]

theorem keeps_stageStart {org s : State} (hz : Keeps org s) (m : Master) (block : List Byte) : Keeps org (State.stageStart s m block) := by
  unfold State.stageStart
  try dsimp only
  repeat' first
    | with_reducible assumption | intro _ | with_reducible apply keeps_dropShadow | with_reducible apply keeps_shadowRegs
    | with_reducible apply keeps_emit | with_reducible apply keeps_forget | with_reducible apply keeps_stage | with_reducible apply keeps_stageAsk
    | with_reducible apply Keeps.ite | with_reducible apply Keeps.foldl | with_reducible apply Keeps.iteFst | with_reducible apply Keeps.iteSnd
    | with_reducible refine Keeps.ofSnd (by assumption) ?_ | with_reducible refine Keeps.ofFst (by assumption) ?_ | split | simp only [Keeps.upd]

theorem keeps_stageFail {org s : State} (hz : Keeps org s) (m : Master) (slot : Nat) (reason : Nat) : Keeps org (State.stageFail s m slot reason) := by
  unfold State.stageFail
  try dsimp only
  repeat' first
    | with_reducible assumption | intro _ | with_reducible apply keeps_inc | with_reducible apply keeps_shadowRegs
    | with_reducible apply keeps_finishCmd | with_reducible apply Keeps.ite | with_reducible apply Keeps.foldl | split | simp only [Keeps.upd]

theorem keeps_stageShow {org s : State} (hz : Keeps org s) (im : Image) (plans : List UnitPlan) : Keeps org (State.stageShow s im plans) := by
  unfold State.stageShow
  try dsimp only
  repeat' first
    | with_reducible assumption | intro _ | with_reducible apply keeps_showAchievable | with_reducible apply Keeps.ite
    | with_reducible apply Keeps.foldl | split | simp only [Keeps.upd]

theorem keeps_stageFinish {org s : State} (hz : Keeps org s) : Keeps org (State.stageFinish s) := by
  unfold State.stageFinish
  try dsimp only
  repeat' first
    | with_reducible assumption | intro _ | with_reducible apply keeps_stageShow | with_reducible apply keeps_stageFail
    | with_reducible apply keeps_norErase | with_reducible apply keeps_norProgram | with_reducible apply keeps_shadowRegs
    | with_reducible apply keeps_finishCmd | with_reducible apply Keeps.ite | with_reducible apply Keeps.foldl
    | with_reducible refine Keeps.ofSnd (by assumption) ?_ | with_reducible refine Keeps.ofFst (by assumption) ?_ | split | simp only [Keeps.upd]

theorem keeps_stageWrite {org s : State} (hz : Keeps org s) (l : List ((List Byte × Nat × Nat) × Option (List Byte))) :
    Keeps org (s.stageWrite l).2 := by
  induction l generalizing s with
  | nil => exact hz
  | cons e r ih =>
    obtain ⟨p, b⟩ := e
    cases b with
    | none => exact hz
    | some b =>
      unfold State.stageWrite
      exact Keeps.iteSnd hz (ih (keeps_writePayload hz _ _))

theorem keeps_stageRead {org s : State} (hz : Keeps org s) (image : Option (List Byte)) (data : List (Option (List Byte))) (norOk : Bool) (plans : List UnitPlan) : Keeps org (State.stageRead s image data norOk plans) := by
  unfold State.stageRead
  try dsimp only
  repeat' first
    | with_reducible assumption | intro _ | with_reducible apply keeps_stageFail | with_reducible apply keeps_verifyImage
    | with_reducible apply keeps_stageWrite | with_reducible apply keeps_closeOpen | with_reducible apply keeps_stageFinish
    | with_reducible apply Keeps.ite | with_reducible apply Keeps.foldl | with_reducible apply Keeps.iteFst | with_reducible apply Keeps.iteSnd
    | with_reducible refine Keeps.ofSnd (by assumption) ?_ | with_reducible refine Keeps.ofFst (by assumption) ?_ | split | simp only [Keeps.upd]

theorem keeps_stageAbort {org s : State} (hz : Keeps org s) : Keeps org (State.stageAbort s) := by
  unfold State.stageAbort
  try dsimp only
  repeat' first
    | with_reducible assumption | intro _ | with_reducible apply keeps_shadowRegs | with_reducible apply Keeps.ite | with_reducible apply Keeps.foldl
    | with_reducible refine Keeps.ofSnd (by assumption) ?_ | with_reducible refine Keeps.ofFst (by assumption) ?_ | split | simp only [Keeps.upd]

theorem keeps_markPin {org s : State} (hz : Keeps org s) (id : Nat) (p : Option Pin) : Keeps org (State.markPin s id p) := by
  unfold State.markPin
  try dsimp only
  repeat' first
    | with_reducible assumption | intro _ | with_reducible apply keeps_setObj | with_reducible apply keeps_requestMove
    | with_reducible apply Keeps.ite | with_reducible apply Keeps.foldl | with_reducible refine Keeps.ofSnd (by assumption) ?_
    | with_reducible refine Keeps.ofFst (by assumption) ?_ | split | simp only [Keeps.upd]

theorem keeps_repin {org s : State} (hz : Keeps org s) (pins : List (List Byte)) : Keeps org (State.repin s pins) := by
  unfold State.repin
  try dsimp only
  repeat' first
    | with_reducible assumption | intro _ | with_reducible apply keeps_markPin | with_reducible apply Keeps.ite | with_reducible apply Keeps.foldl
    | with_reducible apply Keeps.iteFst | with_reducible apply Keeps.iteSnd | with_reducible refine Keeps.ofSnd (by assumption) ?_
    | with_reducible refine Keeps.ofFst (by assumption) ?_ | split | simp only [Keeps.upd]

theorem keeps_repinSubsystems {org s : State} (hz : Keeps org s) (pins : List (List Byte)) : Keeps org (State.repinSubsystems s pins) := by
  unfold State.repinSubsystems
  try dsimp only
  repeat' first
    | with_reducible assumption | intro _ | with_reducible apply keeps_setObj | with_reducible apply Keeps.ite | with_reducible apply Keeps.foldl
    | with_reducible apply Keeps.iteFst | with_reducible apply Keeps.iteSnd | split | simp only [Keeps.upd]

theorem keeps_newEntry {org s : State} (hz : Keeps org s) (n : Nat) (ent : List Byte) : Keeps org (State.newEntry s n ent) := by
  unfold State.newEntry
  try dsimp only
  repeat' first
    | with_reducible assumption | intro _ | with_reducible apply keeps_setNslot | with_reducible apply keeps_setFld
    | with_reducible apply keeps_setReg | with_reducible apply keeps_setUnitState | with_reducible apply Keeps.ite | with_reducible apply Keeps.foldl
    | with_reducible apply Keeps.iteFst | with_reducible apply Keeps.iteSnd | with_reducible refine Keeps.ofSnd (by assumption) ?_
    | with_reducible refine Keeps.ofFst (by assumption) ?_ | split | simp only [Keeps.upd]

theorem keeps_swapSlot {org s : State} (hz : Keeps org s) (net : List (List Byte)) (plans : List UnitPlan) (n : Nat) : Keeps org (State.swapSlot s net plans n) := by
  unfold State.swapSlot
  try dsimp only
  repeat' first
    | with_reducible assumption | intro _ | with_reducible apply keeps_newEntry | with_reducible apply keeps_setUnitState
    | with_reducible apply keeps_setNslot | with_reducible apply keeps_freeUnit | with_reducible apply Keeps.ite | with_reducible apply Keeps.foldl
    | with_reducible refine Keeps.ofSnd (by assumption) ?_ | with_reducible refine Keeps.ofFst (by assumption) ?_ | split | simp only [Keeps.upd]

theorem keeps_swapSets {org s : State} (hz : Keeps org s) : Keeps org (State.swapSets s) := by
  unfold State.swapSets
  try dsimp only
  repeat' first
    | with_reducible assumption | intro _ | with_reducible apply keeps_activate | with_reducible apply keeps_shadowRegs
    | with_reducible apply keeps_inc | with_reducible apply keeps_swapSlot | with_reducible apply keeps_repin
    | with_reducible apply keeps_repinSubsystems | with_reducible apply keeps_setCause | with_reducible apply keeps_loadUnits
    | with_reducible apply keeps_settle | with_reducible apply Keeps.ite | with_reducible apply Keeps.foldl
    | with_reducible refine Keeps.ofSnd (by assumption) ?_ | with_reducible refine Keeps.ofFst (by assumption) ?_ | split | simp only [Keeps.upd]
    | simp only [Keeps.updSec]

end Sys2Proof.Machine
end

