-- ==== Sys2Proof/Laws/KeepsModes.lean ====
section
/-! SUPPORT. What the definitions of Machine/Modes.lean keep: the queue, the canonical form of the tables, what has left the device, the free
values taken, the OTP (`Keeps`). -/
namespace Sys2Proof.Machine

theorem keeps_domains {org s : State} (hz : Keeps org s) : Keeps org (State.domains s) := by
  unfold State.domains
  try dsimp only
  repeat' first
    | with_reducible assumption | intro _ | with_reducible apply keeps_setReg | with_reducible apply Keeps.ite | with_reducible apply Keeps.foldl
    | with_reducible refine Keeps.ofSnd (by assumption) ?_ | with_reducible refine Keeps.ofFst (by assumption) ?_ | split | simp only [Keeps.upd]

theorem keeps_goTo {org s : State} (hz : Keeps org s) (x : DState) (t : Nat) : Keeps org (State.goTo s x t) := by
  unfold State.goTo
  try dsimp only
  repeat' first
    | with_reducible assumption | intro _ | with_reducible apply keeps_setState | with_reducible apply keeps_shoreCheck
    | with_reducible apply keeps_enter | with_reducible apply keeps_setReg | with_reducible apply keeps_domains | with_reducible apply Keeps.ite
    | with_reducible apply Keeps.foldl | with_reducible refine Keeps.ofSnd (by assumption) ?_ | with_reducible refine Keeps.ofFst (by assumption) ?_
    | split | simp only [Keeps.upd]

theorem keeps_endInv {org s : State} (hz : Keeps org s) (n : Nat) (t : Nat) : Keeps org (State.endInv s n t) := by
  unfold State.endInv
  try dsimp only
  repeat' first
    | with_reducible assumption | intro _ | with_reducible apply keeps_dropIslets | with_reducible apply keeps_markOutputs
    | with_reducible apply keeps_setNslot | with_reducible apply keeps_putInvRecord | with_reducible apply keeps_succeed
    | with_reducible apply Keeps.ite | with_reducible apply Keeps.foldl | with_reducible refine Keeps.ofSnd (by assumption) ?_
    | with_reducible refine Keeps.ofFst (by assumption) ?_ | split | simp only [Keeps.upd]

theorem keeps_stopWork {org s : State} (hz : Keeps org s) (t : Nat) : Keeps org (State.stopWork s t) := by
  unfold State.stopWork
  try dsimp only
  repeat' first
    | with_reducible assumption | intro _ | with_reducible apply keeps_endInv | with_reducible apply keeps_shoreStop
    | with_reducible apply keeps_gsolRegs | with_reducible apply keeps_reefSync | with_reducible apply keeps_closeOpen
    | with_reducible apply keeps_domains | with_reducible apply Keeps.ite | with_reducible apply Keeps.foldl | split | simp only [Keeps.upd]

theorem keeps_addJob {org s : State} (hz : Keeps org s) (m : Master) (j : Job) : Keeps org (State.addJob s m j) := by
  unfold State.addJob
  try dsimp only
  repeat' first
    | with_reducible assumption | intro _ | with_reducible apply Keeps.ite | with_reducible apply Keeps.foldl | split | simp only [Keeps.upd]

theorem keeps_setJob {org s : State} (hz : Keeps org s) (m : Master) (j : Job) : Keeps org (State.setJob s m j) := by
  unfold State.setJob
  try dsimp only
  repeat' first
    | with_reducible assumption | intro _ | with_reducible apply Keeps.ite | with_reducible apply Keeps.foldl | split | simp only [Keeps.upd]

theorem keeps_haltTry {org s : State} (hz : Keeps org s) : Keeps org (State.haltTry s) := by
  unfold State.haltTry
  try dsimp only
  repeat' first
    | with_reducible assumption | intro _ | with_reducible apply keeps_finishCmd | with_reducible apply keeps_enter
    | with_reducible apply keeps_domains | with_reducible apply Keeps.ite | with_reducible apply Keeps.foldl
    | with_reducible refine Keeps.ofSnd (by assumption) ?_ | with_reducible refine Keeps.ofFst (by assumption) ?_ | split | simp only [Keeps.upd]

theorem keeps_haltStart {org s : State} (hz : Keeps org s) (t : Nat) : Keeps org (State.haltStart s t) := by
  unfold State.haltStart
  try dsimp only
  repeat' first
    | with_reducible assumption | intro _ | with_reducible apply keeps_stopWork | with_reducible apply keeps_haltTry | with_reducible apply Keeps.ite
    | with_reducible apply Keeps.foldl | split | simp only [Keeps.upd]

theorem keeps_watchObject {org s : State} (hz : Keeps org s) (id : Nat) : Keeps org (State.watchObject s id) := by
  unfold State.watchObject
  try dsimp only
  repeat' first
    | with_reducible assumption | intro _ | with_reducible apply keeps_setObj | with_reducible apply keeps_freeObj | with_reducible apply Keeps.ite
    | with_reducible apply Keeps.foldl | with_reducible refine Keeps.ofSnd (by assumption) ?_ | with_reducible refine Keeps.ofFst (by assumption) ?_
    | split | simp only [Keeps.upd]

theorem keeps_watchEnter {org s : State} (hz : Keeps org s) (t : Nat) : Keeps org (State.watchEnter s t) := by
  unfold State.watchEnter
  try dsimp only
  repeat' first
    | with_reducible assumption | intro _ | with_reducible apply keeps_endInv | with_reducible apply keeps_watchObject
    | with_reducible apply keeps_resetState | with_reducible apply keeps_setFld | with_reducible apply keeps_enter
    | with_reducible apply keeps_shoreCheck | with_reducible apply keeps_placeRegs | with_reducible apply keeps_domains
    | with_reducible apply Keeps.ite | with_reducible apply Keeps.foldl | with_reducible refine Keeps.ofSnd (by assumption) ?_
    | with_reducible refine Keeps.ofFst (by assumption) ?_ | split | simp only [Keeps.upd]

theorem keeps_remakeUnit {org s : State} (hz : Keeps org s) (n : Nat) : Keeps org (State.remakeUnit s n) := by
  unfold State.remakeUnit
  try dsimp only
  repeat' first
    | with_reducible assumption | intro _ | with_reducible apply keeps_freeObj | with_reducible apply keeps_allocMutable
    | with_reducible apply keeps_setNslot | with_reducible apply keeps_setReg64 | with_reducible apply Keeps.ite | with_reducible apply Keeps.foldl
    | with_reducible apply Keeps.iteFst | with_reducible apply Keeps.iteSnd | with_reducible refine Keeps.ofSnd (by assumption) ?_
    | with_reducible refine Keeps.ofFst (by assumption) ?_ | split | simp only [Keeps.upd]

theorem keeps_watchRestore {org s : State} (hz : Keeps org s) : Keeps org (State.watchRestore s) := by
  unfold State.watchRestore
  try dsimp only
  repeat' first
    | with_reducible assumption | intro _ | with_reducible apply keeps_freeSlot | with_reducible apply keeps_freeObj
    | with_reducible apply keeps_setSport | with_reducible apply keeps_setSpair | with_reducible apply keeps_setStream
    | with_reducible apply keeps_gsolLoad | with_reducible apply keeps_reefLoad | with_reducible apply keeps_remakeUnit
    | with_reducible apply keeps_setMapState | with_reducible apply keeps_placeRegs | with_reducible apply Keeps.ite
    | with_reducible apply Keeps.foldl | with_reducible refine Keeps.ofSnd (by assumption) ?_ | with_reducible refine Keeps.ofFst (by assumption) ?_
    | split | simp only [Keeps.upd]

theorem keeps_leaveTo {org s : State} (hz : Keeps org s) (x : DState) (t : Nat) : Keeps org (State.leaveTo s x t) := by
  unfold State.leaveTo
  try dsimp only
  repeat' first
    | with_reducible assumption | intro _ | with_reducible apply keeps_watchRestore | with_reducible apply keeps_goTo
    | with_reducible apply keeps_retryAll | with_reducible apply Keeps.ite | with_reducible apply Keeps.foldl | split | simp only [Keeps.upd]

theorem keeps_sleepEnter {org s : State} (hz : Keeps org s) : Keeps org (State.sleepEnter s) := by
  unfold State.sleepEnter
  try dsimp only
  repeat' first
    | with_reducible assumption | intro _ | with_reducible apply keeps_timeSleep | with_reducible apply keeps_enter
    | with_reducible apply keeps_setReg | with_reducible apply keeps_domains | with_reducible apply keeps_tick | with_reducible apply Keeps.ite
    | with_reducible apply Keeps.foldl | split | simp only [Keeps.upd]

theorem keeps_sleepLost {org s : State} (hz : Keeps org s) : Keeps org s.sleepLost := by
  unfold State.sleepLost
  exact Keeps.upd.2 (keeps_memNil (keeps_csrFilter hz _))

theorem keeps_levelsNow {org s : State} (hz : Keeps org s) : Keeps org (State.levelsNow s) := by
  unfold State.levelsNow
  try dsimp only
  repeat' first
    | with_reducible assumption | intro _ | with_reducible apply keeps_setLevel | with_reducible apply Keeps.ite | with_reducible apply Keeps.foldl
    | with_reducible apply Keeps.foldlFst | with_reducible apply Keeps.foldlSnd | with_reducible apply Keeps.iteFst
    | with_reducible apply Keeps.iteSnd | split | simp only [Keeps.upd]

theorem keeps_noteWake {org s : State} (hz : Keeps org s) (bits : Nat) : Keeps org (State.noteWake s bits) := by
  unfold State.noteWake
  try dsimp only
  repeat' first
    | with_reducible assumption | intro _ | with_reducible apply keeps_setReg | with_reducible apply keeps_inc | with_reducible apply keeps_raise
    | with_reducible apply Keeps.ite | with_reducible apply Keeps.foldl | split | simp only [Keeps.upd]

theorem keeps_resume {org s : State} (hz : Keeps org s) (restOk : Bool) (plans : List UnitPlan) (bits : Nat) (t : Nat) : Keeps org (State.resume s restOk plans bits t) := by
  unfold State.resume
  try dsimp only
  repeat' first
    | with_reducible assumption | intro _ | with_reducible apply keeps_store | with_reducible apply keeps_sleepLost
    | with_reducible apply keeps_setState | with_reducible apply keeps_timeWake | with_reducible apply keeps_dropShadow
    | with_reducible apply keeps_inForce | with_reducible apply keeps_setMapState | with_reducible apply keeps_loadAll
    | with_reducible apply keeps_setFld | with_reducible apply keeps_setReg | with_reducible apply keeps_levelsNow
    | with_reducible apply keeps_noteWake | with_reducible apply keeps_goTo | with_reducible apply Keeps.ite | with_reducible apply Keeps.foldl
    | split | simp only [Keeps.upd] | simp only [Keeps.updSec]

theorem keeps_shedStart {org s : State} (hz : Keeps org s) (us : Nat) : Keeps org (State.shedStart s us) := by
  unfold State.shedStart
  try dsimp only
  repeat' first
    | with_reducible assumption | intro _ | with_reducible apply keeps_inc | with_reducible apply keeps_setReg | with_reducible apply Keeps.ite
    | with_reducible apply Keeps.foldl | with_reducible refine Keeps.ofSnd (by assumption) ?_ | with_reducible refine Keeps.ofFst (by assumption) ?_
    | split | simp only [Keeps.upd]

end Sys2Proof.Machine
end

