-- ==== Sys2Proof/Laws/KeepsJobs.lean ====
section
/-! SUPPORT. What the definitions of Machine/Jobs.lean keep: the queue, the canonical form of the tables, what has left the device, the free
values taken, the OTP (`Keeps`). -/
namespace Sys2Proof.Machine

theorem keeps_mapFill {org s : State} (hz : Keeps org s) : Keeps org (State.mapFill s) := by
  unfold State.mapFill
  try dsimp only
  repeat' first
    | with_reducible assumption | intro _ | with_reducible apply keeps_gsolMount | with_reducible apply keeps_reefMount
    | with_reducible apply Keeps.ite | with_reducible apply Keeps.foldl | split | simp only [Keeps.upd]

theorem keeps_recoverExit {org s : State} (hz : Keeps org s) (t : Nat) : Keeps org (State.recoverExit s t) := by
  unfold State.recoverExit
  try dsimp only
  repeat' first
    | with_reducible assumption | intro _ | with_reducible apply keeps_finishCmd | with_reducible apply keeps_goTo | with_reducible apply Keeps.ite
    | with_reducible apply Keeps.foldl | with_reducible refine Keeps.ofSnd (by assumption) ?_ | with_reducible refine Keeps.ofFst (by assumption) ?_
    | split | simp only [Keeps.upd]

theorem keeps_startExit {org s : State} (hz : Keeps org s) (t : Nat) : Keeps org (State.startExit s t) := by
  unfold State.startExit
  try dsimp only
  repeat' first
    | with_reducible assumption | intro _ | with_reducible apply keeps_goTo | with_reducible apply keeps_recoverExit | with_reducible apply Keeps.ite
    | with_reducible apply Keeps.foldl | with_reducible refine Keeps.ofSnd (by assumption) ?_ | with_reducible refine Keeps.ofFst (by assumption) ?_
    | split | simp only [Keeps.upd]

theorem keeps_forceFormat {org s : State} (hz : Keeps org s) : Keeps org (State.forceFormat s).2 := by
  unfold State.forceFormat
  try dsimp only
  repeat' first
    | with_reducible assumption | intro _ | with_reducible apply keeps_mapOff | with_reducible apply keeps_setFld | with_reducible apply keeps_setReg
    | with_reducible apply keeps_checkChannels | with_reducible apply keeps_format | with_reducible apply keeps_endMount
    | with_reducible apply Keeps.ite | with_reducible apply Keeps.foldl | with_reducible apply Keeps.iteFst | with_reducible apply Keeps.iteSnd
    | split | simp only [Keeps.upd]

theorem keeps_doLoad {org s : State} (hz : Keeps org s) (plans : List UnitPlan) (bad : List Nat) : Keeps org (State.doLoad s plans bad) := by
  unfold State.doLoad
  try dsimp only
  repeat' first
    | with_reducible assumption | intro _ | with_reducible apply keeps_store | with_reducible apply keeps_mountMap
    | with_reducible apply keeps_loadAll | with_reducible apply keeps_setFld | with_reducible apply Keeps.ite | with_reducible apply Keeps.foldl
    | with_reducible apply Keeps.iteFst | with_reducible apply Keeps.iteSnd | split | simp only [Keeps.upd]

theorem keeps_doMount {org s : State} (hz : Keeps org s) (bad : List Nat) (format : Bool) (t : Nat) : Keeps org (State.doMount s bad format t) := by
  unfold State.doMount
  try dsimp only
  repeat' first
    | with_reducible assumption | intro _ | with_reducible apply keeps_format | with_reducible apply keeps_forceFormat
    | with_reducible apply keeps_mountMap | with_reducible apply keeps_startExit | with_reducible apply Keeps.ite | with_reducible apply Keeps.foldl
    | with_reducible apply Keeps.iteFst | with_reducible apply Keeps.iteSnd | split | simp only [Keeps.upd]

theorem keeps_mountRow {org s : State} (hz : Keeps org s) (plans : List UnitPlan) (bad : List Nat) (t : Nat) : Keeps org (State.mountRow s plans bad t) := by
  unfold State.mountRow
  try dsimp only
  repeat' first
    | with_reducible assumption | intro _ | with_reducible apply keeps_doLoad | with_reducible apply keeps_enter | with_reducible apply keeps_doMount
    | with_reducible apply Keeps.ite | with_reducible apply Keeps.foldl | with_reducible refine Keeps.ofSnd (by assumption) ?_
    | with_reducible refine Keeps.ofFst (by assumption) ?_ | split | simp only [Keeps.upd]

theorem keeps_parkTry {org s : State} (hz : Keeps org s) (m : Master) (sleep : Bool) (cal : Bool) (t : Nat) : Keeps org (State.parkTry s m sleep cal t) := by
  unfold State.parkTry
  try dsimp only
  repeat' first
    | with_reducible assumption | intro _ | with_reducible apply keeps_seal | with_reducible apply keeps_calStart | with_reducible apply keeps_setJob
    | with_reducible apply keeps_finishCmd | with_reducible apply keeps_sleepEnter | with_reducible apply keeps_watchEnter
    | with_reducible apply Keeps.ite | with_reducible apply Keeps.foldl | with_reducible apply Keeps.iteFst | with_reducible apply Keeps.iteSnd
    | split | simp only [Keeps.upd]

theorem keeps_parkStart {org s : State} (hz : Keeps org s) (m : Master) (sleep : Bool) (t : Nat) : Keeps org (State.parkStart s m sleep t) := by
  unfold State.parkStart
  try dsimp only
  repeat' first
    | with_reducible assumption | intro _ | with_reducible apply keeps_addJob | with_reducible apply keeps_parkTry | with_reducible apply Keeps.ite
    | with_reducible apply Keeps.foldl | split | simp only [Keeps.upd]

theorem keeps_recoverBody {org s : State} (hz : Keeps org s) (flags : Nat) : Keeps org (State.recoverBody s flags) := by
  unfold State.recoverBody
  try dsimp only
  repeat' first
    | with_reducible assumption | intro _ | with_reducible apply keeps_resetState | with_reducible apply keeps_resetEst
    | with_reducible apply keeps_bootImage | with_reducible apply keeps_activate | with_reducible apply keeps_dropShadow
    | with_reducible apply keeps_retrain | with_reducible apply Keeps.ite | with_reducible apply Keeps.foldl | with_reducible apply Keeps.iteFst
    | with_reducible apply Keeps.iteSnd | with_reducible refine Keeps.ofSnd (by assumption) ?_ | with_reducible refine Keeps.ofFst (by assumption) ?_
    | split | simp only [Keeps.upd] | simp only [Keeps.updSec]

theorem keeps_recoverEnum {org s : State} (hz : Keeps org s) (m : Master) (flags : Nat) (t : Nat) : Keeps org (State.recoverEnum s m flags t) := by
  unfold State.recoverEnum
  try dsimp only
  repeat' first
    | with_reducible assumption | intro _ | with_reducible apply keeps_enumStart | with_reducible apply keeps_allocSystem
    | with_reducible apply keeps_store | with_reducible apply keeps_stage | with_reducible apply keeps_sendRequest | with_reducible apply Keeps.ite
    | with_reducible apply Keeps.foldl | with_reducible apply Keeps.iteFst | with_reducible apply Keeps.iteSnd | split | simp only [Keeps.upd]

theorem keeps_recoverTry {org s : State} (hz : Keeps org s) (t : Nat) : Keeps org (State.recoverTry s t) := by
  unfold State.recoverTry
  try dsimp only
  repeat' first
    | with_reducible assumption | intro _ | with_reducible apply keeps_recoverBody | with_reducible apply keeps_recoverEnum
    | with_reducible apply Keeps.ite | with_reducible apply Keeps.foldl | with_reducible apply Keeps.iteFst | with_reducible apply Keeps.iteSnd
    | with_reducible refine Keeps.ofSnd (by assumption) ?_ | with_reducible refine Keeps.ofFst (by assumption) ?_ | split | simp only [Keeps.upd]

theorem keeps_recoverStart {org s : State} (hz : Keeps org s) (m : Master) (flags : Nat) (test : Bool) (t : Nat) : Keeps org (State.recoverStart s m flags test t) := by
  unfold State.recoverStart
  try dsimp only
  repeat' first
    | with_reducible assumption | intro _ | with_reducible apply keeps_stageAbort | with_reducible apply keeps_finishCmd
    | with_reducible apply keeps_retrain | with_reducible apply keeps_addJob | with_reducible apply keeps_enter | with_reducible apply keeps_stopWork
    | with_reducible apply keeps_recoverTry | with_reducible apply Keeps.ite | with_reducible apply Keeps.foldl
    | with_reducible refine Keeps.ofSnd (by assumption) ?_ | with_reducible refine Keeps.ofFst (by assumption) ?_ | split | simp only [Keeps.upd]

theorem keeps_masterWrite {org s : State} (hz : Keeps org s) (m : Master) (addr : Nat) (b : List Byte) : Keeps org (State.masterWrite s m addr b) := by
  unfold State.masterWrite
  try dsimp only
  repeat' first
    | with_reducible assumption | intro _ | with_reducible apply keeps_emit | with_reducible apply keeps_sendRequest | with_reducible apply Keeps.ite
    | with_reducible apply Keeps.foldl | with_reducible apply Keeps.iteFst | with_reducible apply Keeps.iteSnd
    | with_reducible refine Keeps.ofSnd (by assumption) ?_ | with_reducible refine Keeps.ofFst (by assumption) ?_ | split | simp only [Keeps.upd]

theorem keeps_writeEnded {org s : State} (hz : Keeps org s) (m : Master) (kind : Nat) (ok : Bool) : Keeps org (s.writeEnded m kind ok) := by
  unfold State.writeEnded
  dsimp only
  refine Keeps.ite (keeps_finishCmd hz _ _) (keeps_finishCmd (Keeps.ite (keeps_inc hz _) (Keeps.ite (keeps_secRegs ?_) hz)) _ _)
  exact hz.of rfl id (List.prefix_refl _) (Nat.le_refl _) ⟨rfl, rfl, fun _ => id, id, fun _ => rfl⟩

theorem keeps_writeResultTo {org s : State} (hz : Keeps org s) (m : Master) (kind : Nat) (addr : Nat) (b : List Byte) (whole : Bool) : Keeps org (State.writeResultTo s m kind addr b whole) := by
  unfold State.writeResultTo
  try dsimp only
  repeat' first
    | with_reducible assumption | intro _ | with_reducible apply keeps_masterWrite | with_reducible apply keeps_writeEnded
    | with_reducible apply keeps_setJob | with_reducible apply Keeps.ite | with_reducible apply Keeps.foldl
    | with_reducible refine Keeps.ofSnd (by assumption) ?_ | with_reducible refine Keeps.ofFst (by assumption) ?_ | split | simp only [Keeps.upd]

theorem keeps_jobBoundary {org s : State} (hz : Keeps org s) : Keeps org (State.jobBoundary s) := by
  unfold State.jobBoundary
  try dsimp only
  repeat' first
    | with_reducible assumption | intro _ | with_reducible apply keeps_writeResultTo | with_reducible apply Keeps.ite
    | with_reducible apply Keeps.foldl | with_reducible apply Keeps.iteFst | with_reducible apply Keeps.iteSnd
    | with_reducible refine Keeps.ofSnd (by assumption) ?_ | with_reducible refine Keeps.ofFst (by assumption) ?_ | split | simp only [Keeps.upd]

theorem keeps_jobSync {org s : State} (hz : Keeps org s) (t : Nat) : Keeps org (State.jobSync s t) := by
  unfold State.jobSync
  try dsimp only
  repeat' first
    | with_reducible assumption | intro _ | with_reducible apply keeps_haltTry | with_reducible apply keeps_recoverTry
    | with_reducible apply keeps_seal | with_reducible apply keeps_finishCmd | with_reducible apply keeps_parkTry
    | with_reducible apply keeps_stageFinish | with_reducible apply Keeps.ite | with_reducible apply Keeps.foldl | with_reducible apply Keeps.iteFst
    | with_reducible apply Keeps.iteSnd | with_reducible refine Keeps.ofSnd (by assumption) ?_ | with_reducible refine Keeps.ofFst (by assumption) ?_
    | split | simp only [Keeps.upd]

theorem keeps_abortJob {org s : State} (hz : Keeps org s) (m : Master) (j : Job) : Keeps org (State.abortJob s m j) := by
  unfold State.abortJob
  try dsimp only
  repeat' first
    | with_reducible assumption | intro _ | with_reducible apply keeps_stage | with_reducible apply keeps_stageAbort
    | with_reducible apply keeps_finishCmd | with_reducible apply Keeps.ite | with_reducible apply Keeps.foldl
    | with_reducible refine Keeps.ofSnd (by assumption) ?_ | with_reducible refine Keeps.ofFst (by assumption) ?_ | split | simp only [Keeps.upd]

theorem keeps_trip {org s : State} (hz : Keeps org s) (t : Nat) : Keeps org (State.trip s t) := by
  unfold State.trip
  try dsimp only
  repeat' first
    | with_reducible assumption | intro _ | with_reducible apply keeps_abortJob | with_reducible apply keeps_haltStart
    | with_reducible apply Keeps.ite | with_reducible apply Keeps.foldl | with_reducible apply Keeps.iteFst | with_reducible apply Keeps.iteSnd
    | split | simp only [Keeps.upd]

end Sys2Proof.Machine
end

