-- ==== Sys2Proof/Laws/KeepsCommand.lean ====
section
/-! SUPPORT. What the definitions of Machine/Command.lean keep: the queue, the canonical form of the tables, what has left the device, the free
values taken, the OTP (`Keeps`). -/
namespace Sys2Proof.Machine

theorem keeps_issueCmd {org s : State} (hz : Keeps org s) (m : Master) (token : Nat) (op : Nat) : Keeps org (State.issueCmd s m token op) := by
  unfold State.issueCmd
  try dsimp only
  repeat' first
    | with_reducible assumption | intro _ | with_reducible apply keeps_setStatus | with_reducible apply keeps_completionEvent
    | with_reducible apply keeps_setBank | with_reducible apply keeps_emit | with_reducible apply keeps_forget | with_reducible apply keeps_askHead
    | with_reducible apply Keeps.ite | with_reducible apply Keeps.foldl | with_reducible refine Keeps.ofSnd (by assumption) ?_
    | with_reducible refine Keeps.ofFst (by assumption) ?_ | split | simp only [Keeps.upd]

theorem keeps_argRead {org s : State} (hz : Keeps org s) (m : Master) (t : Nat) (block : Option (List Byte)) : Keeps org (State.argRead s m t block) := by
  unfold State.argRead
  try dsimp only
  repeat' first
    | with_reducible assumption | intro _ | with_reducible apply keeps_setBank | with_reducible apply Keeps.ite | with_reducible apply Keeps.foldl
    | with_reducible refine Keeps.ofSnd (by assumption) ?_ | with_reducible refine Keeps.ofFst (by assumption) ?_ | split | simp only [Keeps.upd]

theorem keeps_argPart {org s : State} (hz : Keeps org s) (r : Option (List Byte)) : Keeps org (State.argPart s r) := by
  unfold State.argPart
  try dsimp only
  repeat' first
    | with_reducible assumption | intro _ | with_reducible apply keeps_argRead | with_reducible apply keeps_setBank
    | with_reducible apply keeps_askHead | with_reducible apply Keeps.ite | with_reducible apply Keeps.foldl
    | with_reducible refine Keeps.ofSnd (by assumption) ?_ | with_reducible refine Keeps.ofFst (by assumption) ?_ | split | simp only [Keeps.upd]

theorem keeps_accept {org s : State} (hz : Keeps org s) (m : Master) (c : Cmd) : Keeps org (State.accept s m c) := by
  unfold State.accept
  try dsimp only
  repeat' first
    | with_reducible assumption | intro _ | with_reducible apply keeps_setBank | with_reducible apply keeps_setStatus | with_reducible apply Keeps.ite
    | with_reducible apply Keeps.foldl | split | simp only [Keeps.upd]

theorem keeps_queryCmd {org s : State} (hz : Keeps org s) (m : Master) (c : Cmd) : Keeps org (State.queryCmd s m c).2 := by
  unfold State.queryCmd
  try dsimp only
  repeat' first
    | with_reducible assumption | intro _ | with_reducible apply keeps_accept | with_reducible apply keeps_addJob
    | with_reducible apply keeps_placeQueries | with_reducible apply keeps_finishCmd | with_reducible apply keeps_queryEnded
    | with_reducible apply Keeps.ite | with_reducible apply Keeps.foldl | with_reducible apply Keeps.iteFst | with_reducible apply Keeps.iteSnd
    | with_reducible refine Keeps.ofSnd (by assumption) ?_ | with_reducible refine Keeps.ofFst (by assumption) ?_ | split | simp only [Keeps.upd]

theorem keeps_execute {org s : State} (hz : Keeps org s) (x : DState) (m : Master) (c : Cmd) : Keeps org (State.execute s x m c).2 := by
  unfold State.execute
  try dsimp only
  repeat' first
    | with_reducible assumption | intro _ | with_reducible apply keeps_completeBank | with_reducible apply keeps_seal
    | with_reducible apply keeps_accept | with_reducible apply keeps_addJob | with_reducible apply keeps_calStart
    | with_reducible apply keeps_queryCmd | with_reducible apply Keeps.ite | with_reducible apply Keeps.foldl | with_reducible apply Keeps.iteFst
    | with_reducible apply Keeps.iteSnd | with_reducible refine Keeps.ofSnd (by assumption) ?_ | with_reducible refine Keeps.ofFst (by assumption) ?_
    | split | simp only [Keeps.upd]

theorem keeps_lose {org s : State} (hz : Keeps org s) (m : Master) (st : CStatus) : Keeps org (State.lose s m st) := by
  unfold State.lose
  try dsimp only
  repeat' first
    | with_reducible assumption | intro _ | with_reducible apply keeps_inc | with_reducible apply keeps_completeBank | with_reducible apply Keeps.ite
    | with_reducible apply Keeps.foldl | with_reducible refine Keeps.ofSnd (by assumption) ?_ | with_reducible refine Keeps.ofFst (by assumption) ?_
    | split | simp only [Keeps.upd]

theorem keeps_decideCmd {org s : State} (hz : Keeps org s) (x : DState) (t : Nat) (g : Slot) (m : Master) : Keeps org (State.decideCmd s x t g m).2 := by
  unfold State.decideCmd
  try dsimp only
  repeat' first
    | with_reducible assumption | intro _ | with_reducible apply keeps_setBank | with_reducible apply keeps_setStatus
    | with_reducible apply keeps_completeBank | with_reducible apply keeps_lose | with_reducible apply keeps_execute | with_reducible apply Keeps.ite
    | with_reducible apply Keeps.foldl | with_reducible apply Keeps.iteFst | with_reducible apply Keeps.iteSnd
    | with_reducible refine Keeps.ofSnd (by assumption) ?_ | with_reducible refine Keeps.ofFst (by assumption) ?_ | split | simp only [Keeps.upd]

theorem keeps_pinOrder {org s : State} (hz : Keeps org s) : Keeps org (State.pinOrder s).2 := by
  unfold State.pinOrder
  try dsimp only
  repeat' first
    | with_reducible assumption | intro _ | with_reducible apply keeps_abortJob | with_reducible apply Keeps.ite | with_reducible apply Keeps.foldl
    | with_reducible apply Keeps.iteFst | with_reducible apply Keeps.iteSnd | with_reducible refine Keeps.ofSnd (by assumption) ?_
    | with_reducible refine Keeps.ofFst (by assumption) ?_ | split | simp only [Keeps.upd]

theorem keeps_testEnter {org s : State} (hz : Keeps org s) (t : Nat) : Keeps org (State.testEnter s t) := by
  unfold State.testEnter
  try dsimp only
  repeat' first
    | with_reducible assumption | intro _ | with_reducible apply keeps_goTo | with_reducible apply Keeps.ite | with_reducible apply Keeps.foldl
    | split | simp only [Keeps.upd]

theorem keeps_effect {org s : State} (hz : Keeps org s) (x : DState) (m : Master) (c : Cmd) (t : Nat) : Keeps org (State.effect s x m c t) := by
  unfold State.effect
  try dsimp only
  repeat' first
    | with_reducible assumption | intro _ | with_reducible apply keeps_leaveTo | with_reducible apply keeps_parkStart
    | with_reducible apply keeps_addJob | with_reducible apply keeps_stage | with_reducible apply keeps_stageStart
    | with_reducible apply keeps_recoverStart | with_reducible apply keeps_testEnter | with_reducible apply keeps_haltStart
    | with_reducible apply keeps_condSync | with_reducible apply Keeps.ite | with_reducible apply Keeps.foldl
    | with_reducible refine Keeps.ofSnd (by assumption) ?_ | with_reducible refine Keeps.ofFst (by assumption) ?_ | split | simp only [Keeps.upd]

theorem keeps_arbitrate {org s : State} (hz : Keeps org s) (t : Nat) : Keeps org (State.arbitrate s t).2 := by
  unfold State.arbitrate
  try dsimp only
  repeat' first
    | with_reducible assumption | intro _ | with_reducible apply keeps_pinOrder | with_reducible apply keeps_decideCmd
    | with_reducible apply keeps_leaveTo | with_reducible apply keeps_effect | with_reducible apply Keeps.ite | with_reducible apply Keeps.foldl
    | with_reducible apply Keeps.iteFst | with_reducible apply Keeps.iteSnd | split | simp only [Keeps.upd]

theorem keeps_capture {org s : State} (hz : Keeps org s) (g : Slot) : Keeps org (State.capture s g) := by
  unfold State.capture
  try dsimp only
  repeat' first
    | with_reducible assumption | intro _ | with_reducible apply keeps_report | with_reducible apply keeps_enrolment
    | with_reducible apply keeps_addJob | with_reducible apply Keeps.ite | with_reducible apply Keeps.foldl | with_reducible apply Keeps.iteFst
    | with_reducible apply Keeps.iteSnd | split | simp only [Keeps.upd]

theorem keeps_slotClose {org s : State} (hz : Keeps org s) (t : Nat) : Keeps org (State.slotClose s t) := by
  unfold State.slotClose
  try dsimp only
  repeat' first
    | with_reducible assumption | intro _ | with_reducible apply keeps_arbitrate | with_reducible apply keeps_swapSets
    | with_reducible apply keeps_capture | with_reducible apply Keeps.ite | with_reducible apply Keeps.foldl | with_reducible apply Keeps.iteFst
    | with_reducible apply Keeps.iteSnd | split | simp only [Keeps.upd]

theorem keeps_execCmdNop {org s : State} (hz : Keeps org s) (m : Master) (token : Byte) (t : Nat) : ∃ u, execCmdNop m token t s = .next u ∧ Keeps org u := by
  unfold execCmdNop
  refine ⟨_, rfl, ?_⟩
  try dsimp only
  repeat' first
    | with_reducible assumption | intro _ | with_reducible apply keeps_whenAwake | with_reducible apply keeps_at | with_reducible apply keeps_issueCmd
    | with_reducible apply Keeps.ite | with_reducible apply Keeps.foldl | split | simp only [Keeps.upd]

theorem keeps_execWake {org s : State} (hz : Keeps org s) (m : Master) (token : Byte) (t : Nat) : ∃ u, execWake m token t s = .next u ∧ Keeps org u := by
  unfold execWake
  refine ⟨_, rfl, ?_⟩
  try dsimp only
  repeat' first
    | with_reducible assumption | intro _ | with_reducible apply keeps_whenAwake | with_reducible apply keeps_at | with_reducible apply keeps_issueCmd
    | with_reducible apply Keeps.ite | with_reducible apply Keeps.foldl | split | simp only [Keeps.upd]

theorem keeps_execPark {org s : State} (hz : Keeps org s) (m : Master) (token : Byte) (t : Nat) : ∃ u, execPark m token t s = .next u ∧ Keeps org u := by
  unfold execPark
  refine ⟨_, rfl, ?_⟩
  try dsimp only
  repeat' first
    | with_reducible assumption | intro _ | with_reducible apply keeps_whenAwake | with_reducible apply keeps_at | with_reducible apply keeps_issueCmd
    | with_reducible apply Keeps.ite | with_reducible apply Keeps.foldl | split | simp only [Keeps.upd]

theorem keeps_execSleep {org s : State} (hz : Keeps org s) (m : Master) (token : Byte) (t : Nat) : ∃ u, execSleep m token t s = .next u ∧ Keeps org u := by
  unfold execSleep
  refine ⟨_, rfl, ?_⟩
  try dsimp only
  repeat' first
    | with_reducible assumption | intro _ | with_reducible apply keeps_whenAwake | with_reducible apply keeps_at | with_reducible apply keeps_issueCmd
    | with_reducible apply Keeps.ite | with_reducible apply Keeps.foldl | split | simp only [Keeps.upd]

theorem keeps_execStageShadow {org s : State} (hz : Keeps org s) (m : Master) (token : Byte) (t : Nat) : ∃ u, execStageShadow m token t s = .next u ∧ Keeps org u := by
  unfold execStageShadow
  refine ⟨_, rfl, ?_⟩
  try dsimp only
  repeat' first
    | with_reducible assumption | intro _ | with_reducible apply keeps_whenAwake | with_reducible apply keeps_at | with_reducible apply keeps_issueCmd
    | with_reducible apply Keeps.ite | with_reducible apply Keeps.foldl | split | simp only [Keeps.upd]

theorem keeps_execSwapConfig {org s : State} (hz : Keeps org s) (m : Master) (token : Byte) (t : Nat) : ∃ u, execSwapConfig m token t s = .next u ∧ Keeps org u := by
  unfold execSwapConfig
  refine ⟨_, rfl, ?_⟩
  try dsimp only
  repeat' first
    | with_reducible assumption | intro _ | with_reducible apply keeps_whenAwake | with_reducible apply keeps_at | with_reducible apply keeps_issueCmd
    | with_reducible apply Keeps.ite | with_reducible apply Keeps.foldl | split | simp only [Keeps.upd]

theorem keeps_execCalCommit {org s : State} (hz : Keeps org s) (m : Master) (token : Byte) (t : Nat) : ∃ u, execCalCommit m token t s = .next u ∧ Keeps org u := by
  unfold execCalCommit
  refine ⟨_, rfl, ?_⟩
  try dsimp only
  repeat' first
    | with_reducible assumption | intro _ | with_reducible apply keeps_whenAwake | with_reducible apply keeps_at | with_reducible apply keeps_issueCmd
    | with_reducible apply Keeps.ite | with_reducible apply Keeps.foldl | split | simp only [Keeps.upd]

theorem keeps_execMapSeal {org s : State} (hz : Keeps org s) (m : Master) (token : Byte) (t : Nat) : ∃ u, execMapSeal m token t s = .next u ∧ Keeps org u := by
  unfold execMapSeal
  refine ⟨_, rfl, ?_⟩
  try dsimp only
  repeat' first
    | with_reducible assumption | intro _ | with_reducible apply keeps_whenAwake | with_reducible apply keeps_at | with_reducible apply keeps_issueCmd
    | with_reducible apply Keeps.ite | with_reducible apply Keeps.foldl | split | simp only [Keeps.upd]

theorem keeps_execMapExport {org s : State} (hz : Keeps org s) (m : Master) (token : Byte) (t : Nat) : ∃ u, execMapExport m token t s = .next u ∧ Keeps org u := by
  unfold execMapExport
  refine ⟨_, rfl, ?_⟩
  try dsimp only
  repeat' first
    | with_reducible assumption | intro _ | with_reducible apply keeps_whenAwake | with_reducible apply keeps_at | with_reducible apply keeps_issueCmd
    | with_reducible apply Keeps.ite | with_reducible apply Keeps.foldl | split | simp only [Keeps.upd]

theorem keeps_execPlaceQuery {org s : State} (hz : Keeps org s) (m : Master) (token : Byte) (t : Nat) : ∃ u, execPlaceQuery m token t s = .next u ∧ Keeps org u := by
  unfold execPlaceQuery
  refine ⟨_, rfl, ?_⟩
  try dsimp only
  repeat' first
    | with_reducible assumption | intro _ | with_reducible apply keeps_whenAwake | with_reducible apply keeps_at | with_reducible apply keeps_issueCmd
    | with_reducible apply Keeps.ite | with_reducible apply Keeps.foldl | split | simp only [Keeps.upd]

theorem keeps_execRecover {org s : State} (hz : Keeps org s) (m : Master) (token : Byte) (t : Nat) : ∃ u, execRecover m token t s = .next u ∧ Keeps org u := by
  unfold execRecover
  refine ⟨_, rfl, ?_⟩
  try dsimp only
  repeat' first
    | with_reducible assumption | intro _ | with_reducible apply keeps_whenAwake | with_reducible apply keeps_at | with_reducible apply keeps_issueCmd
    | with_reducible apply Keeps.ite | with_reducible apply Keeps.foldl | split | simp only [Keeps.upd]

theorem keeps_execTestEnter {org s : State} (hz : Keeps org s) (m : Master) (token : Byte) (t : Nat) : ∃ u, execTestEnter m token t s = .next u ∧ Keeps org u := by
  unfold execTestEnter
  refine ⟨_, rfl, ?_⟩
  try dsimp only
  repeat' first
    | with_reducible assumption | intro _ | with_reducible apply keeps_whenAwake | with_reducible apply keeps_at | with_reducible apply keeps_issueCmd
    | with_reducible apply Keeps.ite | with_reducible apply Keeps.foldl | split | simp only [Keeps.upd]

theorem keeps_execTestExit {org s : State} (hz : Keeps org s) (m : Master) (token : Byte) (t : Nat) : ∃ u, execTestExit m token t s = .next u ∧ Keeps org u := by
  unfold execTestExit
  refine ⟨_, rfl, ?_⟩
  try dsimp only
  repeat' first
    | with_reducible assumption | intro _ | with_reducible apply keeps_whenAwake | with_reducible apply keeps_at | with_reducible apply keeps_issueCmd
    | with_reducible apply Keeps.ite | with_reducible apply Keeps.foldl | split | simp only [Keeps.upd]

theorem keeps_execHalt {org s : State} (hz : Keeps org s) (m : Master) (token : Byte) (t : Nat) : ∃ u, execHalt m token t s = .next u ∧ Keeps org u := by
  unfold execHalt
  refine ⟨_, rfl, ?_⟩
  try dsimp only
  repeat' first
    | with_reducible assumption | intro _ | with_reducible apply keeps_whenAwake | with_reducible apply keeps_at | with_reducible apply keeps_issueCmd
    | with_reducible apply Keeps.ite | with_reducible apply Keeps.foldl | split | simp only [Keeps.upd]

theorem keeps_execCondSync {org s : State} (hz : Keeps org s) (m : Master) (token : Byte) (t : Nat) : ∃ u, execCondSync m token t s = .next u ∧ Keeps org u := by
  unfold execCondSync
  refine ⟨_, rfl, ?_⟩
  try dsimp only
  repeat' first
    | with_reducible assumption | intro _ | with_reducible apply keeps_whenAwake | with_reducible apply keeps_at | with_reducible apply keeps_issueCmd
    | with_reducible apply Keeps.ite | with_reducible apply Keeps.foldl | split | simp only [Keeps.upd]

theorem keeps_issueAttest {org s : State} (hz : Keeps org s) (m : Master) (token : Nat) (kind : Nat) (dest : Nat) (destBytes : Nat) (nonce : List Byte) (t : Nat) : Keeps org (State.issueAttest s m token kind dest destBytes nonce t) := by
  unfold State.issueAttest
  try dsimp only
  repeat' first
    | with_reducible assumption | intro _ | with_reducible apply keeps_issueCmd | with_reducible apply keeps_argRead | with_reducible apply Keeps.ite
    | with_reducible apply Keeps.foldl | with_reducible refine Keeps.ofSnd (by assumption) ?_ | with_reducible refine Keeps.ofFst (by assumption) ?_
    | split | simp only [Keeps.upd]

theorem keeps_execAttestReport {org s : State} (hz : Keeps org s) (m : Master) (token : Byte) (dest : Word64) (n : Word32) (nonce : List Byte) (t : Nat) : ∃ u, execAttestReport m token dest n nonce t s = .next u ∧ Keeps org u := by
  unfold execAttestReport
  refine ⟨_, rfl, ?_⟩
  try dsimp only
  repeat' first
    | with_reducible assumption | intro _ | with_reducible apply keeps_whenAwake | with_reducible apply keeps_at
    | with_reducible apply keeps_issueAttest | with_reducible apply Keeps.ite | with_reducible apply Keeps.foldl | split | simp only [Keeps.upd]

theorem keeps_execAttestEnrol {org s : State} (hz : Keeps org s) (m : Master) (token : Byte) (dest : Word64) (n : Word32) (nonce : List Byte) (t : Nat) : ∃ u, execAttestEnrol m token dest n nonce t s = .next u ∧ Keeps org u := by
  unfold execAttestEnrol
  refine ⟨_, rfl, ?_⟩
  try dsimp only
  repeat' first
    | with_reducible assumption | intro _ | with_reducible apply keeps_whenAwake | with_reducible apply keeps_at
    | with_reducible apply keeps_issueAttest | with_reducible apply Keeps.ite | with_reducible apply Keeps.foldl | split | simp only [Keeps.upd]

theorem keeps_execCmdArgReadDone {org s : State} (hz : Keeps org s) (m : Master) (block : List Byte) (t : Nat) : ∃ u, execCmdArgReadDone m block t s = .next u ∧ Keeps org u := by
  unfold execCmdArgReadDone
  refine ⟨_, rfl, ?_⟩
  try dsimp only
  repeat' first
    | with_reducible assumption | intro _ | with_reducible apply keeps_whenAwake | with_reducible apply keeps_at | with_reducible apply keeps_argRead
    | with_reducible apply Keeps.ite | with_reducible apply Keeps.foldl | split | simp only [Keeps.upd]

theorem keeps_execCmdArgReadTimeout {org s : State} (hz : Keeps org s) (m : Master) (t : Nat) : ∃ u, execCmdArgReadTimeout m t s = .next u ∧ Keeps org u := by
  unfold execCmdArgReadTimeout
  refine ⟨_, rfl, ?_⟩
  try dsimp only
  repeat' first
    | with_reducible assumption | intro _ | with_reducible apply keeps_whenAwake | with_reducible apply keeps_at | with_reducible apply keeps_argRead
    | with_reducible apply Keeps.ite | with_reducible apply Keeps.foldl | split | simp only [Keeps.upd]

end Sys2Proof.Machine
end

