-- ==== Sys2Proof/Laws/KeepsCsr.lean ====
section
/-! SUPPORT. What the definitions of Machine/Csr.lean keep: the queue, the canonical form of the tables, what has left the device, the free
values taken, the OTP (`Keeps`). -/
namespace Sys2Proof.Machine

theorem keeps_csrRead {org s : State} (hz : Keeps org s) (m : Master) (o : Nat) : Keeps org (State.csrRead s m o).2 := by
  unfold State.csrRead
  try dsimp only
  repeat' first
    | with_reducible assumption | intro _ | with_reducible apply keeps_setReg | with_reducible apply keeps_latchTb | with_reducible apply Keeps.ite
    | with_reducible apply Keeps.foldl | with_reducible apply Keeps.iteFst | with_reducible apply Keeps.iteSnd | split | simp only [Keeps.upd]

theorem keeps_relayEnd {org s : State} (hz : Keeps org s) (result : Nat) : Keeps org (State.relayEnd s result) := by
  unfold State.relayEnd
  try dsimp only
  repeat' first
    | with_reducible assumption | intro _ | with_reducible apply keeps_setFld | with_reducible apply Keeps.ite | with_reducible apply Keeps.foldl
    | split | simp only [Keeps.upd]

theorem keeps_relay {org s : State} (hz : Keeps org s) (isWrite : Bool) : Keeps org (State.relay s isWrite) := by
  unfold State.relay
  try dsimp only
  repeat' first
    | with_reducible assumption | intro _ | with_reducible apply keeps_relayEnd | with_reducible apply keeps_setFld
    | with_reducible apply keeps_sendRequest | with_reducible apply Keeps.ite | with_reducible apply Keeps.foldl | split | simp only [Keeps.upd]

theorem keeps_chainTest {org s : State} (hz : Keeps org s) (v : Nat) : Keeps org (State.chainTest s v) := by
  unfold State.chainTest
  try dsimp only
  repeat' first
    | with_reducible assumption | intro _ | with_reducible apply keeps_setReg | with_reducible apply keeps_retrain | with_reducible apply Keeps.ite
    | with_reducible apply Keeps.foldl | split | simp only [Keeps.upd]

theorem keeps_otpProg {org s : State} (hz : Keeps org s) (target : Nat) (ok : Bool) : Keeps org (State.otpProg s target ok) := by
  unfold State.otpProg
  try dsimp only
  repeat' first
    | with_reducible assumption | intro _ | with_reducible apply keeps_otpHash | with_reducible apply keeps_otpVendor | with_reducible apply Keeps.ite
    | with_reducible apply Keeps.foldl | split | simp only [Keeps.upd]

theorem keeps_pbaFlush {org s : State} (hz : Keeps org s) : Keeps org (State.pbaFlush s) := by
  unfold State.pbaFlush
  try dsimp only
  repeat' first
    | with_reducible assumption | intro _ | with_reducible apply keeps_setReg | with_reducible apply keeps_msixWrite | with_reducible apply Keeps.ite
    | with_reducible apply Keeps.foldl | split | simp only [Keeps.upd]

theorem keeps_csrWrite {org s : State} (hz : Keeps org s) (m : Master) (o : Nat) (v : Nat) : Keeps org (State.csrWrite s m o v) := by
  unfold State.csrWrite
  try dsimp only
  repeat' first
    | with_reducible assumption | intro _ | with_reducible apply keeps_issueCmd | with_reducible apply keeps_setBank
    | with_reducible apply keeps_pendWrite | with_reducible apply keeps_softWrite | with_reducible apply keeps_snap
    | with_reducible apply keeps_writeAdjLo | with_reducible apply keeps_writeAdj | with_reducible apply keeps_chainTest
    | with_reducible apply keeps_relay | with_reducible apply keeps_tick | with_reducible apply keeps_otpProg | with_reducible apply keeps_fieldWrite
    | with_reducible apply keeps_pbaFlush | with_reducible apply keeps_windowWrite | with_reducible apply Keeps.ite | with_reducible apply Keeps.foldl
    | split | simp only [Keeps.upd]

theorem keeps_execCsrOddAccess {org s : State} (hz : Keeps org s) (isRead : Bool) : ∃ u, execCsrOddAccess isRead s = .next u ∧ Keeps org u := by
  unfold execCsrOddAccess
  refine ⟨_, rfl, ?_⟩
  try dsimp only
  repeat' first
    | with_reducible assumption | intro _ | with_reducible apply keeps_whenAwake | with_reducible apply keeps_emit | with_reducible apply Keeps.ite
    | with_reducible apply Keeps.foldl | split | simp only [Keeps.upd]

theorem keeps_csrAnswer {org s : State} (hz : Keeps org s) (m : Master) (o : Nat) : Keeps org (State.csrAnswer s m o) := by
  unfold State.csrAnswer
  try dsimp only
  repeat' first
    | with_reducible assumption | intro _ | with_reducible apply keeps_csrRead | with_reducible apply keeps_emit | with_reducible apply Keeps.ite
    | with_reducible apply Keeps.foldl | with_reducible apply Keeps.iteFst | with_reducible apply Keeps.iteSnd | split | simp only [Keeps.upd]

theorem keeps_execGlbEpochLoRead {org s : State} (hz : Keeps org s) (m : Master) : ∃ u, execGlbEpochLoRead m s = .next u ∧ Keeps org u := by
  unfold execGlbEpochLoRead
  refine ⟨_, rfl, ?_⟩
  try dsimp only
  repeat' first
    | with_reducible assumption | intro _ | with_reducible apply keeps_whenAwake | with_reducible apply keeps_csrAnswer
    | with_reducible apply Keeps.ite | with_reducible apply Keeps.foldl | split | simp only [Keeps.upd]

theorem keeps_execIntegratorKeyHash {org s : State} (hz : Keeps org s) (ok : Bool) : ∃ u, execIntegratorKeyHash ok s = .next u ∧ Keeps org u := by
  unfold execIntegratorKeyHash
  refine ⟨_, rfl, ?_⟩
  try dsimp only
  repeat' first
    | with_reducible assumption | intro _ | with_reducible apply keeps_whenAwake | with_reducible apply keeps_otpProg | with_reducible apply Keeps.ite
    | with_reducible apply Keeps.foldl | split | simp only [Keeps.upd]

theorem keeps_execVendorDisable {org s : State} (hz : Keeps org s) : ∃ u, execVendorDisable s = .next u ∧ Keeps org u := by
  unfold execVendorDisable
  refine ⟨_, rfl, ?_⟩
  try dsimp only
  repeat' first
    | with_reducible assumption | intro _ | with_reducible apply keeps_whenAwake | with_reducible apply keeps_otpProg | with_reducible apply Keeps.ite
    | with_reducible apply Keeps.foldl | split | simp only [Keeps.upd]

theorem keeps_execNearLoopback {org s : State} (hz : Keeps org s) (p : Fin 2) : ∃ u, execNearLoopback p s = .next u ∧ Keeps org u := by
  unfold execNearLoopback
  refine ⟨_, rfl, ?_⟩
  try dsimp only
  repeat' first
    | with_reducible assumption | intro _ | with_reducible apply keeps_whenAwake | with_reducible apply keeps_chainTest
    | with_reducible apply Keeps.ite | with_reducible apply Keeps.foldl | split | simp only [Keeps.upd]

theorem keeps_execFarLoopback {org s : State} (hz : Keeps org s) (p : Fin 2) : ∃ u, execFarLoopback p s = .next u ∧ Keeps org u := by
  unfold execFarLoopback
  refine ⟨_, rfl, ?_⟩
  try dsimp only
  repeat' first
    | with_reducible assumption | intro _ | with_reducible apply keeps_whenAwake | with_reducible apply keeps_chainTest
    | with_reducible apply Keeps.ite | with_reducible apply Keeps.foldl | split | simp only [Keeps.upd]

theorem keeps_prbs {org s : State} (hz : Keeps org s) (p : Nat) (errs : List Word32) : Keeps org (State.prbs s p errs) := by
  unfold State.prbs
  try dsimp only
  repeat' first
    | with_reducible assumption | intro _ | with_reducible apply keeps_chainTest | with_reducible apply keeps_addTo | with_reducible apply Keeps.ite
    | with_reducible apply Keeps.foldl | with_reducible apply Keeps.iteFst | with_reducible apply Keeps.iteSnd | split | simp only [Keeps.upd]

theorem keeps_execPrbs31 {org s : State} (hz : Keeps org s) (p : Fin 2) (e0 : Word32) (e1 : Word32) (e2 : Word32) (e3 : Word32) : ∃ u, execPrbs31 p e0 e1 e2 e3 s = .next u ∧ Keeps org u := by
  unfold execPrbs31
  refine ⟨_, rfl, ?_⟩
  try dsimp only
  repeat' first
    | with_reducible assumption | intro _ | with_reducible apply keeps_whenAwake | with_reducible apply keeps_prbs | with_reducible apply Keeps.ite
    | with_reducible apply Keeps.foldl | split | simp only [Keeps.upd]

theorem keeps_execChainTestOff {org s : State} (hz : Keeps org s) (p : Fin 2) : ∃ u, execChainTestOff p s = .next u ∧ Keeps org u := by
  unfold execChainTestOff
  refine ⟨_, rfl, ?_⟩
  try dsimp only
  repeat' first
    | with_reducible assumption | intro _ | with_reducible apply keeps_whenAwake | with_reducible apply keeps_chainTest
    | with_reducible apply Keeps.ite | with_reducible apply Keeps.foldl | split | simp only [Keeps.upd]

end Sys2Proof.Machine
end

