-- ==== Sys2Proof/Laws/KeepsTierEvents.lean ====
section
/-! SUPPORT. What the definitions of Machine/TierEvents.lean keep: the queue, the canonical form of the tables, what has left the device, the free
values taken, the OTP (`Keeps`). -/
namespace Sys2Proof.Machine

theorem keeps_ferryDone {org s : State} (hz : Keeps org s) (id : Nat) : Keeps org (State.ferryDone s id) := by
  unfold State.ferryDone
  try dsimp only
  repeat' first
    | with_reducible assumption | intro _ | with_reducible apply keeps_moveEnded | with_reducible apply Keeps.ite | with_reducible apply Keeps.foldl
    | with_reducible refine Keeps.ofSnd (by assumption) ?_ | with_reducible refine Keeps.ofFst (by assumption) ?_ | split | simp only [Keeps.upd]

theorem keeps_loadDone {org s : State} (hz : Keeps org s) (id : Nat) (readable : Bool) : Keeps org (State.loadDone s id readable) := by
  unfold State.loadDone
  try dsimp only
  repeat' first
    | with_reducible assumption | intro _ | with_reducible apply keeps_moveEnded | with_reducible apply keeps_store
    | with_reducible apply keeps_clearMarks | with_reducible apply Keeps.ite | with_reducible apply Keeps.foldl
    | with_reducible refine Keeps.ofSnd (by assumption) ?_ | with_reducible refine Keeps.ofFst (by assumption) ?_ | split | simp only [Keeps.upd]

theorem keeps_requestEnds {org s : State} (hz : Keeps org s) (r : TierReq) (code : Nat) : Keeps org (State.requestEnds s r code) := by
  unfold State.requestEnds
  try dsimp only
  repeat' first
    | with_reducible assumption | intro _ | with_reducible apply keeps_loadReturn | with_reducible apply keeps_store
    | with_reducible apply keeps_storePerformed | with_reducible apply keeps_towComplete | with_reducible apply keeps_moveEnded
    | with_reducible apply Keeps.ite | with_reducible apply Keeps.foldl | with_reducible refine Keeps.ofSnd (by assumption) ?_
    | with_reducible refine Keeps.ofFst (by assumption) ?_ | split | simp only [Keeps.upd]

theorem keeps_pageError {org s : State} (hz : Keeps org s) (t : Nat) (i : Nat) (page : Nat) (id : Nat) (unit : Option Nat) : Keeps org (State.pageError s t i page id unit) := by
  unfold State.pageError
  try dsimp only
  repeat' first
    | with_reducible assumption | intro _ | with_reducible apply keeps_inc | with_reducible apply keeps_relocate | with_reducible apply keeps_settle
    | with_reducible apply Keeps.ite | with_reducible apply Keeps.foldl | with_reducible refine Keeps.ofSnd (by assumption) ?_
    | with_reducible refine Keeps.ofFst (by assumption) ?_ | split | simp only [Keeps.upd]

end Sys2Proof.Machine
end

