-- ==== Sys2Proof/Laws/KeepsPeer.lean ====
section
/-! SUPPORT. What the definitions of Machine/Peer.lean keep: the queue, the canonical form of the tables, what has left the device, the free
values taken, the OTP (`Keeps`). -/
namespace Sys2Proof.Machine

theorem keeps_memAccess {org s : State} (hz : Keeps org s) (a : Nat) (n : Nat) (w : Option (List Byte)) : Keeps org (State.memAccess s a n w).2 := by
  unfold State.memAccess
  try dsimp only
  repeat' first
    | with_reducible assumption | intro _ | with_reducible apply keeps_store | with_reducible apply keeps_unpoison
    | with_reducible apply keeps_requestDone | with_reducible apply Keeps.ite | with_reducible apply Keeps.foldl | with_reducible apply Keeps.iteFst
    | with_reducible apply Keeps.iteSnd | with_reducible refine Keeps.ofSnd (by assumption) ?_ | with_reducible refine Keeps.ofFst (by assumption) ?_
    | split | simp only [Keeps.upd]

theorem keeps_placedAccess {org s : State} (hz : Keeps org s) (a : Nat) (n : Nat) (cls : Nat) (owner : Nat) (tag : Nat) (w : Option (List Byte)) : Keeps org (State.placedAccess s a n cls owner tag w).2 := by
  unfold State.placedAccess
  try dsimp only
  repeat' first
    | with_reducible assumption | intro _ | with_reducible apply keeps_countCode | with_reducible apply keeps_touch
    | with_reducible apply keeps_startLoad | with_reducible apply keeps_progress | with_reducible apply keeps_noteMovedStore
    | with_reducible apply keeps_memAccess | with_reducible apply Keeps.ite | with_reducible apply Keeps.foldl | with_reducible apply Keeps.iteFst
    | with_reducible apply Keeps.iteSnd | with_reducible refine Keeps.ofSnd (by assumption) ?_ | with_reducible refine Keeps.ofFst (by assumption) ?_
    | split | simp only [Keeps.upd]

theorem keeps_serve {org s : State} (hz : Keeps org s) (src : Nat) (a : Nat) (n : Nat) (tag : Nat) (p : Nat) (w : Option (List Byte)) : Keeps org (State.serve s src a n tag p w).2 := by
  unfold State.serve
  try dsimp only
  repeat' first
    | with_reducible assumption | intro _ | with_reducible apply keeps_csrWrite | with_reducible apply keeps_csrRead
    | with_reducible apply keeps_memAccess | with_reducible apply keeps_placedAccess | with_reducible apply Keeps.ite
    | with_reducible apply Keeps.foldl | with_reducible apply Keeps.iteFst | with_reducible apply Keeps.iteSnd
    | with_reducible refine Keeps.ofSnd (by assumption) ?_ | with_reducible refine Keeps.ofFst (by assumption) ?_ | split | simp only [Keeps.upd]

theorem keeps_takeReq {org s : State} (hz : Keeps org s) (r : PeerReq) : Keeps org (State.takeReq s r) := by
  unfold State.takeReq
  try dsimp only
  repeat' first
    | with_reducible assumption | intro _ | with_reducible apply Keeps.ite | with_reducible apply Keeps.foldl | split | simp only [Keeps.upd]

theorem keeps_towPart {org s : State} (hz : Keeps org s) (i : Nat) (slot : Nat) (off : Nat) (code : Nat) (isWrite : Bool) (data : List Byte) : Keeps org (State.towPart s i slot off code isWrite data) := by
  unfold State.towPart
  try dsimp only
  repeat' first
    | with_reducible assumption | intro _ | with_reducible apply keeps_store | with_reducible apply keeps_unpoison
    | with_reducible apply keeps_setIslet | with_reducible apply keeps_endTow | with_reducible apply keeps_settle | with_reducible apply Keeps.ite
    | with_reducible apply Keeps.foldl | with_reducible refine Keeps.ofSnd (by assumption) ?_ | with_reducible refine Keeps.ofFst (by assumption) ?_
    | split | simp only [Keeps.upd]

theorem keeps_headPoll {org s : State} (hz : Keeps org s) (u : Nat) (status : Nat) (isWrite : Bool) (data : List Byte) : Keeps org (State.headPoll s u status isWrite data) := by
  unfold State.headPoll
  try dsimp only
  repeat' first
    | with_reducible assumption | intro _ | with_reducible apply keeps_enumStart | with_reducible apply keeps_sendRequest
    | with_reducible apply Keeps.ite | with_reducible apply Keeps.foldl | split | simp only [Keeps.upd]

theorem keeps_resultWritten {org s : State} (hz : Keeps org s) (status : Nat) : Keeps org (State.resultWritten s status) := by
  unfold State.resultWritten
  try dsimp only
  repeat' first
    | with_reducible assumption | intro _ | with_reducible apply keeps_setJob | with_reducible apply keeps_writeEnded | with_reducible apply Keeps.ite
    | with_reducible apply Keeps.foldl | with_reducible apply Keeps.iteFst | with_reducible apply Keeps.iteSnd
    | with_reducible refine Keeps.ofSnd (by assumption) ?_ | with_reducible refine Keeps.ofFst (by assumption) ?_ | split | simp only [Keeps.upd]

theorem keeps_endReq {org s : State} (hz : Keeps org s) (r : PeerReq) (status : Nat) (data : List Byte) : Keeps org (State.endReq s r status data) := by
  unfold State.endReq
  try dsimp only
  repeat' first
    | with_reducible assumption | intro _ | with_reducible apply keeps_takeReq | with_reducible apply keeps_inc | with_reducible apply keeps_raise
    | with_reducible apply keeps_relay | with_reducible apply keeps_setReg | with_reducible apply keeps_relayEnd | with_reducible apply keeps_endLoad
    | with_reducible apply keeps_settle | with_reducible apply keeps_store | with_reducible apply keeps_endStore | with_reducible apply keeps_towPart
    | with_reducible apply keeps_headPoll | with_reducible apply keeps_resultWritten | with_reducible apply keeps_argPart
    | with_reducible apply keeps_stage | with_reducible apply keeps_stagePart | with_reducible apply Keeps.ite | with_reducible apply Keeps.foldl
    | with_reducible refine Keeps.ofSnd (by assumption) ?_ | with_reducible refine Keeps.ofFst (by assumption) ?_ | split | simp only [Keeps.upd]

theorem keeps_respond {org s : State} (hz : Keeps org s) (m : Msg) (isWrite : Bool) (status : Nat) (data : List Byte) : Keeps org (State.respond s m isWrite status data) := by
  unfold State.respond
  try dsimp only
  repeat' first
    | with_reducible assumption | intro _ | with_reducible apply keeps_sendOn | with_reducible apply keeps_inc | with_reducible apply Keeps.ite
    | with_reducible apply Keeps.foldl | split | simp only [Keeps.upd]

theorem keeps_unroutable {org s : State} (hz : Keeps org s) (m : Msg) : Keeps org (State.unroutable s m) := by
  unfold State.unroutable
  try dsimp only
  repeat' first
    | with_reducible assumption | intro _ | with_reducible apply keeps_endReq | with_reducible apply keeps_respond | with_reducible apply keeps_inc
    | with_reducible apply Keeps.ite | with_reducible apply Keeps.foldl | with_reducible refine Keeps.ofSnd (by assumption) ?_
    | with_reducible refine Keeps.ofFst (by assumption) ?_ | split | simp only [Keeps.upd]

theorem keeps_onEvent {org s : State} (hz : Keeps org s) (m : Msg) : Keeps org (State.onEvent s m) := by
  unfold State.onEvent
  try dsimp only
  repeat' first
    | with_reducible assumption | intro _ | with_reducible apply keeps_setReg | with_reducible apply keeps_raise | with_reducible apply Keeps.ite
    | with_reducible apply Keeps.foldl | split | simp only [Keeps.upd]

theorem keeps_newOutside {org s : State} (hz : Keeps org s) (v : Served) : Keeps org (State.newOutside s v).2 := by
  unfold State.newOutside
  try dsimp only
  repeat' first
    | with_reducible assumption | intro _ | with_reducible apply keeps_waitCredit | with_reducible apply Keeps.ite | with_reducible apply Keeps.foldl
    | with_reducible apply Keeps.iteFst | with_reducible apply Keeps.iteSnd | with_reducible refine Keeps.ofSnd (by assumption) ?_
    | with_reducible refine Keeps.ofFst (by assumption) ?_ | split | simp only [Keeps.upd]

theorem keeps_onRequest {org s : State} (hz : Keeps org s) (p : Nat) (m : Msg) : Keeps org (State.onRequest s p m) := by
  unfold State.onRequest
  try dsimp only
  repeat' first
    | with_reducible assumption | intro _ | with_reducible apply keeps_serve | with_reducible apply keeps_newOutside
    | with_reducible apply keeps_respond | with_reducible apply Keeps.ite | with_reducible apply Keeps.foldl | with_reducible apply Keeps.iteFst
    | with_reducible apply Keeps.iteSnd | split | simp only [Keeps.upd]

theorem keeps_onResponse {org s : State} (hz : Keeps org s) (m : Msg) : Keeps org (State.onResponse s m) := by
  unfold State.onResponse
  try dsimp only
  repeat' first
    | with_reducible assumption | intro _ | with_reducible apply keeps_endReq | with_reducible apply Keeps.ite | with_reducible apply Keeps.foldl
    | with_reducible refine Keeps.ofSnd (by assumption) ?_ | with_reducible refine Keeps.ofFst (by assumption) ?_ | split | simp only [Keeps.upd]

theorem keeps_message {org s : State} (hz : Keeps org s) (p : Nat) (m : Msg) (t : Nat) : Keeps org (State.message s p m t) := by
  unfold State.message
  try dsimp only
  repeat' first
    | with_reducible assumption | intro _ | with_reducible apply keeps_unroutable | with_reducible apply keeps_incWrap
    | with_reducible apply keeps_inc | with_reducible apply keeps_onCtrl | with_reducible apply keeps_onEvent | with_reducible apply keeps_onRequest
    | with_reducible apply keeps_onResponse | with_reducible apply keeps_sendOn | with_reducible apply Keeps.ite | with_reducible apply Keeps.foldl
    | with_reducible refine Keeps.ofSnd (by assumption) ?_ | with_reducible refine Keeps.ofFst (by assumption) ?_ | split | simp only [Keeps.upd]

theorem keeps_drainRx {org s : State} (hz : Keeps org s) (t : Nat) (xs0 : Nat) : Keeps org (State.drainRx s t xs0) := by
  induction xs0 generalizing s t with
  | zero =>
    unfold State.drainRx
    try dsimp only
    repeat' first
      | with_reducible assumption | intro _ | with_reducible apply keeps_message | with_reducible apply Keeps.ite | with_reducible apply Keeps.foldl
      | with_reducible refine Keeps.ofSnd (by assumption) ?_ | with_reducible refine Keeps.ofFst (by assumption) ?_ | split | simp only [Keeps.upd]
  | succ n ih =>
    unfold State.drainRx
    try dsimp only
    repeat' first
      | with_reducible assumption | intro _ | with_reducible apply ih | with_reducible apply keeps_message | with_reducible apply Keeps.ite
      | with_reducible apply Keeps.foldl | with_reducible refine Keeps.ofSnd (by assumption) ?_ | with_reducible refine Keeps.ofFst (by assumption) ?_
      | split | simp only [Keeps.upd]

theorem keeps_drainAll {org s : State} (hz : Keeps org s) (t : Nat) : Keeps org (State.drainAll s t) := by
  unfold State.drainAll
  try dsimp only
  repeat' first
    | with_reducible assumption | intro _ | with_reducible apply keeps_drainRx | with_reducible apply Keeps.ite | with_reducible apply Keeps.foldl
    | split | simp only [Keeps.upd]

theorem keeps_receive {org s : State} (hz : Keeps org s) (p : Nat) (m : Msg) (t : Nat) : Keeps org (State.receive s p m t) := by
  unfold State.receive
  try dsimp only
  repeat' first
    | with_reducible assumption | intro _ | with_reducible apply keeps_message | with_reducible apply keeps_drainAll | with_reducible apply Keeps.ite
    | with_reducible apply Keeps.foldl | split | simp only [Keeps.upd]

theorem keeps_receiveCtrl {org s : State} (hz : Keeps org s) (p : Nat) (k : Nat) (v : Nat) (t : Nat) : Keeps org (State.receiveCtrl s p k v t) := by
  unfold State.receiveCtrl
  try dsimp only
  repeat' first
    | with_reducible assumption | intro _ | with_reducible apply keeps_receive | with_reducible apply Keeps.ite | with_reducible apply Keeps.foldl
    | split | simp only [Keeps.upd]

theorem keeps_bar2Access {org s : State} (hz : Keeps org s) (o : Nat) (n : Nat) (w : Option (List Byte)) : Keeps org (State.bar2Access s o n w).2 := by
  unfold State.bar2Access
  try dsimp only
  repeat' first
    | with_reducible assumption | intro _ | with_reducible apply keeps_placedAccess | with_reducible apply keeps_memAccess
    | with_reducible apply Keeps.ite | with_reducible apply Keeps.foldl | with_reducible apply Keeps.iteFst | with_reducible apply Keeps.iteSnd
    | with_reducible refine Keeps.ofSnd (by assumption) ?_ | with_reducible refine Keeps.ofFst (by assumption) ?_ | split | simp only [Keeps.upd]

theorem keeps_bar2 {org s : State} (hz : Keeps org s) (o : Nat) (n : Nat) (w : Option (List Byte)) (bad : Bool) : Keeps org (State.bar2 s o n w bad) := by
  unfold State.bar2
  try dsimp only
  repeat' first
    | with_reducible assumption | intro _ | with_reducible apply keeps_bar2Access | with_reducible apply keeps_newOutside
    | with_reducible apply keeps_inc | with_reducible apply keeps_emit | with_reducible apply Keeps.ite | with_reducible apply Keeps.foldl
    | with_reducible apply Keeps.foldlFst | with_reducible apply Keeps.foldlSnd | with_reducible apply Keeps.iteFst
    | with_reducible apply Keeps.iteSnd | with_reducible refine Keeps.ofSnd (by assumption) ?_ | with_reducible refine Keeps.ofFst (by assumption) ?_
    | split | simp only [Keeps.upd]

theorem keeps_goOn {org s : State} (hz : Keeps org s) (f : Nat → Bool) : Keeps org (State.goOn s f) := by
  unfold State.goOn
  try dsimp only
  repeat' first
    | with_reducible assumption | intro _ | with_reducible apply keeps_bar2 | with_reducible apply keeps_onRequest | with_reducible apply Keeps.ite
    | with_reducible apply Keeps.foldl | with_reducible apply Keeps.iteFst | with_reducible apply Keeps.iteSnd | split | simp only [Keeps.upd]

theorem keeps_serveOutside {org s : State} (hz : Keeps org s) (t : Nat) : Keeps org (State.serveOutside s t) := by
  unfold State.serveOutside
  try dsimp only
  repeat' first
    | with_reducible assumption | intro _ | with_reducible apply keeps_credAdd | with_reducible apply keeps_goOn | with_reducible apply keeps_drainAll
    | with_reducible apply Keeps.ite | with_reducible apply Keeps.foldl | with_reducible apply Keeps.iteFst | with_reducible apply Keeps.iteSnd
    | split | simp only [Keeps.upd]

theorem keeps_unstall {org s : State} (hz : Keeps org s) (id : Nat) (t : Nat) : Keeps org (State.unstall s id t) := by
  unfold State.unstall
  try dsimp only
  repeat' first
    | with_reducible assumption | intro _ | with_reducible apply keeps_bar2 | with_reducible apply keeps_respond
    | with_reducible apply keeps_onRequest | with_reducible apply keeps_drainAll | with_reducible apply keeps_serveOutside
    | with_reducible apply Keeps.ite | with_reducible apply Keeps.foldl | with_reducible apply Keeps.iteFst | with_reducible apply Keeps.iteSnd
    | with_reducible refine Keeps.ofSnd (by assumption) ?_ | with_reducible refine Keeps.ofFst (by assumption) ?_ | split | simp only [Keeps.upd]

theorem keeps_execRegisterWrite {org s : State} (hz : Keeps org s) (m : Master) (o : BitVec 28) (v : Word32) (t : Nat) : ∃ u, execRegisterWrite m o v t s = .next u ∧ Keeps org u := by
  unfold execRegisterWrite
  refine ⟨_, rfl, ?_⟩
  try dsimp only
  repeat' first
    | with_reducible assumption | intro _ | with_reducible apply keeps_whenAwake | with_reducible apply keeps_at | with_reducible apply keeps_csrWrite
    | with_reducible apply keeps_drainAll | with_reducible apply Keeps.ite | with_reducible apply Keeps.foldl | split | simp only [Keeps.upd]

theorem keeps_execObjectLoadComplete {org s : State} (hz : Keeps org s) (id : BitVec 24) (readable : Bool) (t : Nat) : ∃ u, execObjectLoadComplete id readable t s = .next u ∧ Keeps org u := by
  unfold execObjectLoadComplete
  refine ⟨_, rfl, ?_⟩
  try dsimp only
  repeat' first
    | with_reducible assumption | intro _ | with_reducible apply keeps_whenAwake | with_reducible apply keeps_at | with_reducible apply keeps_loadDone
    | with_reducible apply keeps_unstall | with_reducible apply Keeps.ite | with_reducible apply Keeps.foldl | split | simp only [Keeps.upd]

theorem keeps_tierError {org s : State} (hz : Keeps org s) (r : TierReq) (code : Nat) (t : Nat) : Keeps org (State.tierError s r code t) := by
  unfold State.tierError
  try dsimp only
  repeat' first
    | with_reducible assumption | intro _ | with_reducible apply keeps_requestEnds | with_reducible apply keeps_unstall
    | with_reducible apply keeps_settle | with_reducible apply keeps_serveOutside | with_reducible apply Keeps.ite | with_reducible apply Keeps.foldl
    | with_reducible refine Keeps.ofSnd (by assumption) ?_ | with_reducible refine Keeps.ofFst (by assumption) ?_ | split | simp only [Keeps.upd]

theorem keeps_execLoadReturn {org s : State} (hz : Keeps org s) (i : IsletId) (k : Nat) (cyc : Nat) (err : Option Byte) (data : Option (List Byte)) : ∃ u, execLoadReturn i k cyc err data s = .next u ∧ Keeps org u := by
  unfold execLoadReturn
  refine ⟨_, rfl, ?_⟩
  try dsimp only
  repeat' first
    | with_reducible assumption | intro _ | with_reducible apply keeps_whenAwake | with_reducible apply keeps_loadReturn
    | with_reducible apply keeps_settle | with_reducible apply keeps_serveOutside | with_reducible apply Keeps.ite | with_reducible apply Keeps.foldl
    | split | simp only [Keeps.upd]

theorem keeps_execStorePerformed {org s : State} (hz : Keeps org s) (i : IsletId) (k : Nat) (cyc : Nat) (err : Option Byte) : ∃ u, execStorePerformed i k cyc err s = .next u ∧ Keeps org u := by
  unfold execStorePerformed
  refine ⟨_, rfl, ?_⟩
  try dsimp only
  repeat' first
    | with_reducible assumption | intro _ | with_reducible apply keeps_whenAwake | with_reducible apply keeps_storePerformed
    | with_reducible apply keeps_settle | with_reducible apply keeps_serveOutside | with_reducible apply Keeps.ite | with_reducible apply Keeps.foldl
    | split | simp only [Keeps.upd]

theorem keeps_execTowComplete {org s : State} (hz : Keeps org s) (i : IsletId) (k : Fin 8) (cyc : Nat) (err : Option Byte) (data : Option (List Byte)) : ∃ u, execTowComplete i k cyc err data s = .next u ∧ Keeps org u := by
  unfold execTowComplete
  refine ⟨_, rfl, ?_⟩
  try dsimp only
  repeat' first
    | with_reducible assumption | intro _ | with_reducible apply keeps_whenAwake | with_reducible apply keeps_towComplete
    | with_reducible apply keeps_settle | with_reducible apply keeps_serveOutside | with_reducible apply Keeps.ite | with_reducible apply Keeps.foldl
    | split | simp only [Keeps.upd]

theorem keeps_execFerryMoveComplete {org s : State} (hz : Keeps org s) (id : BitVec 24) (t : Nat) : ∃ u, execFerryMoveComplete id t s = .next u ∧ Keeps org u := by
  unfold execFerryMoveComplete
  refine ⟨_, rfl, ?_⟩
  try dsimp only
  repeat' first
    | with_reducible assumption | intro _ | with_reducible apply keeps_whenAwake | with_reducible apply keeps_at
    | with_reducible apply keeps_ferryDone | with_reducible apply keeps_unstall | with_reducible apply Keeps.ite | with_reducible apply Keeps.foldl
    | split | simp only [Keeps.upd]

theorem keeps_execPageRetire {org s : State} (hz : Keeps org s) (tier : Fin 3) (i : Fin 6) (page : BitVec 24) (id : BitVec 24) (unit : Option (BitVec 48)) (t : Nat) : ∃ u, execPageRetire tier i page id unit t s = .next u ∧ Keeps org u := by
  unfold execPageRetire
  refine ⟨_, rfl, ?_⟩
  try dsimp only
  repeat' first
    | with_reducible assumption | intro _ | with_reducible apply keeps_whenAwake | with_reducible apply keeps_at
    | with_reducible apply keeps_pageError | with_reducible apply Keeps.ite | with_reducible apply Keeps.foldl | split | simp only [Keeps.upd]

theorem keeps_execTierRequestTimeout {org s : State} (hz : Keeps org s) (r : TierReq) (t : Nat) : ∃ u, execTierRequestTimeout r t s = .next u ∧ Keeps org u := by
  unfold execTierRequestTimeout
  refine ⟨_, rfl, ?_⟩
  try dsimp only
  repeat' first
    | with_reducible assumption | intro _ | with_reducible apply keeps_whenAwake | with_reducible apply keeps_at
    | with_reducible apply keeps_tierError | with_reducible apply Keeps.ite | with_reducible apply Keeps.foldl | split | simp only [Keeps.upd]

theorem keeps_execTierRequestError {org s : State} (hz : Keeps org s) (r : TierReq) (code : Fin 3) (t : Nat) : ∃ u, execTierRequestError r code t s = .next u ∧ Keeps org u := by
  unfold execTierRequestError
  refine ⟨_, rfl, ?_⟩
  try dsimp only
  repeat' first
    | with_reducible assumption | intro _ | with_reducible apply keeps_whenAwake | with_reducible apply keeps_at
    | with_reducible apply keeps_tierError | with_reducible apply Keeps.ite | with_reducible apply Keeps.foldl | split | simp only [Keeps.upd]

theorem keeps_execEnumReady {org s : State} (hz : Keeps org s) (p : Fin 2) (t : Nat) : ∃ u, execEnumReady p t s = .next u ∧ Keeps org u := by
  unfold execEnumReady
  refine ⟨_, rfl, ?_⟩
  try dsimp only
  repeat' first
    | with_reducible assumption | intro _ | with_reducible apply keeps_whenAwake | with_reducible apply keeps_at
    | with_reducible apply keeps_receiveCtrl | with_reducible apply Keeps.ite | with_reducible apply Keeps.foldl | split | simp only [Keeps.upd]

theorem keeps_execReadyRepeat {org s : State} (hz : Keeps org s) (t : Nat) : ∃ u, execReadyRepeat t s = .next u ∧ Keeps org u := by
  unfold execReadyRepeat
  refine ⟨_, rfl, ?_⟩
  try dsimp only
  repeat' first
    | with_reducible assumption | intro _ | with_reducible apply keeps_whenAwake | with_reducible apply keeps_at
    | with_reducible apply keeps_readyAgain | with_reducible apply Keeps.ite | with_reducible apply Keeps.foldl | split | simp only [Keeps.upd]

theorem keeps_execEnum {org s : State} (hz : Keeps org s) (p : Fin 2) (v : Byte) (t : Nat) : ∃ u, execEnum p v t s = .next u ∧ Keeps org u := by
  unfold execEnum
  refine ⟨_, rfl, ?_⟩
  try dsimp only
  repeat' first
    | with_reducible assumption | intro _ | with_reducible apply keeps_whenAwake | with_reducible apply keeps_at
    | with_reducible apply keeps_receiveCtrl | with_reducible apply Keeps.ite | with_reducible apply Keeps.foldl | split | simp only [Keeps.upd]

theorem keeps_execEnumEnd {org s : State} (hz : Keeps org s) (p : Fin 2) (v : Byte) (t : Nat) : ∃ u, execEnumEnd p v t s = .next u ∧ Keeps org u := by
  unfold execEnumEnd
  refine ⟨_, rfl, ?_⟩
  try dsimp only
  repeat' first
    | with_reducible assumption | intro _ | with_reducible apply keeps_whenAwake | with_reducible apply keeps_at
    | with_reducible apply keeps_receiveCtrl | with_reducible apply Keeps.ite | with_reducible apply Keeps.foldl | split | simp only [Keeps.upd]

theorem keeps_execEnumCommit {org s : State} (hz : Keeps org s) (p : Fin 2) (v : Byte) (t : Nat) : ∃ u, execEnumCommit p v t s = .next u ∧ Keeps org u := by
  unfold execEnumCommit
  refine ⟨_, rfl, ?_⟩
  try dsimp only
  repeat' first
    | with_reducible assumption | intro _ | with_reducible apply keeps_whenAwake | with_reducible apply keeps_at
    | with_reducible apply keeps_receiveCtrl | with_reducible apply Keeps.ite | with_reducible apply Keeps.foldl | split | simp only [Keeps.upd]

theorem keeps_execEnumTimeout {org s : State} (hz : Keeps org s) (t : Nat) : ∃ u, execEnumTimeout t s = .next u ∧ Keeps org u := by
  unfold execEnumTimeout
  refine ⟨_, rfl, ?_⟩
  try dsimp only
  repeat' first
    | with_reducible assumption | intro _ | with_reducible apply keeps_whenAwake | with_reducible apply keeps_at
    | with_reducible apply keeps_enumTimeout | with_reducible apply Keeps.ite | with_reducible apply Keeps.foldl | split | simp only [Keeps.upd]

theorem keeps_execEnumEndTimeout {org s : State} (hz : Keeps org s) (t : Nat) : ∃ u, execEnumEndTimeout t s = .next u ∧ Keeps org u := by
  unfold execEnumEndTimeout
  refine ⟨_, rfl, ?_⟩
  try dsimp only
  repeat' first
    | with_reducible assumption | intro _ | with_reducible apply keeps_whenAwake | with_reducible apply keeps_at
    | with_reducible apply keeps_enumEndTimeout | with_reducible apply Keeps.ite | with_reducible apply Keeps.foldl | split | simp only [Keeps.upd]

theorem keeps_execLinkFrameRx {org s : State} (hz : Keeps org s) (p : Fin 2) (b : List Byte) (t : Nat) : ∃ u, execLinkFrameRx p b t s = .next u ∧ Keeps org u := by
  unfold execLinkFrameRx
  refine ⟨_, rfl, ?_⟩
  try dsimp only
  repeat' first
    | with_reducible assumption | intro _ | with_reducible apply keeps_whenAwake | with_reducible apply keeps_at | with_reducible apply keeps_frameRx
    | with_reducible apply keeps_drainAll | with_reducible apply Keeps.ite | with_reducible apply Keeps.foldl | split | simp only [Keeps.upd]

theorem keeps_execLinkNak {org s : State} (hz : Keeps org s) (p : Fin 2) (ack : BitVec 12) : ∃ u, execLinkNak p ack s = .next u ∧ Keeps org u := by
  unfold execLinkNak
  refine ⟨_, rfl, ?_⟩
  try dsimp only
  repeat' first
    | with_reducible assumption | intro _ | with_reducible apply keeps_whenAwake | with_reducible apply keeps_nak | with_reducible apply Keeps.ite
    | with_reducible apply Keeps.foldl | split | simp only [Keeps.upd]

theorem keeps_execLinkCredit {org s : State} (hz : Keeps org s) (p : Fin 2) (c0 : BitVec 16) (c1 : BitVec 16) (c2 : BitVec 16) : ∃ u, execLinkCredit p c0 c1 c2 s = .next u ∧ Keeps org u := by
  unfold execLinkCredit
  refine ⟨_, rfl, ?_⟩
  try dsimp only
  repeat' first
    | with_reducible assumption | intro _ | with_reducible apply keeps_whenAwake | with_reducible apply keeps_addCredits
    | with_reducible apply Keeps.ite | with_reducible apply Keeps.foldl | split | simp only [Keeps.upd]

theorem keeps_execLinkRetrain {org s : State} (hz : Keeps org s) (p : Fin 2) (t : Nat) : ∃ u, execLinkRetrain p t s = .next u ∧ Keeps org u := by
  unfold execLinkRetrain
  refine ⟨_, rfl, ?_⟩
  try dsimp only
  repeat' first
    | with_reducible assumption | intro _ | with_reducible apply keeps_whenAwake | with_reducible apply keeps_at | with_reducible apply keeps_lockLost
    | with_reducible apply Keeps.ite | with_reducible apply Keeps.foldl | split | simp only [Keeps.upd]

theorem keeps_trained {org s : State} (hz : Keeps org s) (p : Nat) (lanes : Nat) (t : Nat) : Keeps org (State.trained s p lanes t) := by
  unfold State.trained
  try dsimp only
  repeat' first
    | with_reducible assumption | intro _ | with_reducible apply keeps_trainEnd | with_reducible apply keeps_readyAgain
    | with_reducible apply keeps_drainAll | with_reducible apply Keeps.ite | with_reducible apply Keeps.foldl | split | simp only [Keeps.upd]

theorem keeps_execLinkRetrainDone {org s : State} (hz : Keeps org s) (p : Fin 2) (lanes : BitVec 4) (t : Nat) : ∃ u, execLinkRetrainDone p lanes t s = .next u ∧ Keeps org u := by
  unfold execLinkRetrainDone
  refine ⟨_, rfl, ?_⟩
  try dsimp only
  repeat' first
    | with_reducible assumption | intro _ | with_reducible apply keeps_whenAwake | with_reducible apply keeps_at | with_reducible apply keeps_trained
    | with_reducible apply Keeps.ite | with_reducible apply Keeps.foldl | split | simp only [Keeps.upd]

theorem keeps_execLinkRetryTimer {org s : State} (hz : Keeps org s) (p : Fin 2) (t : Nat) : ∃ u, execLinkRetryTimer p t s = .next u ∧ Keeps org u := by
  unfold execLinkRetryTimer
  refine ⟨_, rfl, ?_⟩
  try dsimp only
  repeat' first
    | with_reducible assumption | intro _ | with_reducible apply keeps_whenAwake | with_reducible apply keeps_at
    | with_reducible apply keeps_retryPort | with_reducible apply Keeps.ite | with_reducible apply Keeps.foldl | split | simp only [Keeps.upd]

theorem keeps_execCreditReturnTimer {org s : State} (hz : Keeps org s) (p : Fin 2) (t : Nat) : ∃ u, execCreditReturnTimer p t s = .next u ∧ Keeps org u := by
  unfold execCreditReturnTimer
  refine ⟨_, rfl, ?_⟩
  try dsimp only
  repeat' first
    | with_reducible assumption | intro _ | with_reducible apply keeps_whenAwake | with_reducible apply keeps_at
    | with_reducible apply keeps_returnCredits | with_reducible apply Keeps.ite | with_reducible apply Keeps.foldl | split | simp only [Keeps.upd]

theorem keeps_execRdReq {org s : State} (hz : Keeps org s) (p : Fin 2) (dest : Byte) (src : Byte) (address : BitVec 48) (n : Word32) (seq : Word32) (epoch : Word64) (tag : Word64) (t : Nat) : ∃ u, execRdReq p dest src address n seq epoch tag t s = .next u ∧ Keeps org u := by
  unfold execRdReq
  refine ⟨_, rfl, ?_⟩
  try dsimp only
  repeat' first
    | with_reducible assumption | intro _ | with_reducible apply keeps_whenAwake | with_reducible apply keeps_at | with_reducible apply keeps_receive
    | with_reducible apply Keeps.ite | with_reducible apply Keeps.foldl | split | simp only [Keeps.upd]

theorem keeps_execWrReq {org s : State} (hz : Keeps org s) (p : Fin 2) (dest : Byte) (src : Byte) (address : BitVec 48) (seq : Word32) (epoch : Word64) (tag : Word64) (data : List Byte) (t : Nat) : ∃ u, execWrReq p dest src address seq epoch tag data t s = .next u ∧ Keeps org u := by
  unfold execWrReq
  refine ⟨_, rfl, ?_⟩
  try dsimp only
  repeat' first
    | with_reducible assumption | intro _ | with_reducible apply keeps_whenAwake | with_reducible apply keeps_at | with_reducible apply keeps_receive
    | with_reducible apply Keeps.ite | with_reducible apply Keeps.foldl | split | simp only [Keeps.upd]

theorem keeps_execRdResp {org s : State} (hz : Keeps org s) (p : Fin 2) (dest : Byte) (src : Byte) (status : BitVec 2) (seq : Word32) (epoch : Word64) (tag : Word64) (data : List Byte) (t : Nat) : ∃ u, execRdResp p dest src status seq epoch tag data t s = .next u ∧ Keeps org u := by
  unfold execRdResp
  refine ⟨_, rfl, ?_⟩
  try dsimp only
  repeat' first
    | with_reducible assumption | intro _ | with_reducible apply keeps_whenAwake | with_reducible apply keeps_at | with_reducible apply keeps_receive
    | with_reducible apply Keeps.ite | with_reducible apply Keeps.foldl | split | simp only [Keeps.upd]

theorem keeps_execWrAck {org s : State} (hz : Keeps org s) (p : Fin 2) (dest : Byte) (src : Byte) (status : BitVec 2) (seq : Word32) (epoch : Word64) (tag : Word64) (t : Nat) : ∃ u, execWrAck p dest src status seq epoch tag t s = .next u ∧ Keeps org u := by
  unfold execWrAck
  refine ⟨_, rfl, ?_⟩
  try dsimp only
  repeat' first
    | with_reducible assumption | intro _ | with_reducible apply keeps_whenAwake | with_reducible apply keeps_at | with_reducible apply keeps_receive
    | with_reducible apply Keeps.ite | with_reducible apply Keeps.foldl | split | simp only [Keeps.upd]

theorem keeps_execEventMessage {org s : State} (hz : Keeps org s) (p : Fin 2) (dest : Byte) (src : Byte) (seq : Word32) (epoch : Word64) (tag : Word64) (source : BitVec 16) (count : Byte) (flags : Byte) (tb0 : Word64) (t : Nat) : ∃ u, execEventMessage p dest src seq epoch tag source count flags tb0 t s = .next u ∧ Keeps org u := by
  unfold execEventMessage
  refine ⟨_, rfl, ?_⟩
  try dsimp only
  repeat' first
    | with_reducible assumption | intro _ | with_reducible apply keeps_whenAwake | with_reducible apply keeps_at | with_reducible apply keeps_receive
    | with_reducible apply Keeps.ite | with_reducible apply Keeps.foldl | split | simp only [Keeps.upd]

theorem keeps_reqTimeout {org s : State} (hz : Keeps org s) (k : Nat) (t : Nat) : Keeps org (State.reqTimeout s k t) := by
  unfold State.reqTimeout
  try dsimp only
  repeat' first
    | with_reducible assumption | intro _ | with_reducible apply keeps_endReq | with_reducible apply keeps_drainAll | with_reducible apply Keeps.ite
    | with_reducible apply Keeps.foldl | with_reducible refine Keeps.ofSnd (by assumption) ?_ | with_reducible refine Keeps.ofFst (by assumption) ?_
    | split | simp only [Keeps.upd]

theorem keeps_execPeerRequestTimeout {org s : State} (hz : Keeps org s) (k : Nat) (t : Nat) : ∃ u, execPeerRequestTimeout k t s = .next u ∧ Keeps org u := by
  unfold execPeerRequestTimeout
  refine ⟨_, rfl, ?_⟩
  try dsimp only
  repeat' first
    | with_reducible assumption | intro _ | with_reducible apply keeps_whenAwake | with_reducible apply keeps_at
    | with_reducible apply keeps_reqTimeout | with_reducible apply Keeps.ite | with_reducible apply Keeps.foldl | split | simp only [Keeps.upd]

theorem keeps_execHostRelayRead {org s : State} (hz : Keeps org s) (t : Nat) : ∃ u, execHostRelayRead t s = .next u ∧ Keeps org u := by
  unfold execHostRelayRead
  refine ⟨_, rfl, ?_⟩
  try dsimp only
  repeat' first
    | with_reducible assumption | intro _ | with_reducible apply keeps_whenAwake | with_reducible apply keeps_at | with_reducible apply keeps_relay
    | with_reducible apply keeps_drainAll | with_reducible apply Keeps.ite | with_reducible apply Keeps.foldl | split | simp only [Keeps.upd]

theorem keeps_execHostRelayWrite {org s : State} (hz : Keeps org s) (t : Nat) : ∃ u, execHostRelayWrite t s = .next u ∧ Keeps org u := by
  unfold execHostRelayWrite
  refine ⟨_, rfl, ?_⟩
  try dsimp only
  repeat' first
    | with_reducible assumption | intro _ | with_reducible apply keeps_whenAwake | with_reducible apply keeps_at | with_reducible apply keeps_relay
    | with_reducible apply keeps_drainAll | with_reducible apply Keeps.ite | with_reducible apply Keeps.foldl | split | simp only [Keeps.upd]

end Sys2Proof.Machine
end

