-- ==== Sys2Proof/Laws/KeepsHostLink.lean ====
section
/-! SUPPORT. What the definitions of Machine/HostLink.lean keep: the queue, the canonical form of the tables, what has left the device, the free
values taken, the OTP (`Keeps`). -/
namespace Sys2Proof.Machine

theorem keeps_mastersStop {org s : State} (hz : Keeps org s) : Keeps org (State.mastersStop s) := by
  unfold State.mastersStop
  try dsimp only
  repeat' first
    | with_reducible assumption | intro _ | with_reducible apply keeps_setBank | with_reducible apply Keeps.ite | with_reducible apply Keeps.foldl
    | with_reducible refine Keeps.ofSnd (by assumption) ?_ | with_reducible refine Keeps.ofFst (by assumption) ?_ | split | simp only [Keeps.upd]

theorem keeps_configClear {org s : State} (hz : Keeps org s) : Keeps org (State.configClear s) := by
  unfold State.configClear
  try dsimp only
  repeat' first
    | with_reducible assumption | intro _ | with_reducible apply keeps_setFld | with_reducible apply keeps_mastersStop
    | with_reducible apply Keeps.ite | with_reducible apply Keeps.foldl | split | simp only [Keeps.upd]

theorem keeps_hostDown {org s : State} (hz : Keeps org s) : Keeps org (State.hostDown s) := by
  unfold State.hostDown
  try dsimp only
  repeat' first
    | with_reducible assumption | intro _ | with_reducible apply keeps_configClear | with_reducible apply keeps_setReg
    | with_reducible apply keeps_linkWidth | with_reducible apply keeps_inc | with_reducible apply keeps_raise | with_reducible apply Keeps.ite
    | with_reducible apply Keeps.foldl | split | simp only [Keeps.upd]

theorem keeps_hostLinkUp {org s : State} (hz : Keeps org s) (speed : Nat) (width : Nat) : Keeps org (State.hostLinkUp s speed width) := by
  unfold State.hostLinkUp
  try dsimp only
  repeat' first
    | with_reducible assumption | intro _ | with_reducible apply keeps_setReg | with_reducible apply keeps_linkWidth
    | with_reducible apply keeps_raise | with_reducible apply Keeps.ite | with_reducible apply Keeps.foldl | split | simp only [Keeps.upd]

theorem keeps_perst {org s : State} (hz : Keeps org s) (high : Bool) (refclk : Bool) : Keeps org (State.perst s high refclk) := by
  unfold State.perst
  try dsimp only
  repeat' first
    | with_reducible assumption | intro _ | with_reducible apply keeps_hostDown | with_reducible apply Keeps.ite | with_reducible apply Keeps.foldl
    | split | simp only [Keeps.upd]

theorem keeps_configRequest {org s0 : State} (hz : Keeps org s0) (msix : Option Bool) (mask : Option Bool) (bme : Option Bool) (rd : Option ConfigId) : Keeps org (State.configRequest s0 msix mask bme rd) := by
  unfold State.configRequest
  try dsimp only
  repeat' first
    | with_reducible assumption | intro _ | with_reducible apply keeps_emit | with_reducible apply keeps_setFld
    | with_reducible apply keeps_mastersStop | with_reducible apply keeps_pbaFlush | with_reducible apply Keeps.ite | with_reducible apply Keeps.foldl
    | with_reducible refine Keeps.ofSnd (by assumption) ?_ | with_reducible refine Keeps.ofFst (by assumption) ?_ | split | simp only [Keeps.upd]

theorem keeps_regDefault {org s : State} (hz : Keeps org s) (o : Nat) : Keeps org (State.regDefault s o) := by
  unfold State.regDefault
  try dsimp only
  repeat' first
    | with_reducible assumption | intro _ | with_reducible apply keeps_setReg | with_reducible apply Keeps.ite | with_reducible apply Keeps.foldl
    | split | simp only [Keeps.upd]

theorem keeps_flr {org s : State} (hz : Keeps org s) : Keeps org s.flr := by
  unfold State.flr
  have h := keeps_csrFilter (keeps_csrFilter (keeps_configClear hz) fun p => !(decide (R.MSIX ≤ p.1) && decide (p.1 < R.MSIX + 0x400)))
    fun p => !(decide (pbaOff ≤ p.1) && decide (p.1 < pbaOff + 8))
  dsimp only
  with_reducible apply keeps_raise
  with_reducible apply keeps_inc
  with_reducible apply keeps_setBank
  with_reducible apply Keeps.foldl
  · simp only [SMap.clearRange]
    exact Keeps.upd.2 h
  · intro y e hy
    with_reducible exact keeps_regDefault hy e

theorem keeps_execPerst {org s : State} (hz : Keeps org s) (high : Bool) (refclk : Bool) : ∃ u, execPerst high refclk s = .next u ∧ Keeps org u := by
  unfold execPerst
  refine ⟨_, rfl, ?_⟩
  try dsimp only
  repeat' first
    | with_reducible assumption | intro _ | with_reducible apply keeps_perst | with_reducible apply Keeps.ite | with_reducible apply Keeps.foldl
    | split | simp only [Keeps.upd]

theorem keeps_execPcieLinkDown {org s : State} (hz : Keeps org s) : ∃ u, execPcieLinkDown s = .next u ∧ Keeps org u := by
  unfold execPcieLinkDown
  refine ⟨_, rfl, ?_⟩
  try dsimp only
  repeat' first
    | with_reducible assumption | intro _ | with_reducible apply keeps_whenAwake | with_reducible apply keeps_hostDown
    | with_reducible apply Keeps.ite | with_reducible apply Keeps.foldl | split | simp only [Keeps.upd]

theorem keeps_execPcieLinkUp {org s : State} (hz : Keeps org s) (speed : BitVec 4) (width : BitVec 4) : ∃ u, execPcieLinkUp speed width s = .next u ∧ Keeps org u := by
  unfold execPcieLinkUp
  refine ⟨_, rfl, ?_⟩
  try dsimp only
  repeat' first
    | with_reducible assumption | intro _ | with_reducible apply keeps_whenAwake | with_reducible apply keeps_hostLinkUp
    | with_reducible apply Keeps.ite | with_reducible apply Keeps.foldl | split | simp only [Keeps.upd]

theorem keeps_execFunctionLevelReset {org s : State} (hz : Keeps org s) : ∃ u, execFunctionLevelReset s = .next u ∧ Keeps org u := by
  unfold execFunctionLevelReset
  refine ⟨_, rfl, ?_⟩
  try dsimp only
  repeat' first
    | with_reducible assumption | intro _ | with_reducible apply keeps_whenAwake | with_reducible apply keeps_flr | with_reducible apply Keeps.ite
    | with_reducible apply Keeps.foldl | split | simp only [Keeps.upd]

theorem keeps_execConfigurationRequest {org s : State} (hz : Keeps org s) (msix : Option Bool) (mask : Option Bool) (header : HeaderAccess) : ∃ u, execConfigurationRequest msix mask header s = .next u ∧ Keeps org u := by
  unfold execConfigurationRequest
  refine ⟨_, rfl, ?_⟩
  try dsimp only
  repeat' first
    | with_reducible assumption | intro _ | with_reducible apply keeps_whenAwake | with_reducible apply keeps_configRequest
    | with_reducible apply Keeps.ite | with_reducible apply Keeps.foldl | split | simp only [Keeps.upd]

theorem keeps_execBar2Read {org s : State} (hz : Keeps org s) (o : BitVec 36) (n : Fin 4097) (bad : Bool) (t : Nat) : ∃ u, execBar2Read o n bad t s = .next u ∧ Keeps org u := by
  unfold execBar2Read
  refine ⟨_, rfl, ?_⟩
  try dsimp only
  repeat' first
    | with_reducible assumption | intro _ | with_reducible apply keeps_whenAwake | with_reducible apply keeps_at | with_reducible apply keeps_bar2
    | with_reducible apply Keeps.ite | with_reducible apply Keeps.foldl | split | simp only [Keeps.upd]

theorem keeps_execBar2Write {org s : State} (hz : Keeps org s) (o : BitVec 36) (data : List Byte) (bad : Bool) (t : Nat) : ∃ u, execBar2Write o data bad t s = .next u ∧ Keeps org u := by
  unfold execBar2Write
  refine ⟨_, rfl, ?_⟩
  try dsimp only
  repeat' first
    | with_reducible assumption | intro _ | with_reducible apply keeps_whenAwake | with_reducible apply keeps_at | with_reducible apply keeps_bar2
    | with_reducible apply Keeps.ite | with_reducible apply Keeps.foldl | split | simp only [Keeps.upd]

end Sys2Proof.Machine
end

