-- ==== Sys2Proof/Laws/KeepsStart.lean ====
section
/-! SUPPORT. What the definitions of Machine/Start.lean keep: the queue, the canonical form of the tables, what has left the device, the free
values taken, the OTP (`Keeps`). -/
namespace Sys2Proof.Machine

theorem keeps_afterReset {org s : State} (hz : Keeps org s) : Keeps org s.afterReset :=
  hz.of rfl (fun _ => rfl) (List.prefix_refl _) (Nat.le_refl _) ⟨rfl, rfl, fun _ => id, id, id⟩

theorem keeps_strap {org s : State} (hz : Keeps org s) (head : Bool) : Keeps org (State.strap s head) := by
  unfold State.strap
  try dsimp only
  repeat' first
    | with_reducible assumption | intro _ | with_reducible apply keeps_setFld | with_reducible apply keeps_setLevel | with_reducible apply Keeps.ite
    | with_reducible apply Keeps.foldl | split | simp only [Keeps.upd]

theorem keeps_trainAll {org s : State} (hz : Keeps org s) (b : BootIn) (t : Nat) : Keeps org (State.trainAll s b t) := by
  unfold State.trainAll
  try dsimp only
  repeat' first
    | with_reducible assumption | intro _ | with_reducible apply keeps_enter | with_reducible apply keeps_setPort
    | with_reducible apply keeps_trainEnd | with_reducible apply keeps_drawSeed | with_reducible apply keeps_checkChannels
    | with_reducible apply keeps_setLevel | with_reducible apply keeps_levelsNow | with_reducible apply keeps_enumStart
    | with_reducible apply keeps_domains | with_reducible apply Keeps.ite | with_reducible apply Keeps.foldl | split | simp only [Keeps.upd]

theorem keeps_boot {org s : State} (hz : Keeps org s) (b : BootIn) (t : Nat) : Keeps org (State.boot s b t) := by
  unfold State.boot
  try dsimp only
  repeat' first
    | with_reducible assumption | intro _ | with_reducible apply keeps_setState | with_reducible apply keeps_startKey
    | with_reducible apply keeps_secRegs | with_reducible apply keeps_domains | with_reducible apply keeps_bootImage
    | with_reducible apply keeps_readCal | with_reducible apply keeps_activate | with_reducible apply keeps_trainAll | with_reducible apply Keeps.ite
    | with_reducible apply Keeps.foldl | with_reducible apply Keeps.iteFst | with_reducible apply Keeps.iteSnd
    | with_reducible refine Keeps.ofSnd (by assumption) ?_ | with_reducible refine Keeps.ofFst (by assumption) ?_ | split | simp only [Keeps.upd]
    | simp only [Keeps.updSec]

/-- A power-up that finds other parts fitted keeps all but the OTP. -/
theorem kept_fit {org s : State} (hz : Kept org s) (f : Fitted) : Kept org (s.fit f) := hz

theorem keeps_porAssert {org s : State} (hz : Keeps org s) : Keeps org (State.porAssert s) := by
  unfold State.porAssert
  try dsimp only
  repeat' first
    | with_reducible assumption | intro _ | with_reducible apply keeps_afterReset | with_reducible apply Keeps.ite | with_reducible apply Keeps.foldl
    | split | simp only [Keeps.upd]

theorem keeps_countEpochs {org s : State} (hz : Keeps org s) : Keeps org (State.countEpochs s) := by
  unfold State.countEpochs
  try dsimp only
  repeat' first
    | with_reducible assumption | intro _ | with_reducible apply Keeps.ite | with_reducible apply Keeps.foldl | split | simp only [Keeps.upd]

theorem keeps_coldGo {org s : State} (hz : Keeps org s) (pwrOk : Bool) (head : Bool) (b : BootIn) (t : Nat) : Keeps org (State.coldGo s pwrOk head b t) := by
  unfold State.coldGo
  try dsimp only
  repeat' first
    | with_reducible assumption | intro _ | with_reducible apply keeps_boot | with_reducible apply keeps_strap | with_reducible apply keeps_domains
    | with_reducible apply keeps_at | with_reducible apply keeps_countEpochs | with_reducible apply Keeps.ite | with_reducible apply Keeps.foldl
    | split | simp only [Keeps.upd]

theorem kept_trans {a b c : State} (h : Kept a b) (k : Keeps b c) : Kept a c :=
  ⟨k.1.1.trans h.1, k.1.2.1 ∘ h.2.1, h.2.2.1.trans k.1.2.2.1, Nat.le_trans h.2.2.2 k.1.2.2.2⟩

theorem keeps_coldStart {org s : State} (hz : Keeps org s) (pwrOk head : Bool) (b : BootIn) (t : Nat) : Keeps org (s.coldStart pwrOk head none b t) :=
  keeps_coldGo (keeps_afterReset hz) _ _ _ _

theorem kept_coldStart {org s : State} (hz : Keeps org s) (pwrOk head : Bool) (ext : Option Fitted) (b : BootIn) (t : Nat) :
    Kept org (s.coldStart pwrOk head ext b t) := by
  cases ext with
  | none => exact (keeps_coldStart hz pwrOk head b t).1
  | some f => exact kept_trans (kept_fit (keeps_afterReset hz).1 f) (keeps_coldGo (Keeps.refl _) _ _ _ _)

theorem keeps_pwrOkLoss {org s : State} (hz : Keeps org s) : Keeps org (State.pwrOkLoss s) := by
  unfold State.pwrOkLoss
  try dsimp only
  repeat' first
    | with_reducible assumption | intro _ | with_reducible apply keeps_afterReset | with_reducible apply keeps_boot | with_reducible apply keeps_strap
    | with_reducible apply Keeps.ite | with_reducible apply Keeps.foldl | split | simp only [Keeps.upd]

theorem keeps_wakeCold {org s : State} (hz : Keeps org s) (fail : Nat) (b : BootIn) (bits : Nat) (t : Nat) : Keeps org (State.wakeCold s fail b bits t) := by
  unfold State.wakeCold
  try dsimp only
  repeat' first
    | with_reducible assumption | intro _ | with_reducible apply keeps_afterReset | with_reducible apply keeps_strap
    | with_reducible apply keeps_setFld | with_reducible apply keeps_noteWake | with_reducible apply keeps_boot | with_reducible apply Keeps.ite
    | with_reducible apply Keeps.foldl | split | simp only [Keeps.upd]

theorem keeps_wakeGo {org s : State} (hz : Keeps org s) (w : WakeIn) (t : Nat) : Keeps org (State.wakeGo s w t) := by
  unfold State.wakeGo
  try dsimp only
  repeat' first
    | with_reducible assumption | intro _ | with_reducible apply keeps_at | with_reducible apply keeps_crystalWake | with_reducible apply keeps_resume
    | with_reducible apply keeps_wakeCold | with_reducible apply keeps_boot | with_reducible apply Keeps.ite | with_reducible apply Keeps.foldl
    | split | simp only [Keeps.upd]

theorem keeps_wakeSource {org s : State} (hz : Keeps org s) (bit : Nat) (w : WakeIn) (t : Nat) : Keeps org (State.wakeSource s bit w t) := by
  unfold State.wakeSource
  try dsimp only
  repeat' first
    | with_reducible assumption | intro _ | with_reducible apply keeps_noteWake | with_reducible apply keeps_wakeGo | with_reducible apply Keeps.ite
    | with_reducible apply Keeps.foldl | split | simp only [Keeps.upd]

theorem keeps_pwrOkRise {org s : State} (hz : Keeps org s) (w : WakeIn) (t : Nat) : Keeps org (State.pwrOkRise s w t) := by
  unfold State.pwrOkRise
  try dsimp only
  repeat' first
    | with_reducible assumption | intro _ | with_reducible apply keeps_at | with_reducible apply keeps_wakeGo | with_reducible apply keeps_countEpochs
    | with_reducible apply keeps_boot | with_reducible apply Keeps.ite | with_reducible apply Keeps.foldl | split | simp only [Keeps.upd]

theorem keeps_pfailAssert {org s : State} (hz : Keeps org s) (us : Nat) (t : Nat) : Keeps org (State.pfailAssert s us t) := by
  unfold State.pfailAssert
  try dsimp only
  repeat' first
    | with_reducible assumption | intro _ | with_reducible apply keeps_setFld | with_reducible apply keeps_setLevel
    | with_reducible apply keeps_shedStart | with_reducible apply keeps_calPfail | with_reducible apply keeps_finishCmd
    | with_reducible apply keeps_mapPfail | with_reducible apply keeps_reefSync | with_reducible apply keeps_jobSync | with_reducible apply Keeps.ite
    | with_reducible apply Keeps.foldl | with_reducible apply Keeps.iteFst | with_reducible apply Keeps.iteSnd
    | with_reducible refine Keeps.ofSnd (by assumption) ?_ | with_reducible refine Keeps.ofFst (by assumption) ?_ | split | simp only [Keeps.upd]

theorem keeps_pfailRelease {org s : State} (hz : Keeps org s) (t : Nat) : Keeps org (State.pfailRelease s t) := by
  unfold State.pfailRelease
  try dsimp only
  repeat' first
    | with_reducible assumption | intro _ | with_reducible apply keeps_setFld | with_reducible apply keeps_setLevel
    | with_reducible apply keeps_mapPfailRelease | with_reducible apply Keeps.ite | with_reducible apply Keeps.foldl | split | simp only [Keeps.upd]

theorem keeps_pfailHoldEnd {org s : State} (hz : Keeps org s) (w : WakeIn) (t : Nat) : Keeps org (State.pfailHoldEnd s w t) := by
  unfold State.pfailHoldEnd
  try dsimp only
  repeat' first
    | with_reducible assumption | intro _ | with_reducible apply keeps_mapHoldEnd | with_reducible apply keeps_resumeCtxs
    | with_reducible apply keeps_retryAll | with_reducible apply keeps_boot | with_reducible apply keeps_trainAll
    | with_reducible apply keeps_enterLoad | with_reducible apply keeps_wakeGo | with_reducible apply keeps_noteWake | with_reducible apply Keeps.ite
    | with_reducible apply Keeps.foldl | with_reducible refine Keeps.ofSnd (by assumption) ?_ | with_reducible refine Keeps.ofFst (by assumption) ?_
    | split | simp only [Keeps.upd]

theorem keeps_safeStop {org s : State} (hz : Keeps org s) (low : Bool) : Keeps org (State.safeStop s low) := by
  unfold State.safeStop
  try dsimp only
  repeat' first
    | with_reducible assumption | intro _ | with_reducible apply keeps_boot | with_reducible apply keeps_setLevel | with_reducible apply Keeps.ite
    | with_reducible apply Keeps.foldl | with_reducible refine Keeps.ofSnd (by assumption) ?_ | with_reducible refine Keeps.ofFst (by assumption) ?_
    | split | simp only [Keeps.upd]

theorem keeps_thermalTrip {org s : State} (hz : Keeps org s) (t : Nat) : Keeps org (State.thermalTrip s t) := by
  unfold State.thermalTrip
  try dsimp only
  repeat' first
    | with_reducible assumption | intro _ | with_reducible apply keeps_boot | with_reducible apply keeps_trip | with_reducible apply Keeps.ite
    | with_reducible apply Keeps.foldl | with_reducible refine Keeps.ofSnd (by assumption) ?_ | with_reducible refine Keeps.ofFst (by assumption) ?_
    | split | simp only [Keeps.upd]

theorem keeps_relocked {org s : State} (hz : Keeps org s) (a : Nat) : Keeps org (State.relocked s a) := by
  unfold State.relocked
  try dsimp only
  repeat' first
    | with_reducible assumption | intro _ | with_reducible apply keeps_retryAll | with_reducible apply Keeps.ite | with_reducible apply Keeps.foldl
    | split | simp only [Keeps.upd]

theorem keeps_execPorAssert {org s : State} (hz : Keeps org s) : ∃ u, execPorAssert s = .next u ∧ Keeps org u := by
  unfold execPorAssert
  refine ⟨_, rfl, ?_⟩
  try dsimp only
  repeat' first
    | with_reducible assumption | intro _ | with_reducible apply keeps_porAssert | with_reducible apply Keeps.ite | with_reducible apply Keeps.foldl
    | split | simp only [Keeps.upd]

theorem keeps_execColdStart {org s : State} (hz : Keeps org s) (pwrOk head : Bool) (b : BootIn) (t : Nat) :
    ∃ u, execColdStart pwrOk head none b t s = .next u ∧ Keeps org u :=
  ⟨_, rfl, keeps_coldStart hz pwrOk head b t⟩

theorem kept_execColdStart {org s : State} (hz : Keeps org s) (pwrOk head : Bool) (ext : Option Fitted) (b : BootIn) (t : Nat) :
    ∃ u, execColdStart pwrOk head ext b t s = .next u ∧ Kept org u :=
  ⟨_, rfl, kept_coldStart hz pwrOk head ext b t⟩

theorem keeps_execPwrOkLoss {org s : State} (hz : Keeps org s) (t : Nat) : ∃ u, execPwrOkLoss t s = .next u ∧ Keeps org u := by
  unfold execPwrOkLoss
  refine ⟨_, rfl, ?_⟩
  try dsimp only
  repeat' first
    | with_reducible assumption | intro _ | with_reducible apply keeps_at | with_reducible apply keeps_pwrOkLoss | with_reducible apply Keeps.ite
    | with_reducible apply Keeps.foldl | split | simp only [Keeps.upd]

theorem keeps_execPwrOkRise {org s : State} (hz : Keeps org s) (w : WakeIn) (t : Nat) : ∃ u, execPwrOkRise w t s = .next u ∧ Keeps org u := by
  unfold execPwrOkRise
  refine ⟨_, rfl, ?_⟩
  try dsimp only
  repeat' first
    | with_reducible assumption | intro _ | with_reducible apply keeps_pwrOkRise | with_reducible apply Keeps.ite | with_reducible apply Keeps.foldl
    | split | simp only [Keeps.upd]

theorem keeps_execWakeNPin {org s : State} (hz : Keeps org s) (k : Fin 4) (w : WakeIn) (t : Nat) : ∃ u, execWakeNPin k w t s = .next u ∧ Keeps org u := by
  unfold execWakeNPin
  refine ⟨_, rfl, ?_⟩
  try dsimp only
  repeat' first
    | with_reducible assumption | intro _ | with_reducible apply keeps_at | with_reducible apply keeps_wakeSource | with_reducible apply Keeps.ite
    | with_reducible apply Keeps.foldl | split | simp only [Keeps.upd]

theorem keeps_execCanWake {org s : State} (hz : Keeps org s) (j : Fin 4) (w : WakeIn) (t : Nat) : ∃ u, execCanWake j w t s = .next u ∧ Keeps org u := by
  unfold execCanWake
  refine ⟨_, rfl, ?_⟩
  try dsimp only
  repeat' first
    | with_reducible assumption | intro _ | with_reducible apply keeps_at | with_reducible apply keeps_wakeSource | with_reducible apply Keeps.ite
    | with_reducible apply Keeps.foldl | split | simp only [Keeps.upd]

theorem keeps_execTb3Alarm {org s : State} (hz : Keeps org s) (w : WakeIn) (t : Nat) : ∃ u, execTb3Alarm w t s = .next u ∧ Keeps org u := by
  unfold execTb3Alarm
  refine ⟨_, rfl, ?_⟩
  try dsimp only
  repeat' first
    | with_reducible assumption | intro _ | with_reducible apply keeps_at | with_reducible apply keeps_wakeSource | with_reducible apply Keeps.ite
    | with_reducible apply Keeps.foldl | split | simp only [Keeps.upd]

theorem keeps_execPfailAssert {org s : State} (hz : Keeps org s) (us : Nat) (t : Nat) : ∃ u, execPfailAssert us t s = .next u ∧ Keeps org u := by
  unfold execPfailAssert
  refine ⟨_, rfl, ?_⟩
  try dsimp only
  repeat' first
    | with_reducible assumption | intro _ | with_reducible apply keeps_at | with_reducible apply keeps_pfailAssert | with_reducible apply Keeps.ite
    | with_reducible apply Keeps.foldl | split | simp only [Keeps.upd]

theorem keeps_execPfailRelease {org s : State} (hz : Keeps org s) (t : Nat) : ∃ u, execPfailRelease t s = .next u ∧ Keeps org u := by
  unfold execPfailRelease
  refine ⟨_, rfl, ?_⟩
  try dsimp only
  repeat' first
    | with_reducible assumption | intro _ | with_reducible apply keeps_at | with_reducible apply keeps_pfailRelease | with_reducible apply Keeps.ite
    | with_reducible apply Keeps.foldl | split | simp only [Keeps.upd]

theorem keeps_execPfailHoldEnd {org s : State} (hz : Keeps org s) (w : WakeIn) (t : Nat) : ∃ u, execPfailHoldEnd w t s = .next u ∧ Keeps org u := by
  unfold execPfailHoldEnd
  refine ⟨_, rfl, ?_⟩
  try dsimp only
  repeat' first
    | with_reducible assumption | intro _ | with_reducible apply keeps_at | with_reducible apply keeps_pfailHoldEnd | with_reducible apply Keeps.ite
    | with_reducible apply Keeps.foldl | split | simp only [Keeps.upd]

theorem keeps_execSafeStopAssert {org s : State} (hz : Keeps org s) : ∃ u, execSafeStopAssert s = .next u ∧ Keeps org u := by
  unfold execSafeStopAssert
  refine ⟨_, rfl, ?_⟩
  try dsimp only
  repeat' first
    | with_reducible assumption | intro _ | with_reducible apply keeps_safeStop | with_reducible apply Keeps.ite | with_reducible apply Keeps.foldl
    | split | simp only [Keeps.upd]

theorem keeps_execSafeStopRelease {org s : State} (hz : Keeps org s) : ∃ u, execSafeStopRelease s = .next u ∧ Keeps org u := by
  unfold execSafeStopRelease
  refine ⟨_, rfl, ?_⟩
  try dsimp only
  repeat' first
    | with_reducible assumption | intro _ | with_reducible apply keeps_safeStop | with_reducible apply Keeps.ite | with_reducible apply Keeps.foldl
    | split | simp only [Keeps.upd]

theorem keeps_execThermalTrip {org s : State} (hz : Keeps org s) (t : Nat) : ∃ u, execThermalTrip t s = .next u ∧ Keeps org u := by
  unfold execThermalTrip
  refine ⟨_, rfl, ?_⟩
  try dsimp only
  repeat' first
    | with_reducible assumption | intro _ | with_reducible apply keeps_whenAwake | with_reducible apply keeps_at
    | with_reducible apply keeps_thermalTrip | with_reducible apply Keeps.ite | with_reducible apply Keeps.foldl | split | simp only [Keeps.upd]

theorem keeps_execAtollRelockDone {org s : State} (hz : Keeps org s) (a : Fin 6) (t : Nat) : ∃ u, execAtollRelockDone a t s = .next u ∧ Keeps org u := by
  unfold execAtollRelockDone
  refine ⟨_, rfl, ?_⟩
  try dsimp only
  repeat' first
    | with_reducible assumption | intro _ | with_reducible apply keeps_whenAwake | with_reducible apply keeps_at | with_reducible apply keeps_relocked
    | with_reducible apply Keeps.ite | with_reducible apply Keeps.foldl | split | simp only [Keeps.upd]

end Sys2Proof.Machine
end

