-- ==== Sys2Proof/Laws/KeepsBoundary.lean ====
section
/-! SUPPORT. What the definitions of Machine/Boundary.lean keep: the queue, the canonical form of the tables, what has left the device, the free
values taken, the OTP (`Keeps`). -/
namespace Sys2Proof.Machine

theorem keeps_isletTimes {org s : State} (hz : Keeps org s) : Keeps org (State.isletTimes s) := by
  unfold State.isletTimes
  try dsimp only
  repeat' first
    | with_reducible assumption | intro _ | with_reducible apply Keeps.ite | with_reducible apply Keeps.foldl | with_reducible apply Keeps.foldlFst
    | with_reducible apply Keeps.foldlSnd | with_reducible apply Keeps.iteFst | with_reducible apply Keeps.iteSnd
    | with_reducible refine Keeps.ofSnd (by assumption) ?_ | with_reducible refine Keeps.ofFst (by assumption) ?_ | split | simp only [Keeps.upd]

theorem keeps_measures {org s : State} (hz : Keeps org s) : Keeps org (State.measures s) := by
  unfold State.measures
  try dsimp only
  repeat' first
    | with_reducible assumption | intro _ | with_reducible apply keeps_tick | with_reducible apply keeps_setReg
    | with_reducible apply keeps_isletTimes | with_reducible apply Keeps.ite | with_reducible apply Keeps.foldl | split | simp only [Keeps.upd]

theorem keeps_pilotMove {org s : State} (hz : Keeps org s) (m : PilotMove) : Keeps org (s.pilotMove m) := by
  unfold State.pilotMove
  have h := fun d c o id x => keeps_evictOne (org := org) d c o (e := { st := s }) hz (id, x)
  dsimp only
  split
  · exact hz
  · refine Keeps.ite hz (Keeps.ite (keeps_startLoad hz _ _ _ _ _) (Keeps.ite (Keeps.ite (keeps_placeRegs (h _ _ _ _ _)) hz) ?_))
    exact keeps_requestMove hz _ _ _ _ _ _ _ _ _

theorem keeps_deferredMoves {org s : State} (hz : Keeps org s) : Keeps org (State.deferredMoves s) := by
  unfold State.deferredMoves
  try dsimp only
  repeat' first
    | with_reducible assumption | intro _ | with_reducible apply keeps_grantMove | with_reducible apply Keeps.ite | with_reducible apply Keeps.foldl
    | with_reducible apply Keeps.iteFst | with_reducible apply Keeps.iteSnd | split | simp only [Keeps.upd]

theorem keeps_setStretch {org s : State} (hz : Keeps org s) (n : Nat) (st : Nat) (kind : Nat) (reason : Nat) (metric : Nat) (target : Nat) : Keeps org (State.setStretch s n st kind reason metric target) := by
  unfold State.setStretch
  try dsimp only
  repeat' first
    | with_reducible assumption | intro _ | with_reducible apply keeps_setNslot | with_reducible apply keeps_setFld
    | with_reducible apply keeps_setReg | with_reducible apply keeps_setUnitState | with_reducible apply keeps_writeDecision
    | with_reducible apply Keeps.ite | with_reducible apply Keeps.foldl | with_reducible refine Keeps.ofSnd (by assumption) ?_
    | with_reducible refine Keeps.ofFst (by assumption) ?_ | split | simp only [Keeps.upd]

theorem keeps_pilotPlan {org s : State} (hz : Keeps org s) (n : Nat) (p : List (List Nat)) : Keeps org (State.pilotPlan s n p) := by
  unfold State.pilotPlan
  try dsimp only
  repeat' first
    | with_reducible assumption | intro _ | with_reducible apply keeps_setPlan | with_reducible apply Keeps.ite | with_reducible apply Keeps.foldl
    | with_reducible refine Keeps.ofSnd (by assumption) ?_ | with_reducible refine Keeps.ofFst (by assumption) ?_ | split | simp only [Keeps.upd]

theorem keeps_pace {org s : State} (hz : Keeps org s) (n : Nat) (wider : Option (List (List Nat))) : Keeps org (State.pace s n wider) := by
  unfold State.pace
  try dsimp only
  repeat' first
    | with_reducible assumption | intro _ | with_reducible apply keeps_setReg | with_reducible apply keeps_pilotPlan
    | with_reducible apply keeps_setStretch | with_reducible apply Keeps.ite | with_reducible apply Keeps.foldl
    | with_reducible refine Keeps.ofSnd (by assumption) ?_ | with_reducible refine Keeps.ofFst (by assumption) ?_ | split | simp only [Keeps.upd]

theorem keeps_steerReef {org s : State} (hz : Keeps org s) (x : ReefShares) : Keeps org (State.steerReef s x) := by
  unfold State.steerReef
  try dsimp only
  repeat' first
    | with_reducible assumption | intro _ | with_reducible apply keeps_noteDecision | with_reducible apply Keeps.ite
    | with_reducible apply Keeps.foldl | split | simp only [Keeps.upd]

theorem keeps_gateIdle {org s : State} (hz : Keeps org s) : Keeps org (State.gateIdle s) := by
  unfold State.gateIdle
  try dsimp only
  repeat' first
    | with_reducible assumption | intro _ | with_reducible apply keeps_setIslet | with_reducible apply Keeps.ite | with_reducible apply Keeps.foldl
    | with_reducible apply Keeps.iteFst | with_reducible apply Keeps.iteSnd | split | simp only [Keeps.upd]

theorem keeps_replan {org s : State} (hz : Keeps org s) (x : EpochIn) : Keeps org (State.replan s x) := by
  unfold State.replan
  try dsimp only
  repeat' first
    | with_reducible assumption | intro _ | with_reducible apply keeps_measures | with_reducible apply keeps_setFld | with_reducible apply keeps_inc
    | with_reducible apply keeps_pace | with_reducible apply keeps_pilotMove | with_reducible apply keeps_deferredMoves
    | with_reducible apply keeps_steerReef | with_reducible apply keeps_showPlan | with_reducible apply keeps_gateIdle
    | with_reducible apply keeps_placeRegs | with_reducible apply keeps_settle | with_reducible apply Keeps.ite | with_reducible apply Keeps.foldl
    | with_reducible apply Keeps.iteFst | with_reducible apply Keeps.iteSnd | with_reducible refine Keeps.ofSnd (by assumption) ?_
    | with_reducible refine Keeps.ofFst (by assumption) ?_ | split | simp only [Keeps.upd]

theorem keeps_setSteps {org s : State} (hz : Keeps org s) (a : Nat) (l : List Nat) : Keeps org (State.setSteps s a l) := by
  unfold State.setSteps
  try dsimp only
  repeat' first
    | with_reducible assumption | intro _ | with_reducible apply Keeps.ite | with_reducible apply Keeps.foldl | split | simp only [Keeps.upd]

theorem keeps_thermal {org s : State} (hz : Keeps org s) (tj : Int) : Keeps org (State.thermal s tj) := by
  unfold State.thermal
  try dsimp only
  repeat' first
    | with_reducible assumption | intro _ | with_reducible apply keeps_setFld | with_reducible apply keeps_inc | with_reducible apply keeps_setLevel
    | with_reducible apply Keeps.ite | with_reducible apply Keeps.foldl | split | simp only [Keeps.upd]

theorem keeps_capStep {org s : State} (hz : Keeps org s) (mw : Nat) : Keeps org (State.capStep s mw) := by
  unfold State.capStep
  try dsimp only
  repeat' first
    | with_reducible assumption | intro _ | with_reducible apply keeps_setSteps | with_reducible apply keeps_setFld | with_reducible apply keeps_inc
    | with_reducible apply keeps_setLevel | with_reducible apply keeps_domains | with_reducible apply Keeps.ite | with_reducible apply Keeps.foldl
    | with_reducible refine Keeps.ofSnd (by assumption) ?_ | with_reducible refine Keeps.ofFst (by assumption) ?_ | split | simp only [Keeps.upd]

theorem keeps_power {org s : State} (hz : Keeps org s) (x : EpochIn) (t : Nat) : Keeps org (State.power s x t) := by
  unfold State.power
  try dsimp only
  repeat' first
    | with_reducible assumption | intro _ | with_reducible apply keeps_setReg | with_reducible apply keeps_setFld | with_reducible apply keeps_boot
    | with_reducible apply keeps_thermal | with_reducible apply keeps_capStep | with_reducible apply keeps_thermalTrip
    | with_reducible apply Keeps.ite | with_reducible apply Keeps.foldl | with_reducible refine Keeps.ofSnd (by assumption) ?_
    | with_reducible refine Keeps.ofFst (by assumption) ?_ | split | simp only [Keeps.upd]

theorem keeps_telemetry {org s : State} (hz : Keeps org s) : Keeps org (State.telemetry s) := by
  unfold State.telemetry
  try dsimp only
  repeat' first
    | with_reducible assumption | intro _ | with_reducible apply keeps_ringWrite | with_reducible apply Keeps.ite | with_reducible apply Keeps.foldl
    | with_reducible apply Keeps.foldlFst | with_reducible apply Keeps.foldlSnd | with_reducible apply Keeps.iteFst
    | with_reducible apply Keeps.iteSnd | split | simp only [Keeps.upd]

theorem keeps_causes {org s : State} (hz : Keeps org s) : Keeps org (State.causes s) := by
  unfold State.causes
  try dsimp only
  repeat' first
    | with_reducible assumption | intro _ | with_reducible apply keeps_eventEntry | with_reducible apply keeps_enter | with_reducible apply Keeps.ite
    | with_reducible apply Keeps.foldl | split | simp only [Keeps.upd]

theorem keeps_blockBoundary {org s : State} (hz : Keeps org s) (e : Nat) (t : Nat) : Keeps org (State.blockBoundary s e t) := by
  unfold State.blockBoundary
  try dsimp only
  repeat' first
    | with_reducible assumption | intro _ | with_reducible apply keeps_timeBoundary | with_reducible apply keeps_condBoundary
    | with_reducible apply keeps_shoreCheck | with_reducible apply keeps_domains | with_reducible apply keeps_refreshMask
    | with_reducible apply keeps_estBoundary | with_reducible apply keeps_epochTriggers | with_reducible apply keeps_gsolBoundary
    | with_reducible apply Keeps.ite | with_reducible apply Keeps.foldl | split | simp only [Keeps.upd]

theorem keeps_outputDue {org s : State} (hz : Keeps org s) (e : Nat) (t : Nat) : Keeps org (State.outputDue s e t) := by
  unfold State.outputDue
  try dsimp only
  repeat' first
    | with_reducible assumption | intro _ | with_reducible apply Keeps.ite | with_reducible apply Keeps.foldl | split | simp only [Keeps.upd]

theorem keeps_afterSlot {org s : State} (hz : Keeps org s) (x : EpochIn) (e : Nat) (t : Nat) : Keeps org (State.afterSlot s x e t) := by
  unfold State.afterSlot
  try dsimp only
  repeat' first
    | with_reducible assumption | intro _ | with_reducible apply keeps_jobBoundary | with_reducible apply keeps_blockBoundary
    | with_reducible apply keeps_replan | with_reducible apply keeps_rollbackOccasion | with_reducible apply keeps_addTo
    | with_reducible apply keeps_power | with_reducible apply keeps_reefSync | with_reducible apply keeps_jobSync
    | with_reducible apply keeps_drainAll | with_reducible apply keeps_leaveTo | with_reducible apply keeps_causes
    | with_reducible apply keeps_outputDue | with_reducible apply keeps_telemetry | with_reducible apply Keeps.ite | with_reducible apply Keeps.foldl
    | split | simp only [Keeps.upd]

theorem keeps_epochBoundary {org s : State} (hz : Keeps org s) (x : EpochIn) : Keeps org (State.epochBoundary s x) := by
  unfold State.epochBoundary
  try dsimp only
  repeat' first
    | with_reducible assumption | intro _ | with_reducible apply keeps_at | with_reducible apply keeps_calBoundary
    | with_reducible apply keeps_inForce | with_reducible apply keeps_slotClose | with_reducible apply keeps_afterSlot
    | with_reducible apply Keeps.ite | with_reducible apply Keeps.foldl | split | simp only [Keeps.upd]

theorem keeps_execEpochBoundary {org s : State} (hz : Keeps org s) (x : EpochIn) : ∃ u, execEpochBoundary x s = .next u ∧ Keeps org u := by
  unfold execEpochBoundary
  refine ⟨_, rfl, ?_⟩
  try dsimp only
  repeat' first
    | with_reducible assumption | intro _ | with_reducible apply keeps_epochBoundary | with_reducible apply Keeps.ite
    | with_reducible apply Keeps.foldl | split | simp only [Keeps.upd]

end Sys2Proof.Machine
end

