-- ==== Sys2Proof/Laws/KeepsBuoyOps.lean ====
section
/-! SUPPORT. What the definitions of Machine/BuoyOps.lean keep: the queue, the canonical form of the tables, what has left the device, the free
values taken, the OTP (`Keeps`). -/
namespace Sys2Proof.Machine

theorem keeps_runB {org s : State} (hz : Keeps org s) (op : TOp) (i : Nat) (a : BArgs) (r : Rest) : Keeps org (State.runB s op i a r) := by
  unfold State.runB
  try dsimp only
  repeat' first
    | with_reducible assumption | intro _ | with_reducible apply keeps_issue | with_reducible apply keeps_settle | with_reducible apply Keeps.ite
    | with_reducible apply Keeps.foldl | split | simp only [Keeps.upd]

theorem keeps_execBsig {org s : State} (hz : Keeps org s) (i : IsletId) (a : BArgs) (r : Rest) : ∃ u, execBsig i a r s = .next u ∧ Keeps org u := by
  unfold execBsig
  refine ⟨_, rfl, ?_⟩
  try dsimp only
  repeat' first
    | with_reducible assumption | intro _ | with_reducible apply keeps_runB | with_reducible apply Keeps.ite | with_reducible apply Keeps.foldl
    | split | simp only [Keeps.upd]

theorem keeps_execBset {org s : State} (hz : Keeps org s) (i : IsletId) (a : BArgs) (r : Rest) : ∃ u, execBset i a r s = .next u ∧ Keeps org u := by
  unfold execBset
  refine ⟨_, rfl, ?_⟩
  try dsimp only
  repeat' first
    | with_reducible assumption | intro _ | with_reducible apply keeps_runB | with_reducible apply Keeps.ite | with_reducible apply Keeps.foldl
    | split | simp only [Keeps.upd]

theorem keeps_execBwait {org s : State} (hz : Keeps org s) (i : IsletId) (a : BArgs) (r : Rest) : ∃ u, execBwait i a r s = .next u ∧ Keeps org u := by
  unfold execBwait
  refine ⟨_, rfl, ?_⟩
  try dsimp only
  repeat' first
    | with_reducible assumption | intro _ | with_reducible apply keeps_runB | with_reducible apply Keeps.ite | with_reducible apply Keeps.foldl
    | split | simp only [Keeps.upd]

theorem keeps_execBarr {org s : State} (hz : Keeps org s) (i : IsletId) (a : BArgs) (r : Rest) : ∃ u, execBarr i a r s = .next u ∧ Keeps org u := by
  unfold execBarr
  refine ⟨_, rfl, ?_⟩
  try dsimp only
  repeat' first
    | with_reducible assumption | intro _ | with_reducible apply keeps_runB | with_reducible apply Keeps.ite | with_reducible apply Keeps.foldl
    | split | simp only [Keeps.upd]

theorem keeps_execBarv {org s : State} (hz : Keeps org s) (i : IsletId) (a : BArgs) (r : Rest) : ∃ u, execBarv i a r s = .next u ∧ Keeps org u := by
  unfold execBarv
  refine ⟨_, rfl, ?_⟩
  try dsimp only
  repeat' first
    | with_reducible assumption | intro _ | with_reducible apply keeps_runB | with_reducible apply Keeps.ite | with_reducible apply Keeps.foldl
    | split | simp only [Keeps.upd]

theorem keeps_execBpoll {org s : State} (hz : Keeps org s) (i : IsletId) (a : BArgs) (r : Rest) : ∃ u, execBpoll i a r s = .next u ∧ Keeps org u := by
  unfold execBpoll
  refine ⟨_, rfl, ?_⟩
  try dsimp only
  repeat' first
    | with_reducible assumption | intro _ | with_reducible apply keeps_runB | with_reducible apply Keeps.ite | with_reducible apply Keeps.foldl
    | split | simp only [Keeps.upd]

end Sys2Proof.Machine
end

