-- ==== Sys2Proof/Laws/KeepsFuseEvents.lean ====
section
/-! SUPPORT. What the definitions of Machine/FuseEvents.lean keep: the queue, the canonical form of the tables, what has left the device, the free
values taken, the OTP (`Keeps`). -/
namespace Sys2Proof.Machine

theorem keeps_associate {org s : State} (hz : Keeps org s) (n : Nat) (t : Nat) : Keeps org (State.associate s n t) := by
  unfold State.associate
  try dsimp only
  repeat' first
    | with_reducible assumption | intro _ | with_reducible apply keeps_store | with_reducible apply keeps_setSport
    | with_reducible apply keeps_deliverFrame | with_reducible apply Keeps.ite | with_reducible apply Keeps.foldl | with_reducible apply Keeps.iteFst
    | with_reducible apply Keeps.iteSnd | with_reducible refine Keeps.ofSnd (by assumption) ?_ | with_reducible refine Keeps.ofFst (by assumption) ?_
    | split | simp only [Keeps.upd]

theorem keeps_sealAndKey {org s : State} (hz : Keeps org s) (t : Nat) : Keeps org (s.sealAndKey t) := by
  have h := keeps_sealPose hz t
  unfold State.sealAndKey
  split
  · next heq => rw [heq] at h; exact keeps_makeKeyframe h _ _
  · next heq => rw [heq] at h; exact h

theorem keeps_execAssociationWrite {org s : State} (hz : Keeps org s) (n : Fin 16) (t : Nat) : ∃ u, execAssociationWrite n t s = .next u ∧ Keeps org u := by
  unfold execAssociationWrite
  refine ⟨_, rfl, ?_⟩
  try dsimp only
  repeat' first
    | with_reducible assumption | intro _ | with_reducible apply keeps_whenAwake | with_reducible apply keeps_at
    | with_reducible apply keeps_associate | with_reducible apply Keeps.ite | with_reducible apply Keeps.foldl | split | simp only [Keeps.upd]

theorem keeps_execSmootherPassStart {org s : State} (hz : Keeps org s) (t : Nat) : ∃ u, execSmootherPassStart t s = .next u ∧ Keeps org u := by
  unfold execSmootherPassStart
  refine ⟨_, rfl, ?_⟩
  try dsimp only
  repeat' first
    | with_reducible assumption | intro _ | with_reducible apply keeps_whenAwake | with_reducible apply keeps_at
    | with_reducible apply keeps_passStart | with_reducible apply Keeps.ite | with_reducible apply Keeps.foldl | split | simp only [Keeps.upd]

theorem keeps_execSmootherPassEnd {org s : State} (hz : Keeps org s) (t : Nat) : ∃ u, execSmootherPassEnd t s = .next u ∧ Keeps org u := by
  unfold execSmootherPassEnd
  refine ⟨_, rfl, ?_⟩
  try dsimp only
  repeat' first
    | with_reducible assumption | intro _ | with_reducible apply keeps_whenAwake | with_reducible apply keeps_at | with_reducible apply keeps_passEnd
    | with_reducible apply Keeps.ite | with_reducible apply Keeps.foldl | split | simp only [Keeps.upd]

theorem keeps_dropout {org s : State} (hz : Keeps org s) (b : Nat) : Keeps org (State.dropout s b) := by
  unfold State.dropout
  try dsimp only
  repeat' first
    | with_reducible assumption | intro _ | with_reducible apply keeps_refreshMask | with_reducible apply Keeps.ite | with_reducible apply Keeps.foldl
    | split | simp only [Keeps.upd]

theorem keeps_execSourceDropout {org s : State} (hz : Keeps org s) (b : Fin 28) (t : Nat) : ∃ u, execSourceDropout b t s = .next u ∧ Keeps org u := by
  unfold execSourceDropout
  refine ⟨_, rfl, ?_⟩
  try dsimp only
  repeat' first
    | with_reducible assumption | intro _ | with_reducible apply keeps_whenAwake | with_reducible apply keeps_at | with_reducible apply keeps_dropout
    | with_reducible apply Keeps.ite | with_reducible apply Keeps.foldl | split | simp only [Keeps.upd]

theorem keeps_execPoseSeal {org s : State} (hz : Keeps org s) (t : Nat) : ∃ u, execPoseSeal t s = .next u ∧ Keeps org u := by
  unfold execPoseSeal
  refine ⟨_, rfl, ?_⟩
  try dsimp only
  repeat' first
    | with_reducible assumption | intro _ | with_reducible apply keeps_whenAwake | with_reducible apply keeps_at
    | with_reducible apply keeps_sealAndKey | with_reducible apply Keeps.ite | with_reducible apply Keeps.foldl | split | simp only [Keeps.upd]

theorem keeps_execBundleAdjustEnd {org s : State} (hz : Keeps org s) (failed : Bool) (lost : List (BitVec 26)) (t : Nat) : ∃ u, execBundleAdjustEnd failed lost t s = .next u ∧ Keeps org u := by
  unfold execBundleAdjustEnd
  refine ⟨_, rfl, ?_⟩
  try dsimp only
  repeat' first
    | with_reducible assumption | intro _ | with_reducible apply keeps_whenAwake | with_reducible apply keeps_at | with_reducible apply keeps_endBa
    | with_reducible apply keeps_reefSync | with_reducible apply Keeps.ite | with_reducible apply Keeps.foldl | split | simp only [Keeps.upd]

theorem keeps_execOptimisationStart {org s : State} (hz : Keeps org s) (t : Nat) : ∃ u, execOptimisationStart t s = .next u ∧ Keeps org u := by
  unfold execOptimisationStart
  refine ⟨_, rfl, ?_⟩
  try dsimp only
  repeat' first
    | with_reducible assumption | intro _ | with_reducible apply keeps_whenAwake | with_reducible apply keeps_at | with_reducible apply keeps_startOpt
    | with_reducible apply Keeps.ite | with_reducible apply Keeps.foldl | split | simp only [Keeps.upd]

theorem keeps_execOptimisationEnd {org s : State} (hz : Keeps org s) (failed : Bool) (t : Nat) : ∃ u, execOptimisationEnd failed t s = .next u ∧ Keeps org u := by
  unfold execOptimisationEnd
  refine ⟨_, rfl, ?_⟩
  try dsimp only
  repeat' first
    | with_reducible assumption | intro _ | with_reducible apply keeps_whenAwake | with_reducible apply keeps_at | with_reducible apply keeps_endOpt
    | with_reducible apply keeps_reefSync | with_reducible apply Keeps.ite | with_reducible apply Keeps.foldl | split | simp only [Keeps.upd]

end Sys2Proof.Machine
end

