-- ==== Sys2Proof/Laws/KeepsLoadStore.lean ====
section
/-! SUPPORT. What the definitions of Machine/LoadStore.lean keep: the queue, the canonical form of the tables, what has left the device, the free
values taken, the OTP (`Keeps`). -/
namespace Sys2Proof.Machine

theorem keeps_runM {org s : State} (hz : Keeps org s) (op : MOp) (i : Nat) (a : MArgs) (r : Rest) : Keeps org (State.runM s op i a r) := by
  unfold State.runM
  try dsimp only
  repeat' first
    | with_reducible assumption | intro _ | with_reducible apply keeps_issue | with_reducible apply keeps_settle | with_reducible apply Keeps.ite
    | with_reducible apply Keeps.foldl | split | simp only [Keeps.upd]

theorem keeps_execLsNop {org s : State} (hz : Keeps org s) (i : IsletId) (a : MArgs) (r : Rest) : ∃ u, execLsNop i a r s = .next u ∧ Keeps org u := by
  unfold execLsNop
  refine ⟨_, rfl, ?_⟩
  try dsimp only
  repeat' first
    | with_reducible assumption | intro _ | with_reducible apply keeps_runM | with_reducible apply Keeps.ite | with_reducible apply Keeps.foldl
    | split | simp only [Keeps.upd]

theorem keeps_execLd {org s : State} (hz : Keeps org s) (i : IsletId) (a : MArgs) (r : Rest) : ∃ u, execLd i a r s = .next u ∧ Keeps org u := by
  unfold execLd
  refine ⟨_, rfl, ?_⟩
  try dsimp only
  repeat' first
    | with_reducible assumption | intro _ | with_reducible apply keeps_runM | with_reducible apply Keeps.ite | with_reducible apply Keeps.foldl
    | split | simp only [Keeps.upd]

theorem keeps_execLdu {org s : State} (hz : Keeps org s) (i : IsletId) (a : MArgs) (r : Rest) : ∃ u, execLdu i a r s = .next u ∧ Keeps org u := by
  unfold execLdu
  refine ⟨_, rfl, ?_⟩
  try dsimp only
  repeat' first
    | with_reducible assumption | intro _ | with_reducible apply keeps_runM | with_reducible apply Keeps.ite | with_reducible apply Keeps.foldl
    | split | simp only [Keeps.upd]

theorem keeps_execSt {org s : State} (hz : Keeps org s) (i : IsletId) (a : MArgs) (r : Rest) : ∃ u, execSt i a r s = .next u ∧ Keeps org u := by
  unfold execSt
  refine ⟨_, rfl, ?_⟩
  try dsimp only
  repeat' first
    | with_reducible assumption | intro _ | with_reducible apply keeps_runM | with_reducible apply Keeps.ite | with_reducible apply Keeps.foldl
    | split | simp only [Keeps.upd]

theorem keeps_execVld {org s : State} (hz : Keeps org s) (i : IsletId) (a : MArgs) (r : Rest) : ∃ u, execVld i a r s = .next u ∧ Keeps org u := by
  unfold execVld
  refine ⟨_, rfl, ?_⟩
  try dsimp only
  repeat' first
    | with_reducible assumption | intro _ | with_reducible apply keeps_runM | with_reducible apply Keeps.ite | with_reducible apply Keeps.foldl
    | split | simp only [Keeps.upd]

theorem keeps_execVst {org s : State} (hz : Keeps org s) (i : IsletId) (a : MArgs) (r : Rest) : ∃ u, execVst i a r s = .next u ∧ Keeps org u := by
  unfold execVst
  refine ⟨_, rfl, ?_⟩
  try dsimp only
  repeat' first
    | with_reducible assumption | intro _ | with_reducible apply keeps_runM | with_reducible apply Keeps.ite | with_reducible apply Keeps.foldl
    | split | simp only [Keeps.upd]

theorem keeps_execVlds {org s : State} (hz : Keeps org s) (i : IsletId) (a : MArgs) (r : Rest) : ∃ u, execVlds i a r s = .next u ∧ Keeps org u := by
  unfold execVlds
  refine ⟨_, rfl, ?_⟩
  try dsimp only
  repeat' first
    | with_reducible assumption | intro _ | with_reducible apply keeps_runM | with_reducible apply Keeps.ite | with_reducible apply Keeps.foldl
    | split | simp only [Keeps.upd]

theorem keeps_execTowin {org s : State} (hz : Keeps org s) (i : IsletId) (a : MArgs) (r : Rest) : ∃ u, execTowin i a r s = .next u ∧ Keeps org u := by
  unfold execTowin
  refine ⟨_, rfl, ?_⟩
  try dsimp only
  repeat' first
    | with_reducible assumption | intro _ | with_reducible apply keeps_runM | with_reducible apply Keeps.ite | with_reducible apply Keeps.foldl
    | split | simp only [Keeps.upd]

theorem keeps_execTowout {org s : State} (hz : Keeps org s) (i : IsletId) (a : MArgs) (r : Rest) : ∃ u, execTowout i a r s = .next u ∧ Keeps org u := by
  unfold execTowout
  refine ⟨_, rfl, ?_⟩
  try dsimp only
  repeat' first
    | with_reducible assumption | intro _ | with_reducible apply keeps_runM | with_reducible apply Keeps.ite | with_reducible apply Keeps.foldl
    | split | simp only [Keeps.upd]

theorem keeps_execTwait {org s : State} (hz : Keeps org s) (i : IsletId) (a : MArgs) (r : Rest) : ∃ u, execTwait i a r s = .next u ∧ Keeps org u := by
  unfold execTwait
  refine ⟨_, rfl, ?_⟩
  try dsimp only
  repeat' first
    | with_reducible assumption | intro _ | with_reducible apply keeps_runM | with_reducible apply Keeps.ite | with_reducible apply Keeps.foldl
    | split | simp only [Keeps.upd]

theorem keeps_execTstat {org s : State} (hz : Keeps org s) (i : IsletId) (a : MArgs) (r : Rest) : ∃ u, execTstat i a r s = .next u ∧ Keeps org u := by
  unfold execTstat
  refine ⟨_, rfl, ?_⟩
  try dsimp only
  repeat' first
    | with_reducible assumption | intro _ | with_reducible apply keeps_runM | with_reducible apply Keeps.ite | with_reducible apply Keeps.foldl
    | split | simp only [Keeps.upd]

end Sys2Proof.Machine
end

