-- ==== Sys2Proof/Laws/KeepsMapEvents.lean ====
section
/-! SUPPORT. What the definitions of Machine/MapEvents.lean keep: the queue, the canonical form of the tables, what has left the device, the free
values taken, the OTP (`Keeps`). -/
namespace Sys2Proof.Machine

theorem keeps_execRecordSubmit {org s : State} (hz : Keeps org s) (r : MapRec) (t : Nat) : ∃ u, execRecordSubmit r t s = .next u ∧ Keeps org u := by
  unfold execRecordSubmit
  refine ⟨_, rfl, ?_⟩
  try dsimp only
  repeat' first
    | with_reducible assumption | intro _ | with_reducible apply keeps_whenAwake | with_reducible apply keeps_at
    | with_reducible apply keeps_submitRec | with_reducible apply keeps_reefSync | with_reducible apply Keeps.ite | with_reducible apply Keeps.foldl
    | split | simp only [Keeps.upd]

theorem keeps_commitExpiry {org s : State} (hz : Keeps org s) (t : Nat) : Keeps org (State.commitExpiry s t) := by
  unfold State.commitExpiry
  try dsimp only
  repeat' first
    | with_reducible assumption | intro _ | with_reducible apply keeps_closeOpen | with_reducible apply Keeps.ite | with_reducible apply Keeps.foldl
    | with_reducible refine Keeps.ofSnd (by assumption) ?_ | with_reducible refine Keeps.ofFst (by assumption) ?_ | split | simp only [Keeps.upd]

theorem keeps_execCommitIntervalExpiry {org s : State} (hz : Keeps org s) (t : Nat) : ∃ u, execCommitIntervalExpiry t s = .next u ∧ Keeps org u := by
  unfold execCommitIntervalExpiry
  refine ⟨_, rfl, ?_⟩
  try dsimp only
  repeat' first
    | with_reducible assumption | intro _ | with_reducible apply keeps_whenAwake | with_reducible apply keeps_at
    | with_reducible apply keeps_commitExpiry | with_reducible apply Keeps.ite | with_reducible apply Keeps.foldl | split | simp only [Keeps.upd]

theorem keeps_afterDurable {org s : State} (hz : Keeps org s) (c : Commit) (t : Nat) : Keeps org (State.afterDurable s c t) := by
  unfold State.afterDurable
  try dsimp only
  repeat' first
    | with_reducible assumption | intro _ | with_reducible apply keeps_publishDurable | with_reducible apply keeps_endMount
    | with_reducible apply keeps_mapFill | with_reducible apply keeps_startExit | with_reducible apply keeps_reefSync
    | with_reducible apply keeps_jobSync | with_reducible apply Keeps.ite | with_reducible apply Keeps.foldl | split | simp only [Keeps.upd]

theorem keeps_commitReadBack {org s : State} (hz : Keeps org s) (t : Nat) (c0 : Option Nat) (c1 : Option Nat) : Keeps org (State.commitReadBack s t c0 c1) := by
  unfold State.commitReadBack
  try dsimp only
  repeat' first
    | with_reducible assumption | intro _ | with_reducible apply keeps_readBack | with_reducible apply keeps_afterDurable
    | with_reducible apply Keeps.ite | with_reducible apply Keeps.foldl | with_reducible apply Keeps.iteFst | with_reducible apply Keeps.iteSnd
    | with_reducible refine Keeps.ofSnd (by assumption) ?_ | with_reducible refine Keeps.ofFst (by assumption) ?_ | split | simp only [Keeps.upd]

theorem keeps_execCommitDurable {org s : State} (hz : Keeps org s) (t : Nat) (c0 : Option Nat) (c1 : Option Nat) : ∃ u, execCommitDurable t c0 c1 s = .next u ∧ Keeps org u := by
  unfold execCommitDurable
  refine ⟨_, rfl, ?_⟩
  try dsimp only
  repeat' first
    | with_reducible assumption | intro _ | with_reducible apply keeps_whenAwake | with_reducible apply keeps_at
    | with_reducible apply keeps_commitReadBack | with_reducible apply Keeps.ite | with_reducible apply Keeps.foldl | split | simp only [Keeps.upd]

theorem keeps_execNandProgramDone {org s : State} (hz : Keeps org s) (p : Nat) (pass : Bool) : ∃ u, execNandProgramDone p pass s = .next u ∧ Keeps org u := by
  unfold execNandProgramDone
  refine ⟨_, rfl, ?_⟩
  try dsimp only
  repeat' first
    | with_reducible assumption | intro _ | with_reducible apply keeps_whenAwake | with_reducible apply keeps_programDone
    | with_reducible apply keeps_reefSync | with_reducible apply Keeps.ite | with_reducible apply Keeps.foldl | split | simp only [Keeps.upd]

theorem keeps_execNandEraseDone {org s : State} (hz : Keeps org s) (b : Nat) (pass : Bool) : ∃ u, execNandEraseDone b pass s = .next u ∧ Keeps org u := by
  unfold execNandEraseDone
  refine ⟨_, rfl, ?_⟩
  try dsimp only
  repeat' first
    | with_reducible assumption | intro _ | with_reducible apply keeps_whenAwake | with_reducible apply keeps_eraseDone
    | with_reducible apply keeps_reefSync | with_reducible apply Keeps.ite | with_reducible apply Keeps.foldl | split | simp only [Keeps.upd]

theorem keeps_execNandReadDone {org s : State} (hz : Keeps org s) (p : Nat) (r : ReadEnd) (fixed : Nat) (worst : Nat) : ∃ u, execNandReadDone p r fixed worst s = .next u ∧ Keeps org u := by
  unfold execNandReadDone
  refine ⟨_, rfl, ?_⟩
  try dsimp only
  repeat' first
    | with_reducible assumption | intro _ | with_reducible apply keeps_whenAwake | with_reducible apply keeps_readDone
    | with_reducible apply keeps_reefSync | with_reducible apply Keeps.ite | with_reducible apply Keeps.foldl | split | simp only [Keeps.upd]

theorem keeps_readFailed {org s : State} (hz : Keeps org s) (r : NRead) (t : Nat) : Keeps org (State.readFailed s r t) := by
  unfold State.readFailed
  try dsimp only
  repeat' first
    | with_reducible assumption | intro _ | with_reducible apply keeps_moveEnded | with_reducible apply keeps_unstall
    | with_reducible apply keeps_codewordDone | with_reducible apply keeps_placeEvents | with_reducible apply Keeps.ite
    | with_reducible apply Keeps.foldl | with_reducible refine Keeps.ofSnd (by assumption) ?_ | with_reducible refine Keeps.ofFst (by assumption) ?_
    | split | simp only [Keeps.upd]

theorem keeps_execNandReadTimeout {org s : State} (hz : Keeps org s) (p : Nat) (t : Nat) : ∃ u, execNandReadTimeout p t s = .next u ∧ Keeps org u := by
  unfold execNandReadTimeout
  refine ⟨_, rfl, ?_⟩
  try dsimp only
  repeat' first
    | with_reducible assumption | intro _ | with_reducible apply keeps_whenAwake | with_reducible apply keeps_at
    | with_reducible apply keeps_readFailed | with_reducible apply keeps_readTimeout | with_reducible apply Keeps.ite
    | with_reducible apply Keeps.foldl | split | simp only [Keeps.upd]

theorem keeps_execReclaimStart {org s : State} (hz : Keeps org s) (victim : Option Nat) : ∃ u, execReclaimStart victim s = .next u ∧ Keeps org u := by
  unfold execReclaimStart
  refine ⟨_, rfl, ?_⟩
  try dsimp only
  repeat' first
    | with_reducible assumption | intro _ | with_reducible apply keeps_whenAwake | with_reducible apply keeps_reclaimStart
    | with_reducible apply keeps_reefSync | with_reducible apply Keeps.ite | with_reducible apply Keeps.foldl | split | simp only [Keeps.upd]

theorem keeps_execPatrolRead {org s : State} (hz : Keeps org s) (p : Nat) (t : Nat) : ∃ u, execPatrolRead p t s = .next u ∧ Keeps org u := by
  unfold execPatrolRead
  refine ⟨_, rfl, ?_⟩
  try dsimp only
  repeat' first
    | with_reducible assumption | intro _ | with_reducible apply keeps_whenAwake | with_reducible apply keeps_at | with_reducible apply keeps_patrol
    | with_reducible apply Keeps.ite | with_reducible apply Keeps.foldl | split | simp only [Keeps.upd]

theorem keeps_execEraseCreditAccrue {org s : State} (hz : Keeps org s) (t : Nat) : ∃ u, execEraseCreditAccrue t s = .next u ∧ Keeps org u := by
  unfold execEraseCreditAccrue
  refine ⟨_, rfl, ?_⟩
  try dsimp only
  repeat' first
    | with_reducible assumption | intro _ | with_reducible apply keeps_whenAwake | with_reducible apply keeps_at | with_reducible apply keeps_accrue
    | with_reducible apply keeps_reefSync | with_reducible apply Keeps.ite | with_reducible apply Keeps.foldl | split | simp only [Keeps.upd]

theorem keeps_execMount {org s : State} (hz : Keeps org s) (plans : List UnitPlan) (bad : List Nat) (t : Nat) : ∃ u, execMount plans bad t s = .next u ∧ Keeps org u := by
  unfold execMount
  refine ⟨_, rfl, ?_⟩
  try dsimp only
  repeat' first
    | with_reducible assumption | intro _ | with_reducible apply keeps_whenAwake | with_reducible apply keeps_at | with_reducible apply keeps_mountRow
    | with_reducible apply Keeps.ite | with_reducible apply Keeps.foldl | split | simp only [Keeps.upd]

theorem keeps_norDone {org s : State} (hz : Keeps org s) (ok : Bool) (t : Nat) : Keeps org (State.norDone s ok t) := by
  unfold State.norDone
  try dsimp only
  repeat' first
    | with_reducible assumption | intro _ | with_reducible apply keeps_calStep | with_reducible apply keeps_finishCmd
    | with_reducible apply keeps_jobSync | with_reducible apply Keeps.ite | with_reducible apply Keeps.foldl | with_reducible apply Keeps.iteFst
    | with_reducible apply Keeps.iteSnd | with_reducible refine Keeps.ofSnd (by assumption) ?_ | with_reducible refine Keeps.ofFst (by assumption) ?_
    | split | simp only [Keeps.upd]

theorem keeps_execNorProgramDone {org s : State} (hz : Keeps org s) (ok : Bool) (t : Nat) : ∃ u, execNorProgramDone ok t s = .next u ∧ Keeps org u := by
  unfold execNorProgramDone
  refine ⟨_, rfl, ?_⟩
  try dsimp only
  repeat' first
    | with_reducible assumption | intro _ | with_reducible apply keeps_whenAwake | with_reducible apply keeps_at | with_reducible apply keeps_norDone
    | with_reducible apply Keeps.ite | with_reducible apply Keeps.foldl | split | simp only [Keeps.upd]

theorem keeps_execShadowVerifyEnd {org s : State} (hz : Keeps org s) (image : Option (List Byte)) (data : List (Option (List Byte))) (norOk : Bool) (plans : List UnitPlan) (t : Nat) : ∃ u, execShadowVerifyEnd image data norOk plans t s = .next u ∧ Keeps org u := by
  unfold execShadowVerifyEnd
  refine ⟨_, rfl, ?_⟩
  try dsimp only
  repeat' first
    | with_reducible assumption | intro _ | with_reducible apply keeps_whenAwake | with_reducible apply keeps_at
    | with_reducible apply keeps_stageRead | with_reducible apply Keeps.ite | with_reducible apply Keeps.foldl | split | simp only [Keeps.upd]

end Sys2Proof.Machine
end

