-- ==== Sys2Proof/Laws/KeepsReefEvents.lean ====
section
/-! SUPPORT. What the definitions of Machine/ReefEvents.lean keep: the queue, the canonical form of the tables, what has left the device, the free
values taken, the OTP (`Keeps`). -/
namespace Sys2Proof.Machine

theorem keeps_execReefInsert {org s : State} (hz : Keeps org s) : ∃ u, execReefInsert s = .next u ∧ Keeps org u := by
  unfold execReefInsert
  refine ⟨_, rfl, ?_⟩
  try dsimp only
  repeat' first
    | with_reducible assumption | intro _ | with_reducible apply keeps_whenAwake | with_reducible apply keeps_takeInsert
    | with_reducible apply Keeps.ite | with_reducible apply Keeps.foldl | split | simp only [Keeps.upd]

theorem keeps_execReefDelete {org s : State} (hz : Keeps org s) (n : BitVec 32) : ∃ u, execReefDelete n s = .next u ∧ Keeps org u := by
  unfold execReefDelete
  refine ⟨_, rfl, ?_⟩
  try dsimp only
  repeat' first
    | with_reducible assumption | intro _ | with_reducible apply keeps_whenAwake | with_reducible apply keeps_takeDelete
    | with_reducible apply Keeps.ite | with_reducible apply Keeps.foldl | split | simp only [Keeps.upd]

theorem keeps_execCompactPage {org s : State} (hz : Keeps org s) (read : SweepRead) : ∃ u, execCompactPage read s = .next u ∧ Keeps org u := by
  unfold execCompactPage
  refine ⟨_, rfl, ?_⟩
  try dsimp only
  repeat' first
    | with_reducible assumption | intro _ | with_reducible apply keeps_whenAwake | with_reducible apply keeps_at
    | with_reducible apply keeps_compactPage | with_reducible apply Keeps.ite | with_reducible apply Keeps.foldl | split | simp only [Keeps.upd]

theorem keeps_execUpdaterResume {org s : State} (hz : Keeps org s) : ∃ u, execUpdaterResume s = .next u ∧ Keeps org u := by
  unfold execUpdaterResume
  refine ⟨_, rfl, ?_⟩
  try dsimp only
  repeat' first
    | with_reducible assumption | intro _ | with_reducible apply keeps_whenAwake | with_reducible apply keeps_updaterResume
    | with_reducible apply Keeps.ite | with_reducible apply Keeps.foldl | split | simp only [Keeps.upd]

theorem keeps_execCodewordReadDone {org s : State} (hz : Keeps org s) (e : Fin 16) (w : Nat) (v : Nat) (ok : Bool) (t : Nat) : ∃ u, execCodewordReadDone e w v ok t s = .next u ∧ Keeps org u := by
  unfold execCodewordReadDone
  refine ⟨_, rfl, ?_⟩
  try dsimp only
  repeat' first
    | with_reducible assumption | intro _ | with_reducible apply keeps_whenAwake | with_reducible apply keeps_at
    | with_reducible apply keeps_codewordBack | with_reducible apply keeps_placeEvents | with_reducible apply Keeps.ite
    | with_reducible apply Keeps.foldl | split | simp only [Keeps.upd]

theorem keeps_execReefQueryTimeout {org s : State} (hz : Keeps org s) (k : Nat) (t : Nat) : ∃ u, execReefQueryTimeout k t s = .next u ∧ Keeps org u := by
  unfold execReefQueryTimeout
  refine ⟨_, rfl, ?_⟩
  try dsimp only
  repeat' first
    | with_reducible assumption | intro _ | with_reducible apply keeps_whenAwake | with_reducible apply keeps_at
    | with_reducible apply keeps_queryTimeout | with_reducible apply keeps_placeEvents | with_reducible apply Keeps.ite
    | with_reducible apply Keeps.foldl | split | simp only [Keeps.upd]

end Sys2Proof.Machine
end

