-- ==== Sys2Proof/Laws/KeepsScalar.lean ====
section
/-! SUPPORT. What the definitions of Machine/Scalar.lean keep: the queue, the canonical form of the tables, what has left the device, the free
values taken, the OTP (`Keeps`). -/
namespace Sys2Proof.Machine

theorem keeps_runS {org s : State} (hz : Keeps org s) (op : SOp) (i : Nat) (a : SArgs) (r : Rest) : Keeps org (State.runS s op i a r) := by
  unfold State.runS
  try dsimp only
  repeat' first
    | with_reducible assumption | intro _ | with_reducible apply keeps_issue | with_reducible apply keeps_settle | with_reducible apply Keeps.ite
    | with_reducible apply Keeps.foldl | with_reducible refine Keeps.ofSnd (by assumption) ?_ | with_reducible refine Keeps.ofFst (by assumption) ?_
    | split | simp only [Keeps.upd]

theorem keeps_execNop {org s : State} (hz : Keeps org s) (i : IsletId) (a : SArgs) (r : Rest) : ∃ u, execNop i a r s = .next u ∧ Keeps org u := by
  unfold execNop
  refine ⟨_, rfl, ?_⟩
  try dsimp only
  repeat' first
    | with_reducible assumption | intro _ | with_reducible apply keeps_runS | with_reducible apply Keeps.ite | with_reducible apply Keeps.foldl
    | split | simp only [Keeps.upd]

theorem keeps_execAdd {org s : State} (hz : Keeps org s) (i : IsletId) (a : SArgs) (r : Rest) : ∃ u, execAdd i a r s = .next u ∧ Keeps org u := by
  unfold execAdd
  refine ⟨_, rfl, ?_⟩
  try dsimp only
  repeat' first
    | with_reducible assumption | intro _ | with_reducible apply keeps_runS | with_reducible apply Keeps.ite | with_reducible apply Keeps.foldl
    | split | simp only [Keeps.upd]

theorem keeps_execSub {org s : State} (hz : Keeps org s) (i : IsletId) (a : SArgs) (r : Rest) : ∃ u, execSub i a r s = .next u ∧ Keeps org u := by
  unfold execSub
  refine ⟨_, rfl, ?_⟩
  try dsimp only
  repeat' first
    | with_reducible assumption | intro _ | with_reducible apply keeps_runS | with_reducible apply Keeps.ite | with_reducible apply Keeps.foldl
    | split | simp only [Keeps.upd]

theorem keeps_execAnd {org s : State} (hz : Keeps org s) (i : IsletId) (a : SArgs) (r : Rest) : ∃ u, execAnd i a r s = .next u ∧ Keeps org u := by
  unfold execAnd
  refine ⟨_, rfl, ?_⟩
  try dsimp only
  repeat' first
    | with_reducible assumption | intro _ | with_reducible apply keeps_runS | with_reducible apply Keeps.ite | with_reducible apply Keeps.foldl
    | split | simp only [Keeps.upd]

theorem keeps_execOr {org s : State} (hz : Keeps org s) (i : IsletId) (a : SArgs) (r : Rest) : ∃ u, execOr i a r s = .next u ∧ Keeps org u := by
  unfold execOr
  refine ⟨_, rfl, ?_⟩
  try dsimp only
  repeat' first
    | with_reducible assumption | intro _ | with_reducible apply keeps_runS | with_reducible apply Keeps.ite | with_reducible apply Keeps.foldl
    | split | simp only [Keeps.upd]

theorem keeps_execXor {org s : State} (hz : Keeps org s) (i : IsletId) (a : SArgs) (r : Rest) : ∃ u, execXor i a r s = .next u ∧ Keeps org u := by
  unfold execXor
  refine ⟨_, rfl, ?_⟩
  try dsimp only
  repeat' first
    | with_reducible assumption | intro _ | with_reducible apply keeps_runS | with_reducible apply Keeps.ite | with_reducible apply Keeps.foldl
    | split | simp only [Keeps.upd]

theorem keeps_execShl {org s : State} (hz : Keeps org s) (i : IsletId) (a : SArgs) (r : Rest) : ∃ u, execShl i a r s = .next u ∧ Keeps org u := by
  unfold execShl
  refine ⟨_, rfl, ?_⟩
  try dsimp only
  repeat' first
    | with_reducible assumption | intro _ | with_reducible apply keeps_runS | with_reducible apply Keeps.ite | with_reducible apply Keeps.foldl
    | split | simp only [Keeps.upd]

theorem keeps_execShr {org s : State} (hz : Keeps org s) (i : IsletId) (a : SArgs) (r : Rest) : ∃ u, execShr i a r s = .next u ∧ Keeps org u := by
  unfold execShr
  refine ⟨_, rfl, ?_⟩
  try dsimp only
  repeat' first
    | with_reducible assumption | intro _ | with_reducible apply keeps_runS | with_reducible apply Keeps.ite | with_reducible apply Keeps.foldl
    | split | simp only [Keeps.upd]

theorem keeps_execSra {org s : State} (hz : Keeps org s) (i : IsletId) (a : SArgs) (r : Rest) : ∃ u, execSra i a r s = .next u ∧ Keeps org u := by
  unfold execSra
  refine ⟨_, rfl, ?_⟩
  try dsimp only
  repeat' first
    | with_reducible assumption | intro _ | with_reducible apply keeps_runS | with_reducible apply Keeps.ite | with_reducible apply Keeps.foldl
    | split | simp only [Keeps.upd]

theorem keeps_execMul {org s : State} (hz : Keeps org s) (i : IsletId) (a : SArgs) (r : Rest) : ∃ u, execMul i a r s = .next u ∧ Keeps org u := by
  unfold execMul
  refine ⟨_, rfl, ?_⟩
  try dsimp only
  repeat' first
    | with_reducible assumption | intro _ | with_reducible apply keeps_runS | with_reducible apply Keeps.ite | with_reducible apply Keeps.foldl
    | split | simp only [Keeps.upd]

theorem keeps_execMulh {org s : State} (hz : Keeps org s) (i : IsletId) (a : SArgs) (r : Rest) : ∃ u, execMulh i a r s = .next u ∧ Keeps org u := by
  unfold execMulh
  refine ⟨_, rfl, ?_⟩
  try dsimp only
  repeat' first
    | with_reducible assumption | intro _ | with_reducible apply keeps_runS | with_reducible apply Keeps.ite | with_reducible apply Keeps.foldl
    | split | simp only [Keeps.upd]

theorem keeps_execSlt {org s : State} (hz : Keeps org s) (i : IsletId) (a : SArgs) (r : Rest) : ∃ u, execSlt i a r s = .next u ∧ Keeps org u := by
  unfold execSlt
  refine ⟨_, rfl, ?_⟩
  try dsimp only
  repeat' first
    | with_reducible assumption | intro _ | with_reducible apply keeps_runS | with_reducible apply Keeps.ite | with_reducible apply Keeps.foldl
    | split | simp only [Keeps.upd]

theorem keeps_execSltu {org s : State} (hz : Keeps org s) (i : IsletId) (a : SArgs) (r : Rest) : ∃ u, execSltu i a r s = .next u ∧ Keeps org u := by
  unfold execSltu
  refine ⟨_, rfl, ?_⟩
  try dsimp only
  repeat' first
    | with_reducible assumption | intro _ | with_reducible apply keeps_runS | with_reducible apply Keeps.ite | with_reducible apply Keeps.foldl
    | split | simp only [Keeps.upd]

theorem keeps_execPopc {org s : State} (hz : Keeps org s) (i : IsletId) (a : SArgs) (r : Rest) : ∃ u, execPopc i a r s = .next u ∧ Keeps org u := by
  unfold execPopc
  refine ⟨_, rfl, ?_⟩
  try dsimp only
  repeat' first
    | with_reducible assumption | intro _ | with_reducible apply keeps_runS | with_reducible apply Keeps.ite | with_reducible apply Keeps.foldl
    | split | simp only [Keeps.upd]

theorem keeps_execMin {org s : State} (hz : Keeps org s) (i : IsletId) (a : SArgs) (r : Rest) : ∃ u, execMin i a r s = .next u ∧ Keeps org u := by
  unfold execMin
  refine ⟨_, rfl, ?_⟩
  try dsimp only
  repeat' first
    | with_reducible assumption | intro _ | with_reducible apply keeps_runS | with_reducible apply Keeps.ite | with_reducible apply Keeps.foldl
    | split | simp only [Keeps.upd]

theorem keeps_execMax {org s : State} (hz : Keeps org s) (i : IsletId) (a : SArgs) (r : Rest) : ∃ u, execMax i a r s = .next u ∧ Keeps org u := by
  unfold execMax
  refine ⟨_, rfl, ?_⟩
  try dsimp only
  repeat' first
    | with_reducible assumption | intro _ | with_reducible apply keeps_runS | with_reducible apply Keeps.ite | with_reducible apply Keeps.foldl
    | split | simp only [Keeps.upd]

theorem keeps_execAddi {org s : State} (hz : Keeps org s) (i : IsletId) (a : SArgs) (r : Rest) : ∃ u, execAddi i a r s = .next u ∧ Keeps org u := by
  unfold execAddi
  refine ⟨_, rfl, ?_⟩
  try dsimp only
  repeat' first
    | with_reducible assumption | intro _ | with_reducible apply keeps_runS | with_reducible apply Keeps.ite | with_reducible apply Keeps.foldl
    | split | simp only [Keeps.upd]

theorem keeps_execAndi {org s : State} (hz : Keeps org s) (i : IsletId) (a : SArgs) (r : Rest) : ∃ u, execAndi i a r s = .next u ∧ Keeps org u := by
  unfold execAndi
  refine ⟨_, rfl, ?_⟩
  try dsimp only
  repeat' first
    | with_reducible assumption | intro _ | with_reducible apply keeps_runS | with_reducible apply Keeps.ite | with_reducible apply Keeps.foldl
    | split | simp only [Keeps.upd]

theorem keeps_execOri {org s : State} (hz : Keeps org s) (i : IsletId) (a : SArgs) (r : Rest) : ∃ u, execOri i a r s = .next u ∧ Keeps org u := by
  unfold execOri
  refine ⟨_, rfl, ?_⟩
  try dsimp only
  repeat' first
    | with_reducible assumption | intro _ | with_reducible apply keeps_runS | with_reducible apply Keeps.ite | with_reducible apply Keeps.foldl
    | split | simp only [Keeps.upd]

theorem keeps_execXori {org s : State} (hz : Keeps org s) (i : IsletId) (a : SArgs) (r : Rest) : ∃ u, execXori i a r s = .next u ∧ Keeps org u := by
  unfold execXori
  refine ⟨_, rfl, ?_⟩
  try dsimp only
  repeat' first
    | with_reducible assumption | intro _ | with_reducible apply keeps_runS | with_reducible apply Keeps.ite | with_reducible apply Keeps.foldl
    | split | simp only [Keeps.upd]

theorem keeps_execShli {org s : State} (hz : Keeps org s) (i : IsletId) (a : SArgs) (r : Rest) : ∃ u, execShli i a r s = .next u ∧ Keeps org u := by
  unfold execShli
  refine ⟨_, rfl, ?_⟩
  try dsimp only
  repeat' first
    | with_reducible assumption | intro _ | with_reducible apply keeps_runS | with_reducible apply Keeps.ite | with_reducible apply Keeps.foldl
    | split | simp only [Keeps.upd]

theorem keeps_execShri {org s : State} (hz : Keeps org s) (i : IsletId) (a : SArgs) (r : Rest) : ∃ u, execShri i a r s = .next u ∧ Keeps org u := by
  unfold execShri
  refine ⟨_, rfl, ?_⟩
  try dsimp only
  repeat' first
    | with_reducible assumption | intro _ | with_reducible apply keeps_runS | with_reducible apply Keeps.ite | with_reducible apply Keeps.foldl
    | split | simp only [Keeps.upd]

theorem keeps_execSrai {org s : State} (hz : Keeps org s) (i : IsletId) (a : SArgs) (r : Rest) : ∃ u, execSrai i a r s = .next u ∧ Keeps org u := by
  unfold execSrai
  refine ⟨_, rfl, ?_⟩
  try dsimp only
  repeat' first
    | with_reducible assumption | intro _ | with_reducible apply keeps_runS | with_reducible apply Keeps.ite | with_reducible apply Keeps.foldl
    | split | simp only [Keeps.upd]

theorem keeps_execLui {org s : State} (hz : Keeps org s) (i : IsletId) (a : SArgs) (r : Rest) : ∃ u, execLui i a r s = .next u ∧ Keeps org u := by
  unfold execLui
  refine ⟨_, rfl, ?_⟩
  try dsimp only
  repeat' first
    | with_reducible assumption | intro _ | with_reducible apply keeps_runS | with_reducible apply Keeps.ite | with_reducible apply Keeps.foldl
    | split | simp only [Keeps.upd]

theorem keeps_execLih {org s : State} (hz : Keeps org s) (i : IsletId) (a : SArgs) (r : Rest) : ∃ u, execLih i a r s = .next u ∧ Keeps org u := by
  unfold execLih
  refine ⟨_, rfl, ?_⟩
  try dsimp only
  repeat' first
    | with_reducible assumption | intro _ | with_reducible apply keeps_runS | with_reducible apply Keeps.ite | with_reducible apply Keeps.foldl
    | split | simp only [Keeps.upd]

theorem keeps_execPeq {org s : State} (hz : Keeps org s) (i : IsletId) (a : SArgs) (r : Rest) : ∃ u, execPeq i a r s = .next u ∧ Keeps org u := by
  unfold execPeq
  refine ⟨_, rfl, ?_⟩
  try dsimp only
  repeat' first
    | with_reducible assumption | intro _ | with_reducible apply keeps_runS | with_reducible apply Keeps.ite | with_reducible apply Keeps.foldl
    | split | simp only [Keeps.upd]

theorem keeps_execPlt {org s : State} (hz : Keeps org s) (i : IsletId) (a : SArgs) (r : Rest) : ∃ u, execPlt i a r s = .next u ∧ Keeps org u := by
  unfold execPlt
  refine ⟨_, rfl, ?_⟩
  try dsimp only
  repeat' first
    | with_reducible assumption | intro _ | with_reducible apply keeps_runS | with_reducible apply Keeps.ite | with_reducible apply Keeps.foldl
    | split | simp only [Keeps.upd]

theorem keeps_execPltu {org s : State} (hz : Keeps org s) (i : IsletId) (a : SArgs) (r : Rest) : ∃ u, execPltu i a r s = .next u ∧ Keeps org u := by
  unfold execPltu
  refine ⟨_, rfl, ?_⟩
  try dsimp only
  repeat' first
    | with_reducible assumption | intro _ | with_reducible apply keeps_runS | with_reducible apply Keeps.ite | with_reducible apply Keeps.foldl
    | split | simp only [Keeps.upd]

theorem keeps_execPand {org s : State} (hz : Keeps org s) (i : IsletId) (a : SArgs) (r : Rest) : ∃ u, execPand i a r s = .next u ∧ Keeps org u := by
  unfold execPand
  refine ⟨_, rfl, ?_⟩
  try dsimp only
  repeat' first
    | with_reducible assumption | intro _ | with_reducible apply keeps_runS | with_reducible apply Keeps.ite | with_reducible apply Keeps.foldl
    | split | simp only [Keeps.upd]

theorem keeps_execPor {org s : State} (hz : Keeps org s) (i : IsletId) (a : SArgs) (r : Rest) : ∃ u, execPor i a r s = .next u ∧ Keeps org u := by
  unfold execPor
  refine ⟨_, rfl, ?_⟩
  try dsimp only
  repeat' first
    | with_reducible assumption | intro _ | with_reducible apply keeps_runS | with_reducible apply Keeps.ite | with_reducible apply Keeps.foldl
    | split | simp only [Keeps.upd]

theorem keeps_execPnot {org s : State} (hz : Keeps org s) (i : IsletId) (a : SArgs) (r : Rest) : ∃ u, execPnot i a r s = .next u ∧ Keeps org u := by
  unfold execPnot
  refine ⟨_, rfl, ?_⟩
  try dsimp only
  repeat' first
    | with_reducible assumption | intro _ | with_reducible apply keeps_runS | with_reducible apply Keeps.ite | with_reducible apply Keeps.foldl
    | split | simp only [Keeps.upd]

theorem keeps_execBr {org s : State} (hz : Keeps org s) (i : IsletId) (a : SArgs) (r : Rest) : ∃ u, execBr i a r s = .next u ∧ Keeps org u := by
  unfold execBr
  refine ⟨_, rfl, ?_⟩
  try dsimp only
  repeat' first
    | with_reducible assumption | intro _ | with_reducible apply keeps_runS | with_reducible apply Keeps.ite | with_reducible apply Keeps.foldl
    | split | simp only [Keeps.upd]

theorem keeps_execJr {org s : State} (hz : Keeps org s) (i : IsletId) (a : SArgs) (r : Rest) : ∃ u, execJr i a r s = .next u ∧ Keeps org u := by
  unfold execJr
  refine ⟨_, rfl, ?_⟩
  try dsimp only
  repeat' first
    | with_reducible assumption | intro _ | with_reducible apply keeps_runS | with_reducible apply Keeps.ite | with_reducible apply Keeps.foldl
    | split | simp only [Keeps.upd]

theorem keeps_execCall {org s : State} (hz : Keeps org s) (i : IsletId) (a : SArgs) (r : Rest) : ∃ u, execCall i a r s = .next u ∧ Keeps org u := by
  unfold execCall
  refine ⟨_, rfl, ?_⟩
  try dsimp only
  repeat' first
    | with_reducible assumption | intro _ | with_reducible apply keeps_runS | with_reducible apply Keeps.ite | with_reducible apply Keeps.foldl
    | split | simp only [Keeps.upd]

theorem keeps_execCallr {org s : State} (hz : Keeps org s) (i : IsletId) (a : SArgs) (r : Rest) : ∃ u, execCallr i a r s = .next u ∧ Keeps org u := by
  unfold execCallr
  refine ⟨_, rfl, ?_⟩
  try dsimp only
  repeat' first
    | with_reducible assumption | intro _ | with_reducible apply keeps_runS | with_reducible apply Keeps.ite | with_reducible apply Keeps.foldl
    | split | simp only [Keeps.upd]

theorem keeps_execLoop {org s : State} (hz : Keeps org s) (i : IsletId) (a : SArgs) (r : Rest) : ∃ u, execLoop i a r s = .next u ∧ Keeps org u := by
  unfold execLoop
  refine ⟨_, rfl, ?_⟩
  try dsimp only
  repeat' first
    | with_reducible assumption | intro _ | with_reducible apply keeps_runS | with_reducible apply Keeps.ite | with_reducible apply Keeps.foldl
    | split | simp only [Keeps.upd]

theorem keeps_execMfc {org s : State} (hz : Keeps org s) (i : IsletId) (a : SArgs) (r : Rest) : ∃ u, execMfc i a r s = .next u ∧ Keeps org u := by
  unfold execMfc
  refine ⟨_, rfl, ?_⟩
  try dsimp only
  repeat' first
    | with_reducible assumption | intro _ | with_reducible apply keeps_runS | with_reducible apply Keeps.ite | with_reducible apply Keeps.foldl
    | split | simp only [Keeps.upd]

theorem keeps_execMtc {org s : State} (hz : Keeps org s) (i : IsletId) (a : SArgs) (r : Rest) : ∃ u, execMtc i a r s = .next u ∧ Keeps org u := by
  unfold execMtc
  refine ⟨_, rfl, ?_⟩
  try dsimp only
  repeat' first
    | with_reducible assumption | intro _ | with_reducible apply keeps_runS | with_reducible apply Keeps.ite | with_reducible apply Keeps.foldl
    | split | simp only [Keeps.upd]

theorem keeps_execFence {org s : State} (hz : Keeps org s) (i : IsletId) (a : SArgs) (r : Rest) : ∃ u, execFence i a r s = .next u ∧ Keeps org u := by
  unfold execFence
  refine ⟨_, rfl, ?_⟩
  try dsimp only
  repeat' first
    | with_reducible assumption | intro _ | with_reducible apply keeps_runS | with_reducible apply Keeps.ite | with_reducible apply Keeps.foldl
    | split | simp only [Keeps.upd]

theorem keeps_execEret {org s : State} (hz : Keeps org s) (i : IsletId) (a : SArgs) (r : Rest) : ∃ u, execEret i a r s = .next u ∧ Keeps org u := by
  unfold execEret
  refine ⟨_, rfl, ?_⟩
  try dsimp only
  repeat' first
    | with_reducible assumption | intro _ | with_reducible apply keeps_runS | with_reducible apply Keeps.ite | with_reducible apply Keeps.foldl
    | split | simp only [Keeps.upd]

theorem keeps_execTrap {org s : State} (hz : Keeps org s) (i : IsletId) (a : SArgs) (r : Rest) : ∃ u, execTrap i a r s = .next u ∧ Keeps org u := by
  unfold execTrap
  refine ⟨_, rfl, ?_⟩
  try dsimp only
  repeat' first
    | with_reducible assumption | intro _ | with_reducible apply keeps_runS | with_reducible apply Keeps.ite | with_reducible apply Keeps.foldl
    | split | simp only [Keeps.upd]

theorem keeps_execEnd {org s : State} (hz : Keeps org s) (i : IsletId) (a : SArgs) (r : Rest) : ∃ u, execEnd i a r s = .next u ∧ Keeps org u := by
  unfold execEnd
  refine ⟨_, rfl, ?_⟩
  try dsimp only
  repeat' first
    | with_reducible assumption | intro _ | with_reducible apply keeps_runS | with_reducible apply Keeps.ite | with_reducible apply Keeps.foldl
    | split | simp only [Keeps.upd]

end Sys2Proof.Machine
end

