-- ==== Sys2Proof/Laws/KeepsSensorEvents.lean ====
section
/-! SUPPORT. What the definitions of Machine/SensorEvents.lean keep: the queue, the canonical form of the tables, what has left the device, the free
values taken, the OTP (`Keeps`). -/
namespace Sys2Proof.Machine

theorem keeps_recordFrame {org s : State} (hz : Keeps org s) (n t : Nat) : Keeps org (s.recordFrame n t) := by
  have h := keeps_frameRecord hz n t
  unfold State.recordFrame
  split
  · next heq => rw [heq] at h; exact keeps_deliverFrame h _ _ _ _
  · next heq => rw [heq] at h; exact h

theorem keeps_recordDepth {org s : State} (hz : Keeps org s) (n : Nat) (t : Nat) : Keeps org (State.recordDepth s n t) := by
  unfold State.recordDepth
  try dsimp only
  repeat' first
    | with_reducible assumption | intro _ | with_reducible apply keeps_depthHeader | with_reducible apply keeps_deliverFrame
    | with_reducible apply Keeps.ite | with_reducible apply Keeps.foldl | with_reducible refine Keeps.ofSnd (by assumption) ?_
    | with_reducible refine Keeps.ofFst (by assumption) ?_ | split | simp only [Keeps.upd]

theorem keeps_execLongPacket {org s : State} (hz : Keeps org s) (n : Fin 16) (vc : Fin 4) (dtype : Byte) (headerOk : Bool) (crcOk : Bool) (payload : List Byte) (t : Nat) : ∃ u, execLongPacket n vc dtype headerOk crcOk payload t s = .next u ∧ Keeps org u := by
  unfold execLongPacket
  refine ⟨_, rfl, ?_⟩
  try dsimp only
  repeat' first
    | with_reducible assumption | intro _ | with_reducible apply keeps_whenAwake | with_reducible apply keeps_at
    | with_reducible apply keeps_longPacket | with_reducible apply keeps_refreshMask | with_reducible apply Keeps.ite
    | with_reducible apply Keeps.foldl | split | simp only [Keeps.upd]

theorem keeps_execLidarDatagram {org s : State} (hz : Keeps org s) (p : Fin 4) (src : Word32) (dport : BitVec 16) (fragmented : Bool) (payload : List Byte) (t : Nat) : ∃ u, execLidarDatagram p src dport fragmented payload t s = .next u ∧ Keeps org u := by
  unfold execLidarDatagram
  refine ⟨_, rfl, ?_⟩
  try dsimp only
  repeat' first
    | with_reducible assumption | intro _ | with_reducible apply keeps_whenAwake | with_reducible apply keeps_at
    | with_reducible apply keeps_lidarDatagram | with_reducible apply keeps_refreshMask | with_reducible apply Keeps.ite
    | with_reducible apply Keeps.foldl | split | simp only [Keeps.upd]

theorem keeps_execFrameRecordWrite {org s : State} (hz : Keeps org s) (n : Fin 16) (t : Nat) : ∃ u, execFrameRecordWrite n t s = .next u ∧ Keeps org u := by
  unfold execFrameRecordWrite
  refine ⟨_, rfl, ?_⟩
  try dsimp only
  repeat' first
    | with_reducible assumption | intro _ | with_reducible apply keeps_whenAwake | with_reducible apply keeps_at
    | with_reducible apply keeps_recordFrame | with_reducible apply Keeps.ite | with_reducible apply Keeps.foldl | split | simp only [Keeps.upd]

theorem keeps_execDepthHeaderWrite {org s : State} (hz : Keeps org s) (n : Fin 16) (t : Nat) : ∃ u, execDepthHeaderWrite n t s = .next u ∧ Keeps org u := by
  unfold execDepthHeaderWrite
  refine ⟨_, rfl, ?_⟩
  try dsimp only
  repeat' first
    | with_reducible assumption | intro _ | with_reducible apply keeps_whenAwake | with_reducible apply keeps_at
    | with_reducible apply keeps_recordDepth | with_reducible apply Keeps.ite | with_reducible apply Keeps.foldl | split | simp only [Keeps.upd]

theorem keeps_execPpsEdge {org s : State} (hz : Keeps org s) (falling : Bool) (t : Nat) : ∃ u, execPpsEdge falling t s = .next u ∧ Keeps org u := by
  unfold execPpsEdge
  refine ⟨_, rfl, ?_⟩
  try dsimp only
  repeat' first
    | with_reducible assumption | intro _ | with_reducible apply keeps_whenAwake | with_reducible apply keeps_at | with_reducible apply keeps_ppsEdge
    | with_reducible apply keeps_refreshMask | with_reducible apply Keeps.ite | with_reducible apply Keeps.foldl | split | simp only [Keeps.upd]

theorem keeps_execNmeaSentence {org s : State} (hz : Keeps org s) (n : Nmea) (t : Nat) : ∃ u, execNmeaSentence n t s = .next u ∧ Keeps org u := by
  unfold execNmeaSentence
  refine ⟨_, rfl, ?_⟩
  try dsimp only
  repeat' first
    | with_reducible assumption | intro _ | with_reducible apply keeps_whenAwake | with_reducible apply keeps_at
    | with_reducible apply keeps_gnssSentence | with_reducible apply keeps_gnssItem | with_reducible apply keeps_refreshMask
    | with_reducible apply Keeps.ite | with_reducible apply Keeps.foldl | split | simp only [Keeps.upd]

theorem keeps_execImuDrdy {org s : State} (hz : Keeps org s) (i : Fin 2) (t : Nat) : ∃ u, execImuDrdy i t s = .next u ∧ Keeps org u := by
  unfold execImuDrdy
  refine ⟨_, rfl, ?_⟩
  try dsimp only
  repeat' first
    | with_reducible assumption | intro _ | with_reducible apply keeps_whenAwake | with_reducible apply keeps_at | with_reducible apply keeps_imuDrdy
    | with_reducible apply keeps_refreshMask | with_reducible apply Keeps.ite | with_reducible apply Keeps.foldl | split | simp only [Keeps.upd]

theorem keeps_burstDone {org s : State} (hz : Keeps org s) (i : Nat) (reply : List Byte) : Keeps org (State.burstDone s i reply) := by
  unfold State.burstDone
  try dsimp only
  repeat' first
    | with_reducible assumption | intro _ | with_reducible apply keeps_imuBurst | with_reducible apply keeps_condOuts | with_reducible apply Keeps.ite
    | with_reducible apply Keeps.foldl | with_reducible apply Keeps.iteFst | with_reducible apply Keeps.iteSnd | split | simp only [Keeps.upd]

theorem keeps_execImuBurstDone {org s : State} (hz : Keeps org s) (i : Fin 2) (reply : List Byte) (t : Nat) : ∃ u, execImuBurstDone i reply t s = .next u ∧ Keeps org u := by
  unfold execImuBurstDone
  refine ⟨_, rfl, ?_⟩
  try dsimp only
  repeat' first
    | with_reducible assumption | intro _ | with_reducible apply keeps_whenAwake | with_reducible apply keeps_at
    | with_reducible apply keeps_burstDone | with_reducible apply Keeps.ite | with_reducible apply Keeps.foldl | split | simp only [Keeps.upd]

theorem keeps_execWheelEdge {org s : State} (hz : Keeps org s) (k : Fin 8) (level : WheelLevel) (t : Nat) : ∃ u, execWheelEdge k level t s = .next u ∧ Keeps org u := by
  unfold execWheelEdge
  refine ⟨_, rfl, ?_⟩
  try dsimp only
  repeat' first
    | with_reducible assumption | intro _ | with_reducible apply keeps_whenAwake | with_reducible apply keeps_at
    | with_reducible apply keeps_wheelEdge | with_reducible apply Keeps.ite | with_reducible apply Keeps.foldl | split | simp only [Keeps.upd]

theorem keeps_wheelTick {org s : State} (hz : Keeps org s) (t : Nat) : Keeps org (State.wheelTick s t) := by
  unfold State.wheelTick
  try dsimp only
  repeat' first
    | with_reducible assumption | intro _ | with_reducible apply keeps_wheelSample | with_reducible apply keeps_condOuts
    | with_reducible apply Keeps.ite | with_reducible apply Keeps.foldl | with_reducible apply Keeps.iteFst | with_reducible apply Keeps.iteSnd
    | split | simp only [Keeps.upd]

theorem keeps_execWheelSample {org s : State} (hz : Keeps org s) (t : Nat) : ∃ u, execWheelSample t s = .next u ∧ Keeps org u := by
  unfold execWheelSample
  refine ⟨_, rfl, ?_⟩
  try dsimp only
  repeat' first
    | with_reducible assumption | intro _ | with_reducible apply keeps_whenAwake | with_reducible apply keeps_at
    | with_reducible apply keeps_wheelTick | with_reducible apply Keeps.ite | with_reducible apply Keeps.foldl | split | simp only [Keeps.upd]

theorem keeps_canRx {org s : State} (hz : Keeps org s) (j : Nat) (id : Nat) (ext : Bool) (good : Bool) (data : List Byte) (t : Nat) : Keeps org (State.canRx s j id ext good data t) := by
  unfold State.canRx
  try dsimp only
  repeat' first
    | with_reducible assumption | intro _ | with_reducible apply keeps_canFrame | with_reducible apply keeps_vehicleSignals
    | with_reducible apply keeps_refreshMask | with_reducible apply Keeps.ite | with_reducible apply Keeps.foldl | with_reducible apply Keeps.iteFst
    | with_reducible apply Keeps.iteSnd | split | simp only [Keeps.upd]

theorem keeps_execCanFrame {org s : State} (hz : Keeps org s) (j : Fin 4) (id : BitVec 29) (ext : Bool) (body : CanPayload) (t : Nat) : ∃ u, execCanFrame j id ext body t s = .next u ∧ Keeps org u := by
  unfold execCanFrame
  refine ⟨_, rfl, ?_⟩
  try dsimp only
  repeat' first
    | with_reducible assumption | intro _ | with_reducible apply keeps_whenAwake | with_reducible apply keeps_at | with_reducible apply keeps_canRx
    | with_reducible apply Keeps.ite | with_reducible apply Keeps.foldl | split | simp only [Keeps.upd]

end Sys2Proof.Machine
end

