-- ==== Sys2Proof/Laws/KeepsTapOps.lean ====
section
/-! SUPPORT. What the definitions of Machine/TapOps.lean keep: the queue, the canonical form of the tables, what has left the device, the free
values taken, the OTP (`Keeps`). -/
namespace Sys2Proof.Machine

theorem keeps_setTap {org s : State} (hz : Keeps org s) (x : Tap) : Keeps org (State.setTap s x) := by
  unfold State.setTap
  try dsimp only
  repeat' first
    | with_reducible assumption | intro _ | with_reducible apply Keeps.ite | with_reducible apply Keeps.foldl | split | simp only [Keeps.upd]

theorem keeps_bypass {org s : State} (hz : Keeps org s) (tdi : List Bool) : Keeps org (State.bypass s tdi) := by
  unfold State.bypass
  try dsimp only
  repeat' first
    | with_reducible assumption | intro _ | with_reducible apply keeps_setTap | with_reducible apply keeps_emit | with_reducible apply Keeps.ite
    | with_reducible apply Keeps.foldl | split | simp only [Keeps.upd]

theorem keeps_trst {org s : State} (hz : Keeps org s) (low : Bool) : Keeps org (State.trst s low) := by
  unfold State.trst
  try dsimp only
  repeat' first
    | with_reducible assumption | intro _ | with_reducible apply keeps_setTap | with_reducible apply Keeps.ite | with_reducible apply Keeps.foldl
    | split | simp only [Keeps.upd]

theorem keeps_execIdcode {org s : State} (hz : Keeps org s) : ∃ u, execIdcode s = .next u ∧ Keeps org u := by
  unfold execIdcode
  refine ⟨_, rfl, ?_⟩
  try dsimp only
  repeat' first
    | with_reducible assumption | intro _ | with_reducible apply keeps_setTap | with_reducible apply keeps_emit | with_reducible apply Keeps.ite
    | with_reducible apply Keeps.foldl | split | simp only [Keeps.upd]

theorem keeps_execBypass {org s : State} (hz : Keeps org s) (tdi : List Bool) : ∃ u, execBypass tdi s = .next u ∧ Keeps org u := by
  unfold execBypass
  refine ⟨_, rfl, ?_⟩
  try dsimp only
  repeat' first
    | with_reducible assumption | intro _ | with_reducible apply keeps_bypass | with_reducible apply Keeps.ite | with_reducible apply Keeps.foldl
    | split | simp only [Keeps.upd]

theorem keeps_execSamplePreload {org s : State} (hz : Keeps org s) (pins : List Bool) (tdi : List Bool) : ∃ u, execSamplePreload pins tdi s = .next u ∧ Keeps org u := by
  unfold execSamplePreload
  refine ⟨_, rfl, ?_⟩
  try dsimp only
  repeat' first
    | with_reducible assumption | intro _ | with_reducible apply keeps_setTap | with_reducible apply keeps_emit | with_reducible apply keeps_bypass
    | with_reducible apply Keeps.ite | with_reducible apply Keeps.foldl | split | simp only [Keeps.upd]

theorem keeps_execExtest {org s : State} (hz : Keeps org s) (pins : List Bool) (tdi : List Bool) : ∃ u, execExtest pins tdi s = .next u ∧ Keeps org u := by
  unfold execExtest
  refine ⟨_, rfl, ?_⟩
  try dsimp only
  repeat' first
    | with_reducible assumption | intro _ | with_reducible apply keeps_setTap | with_reducible apply keeps_emit | with_reducible apply keeps_bypass
    | with_reducible apply Keeps.ite | with_reducible apply Keeps.foldl | split | simp only [Keeps.upd]

theorem keeps_execTrst {org s : State} (hz : Keeps org s) (low : Bool) : ∃ u, execTrst low s = .next u ∧ Keeps org u := by
  unfold execTrst
  refine ⟨_, rfl, ?_⟩
  try dsimp only
  repeat' first
    | with_reducible assumption | intro _ | with_reducible apply keeps_trst | with_reducible apply Keeps.ite | with_reducible apply Keeps.foldl
    | split | simp only [Keeps.upd]

end Sys2Proof.Machine
end

