-- ==== Sys2Proof/Laws/KeepsTensorOps.lean ====
section
/-! SUPPORT. What the definitions of Machine/TensorOps.lean keep: the queue, the canonical form of the tables, what has left the device, the free
values taken, the OTP (`Keeps`). -/
namespace Sys2Proof.Machine

theorem keeps_runT {org s : State} (hz : Keeps org s) (op : TOp) (i : Nat) (a : TArgs) (r : Rest) : Keeps org (State.runT s op i a r) := by
  unfold State.runT
  try dsimp only
  repeat' first
    | with_reducible assumption | intro _ | with_reducible apply keeps_issue | with_reducible apply keeps_settle | with_reducible apply Keeps.ite
    | with_reducible apply Keeps.foldl | split | simp only [Keeps.upd]

theorem keeps_execTnop {org s : State} (hz : Keeps org s) (i : IsletId) (a : TArgs) (r : Rest) : ∃ u, execTnop i a r s = .next u ∧ Keeps org u := by
  unfold execTnop
  refine ⟨_, rfl, ?_⟩
  try dsimp only
  repeat' first
    | with_reducible assumption | intro _ | with_reducible apply keeps_runT | with_reducible apply Keeps.ite | with_reducible apply Keeps.foldl
    | split | simp only [Keeps.upd]

theorem keeps_execTmma {org s : State} (hz : Keeps org s) (i : IsletId) (a : TArgs) (r : Rest) : ∃ u, execTmma i a r s = .next u ∧ Keeps org u := by
  unfold execTmma
  refine ⟨_, rfl, ?_⟩
  try dsimp only
  repeat' first
    | with_reducible assumption | intro _ | with_reducible apply keeps_runT | with_reducible apply Keeps.ite | with_reducible apply Keeps.foldl
    | split | simp only [Keeps.upd]

theorem keeps_execTfill {org s : State} (hz : Keeps org s) (i : IsletId) (a : TArgs) (r : Rest) : ∃ u, execTfill i a r s = .next u ∧ Keeps org u := by
  unfold execTfill
  refine ⟨_, rfl, ?_⟩
  try dsimp only
  repeat' first
    | with_reducible assumption | intro _ | with_reducible apply keeps_runT | with_reducible apply Keeps.ite | with_reducible apply Keeps.foldl
    | split | simp only [Keeps.upd]

end Sys2Proof.Machine
end

