-- ==== Sys2Proof/Laws/KeepsVectorOps.lean ====
section
/-! SUPPORT. What the definitions of Machine/VectorOps.lean keep: the queue, the canonical form of the tables, what has left the device, the free
values taken, the OTP (`Keeps`). -/
namespace Sys2Proof.Machine

theorem keeps_runV {org s : State} (hz : Keeps org s) (op : VOp) (i : Nat) (a : VArgs) (r : Rest) : Keeps org (State.runV s op i a r) := by
  unfold State.runV
  try dsimp only
  repeat' first
    | with_reducible assumption | intro _ | with_reducible apply keeps_issue | with_reducible apply keeps_settle | with_reducible apply Keeps.ite
    | with_reducible apply Keeps.foldl | split | simp only [Keeps.upd]

theorem keeps_execVnop {org s : State} (hz : Keeps org s) (i : IsletId) (a : VArgs) (r : Rest) : ∃ u, execVnop i a r s = .next u ∧ Keeps org u := by
  unfold execVnop
  refine ⟨_, rfl, ?_⟩
  try dsimp only
  repeat' first
    | with_reducible assumption | intro _ | with_reducible apply keeps_runV | with_reducible apply Keeps.ite | with_reducible apply Keeps.foldl
    | split | simp only [Keeps.upd]

theorem keeps_execVadd {org s : State} (hz : Keeps org s) (i : IsletId) (a : VArgs) (r : Rest) : ∃ u, execVadd i a r s = .next u ∧ Keeps org u := by
  unfold execVadd
  refine ⟨_, rfl, ?_⟩
  try dsimp only
  repeat' first
    | with_reducible assumption | intro _ | with_reducible apply keeps_runV | with_reducible apply Keeps.ite | with_reducible apply Keeps.foldl
    | split | simp only [Keeps.upd]

theorem keeps_execVsub {org s : State} (hz : Keeps org s) (i : IsletId) (a : VArgs) (r : Rest) : ∃ u, execVsub i a r s = .next u ∧ Keeps org u := by
  unfold execVsub
  refine ⟨_, rfl, ?_⟩
  try dsimp only
  repeat' first
    | with_reducible assumption | intro _ | with_reducible apply keeps_runV | with_reducible apply Keeps.ite | with_reducible apply Keeps.foldl
    | split | simp only [Keeps.upd]

theorem keeps_execVmul {org s : State} (hz : Keeps org s) (i : IsletId) (a : VArgs) (r : Rest) : ∃ u, execVmul i a r s = .next u ∧ Keeps org u := by
  unfold execVmul
  refine ⟨_, rfl, ?_⟩
  try dsimp only
  repeat' first
    | with_reducible assumption | intro _ | with_reducible apply keeps_runV | with_reducible apply Keeps.ite | with_reducible apply Keeps.foldl
    | split | simp only [Keeps.upd]

theorem keeps_execVmin {org s : State} (hz : Keeps org s) (i : IsletId) (a : VArgs) (r : Rest) : ∃ u, execVmin i a r s = .next u ∧ Keeps org u := by
  unfold execVmin
  refine ⟨_, rfl, ?_⟩
  try dsimp only
  repeat' first
    | with_reducible assumption | intro _ | with_reducible apply keeps_runV | with_reducible apply Keeps.ite | with_reducible apply Keeps.foldl
    | split | simp only [Keeps.upd]

theorem keeps_execVmax {org s : State} (hz : Keeps org s) (i : IsletId) (a : VArgs) (r : Rest) : ∃ u, execVmax i a r s = .next u ∧ Keeps org u := by
  unfold execVmax
  refine ⟨_, rfl, ?_⟩
  try dsimp only
  repeat' first
    | with_reducible assumption | intro _ | with_reducible apply keeps_runV | with_reducible apply Keeps.ite | with_reducible apply Keeps.foldl
    | split | simp only [Keeps.upd]

theorem keeps_execVand {org s : State} (hz : Keeps org s) (i : IsletId) (a : VArgs) (r : Rest) : ∃ u, execVand i a r s = .next u ∧ Keeps org u := by
  unfold execVand
  refine ⟨_, rfl, ?_⟩
  try dsimp only
  repeat' first
    | with_reducible assumption | intro _ | with_reducible apply keeps_runV | with_reducible apply Keeps.ite | with_reducible apply Keeps.foldl
    | split | simp only [Keeps.upd]

theorem keeps_execVor {org s : State} (hz : Keeps org s) (i : IsletId) (a : VArgs) (r : Rest) : ∃ u, execVor i a r s = .next u ∧ Keeps org u := by
  unfold execVor
  refine ⟨_, rfl, ?_⟩
  try dsimp only
  repeat' first
    | with_reducible assumption | intro _ | with_reducible apply keeps_runV | with_reducible apply Keeps.ite | with_reducible apply Keeps.foldl
    | split | simp only [Keeps.upd]

theorem keeps_execVxor {org s : State} (hz : Keeps org s) (i : IsletId) (a : VArgs) (r : Rest) : ∃ u, execVxor i a r s = .next u ∧ Keeps org u := by
  unfold execVxor
  refine ⟨_, rfl, ?_⟩
  try dsimp only
  repeat' first
    | with_reducible assumption | intro _ | with_reducible apply keeps_runV | with_reducible apply Keeps.ite | with_reducible apply Keeps.foldl
    | split | simp only [Keeps.upd]

theorem keeps_execVshl {org s : State} (hz : Keeps org s) (i : IsletId) (a : VArgs) (r : Rest) : ∃ u, execVshl i a r s = .next u ∧ Keeps org u := by
  unfold execVshl
  refine ⟨_, rfl, ?_⟩
  try dsimp only
  repeat' first
    | with_reducible assumption | intro _ | with_reducible apply keeps_runV | with_reducible apply Keeps.ite | with_reducible apply Keeps.foldl
    | split | simp only [Keeps.upd]

theorem keeps_execVshr {org s : State} (hz : Keeps org s) (i : IsletId) (a : VArgs) (r : Rest) : ∃ u, execVshr i a r s = .next u ∧ Keeps org u := by
  unfold execVshr
  refine ⟨_, rfl, ?_⟩
  try dsimp only
  repeat' first
    | with_reducible assumption | intro _ | with_reducible apply keeps_runV | with_reducible apply Keeps.ite | with_reducible apply Keeps.foldl
    | split | simp only [Keeps.upd]

theorem keeps_execVsra {org s : State} (hz : Keeps org s) (i : IsletId) (a : VArgs) (r : Rest) : ∃ u, execVsra i a r s = .next u ∧ Keeps org u := by
  unfold execVsra
  refine ⟨_, rfl, ?_⟩
  try dsimp only
  repeat' first
    | with_reducible assumption | intro _ | with_reducible apply keeps_runV | with_reducible apply Keeps.ite | with_reducible apply Keeps.foldl
    | split | simp only [Keeps.upd]

theorem keeps_execVshla {org s : State} (hz : Keeps org s) (i : IsletId) (a : VArgs) (r : Rest) : ∃ u, execVshla i a r s = .next u ∧ Keeps org u := by
  unfold execVshla
  refine ⟨_, rfl, ?_⟩
  try dsimp only
  repeat' first
    | with_reducible assumption | intro _ | with_reducible apply keeps_runV | with_reducible apply Keeps.ite | with_reducible apply Keeps.foldl
    | split | simp only [Keeps.upd]

theorem keeps_execVabs {org s : State} (hz : Keeps org s) (i : IsletId) (a : VArgs) (r : Rest) : ∃ u, execVabs i a r s = .next u ∧ Keeps org u := by
  unfold execVabs
  refine ⟨_, rfl, ?_⟩
  try dsimp only
  repeat' first
    | with_reducible assumption | intro _ | with_reducible apply keeps_runV | with_reducible apply Keeps.ite | with_reducible apply Keeps.foldl
    | split | simp only [Keeps.upd]

theorem keeps_execVpopc {org s : State} (hz : Keeps org s) (i : IsletId) (a : VArgs) (r : Rest) : ∃ u, execVpopc i a r s = .next u ∧ Keeps org u := by
  unfold execVpopc
  refine ⟨_, rfl, ?_⟩
  try dsimp only
  repeat' first
    | with_reducible assumption | intro _ | with_reducible apply keeps_runV | with_reducible apply Keeps.ite | with_reducible apply Keeps.foldl
    | split | simp only [Keeps.upd]

theorem keeps_execVfma {org s : State} (hz : Keeps org s) (i : IsletId) (a : VArgs) (r : Rest) : ∃ u, execVfma i a r s = .next u ∧ Keeps org u := by
  unfold execVfma
  refine ⟨_, rfl, ?_⟩
  try dsimp only
  repeat' first
    | with_reducible assumption | intro _ | with_reducible apply keeps_runV | with_reducible apply Keeps.ite | with_reducible apply Keeps.foldl
    | split | simp only [Keeps.upd]

theorem keeps_execVaddi {org s : State} (hz : Keeps org s) (i : IsletId) (a : VArgs) (r : Rest) : ∃ u, execVaddi i a r s = .next u ∧ Keeps org u := by
  unfold execVaddi
  refine ⟨_, rfl, ?_⟩
  try dsimp only
  repeat' first
    | with_reducible assumption | intro _ | with_reducible apply keeps_runV | with_reducible apply Keeps.ite | with_reducible apply Keeps.foldl
    | split | simp only [Keeps.upd]

theorem keeps_execVandi {org s : State} (hz : Keeps org s) (i : IsletId) (a : VArgs) (r : Rest) : ∃ u, execVandi i a r s = .next u ∧ Keeps org u := by
  unfold execVandi
  refine ⟨_, rfl, ?_⟩
  try dsimp only
  repeat' first
    | with_reducible assumption | intro _ | with_reducible apply keeps_runV | with_reducible apply Keeps.ite | with_reducible apply Keeps.foldl
    | split | simp only [Keeps.upd]

theorem keeps_execVshli {org s : State} (hz : Keeps org s) (i : IsletId) (a : VArgs) (r : Rest) : ∃ u, execVshli i a r s = .next u ∧ Keeps org u := by
  unfold execVshli
  refine ⟨_, rfl, ?_⟩
  try dsimp only
  repeat' first
    | with_reducible assumption | intro _ | with_reducible apply keeps_runV | with_reducible apply Keeps.ite | with_reducible apply Keeps.foldl
    | split | simp only [Keeps.upd]

theorem keeps_execVshri {org s : State} (hz : Keeps org s) (i : IsletId) (a : VArgs) (r : Rest) : ∃ u, execVshri i a r s = .next u ∧ Keeps org u := by
  unfold execVshri
  refine ⟨_, rfl, ?_⟩
  try dsimp only
  repeat' first
    | with_reducible assumption | intro _ | with_reducible apply keeps_runV | with_reducible apply Keeps.ite | with_reducible apply Keeps.foldl
    | split | simp only [Keeps.upd]

theorem keeps_execVmovi {org s : State} (hz : Keeps org s) (i : IsletId) (a : VArgs) (r : Rest) : ∃ u, execVmovi i a r s = .next u ∧ Keeps org u := by
  unfold execVmovi
  refine ⟨_, rfl, ?_⟩
  try dsimp only
  repeat' first
    | with_reducible assumption | intro _ | with_reducible apply keeps_runV | with_reducible apply Keeps.ite | with_reducible apply Keeps.foldl
    | split | simp only [Keeps.upd]

theorem keeps_execVlane {org s : State} (hz : Keeps org s) (i : IsletId) (a : VArgs) (r : Rest) : ∃ u, execVlane i a r s = .next u ∧ Keeps org u := by
  unfold execVlane
  refine ⟨_, rfl, ?_⟩
  try dsimp only
  repeat' first
    | with_reducible assumption | intro _ | with_reducible apply keeps_runV | with_reducible apply Keeps.ite | with_reducible apply Keeps.foldl
    | split | simp only [Keeps.upd]

theorem keeps_execVins {org s : State} (hz : Keeps org s) (i : IsletId) (a : VArgs) (r : Rest) : ∃ u, execVins i a r s = .next u ∧ Keeps org u := by
  unfold execVins
  refine ⟨_, rfl, ?_⟩
  try dsimp only
  repeat' first
    | with_reducible assumption | intro _ | with_reducible apply keeps_runV | with_reducible apply Keeps.ite | with_reducible apply Keeps.foldl
    | split | simp only [Keeps.upd]

theorem keeps_execVext {org s : State} (hz : Keeps org s) (i : IsletId) (a : VArgs) (r : Rest) : ∃ u, execVext i a r s = .next u ∧ Keeps org u := by
  unfold execVext
  refine ⟨_, rfl, ?_⟩
  try dsimp only
  repeat' first
    | with_reducible assumption | intro _ | with_reducible apply keeps_runV | with_reducible apply Keeps.ite | with_reducible apply Keeps.foldl
    | split | simp only [Keeps.upd]

theorem keeps_execVbcst {org s : State} (hz : Keeps org s) (i : IsletId) (a : VArgs) (r : Rest) : ∃ u, execVbcst i a r s = .next u ∧ Keeps org u := by
  unfold execVbcst
  refine ⟨_, rfl, ?_⟩
  try dsimp only
  repeat' first
    | with_reducible assumption | intro _ | with_reducible apply keeps_runV | with_reducible apply Keeps.ite | with_reducible apply Keeps.foldl
    | split | simp only [Keeps.upd]

theorem keeps_execVcmpeq {org s : State} (hz : Keeps org s) (i : IsletId) (a : VArgs) (r : Rest) : ∃ u, execVcmpeq i a r s = .next u ∧ Keeps org u := by
  unfold execVcmpeq
  refine ⟨_, rfl, ?_⟩
  try dsimp only
  repeat' first
    | with_reducible assumption | intro _ | with_reducible apply keeps_runV | with_reducible apply Keeps.ite | with_reducible apply Keeps.foldl
    | split | simp only [Keeps.upd]

theorem keeps_execVcmplt {org s : State} (hz : Keeps org s) (i : IsletId) (a : VArgs) (r : Rest) : ∃ u, execVcmplt i a r s = .next u ∧ Keeps org u := by
  unfold execVcmplt
  refine ⟨_, rfl, ?_⟩
  try dsimp only
  repeat' first
    | with_reducible assumption | intro _ | with_reducible apply keeps_runV | with_reducible apply Keeps.ite | with_reducible apply Keeps.foldl
    | split | simp only [Keeps.upd]

theorem keeps_execVcmple {org s : State} (hz : Keeps org s) (i : IsletId) (a : VArgs) (r : Rest) : ∃ u, execVcmple i a r s = .next u ∧ Keeps org u := by
  unfold execVcmple
  refine ⟨_, rfl, ?_⟩
  try dsimp only
  repeat' first
    | with_reducible assumption | intro _ | with_reducible apply keeps_runV | with_reducible apply Keeps.ite | with_reducible apply Keeps.foldl
    | split | simp only [Keeps.upd]

theorem keeps_execVsel {org s : State} (hz : Keeps org s) (i : IsletId) (a : VArgs) (r : Rest) : ∃ u, execVsel i a r s = .next u ∧ Keeps org u := by
  unfold execVsel
  refine ⟨_, rfl, ?_⟩
  try dsimp only
  repeat' first
    | with_reducible assumption | intro _ | with_reducible apply keeps_runV | with_reducible apply Keeps.ite | with_reducible apply Keeps.foldl
    | split | simp only [Keeps.upd]

theorem keeps_execVcvt {org s : State} (hz : Keeps org s) (i : IsletId) (a : VArgs) (r : Rest) : ∃ u, execVcvt i a r s = .next u ∧ Keeps org u := by
  unfold execVcvt
  refine ⟨_, rfl, ?_⟩
  try dsimp only
  repeat' first
    | with_reducible assumption | intro _ | with_reducible apply keeps_runV | with_reducible apply Keeps.ite | with_reducible apply Keeps.foldl
    | split | simp only [Keeps.upd]

theorem keeps_execVtqrel {org s : State} (hz : Keeps org s) (i : IsletId) (a : VArgs) (r : Rest) : ∃ u, execVtqrel i a r s = .next u ∧ Keeps org u := by
  unfold execVtqrel
  refine ⟨_, rfl, ?_⟩
  try dsimp only
  repeat' first
    | with_reducible assumption | intro _ | with_reducible apply keeps_runV | with_reducible apply Keeps.ite | with_reducible apply Keeps.foldl
    | split | simp only [Keeps.upd]

theorem keeps_execVrmin {org s : State} (hz : Keeps org s) (i : IsletId) (a : VArgs) (r : Rest) : ∃ u, execVrmin i a r s = .next u ∧ Keeps org u := by
  unfold execVrmin
  refine ⟨_, rfl, ?_⟩
  try dsimp only
  repeat' first
    | with_reducible assumption | intro _ | with_reducible apply keeps_runV | with_reducible apply Keeps.ite | with_reducible apply Keeps.foldl
    | split | simp only [Keeps.upd]

theorem keeps_execVrmax {org s : State} (hz : Keeps org s) (i : IsletId) (a : VArgs) (r : Rest) : ∃ u, execVrmax i a r s = .next u ∧ Keeps org u := by
  unfold execVrmax
  refine ⟨_, rfl, ?_⟩
  try dsimp only
  repeat' first
    | with_reducible assumption | intro _ | with_reducible apply keeps_runV | with_reducible apply Keeps.ite | with_reducible apply Keeps.foldl
    | split | simp only [Keeps.upd]

theorem keeps_execVradd {org s : State} (hz : Keeps org s) (i : IsletId) (a : VArgs) (r : Rest) : ∃ u, execVradd i a r s = .next u ∧ Keeps org u := by
  unfold execVradd
  refine ⟨_, rfl, ?_⟩
  try dsimp only
  repeat' first
    | with_reducible assumption | intro _ | with_reducible apply keeps_runV | with_reducible apply Keeps.ite | with_reducible apply Keeps.foldl
    | split | simp only [Keeps.upd]

theorem keeps_execVperm {org s : State} (hz : Keeps org s) (i : IsletId) (a : VArgs) (r : Rest) : ∃ u, execVperm i a r s = .next u ∧ Keeps org u := by
  unfold execVperm
  refine ⟨_, rfl, ?_⟩
  try dsimp only
  repeat' first
    | with_reducible assumption | intro _ | with_reducible apply keeps_runV | with_reducible apply Keeps.ite | with_reducible apply Keeps.foldl
    | split | simp only [Keeps.upd]

theorem keeps_execVmft {org s : State} (hz : Keeps org s) (i : IsletId) (a : VArgs) (r : Rest) : ∃ u, execVmft i a r s = .next u ∧ Keeps org u := by
  unfold execVmft
  refine ⟨_, rfl, ?_⟩
  try dsimp only
  repeat' first
    | with_reducible assumption | intro _ | with_reducible apply keeps_runV | with_reducible apply Keeps.ite | with_reducible apply Keeps.foldl
    | split | simp only [Keeps.upd]

theorem keeps_execVmtt {org s : State} (hz : Keeps org s) (i : IsletId) (a : VArgs) (r : Rest) : ∃ u, execVmtt i a r s = .next u ∧ Keeps org u := by
  unfold execVmtt
  refine ⟨_, rfl, ?_⟩
  try dsimp only
  repeat' first
    | with_reducible assumption | intro _ | with_reducible apply keeps_runV | with_reducible apply Keeps.ite | with_reducible apply Keeps.foldl
    | split | simp only [Keeps.upd]

theorem keeps_execVrcp {org s : State} (hz : Keeps org s) (i : IsletId) (a : VArgs) (r : Rest) : ∃ u, execVrcp i a r s = .next u ∧ Keeps org u := by
  unfold execVrcp
  refine ⟨_, rfl, ?_⟩
  try dsimp only
  repeat' first
    | with_reducible assumption | intro _ | with_reducible apply keeps_runV | with_reducible apply Keeps.ite | with_reducible apply Keeps.foldl
    | split | simp only [Keeps.upd]

theorem keeps_execVrsq {org s : State} (hz : Keeps org s) (i : IsletId) (a : VArgs) (r : Rest) : ∃ u, execVrsq i a r s = .next u ∧ Keeps org u := by
  unfold execVrsq
  refine ⟨_, rfl, ?_⟩
  try dsimp only
  repeat' first
    | with_reducible assumption | intro _ | with_reducible apply keeps_runV | with_reducible apply Keeps.ite | with_reducible apply Keeps.foldl
    | split | simp only [Keeps.upd]

end Sys2Proof.Machine
end

