-- ==== Sys2Proof/Laws/Queues.lean ====
section
/-! SUPPORT. What issuing a bundle does to the Islet's load queue, store buffer and tow slots (02 R43, R44). -/
namespace Sys2Proof.Machine

variable {s : State} {i : Nat} {b : Bundle}

/-- The queues of an Islet are as they were. -/
def QueuesKept (x y : Islet) : Prop := y.loads = x.loads ∧ y.stores = x.stores ∧ y.tows = x.tows ∧ y.seq = x.seq

theorem QueuesKept.refl (x : Islet) : QueuesKept x x := ⟨rfl, rfl, rfl, rfl⟩

theorem QueuesKept.trans {x y z : Islet} (h : QueuesKept x y) (k : QueuesKept y z) : QueuesKept x z :=
  ⟨k.1.trans h.1, k.2.1.trans h.2.1, k.2.2.1.trans h.2.2.1, k.2.2.2.trans h.2.2.2⟩

theorem QueuesKept.setG (x : Islet) (n : Nat) (w : Word64) : QueuesKept x (x.setG n w) := by
  unfold Islet.setG; split <;> exact .refl x
theorem QueuesKept.setP (x : Islet) (n : Nat) (w : Word64) : QueuesKept x (x.setP n w) := by
  unfold Islet.setP; split <;> exact .refl x
theorem QueuesKept.setV (x : Islet) (n : Nat) (w : VReg) : QueuesKept x (x.setV n w) := .refl x
theorem QueuesKept.setT (x : Islet) (n : Nat) (w : Acc) : QueuesKept x (x.setT n w) := .refl x
theorem QueuesKept.setC (x : Islet) (n : Nat) (w : Word64) : QueuesKept x (x.setC n w) := by
  unfold Islet.setC Islet.setCraw
  split
  · exact .refl x
  · split <;> exact .refl x

/-- Further fields of the Islet may differ. -/
theorem QueuesKept.upd {x y : Islet} {f0 : SMap Word64} {f1 : SMap VReg} {f2 : SMap Acc} {f3 : SMap Word64} {f4 : SMap Word64} {f5 : Bool} {f6 :
    Bool} {f7 : Nat} {f8 : Nat} {f9 : Nat} {f10 : SMap Nat} {f11 : Nat} {f12 : Nat} {f13 : Bool} {f14 : Bool} {f15 : Nat} {f16 : Bool} {f17 :
    Bool} {f18 : Bool} {f19 : SMap Word32} {f23 : SMap DErr} {f24 : List DErr} {f26 : Option Held} {f27 : List (Nat × BitVec 256)} {f28 : Option
    Nat} {f29 : List Nat} {f30 : Option Nat} {f31 : Bool} {f32 : Option Assign} {f33 : Nat}
(h : QueuesKept x y) : QueuesKept x ⟨f0, f1, f2, f3, f4, f5, f6, f7, f8, f9, f10, f11, f12, f13, f14, f15, f16, f17, f18, f19, y.loads, y.stores,
    y.tows, f23, f24, y.seq, f26, f27, f28, f29, f30, f31, f32, f33⟩ := h

theorem doS_queues (x0 x : Islet) (i e c : Nat) (sl : SIns) : QueuesKept x (doS x0 x i e c sl) := by
  obtain ⟨op, a⟩ := sl
  unfold doS
  cases op <;> dsimp only <;>
    first
    | exact .refl x
    | exact QueuesKept.setG x a.rd.toNat _
    | exact QueuesKept.setP x (a.rd.toNat % 8) _
    | exact QueuesKept.setC x _ _

theorem doV_queues (x0 x : Islet) (c : Nat) (v : VIns) : QueuesKept x (doV x0 x v c).1 := by
  unfold doV
  split
  · dsimp only
    split <;>
      first
      | with_reducible exact .refl x
      | exact QueuesKept.upd (QueuesKept.setP x _ _)
      | exact QueuesKept.upd (QueuesKept.setV x _ _)
      | exact QueuesKept.upd (QueuesKept.setT x _ _)
      | exact QueuesKept.upd (QueuesKept.setG x _ _)
  · exact .refl x

theorem doT_queues (s : State) (x0 x : Islet) (i c : Nat) (t : TIns) (got : Word64) : QueuesKept x (s.doT i x0 x t c got).2.1 := by
  obtain ⟨op, a, b⟩ := t
  cases op
  case tmma =>
    simp only [State.doT]
    split <;> exact .refl x
  case barv | bpoll | bwait | barr => exact QueuesKept.setG x b.rd.toNat _
  all_goals exact .refl x

theorem finish_queues (x : Islet) (b : Bundle) (a : Active) (c : Nat) (f : FpFlags) (t : Bool) : QueuesKept x (x.finish b a c f t) := by
  unfold Islet.finish Islet.setCraw Islet.ended
  dsimp only
  split <;> split <;> split <;> exact .refl x

theorem takeExn_queues (s : State) (i p : Nat) (e : Exn) : QueuesKept (s.islet i) ((s.takeExn i p e).islet i) := by
  unfold State.takeExn
  dsimp only
  split
  · simp only [State.islet_reportHalt, State.islet_setIslet]
    exact ⟨rfl, rfl, rfl, rfl⟩
  · split
    · simp only [State.islet_reportHalt, State.islet_setIslet]
      exact ⟨rfl, rfl, rfl, rfl⟩
    · simp only [State.islet_setIslet]
      split <;> exact ⟨rfl, rfl, rfl, rfl⟩

theorem advance_queues (x0 x : Islet) (p : Option Nat) : QueuesKept x (advance x0 x p) := by
  unfold advance
  split
  · exact .refl x
  · split
    · split <;> exact .refl x
    · exact .refl x

theorem complete_queues (s : State) (i : Nat) (b : Bundle) (a : Active) (c : Nat) (got : Word64) :
    QueuesKept (s.afterT i b a c got).2.1 ((s.complete i b a c got).1.islet i) := by
  unfold State.complete
  dsimp only
  split
  · have h := takeExn_queues ((s.afterT i b a c got).1.setIslet i ((s.afterT i b a c got).2.1.finish b a c
      ((s.afterV i b a c).2.2 ||| (s.afterT i b a c got).2.2.1) (takenBy (s.islet i) b a).isSome)) i
    simp only [State.islet_setIslet] at h
    exact (finish_queues _ b a c _ _).trans (h _ _)
  · simp only [State.islet_setIslet]
    exact finish_queues _ b a c _ _

/-- Slot M meets the queues as they were, and what it makes of them stands after the bundle (R43, R44). -/
theorem issued_queues (s : State) (i : Nat) (b : Bundle) : ∃ x, QueuesKept (s.islet i) x ∧
    QueuesKept (if ((s.islet i).active b).m then ((ahead s i b).doM i (s.islet i) x b.m (cycleOf s i b)).2 else x) ((issued s i b).islet i) := by
  refine ⟨afterS1 (s.islet i) i s.dev.epoch b ((s.islet i).active b) (cycleOf s i b), ?_, ?_⟩
  · have h0 : QueuesKept (s.islet i) (afterS0 (s.islet i) i s.dev.epoch b ((s.islet i).active b) (cycleOf s i b)) := by
      unfold afterS0
      dsimp only
      split
      · exact (advance_queues ..).trans (doS_queues ..)
      · exact advance_queues ..
    unfold afterS1
    dsimp only
    split
    · exact h0.trans (doS_queues ..)
    · exact h0
  · have hm : ((ahead s i b).afterM i b ((s.islet i).active b) (cycleOf s i b)).2 = if ((s.islet i).active b).m then
        ((ahead s i b).doM i (s.islet i) (afterS1 (s.islet i) i s.dev.epoch b ((s.islet i).active b) (cycleOf s i b)) b.m (cycleOf s i b)).2
        else afterS1 (s.islet i) i s.dev.epoch b ((s.islet i).active b) (cycleOf s i b) := by
      unfold State.afterM
      rw [ahead_islet, ahead_dev]
      dsimp only
      split <;> rfl
    rw [← hm]
    have hv : QueuesKept ((ahead s i b).afterM i b ((s.islet i).active b) (cycleOf s i b)).2
        ((ahead s i b).afterV i b ((s.islet i).active b) (cycleOf s i b)).2.1 := by
      unfold State.afterV
      split
      · exact doV_queues _ _ _ _
      · exact .refl _
    have ht : QueuesKept ((ahead s i b).afterV i b ((s.islet i).active b) (cycleOf s i b)).2.1
        ((ahead s i b).afterT i b ((s.islet i).active b) (cycleOf s i b) (observed s i b)).2.1 := by
      unfold State.afterT
      split
      · exact doT_queues ..
      · exact .refl _
    refine (hv.trans ht).trans ?_
    exact complete_queues ..

end Sys2Proof.Machine
end

