-- ==== Sys2Proof/Tests/Slice0.lean ====
section
/-! SUPPORT. Tests: an ill-formed term for each check of WellFormed, single commands on small states with results taken from the spec or
computed by hand, and for each statement states and operands that meet its hypotheses. -/
namespace Sys2Proof.Tests

open Machine
set_option Elab.async false

/-- Does a command answer a next state that meets a test. -/
def after (c : Instr) (s : State) (f : State → Bool) : Bool :=
  match exec c s with
  | .next t => f t
  | _ => false

/-- Does a command leave exactly a given state. -/
def leaves (c : Instr) (s t : State) : Bool := after c s fun u => decide (u = t)

/-! Well-formed operands: one term that each check refuses, and one that it takes. -/

theorem test_wf_register_offset : Instr.wellFormed (.registerWrite .host 2 0 0) = false := by decide
theorem test_wf_register_aligned : Instr.wellFormed (.registerWrite .host 4 0 0) = true := by decide
theorem test_wf_epoch_plans : Instr.wellFormed (.epochBoundary ⟨0, 0, [(3, []), (3, [])], [], none, 0, 0, 0, true⟩) = false := by decide
theorem test_wf_epoch_temperature : Instr.wellFormed (.epochBoundary ⟨0, 2551, [], [], none, 0, 0, 0, true⟩) = false := by decide
theorem test_wf_epoch : Instr.wellFormed (.epochBoundary ⟨0, 2550, [(3, []), (4, [])], [], none, 0, 0, 0, true⟩) = true := by decide
theorem test_wf_report_nonce : Instr.wellFormed (.attestReport .host 0 0 0 (List.replicate 63 0) 0) = false := by decide
theorem test_wf_enrol_nonce : Instr.wellFormed (.attestEnrol .host 0 0 0 (List.replicate 65 0) 0) = false := by decide
theorem test_wf_retire_instance : Instr.wellFormed (.pageRetire 1 2 0 0 none 0) = false := by decide
theorem test_wf_bar2_read : Instr.wellFormed (.bar2Read 0 0 false 0) = false := by decide
theorem test_wf_bar2_write_none : Instr.wellFormed (.bar2Write 0 [] false 0) = false := by decide
theorem test_wf_bar2_write_long (l : List Byte) (h : l.length = 4097) : Instr.wellFormed (.bar2Write 0 l false 0) = false := by
  show (decide (0 < l.length) && decide (l.length ≤ 4096)) = false; simp [h]
theorem test_wf_long_packet (l : List Byte) (h : l.length = 65536) : Instr.wellFormed (.longPacket 0 0 0 true true l 0) = false := by
  show decide (l.length ≤ 65535) = false; simp [h]
theorem test_wf_datagram (l : List Byte) (h : l.length = 65508) : Instr.wellFormed (.lidarDatagram 0 0 0 false l 0) = false := by
  show decide (l.length ≤ 65507) = false; simp [h]
theorem test_wf_can_length : Instr.wellFormed (.canFrame 0 0 false ⟨true, List.replicate 65 0⟩ 0) = false := by decide
theorem test_wf_can_identifier : Instr.wellFormed (.canFrame 0 2048 false ⟨true, []⟩ 0) = false := by decide
theorem test_wf_can_extended : Instr.wellFormed (.canFrame 0 2048 true ⟨true, []⟩ 0) = true := by decide
theorem test_wf_fitted_uid : Instr.wellFormed (.coldStart true true (some ⟨[], [], List.replicate 64 0, []⟩) ⟨0, 0, [], true⟩ 0) = false := by decide
theorem test_wf_fitted_hash : Instr.wellFormed (.coldStart true true (some ⟨[], List.replicate 16 0, [], []⟩) ⟨0, 0, [], true⟩ 0) = false := by decide
theorem test_wf_frame (l : List Byte) (h : l.length = 263) : Instr.wellFormed (.linkFrameRx 0 l 0) = false := by
  show decide (l.length = 264) = false; simp [h]
theorem test_wf_wr_req (l : List Byte) (h : l.length = 4097) : Instr.wellFormed (.wrReq 0 0 0 0 0 0 0 l 0) = false := by
  show decide (l.length ≤ 4096) = false; simp [h]
theorem test_wf_rd_resp (l : List Byte) (h : l.length = 4097) : Instr.wellFormed (.rdResp 0 0 0 0 0 0 0 l 0) = false := by
  show decide (l.length ≤ 4096) = false; simp [h]
theorem test_wf_link_speed : Instr.wellFormed (.pcieLinkUp 6 8) = false := by decide
theorem test_wf_link_width : Instr.wellFormed (.pcieLinkUp 5 3) = false := by decide
theorem test_wf_pend_meets : Instr.wellFormed (.intcPendWrite 0 0 [1, 1]) = false := by decide
theorem test_wf_mask_meets : Instr.wellFormed (.intcMaskWrite 0 0 [2, 2]) = false := by decide
theorem test_wf_pend : Instr.wellFormed (.intcPendWrite 15 0xFFFFFFFF [0, 31]) = true := by decide

/-! Islets (spec 02, 03). -/

/-- Slot words of NOPs. -/
def nops : Rest := ⟨0, 0, 0, 0, 0⟩

/-- Islet 0 with an assignment, in RUN; the bundle at its pc is in its instruction cache. -/
def busy (x : Islet) : State := { dev := { state := .run }, islets := [(0, { x with idle := false, gated := false, icache := [(x.pc, 0)] })] }

theorem test_add_wraps : after (.add 0 ⟨.s0, 0, 1, 2, 3, 0⟩ nops) (busy { g := [(2, 7), (3, 0xFFFFFFFFFFFFFFFF)] })
    (fun t => (t.islet 0).gr 1 == 6 && (t.islet 0).pc == 32 && (t.islet 0).retired == 1) = true := by decide +kernel
theorem test_g0_stays_zero : after (.addi 0 ⟨.s1, 0, 0, 0, 0, 5⟩ nops) (busy {}) (fun t => (t.islet 0).gr 0 == 0) = true := by decide +kernel
theorem test_addi_sign_extends : after (.addi 0 ⟨.s0, 0, 4, 0, 0, 0x1FFFFF⟩ nops) (busy {}) (fun t => (t.islet 0).gr 4 == 0xFFFFFFFFFFFFFFFF) = true := by
  decide +kernel
theorem test_mulh : after (.mulh 0 ⟨.s0, 0, 1, 2, 2, 0⟩ nops) (busy { g := [(2, 0xFFFFFFFFFFFFFFFF)] }) (fun t => (t.islet 0).gr 1 == 0) = true := by
  decide +kernel
theorem test_sra : after (.sra 0 ⟨.s0, 0, 1, 2, 3, 0⟩ nops) (busy { g := [(2, 0x8000000000000000), (3, 65)] })
    (fun t => (t.islet 0).gr 1 == 0xC000000000000000) = true := by decide +kernel
theorem test_br_back : after (.br 0 ⟨.s0, 0, 0, 0, 0, 0x1FFFFF⟩ nops) (busy { pc := 64 })
    (fun t => (t.islet 0).pc == 32 && (t.islet 0).cycle == 2) = true := by decide +kernel
theorem test_loop_zero_skips : after (.loop 0 ⟨.s0, 0, 0, 0, 0, 3⟩ nops) (busy { pc := 64 }) (fun t => (t.islet 0).pc == 192) = true := by decide +kernel
theorem test_plt_signed : after (.plt 0 ⟨.s0, 0, 1, 2, 0, 0⟩ nops) (busy { g := [(2, 0xFFFFFFFFFFFFFFFF)] })
    (fun t => (t.islet 0).pr 1 == 0xFFFFFFFFFFFFFFFF) = true := by decide +kernel
theorem test_vtqrel_example : (let r := vexec .vtqrel .tq64 false 0 { a := 0xBCA36000005, b := 0, c := 0, g := 0xBC000000000, old := 0, sel := 0, pold := 0, pred := BitVec.allOnes 64 }
    elem 32 0 r.1 = 0x43236000 ∧ elem 32 8 r.1 = 0 ∧ r.2 = fpInexact) := by decide +kernel
theorem test_vcvt_example : elem 64 0 (vexec .vcvt .f32 false 10 { a := 0x3A800000, b := 0, c := 0, g := 0, old := 0, sel := 0, pold := 0, pred := BitVec.allOnes 64 }).1 = 0x40000 := by
  decide +kernel
theorem test_vadd_f32_example : (fadd .f32 0x43236000 0x3A800000) = (0x43236040, 0) := by decide +kernel


/-- What `Ready` asks, as one test. -/
def canGo (s : State) (i : Nat) (b : Bundle) : Bool :=
  let x := s.islet i
  let a := x.active b
  decide (s.canIssue i = true ∧ x.held = none ∧ (x.atBreak = true → x.passBp = true) ∧ b.illegal = none ∧ b.conflict = none ∧
    x.loadPending b.predKeys = false ∧ x.loadPending (b.srcs a ++ b.dests a) = false ∧ s.slotExn i b a = none ∧ (a.m && s.mFull i b.m) = false ∧
    x.mustDrain b a = false ∧ (a.m && s.mNoCredit i b.m) = false ∧ x.dueErrs b a = [] ∧ (s.watched i b a = true → x.passBp = true) ∧
    (s.buoyWait i b a (newHeld s i b)).1 = none)

theorem ready_of {s : State} {i : Nat} {b : Bundle} (h : canGo s i b = true) : Ready s i b := by
  obtain ⟨h1, h2, h3, h4, h5, h6, h7, h8, h9, h10, h11, h12, h13, h14⟩ := of_decide_eq_true h
  exact ⟨h1, h2, h3, h4, h5, h6, h7, h8, h9, h10, h11, h12, h13, h14⟩

/-- Do all of some bundles fetch and then meet `Ready`. -/
def allGo (s : State) (l : List Bundle) : Bool :=
  !s.fetchWaits 0 && (s.fetchExn 0).isNone && l.all fun b => canGo (fetched s 0) 0 b

/-- What the witnesses of the bundle statements say of each bundle. -/
def Goes (s : State) (l : List Bundle) : Prop := Fetches s 0 ∧ ∀ b ∈ l, Ready (fetched s 0) 0 b

theorem goes_of {s : State} {l : List Bundle} (h : allGo s l = true) : Goes s l := by
  simp only [allGo, Bool.and_eq_true, Bool.not_eq_true', Option.isNone_iff_eq_none, List.all_eq_true] at h
  exact ⟨h.1, fun b hb => ready_of (h.2 b hb)⟩

/-- Scalar rows that nothing keeps, in either slot, and one whose predicate is off (ScalarResults, PredicateResults, ScalarControl, BundleFrame). -/
theorem witness_scalar_rows : Goes (busy {}) [bundleS .add ⟨.s0, 0, 1, 2, 3, 0⟩ nops, bundleS .xori ⟨.s1, 0, 31, 2, 3, 9⟩ nops,
    bundleS .pnot ⟨.s0, 0, 7, 1, 0, 0⟩ nops, bundleS .endA ⟨.s0, 0, 0, 0, 0, 0⟩ nops] ∧
    Goes (busy { c := [(7, 2), (9, 64)], pc := 64, loopActive := true }) [bundleS .br ⟨.s0, 0, 0, 0, 0, 4⟩ nops] :=
  ⟨goes_of (by decide +kernel), goes_of (by decide +kernel)⟩
theorem witness_predicates : ((fetched (busy {}) 0).islet 0).predOn 0 = true ∧ ((fetched (busy {}) 0).islet 0).predOn 8 = false := by decide +kernel

/-- TrapEnters: TRAP with a handler set. -/
theorem witness_trap : (let s := busy { c := [(6, 0x200)] }
    let x := (fetched s 0).islet 0
    Goes s [bundleS .trap ⟨.s0, 0, 0, 0, 0, 7⟩ nops] ∧ x.craw 6 ≠ 0 ∧ x.inHandler = false ∧ x.stepping = false ∧ x.haltReq = false) :=
  ⟨goes_of (by decide +kernel), by decide +kernel⟩

theorem test_trap : after (.trap 0 ⟨.s0, 0, 0, 0, 0, 7⟩ nops) (busy { c := [(6, 0x200)] }) (fun t => let y := t.islet 0
    y.pc == 0x200 && y.craw 2 == 32 && y.craw 3 == 0xA && y.craw 5 == 7 && y.inHandler) = true := by decide +kernel

/-- OwnStoreAccesses at the last bytes of the sliver store. -/
theorem witness_own_store : (let s := busy {}
    let x := (fetched s 0).islet 0
    Goes s [bundleM .ld ⟨0, 1, 0, 0, 3, 0xFFF8⟩ nops, bundleM .vst ⟨0, 1, 0, 0, 0, 0xFFC0⟩ nops] ∧
    (fetched s 0).target 0 (x.ea ⟨.ld, ⟨0, 1, 0, 0, 3, 0xFFF8⟩⟩) = .own 0xFFF8 ∧ (fetched s 0).target 0 (x.ea ⟨.vst, ⟨0, 1, 0, 0, 0, 0xFFC0⟩⟩) = .own 0xFFC0) :=
  ⟨goes_of (by decide +kernel), by decide +kernel⟩

theorem test_st_ld : after (.st 0 ⟨0, 1, 0, 0, 1, 0x10⟩ nops) (busy { g := [(1, 0x12348765)] })
    (fun t => t.byte (sliverBase 0 + 0x10) == 0x65 && t.byte (sliverBase 0 + 0x11) == 0x87 && t.byte (sliverBase 0 + 0x12) == 0) = true := by decide +kernel
theorem test_ld_sign : after (.ld 0 ⟨0, 1, 0, 0, 1, 0x10⟩ nops) ((busy {}).store (sliverBase 0 + 0x10) [0x65, 0x87])
    (fun t => (t.islet 0).gr 1 == 0xFFFFFFFFFFFF8765) = true := by decide +kernel
theorem test_ldu_zero : after (.ldu 0 ⟨0, 1, 0, 0, 1, 0x10⟩ nops) ((busy {}).store (sliverBase 0 + 0x10) [0x65, 0x87])
    (fun t => (t.islet 0).gr 1 == 0x8765) = true := by decide +kernel

/-- QueuedAccesses: a load from, a store to another Islet's store (QueuedAccesses, LoadReturns, StoresPerformed). -/
theorem witness_queued : (let s := busy { g := [(2, 0x10010000)] }
    Goes s [bundleM .ld ⟨0, 1, 2, 0, 3, 0⟩ nops, bundleM .st ⟨0, 1, 2, 0, 3, 0⟩ nops] ∧
    (fetched s 0).target 0 (((fetched s 0).islet 0).ea ⟨.ld, ⟨0, 1, 2, 0, 3, 0⟩⟩) = .sliver 1) :=
  ⟨goes_of (by decide +kernel), by decide +kernel⟩

theorem test_queued_load : after (.ld 0 ⟨0, 1, 2, 0, 3, 0⟩ nops) (busy { g := [(2, 0x10010000)] })
    (fun t => (t.islet 0).loads.map (fun q => (q.reg, q.addr)) == [(1, 0x10010000)] && (t.islet 0).pc == 32) = true := by decide +kernel

/-- TowOperations. -/
theorem witness_tows : Goes (busy { g := [(2, 0x10010040), (3, 0xFFC0)] }) [bundleM .towin ⟨0, 0, 2, 3, 7, 0x40⟩ nops,
    bundleM .towout ⟨0, 0, 2, 3, 0, 0x40⟩ nops, bundleM .twait ⟨0, 1, 0, 0, 0, 0xFF⟩ nops, bundleM .tstat ⟨0, 1, 0, 0, 0, 0⟩ nops] :=
  goes_of (by decide +kernel)

theorem test_towin : after (.towin 0 ⟨0, 0, 2, 3, 7, 0x40⟩ nops) (busy { g := [(2, 0x10010040), (3, 0xFFC0)] })
    (fun t => decide (((t.islet 0).tow 7).busy = true ∧ ((t.islet 0).tow 7).far = 0x10010040 ∧ ((t.islet 0).tow 7).off = 0xFFC0)) = true := by decide +kernel

/-- VectorResults, IntegerLanes, BitwiseLanes at the last lane; a V slot with no lane enabled. -/
theorem witness_vector : Goes (busy {}) [bundleV .vadd ⟨0, 1, 2, 3, 0, 2, true, 0, 0⟩ nops, bundleV .vext ⟨0, 1, 2, 0, 0, 4, false, 0, 15⟩ nops,
    bundleV .vmtt ⟨0, 7, 2, 0, 0, 9, false, 0, 3⟩ nops] := goes_of (by decide +kernel)
theorem witness_lanes : EType.ofCode 2 = some .i8 ∧ EType.isInt .i8 = true ∧ 63 < laneCount .i8 ∧ laneOn (BitVec.allOnes 64) 8 63 = true ∧
    laneOn 0 8 63 = false ∧ vEnabled .vadd .i8 0 ((busy {}).islet 0 |>.predReg 0) = true ∧ vEnabled .vadd .i8 0 0 = false := by decide +kernel

theorem test_vadd_saturates : elem 8 63 (vexec .vadd .i8 true 0 { a := BitVec.ofNat 512 (127 * 2 ^ 504), b := BitVec.ofNat 512 (2 ^ 504), c := 0, g := 0, old := 0, sel := 0, pold := 0, pred := BitVec.allOnes 64 }).1 = 127 := by
  decide +kernel
theorem test_vadd_wraps : elem 8 63 (vexec .vadd .i8 false 0 { a := BitVec.ofNat 512 (127 * 2 ^ 504), b := BitVec.ofNat 512 (2 ^ 504), c := 0, g := 0, old := 0, sel := 0, pold := 0, pred := BitVec.allOnes 64 }).1 = 128 := by
  decide +kernel

/-- TensorResults. -/
theorem witness_tensor : Goes (busy {}) [bundleT .tfill ⟨0, 7, 0, 0, 4, false, 0, 0x3FFFFFF⟩ nops, bundleT .tmma ⟨0, 0, 1, 2, 2, false, 1, 0⟩ nops] :=
  goes_of (by decide +kernel)

theorem test_tfill : after (.tfill 0 ⟨0, 7, 0, 0, 4, false, 0, 0x3FFFFFF⟩ nops) (busy {}) (fun t => nthD 0 ((t.islet 0).tr 7) 63 == 0xFFFFFFFF) = true := by
  decide +kernel
theorem test_tmma_i8 : after (.tmma 0 ⟨0, 0, 1, 2, 2, false, 1, 0⟩ nops) (busy { v := [(1, 0xFE03), (2, BitVec.ofNat 512 (5 + 7 * 2 ^ 64))] })
    (fun t => nthD 0 ((t.islet 0).tr 0) 0 == 1) = true := by decide +kernel

/-- BuoyOperations and BuoyTimeouts, at the last buoy for BSIG; a BARR that completes its barrier. -/
theorem witness_buoys : Goes { busy { g := [(2, 0xFFFF), (3, 9)] } with buoys := [(4, { owner := 0 }), (5, { participants := 2, arrivals := 1, barrier := true, owner := 0 }), (0xFFFF, { owner := 0 })] }
    [bundleB .bsig ⟨0, 0, 2, 3, 0, 0⟩ nops, bundleB .bwait ⟨0, 1, 0, 0, 4, 0⟩ nops, bundleB .barr ⟨0, 1, 0, 0, 5, 0⟩ nops,
      bundleB .barv ⟨0, 1, 0, 0, 5, 0⟩ nops, bundleB .bpoll ⟨0, 1, 0, 0, 5, 0⟩ nops] := goes_of (by decide +kernel)

theorem test_bsig : after (.bsig 0 ⟨0, 0, 2, 3, 0, 0⟩ nops) { busy { g := [(2, 0xFFFF), (3, 9)] } with buoys := [(0xFFFF, { owner := 0 })] } (fun t => (t.buoy 0xFFFF).value == 9 && (t.buoy 0xFFFF).lastSignaller == 0) = true := by
  decide +kernel
theorem test_barr_completes : after (.barr 0 ⟨0, 1, 0, 0, 5, 0⟩ nops)
    { busy {} with buoys := [(5, { participants := 2, arrivals := 1, barrier := true, owner := 0 })] }
    (fun t => (t.buoy 5).arrivals == 0 && (t.buoy 5).value == 1 && (t.islet 0).gr 1 == 1) = true := by decide +kernel

/-- IllegalBundles: MUL stands in S0 only; two slots that write one register. -/
theorem witness_illegal : (let s := busy { c := [(6, 0x200)] }
    let b := bundleS .mul ⟨.s1, 0, 1, 2, 3, 0⟩ nops
    let d := bundleS .add ⟨.s0, 0, 1, 2, 3, 0⟩ { nops with s1 := 0x0201000000 }
    s.fetchWaits 0 = false ∧ s.fetchExn 0 = none ∧ s.canIssue 0 = true ∧ (s.islet 0).held = none ∧ (s.islet 0).atBreak = false ∧ (s.islet 0).inHandler = false ∧ (s.islet 0).craw 6 ≠ 0 ∧
    (s.islet 0).stepping = false ∧ b.illegal = some 1 ∧ d.illegal = none ∧ d.conflict = some 0) := by decide +kernel

theorem test_illegal_opcode : after (.mul 0 ⟨.s1, 0, 1, 2, 3, 0⟩ nops) (busy { c := [(6, 0x200)] })
    (fun t => (t.islet 0).craw 3 == 1 && (t.islet 0).craw 5 == 1 && (t.islet 0).pc == 0x200) = true := by decide +kernel
theorem test_illegal_bundle : after (.add 0 ⟨.s0, 0, 1, 2, 3, 0⟩ { nops with s1 := 0x0201000000 }) (busy { c := [(6, 0x200)] })
    (fun t => (t.islet 0).craw 3 == 2 && (t.islet 0).gr 1 == 0) = true := by decide +kernel

/-- MisalignedAccess: eight bytes at an odd address. -/
theorem witness_misaligned : (let s := busy { c := [(6, 0x200)], g := [(2, 1)] }
    let b := bundleM .ld ⟨0, 1, 2, 0, 3, 0⟩ nops
    s.fetchWaits 0 = false ∧ s.fetchExn 0 = none ∧ s.canIssue 0 = true ∧ (s.islet 0).held = none ∧ (s.islet 0).atBreak = false ∧ b.illegal = none ∧ b.conflict = none ∧ (s.islet 0).loads = [] ∧
    (s.islet 0).predOn 0 = true ∧ b.s0.op ≠ .jr ∧ b.s0.op ≠ .callr ∧ (s.islet 0).inHandler = false ∧ (s.islet 0).craw 6 ≠ 0 ∧ (s.islet 0).stepping = false ∧
    (s.islet 0).ea ⟨.ld, ⟨0, 1, 2, 0, 3, 0⟩⟩ % 2 ^ (⟨.ld, ⟨0, 1, 2, 0, 3, 0⟩⟩ : MIns).log2w = 1) := by decide +kernel

theorem test_align : after (.ld 0 ⟨0, 1, 2, 0, 3, 0⟩ nops) (busy { c := [(6, 0x200)], g := [(2, 1)] })
    (fun t => (t.islet 0).craw 3 == 3 && (t.islet 0).craw 4 == 1 && (t.islet 0).pc == 0x200) = true := by decide +kernel

/-- A load, a posted store and a tow of Islet 0 in flight, all on the store of Islet 1. -/
def flying : State :=
  (busy { loads := [⟨4, .ldu, 2, 5, 0x10010008, 0x10010008, 0, 0, []⟩], stores := [{ seq := 6, addr := 0x10010010, bytes := [1, 2] }],
          tows := [(3, { busy := true, isIn := true, far := 0x10010040, loc := 0x10010040, off := 0x80, len := 64 })] }).store (sliverBase 1 + 8) [0x11, 0x22, 0x33, 0x44]

/-- LoadReturns, StoresPerformed, TowsComplete. -/
theorem witness_flying : flying.asleep = false ∧ (flying.islet 0).held = none ∧ (flying.islet 0).loads[0]? = some ⟨4, .ldu, 2, 5, 0x10010008, 0x10010008, 0, 0, []⟩ ∧
    flying.isPeer 0 0x10010008 = false ∧ flying.notLoaded 0 0x10010008 = false ∧ ((flying.islet 0).stores[0]?).map (·.seq) = some 6 ∧
    flying.notLoaded 0 0x10010010 = false ∧ ((flying.islet 0).tow 3).busy = true ∧ flying.notLoaded 0 0x10010040 = false ∧
    overlap 0x10010008 4 0x10010010 2 = false ∧ flying.isletCode 0 0x10010008 4 true = 0 ∧ flying.inTransfer 0x10010010 2 = false ∧
    (flying.islet 0).olderLoad ⟨4, .ldu, 2, 5, 0x10010008, 0x10010008, 0, 0, []⟩ = false ∧
    (flying.islet 0).olderLoad ⟨5, .ldu, 2, 5, 0x1001000A, 0x1001000A, 0, 0, []⟩ = true := by decide +kernel

theorem test_load_return : after (.loadReturn 0 0 100 none none) flying
    (fun t => (t.islet 0).gr 5 == 0x44332211 && (t.islet 0).loads.isEmpty && (t.islet 0).cycle == 100) = true := by decide +kernel
theorem test_load_error : after (.loadReturn 0 0 100 (some 0x12) none) flying
    (fun t => (t.islet 0).gr 5 == 0 && decide ((5, ⟨4, 0x10010008, 0x12⟩) ∈ (t.islet 0).poison)) = true := by decide +kernel
theorem test_store_performed : after (.storePerformed 0 0 100 none) flying
    (fun t => t.byte 0x10010010 == 1 && t.byte 0x10010011 == 2 && (t.islet 0).stores.isEmpty) = true := by decide +kernel
theorem test_tow_complete : after (.towComplete 0 3 100 none none) (flying.store 0x10010040 [7, 8])
    (fun t => t.byte (sliverBase 0 + 0x80) == 7 && t.byte (sliverBase 0 + 0x81) == 8 && !((t.islet 0).tow 3).busy) = true := by decide +kernel

/-- BuoyTimeouts: Islet 0 holds a BWAIT on buoy 5 whose c11 is 50 cycles. -/
def waiting : State :=
  { busy { g := [(3, 7)], c := [(11, 50)], held := some { bundle := bundleB .bwait ⟨0, 1, 0, 3, 5, 0⟩ nops, since := 10, buoy := some 5 } } with
    buoys := [(5, { value := 3, owner := 0, waiting := [0] })] }

theorem witness_waiting : (let x := waiting.islet 0
    let b := bundleB .bwait ⟨0, 1, 0, 3, 5, 0⟩ nops
    let a := x.active b
    waiting.asleep = false ∧ (x.craw 11).toNat % 2 ^ 32 = 50 ∧ a.t = true ∧ b.illegal = none ∧ b.conflict = none ∧ x.loadPending b.predKeys = false ∧
    x.loadPending (b.srcs a ++ b.dests a) = false ∧ waiting.slotExn 0 b a = none ∧ a.m = false ∧ x.mustDrain b a = false ∧ x.dueErrs b a = [] ∧
    waiting.watched 0 b a = false) := by decide +kernel

theorem test_buoy_timeout : after (.buoyWaitTimeout 0) waiting
    (fun t => (t.islet 0).gr 1 == 0x8000000000000003 && decide ((t.islet 0).held = none ∧ 60 ≤ (t.islet 0).cycle)) = true := by decide +kernel

theorem test_bsig_releases : after (.buoyValueWrite .chain 5 8) waiting (fun t => (t.islet 0).gr 1 == 8 && decide ((t.islet 0).held = none)) = true := by
  decide +kernel
theorem test_buoy_owner : after (.buoyCtlWrite .chain 65535 0xFE010000) (busy {}) (fun t => (t.buoy 65535).owner == 0xFE && (t.buoy 65535).barrier) = true := by
  decide +kernel
theorem test_buoy_host_denied : leaves (.buoyCtlWrite .host 5 0xFE010000) waiting waiting = true := by decide +kernel

/-- DebugWindow: in TEST a halted Islet with a NOP bundle at its pc. -/
def debugged : State := { busy { halted := true, haltCause := 1 } with dev := { state := .test } }

/-- DebugWindow: the same Islet with nothing in its cache and its pc outside every object, with a handler. -/
def lostCode : State := { dev := { state := .test }, islets := [(0, { idle := false, gated := false, halted := true, haltCause := 1, c := [(6, 0x200)] })] }

/-- DebugWindow: a running Islet, and one that has a counted BARR. -/
def inTest (h : Option Held) : State := { busy { held := h } with dev := { state := .test } }

theorem witness_debug_step : debugged.dev.state = .test ∧ (debugged.islet 0).halted = true ∧ (debugged.islet 0).idle = false ∧ (debugged.islet 0).haltReq = false ∧
    allGo (debugged.stepped 0) [decodeRest (splitBundle ((debugged.stepped 0).fetch 0).1)] = true := by decide +kernel
theorem witness_debug_ready : Goes (debugged.stepped 0) [decodeRest (splitBundle ((debugged.stepped 0).fetch 0).1)] := goes_of (by decide +kernel)
theorem witness_debug_fetch : (let s1 := lostCode.stepped 0
    s1.canIssue 0 = true ∧ s1.fetchWaits 0 = false ∧ s1.fetchExn 0 = some ⟨9, some 0, ccUnallocated⟩ ∧ (lostCode.islet 0).held = none ∧
    (lostCode.islet 0).inHandler = false ∧ (lostCode.islet 0).craw 6 ≠ 0) := by decide +kernel
theorem witness_debug_halt : ((inTest none).islet 0).halted = false ∧ ((inTest none).islet 0).held = none ∧
    (((inTest (some { bundle := bundleB .barr ⟨0, 1, 0, 0, 5, 0⟩ nops, since := 0, barrPhase := some 3 })).islet 0).held.bind fun h => h.barrPhase) = some 3 := by
  decide +kernel

theorem test_dbg_step : after (.dbgStep 0) debugged (fun t => (t.islet 0).halted && (t.islet 0).retired == 1 && (t.islet 0).pc == 32) = true := by decide +kernel
theorem test_dbg_step_fetch_error : after (.dbgStep 0) lostCode (fun t => (t.islet 0).halted && (t.islet 0).haltCause == 4 && (t.islet 0).craw 3 == 9 && (t.islet 0).pc == 0x200) = true := by
  decide +kernel
theorem test_dbg_halt : after (.dbgHalt 0) (inTest none) (fun t => (t.islet 0).halted && (t.islet 0).haltCause == 1) = true := by decide +kernel
theorem test_dbg_outside_test : leaves (.dbgHalt 0) (busy {}) (busy {}) = true := by decide +kernel

/-- SettleQuiet, RemoteFrame, AsleepDeaf. -/
theorem witness_quiet : (busy {}).place.waiters = [] ∧ (∀ n, ((busy {}).nslot n).inv = none) ∧ Remote .idcode ∧
    ({ dev := { state := .sleep } } : State).asleep = true ∧ ¬ Awake (.cmdNop .host 0 0) := by
  refine ⟨rfl, fun n => rfl, .idcode, rfl, ?_⟩
  rintro ⟨⟩
  rename_i h; rcases h with h | h | h | h | h <;> cases h

/-! Registers, interrupts, rings, commands (spec 00, 12, 14, 15). -/

/-- A state with registers written, and in force. -/
def withRegs (s : State) (l : List (Nat × Nat)) : State := (l.foldl (fun (s : State) e => s.setReg e.1 e.2) s).inForce

/-- The device in a state. -/
def inState (x : DState) : State := { dev := { state := x } }

/-- The host link is up with bus mastering, MSI-X is on, and vector 12 is unmasked. -/
def hosted (x : DState) : State :=
  withRegs { dev := { state := x }, ep := { perst := true, refclk := true, configOpen := true, msixEnable := true } }
    [(R.HOST_LINK_STATUS, 0x5085), (R.MSIX + 16 * 12, 0xFEE00000), (R.MSIX + 16 * 12 + 8, 0x41), (R.MSIX + 16 * 12 + 12, 0)]

/-- The controller of 15's worked example before its first row. -/
def example15 : State :=
  withRegs (hosted .run) [(R.INTC_ROUTE + 4 * 195, 0x8000000C), (R.INTC_ROUTE + 4 * 192, 0x8000000C), (R.INTC_MASK + 4 * 6, 0xFFFFFFF6), (R.INTC_COUNT + 4 * 192, 4)]

theorem test_example15_assert : (let s := example15.setLevel 195 true
    s.reg (R.INTC_PEND + 24) = 8 ∧ s.reg (R.INTC_COUNT + 4 * 195) = 1 ∧ s.out = [.msix 12 0xFEE00000 0x41]) := by decide +kernel
theorem test_example15_retract : after (.levelDeassert 195) (example15.setLevel 195 true)
    (fun t => t.reg (R.INTC_LEVEL + 24) == 0 && t.reg (R.INTC_PEND + 24) == 8) = true := by decide +kernel
theorem test_example15_clear : after (.intcPendWrite 6 8 []) (example15.setLevel 195 true) (fun t => t.reg (R.INTC_PEND + 24) == 0) = true := by decide +kernel
theorem test_example15_masked : after (.intcMaskWrite 6 0xFFFFFFF7 [0]) example15
    (fun t => t.reg (R.INTC_PEND + 24) == 1 && t.reg (R.INTC_COUNT + 4 * 192) == 5 && t.out.isEmpty) = true := by decide +kernel
theorem test_example15_unmask_pending : after (.intcMaskWrite 6 0xFFFFFFF6 []) (withRegs example15 [(R.INTC_PEND + 24, 1), (R.INTC_MASK + 24, 0xFFFFFFF7)])
    (fun t => t.out == [.msix 12 0xFEE00000 0x41]) = true := by decide +kernel
theorem test_count_write_meets : after (.intcCountWrite 192 0 true) example15 (fun t => t.reg (R.INTC_COUNT + 4 * 192) == 1) = true := by decide +kernel
theorem test_soft : after (.intcSoft 0x8001) (inState .run) (fun t => t.srcBit R.INTC_PEND 496 && t.srcBit R.INTC_PEND 511 && !t.srcBit R.INTC_PEND 497) = true := by
  decide +kernel

/-- PendingAndCounts, MasksAndSources: a source that exists, unmasked, routed to an open vector; sources at the ends of their ranges. -/
theorem witness_sources : sourceExists 192 = true ∧ example15.srcBit R.INTC_MASK 192 = false ∧
    example15.fld (R.INTC_ROUTE + 4 * 192) R.INTC_ROUTE_msix_en = 1 ∧ example15.fld (R.INTC_ROUTE + 4 * 192) R.INTC_ROUTE_chain_en = 0 ∧
    example15.vectorOpen (example15.fld (R.INTC_ROUTE + 4 * 192) R.INTC_ROUTE_vector) = true ∧ example15.asleep = false ∧ example15.intcRuns = true ∧
    sourceExists 8 = true ∧ sourceExists 9 = false ∧ sourceExists 511 = true ∧ sourceExists 447 = false ∧ levelSource 384 = true ∧ levelSource 385 = false := by
  decide +kernel

/-- OddAccess, RegisterFields, RegisterWrites: a plain register, a field of each access. -/
theorem witness_plain : PlainReg R.FUSE_OUT_CFG ∧ (csrFields R.INTC_PEND).any (fun f => f.acc == .w1c) = true ∧
    (csrFields R.HOST_RELAY_CTL).any (fun f => f.acc == .ro) = true ∧ (csrFields R.HOST_RELAY_CTL).any (fun f => f.acc == .wo) = true ∧
    (0xFFFFFFF : BitVec 28).toNat % 4 ≠ 0 := by
  unfold PlainReg; decide +kernel

theorem test_register_legal : after (.registerWrite .host R.FUSE_OUT_CFG 40 0) (inState .run) (fun t => t.fld R.FUSE_OUT_CFG R.FUSE_OUT_CFG_div == 40) = true := by
  decide +kernel
theorem test_register_illegal_kept : after (.registerWrite .host R.FUSE_OUT_CFG 41 0) (inState .run) (fun t => t.fld R.FUSE_OUT_CFG R.FUSE_OUT_CFG_div == 2) = true := by
  decide +kernel
theorem test_odd_access : leaves (.registerWrite .host 0xB0001 5 7) (inState .run) { inState .run with tb3 := 7 } = true := by decide +kernel

/-- RingEntries: the EVENT ring on, with and without bus mastering. -/
theorem witness_rings : (let on := [(R.CFG_RING_CFG + 0x20, 0x80000006), (R.CFG_RING_BASE_LO + 0x20, 0x10000)]
    (withRegs (hosted .run) on).ringOn 1 = true ∧ (withRegs (hosted .run) on).canMaster = true ∧ (withRegs (inState .run) on).ringOn 1 = true ∧
    (withRegs (inState .run) on).canMaster = false ∧ (inState .run).ringOn 1 = false) := by decide +kernel

/-- CommandWrites, CommandArguments, NOR and OTP rows: an empty bank, an open command register, an argument in reach. -/
theorem witness_commands : (let s := { hosted .run with dev := { (hosted .run).dev with host := { argLo := 0x1000 } } }
    s.asleep = false ∧ s.cmdOpen = true ∧ (s.bank .host).cmd = none ∧ s.canMaster = true ∧ (s.bank .host).argLo.toNat ≠ 0 ∧
    inPlaced placedBase = true ∧ (inState .train).cmdOpen = false) := by decide +kernel

theorem test_command_waits : after (.stageShadow .host 0x31 9) { hosted .run with dev := { (hosted .run).dev with host := { argLo := 0x1000 } } }
    (fun t => decide (((t.bank .host).cmd.map fun d => (d.op, d.token, d.argAddr)) = some (4, 0x31, 0x1000)) && t.out == [.hostRead 0x1000 0x10000] &&
      (t.bank .host).status == 0x31040100) = true := by decide +kernel
theorem test_command_in_boot : leaves (.cmdNop .chain 1 9) { inState .train with tb3 := 9 } { inState .train with tb3 := 9 } = true := by decide +kernel
theorem test_argument_in_time : after (.cmdArgReadDone .host [1, 2] 2000009)
    { hosted .run with dev := { (hosted .run).dev with host := { cmd := some { op := 4, token := 1, argAddr := 0x1000, since := 9, arg := .reading } } } }
    (fun t => decide (((t.bank .host).cmd.map fun d => d.arg) = some (.done [1, 2]))) = true := by decide +kernel
theorem test_argument_too_late : after (.cmdArgReadDone .host [1, 2] 2000010)
    { hosted .run with dev := { (hosted .run).dev with host := { cmd := some { op := 4, token := 1, argAddr := 0x1000, since := 9, arg := .reading } } } }
    (fun t => decide (((t.bank .host).cmd.map fun d => d.arg) = some .failed)) = true := by decide +kernel

/-! Network units and placement (spec 04, 05). -/

/-- An object record. -/
def obj1 (size : Nat) (res : Residency) (tier inst : Nat) : Obj :=
  { size := size, cls := 2, confCls := 2, hint := 1, owner := 3, res := res, tier := tier, inst := inst }

/-- A unit with one layer that reads one weight, object 0x200; its inference ring is object 0x100, its buoys start at 0x40. -/
def unit1 : NUnit :=
  { digest := [], kind := 1, trigKind := 2, trigArg := 1, deadlineUs := 1000, layers := [⟨0, 0, 1, 1, 1, 0, 0, 1, 0⟩], weights := [⟨[], 0x20000, 0, 1, 0x200⟩],
    ios := [], buoyTab := [], stateCount := 0, arenaBytes := 0, stateBytes := 0, progOff := 0, progBytes := 0, evec := 0, cls := 2, affinity := 0, elastic := false,
    maxStretch := 1, ringObj := 0x100, buoyBase := 0x40, tiers := [1] }

/-- An invocation of it. -/
def inv1 (running : List Nat) : Invocation :=
  { seq := 65, tRel := 0, tRel3 := 0, epoch := 4, layer := 0, running := running, widest := 1, waitSince := none, waitUs := 0, weightWait := false, partialIn := false,
    stateReset := false, skipped := false, mask := 0, inputs := [], aux := [], fault := none, nextPlan := [] }

/-- A release that waits. -/
def rel1 : Release := ⟨10, 10, 4, 0, false, [], [], 0⟩

/-- RUN with the unit in slot 31, in a state of NET_UNIT_STATE. -/
def netState (st : Nat) (u : NSlot) : State := (({ inState .run with units := [(31, u)] } : State).setUnitState 31 st)

/-- NetReleases: no release due; a unit not active; a turn that is skipped; a slot in flight; an idle slot; a camera set 2 ms old. -/
theorem witness_releases : (let act := netState 2
    (act { unit := some unit1 }).asleep = false ∧ ((act { unit := some unit1 }).nslot 31).due = [] ∧
    (let s := netState 1 { unit := some unit1, due := [rel1] }; s.unitState 31 ≠ 2 ∧ s.unitState 31 ≠ 3 ∧ (s.nslot 31).due = [rel1]) ∧
    (let s := act { unit := some unit1, due := [rel1], stretch := 2 }; s.unitRuns 31 = true ∧ s.unitState 31 = 2 ∧ ((s.nslot 31).count + 1) % (s.nslot 31).stretch ≠ 0) ∧
    (let s := act { unit := some unit1, due := [rel1], inv := some (inv1 []) }; s.unitRuns 31 = true ∧ ((s.nslot 31).count + 1) % (s.nslot 31).stretch = 0 ∧ (s.nslot 31).inv.isSome = true) ∧
    (let s := act { unit := some unit1, due := [rel1] }; s.unitRuns 31 = true ∧ ((s.nslot 31).count + 1) % (s.nslot 31).stretch = 0 ∧ (s.nslot 31).inv = none) ∧
    (let s := act { unit := some unit1, camSets := [⟨none, 5, []⟩] }; (s.nslot 31).camSets = [⟨none, 5, []⟩] ∧ s.unitRuns 31 = true ∧ s.unitState 31 = 2 ∧ (5 + 2000000 ≤ 2000005))) := by
  decide +kernel

theorem test_release_starts : after (.invocationRelease 31 9) (netState 2 { unit := some unit1, due := [rel1] })
    (fun t => (t.nslot 31).seq == 1 && decide (((t.nslot 31).inv.map fun i => (i.seq, i.tRel, i.epoch)) = some (1, 10, 4)) && t.reg (R.NET_UNIT_INVOKE + 0x40 * 31) == 1 &&
      (t.nslot 31).due.isEmpty) = true := by decide +kernel
theorem test_release_pends : after (.invocationRelease 31 9) (netState 2 { unit := some unit1, due := [rel1], inv := some (inv1 []), pend := some rel1 })
    (fun t => (t.nslot 31).skipped && t.reg (R.NET_UNIT_SKIP + 0x40 * 31) == 1) = true := by decide +kernel
theorem test_partial_early : after (.partialInputTimeout 31 2000004) (netState 2 { unit := some unit1, camSets := [⟨none, 5, []⟩] })
    (fun t => (t.nslot 31).camSets.length == 1 && (t.nslot 31).due.isEmpty) = true := by decide +kernel
theorem test_partial_late : after (.partialInputTimeout 31 2000005) (netState 2 { unit := some unit1, camSets := [⟨none, 5, []⟩] })
    (fun t => (t.nslot 31).camSets.isEmpty && decide ((t.nslot 31).due.map (fun r => (r.partialIn, r.tRel3)) = [(true, 2000005)])) = true := by decide +kernel

/-- The unit's slot with the weight's object as given. -/
def weighed (u : NSlot) (o : Obj) : State := (netState 2 u).setObj 0x200 (some o)

/-- WeightRequests: the weight up, unloaded, resident too low; an Islet that waits on the layer's buoy. -/
theorem witness_weights : ((netState 2 { unit := some unit1 }).nslot 31).unit = some unit1 ∧ unit1.layerWeights 0 = [0] ∧ unit1.layerWeights 4095 = [] ∧ unit1.tierOf 0 = 1 ∧
    (weighed { unit := some unit1 } (obj1 0x20000 .resident 1 0)).obj 0x200 = some (obj1 0x20000 .resident 1 0) ∧
    (let s := weighed { unit := some unit1 } (obj1 0x20000 .unloaded 3 0); pagesOf 0x20000 ≤ s.availIn 3 (s.bestInst 3 0 2) 2) ∧
    (let s := weighed { unit := some unit1 } (obj1 0x20000 .resident 3 0); pagesOf 0x20000 ≤ s.availIn 1 (s.bestInst 1 0 2) 2) ∧
    (let s : State := { netState 2 { unit := some unit1, inv := some (inv1 [0]) } with islets := [(0, { held := some { bundle := bundleB .bwait ⟨0, 1, 0, 0, 0x40, 0⟩ nops, since := 0, buoy := some 0x40 } })] };
      (s.nslot 31).inv = some (inv1 [0]) ∧ (inv1 [0]).running = [0] ∧ ((s.islet 0).held.bind fun h => h.buoy) = some (unit1.buoyBase + (inv1 [0]).layer)) := by
  decide +kernel

/-- WeightRequests: the credits of the Ferry are there, and all taken. -/
theorem witness_ferry_credit : (let s := weighed { unit := some unit1 } (obj1 0x20000 .resident 3 0)
    let l := (obj1 0x20000 .resident 3 0).movePaths { toTier := 1, toInst := 0, cls := 2, requester := 31 }
    let full := l.foldl (fun (s : State) p => (List.replicate (pathCredits p) [p]).foldl (fun u q => u.credAdd q false) s) s
    s.credFree l 2 = true ∧ full.credFree l 2 = false) := by decide +kernel

theorem test_prefetch_up : after (.weightPrefetch 31 0) (weighed { unit := some unit1 } (obj1 0x20000 .resident 3 0))
    (fun t => decide (((t.obj 0x200).map fun o => (o.res, o.move.map fun m => (m.toTier, m.requester))) = some (.movingUp, some (1, 31)))) = true := by decide +kernel

/-- InvocationEnds: the last layer done; Islets still running; a fault; a weight that failed; none. -/
theorem witness_ends : ((netState 2 { unit := some unit1, inv := some (inv1 []) }).nslot 31).inv = some (inv1 []) ∧ (inv1 []).running = [] ∧
    (inv1 []).layer + 1 = unit1.layers.length ∧ (inv1 [0]).running ≠ [] ∧ ({ inv1 [0] with fault := some (3, 0) } : Invocation).fault.isSome = true ∧
    ({ inv1 [0] with weightFail := true } : Invocation).weightFail = true ∧ (inv1 []).fault = none ∧ (inv1 []).weightFail = false := by decide +kernel

theorem test_invocation_done : after (.invocationDone 31 1000001) (netState 2 { unit := some unit1, inv := some (inv1 []) })
    (fun t => (t.nslot 31).inv.isNone && leAt (t.bytes (placedAddr 0x100) 64) 0 8 == 65 && leAt (t.bytes (placedAddr 0x100) 64) 8 8 == 0 &&
      leAt (t.bytes (placedAddr 0x100) 64) 0x18 8 == 4 && leAt (t.bytes (placedAddr 0x100) 64) 0x2A 1 == 31) = true := by decide +kernel
theorem test_eighth_failure : after (.invocationFail 31 9) (netState 2 { unit := some unit1, fails := 7, inv := some { inv1 [0] with fault := some (3, 0) } })
    (fun t => t.unitState 31 == 5 && bitOf (t.reg R.NET_DEGRADED) 31 && (t.islet 0).idle) = true := by decide +kernel

/-- A move of object 0xFFFFFF from T3 up to T1, with the credits it holds. -/
def up1 : Move :=
  let m : Move := { toTier := 1, toInst := 5, cls := 2, requester := 3 }
  { m with paths := (obj1 0x10000 .movingUp 3 1).movePaths m }
def moving : State := (inState .run).setObj 0xFFFFFF (some { obj1 0x10000 .movingUp 3 1 with move := some up1 })

/-- TransfersEnd: a move up, a load, one that has no credits yet, one Islet's load, store and tow, each waiting on its tier; the two sides of a time limit. -/
theorem witness_transfers : moving.asleep = false ∧ moving.obj 0xFFFFFF = some { obj1 0x10000 .movingUp 3 1 with move := some up1 } ∧ up1.paths ≠ [] ∧
    (let ld : Obj := { obj1 0x10000 .unloaded 3 1 with move := some { up1 with toTier := 3, toInst := 1 } }
     let s := (inState .run).setObj 5 (some ld);
     s.obj 5 = some ld ∧ s.readWaits (.payload 5) = false) ∧
    (inState .run).obj 5 = none ∧ ({ up1 with paths := [] } : Move).paths = [] ∧
    (∀ dest, moving.overdue (.move 0xFFFFFF dest) (10 ^ 12) = true ∧ moving.overdue (.move 0xFFFFFF dest) 0 = false) := by decide +kernel
/-- A load, a posted store and a tow of Islet 0 in flight, all on object 1 in T3. -/
def sailing : State :=
  let a := placedAddr 1
  (busy { loads := [{ seq := 4, op := .ldu, size := 2, reg := 5, addr := a + 8 }], stores := [{ seq := 6, addr := a + 16, bytes := [1, 2] }],
          tows := [(3, { busy := true, isIn := true, far := a + 64, loc := a + 64, off := 0x80, len := 64 })] }).setObj 1 (some (obj1 0x10000 .resident 3 1))
theorem witness_requests : (let a := placedAddr 1
    (sailing.islet 0).loads.length = 1 ∧ sailing.isPeer 0 (a + 8) = false ∧ sailing.isPeer 0 (a + 16) = false ∧ sailing.isPeer 0 (a + 64) = false ∧
    sailing.notLoaded 0 (a + 16) = false ∧ sailing.notLoaded 0 (a + 64) = false ∧ sailing.inTransfer (a + 16) 2 = false) := by decide +kernel
theorem witness_overdue : sailing.overdue (.load 0 0) (10 ^ 12) = true ∧ sailing.overdue (.store 0 0) (10 ^ 12) = true ∧
    sailing.overdue (.tow 0 3) (10 ^ 12) = true ∧ sailing.overdue (.tow 0 3) 0 = false := by decide +kernel

/-- TransfersEnd: a payload whose digest is its object's. -/
theorem witness_payload : (let d := digest64 []
    let p : Payload := ⟨d, 0, [], 0⟩
    let s : State := { (inState .run).setObj 5 (some { obj1 0x10000 .unloaded 3 1 with digest := d }) with map := { content := { payloads := [p] } } }
    (s.map.content.payloads.find? fun q => q.digest == d) = some p ∧ digest64 (s.payloadBytes p) = d) :=
  ⟨by simp, rfl⟩

theorem test_move_complete : after (.ferryMoveComplete 0xFFFFFF 9) moving
    (fun t => decide (((t.obj 0xFFFFFF).map fun o => (o.res, o.tier, o.inst, o.move)) = some (.resident, 1, 5, none))) = true := by decide +kernel
theorem test_tow_timeout : after (.tierRequestTimeout (.tow 0 3) (10 ^ 12)) sailing
    (fun t => ((t.islet 0).tow 3).err && ((t.islet 0).tow 3).code == 0x10 && !((t.islet 0).tow 3).busy && t.reg R.PLACE_TIMEOUT == 1) = true := by decide +kernel
theorem test_load_unreadable : after (.tierRequestError (.load 0 0) 2 9) flying
    (fun t => (t.islet 0).gr 5 == 0 && (t.islet 0).loads.isEmpty && decide ((5, ⟨4, 0x10010008, 0x13⟩) ∈ (t.islet 0).poison)) = true := by decide +kernel

/-- PageErrors: below the threshold, at it, uncorrectable, retired already. -/
theorem witness_pages : (let s := inState .run
    let key := (1 * 8 + 5) * 2 ^ 24 + 7
    s.asleep = false ∧ (1, 5, 7) ∉ s.place.retired ∧ SMap.get (fun _ => 0) s.place.ce key + 1 < s.cfgFld R.PLACE_RETIRE_CE R.PLACE_RETIRE_CE_count ∧
    (let w := { s with place := { s.place with ce := [(key, s.cfgFld R.PLACE_RETIRE_CE R.PLACE_RETIRE_CE_count - 1)] } };
      w.cfgFld R.PLACE_RETIRE_CE R.PLACE_RETIRE_CE_count ≤ SMap.get (fun _ => 0) w.place.ce key + 1) ∧ s.obj 5 = none ∧
    (let w := s.setObj 5 (some (obj1 0x10000 .resident 3 1));
      w.obj 5 = some (obj1 0x10000 .resident 3 1) ∧ (obj1 0x10000 .resident 3 1).occupies 3 1 ≠ 0 ∧ (obj1 0x10000 .resident 3 1).move = none ∧
      (obj1 0x10000 .resident 3 1).immutable = false ∧ pagesOf 0x10000 ≤ w.availIn 3 1 0) ∧ (3, 1, 7) ∈ ({ retired := [(3, 1, 7)] } : Place).retired) := by
  decide +kernel

/-- PageErrors: a relocation that is on its way. -/
def relocating : State := (inState .run).setObj 5 (some { obj1 0x10000 .movingDown 3 1 with move := some { up1 with toTier := 3, toInst := 1, reloc := some ⟨3, 1, 0xFFFFFF, none, 4⟩ } })
theorem witness_relocation : (relocating.obj 5).bind (fun o => o.move.bind fun m => m.reloc) = some ⟨3, 1, 0xFFFFFF, none, 4⟩ ∧
    (relocating.obj 5).map (fun o => (o.res, o.promo, o.freePending, o.retire)) = some (.movingDown, none, false, []) ∧ up1.paths ≠ [] := by decide +kernel
theorem test_relocation_done : after (.ferryMoveComplete 5 9) relocating
    (fun t => decide (t.place.retired = [(3, 1, 0xFFFFFF)]) && t.reg (R.PLACE_TIER_RETIRED + 0x40) == 1 && decide (((t.obj 5).map fun o => o.res) = some .resident)) = true := by
  decide +kernel

theorem test_page_uncorrectable : after (.pageRetire 2 1 0xFFFFFF 5 (some 0x4000) 9) ((inState .run).setObj 5 (some (obj1 0x10000 .resident 3 1)))
    (fun t => t.place.retired.isEmpty && SMap.get (fun _ => false) t.place.poison 0x100 && t.reg R.PLACE_UE == 1 &&
      decide (((t.obj 5).map fun o => o.res) = some .movingDown)) = true := by decide +kernel
theorem test_page_of_no_object : after (.pageRetire 2 1 0xFFFFFF 0 (some 0x4000) 9) (inState .run)
    (fun t => decide (t.place.retired = [(3, 1, 0xFFFFFF)]) && t.reg (R.PLACE_TIER_RETIRED + 0x40) == 1) = true := by decide +kernel

/-- HostWindow: the last four bytes of an object through BAR2; the last byte of the window. -/
theorem witness_bar2 : (let s := (inState .run).setObj 1 (some (obj1 0x10000 .resident 3 1))
    let a := placedBase + 0x1FFFC
    s.asleep = false ∧ s.fld R.HOST_BAR2_CFG R.HOST_BAR2_CFG_direct = 0 ∧ s.fld R.HOST_BAR2_BASE R.HOST_BAR2_BASE_gib = 0 ∧ placedPage a = 1 ∧ placedPage (a + 3) = 1 ∧
    s.objAtPage 1 = some (1, obj1 0x10000 .resident 3 1) ∧ SMap.get (fun _ => false) s.place.poison (a / 64) = false ∧ a + 4 ≤ placedBase + 2 ^ 40 ∧
    (0xFFFFFFFFF : BitVec 36).toNat + 1 ≤ 2 ^ 36 ∧
    s.credFree (State.objPaths 0 (obj1 0x10000 .resident 3 1) 0) (s.fld R.HOST_BAR2_CFG R.HOST_BAR2_CFG_deadline_class) = true) := by decide +kernel

theorem test_bar2_write_read : after (.bar2Write 0x1FFFC [1, 2, 3, 4] false 9) ((inState .run).setObj 1 (some (obj1 0x10000 .resident 3 1)))
    (fun t => after (.bar2Read 0x1FFFC 4 false 9) t fun u => u.out == [.bytes [1, 2, 3, 4]]) = true := by decide +kernel
theorem test_bar2_unmapped : after (.bar2Read 0x20000 4 false 9) (inState .run)
    (fun t => t.out == [.bytes [0xFF, 0xFF, 0xFF, 0xFF]] && t.reg R.HOST_BAR2_ERR == 1) = true := by decide +kernel

/-! Time and conditioning (spec 07). -/

/-- A state with register fields written, and in force. -/
def withFlds (s : State) (l : List (Nat × Bits × Nat)) : State := (l.foldl (fun (s : State) e => s.setFld e.1 e.2.1 e.2.2) s).inForce

/-- The servo source of base `b` on. -/
def servoed (b : Nat) : State := withFlds (inState .run) [(R.TIME_SERVO_CFG + 0x20 * b, R.TIME_SERVO_CFG_source, 1)]

/-- TimeBases: base 0 without a source; base 1 with one; base 3; a step of zero. -/
theorem witness_bases : (inState .run).asleep = false ∧ (inState .run).time.seg.start ≤ max (inState .run).tb3 0 ∧ (inState .run).srcOn 0 = false ∧
    (servoed 1).srcOn 1 = true ∧ sext 64 (0 * 2 ^ 32 + ((inState .run).base 0).adjLo.toNat) = 0 ∧
    sext 64 ((0xFFFFFFFF : Word32).toNat * 2 ^ 32 + ((inState .run).base 0).adjLo.toNat) = -4294967296 ∧ bitOf (1 : Word32).toNat 0 = true ∧
    bitOf (2 : Word32).toNat 0 = false := by decide +kernel

theorem test_adj_back : after (.tbAdjWrite 0 0xFFFFFFFF 9) (inState .run)
    (fun t => decide (t.time.seg.start = 10) && t.reg R.TIME_TB_STEPS == 1 && t.reg R.TIME_TB_STEP_LAST == 0x80000000 && t.time.tb0Stepped &&
      decide (t.time.seg.v 0 = 10 * 2 ^ 48 - 4294967296 * 2 ^ 48)) = true := by decide +kernel
theorem test_adj_servoed : leaves (.tbAdjWrite 1 1 9) (servoed 1) { servoed 1 with tb3 := 9 } = true := by decide +kernel
theorem test_rate_clamps : after (.tbRateHiWrite 0 0x7FFF 9) (inState .run)
    (fun t => decide (t.time.seg.r 0 = 32768000000) && t.reg R.TIME_TB_RATE_LO == 0xA1200000 && t.reg R.TIME_TB_RATE_HI == 7) = true := by decide +kernel
theorem test_lo_read_latches : after (.tbNsLoRead 3 0x1200000034) (inState .run)
    (fun t => t.out == [.value 0x34] && t.reg (R.TIME_TB_NS_HI + 0xC0) == 0x12) = true := by decide +kernel
theorem test_snap : after (.timeSnap 1 0x1200000034) (inState .run) (fun t => t.reg64 (R.TIME_TB_SNAP_LO + 0x40) == 0x1200000034) = true := by decide +kernel

/-- A master heard on port 3, and at instant 0. -/
def gm9 : GMaster := ⟨[9], 0x55, 3, 125000000, 1000000000, 0⟩

/-- Base 0 is led by a master on port 3, locking with seven good samples; domain 0 is 5, domain 1 is 6; steps of more than 100 ns are made. -/
def led0 (st good : Nat) : State :=
  ((withFlds (withRegs (inState .run) [(R.TIME_SERVO_STEP, 100), (R.TIME_SERVO_LOCK, 50), (R.TIME_GPTP_TMO, 3), (R.TIME_SERVO_HOLDMAX, 2), (R.TIME_PORT_ASCAP + 0x60, 1)])
    [(R.TIME_SERVO_CFG, R.TIME_SERVO_CFG_source, 1), (R.TIME_SERVO_CFG, R.TIME_SERVO_CFG_step_en, 1), (R.TIME_GPTP_CFG, R.TIME_GPTP_CFG_port_en, 8),
     (R.TIME_GPTP_CFG, R.TIME_GPTP_CFG_slave0, 0xF), (R.TIME_GPTP_CFG, R.TIME_GPTP_CFG_domain0, 5), (R.TIME_GPTP_CFG, R.TIME_GPTP_CFG_domain1, 6)]).setTb 0 st good false).setBase 0
    { srcOn := true, master := some gm9, heard := [gm9], pendSync := some ⟨3, 7, 5, 100, 0⟩ }

/-- Servo: a sample that steps and one that does not, LOCKING with seven good samples; a Sync that leads and one of another domain; its Follow_Up. -/
theorem witness_servo : (led0 1 7).asleep = false ∧ (led0 1 7).time.seg.start ≤ 0 ∧ (led0 1 7).cfgBit R.TIME_SERVO_CFG R.TIME_SERVO_CFG_step_en = true ∧
    (led0 1 7).cfgReg R.TIME_SERVO_STEP < (101 : Int).natAbs ∧ ¬ (led0 1 7).cfgReg R.TIME_SERVO_STEP < (49 : Int).natAbs ∧
    (led0 1 7).tbState 0 = 1 ∧ (49 : Int).natAbs < (led0 1 7).cfgReg R.TIME_SERVO_LOCK ∧ (led0 1 7).domainBase 5 = some 0 ∧ (led0 1 7).domainBase 255 = none ∧
    (led0 1 7).mayLead 0 3 = true ∧ (led0 1 7).asCapable 3 = true ∧ (led0 1 7).asCapable 0 = false ∧ ((led0 1 7).base 0).lost = false ∧ (led0 1 7).srcOn 0 = true ∧ (((led0 1 7).base 0).pendSync.map fun q => (q.port, q.seqId)) = some (3, 7) := by decide +kernel

theorem test_servo_locks : (let u := (led0 1 7).servo 0 1000 49
    u.tbState 0 = 2 ∧ u.srcBit R.INTC_PEND 66 = true ∧ (u.base 0).lastSample = 1000 ∧ u.time.seg.start = 1001) := by decide +kernel
theorem test_servo_steps : (let u := (led0 2 9).servo 0 1000 (-101)
    u.tbState 0 = 1 ∧ u.reg R.TIME_TB_STEPS = 1 ∧ u.reg R.TIME_TB_STEP_LAST = 0xFFFFFF9B ∧ u.fld R.TIME_TB_STATUS R.TIME_TB_STATUS_good = 0 ∧
    (segAt u.time.seg u.time.hist 1000).1.v 0 = 899 * 2 ^ 48) := by decide +kernel
theorem test_follow_up : after (.gptpFollowUp 3 5 7 149 0 1000) (led0 1 7)
    (fun t => t.tbState 0 == 2 && decide ((t.base 0).pendSync = none ∧ (t.base 0).lastSample = 1000)) = true := by decide +kernel

/-- GptpPorts: a better master on port 3; a queue with one request, and a full one; a port that is off. -/
theorem witness_gptp : (led0 2 9).portRuns 3 = true ∧ (led0 2 9).portRuns 0 = false ∧ ((led0 2 9).base 0).master = some gm9 ∧
    (let s := (led0 2 9).setGport 3 { txq := [⟨65535, 2, 0, 10⟩], nextSeq := 0 };
      (s.gport 3).txq = [⟨65535, 2, 0, 10⟩] ∧ ∀ f ∈ (s.gport 3).txq, f.seqId = 65535 → f.typ = 2 → f = ⟨65535, 2, 0, 10⟩) ∧
    16 ≤ (((led0 2 9).setGport 3 { txq := List.replicate 16 ⟨0, 2, 0, 10⟩ }).gport 3).txq.length := by
  refine ⟨by decide +kernel, by decide +kernel, by decide +kernel, ⟨by decide +kernel, ?_⟩, by decide +kernel⟩
  intro f hf _ _
  have h : (((led0 2 9).setGport 3 { txq := [⟨65535, 2, 0, 10⟩], nextSeq := 0 }).gport 3).txq = [⟨65535, 2, 0, 10⟩] := by decide +kernel
  rw [h] at hf; simpa using hf

theorem test_master_changes : after (.gptpAnnounce 3 5 ⟨1, 0, 0, 0, 0, 0x66, 0, 0, 125000000, 1000000000⟩ 1000) (led0 2 9)
    (fun t => t.tbState 0 == 3 && t.reg64 R.TIME_TB_HOLD_LO == 1000 && decide (((t.base 0).master.map fun m => m.gmId) = some 0x66)) = true := by decide +kernel
theorem test_pdelay_overflow : after (.pdelayTimer 3 1000) ((led0 2 9).setGport 3 { txq := List.replicate 16 ⟨0, 2, 0, 10⟩, nextSeq := 65535 })
    (fun t => t.reg (R.TIME_TXTS_OVF + 0x60) == 1 && (t.gport 3).nextSeq == 0 && (t.gport 3).txq.length == 16) = true := by decide +kernel

/-- TimeLosses: a base whose master is silent for its interval times the multiple, or not yet; a base in HOLDOVER for two seconds; PPS and labels. -/
theorem witness_losses : ((led0 2 9).base 0).lastSample + (led0 2 9).cfgReg R.TIME_GPTP_TMO * 125000000 = 375000000 ∧ (led0 2 9).tbState 0 = 2 ∧ (led0 0 0).tbState 0 = 0 ∧
    ((led0 2 9).base 1).master = none ∧ (led0 3 0).tbState 0 = 3 ∧ (led0 3 0).fld R.TIME_TB_STATUS R.TIME_TB_STATUS_hold_expired = 0 ∧
    (led0 3 0).reg64 R.TIME_TB_HOLD_LO + (led0 3 0).cfgReg R.TIME_SERVO_HOLDMAX * 1000000000 = 2000000000 ∧
    (let s : State := { inState .run with time := { ppsLast := some 7, ppsOpen := [7] } };
      s.time.ppsOpen.filter (fun e => decide (900000007 ≤ e + 900000000)) = [7] ∧ s.time.ppsOpen.filter (fun e => decide (900000008 ≤ e + 900000000)) = [] ∧
      s.time.ppsLast = some 7 ∧ 500000006 < 7 + 500000000) := by decide +kernel

theorem test_sync_in_time : leaves (.syncTimeout 0 374999999) (led0 2 9) { led0 2 9 with tb3 := 374999999 } = true := by decide +kernel
theorem test_sync_timeout : after (.syncTimeout 0 375000000) (led0 2 9) (fun t => t.tbState 0 == 3 && t.reg64 R.TIME_TB_HOLD_LO == 375000000) = true := by decide +kernel
theorem test_holdover_expires : after (.holdoverExpired 0 2000000000) (led0 3 0) (fun t => t.fld R.TIME_TB_STATUS R.TIME_TB_STATUS_hold_expired == 1) = true := by decide +kernel
theorem test_label : after (.nmeaSentence ⟨some 1700000000, none, none⟩ 900000007) { inState .run with time := { ppsLast := some 7, ppsOpen := [7] } }
    (fun t => decide (t.time.labelled = [(1700000000, 7)] ∧ t.time.ppsOpen = [])) = true := by decide +kernel
theorem test_label_late : after (.nmeaSentence ⟨some 1700000000, none, none⟩ 900000008) { inState .run with time := { ppsLast := some 7, ppsOpen := [7] } }
    (fun t => t.time.labelled.isEmpty && t.time.ppsOpen == [7]) = true := by decide +kernel

/-- IMU 1 on with a burst begun; wheel 7 and its channel on, the latest edge at 10 ms; CAN 3 on with one entry for wheel 3; the sync input and channels 12 and 23 on. -/
def sensing : State :=
  let s := withFlds (inState .run) [(R.COND_IMU_CFG + 0x20, R.COND_IMU_CFG_enable, 1), (R.COND_WHEEL_CFG, R.COND_WHEEL_CFG_enable, 0x80),
    (R.COND_WHEEL_CFG, R.COND_WHEEL_CFG_timeout_ms, 10), (R.COND_CAN_CFG + 0x30, R.COND_CAN_CFG_enable, 1), (R.COND_SYNC_CFG, R.COND_SYNC_CFG_enable, 1),
    (R.COND_CH_CFG + 0x40 * 19, R.COND_CH_CFG_enable, 1), (R.COND_CH_CFG + 0x40 * 19, R.COND_CH_CFG_q, 2), (R.COND_CH_CFG + 0x40 * 23, R.COND_CH_CFG_enable, 1)]
  { s with cond := { s.cond with imus := [(1, { lastEdge := some 5, burst := some 5 })], wheels := [(7, { edges := [10000000, 9000000] })], syncAt := some 4,
                                 cansig := [[5, 0, 0, 0xC0, 3, 3, 8, 0, 8, 1, 0, 0, 0, 0, 0x80, 0x3F]] } }

/-- SensorInputs: each input on and off, the burst, the lost edge, the wheel's edges in reach, the signal entry, the reset instant, the channel's phases. -/
theorem witness_sensors : sensing.asleep = false ∧ sensing.imuOn 1 = true ∧ sensing.imuOn 0 = false ∧ (sensing.imu 1).burst = some 5 ∧ (sensing.imu 0).burst = none ∧
    (sensing.imu 1).lastEdge = some 5 ∧ 0 < sensing.imuPeriod 1 ∧ bitOf (sensing.cfgFld R.COND_WHEEL_CFG R.COND_WHEEL_CFG_enable) 7 = true ∧
    (sensing.wheel 7).edges = [10000000, 9000000] ∧ sensing.chOn 19 = true ∧ sensing.chOn 18 = false ∧
    sensing.cfgFld R.COND_WHEEL_CFG R.COND_WHEEL_CFG_timeout_ms = 10 ∧ sensing.cfgBit (R.COND_CAN_CFG + 0x30) R.COND_CAN_CFG_enable = true ∧
    sensing.cond.cansig.filter (fun e => canTakes e 3 5 true) = sensing.cond.cansig ∧ sensing.cfgBit R.COND_SYNC_CFG R.COND_SYNC_CFG_enable = true ∧
    sensing.cond.syncAt = some 4 ∧ sensing.chCfg 19 R.COND_CH_CFG_q = 2 ∧ (sensing.chan 19).phase + 1 < 2 ∧ sensing.chOn 23 = true ∧
    sensing.chCfg 23 R.COND_CH_CFG_q = 1 := by decide +kernel

/-- SensorInputs: the wheel sampler on a multiple of its period and beside it, in reach of the last edge; a CAN controller that only listens. -/
theorem witness_sampler : (let p := sensing.samplerPeriod
    0 < p ∧ (5 * p) % p = 0 ∧ (5 * p + 1) % p ≠ 0 ∧ (5 * p : Nat) ≤ 10000000 + 10 * 10000000 ∧ divRne (2 ^ 16 * 1000000000) ((10000000 : Int) - 9000000) < 2 ^ 31 ∧
    sensing.cfgBit (R.COND_CAN_CFG + 0x30) R.COND_CAN_CFG_listen_only = false ∧ sensing.cfgBit (R.COND_CAN_CFG) R.COND_CAN_CFG_enable = false ∧
    sensing.cfgFld R.COND_WHEEL_CFG R.COND_WHEEL_CFG_glitch * 10 ≤ 100) := by decide +kernel

theorem test_can_wheel : after (.canFrame 3 5 true ⟨true, [0, 0xFE]⟩ 1000) sensing
    (fun t => decide (SMap.get (fun _ => 0) t.cond.canWheel 3 = -2) && t.reg (R.COND_CAN_RX + 0x30) == 1) = true := by decide +kernel
theorem test_can_error : after (.canFrame 3 5 true ⟨false, []⟩ 1000) sensing (fun t => t.reg (R.COND_CAN_ERR + 0x30) == 1 && t.out == [.canError 3]) = true := by
  decide +kernel
theorem test_wheel_wrong_edge : leaves (.wheelEdge 7 ⟨false, 100⟩ 1000) sensing { sensing with tb3 := 1000 } = true := by decide +kernel
theorem test_sync_settles : after (.syncInEdge true 1000) sensing
    (fun t => t.fld (R.COND_CH_STATUS + 0x40 * 19) R.COND_CH_STATUS_settling == 1 && t.reg64 R.COND_SYNC_LAST_LO == 1000 && (t.chan 19).settling == 4) = true := by decide +kernel
theorem test_imu_lost : after (.imuLostTimeout 1 (5 + 2 * sensing.imuPeriod 1)) sensing (fun t => t.reg (R.COND_IMU_LOST + 0x20) == 1 && t.srcBit R.INTC_PEND 75) = true := by
  decide +kernel
theorem test_feed_before_reset : (sensing.feed 23 100 3).1 = none := by decide +kernel
theorem test_feed_phase : (sensing.feed 19 100 5).1 = none ∧ ((sensing.feed 19 100 5).2.chan 19).i1 = 0 ∧ ((sensing.feed 19 100 5).2.chan 19).phase = 1 := by decide +kernel
theorem test_feed_output : (((sensing.feed 23 100 5).1.map fun o => o.chan) = some 23) ∧ ((sensing.feed 23 100 5).2.chan 23).phase = 0 := by decide +kernel

/-! Shore (spec 06). -/

/-- A slot's objects, a configuration of one RAW12 row of four pixels, a frame of it. -/
def slot1 : SlotObjs := { raw := 0x1000, pyr := 0x1010, rows := 0x1020, feats := 0x1030, tracks := 0x1040, depth := 0x1050, assoc := 0x1060 }
def cfg1 : FrameCfg := { width := 4, height := 1, dtype := 0x2C, vc := 3, raw := true, slots := 2, period := 1000, expoff := 0, fsync := 0xF, feat := 0, trk := 0 }
def frame1 : Frame := { seq := 9, start := 50, cfg := cfg1, slot := slot1, stamps := [100], rows := [[0x12, 0x34, 0x56, 0, 0, 0]] }

/-- Shore on, port 15 in a state of SHORE_PORT_STATUS on virtual channel 3. -/
def filming (st : Nat) (x : SPort) : State :=
  (withFlds { inState .run with shore := { off := false, ports := [(15, x)] } } [(R.SHORE_PORT_CFG + 0x40 * 15, R.SHORE_PORT_CFG_vc, 3),
    (R.SHORE_PORT_PERIOD + 0x40 * 15, R.SHORE_PORT_PERIOD_period_us, 1000), (R.SHORE_PORT_CFG + 0x40 * 15, R.SHORE_PORT_CFG_lanes, 1)]).setPortSt 15 st

/-- ShoreFrames: a port WAITING and one OFF; a frame in flight, whole, bad, shed; a full queue with one frame; a silent port at twice its period. -/
theorem witness_frames : (filming 1 {}).asleep = false ∧ (filming 1 {}).portSt 15 = 1 ∧ (filming 1 {}).portPowered 15 = true ∧
    (filming 1 {}).pcfg 15 R.SHORE_PORT_CFG_vc = 3 ∧ (filming 0 {}).portSt 15 = 0 ∧ ((filming 2 { cur := some frame1 }).sport 15).cur = some frame1 ∧
    frame1.bad = false ∧ frame1.shed = false ∧ frame1.gone = false ∧ frame1.rows.length = cfg1.height ∧ ({ frame1 with rows := [] } : Frame).rows.length ≠ cfg1.height ∧
    (filming 2 { cur := some frame1 }).inFlight 1 = [15] ∧ (filming 2 { cur := some frame1 }).pickPort true [15] = some 15 ∧
    (filming 2 { cur := some frame1 }).inFlight 0 = [] ∧
    (filming 2 { lastStart := some 7 }).cfgFld (R.SHORE_PORT_PERIOD + 0x40 * 15) R.SHORE_PORT_PERIOD_period_us = 1000 := by decide +kernel

theorem test_frame_start : after (.frameStart 15 3 5 1000) (filming 1 { frameSeq := 0xFFFFFFFF })
    (fun t => t.portSt 15 == 2 && (t.sport 15).frameSeq == 0 && t.fld (R.SHORE_WR_STATUS + 4) R.SHORE_WR_STATUS_fill == 5 &&
      decide ((t.sport 15).cur.map (fun f => (f.seq, f.start)) = some (0, 1000))) = true := by decide +kernel
theorem test_other_channel : leaves (.frameStart 15 2 5 1000) (filming 1 {}) { filming 1 {} with tb3 := 1000 } = true := by decide +kernel
theorem test_row : after (.longPacket 15 3 0x2C true true [5, 6, 7, 8, 9, 10] 1000) (filming 2 { cur := some { frame1 with rows := [], stamps := [] } })
    (fun t => decide ((t.sport 15).cur.map (fun f => (f.stamps, f.rows, f.bad)) = some ([1000], [[5, 6, 7, 8, 9, 10]], false))) = true := by decide +kernel
theorem test_row_short : after (.longPacket 15 3 0x2C true false [5, 6, 7] 1000) (filming 2 { cur := some { frame1 with rows := [], stamps := [] } })
    (fun t => decide ((t.sport 15).cur.map (fun f => (f.crc, f.bad)) = some (true, true)) && t.reg (R.SHORE_CSI_ERR + 0x40 * 15) == 1) = true := by decide +kernel
theorem test_frame_end : after (.frameEnd 15 3 1000) (filming 2 { cur := some frame1 })
    (fun t => decide ((t.sport 15).cur = none ∧ (t.sport 15).ended = [frame1]) && t.reg (R.SHORE_FRAMES + 0x40 * 15) == 1 &&
      t.bytes (placedAddr 0x1000) 8 == [0x26, 1, 0x45, 3, 0, 0, 0, 0] && t.bytes (placedAddr 0x1020) 8 == [100, 0, 0, 0, 0, 0, 0, 0]) = true := by decide +kernel
theorem test_frame_rows_missing : after (.frameEnd 15 3 1000) (filming 2 { cur := some { frame1 with rows := [] } })
    (fun t => t.mem.isEmpty && (t.sport 15).ended.isEmpty && t.reg (R.SHORE_DROP_BAD + 0x40 * 15) == 1 && t.srcBit R.INTC_PEND 36) = true := by decide +kernel
theorem test_queue_full : after (.writeQueueFull 1 [127] 1000) (filming 2 { cur := some frame1 })
    (fun t => decide ((t.sport 15).cur.map (fun f => (f.gone, f.rows)) = some (true, [])) && t.shedding 15 && t.reg R.SHORE_DROP_OVF == 1 &&
      t.fld (R.SHORE_WR_STATUS + 4) R.SHORE_WR_STATUS_fill == 127) = true := by decide +kernel
theorem test_port_lost : after (.portLostTimeout 15 2000007) (filming 2 { lastStart := some 7 }) (fun t => t.portSt 15 == 3 && t.srcBit R.INTC_PEND 33) = true := by
  decide +kernel
theorem test_port_not_lost : leaves (.portLostTimeout 15 2000006) (filming 2 { lastStart := some 7 }) { filming 2 { lastStart := some 7 } with tb3 := 2000006 } = true := by
  decide +kernel
theorem test_deskew : after (.deskewSequence 15 15 1000) (filming 1 {}) (fun t => t.fld (R.SHORE_PORT_STATUS + 0x40 * 15) R.SHORE_PORT_STATUS_lanes_up == 3) = true := by
  decide +kernel

/-- A recorded frame, a frame as its tracker saw it, a lidar template of one 4-byte point in a datagram of 6 bytes on UDP port 7, stream 3. -/
def done1 : DoneFrame := { seq := 9, cfg := cfg1, slot := slot1, stamps := [1000000], t := 1000000, pulse := none }
def seen1 : FrameObs := { seq := 9, start := 50, t := 100, pulse := none, o := 0, fate := some true, slot := slot1, cfg := cfg1 }
def tmpl1 : List Byte := record 32 [(0, 1, 1), (1, 1, 3), (2, 1, 1), (8, 2, 7), (0xC, 2, 6), (0xE, 2, 1), (0x10, 2, 4)]

/-- A configuration image with templates. -/
def image1 (l : List (List Byte)) : Image :=
  { keyIndex := 0, bytes := 0, testAllowed := true, secver := 1, seq := 2, digest := [], fwDigest := [], regs := [], nettab := [], pintab := [], lidar := l, cansig := [],
    nand := [] }

/-- Pair 7 in a state with a reference frame that waits. -/
def paired (st : Nat) : State :=
  ({ filming 2 {} with shore := { off := false, pairs := [(7, { waiting := [seen1] })] } }).setFld (R.SHORE_PAIR_STATUS + 0xE0) R.SHORE_PAIR_STATUS_state st

/-- Pin 7 on with a period of 10 µs. -/
def pulsing : State := { withRegs (inState .run) [(R.SHORE_FSYNC_PERIOD + 0x70, 10)] with shore := { pins := [(7, { on := true })] } }

/-- A device with the template in force. -/
def scanning : State := { filming 0 {} with cfg := { active := some (image1 [tmpl1]) } }

/-- ShoreRecords: each queue with one entry and empty; a pair RUNNING, SUSPENDED and OFF; a pulse that is due; a datagram that a template takes. -/
theorem witness_records : ((filming 2 { ended := [frame1] }).sport 15).ended = [frame1] ∧ ((filming 2 { proj := some ⟨done1, []⟩ }).sport 15).proj = some ⟨done1, []⟩ ∧
    ((filming 2 { toProject := [done1] }).sport 15).toProject = [done1] ∧ (filming 2 {}).shoreFull = true ∧ (inState .run).shoreFull = false ∧
    done1.window = (500000, 1500000) ∧
    (paired 1).pairSt 7 = 1 ∧ (paired 2).pairSt 7 = 2 ∧ (paired 0).pairSt 7 = 0 ∧ ((paired 1).spair 7).waiting = [seen1] ∧ (paired 1).stereoReady 7 = some seen1 ∧
    (paired 1).otherOffset 7 seen1 true = some 0 ∧ (paired 0).stereoReady 7 = none ∧
    (pulsing.spin 7).on = true ∧ pulsing.pinMatches 7 20000 = true ∧ pulsing.pinMatches 7 20001 = false ∧
    scanning.lidarTemplates = [tmpl1] ∧ (scanning.stream 3).next < 2 ^ 32 ∧ leAt tmpl1 0xC 2 = 6 := by decide +kernel

theorem test_pair_record : after (.stereoRecordWrite 7 1000) (paired 1) (fun t => (t.spair 7).waiting.isEmpty && (t.spair 7).recSeq == 1 && t.pairSt 7 == 1) = true := by
  decide +kernel
theorem test_pulse : after (.fsyncPulse 7 20000) pulsing
    (fun t => t.reg (R.SHORE_FSYNC_COUNT + 0x70) == 1 && t.out.length == 1 && decide ((t.spin 7).pulses = [(20000, 1)])) = true := by decide +kernel
theorem test_datagram_fragment : after (.lidarDatagram 0 0 7 true [0, 0, 0, 0, 0, 0] 1000) scanning
    (fun t => t.reg (R.SHORE_LIDAR_ERR + 0x60) == 1 && t.srcBit R.INTC_PEND 37) = true := by decide +kernel
theorem test_datagram_unmatched : after (.lidarDatagram 0 0 8 false [0, 0, 0, 0, 0, 0] 1000) scanning (fun t => t.reg R.SHORE_LIDAR_UNMATCHED == 1) = true := by
  decide +kernel

/-- ShoreFrames: a frame that an OFF port still has open. ShoreRecords: a pulse that follows a step of TB0 by less than half a period. -/
def stepped1 : State := { pulsing with shore := { pins := [(7, { on := true, pulses := [(19000, 1)] })] }, time := { tb0StepAt := some 19500 } }
theorem witness_open_frame : (filming 0 { cur := some frame1 }).portSt 15 = 0 ∧ (filming 0 { cur := some frame1 }).portPowered 15 = true ∧
    ((filming 0 { cur := some frame1 }).sport 15).cur = some frame1 ∧ stepped1.cfgBit (R.SHORE_FSYNC_CFG + 0x70) R.SHORE_FSYNC_CFG_base = false ∧
    stepped1.cfgReg (R.SHORE_FSYNC_PERIOD + 0x70) = 10 := by decide +kernel
theorem test_off_port_ends_frame : after (.frameStart 15 3 5 1000) (filming 0 { cur := some frame1 })
    (fun t => decide ((t.sport 15).cur = none) && t.reg (R.SHORE_DROP_BAD + 0x40 * 15) == 1 && t.portSt 15 == 0) = true := by decide +kernel
theorem test_pulse_after_step : leaves (.fsyncPulse 7 20000) stepped1 { stepped1 with tb3 := 20000 } = true := by decide +kernel

/-! The estimator, the graph solver, the map store, the Reef (spec 08–11). -/

/-- The estimator RUNNING in RUN, with a smoother period of 200 ms. -/
def estimating (x : FuseSt) : State :=
  { withFlds (inState .run) [(R.FUSE_STATUS, R.FUSE_STATUS_state, 2), (R.FUSE_SMOOTH_CFG, R.FUSE_SMOOTH_CFG_period_ms, 200)] with fuse := x }

/-- EstimatorRuns: an association due; a pass that may start, and one that runs; a boundary that waits, before and at the end of its wait. -/
theorem witness_estimator : (estimating {}).asleep = false ∧ (estimating {}).fuse.pass = none ∧ (estimating {}).estState = 2 ∧ (estimating {}).dev.estStopped = false ∧
    400000000 % ((estimating {}).cfgFld R.FUSE_SMOOTH_CFG R.FUSE_SMOOTH_CFG_period_ms * 1000000) = 0 ∧
    400000001 % ((estimating {}).cfgFld R.FUSE_SMOOTH_CFG R.FUSE_SMOOTH_CFG_period_ms * 1000000) ≠ 0 ∧
    (estimating { pass := some ⟨0, 0, {}, [], []⟩ }).fuse.pass = some ⟨0, 0, {}, [], []⟩ ∧ (estimating { boundary := some (4, 1000000) }).sealsNow = true ∧
    ({ inState .boot with fuse := { boundary := some (4, 1000000) } } : State).sealsNow = false ∧
    (estimating { boundary := some (4, 1000000) }).waitEnd 1000000 = 1000000 + (estimating {}).cfgFld R.FUSE_OUT_CFG R.FUSE_OUT_CFG_seal_wait_us * 1000 ∧
    ((filming 2 { toAssoc := [(done1, 0x1050, 0, 0)] }).sport 15).toAssoc = [(done1, 0x1050, 0, 0)] := by decide +kernel

theorem test_pass_starts : after (.smootherPassStart 400000000) (estimating { items := 3, now := 7 })
    (fun t => decide (t.fuse.pass = some ⟨400000000, 7, {}, [], []⟩)) = true := by decide +kernel
theorem test_pass_off_period : leaves (.smootherPassStart 400000001) (estimating {}) { estimating {} with tb3 := 400000001 } = true := by decide +kernel
theorem test_seal_overrun : after (.poseSeal 1151000) { (estimating { boundary := some (4, 1000000) }).setFld R.FUSE_STATUS R.FUSE_STATUS_state 1 with pending := [] }
    (fun t => t.reg R.FUSE_RECORDS == 1 && t.reg R.FUSE_SEAL_OVERRUNS == 1 && t.reg R.FUSE_SEAL_LAST == 151 && t.srcBit R.INTC_PEND 100 &&
      decide (t.fuse.boundary = none ∧ t.fuse.lastOut = some 1000000)) = true := by decide +kernel
theorem test_seal_early : leaves (.poseSeal 1000001) (estimating { boundary := some (4, 1000000) }) { estimating { boundary := some (4, 1000000) } with tb3 := 1000001 } = true := by
  decide +kernel

/-- A node of the graph, a verdict on two of them. -/
def node1 (kf : Nat) : PNode := { kf := kf, pos := [0, 0, 0], quat := [0x3F800000, 0, 0, 0], tileX := 0, tileY := 0, t := 0, gen := 0, cov := [] }
def verdict1 : Verdict := ⟨5, 1, [], []⟩

/-- The solver on, with two nodes and its thresholds. -/
def solving (x : GsolSt) : State :=
  { withRegs (withFlds (inState .run) [(R.GSOL_CFG, R.GSOL_CFG_enable, 1)]) [(R.GSOL_WS_T2, 64), (R.GSOL_WS_T3, 256), (R.GSOL_ACCEPT_TH, 0x41200000)] with
    gsol := { x with nodes := [node1 1, node1 5] } }

/-- A loop constraint that puts keyframe 5 so far along x from keyframe 1, with standard deviations of 1. -/
def loop1 (x : BitVec 32) : PEdge := { id := 1, a := 1, b := 5, kind := 1, z := [x, 0, 0, 0, 0, 0], sigma := List.replicate 6 0x3C00 }

/-- An optimisation that runs: both nodes held, or one free and without constraint. -/
def opt1 (held : Bool) (x : BitVec 32) : Optim :=
  { verdict := verdict1, start := 1000, work := if held then [{ node1 1 with fixed := true }, { node1 5 with fixed := true }] else [node1 5], cons := [], loop := loop1 x,
    nodes := [node1 1], edges := [], priors := [], retired := [] }

/-- A bundle adjustment of nothing, and one of a node without constraint. -/
def ba1 (gen : Nat) (nodes : List PNode) : Ba := ⟨gen, nodes, [], [], []⟩

/-- SolverRuns: a bundle adjustment under the present map generation, one under another, one that is not positive; a verdict queued; an optimisation that runs, its residual
under and over the threshold, or not positive. -/
theorem witness_solver : (solving {}).asleep = false ∧ (solving {}).reg R.GSOL_MAP_GEN = 0 ∧ (solving { ba := some (ba1 0 []) }).gsol.ba = some (ba1 0 []) ∧
    (solving { verdicts := [verdict1] }).gsolMayStart = true ∧ (solving { verdicts := [verdict1] }).map.corrs = [] ∧
    ((solving {}).findNode 5).isSome = true ∧ ((solving {}).findNode 1).isSome = true ∧ (solving {}).findNode 2 = none ∧ (solving {}).maxIter = 8 ∧
    (solving { opt := some (opt1 true 0) }).gsol.opt = some (opt1 true 0) := by decide +kernel
theorem witness_adjusts : (((ba1 0 []).problem.optimise 8).isSome ∧ ((ba1 0 [node1 5]).problem.optimise 8).isNone) := by decide +kernel
theorem witness_optimises : ((opt1 false 0).problem.optimise 8).isNone ∧
    (((opt1 true 0).problem.optimise 8).map fun p => f32Lt 0x41200000 (p.linear (loop1 0).con).cost) = some false ∧
    (((opt1 true 0x41200000).problem.optimise 8).map fun p => f32Lt 0x41200000 (p.linear (loop1 0x41200000).con).cost) = some true := by decide +kernel

theorem test_verdict_unknown : after (.optimisationStart 1000) (solving { verdicts := [⟨2, 1, [], []⟩, verdict1] })
    (fun t => decide (t.gsol = (solving { verdicts := [verdict1] }).gsol)) = true := by decide +kernel
theorem test_optimisation_rejected : after (.optimisationEnd false 3001000) (solving { opt := some (opt1 true 0x41200000) })
    (fun t => t.gsol.opt.isNone && decide (t.gsol.nodes = [node1 1]) && t.reg R.GSOL_REJECT == 1 && t.reg R.GSOL_SOLVE_LAST_US == 3000) = true := by decide +kernel
theorem test_optimisation_accepted : after (.optimisationEnd false 3001000) (solving { opt := some (opt1 true 0) })
    (fun t => t.gsol.opt.isNone && t.gsol.rewrite.isSome && t.reg R.GSOL_REJECT == 0) = true := by decide +kernel
theorem test_not_positive : after (.optimisationEnd false 3001000) (solving { opt := some (opt1 false 0) })
    (fun t => t.reg R.GSOL_NOT_POSITIVE == 1 && t.srcBit R.INTC_PEND 129) = true := by decide +kernel
theorem test_adjustment_discarded : after (.bundleAdjustEnd false [] 1000) (solving { ba := some (ba1 1 []) })
    (fun t => t.reg R.GSOL_BA_DISCARD == 1 && t.reg R.GSOL_BA_RUNS == 1 && decide (t.gsol.ba.map (fun b => b.gen) = some 0)) = true := by decide +kernel

/-- The map store in a state, with flash of one channel of eight blocks, two pages to a word line. -/
def stored (st : Nat) (x : MapSt) : State :=
  ({ inState .run with map := { x with geo := some ⟨1, 1, 1, 1, 64, 2, 3, 8, 3000, 0⟩ } } : State).setFld R.MAP_STATUS R.MAP_STATUS_state st

/-- A record, a page of a commit, a commit in flight with both copies programmed. -/
def rec1 : MapRec := ⟨1, 0, 0, 0, 7, []⟩
def cpage1 (p : Nat) (done : Bool) : CPage := ⟨p * 2 ^ 28, { typ := 2, seq := 4, data := [1] }, done⟩
def commit1 : Commit := { id := 9, pages := [cpage1 0 true], copies := [cpage1 2 true, cpage1 4 true] }

/-- MapJournal: a record refused, deferred, accepted; a commit due after its interval; two copies that read well. -/
theorem witness_journal : (stored 2 {}).asleep = false ∧ (stored 2 {}).mapState = 2 ∧ (stored 1 {}).mapState = 1 ∧ (stored 2 {}).tileFull rec1 = false ∧
    (stored 2 {}).defers 0 = false ∧ (stored 2 {}).map.refuse = false ∧ 0 + (recBytes rec1).length ≤ pageBytes ∧
    ((stored 2 {}).setFld R.MAP_STATUS R.MAP_STATUS_budget 2).defers 1 = true ∧ ((stored 2 {}).setFld R.MAP_STATUS R.MAP_STATUS_budget 1).defers 1 = false ∧
    tileLimit 1 ≠ 0 ∧ (1 ≤ ({ id := 9, records := 1, since := 5, ms := 2 } : Commit).records) ∧ commit1.copies = [cpage1 2 true, cpage1 4 true] ∧
    (0 ≤ (stored 2 {}).cfgFld R.MAP_ECC_CFG R.MAP_ECC_CFG_commit_margin) := by decide +kernel

theorem test_record : after (.recordSubmit rec1 1000) (stored 2 {})
    (fun t => t.map.buf == recBytes rec1 && decide (t.map.cur.map (fun c => (c.records, c.since)) = some (1, 1000)) && decide (t.map.content.recs = [rec1])) = true := by decide +kernel
theorem test_record_while_pfail : after (.recordSubmit rec1 1000) (stored 2 { refuse := true }) (fun t => t.reg R.MAP_PFAIL_LOST == 1 && t.map.content.recs.isEmpty) = true := by
  decide +kernel
theorem test_commit_early : leaves (.commitIntervalExpiry 2000004) (stored 2 { cur := some { id := 9, records := 1, since := 5, ms := 2 } })
    { stored 2 { cur := some { id := 9, records := 1, since := 5, ms := 2 } } with tb3 := 2000004 } = true := by decide +kernel
theorem test_commit_interval : after (.commitIntervalExpiry 2000005) (stored 2 { cur := some { id := 9, records := 1, since := 5, ms := 2 } })
    (fun t => t.map.cur.isNone && decide (t.map.flight.map (fun c => c.id) = some 9)) = true := by decide +kernel
theorem test_commit_durable : after (.commitDurable 1000 (some 0) (some 0)) (stored 2 { flight := some commit1 })
    (fun t => t.map.head == 9 && t.reg64 R.MAP_HEAD_COMMIT_LO == 9 && t.reg R.MAP_COMMITS == 1 && t.map.flight.isNone) = true := by decide +kernel
theorem test_copy_unreadable : after (.commitDurable 1000 (some 0) none) (stored 2 { flight := some commit1 })
    (fun t => t.map.head == 0 && t.reg R.MAP_COMMITS == 0 && t.map.flight.isSome) = true := by decide +kernel

/-- MapFlash: a page being programmed; a block that may be erased; a read that times out; a patrol; a store that may reclaim; a device that may mount. -/
theorem witness_flash : (let s := stored 2 { flight := some { commit1 with pages := [cpage1 0 false], copies := [] } };
    (s.programming 0).isSome = true ∧ { erase := false, key := 0 } ∈ s.startOps.map.busy ∧ s.programming 1 = none ∧ { erase := false, key := 1 } ∉ s.startOps.map.busy) ∧
    { erase := true, key := 3 } ∈ (stored 2 { reclaim := [3], blocks := [(3, { state := .full, erases := 6 })] }).startOps.map.busy ∧
    { erase := true, key := 3 } ∉ (stored 2 {}).startOps.map.busy ∧
    (stored 2 {}).map.holdTo = none ∧ (stored 2 {}).poolGood < (stored 2 {}).poolFree * 200 ∧
    (let s := stored 2 { blocks := (List.range 8).map fun b => (b, { state := .full }) };
      s.poolFree * 200 < s.poolGood ∧ (s.nblock 7).state = .full ∧ s.defers 0 = false) ∧
    (let s := stored 2 { nand := [(4096, some { typ := 2, data := [] })], reads := [{ page := 4096, cls := 14, who := .patrol, issued := some 0 }] };
      s.running = true ∧ (s.npage 4096).isSome = true ∧ (s.nblock (blockOf 4096)).state ≠ .super ∧ (s.lateReads 4096 (10 ^ 10)).length = 1 ∧ s.lateReads 4096 0 = [] ∧ (s.readOf 4096).map (fun q => q.who) = some .patrol ∧ s.readOf 0 = none) ∧
    (inState .load).map.refuse = false ∧ (inState .load).map.holdTo = none ∧ (inState .load).dev.halting = false ∧ (inState .load).npage (chanPage 0) = none ∧
    (inState .load).npage (chanPage 8) = none ∧ (inState .load).cfgBit R.MAP_CFG R.MAP_CFG_format_blank = false := by decide +kernel

/-- MapFlash: a page that is moved. -/
theorem witness_move_read : (let s := stored 2 { nand := [(4096, some { typ := 2, data := [] })], reads := [{ page := 4096, cls := 8, who := .move 1, issued := some 0 }] };
    (s.readOf 4096).map (fun q => q.who) = some (.move 1) ∧ (s.npage 4096).isSome = true ∧ s.map.refuse = false) := by decide +kernel

theorem test_program_done : after (.nandProgramDone 0 true) (stored 2 { flight := some { commit1 with pages := [cpage1 0 false], copies := [] } })
    (fun t => decide ((t.npage 0).map (fun p => p.typ) = some 2 ∧ (t.npage 1).map (fun p => (p.typ, p.seq)) = some (0x0A, 5))) = true := by decide +kernel
theorem test_erase_done : after (.nandEraseDone 3 true) (stored 2 { reclaim := [3], blocks := [(3, { state := .full, erases := 6 })], nand := [(3 * 4096, some { typ := 0x0A, data := [] })] })
    (fun t => (t.nblock 3).erases == 7 && decide ((t.nblock 3).state = .free ∧ t.npage (3 * 4096) = none ∧ t.map.credit = -1)) = true := by decide +kernel
theorem test_reclaim_read_only : after (.reclaimStart none) (stored 2 { blocks := (List.range 8).map fun b => (b, { state := .full }) }) (fun t => t.mapState == 3) = true := by
  decide +kernel
theorem test_blank_flash : after (.mount [] [] 1000) (inState .mount) (fun t => decide (t = { inState .mount with tb3 := 1000 })) = true := by decide +kernel

/-- The Reef on over a mounted store. -/
def reefed (x : ReefSt) : State := { withFlds (stored 2 {}) [(R.REEF_CFG, R.REEF_CFG_enable, 1), (R.REEF_CFG, R.REEF_CFG_compact_en, 1)] with reef := { x with off := false } }

/-- A context of engine 15 that waits for two codewords. -/
def ctx1 : Ctx :=
  { engine := 15, q := ⟨1, 1, 1, 1, 1, 0, 0, 0, [0, 0, 0, 0], 0, 0, 0, 0, 0, []⟩, index := {}, version := 3, tSubmit := 0, since := 5, cws := [8, 9] }

/-- ReefUpdates: ready, full, paused, not able; an insertion with a free id, with none, a deletion of a live node; a codeword that one context waits for; a query out of time. -/
theorem witness_reef : (reefed {}).asleep = false ∧ (reefed {}).reefState = 1 ∧ (reefed {}).reefPaused = false ∧ (reefed {}).reefHeld = false ∧ (reefed {}).bufUsed < 4096 ∧
    (inState .run).reefState ≠ 1 ∧ 4096 ≤ (reefed { slots := List.replicate 4096 (0, 0) }).bufUsed ∧
    (reefed { reqs := [.insert 1 2 [] 0 0 3 4], high := 2 ^ 32 }).reef.freeIds = [] ∧ ¬ (2 ^ 32 < 2 ^ 32) ∧
    ((reefed { newest := ⟨[(7, { state := 1 })]⟩, reqs := [.delete 7] }).reef.newest.node 7).state = 1 ∧
    (reefed {}).cfgBit R.REEF_CFG R.REEF_CFG_compact_en = true ∧ (reefed {}).reg R.REEF_SWEEP_PAGE = 0 ∧
    ((reefed { ctxs := [ctx1] }).reef.ctxs.filter fun c => c.engine == 15 && c.version == 3 && c.cws.contains 8) = [ctx1] ∧
    ctx1.cws.filter (fun k => k != 8) ≠ [] ∧ (reefed { ctxs := [ctx1] }).reef.ctxs[0]? = some ctx1 := by decide +kernel

theorem test_insert : after .reefInsert (reefed { reqs := [.insert 1 2 [] 0 0 3 4], freeIds := [6], high := 9 })
    (fun t => t.reg R.REEF_INSERTS == 1 && t.reef.high == 9 && t.reef.freeIds.isEmpty && t.reef.reqs.isEmpty && (t.reef.newest.node 6).state == 1 && (t.reef.newest.node 6).keyframe == 1) = true := by
  decide +kernel
theorem test_insert_no_id : after .reefInsert (reefed { reqs := [.insert 1 2 [] 0 0 3 4], high := 2 ^ 32 }) (fun t => t.reg R.REEF_INS_FAIL == 1 && t.srcBit R.INTC_PEND 196) = true := by
  decide +kernel
theorem test_delete : after (.reefDelete 7) (reefed { newest := ⟨[(7, { state := 1, gen := 65535 })]⟩, reqs := [.delete 7], high := 8 })
    (fun t => (t.reef.newest.node 7).state == 2 && (t.reef.newest.node 7).gen == 0 && t.reg R.REEF_DELETES == 1) = true := by decide +kernel
theorem test_updater_pauses : after .reefInsert (reefed { slots := List.replicate 4096 (0, 0) }) (fun t => t.reefPaused && t.srcBit R.INTC_LEVEL 195) = true := by decide +kernel
theorem test_codeword_bad : after (.codewordReadDone 15 8 3 false 1000) (reefed { ctxs := [ctx1] })
    (fun t => decide (t.reef.ctxs.map (fun c => (c.cws, c.badCws)) = [([9], [8])]) && t.reg R.REEF_READ_ERR == 1) = true := by decide +kernel
/-- ReefUpdates: a sweep whose page is in flash, its read in flight, waiting, not asked for. -/
def reefedAt : State :=
  let s := reefed { high := 100, newest := ⟨[(0, { state := 1 })]⟩ }
  { s with map := { s.map with content := { index := [(0, 4096 * 2 ^ 28)] }, reads := [{ page := 4096, cls := 14, who := .sweep 0, issued := some 0 }] } }
theorem witness_sweep : reefedAt.sweepReads 0 = true ∧ (reefed {}).sweepReads 0 = false ∧ reefedAt.readWaits (.sweep 0) = false ∧
    ({ reefedAt with map := { reefedAt.map with reads := [{ page := 4096, cls := 14, who := .sweep 0 }] } } : State).readWaits (.sweep 0) = true ∧
    0 < (reefed {}).cfgFld R.REEF_COMPACT_CFG R.REEF_COMPACT_CFG_pages_per_s ∧ (reefed { ctxs := [ctx1] }).readWaits (.codeword 15 8 3) = false ∧
    5 + (reefed {}).cfgReg R.REEF_QUERY_TMO * 1000000 ≤ 10 ^ 12 := by decide +kernel
theorem test_compact_unreadable : after (.compactPage ⟨false, 2000000000⟩) (reefedAt)
    (fun t => t.reef.sweepBad == [0] && t.reg R.REEF_SWEEP_PAGE == 1 && t.reg R.REEF_READ_ERR == 1) = true := by decide +kernel

/-! Power, the chain, the host, the OTP, the test port (spec 12–18). -/

/-- Operands of a cold start and of a wake. -/
def boot0 : BootIn := ⟨15, 15, [], true⟩
def wake0 (fail : Fin 5) : WakeIn := ⟨fail, true, boot0, []⟩

/-- A device in SLEEP with WAKE_N 3 and the alarm enabled. -/
def sleeping (p : Pwr) : State := { withFlds (inState .sleep) [(R.PWR_WAKE_CFG, (3, 3), 1), (R.PWR_WAKE_CFG, R.PWR_WAKE_CFG_alarm_en, 1), (R.PWR_WAKE_CFG, R.PWR_WAKE_CFG_pfail_en, 1)] with pwr := p }

/-- A device whose slots' headers give no image. -/
def blank : State :=
  { inState .boot with cfg := { nor := [(slotBase 0 + 8, 0), (slotBase 0 + 9, 0), (slotBase 0 + 10, 0), (slotBase 0 + 11, 0), (slotBase 1 + 8, 0), (slotBase 1 + 9, 0), (slotBase 1 + 10, 0),
      (slotBase 1 + 11, 0)] } }

/-- Power: every branch of the wakes, of PFAIL_N and of PWR_OK has a state. -/
theorem witness_power : (inState .run).asleep = false ∧ (inState .sleep).asleep = true ∧ ((blank.setState .boot).startKey.secRegs.domains).bootImage.1 = none ∧
    bitOf ((sleeping {}).cfgReg R.PWR_WAKE_CFG) 3 = true ∧ bitOf ((sleeping {}).cfgReg R.PWR_WAKE_CFG) 2 = false ∧ (sleeping {}).dev.poweredOff = false ∧
    (sleeping {}).dev.pwrOk = true ∧ (sleeping {}).pwr.pfailLow = false ∧ (sleeping {}).map.holdTo = none ∧
    (sleeping {}).cfgReg R.PWR_ALARM_LO + 2 ^ 32 * (sleeping {}).cfgReg R.PWR_ALARM_HI ≤ max (sleeping {}).tb3 0 ∧
    (sleeping {}).cfgBit R.PWR_WAKE_CFG R.PWR_WAKE_CFG_pfail_en = true ∧ (wake0 4).fail.val ≠ 0 ∧ (wake0 0).fail.val = 0 ∧
    (let s : State := { inState .boot with map := { holdTo := some 7 }, dev := { (inState .boot).dev with pfailHeld := true } };
      (({ s with pwr := { s.pwr with shed := false, selfRefresh := false } } : State).mapHoldEnd).dev.pfailHeld = true ∧ s.pwr.pfailLow = false ∧ s.pwr.shed = false) ∧
    leAt (record 8 [(0, 4, 0x4B52534D), (4, 2, 1)]) 0 4 = 0x4B52534D ∧ leAt (record 8 [(0, 4, 0x4B52534D), (4, 2, 1)]) 4 2 = 1 ∧ leAt (sleeping {}).pwr.psram 0 4 ≠ 0x4B52534D ∧
    ({ inState .sleep with time := { sleepAt := some (7, 0, 0, 0) } } : State).time.sleepAt = some (7, 0, 0, 0) ∧
    DState.watch ∉ [.off, .sleep, .boot, .train] ∧ DState.run ∉ [.boot, .train, .halt] := by decide +kernel

theorem test_por : after .porAssert (busy {}) (fun t => decide (t.dev.state = .off ∧ t.dev.poweredOff = true ∧ t.islets = [] ∧ t.tb3 = 0)) = true := by decide +kernel
theorem test_boot_fails : after (.coldStart true true none boot0 9) blank (fun t => decide (t.dev.state = .boot ∧ t.dev.bootFailed = true ∧ t.ep.configOpen = true) && t.isHead) = true := by
  decide +kernel
theorem test_wake_while_pfail : after (.wakeNPin 3 (wake0 0) 9) (sleeping { pfailLow := true }) (fun t => t.pwr.latched == 8 && decide (t.dev.state = .sleep)) = true := by decide +kernel
theorem test_wake_not_enabled : leaves (.wakeNPin 2 (wake0 0) 9) (sleeping {}) { sleeping {} with tb3 := 9 } = true := by decide +kernel
theorem test_watch_wakes : after (.wakeNPin 3 (wake0 0) 9) { sleeping {} with dev := { state := .watch } }
    (fun t => t.pwr.wakePending && t.reg R.PWR_WAKES == 1 && bitOf (t.reg R.PWR_WAKE_CAUSE) 3 && t.srcBit R.INTC_PEND 291) = true := by decide +kernel
theorem test_pfail_sheds : after (.pfailAssert 0 9) (inState .run) (fun t => t.pwr.shed && t.pwr.selfRefresh && t.map.refuse && t.srcBit R.INTC_LEVEL 290) = true := by
  decide +kernel
theorem test_pfail_release : after (.pfailRelease 9) { inState .run with pwr := { pfailLow := true }, map := { refuse := true } }
    (fun t => decide (t.map.holdTo = some 10000009) && !t.map.refuse && !t.pwr.pfailLow) = true := by decide +kernel
theorem test_safe_stop : after .safeStopAssert (inState .run) (fun t => t.dev.safeStopLow && t.srcBit R.INTC_LEVEL 4) = true := by decide +kernel
theorem test_epoch_asleep : after (.epochBoundary ⟨0, 250, [], [], none, 0, 0, 0, true⟩) (inState .sleep) (fun t => t.dev.epoch == 1 && t.tb3 == 250000 && decide (t.dev.state = .sleep)) = true := by
  decide +kernel

/-- A unit with both ports UP, its address and the count of units, whether it is the head, in a stage. -/
def linked (own count : Nat) (head : Bool) (x : Chain) : State :=
  { withFlds (withRegs (inState .enum) [(R.CHAIN_PORT_STATUS, 0xF802), (R.CHAIN_PORT_STATUS + 4, 0xF802)])
      [(R.CHAIN_STATUS, R.CHAIN_STATUS_address, own), (R.CHAIN_STATUS, R.CHAIN_STATUS_count, count), (R.CHAIN_STATUS, R.CHAIN_STATUS_head, if head then 1 else 0),
       (R.CHAIN_CFG, R.CHAIN_CFG_enum_tmo_ms, 7), (R.CHAIN_CFG, R.CHAIN_CFG_req_tmo_us, 9)] with chain := x }

/-- Enumeration: the ports up, every stage for a head or a follower, the times before and at their ends. -/
theorem witness_enumeration : (linked 0 0 true { stage := .headWait }).asleep = false ∧ (linked 0 0 true { stage := .headWait }).portUp 0 = true ∧
    (linked 0 0 true {}).portUp 1 = true ∧ (inState .enum).portUp 0 = false ∧ (linked 0 0 true {}).isHead = true ∧ (linked 0 0 false { stage := .waitEnum }).isHead = false ∧
    (linked 0 0 true {}).cfgFld R.CHAIN_CFG R.CHAIN_CFG_enum_tmo_ms = 7 ∧ (linked 0 0 false { remote := [3] }).chain.stage = .idle ∧ (14 : Byte).toNat < 15 ∧
    ¬ (15 : Byte).toNat < 15 := by decide +kernel

theorem test_head_hears_ready : after (.enumReady 1 9) (linked 0 0 true { stage := .headWait }) (fun t => decide (t.chain.stage = .waitEnd ∧ t.chain.readyDown = true)) = true := by
  decide +kernel
theorem test_enum_last : after (.enumMsg 0 15 9) (linked 0 0 false { stage := .waitEnum }) (fun t => t.ownAddr == 15 && decide (t.chain.stage = .waitCommit)) = true := by decide +kernel
theorem test_enum_waits : after (.enumMsg 0 14 9) (linked 0 0 false { stage := .waitEnum }) (fun t => t.ownAddr == 14 && decide (t.chain.stage = .waitReady)) = true := by decide +kernel
theorem test_head_end : after (.enumEnd 1 3 9) (linked 0 0 true { stage := .waitEnd })
    (fun t => t.unitCount == 3 && decide (t.dev.state = .load ∧ t.chain.stage = .idle) && t.srcBit R.INTC_PEND 225) = true := by decide +kernel
theorem test_enum_end_timeout : after (.enumEndTimeout 10000000) (linked 0 0 true { stage := .waitEnd }) (fun t => t.unitCount == 1) = true := by decide +kernel
theorem test_enum_timeout : after (.enumTimeout 7000000) (linked 0 0 false { stage := .waitEnum, readySent := some 0 })
    (fun t => t.fld R.CHAIN_STATUS R.CHAIN_STATUS_state == 3 && t.ownAddr == 0) = true := by decide +kernel
theorem test_enum_timeout_early : leaves (.enumTimeout 6999999) (linked 0 0 false { stage := .waitEnum, readySent := some 0 })
    { linked 0 0 false { stage := .waitEnum, readySent := some 0 } with tb3 := 6999999 } = true := by decide +kernel

/-- A data frame kept for replay; a short message. -/
def kept1 (n : Nat) : LFrame := ⟨n, 1, 0, 1, true, []⟩
def msg1 : Msg := { dest := 1, src := 0, cls := 2, payload := [4, 0, 0, 0, 0, 0, 0, 0] }

theorem test_crc : crc32c [0x31, 0x32, 0x33, 0x34, 0x35, 0x36, 0x37, 0x38, 0x39] = 0xE3069283 := by decide +kernel

/-- A unit whose port 1 has one frame in replay and the message waiting. -/
def loaded (n : Nat) : State := (linked 0 2 true {}).setCport 1 { replay := [(kept1 5, n)], wait := [msg1], credits := [32, 0, 256], freed := [0, 0, 3] }

/-- Links: a good data frame in order, a bad one, an ACK; frames to send again under and at the limit; a credit that lets the message go; each state of a port. -/
theorem witness_frame (f : LFrame) : f.bytes.length = 264 ∧ leAt f.bytes 260 4 = crc32c (f.bytes.take 260) := frame_bytes_whole f
theorem witness_headers : leAt (kept1 0).bytes 0 2 / 4096 = 1 ∧ leAt (kept1 0).bytes 0 2 % 4096 = ((linked 0 2 true {}).cport 1).rxSeq ∧
    leAt ({ kept1 0 with typ := 2 } : LFrame).bytes 0 2 / 4096 = 2 := by decide +kernel
theorem witness_links : (linked 0 2 true {}).portUp 1 = true ∧ ((loaded 6).cport 1).replay = [(kept1 5, 6)] ∧ dropAcked 4095 [(kept1 5, 7)] ≠ [] ∧
    ((loaded 0).cport 1).wait = [msg1] ∧ msg1.frames ≤ nthD 0 [32, 1, 256] (vcOf msg1.cls) ∧
    (linked 0 2 true {}).portState 1 = 2 ∧ (withRegs (inState .run) [(R.CHAIN_PORT_STATUS + 4, 4)]).portState 1 = 4 ∧ (withRegs (inState .run) [(R.CHAIN_PORT_STATUS + 4, 3)]).portState 1 = 3 ∧
    laneWidth 0 = 0 ∧ laneWidth 15 ≠ 0 ∧ (∃ n ∈ ((loaded 0).cport 1).freed, n ≠ 0) ∧ ((linked 0 2 true {}).cport 1).freed.length = 3 := by
  decide +kernel

theorem test_frame_short : after (.linkFrameRx 1 [] 9) (linked 0 2 true {})
    (fun t => t.reg (R.CHAIN_CRC_ERR + 0x20) == 1 && t.out == [.frame 1 ⟨0, 3, 0xFFF, 0, false, []⟩]) = true := by decide +kernel
theorem test_nak_replays : after (.linkNak 1 4095) (loaded 6) (fun t => t.reg (R.CHAIN_REPLAY + 0x20) == 1 && t.portState 1 == 2 && t.out == [.frame 1 (kept1 5)]) = true := by decide +kernel
theorem test_nak_retrains : after (.linkNak 1 4095) (loaded 7) (fun t => t.portState 1 == 3 && t.reg (R.CHAIN_RETRAIN + 0x20) == 1) = true := by decide +kernel
theorem test_credit : after (.linkCredit 1 0 1 0) (loaded 0) (fun t => (t.cport 1).wait.isEmpty && (t.cport 1).credits == [32, 0, 256] && t.out.contains (.msg 1 msg1)) = true := by
  decide +kernel
theorem test_retrain_fails_thrice : after (.linkRetrainDone 1 0 9) ((withRegs (inState .run) [(R.CHAIN_PORT_STATUS + 4, 3)]).setCport 1 { fails := 2 }) (fun t => t.portState 1 == 4) = true := by
  decide +kernel
theorem test_credit_return : after (.creditReturnTimer 1 9) (loaded 0) (fun t => (t.cport 1).freed == [0, 0, 0] && t.out.length == 1) = true := by decide +kernel
theorem test_prbs : after (.prbs31 1 5 0 0 0) { linked 0 2 true {} with dev := { state := .test } } (fun t => t.reg (R.CHAIN_PRBS_ERR + 0x10) == 5 && t.fld R.CHAIN_TEST R.CHAIN_TEST_mode == 3) = true := by
  decide +kernel

/-- A relay request in flight to unit 1. -/
def req1 : PeerReq := { seq := 7, dest := 1, isWrite := false, len := 4, since := 0, who := .relay }

/-- PeerMessages: a message for this unit, for the next, for one that is not there; each kind of address at its edges; a request that is answered, and one out of time. -/
theorem witness_peers : PeerRow (.rdReq 1 0 1 0x10000000 4 7 0 0 9) 1 { dest := 0, src := 1, cls := 2, address := 0x10000000, seq := 7, payload := record 8 [(0, 4, 4)] } 9 ∧
    (linked 0 2 true {}).asleep = false ∧ (linked 0 2 true {}).ownAddr = 0 ∧ (linked 0 2 true {}).reachable 1 = true ∧ (linked 0 2 true {}).reachable 2 = false ∧
    csrAligned 0xB0000 4 = true ∧ csrAligned 0xB0001 4 = false ∧ 0x1BFFFFFC + 4 ≤ 0x1C000000 ∧ (linked 0 2 true {}).poisoned 0x10000000 4 = false ∧
    inDirect 0x20000000 = true ∧ inDirect 0x20000003 = true ∧ inPlaced 0x1C000000 = false ∧
    (linked 0 2 true { reqs := [req1] }).findReq 1 7 false = some req1 ∧ (linked 0 2 true {}).findReq 1 7 false = none ∧
    (linked 0 2 true {}).cfgFld R.CHAIN_CFG R.CHAIN_CFG_req_tmo_us = 9 ∧
    (let s := withRegs (linked 0 2 true {}) [(R.HOST_RELAY_ADDR_HI, 0x1400)];
      s.fld R.HOST_RELAY_CTL R.HOST_RELAY_CTL_busy ≠ 1 ∧ s.reg R.HOST_RELAY_ADDR_LO + 2 ^ 32 * (s.reg R.HOST_RELAY_ADDR_HI % 2 ^ 16) = 0x140000000000) := by
  refine ⟨.rdReq .., ?_⟩; decide +kernel

theorem test_peer_read : after (.rdReq 1 0 1 0x10000000 4 7 0 0 9) ((linked 0 2 true {}).store 0x10000000 [1, 2, 3, 4])
    (fun t => t.out.contains (.msg 1 { dest := 1, src := 0, cls := 4, seq := 7, payload := [1, 2, 3, 4] })) = true := by decide +kernel
theorem test_peer_write : after (.wrReq 1 0 1 0x1BFFFFFC 7 0 0 [1, 2, 3, 4] 9) (linked 0 2 true {}) (fun t => t.bytes 0x1BFFFFFC 4 == [1, 2, 3, 4]) = true := by decide +kernel
theorem test_peer_csr_denied : after (.wrReq 1 0 1 0xB0000 7 0 0 [1, 2, 3, 4] 9) (linked 0 2 true {})
    (fun t => t.out.contains (.msg 1 { dest := 1, src := 0, cls := 5, flags := 2, seq := 7, tag := 0x800 }) && t.reg 0xB0000 == (linked 0 2 true {}).reg 0xB0000) = true := by decide +kernel
theorem test_relay_answered : after (.rdResp 1 0 1 0 7 0 0 [9, 0, 0, 0] 9) (linked 0 2 true { reqs := [req1] })
    (fun t => t.reg R.HOST_RELAY_DATA == 9 && t.chain.reqs.isEmpty && t.fld R.HOST_RELAY_CTL R.HOST_RELAY_CTL_result == 0) = true := by decide +kernel
theorem test_request_timeout : after (.peerRequestTimeout 0 9000) (linked 0 2 true { reqs := [req1] })
    (fun t => t.reg R.CHAIN_TIMEOUT == 1 && t.fld R.HOST_RELAY_CTL R.HOST_RELAY_CTL_result == 4 && t.srcBit R.INTC_PEND 226) = true := by decide +kernel
theorem test_request_not_late : leaves (.peerRequestTimeout 0 8999) (linked 0 2 true { reqs := [req1] }) { linked 0 2 true { reqs := [req1] } with tb3 := 8999 } = true := by decide +kernel
theorem test_event_message : after (.eventMessage 1 0 1 7 0 0 300 9 1 0 9) (linked 0 2 true {})
    (fun t => t.srcBit R.INTC_PEND 449 && t.reg (R.INTC_PEER_SRC + 4) == 9 * 2 ^ 24 + 2 ^ 16 + 300) = true := by decide +kernel
theorem test_relay_read : after (.hostRelayRead 9) (withRegs (linked 0 2 true {}) [(R.HOST_RELAY_ADDR_HI, 0x1400)])
    (fun t => t.fld R.HOST_RELAY_CTL R.HOST_RELAY_CTL_busy == 1 && decide (t.chain.reqs.map (fun q => (q.dest, q.len)) = [(1, 4)])) = true := by decide +kernel

/-- The bytes of an image with an empty FIRMWARE section and a NAND descriptor, for the host to give. -/
def imageBytes : List Byte :=
  record 0x40 [(0, 4, 0x4E434647), (4, 2, 1), (8, 4, 8192), (0xC, 2, 2), (0x18, 4, 2)] ++ record 0x200 [(0, 1, 1), (4, 4, 0xA00), (0x10, 1, 7), (0x14, 4, 0xA40), (0x18, 4, 0x48)] ++
    List.replicate (8192 - 0x240) 0

/-- STAGE_SHADOW waits for that image. -/
def staging1 : Staging := { source := 1, persist := false, slot := 2, block := record 0x40 [(0, 1, 1), (0x10, 4, 8192)], master := .host }
def staged : State := { hosted .test with cfg := { staging := some staging1 }, sec := { vendorHash := digest64 ((imageBytes.drop 0x240).take 1952) } }

/-- HostOtpTap, its SHADOW_VERIFY_END: whatever the signature function is, if it accepts, the image passes steps 1 and 2. -/
theorem witness_image
    (h : Config.verify ((imageBytes.drop 0x240).take 1952) (digest64 (imageBytes.take (8192 - 3312))) ((imageBytes.drop (8192 - 3312)).take 3309) = true) :
    staged.canMaster = true ∧ staged.cfg.staging = some staging1 ∧ padTo 8192 (imageBytes.take 8192) = imageBytes ∧ leAt staging1.block 0x10 4 = 8192 ∧
    (staged.verifyImage imageBytes 8192).1 = 0 ∧ staged.nandAgrees (parseImage imageBytes).nand = true ∧ stagePayloads staging1.block = [] := by
  have hl : imageBytes.length = 8192 := by
    simp only [imageBytes, record, List.length_append, leBytes_length, List.length_replicate]
  refine ⟨by decide +kernel, rfl, ?_, by decide +kernel, ?_, by rfl, by decide +kernel⟩
  · rw [List.take_of_length_le (by omega), padTo, hl, Nat.sub_self, List.replicate_zero, List.append_nil]
  have h1 : headerOk imageBytes 8192 = true := by decide +kernel
  have h2 : leAt imageBytes 8 4 = 8192 := by decide +kernel
  have h3 : leAt imageBytes 6 1 = 0 := by decide +kernel
  have h4 : staged.sec.vendorDisable = false := rfl
  have h5 : staged.sec.vendorHash = digest64 ((imageBytes.drop 0x240).take 1952) := rfl
  have h6 : staged.signatureOk imageBytes = true := by
    simp [State.signatureOk, h2, h3, h4, h5, h]
  have h7 : ¬ leAt imageBytes 0x10 8 < staged.rollback := by decide +kernel
  have h8 : structureOk imageBytes = true := by decide +kernel
  simp [State.verifyImage, h1, h6, h7, h8]

/-- HostOtpTap: the link up and down, a configuration request before BOOT's end, OTP in and out of TEST, a calibration commit at its steps, the port held and free. -/
theorem witness_host : (hosted .run).asleep = false ∧ (hosted .run).fld R.HOST_LINK_STATUS R.HOST_LINK_STATUS_link_up = 1 ∧
    (inState .run).fld R.HOST_LINK_STATUS R.HOST_LINK_STATUS_link_up ≠ 1 ∧ (hosted .run).ep.configOpen = true ∧ (inState .run).ep.configOpen = false ∧
    (hosted .run).intcRuns = true ∧ (inState .test).sec.integratorHash = none ∧ staged.cfg.staging.isSome = true ∧
    (let s : State := { inState .test with sec := { integratorHash := some [] }, cfg := { active := some { image1 [] with keyIndex := 1 } } };
      s.sec.vendorDisable = false ∧ s.sec.integratorHash.isSome = true ∧ ∀ i ∈ s.cfg.active, i.keyIndex ≠ 0) ∧
    ({ inState .run with cfg := { calJob := some ⟨2, [], 1⟩ } } : State).cfg.calSector = none ∧ (inState .test).tap.inReset = true ∧ (inState .run).cfg.calJob = none := by
  decide +kernel

theorem test_perst_low : after (.perst false true) (hosted .run) (fun t => t.reg R.HOST_LINK_STATUS == 0 && t.reg R.HOST_LINK_DOWN == 1 && !t.ep.msixEnable && t.srcBit R.INTC_PEND 232) = true := by
  decide +kernel
theorem test_link_up : after (.pcieLinkUp 5 8) { inState .run with ep := { perst := true, refclk := true } } (fun t => t.reg R.HOST_LINK_STATUS == 0x5081) = true := by decide +kernel
theorem test_flr : after .functionLevelReset { hosted .run with dev := { (hosted .run).dev with host := { argLo := 5, cmd := some { op := 4, token := 1, argAddr := 0, since := 0, arg := .reading } } } }
    (fun t => t.reg R.HOST_FLR == 1 && t.fld R.HOST_LINK_STATUS R.HOST_LINK_STATUS_bme == 0 && t.dev.host.argLo == 0 &&
      decide ((t.dev.host.cmd.map fun c => (c.arg, c.hidden)) = some (.failed, true))) = true := by decide +kernel
theorem test_config_retry : leaves (.configurationRequest (some true) none ⟨none, some .vendor⟩) (inState .boot) { inState .boot with out := [.configRetry] } = true := by decide +kernel
theorem test_otp_outside_test : after (.integratorKeyHash true) (inState .run) (fun t => t.fld R.SEC_OTP_PROG R.SEC_OTP_PROG_result == 2 && t.reg R.SEC_DENIED == 1) = true := by decide +kernel
theorem test_otp_programs : after (.integratorKeyHash true) (inState .test)
    (fun t => t.sec.integratorHash == some (List.replicate 64 0) && t.fld R.SEC_OTP_PROG R.SEC_OTP_PROG_result == 1) = true := by decide +kernel
theorem test_cal_commit_ends : after (.norProgramDone true 9) { inState .run with cfg := { calJob := some ⟨2, [], 1⟩ } }
    (fun t => t.reg R.CFG_CAL_GEN == 1 && decide (t.cfg.calJob = none ∧ t.cfg.calSector = some 1)) = true := by decide +kernel
theorem test_idcode : leaves .idcode { inState .run with tap := { inReset := false } } { inState .run with tap := { inReset := false }, out := [.tdo 32 0xA9600C2B] } = true := by decide +kernel
theorem test_extest_outside_test : after (.extest [true] [true, false]) { inState .run with tap := { inReset := false } }
    (fun t => t.tap.ir == 1 && decide (t.tap.drive = none) && t.out == [.tdo 2 2]) = true := by decide +kernel

/-- StepRunsFront, StepKeepsInvariant, OtpNeverTakenBack: a state with a command waiting, canonical, whose step goes on. -/
theorem witness_step : (let s := { inState .run with pending := [.intcSoft 1] }
    s.pending = .intcSoft 1 :: [] ∧ canonical s = true ∧ (inState .run).pending = [] ∧ ∃ t, step s = .next t) := by
  refine ⟨rfl, by decide +kernel, rfl, _, rfl⟩
theorem witness_otp (pwrOk head : Bool) (f : Fitted) (b : BootIn) (n : Nat) : Instr.intcSoft 1 ≠ .coldStart pwrOk head (some f) b n := by
  intro h; cases h

end Sys2Proof.Tests
end

/-! PROOFS. 00 R7: an access to the CSR window of another width or alignment completes without effect. -/
namespace Sys2Proof.Machine

/-- The powered device meets the command (log entry 84). -/
theorem State.whenAwake_of_awake {s : State} (h : s.asleep = false) (f : State → State) : s.whenAwake f = f s := by
  simp [State.whenAwake, h]

/-- An offset between two words is no aligned access, whatever its width (00 R7). -/
theorem csrAligned_of_misaligned {o : Nat} (h : o % 4 ≠ 0) (n : Nat) : csrAligned o n = false := by
  simp [csrAligned, h]

/-- An access of another width, awake: a read answers 0, a write leaves the state. -/
theorem exec_csrOddAccess_of_awake {s : State} (h : s.asleep = false) (isRead : Bool) :
    exec (.csrOddAccess isRead) s = .next (if isRead then s.emit (.value 0) else s) :=
  congrArg Host.Outcome.next (State.whenAwake_of_awake h _)

/-- A REGISTER_WRITE, awake: only an aligned one writes, and only then do received messages follow. -/
theorem exec_registerWrite_of_awake {s : State} (h : s.asleep = false) (m : Master) (o : BitVec 28) (v : Word32) (t : Nat) :
    exec (.registerWrite m o v t) s =
      .next (if csrAligned o.toNat 4 then ((s.at t).csrWrite m o.toNat v.toNat).drainAll t else s.at t) :=
  congrArg Host.Outcome.next (State.whenAwake_of_awake h _)

/-- Settles O30, by the rule of each row on an awake device: the odd access emits at most the answer 0, and a misaligned
REGISTER_WRITE takes the branch that only moves TB3. -/
theorem oddAccess : Obligations.OddAccess := by
  unfold Obligations.OddAccess
  intro s hawake
  refine ⟨exec_csrOddAccess_of_awake hawake false, exec_csrOddAccess_of_awake hawake true, ?_⟩
  intro m o v t hodd
  have hno : csrAligned o.toNat 4 = false := csrAligned_of_misaligned hodd 4
  rw [exec_registerWrite_of_awake hawake, hno]
  rfl

end Sys2Proof.Machine

/-! PROOFS. 02 R59: a BWAIT or BARR that has waited BTMO cycles ends. -/
namespace Sys2Proof.Machine

/-- A BUOY_WAIT_TIMEOUT, awake (R59). -/
theorem exec_buoyWaitTimeout_of_awake {s : State} (h : s.asleep = false) (i : IsletId) :
    exec (.buoyWaitTimeout i) s = .next (s.buoyTimeout i.val).settle :=
  congrArg Host.Outcome.next (State.whenAwake_of_awake h _)

/-- The state in which the bundle of a buoy wait is tried once more: the Islet stands at cycle `c` and holds `h`. -/
def State.heldAt (s : State) (i c : Nat) (h : Held) : State :=
  s.setIslet i { s.islet i with cycle := c, held := some h }

@[simp] theorem State.heldAt_islet (s : State) (i c : Nat) (h : Held) :
    (s.heldAt i c h).islet i = { s.islet i with cycle := c, held := some h } := State.islet_setIslet ..

/-- A timeout of a nonzero BTMO tries the held bundle again, its wait answered with bit 63 and the value (R59). -/
theorem State.buoyTimeout_of_held {s : State} {i n : Nat} {h : Held} (hh : (s.islet i).held = some h) (hb : h.buoy = some n)
    (ht : ((s.islet i).craw 11).toNat % 2 ^ 32 ≠ 0) :
    s.buoyTimeout i =
      (let h1 : Held := { h with done := some (BitVec.ofNat 64 (2 ^ 63 + (s.buoy n).value)) }
       wakeOf ((s.heldAt i (max (s.islet i).cycle (h.since + ((s.islet i).craw 11).toNat % 2 ^ 32)) h1).tryBundle i h1)) := by
  unfold State.buoyTimeout
  simp only [hh, hb, if_neg ht]
  rfl

/-- Nothing but its buoy keeps the held bundle of Islet `i` from completing: it is legal and its registers are readable; unless it is a BARR
that has arrived, no slot raises, nothing it needs is full or has still to drain, no error is due, no watchpoint stops it (R32, R56). -/
structure OnlyBuoyKeeps (s : State) (i : Nat) (h : Held) : Prop where
  legal : h.bundle.illegal = none
  alone : h.bundle.conflict = none
  preds : (s.islet i).loadPending h.bundle.predKeys = false
  regs : (s.islet i).loadPending (h.bundle.srcs ((s.islet i).active h.bundle) ++ h.bundle.dests ((s.islet i).active h.bundle)) = false
  free : h.barrPhase.isSome = true ∨
    (s.slotExn i h.bundle ((s.islet i).active h.bundle) = none ∧ (((s.islet i).active h.bundle).m && s.mFull i h.bundle.m) = false ∧
      (s.islet i).mustDrain h.bundle ((s.islet i).active h.bundle) = false ∧
      (((s.islet i).active h.bundle).m && s.mNoCredit i h.bundle.m) = false ∧ (s.islet i).dueErrs h.bundle ((s.islet i).active h.bundle) = [] ∧
      (s.watched i h.bundle ((s.islet i).active h.bundle) = true → (s.islet i).passBp = true))

section heldAt
variable (s : State) (i c : Nat) (h : Held)

theorem State.slotExn_heldAt (b : Bundle) (a : Active) : (s.heldAt i c h).slotExn i b a = s.slotExn i b a := by
  simp only [State.slotExn, State.mExn, State.heldAt_islet]
  rfl

theorem State.mFull_heldAt (m : MIns) : (s.heldAt i c h).mFull i m = s.mFull i m := by
  simp only [State.mFull, State.heldAt_islet]
  rfl

theorem State.mNoCredit_heldAt (m : MIns) : (s.heldAt i c h).mNoCredit i m = s.mNoCredit i m := by
  simp only [State.mNoCredit, State.goesTo, State.heldAt_islet]
  rfl

theorem State.watched_heldAt (b : Bundle) (a : Active) : (s.heldAt i c h).watched i b a = s.watched i b a := by
  simp only [State.watched, State.heldAt_islet]
  rfl
end heldAt

/-- What keeps a bundle does not read its Islet's cycle or the bundle it holds, nor what a wait has answered. -/
theorem OnlyBuoyKeeps.heldAt {s : State} {i : Nat} {h : Held} (hk : OnlyBuoyKeeps s i h) (c : Nat) (v : Word64) :
    OnlyBuoyKeeps (s.heldAt i c { h with done := some v }) i { h with done := some v } := by
  obtain ⟨hl, ha, hp, hr, hf⟩ := hk
  constructor
  case legal => exact hl
  case alone => exact ha
  case preds => rw [State.heldAt_islet]; exact hp
  case regs => rw [State.heldAt_islet]; exact hr
  case free =>
    rw [State.slotExn_heldAt, State.mFull_heldAt, State.mNoCredit_heldAt, State.watched_heldAt, State.heldAt_islet]
    exact hf

/-- A bundle that only its buoy keeps completes once its wait is answered (R32, R59). -/
theorem tryBundle_of_done {s : State} {i : Nat} {h : Held} {v : Word64} (hk : OnlyBuoyKeeps s i h) (hd : h.done = some v) :
    s.tryBundle i h = s.complete i h.bundle ((s.islet i).active h.bundle)
      ((s.islet i).issueCycle h.bundle ((s.islet i).active h.bundle)) v := by
  have hw : s.buoyWait i h.bundle ((s.islet i).active h.bundle) h = (none, v, s, none) := by simp only [State.buoyWait, hd]
  unfold State.tryBundle
  simp only [hk.legal, hk.alone, hk.preds, hk.regs, hw, Bool.false_eq_true, if_false]
  rcases hk.free with harr | ⟨hexn, hfull, hdrain, hcred, hdue, hwatch⟩
  · simp [harr]
  · have hstop : (!(s.islet i).passBp && s.watched i h.bundle ((s.islet i).active h.bundle)) = false := by
      cases hp : (s.islet i).passBp
      · simpa [hp] using hwatch
      · rfl
    cases h.barrPhase.isSome <;> simp [hexn, hfull, hdrain, hcred, hdue, hstop]

/-! What completing leaves of its Islet's hold and cycle (R32, R61). -/

/-- An exception ends the hold and takes no cycle back (R61). -/
theorem takeExn_held_cycle (s : State) (i p : Nat) (e : Exn) :
    ((s.takeExn i p e).islet i).held = none ∧ (s.islet i).cycle ≤ ((s.takeExn i p e).islet i).cycle := by
  unfold State.takeExn
  dsimp only
  split
  · simp only [State.islet_reportHalt, State.islet_setIslet]
    exact ⟨rfl, Nat.le_refl _⟩
  · split
    · simp only [State.islet_reportHalt, State.islet_setIslet]
      exact ⟨rfl, Nat.le_refl _⟩
    · simp only [State.islet_setIslet]
      split <;> exact ⟨rfl, Nat.le_succ _⟩

/-- A bundle that completes in cycle `c` is no longer held, and its Islet is past `c` (R32). -/
theorem complete_held_cycle (s : State) (i : Nat) (b : Bundle) (a : Active) (c : Nat) (got : Word64) :
    ((s.complete i b a c got).1.islet i).held = none ∧ c ≤ ((s.complete i b a c got).1.islet i).cycle := by
  have hfin : ∀ f : FpFlags, ∀ taken : Bool, ((s.afterT i b a c got).2.1.finish b a c f taken).held = none ∧
      c ≤ ((s.afterT i b a c got).2.1.finish b a c f taken).cycle := fun f taken => by
    obtain ⟨-, -, -, -, -, -, -, hc, hh⟩ := finish_ctl (s.afterT i b a c got).2.1 b a c f taken
    exact ⟨hh, by omega⟩
  unfold State.complete
  dsimp only
  split
  · refine ⟨(takeExn_held_cycle ..).1, Nat.le_trans ?_ (takeExn_held_cycle ..).2⟩
    rw [State.islet_setIslet]
    exact (hfin _ _).2
  · rw [State.islet_setIslet]
    exact hfin _ _

/-- A condition that may put a value off puts it off to no earlier one. -/
theorem le_ite_max (p : Prop) [Decidable p] (c k : Nat) : c ≤ if p then max c k else c := by
  split
  · exact Nat.le_max_left ..
  · exact Nat.le_refl _

/-- A bundle issues in no cycle before the one its Islet has reached (R32). -/
theorem Islet.cycle_le_issueCycle (x : Islet) (b : Bundle) (a : Active) : x.cycle ≤ x.issueCycle b a := by
  unfold Islet.issueCycle
  have hregs := List.foldlRecOn (motive := (x.cycle ≤ ·)) (b.srcs a ++ b.predKeys ++
    (if a.t ∧ b.t.op = .tmma then (b.dests { a with t := false }) ++ [keyAcc b.t.t.td.toNat] else b.dests a))
    (fun c k => max c (x.readyAt k)) (Nat.le_refl _) fun c hc k _ => Nat.le_trans hc (Nat.le_max_left ..)
  exact Nat.le_trans (Nat.le_trans hregs (le_ite_max ..)) (le_ite_max ..)

/-! What slot T of a completed BWAIT or BARR leaves (R56). -/
section wait
variable {b : Bundle} {a : Active} (s : State) (i c : Nat) (got : Word64)

/-- No slot before slot T changes a buoy. -/
theorem afterV_buoys : (s.afterV i b a c).1.buoys = s.buoys := by
  have hm : (s.afterM i b a c).1.buoys = s.buoys := by
    unfold State.afterM
    split
    · exact doM_buoys ..
    · rfl
  rw [← hm]
  unfold State.afterV
  split <;> rfl

/-- What a completed bundle leaves of the buoys is what slot T left. -/
theorem complete_buoys : (s.complete i b a c got).1.buoys = (s.afterT i b a c got).1.buoys := by
  unfold State.complete
  dsimp only
  split
  · exact takeExn_buoys ..
  · rfl

variable (ht : a.t = true) (ho : b.t.op = .bwait ∨ b.t.op = .barr)
include ht ho

/-- A completed BWAIT or BARR has the value it was answered with in g[rd]. -/
theorem complete_wait_gr :
    ((s.complete i b a c got).1.islet i).gr b.t.b.rd.toNat = if b.t.b.rd.toNat = 0 then 0 else got := by
  by_cases h0 : b.t.b.rd.toNat = 0
  · rw [if_pos h0, h0]; rfl
  obtain ⟨hg, -⟩ := complete_files s i b a c got
  rw [if_neg h0, hg _ b.t.b.rd.isLt (.inl List.not_mem_nil), State.afterT, if_pos ht]
  rcases ho with h | h <;>
    (simp only [State.doT, h]
     exact (Islet.gr_ready _ _ _ _).trans (Islet.gr_setG_self _ _ _ h0))

/-- A completed BWAIT or BARR changes a buoy in the Islets that wait on it only: an arrival stays counted. -/
theorem complete_wait_buoy (m : Nat) :
    (s.complete i b a c got).1.buoy m = { s.buoy m with waiting := ((s.complete i b a c got).1.buoy m).waiting } := by
  have hv : ∀ k, (s.afterV i b a c).1.buoy k = s.buoy k := fun k => by rw [State.buoy, afterV_buoys, State.buoy]
  have hT : (s.complete i b a c got).1.buoy m =
      ((s.afterV i b a c).1.setBuoy ((s.islet i).buoyOf b.t) ((s.buoy ((s.islet i).buoyOf b.t)).unwait i)).buoy m := by
    rw [State.buoy, complete_buoys, State.afterT, if_pos ht]
    rcases ho with h | h <;>
      (simp only [State.doT, h, hv]
       rfl)
  rw [hT]
  by_cases hm : m = (s.islet i).buoyOf b.t
  · rw [hm, State.buoy_setBuoy]; rfl
  · rw [State.buoy_setBuoy_ne _ _ _ _ hm, hv]
end wait

/-! The value of a wait: bit 63 tells a timeout from a value of the buoy (R59). -/

theorem toNat_timeoutValue {n : Nat} (h : n < 2 ^ 32) : (BitVec.ofNat 64 (2 ^ 63 + n)).toNat = 2 ^ 63 + n := by
  rw [BitVec.toNat_ofNat]; omega

theorem getLsbD_timeoutValue {n : Nat} (h : n < 2 ^ 32) : (BitVec.ofNat 64 (2 ^ 63 + n)).getLsbD 63 = true := by
  rw [BitVec.getLsbD_ofNat, Nat.testBit_two_pow_add_eq, Nat.testBit_lt_two_pow (by omega)]
  rfl

theorem getLsbD_buoyValue {n : Nat} (h : n < 2 ^ 32) : (BitVec.ofNat 64 n).getLsbD 63 = false := by
  rw [BitVec.getLsbD_ofNat, Nat.testBit_lt_two_pow (by omega), Bool.and_false]

/-- An arrival leaves a value of 32 bits (R56). -/
theorem Buoy.arrive_value_lt {b : Buoy} (h : b.value < 2 ^ 32) (i : Nat) : (b.arrive i).value < 2 ^ 32 := by
  unfold Buoy.arrive
  split
  · exact Nat.mod_lt _ (by decide)
  · exact h

/-- A BWAIT or BARR that completes as it issues leaves bit 63 of its result clear: the result is a value of the buoy (R56, R59). -/
theorem issued_wait_bit63 {s : State} {i : Nat} {b : Bundle} (hr : Ready s i b) (ho : b.t.op = .bwait ∨ b.t.op = .barr)
    (ha : (s.islet i).predOn b.t.t.pred = true) (hv : (s.buoy ((s.islet i).buoyOf b.t)).value < 2 ^ 32) :
    (((issued s i b).islet i).gr b.t.b.rd.toNat).getLsbD 63 = false := by
  rw [issued_buoy_reg hr (ho.imp_right .inl) ha]
  split
  · rfl
  · split
    · exact getLsbD_buoyValue (Buoy.arrive_value_lt hv i)
    · exact getLsbD_buoyValue hv

/-- Settles O25. The timeout answers the wait of a bundle that only its buoy keeps, so the bundle completes with that answer, in a cycle no
earlier than the end of BTMO; a wait that ends otherwise is answered with a value of the buoy, which has 32 bits. -/
theorem buoyTimeouts : Obligations.BuoyTimeouts := by
  unfold Obligations.BuoyTimeouts
  refine ⟨?_, fun c op il a r s0 _ ho hr hp hv => issued_wait_bit63 hr ho hp hv⟩
  intro il s h n hawake x b a tmo v hheld hbuoy htmo ht hop hval hleg halone hpreds hregs hfree h1 s1 r
  have hk : OnlyBuoyKeeps s il.val h := ⟨hleg, halone, hpreds, hregs, hfree⟩
  have hx1 : s1.islet il.val = { x with cycle := max x.cycle (h.since + tmo), held := some h1 } := State.islet_setIslet ..
  have htry : s1.tryBundle il.val h1 = r := by
    have := tryBundle_of_done (hk.heldAt (max x.cycle (h.since + tmo)) v) rfl
    rw [State.heldAt_islet] at this
    simp only [r, hx1]
    exact this
  obtain ⟨hend, hpast⟩ := complete_held_cycle s1 il.val b a ((s1.islet il.val).issueCycle b a) v
  have hcyc : h.since + tmo ≤ (r.1.islet il.val).cycle :=
    calc h.since + tmo ≤ max x.cycle (h.since + tmo) := Nat.le_max_right ..
      _ = (s1.islet il.val).cycle := by rw [hx1]
      _ ≤ (s1.islet il.val).issueCycle b a := Islet.cycle_le_issueCycle ..
      _ ≤ (r.1.islet il.val).cycle := hpast
  refine ⟨?_, hend, hcyc, complete_wait_gr s1 _ _ _ ht hop, getLsbD_timeoutValue hval, ?_, complete_wait_buoy s1 _ _ _ ht hop⟩
  · rw [exec_buoyWaitTimeout_of_awake hawake, State.buoyTimeout_of_held hheld hbuoy htmo, ← htry]
    rfl
  · rw [toNat_timeoutValue hval]; omega

end Sys2Proof.Machine

/-! PROOFS. 15 R412: the writes of INTC_PEND and INTC_COUNT, and the events that meet them. -/
namespace Sys2Proof.Machine

/-! The bits of a number. -/

theorem bitOf_eq_testBit (n i : Nat) : bitOf n i = n.testBit i := by
  rw [bitOf, Nat.testBit_eq_decide_div_mod_eq, Nat.shiftRight_eq_div_pow, Bool.eq_iff_iff, beq_iff_eq, decide_eq_true_eq]

/-- A write of one bit, taken apart at the bit. -/
theorem putBits_bit (n i : Nat) (v : Bool) : putBits n i i (b2n v) = 2 ^ i * (2 * (n / 2 ^ i / 2) + b2n v) + n % 2 ^ i := by
  have hsplit : n = 2 ^ i * (2 * (n / 2 ^ i / 2)) + n % 2 ^ i + n / 2 ^ i % 2 * 2 ^ i :=
    calc n = 2 ^ i * (2 * (n / 2 ^ i / 2) + n / 2 ^ i % 2) + n % 2 ^ i := by rw [Nat.div_add_mod, Nat.div_add_mod]
      _ = _ := by rw [Nat.mul_add, Nat.add_right_comm, Nat.mul_comm (2 ^ i) (n / 2 ^ i % 2)]
  have hv : b2n v % 2 = b2n v := by cases v <;> rfl
  have hi : i + 1 - i = 1 := by omega
  rw [putBits, bitsOf, hi, Nat.pow_one, hv, Nat.shiftRight_eq_div_pow, Nat.sub_eq_of_eq_add hsplit, Nat.mul_add, Nat.add_right_comm,
    Nat.mul_comm (b2n v)]

/-- A write of one bit holds it and leaves the others. -/
theorem bitOf_putBits_bit (n i j : Nat) (v : Bool) : bitOf (putBits n i i (b2n v)) j = if j = i then v else bitOf n j := by
  rw [putBits_bit, bitOf_eq_testBit, bitOf_eq_testBit, Nat.testBit_two_pow_mul_add _ (Nat.mod_lt _ (Nat.two_pow_pos i))]
  rcases Nat.lt_trichotomy j i with hlt | rfl | hgt
  · simp [hlt, Nat.ne_of_lt hlt]
  · cases v <;> simp [b2n, Nat.testBit_zero]
  · obtain ⟨d, rfl⟩ := Nat.exists_eq_add_of_lt hgt
    have hd : i + d + 1 - i = d + 1 := by omega
    have hhalf : (2 * (n / 2 ^ i / 2) + b2n v) / 2 = n / 2 ^ i / 2 := by
      cases v <;> simp only [b2n, Bool.false_eq_true, if_true, if_false] <;> omega
    rw [if_neg (by omega), if_neg (by omega), hd, Nat.testBit_succ, hhalf, ← Nat.testBit_succ, Nat.testBit_div_two_pow]
    congr 1
    omega

/-- The write of ones to a register of 32 bits clears them (00 R8). -/
theorem bitOf_clear (n : Nat) (v : Word32) {b : Nat} (hb : b < 32) :
    bitOf (n &&& ((2 ^ 32 - 1) ^^^ v.toNat)) b = (bitOf n b && !bitOf v.toNat b) := by
  simp only [bitOf_eq_testBit, Nat.testBit_and, Nat.testBit_xor, Nat.testBit_two_pow_sub_one, hb, decide_true, Bool.true_xor]

/-- A register of 32 bits keeps the bits below 32. -/
theorem bitOf_mod_word (n : Nat) {b : Nat} (hb : b < 32) : bitOf (n % 2 ^ 32) b = bitOf n b := by
  simp only [bitOf_eq_testBit, Nat.testBit_mod_two_pow, hb, decide_true, Bool.true_and]

/-! The bits of the sources in a family of sixteen registers (R410). -/

section srcBit
variable (s : State) (base : Nat)

theorem State.srcBit_of_word (k : Nat) {b : Nat} (hb : b < 32) : s.srcBit base (32 * k + b) = bitOf (s.reg (base + 4 * k)) b := by
  have hk : (32 * k + b) / 32 = k := by omega
  have hm : (32 * k + b) % 32 = b := by omega
  rw [State.srcBit, hk, hm]

theorem State.srcBit_congr {s u : State} {base n : Nat} (h : u.reg (base + 4 * (n / 32)) = s.reg (base + 4 * (n / 32))) :
    u.srcBit base n = s.srcBit base n := by rw [State.srcBit, h, State.srcBit]

theorem State.reg_setSrcBit_ne {n o : Nat} (v : Bool) (h : o ≠ base + 4 * (n / 32)) : (s.setSrcBit base n v).reg o = s.reg o :=
  State.reg_setReg_ne _ _ _ _ h

/-- A source's bit holds what is written to it, and the other sources keep theirs. -/
theorem State.srcBit_setSrcBit (n m : Nat) (v : Bool) : (s.setSrcBit base n v).srcBit base m = if m = n then v else s.srcBit base m := by
  by_cases hw : m / 32 = n / 32
  · have hmn : m % 32 = n % 32 ↔ m = n := by omega
    rw [State.srcBit, State.setSrcBit, hw, State.reg_setReg, bitOf_mod_word _ (Nat.mod_lt _ (by decide)), bitOf_putBits_bit, ← hw,
      State.srcBit]
    simp only [hmn]
  · rw [State.srcBit_congr (s.reg_setSrcBit_ne base v (by omega)), if_neg (by rintro rfl; exact hw rfl)]
end srcBit

theorem lt_of_sourceExists {n : Nat} (h : sourceExists n = true) : n < 512 := by
  simp only [sourceExists, Bool.or_eq_true, Bool.and_eq_true, decide_eq_true_eq, beq_iff_eq] at h
  omega

/-! What a delivery leaves alone: the registers of the sources and the state of the device. -/

/-- From `s` to `u` the device's state stands, and of the registers of R420 from INTC_PEND to INTC_ROUTE only INTC_MISSED may have changed. -/
structure SourcesKept (s u : State) : Prop where
  dev : u.dev = s.dev
  reg : ∀ o, R.INTC_PEND ≤ o → o < R.INTC_PEER_SRC → o ≠ R.INTC_MISSED → u.reg o = s.reg o

section SourcesKept
variable {s u : State}

theorem SourcesKept.of_csr (hd : u.dev = s.dev) (hc : u.csr = s.csr) : SourcesKept s u :=
  ⟨hd, fun _ _ _ _ => by rw [State.reg, hc, State.reg]⟩

theorem SourcesKept.refl (s : State) : SourcesKept s s := ⟨rfl, fun _ _ _ _ => rfl⟩

theorem SourcesKept.trans {w : State} (h : SourcesKept s u) (k : SourcesKept u w) : SourcesKept s w :=
  ⟨k.dev.trans h.dev, fun o h1 h2 h3 => (k.reg o h1 h2 h3).trans (h.reg o h1 h2 h3)⟩

theorem sourcesKept_setReg {o : Nat} (h : o = R.INTC_MISSED ∨ R.INTC_PEER_SRC ≤ o) (v : Nat) : SourcesKept s (s.setReg o v) :=
  ⟨rfl, fun p _ hp hm => State.reg_setReg_ne _ _ _ _ (by omega)⟩

theorem sourcesKept_missed : SourcesKept s (s.inc R.INTC_MISSED) := sourcesKept_setReg (.inl rfl) _

theorem sourcesKept_emit (x : Out) : SourcesKept s (s.emit x) := .of_csr rfl rfl

/-- The registers of the chain lie above those of the controller. -/
theorem chain_above {o : Nat} (h : R.CHAIN_UNROUTABLE ≤ o) : R.INTC_PEER_SRC ≤ o := Nat.le_trans (by decide) h

theorem sourcesKept_sendChunks (p vc : Nat) (l : List (List Byte)) : SourcesKept s (s.sendChunks p vc l) := by
  induction l generalizing s with
  | nil => exact .refl s
  | cons d r ih =>
    cases r with
    | nil => exact .of_csr rfl rfl
    | cons e r => exact SourcesKept.trans (u := s.sendFrame p 1 vc false d) (.of_csr rfl rfl) ih

theorem sourcesKept_transmit (p : Nat) (m : Msg) : SourcesKept s (s.transmit p m) := by
  unfold State.transmit
  refine SourcesKept.trans ?_ (sourcesKept_emit _)
  refine SourcesKept.trans ?_ (sourcesKept_setReg (.inr (chain_above ?_)) _)
  · exact SourcesKept.trans (u := s.setCport p _) (.of_csr rfl rfl) (sourcesKept_sendChunks ..)
  · exact Nat.le_trans (by decide) (Nat.le_add_right R.CHAIN_TX_MSG _)

theorem sourcesKept_sendOn (p : Nat) (m : Msg) : SourcesKept s (s.sendOn p m) := by
  unfold State.sendOn
  dsimp only
  split
  · exact sourcesKept_transmit p m
  · refine SourcesKept.trans (u := s.setCport p _) (.of_csr rfl rfl) (sourcesKept_setReg (.inr (chain_above ?_)) _)
    exact Nat.le_trans (by decide) (Nat.le_add_right R.CHAIN_CREDIT_WAIT _)

theorem sourcesKept_sendMsg (d cls tag : Nat) (payload : List Byte) : SourcesKept s (s.sendMsg d cls tag payload) := by
  unfold State.sendMsg
  split
  · exact SourcesKept.trans (u := s.useSeq d) (.of_csr rfl rfl) (sourcesKept_sendOn _ _)
  · exact sourcesKept_setReg (.inr (chain_above (Nat.le_refl _))) _

theorem sourcesKept_eventMsg (n d : Nat) : SourcesKept s (s.eventMsg n d) := by
  unfold State.eventMsg
  split
  · exact sourcesKept_missed
  · exact sourcesKept_sendMsg _ _ _ _

theorem sourcesKept_msixWrite (v : Nat) : SourcesKept s (s.msixWrite v) := by
  unfold State.msixWrite
  split
  · split
    · exact sourcesKept_setReg (.inr (Nat.le_trans (by decide) (Nat.le_add_right pbaOff _))) _
    · exact sourcesKept_emit _
  · exact sourcesKept_missed

/-- A delivery writes no bit, count or route of a source (R414, R417, R418). -/
theorem sourcesKept_deliver (n : Nat) : SourcesKept s (s.deliver n) := by
  have hmsix : SourcesKept s (if s.fld (R.INTC_ROUTE + 4 * n) R.INTC_ROUTE_msix_en = 1
      then s.msixWrite (s.fld (R.INTC_ROUTE + 4 * n) R.INTC_ROUTE_vector) else s) := by
    split
    · exact sourcesKept_msixWrite _
    · exact .refl s
  unfold State.deliver
  dsimp only
  split
  · exact .refl s
  · split
    · exact hmsix.trans (sourcesKept_eventMsg _ _)
    · exact hmsix

theorem SourcesKept.pendWord (h : SourcesKept s u) {k : Nat} (hk : k < 16) : u.reg (R.INTC_PEND + 4 * k) = s.reg (R.INTC_PEND + 4 * k) := by
  apply h.reg <;> simp only [R.INTC_PEND, R.INTC_PEER_SRC, R.INTC_MISSED] <;> omega

theorem SourcesKept.count (h : SourcesKept s u) {n : Nat} (hn : n < 512) : u.reg (R.INTC_COUNT + 4 * n) = s.reg (R.INTC_COUNT + 4 * n) := by
  apply h.reg <;> simp only [R.INTC_COUNT, R.INTC_PEND, R.INTC_PEER_SRC, R.INTC_MISSED] <;> omega
end SourcesKept

/-! What a delivery reads: the mask, the route and the vector's entry. -/

/-- The MSI-X write of vector `e` (R417). -/
def State.msixOut (s : State) (e : Nat) : Out := .msix e (s.reg64 (R.MSIX + 16 * e)) (s.reg (R.MSIX + 16 * e + 8))

/-- Source `n` is unmasked, and its route leads to the open vector `e` and to no other unit. -/
structure RoutedTo (s : State) (n e : Nat) : Prop where
  unmasked : s.srcBit R.INTC_MASK n = false
  msix : s.fld (R.INTC_ROUTE + 4 * n) R.INTC_ROUTE_msix_en = 1
  noChain : s.fld (R.INTC_ROUTE + 4 * n) R.INTC_ROUTE_chain_en = 0
  vector : s.fld (R.INTC_ROUTE + 4 * n) R.INTC_ROUTE_vector = e
  isOpen : s.vectorOpen e = true

/-- The one output of a delivery on such a route (R414, R417). -/
theorem RoutedTo.out_deliver {s : State} {n e : Nat} (h : RoutedTo s n e) : (s.deliver n).out = s.out ++ [s.msixOut e] := by
  obtain ⟨hm, hx, hc, rfl, hv⟩ := h
  simp only [State.vectorOpen, Bool.and_eq_true, Bool.not_eq_true'] at hv
  obtain ⟨⟨⟨hen, hmaster⟩, hfunc⟩, hvec⟩ := hv
  simp [State.deliver, State.msixWrite, State.msixOut, hm, hx, hc, hen, hmaster, hfunc, hvec]

/-- From `s` to `u` the endpoint stands, and so do the registers from INTC_MASK on but for the counts. -/
structure RoutesKept (s u : State) : Prop where
  ep : u.ep = s.ep
  reg : ∀ o, R.INTC_MASK ≤ o → o < R.INTC_COUNT ∨ R.INTC_ROUTE ≤ o → u.reg o = s.reg o

section RoutesKept
variable {s u : State}

theorem RoutesKept.trans {w : State} (h : RoutesKept s u) (k : RoutesKept u w) : RoutesKept s w :=
  ⟨k.ep.trans h.ep, fun o h1 h2 => (k.reg o h1 h2).trans (h.reg o h1 h2)⟩

/-- A write of a pending register or a count. -/
theorem routesKept_setReg {o : Nat} (h : o < R.INTC_MASK ∨ R.INTC_COUNT ≤ o ∧ o < R.INTC_ROUTE) (v : Nat) : RoutesKept s (s.setReg o v) :=
  ⟨rfl, fun p _ _ => State.reg_setReg_ne _ _ _ _ (by omega)⟩

theorem pendWord_lt_mask {k : Nat} (hk : k < 16) : R.INTC_PEND + 4 * k < R.INTC_MASK := by
  simp only [R.INTC_PEND, R.INTC_MASK]
  omega

theorem count_lt_route {n : Nat} (hn : n < 512) : R.INTC_COUNT + 4 * n < R.INTC_ROUTE := by
  simp only [R.INTC_COUNT, R.INTC_ROUTE]
  omega

/-- The routes and all registers above them stand, those of the host's side among them. -/
theorem RoutesKept.above (h : RoutesKept s u) {o : Nat} (ho : R.INTC_ROUTE ≤ o) : u.reg o = s.reg o :=
  h.reg o (Nat.le_trans (by decide) ho) (.inr ho)

theorem RoutesKept.vector (h : RoutesKept s u) (n : Nat) : u.reg (R.MSIX + n) = s.reg (R.MSIX + n) :=
  h.above (Nat.le_trans (by decide) (Nat.le_add_right R.MSIX n))

theorem RoutesKept.msixOut (h : RoutesKept s u) (e : Nat) : u.msixOut e = s.msixOut e := by
  simp only [State.msixOut, State.reg64, Nat.add_assoc, h.vector]

theorem RoutesKept.vectorOpen (h : RoutesKept s u) (e : Nat) : u.vectorOpen e = s.vectorOpen e := by
  have hlink : u.reg R.HOST_LINK_STATUS = s.reg R.HOST_LINK_STATUS := h.above (by decide)
  simp only [State.vectorOpen, State.canMaster, State.fld, hlink, h.ep, Nat.add_assoc, h.vector]

theorem RoutesKept.routedTo (h : RoutesKept s u) {n e : Nat} (hn : n < 512) (hr : RoutedTo s n e) : RoutedTo u n e := by
  obtain ⟨hm, hx, hc, hv, ho⟩ := hr
  have hmask : u.reg (R.INTC_MASK + 4 * (n / 32)) = s.reg (R.INTC_MASK + 4 * (n / 32)) := by
    refine h.reg _ (Nat.le_add_right ..) (.inl ?_)
    simp only [R.INTC_MASK, R.INTC_COUNT]
    omega
  have hroute (b : Bits) : u.fld (R.INTC_ROUTE + 4 * n) b = s.fld (R.INTC_ROUTE + 4 * n) b := by
    rw [State.fld, h.above (Nat.le_add_right ..), State.fld]
  exact ⟨(State.srcBit_congr hmask).trans hm, (hroute _).trans hx, (hroute _).trans hc, (hroute _).trans hv, (h.vectorOpen e).trans ho⟩
end RoutesKept

/-! An event of a source (R411, R414). -/

theorem State.intcRuns_of_awake {s : State} (h : s.asleep = false) : s.intcRuns = true := by
  simp only [State.asleep, Bool.or_eq_false_iff, decide_eq_false_iff_not] at h
  obtain ⟨⟨⟨hoff, _⟩, hsleep⟩, hstate⟩ := h
  simp [State.intcRuns, hoff, hsleep, hstate]

/-- The state with one more event of source `n` in its count (R411). -/
def State.counted (s : State) (n : Nat) : State := s.setReg (R.INTC_COUNT + 4 * n) (min (s.reg (R.INTC_COUNT + 4 * n) + 1) 255)

section event
variable (s : State) (n : Nat)

theorem State.reg_counted : (s.counted n).reg (R.INTC_COUNT + 4 * n) = min (s.reg (R.INTC_COUNT + 4 * n) + 1) 255 := by
  rw [State.counted, State.reg_setReg]
  omega

theorem State.reg_counted_ne {o : Nat} (h : o ≠ R.INTC_COUNT + 4 * n) : (s.counted n).reg o = s.reg o := State.reg_setReg_ne _ _ _ _ h

theorem pendWord_ne_count {k : Nat} (hk : k < 16) : R.INTC_PEND + 4 * k ≠ R.INTC_COUNT + 4 * n := by
  simp only [R.INTC_PEND, R.INTC_COUNT]
  omega

theorem State.srcBit_pend_counted {m : Nat} (hm : m < 512) : (s.counted n).srcBit R.INTC_PEND m = s.srcBit R.INTC_PEND m :=
  State.srcBit_congr (State.reg_counted_ne _ _ (pendWord_ne_count n (by omega)))

variable {s n}

theorem State.raise_of_missing (h : sourceExists n = false) : s.raise n = s := by simp [State.raise, h]

/-- An event on a source that is pending is counted, and nothing else. -/
theorem State.raise_of_pending (hr : s.intcRuns = true) (hx : sourceExists n = true) (hp : s.srcBit R.INTC_PEND n = true) :
    s.raise n = s.counted n := by
  simp only [State.raise, hr, hx, hp, Bool.and_self, if_true]
  rfl

/-- An event on a source that is not pending is counted, sets the bit and is delivered. -/
theorem State.raise_of_clear (hr : s.intcRuns = true) (hx : sourceExists n = true) (hp : s.srcBit R.INTC_PEND n = false) :
    s.raise n = ((s.counted n).setSrcBit R.INTC_PEND n true).deliver n := by
  simp only [State.raise, hr, hx, hp, Bool.and_self, if_true, Bool.false_eq_true, if_false]
  rfl

/-- The registers of the sources after an event: the count, and the pending bit where it was clear. -/
theorem sourcesKept_raise (hr : s.intcRuns = true) (hx : sourceExists n = true) :
    SourcesKept (if s.srcBit R.INTC_PEND n then s.counted n else (s.counted n).setSrcBit R.INTC_PEND n true) (s.raise n) := by
  cases hp : s.srcBit R.INTC_PEND n with
  | true => rw [State.raise_of_pending hr hx hp]; exact .refl _
  | false => rw [State.raise_of_clear hr hx hp]; exact sourcesKept_deliver n

/-- The controller runs on after an event. -/
theorem State.intcRuns_raise (hr : s.intcRuns = true) (n : Nat) : (s.raise n).intcRuns = true := by
  have hdev : (s.raise n).dev = s.dev := by
    cases hx : sourceExists n with
    | false => rw [State.raise_of_missing hx]
    | true =>
      rw [(sourcesKept_raise hr hx).dev]
      split <;> rfl
  rwa [State.intcRuns, hdev, ← State.intcRuns]

/-- An event sets the pending bit of its source, if that exists, and no other. -/
theorem State.srcBit_pend_raise (hr : s.intcRuns = true) {m : Nat} (hm : m < 512) :
    (s.raise n).srcBit R.INTC_PEND m = ((decide (m = n) && sourceExists m) || s.srcBit R.INTC_PEND m) := by
  cases hx : sourceExists n with
  | false =>
    rw [State.raise_of_missing hx]
    grind
  | true =>
    rw [State.srcBit_congr ((sourcesKept_raise hr hx).pendWord (by omega))]
    split
    · rw [State.srcBit_pend_counted s n hm]
      grind
    · rw [State.srcBit_setSrcBit, State.srcBit_pend_counted s n hm]
      grind

/-- An event leaves the pending registers of the other sources. -/
theorem State.pendWord_raise (hr : s.intcRuns = true) {k : Nat} (hk : k < 16) (hn : n / 32 ≠ k) :
    (s.raise n).reg (R.INTC_PEND + 4 * k) = s.reg (R.INTC_PEND + 4 * k) := by
  cases hx : sourceExists n with
  | false => rw [State.raise_of_missing hx]
  | true =>
    have hc : (s.counted n).reg (R.INTC_PEND + 4 * k) = s.reg (R.INTC_PEND + 4 * k) := State.reg_counted_ne _ _ (pendWord_ne_count n hk)
    rw [(sourcesKept_raise hr hx).pendWord hk]
    split
    · exact hc
    · rw [State.reg_setSrcBit_ne _ _ _ (by omega), hc]

/-- The count after an event of a source that exists (R411). -/
theorem State.count_raise (hr : s.intcRuns = true) (hx : sourceExists n = true) :
    (s.raise n).reg (R.INTC_COUNT + 4 * n) = min (s.reg (R.INTC_COUNT + 4 * n) + 1) 255 := by
  have hn : n < 512 := lt_of_sourceExists hx
  rw [(sourcesKept_raise hr hx).count hn]
  split
  · exact State.reg_counted s n
  · rw [State.reg_setSrcBit_ne _ _ _ (pendWord_ne_count n (by omega)).symm, State.reg_counted]

/-- What leaves the device at an event whose route leads to an open vector: its MSI-X write when the pending bit rises. -/
theorem RoutedTo.out_raise {e : Nat} (hr : s.intcRuns = true) (hx : sourceExists n = true) (h : RoutedTo s n e) :
    (s.raise n).out = if s.srcBit R.INTC_PEND n then s.out else s.out ++ [s.msixOut e] := by
  have hn : n < 512 := lt_of_sourceExists hx
  have hkept : RoutesKept s ((s.counted n).setSrcBit R.INTC_PEND n true) :=
    RoutesKept.trans (u := s.counted n) (routesKept_setReg (.inr ⟨Nat.le_add_right .., count_lt_route hn⟩) _)
      (routesKept_setReg (.inl (pendWord_lt_mask (by omega))) _)
  cases hp : s.srcBit R.INTC_PEND n with
  | true => rw [State.raise_of_pending hr hx hp]; rfl
  | false =>
    rw [State.raise_of_clear hr hx hp, (hkept.routedTo hn h).out_deliver, hkept.msixOut]
    rfl
end event

/-! Several events in one cycle. -/

section raiseAll
variable {s : State}

/-- Events set the pending bits of their sources that exist, and no other. -/
theorem State.srcBit_pend_raiseAll (hr : s.intcRuns = true) {m : Nat} (hm : m < 512) (l : List Nat) :
    (s.raiseAll l).srcBit R.INTC_PEND m = ((decide (m ∈ l) && sourceExists m) || s.srcBit R.INTC_PEND m) := by
  induction l generalizing s with
  | nil => simp [State.raiseAll]
  | cons n r ih =>
    have hrest := ih (State.intcRuns_raise hr n)
    rw [State.srcBit_pend_raise hr hm] at hrest
    rw [State.raiseAll, List.foldl_cons, ← State.raiseAll, hrest]
    simp only [List.mem_cons, Bool.decide_or, Bool.and_or_distrib_right, Bool.or_assoc, Bool.or_left_comm]

/-- Events of the sources of one register leave the other pending registers. -/
theorem State.pendWord_raiseAll (hr : s.intcRuns = true) {k : Nat} (hk : k < 16) {l : List Nat} (hl : ∀ n ∈ l, n / 32 ≠ k) :
    (s.raiseAll l).reg (R.INTC_PEND + 4 * k) = s.reg (R.INTC_PEND + 4 * k) := by
  induction l generalizing s with
  | nil => rfl
  | cons n r ih =>
    rw [List.forall_mem_cons] at hl
    have hrest := ih (State.intcRuns_raise hr n) hl.2
    exact hrest.trans (State.pendWord_raise hr hk hl.1)
end raiseAll

/-! The writes of INTC_PEND_k and INTC_COUNT_n (R412). -/

/-- An INTC_PEND_WRITE, awake. -/
theorem exec_intcPendWrite_of_awake {s : State} (h : s.asleep = false) (k : Fin 16) (v : Word32) (meets : List (Fin 32)) :
    exec (.intcPendWrite k v meets) s = .next (s.pendWrite k.val v (meets.map fun b => 32 * k.val + b.val)) :=
  congrArg Host.Outcome.next (State.whenAwake_of_awake h _)

/-- An INTC_COUNT_WRITE, awake. -/
theorem exec_intcCountWrite_of_awake {s : State} (h : s.asleep = false) (n : Fin 512) (v : Word32) (meets : Bool) :
    exec (.intcCountWrite n v meets) s = .next (s.countWrite n.val v meets) :=
  congrArg Host.Outcome.next (State.whenAwake_of_awake h _)

/-- The state with the pending bits of register `k` cleared where `v` is 1. -/
def State.pendCleared (s : State) (k : Nat) (v : Word32) : State :=
  s.setReg (R.INTC_PEND + 4 * k) (s.reg (R.INTC_PEND + 4 * k) &&& ((2 ^ 32 - 1) ^^^ v.toNat))

/-- The state with the count of source `n` cleared if `v` is 0. -/
def State.countCleared (s : State) (n : Nat) (v : Word32) : State := if v = 0 then s.setReg (R.INTC_COUNT + 4 * n) 0 else s

section writes
variable {s : State}

/-- The write comes first, the events that meet it then find what it left. -/
theorem State.pendWrite_eq (k : Nat) (v : Word32) (meets : List Nat) : s.pendWrite k v meets = (s.pendCleared k v).raiseAll meets := rfl

theorem State.countWrite_eq (n : Nat) (v : Word32) (meets : Bool) :
    s.countWrite n v meets = if meets then (s.countCleared n v).raise n else s.countCleared n v := rfl

theorem State.intcRuns_pendCleared (hr : s.intcRuns = true) (k : Nat) (v : Word32) : (s.pendCleared k v).intcRuns = true := hr
@[simp] theorem State.pendCleared_out (k : Nat) (v : Word32) : (s.pendCleared k v).out = s.out := rfl

theorem State.intcRuns_countCleared (hr : s.intcRuns = true) (n : Nat) (v : Word32) : (s.countCleared n v).intcRuns = true := by
  unfold State.countCleared
  split <;> exact hr

theorem State.countCleared_out (n : Nat) (v : Word32) : (s.countCleared n v).out = s.out := by
  unfold State.countCleared
  split <;> rfl

theorem State.srcBit_pendCleared (k : Nat) (v : Word32) {b : Nat} (hb : b < 32) :
    (s.pendCleared k v).srcBit R.INTC_PEND (32 * k + b) = (s.srcBit R.INTC_PEND (32 * k + b) && !bitOf v.toNat b) := by
  rw [State.srcBit_of_word _ _ _ hb, State.srcBit_of_word _ _ _ hb, State.pendCleared, State.reg_setReg, bitOf_mod_word _ hb,
    bitOf_clear _ _ hb]

theorem State.reg_countCleared (n : Nat) (v : Word32) :
    (s.countCleared n v).reg (R.INTC_COUNT + 4 * n) = if v = 0 then 0 else s.reg (R.INTC_COUNT + 4 * n) := by
  unfold State.countCleared
  split
  · exact State.reg_setReg ..
  · rfl

theorem State.reg_countCleared_ne (n : Nat) (v : Word32) {o : Nat} (h : o ≠ R.INTC_COUNT + 4 * n) : (s.countCleared n v).reg o = s.reg o := by
  unfold State.countCleared
  split
  · exact State.reg_setReg_ne _ _ _ _ h
  · rfl

/-- The bits of the register written: set by an event, else cleared by a 1. -/
theorem State.srcBit_pendWrite (hr : s.intcRuns = true) (k : Fin 16) (v : Word32) (meets : List (Fin 32)) (b : Fin 32) :
    (s.pendWrite k.val v (meets.map fun b => 32 * k.val + b.val)).srcBit R.INTC_PEND (32 * k.val + b.val) =
      ((decide (b ∈ meets) && sourceExists (32 * k.val + b.val)) || (s.srcBit R.INTC_PEND (32 * k.val + b.val) && !bitOf v.toNat b.val)) := by
  have hmem : 32 * k.val + b.val ∈ meets.map (fun b => 32 * k.val + b.val) ↔ b ∈ meets := by
    simp [Fin.val_inj]
  rw [State.pendWrite_eq, State.srcBit_pend_raiseAll (State.intcRuns_pendCleared hr _ v) (by omega), State.srcBit_pendCleared _ _ b.isLt]
  simp only [hmem]

/-- The other pending registers stand. -/
theorem State.pendWord_pendWrite (hr : s.intcRuns = true) {k j : Fin 16} (hj : j ≠ k) (v : Word32) (meets : List (Fin 32)) :
    (s.pendWrite k.val v (meets.map fun b => 32 * k.val + b.val)).reg (R.INTC_PEND + 4 * j.val) = s.reg (R.INTC_PEND + 4 * j.val) := by
  have hne : j.val ≠ k.val := fun h => hj (Fin.ext h)
  have hother : ∀ n ∈ meets.map (fun b => 32 * k.val + b.val), n / 32 ≠ j.val := by
    intro n hn
    obtain ⟨b, -, rfl⟩ := List.mem_map.mp hn
    omega
  rw [State.pendWrite_eq, State.pendWord_raiseAll (State.intcRuns_pendCleared hr _ v) j.isLt hother]
  exact State.reg_setReg_ne _ _ _ _ (by omega)

/-- An event that meets the write is delivered unless its bit was set and is not cleared by the write. -/
theorem RoutedTo.out_pendWrite {e : Nat} (hr : s.intcRuns = true) {k : Fin 16} {b : Fin 32} (hx : sourceExists (32 * k.val + b.val) = true)
    (h : RoutedTo s (32 * k.val + b.val) e) (v : Word32) :
    (s.pendWrite k.val v [32 * k.val + b.val]).out =
      if s.srcBit R.INTC_PEND (32 * k.val + b.val) = true ∧ bitOf v.toNat b.val = false then s.out else s.out ++ [s.msixOut e] := by
  have hkept : RoutesKept s (s.pendCleared k.val v) := routesKept_setReg (.inl (pendWord_lt_mask k.isLt)) _
  have hcleared : RoutedTo (s.pendCleared k.val v) (32 * k.val + b.val) e := hkept.routedTo (lt_of_sourceExists hx) h
  calc (s.pendWrite k.val v [32 * k.val + b.val]).out = ((s.pendCleared k.val v).raise (32 * k.val + b.val)).out := rfl
    _ = _ := by
      rw [hcleared.out_raise (State.intcRuns_pendCleared hr _ v) hx, State.srcBit_pendCleared _ _ b.isLt, hkept.msixOut, State.pendCleared_out]
      simp only [Bool.and_eq_true, Bool.not_eq_true']

theorem State.count_countWrite (hr : s.intcRuns = true) (n : Nat) (v : Word32) (meets : Bool) :
    (s.countWrite n v meets).reg (R.INTC_COUNT + 4 * n) =
      if meets = true ∧ sourceExists n = true then min ((if v = 0 then 0 else s.reg (R.INTC_COUNT + 4 * n)) + 1) 255
      else if v = 0 then 0 else s.reg (R.INTC_COUNT + 4 * n) := by
  have hrun : (s.countCleared n v).intcRuns = true := State.intcRuns_countCleared hr n v
  rw [State.countWrite_eq]
  cases meets with
  | false => simpa using State.reg_countCleared n v
  | true =>
    cases hx : sourceExists n with
    | false => simpa [State.raise_of_missing hx] using State.reg_countCleared n v
    | true => simp [State.count_raise hrun hx, State.reg_countCleared]

/-- An event that meets the write of a count sets the pending bit. -/
theorem State.srcBit_pend_countWrite (hr : s.intcRuns = true) {n : Nat} (hx : sourceExists n = true) (v : Word32) :
    (s.countWrite n v true).srcBit R.INTC_PEND n = true := by
  have hrun : (s.countCleared n v).intcRuns = true := State.intcRuns_countCleared hr n v
  rw [State.countWrite_eq, if_pos rfl, State.srcBit_pend_raise hrun (lt_of_sourceExists hx)]
  simp [hx]
end writes

/-- Settles O33. The write acts first and the events that meet it find what it left: a pending bit it cleared rises and is delivered, a count
it cleared ends at 1. -/
theorem pendingAndCounts : Obligations.PendingAndCounts := by
  unfold Obligations.PendingAndCounts
  intro s hawake
  have hr : s.intcRuns = true := State.intcRuns_of_awake hawake
  refine ⟨fun k v meets => ?_, ?_, fun n v meets => ?_⟩
  · refine ⟨_, exec_intcPendWrite_of_awake hawake k v meets, State.srcBit_pendWrite hr k v meets,
      fun j hj => State.pendWord_pendWrite hr hj v meets, ?_⟩
    rintro rfl
    rfl
  · intro k v b n o e hx hmask hen hchain hopen
    have hroute : RoutedTo s n e := ⟨hmask, hen, hchain, rfl, hopen⟩
    exact ⟨_, exec_intcPendWrite_of_awake hawake k v [b], hroute.out_pendWrite hr hx v⟩
  · refine ⟨_, exec_intcCountWrite_of_awake hawake n v meets, State.count_countWrite hr n.val v meets, ?_, ?_⟩
    · rintro rfl hx
      exact State.srcBit_pend_countWrite hr hx v
    · rintro rfl
      exact ⟨State.countCleared_out n.val v, fun o ho => State.reg_countCleared_ne n.val v ho⟩

end Sys2Proof.Machine
